-- ==== Sys2Proof/Word.lean ====
section
/-! DEFINITION. The word and byte types, and nothing else (R4–R7). -/
namespace Sys2Proof
/-- A byte. -/
abbrev Byte := BitVec 8
/-- A register word: 32 bits, little-endian in memory (R7). -/
abbrev Word := BitVec 32
end Sys2Proof
end

