-- ==== Sys2Proof/Syntax.lean ====
section
/-! DEFINITION. The commands of the block: one constructor for each row of the opcode table, with its operands,
and the types those operands are made of. -/
namespace Sys2Proof
/-- A command descriptor (R47) as it reaches the device, with the port it arrived on and
the submission-ring index it was fetched from (0 on ports without a ring, R72).
Bytes 0–1 (OPCODE) are not a field: the constructor of `Instr` is the opcode. -/
structure Desc where
  /-- arrival port of R63: 0–3 MQ0–MQ3, 5 service UART -/
  port  : Fin 12
  sqi   : BitVec 16
  /-- bytes 2–3 -/
  tag   : BitVec 16
  /-- byte 4, repeats the class -/
  unit  : Byte
  /-- byte 5 -/
  sel   : Byte
  /-- bytes 6–7 -/
  flags : BitVec 16
  /-- bytes 8–11 -/
  inst  : Word
  /-- bytes 12–15 -/
  rsv   : Word
  /-- bytes 16–63 -/
  param : BitVec 384
deriving DecidableEq, Repr
/-- The unit classes that have the lifecycle of R59 (R56). -/
inductive LClass
  | nst | scan | dch | trib | seq | mir | conf
deriving DecidableEq, Repr
/-- Who makes a register access: `_LO` latches and RTC snapshots are kept per requester (R14). -/
inductive Requester
  | host | firmware | service
deriving DecidableEq, Repr
/-- Who writes a register; a write TLP of the host may be poisoned (R328). -/
inductive RegWriter
  | host (poisoned : Bool) | firmware | service
deriving DecidableEq, Repr
/-- One byte of a write request: `none` where its byte enable is clear (R122). -/
abbrev WByte := Option Byte
/-- Retention classes (R82), in the CLASS encoding of R88. -/
inductive RClass | volatile | epoch | latest | constant
deriving DecidableEq, Repr
/-- One segment-table entry (R88). -/
structure Seg where
  cls       : RClass
  sealed    : Bool
  loading   : Bool
  owner     : Fin 16
  retentive : Bool
  prio      : Bool
  loadLost  : Bool
  /-- CRC-32 of a sealed segment, `SEG_QUERY` bytes 12–15 -/
  crc       : BitVec 32
deriving DecidableEq, Repr
/-- Context states (R109). -/
inductive CtxMode | idle | running | closing | paused | abandoned
deriving DecidableEq, Repr
/-- A context record of the metadata delta (R198). -/
structure CtxRec where
  mode : CtxMode
  policy : BitVec 2
  rank : BitVec 4
  opened : Nat
  commit : Nat
  minPeriod : Nat
  wdog : Nat
  bankSeg : Nat
  bankCount : Nat
deriving DecidableEq, Repr
/-- A line as the links carry it: LINE, POISON and the value (ENTRY of R403). -/
structure LineEntry where
  line   : BitVec 32
  poison : BitVec 4
  value  : List Byte
deriving DecidableEq, Repr
inductive Role | solo | primary | standby
deriving DecidableEq, Repr
/-- The HELLO payload (R399). -/
structure Hello where
  uid    : BitVec 64
  role   : Nat
  controlling : Bool
  pair   : Bool
  synced : Bool
  chipid : Nat
  chips  : Nat
  usable : Nat
  pslc   : Nat
  fil    : BitVec 16
  priority : Nat
  pseq   : Nat
  millpond : Nat
deriving DecidableEq, Repr
/-- BODY of an EPOCH_END (R404). -/
inductive PktBody
  | none
  | ctx (c : Nat) (r : CtxRec)
  | seg (first count : Nat) (entry : Seg)
deriving DecidableEq, Repr
/-- The EPOCH_END payload (R404). -/
structure EpochEnd where
  pseq   : Nat
  ctx    : Nat
  kind   : Nat
  sliceLast : Bool
  frames : Nat
  first  : Nat
  body   : PktBody
deriving DecidableEq, Repr
/-- The JOIN payload (R417). -/
structure Join where
  uid    : BitVec 64
  chipid : Nat
  chips  : Nat
  fil    : BitVec 16
  port   : Nat
  home   : BitVec 32
  usable : Nat
deriving DecidableEq, Repr
/-- A link of this chip: a mirror port or a Confluence port. -/
inductive LinkId
  | mir (p : Fin 2)
  | conf (p : Fin 3)
deriving DecidableEq, Repr
/-- The header fields of a received link frame that the port acts on (R397). -/
structure LinkHdr where
  nak    : Bool
  fseq   : BitVec 16
  ackseq : BitVec 16
deriving DecidableEq, Repr
/-- A frame as a tributary port receives it (R345–R347): the PDU bytes, whether the delimiter and the CRC or FCS
check, and on Ethernet the addresses and whether it is an untagged frame of the right EtherType. -/
structure RxFrame where
  pdu   : List Byte
  good  : Bool
  dst   : BitVec 48
  src   : BitVec 48
  plain : Bool
deriving DecidableEq, Repr
/-- The programs of a save (R194), with the time each took in µs. -/
inductive SavePart
  | log (us : Nat) | metadata (us : Nat) | sealA (us : Nat) | sealB (us : Nat)
deriving DecidableEq, Repr
/-- What a read finds of the metadata words of its lines: those that do not correct in the reserve, those that were corrected there,
and the same of the metadata cache, whose words are then read from the reserve (R320, R321, R324). -/
structure MetaRead where
  bad   : BitVec 16
  fixed : BitVec 16
  cacheBad : BitVec 16
  cacheFixed : BitVec 16
deriving DecidableEq, Repr
/-- What the on-die buffer of a write's data shows as the data is read out: words corrected, and whether one does not correct (R320). -/
structure BufRead where
  fixed : Nat
  bad   : Bool
deriving DecidableEq, Repr
/-- What ALERT_n reports: the request it stopped, and whether the error is of its write CRC or of CA parity (R304). -/
structure Alert where
  id       : Nat
  writeCrc : Bool
deriving DecidableEq, Repr
/-- How the read-back of a ledger page went, and how many of its eight groups it corrected (R480, R482). -/
structure ReadBack where
  ok        : Bool
  corrected : Nat
deriving DecidableEq, Repr
/-- What a rail excursion began with (R443). -/
inductive RailBad
  | uv | ov | pg
deriving DecidableEq, Repr
/-- An SMBus transaction as the target sees it: the 7-bit address called, the command byte, whether it is a Read Word (R73),
and whether the host appends the PEC clock. Every other protocol is `word = false`. -/
structure SmbXfer where
  addr : BitVec 7
  code : Byte
  word : Bool
  pec  : Bool
deriving DecidableEq, Repr
/-- A PCIe configuration request (R33, R504): requester, dword of the 4 KiB space, and what a write carries. -/
structure CfgReq where
  req   : BitVec 16
  dword : BitVec 10
  /-- byte enables and value of a write; `none` a read -/
  write : Option (BitVec 4 × Word)
deriving DecidableEq, Repr
/-- Who makes a write on a fabric port (R152): a unit's port, or firmware on FP1 for a command that is named by its port and TAG
(R164, R536). -/
inductive Writer
  | port (fp : Fin 23)
  | firmware (port : Fin 12) (tag : BitVec 16)
deriving DecidableEq, Repr
/-- The commands the block takes: one constructor per row of the opcode table. Each docstring gives the row's rule. -/
inductive Instr
  /-- GLB_IDENTIFY (R38). Command that returns the device ID, the silicon revision, the FIL level and CHIPID. -/
  | glbIdentify (d : Desc)
  /-- AUTH_NARROW (R66). Command that removes authorities from a port's live policy until the next device reset. -/
  | authNarrow (d : Desc)
  /-- AUTH_POLICY_WRITE (R65). Command that stores per-port authority masks in the ledger POLICY area; they become live at the next reset. -/
  | authPolicyWrite (d : Desc)
  /-- GLB_DEVICE_RESET (R510). Command that writes the counters and a checkpoint, runs an ORDERLY save and powers up again. -/
  | glbDeviceReset (d : Desc)
  /-- MBX_QUEUE_CREATE (R67). Command that creates an ABSENT mailbox from a 32 B queue description. -/
  | mbxQueueCreate (d : Desc)
  /-- MBX_QUEUE_DELETE (R67). Command that deletes a mailbox, optionally with ABORT, discarding the completions of its outstanding commands. -/
  | mbxQueueDelete (d : Desc)
  /-- MBX_EVENT_MASK (R53). Command that sets the per-class event mask of the arrival mailbox and returns the previous mask. -/
  | mbxEventMask (d : Desc)
  /-- SVC_BAUD (R70). Command that changes the service UART rate once its completion frame has been sent. -/
  | svcBaud (d : Desc)
  /-- UNIT_QUERY (R61). Command that returns the lifecycle state of every selected instance. -/
  | unitQuery (cc : LClass) (d : Desc)
  /-- UNIT_POWER_UP (R59). Command that powers and clocks an OFF instance and loads its configuration, leaving it STOPPED. -/
  | unitPowerUp (cc : LClass) (d : Desc)
  /-- UNIT_START (R59). Command that checks a STOPPED instance's configuration and makes it RUNNING. -/
  | unitStart (cc : LClass) (d : Desc)
  /-- UNIT_STOP_DRAIN (R59). UNIT_STOP with MODE DRAIN: the instance refuses new work and enters DRAINING. -/
  | unitStopDrain (cc : LClass) (d : Desc)
  /-- UNIT_STOP_ABORT (R59). UNIT_STOP with MODE ABORT: work in flight completes with ST_ABORTED and the instance becomes STOPPED. -/
  | unitStopAbort (cc : LClass) (d : Desc)
  /-- UNIT_CLEAR_FAULT (R59). Command that clears a FAULTED instance's fault record and returns it to STOPPED. -/
  | unitClearFault (cc : LClass) (d : Desc)
  /-- UNIT_POWER_DOWN (R59). Command that removes clock and power from a STOPPED instance, which becomes OFF. -/
  | unitPowerDown (cc : LClass) (d : Desc)
  /-- DRAIN_COMPLETE (R59). The last work in flight of a DRAINING instance ends; the STOP completes with ST_OK. -/
  | drainComplete (u : Fin 50)
  /-- DRAIN_TIMEOUT (R59). A DRAINING instance's drain time-out expires; it acts as ABORT and the STOP completes with ST_TIMEOUT. -/
  | drainTimeout (u : Fin 50)
  /-- UNIT_INTERNAL_FAULT (R59). An internal fault puts a RUNNING or DRAINING instance in FAULTED and raises UNIT_FAULT. -/
  | unitInternalFault (u : Fin 50) (code : Word)
  /-- SEG_QUERY (R107). Command that returns a segment's table entry and the CRC-32 of a sealed segment. -/
  | segQuery (d : Desc)
  /-- SEG_SET_CLASS (R91). Command that checks a run of segments and then, at one instant, sets their class and owner and empties them. -/
  | segSetClass (d : Desc)
  /-- SEG_SET_FLAGS (R93). Command that changes RETENTIVE and PRIO of a run of segments without emptying it. -/
  | segSetFlags (d : Desc)
  /-- SEG_LOAD_BEGIN (R95). Command that opens a CONSTANT segment for loading, optionally with REOPEN. -/
  | segLoadBegin (d : Desc)
  /-- SEG_LOAD (R96). Command that copies 1 B to 1 MiB from a host buffer into an OPEN CONSTANT segment through FP1. -/
  | segLoad (d : Desc) (buf : List Byte) (bad : Option Nat)
  /-- SEG_SEAL (R97). Command that writes the WRITTEN lines of an OPEN segment and its seal marker to NAND and returns the CRC-32. -/
  | segSeal (d : Desc)
  /-- SEG_SHADOW_SET (R77). Command that records a new shadow pool size, effective at the next reset, after checking both bounds. -/
  | segShadowSet (d : Desc)
  /-- WIN_SET (R99). Command that sets a BAR2 window descriptor, in force for TLPs accepted after its completion. -/
  | winSet (d : Desc)
  /-- WIN_QUERY (R107). Command that returns a BAR2 window descriptor. -/
  | winQuery (d : Desc)
  /-- CTX_QUERY (R147). Command that returns a context's open epoch, state, cause and RELEASED bit. -/
  | ctxQuery (d : Desc)
  /-- CTX_CONFIG (R147). Command that sets an IDLE context's policy, rank, period, watchdog and bank. -/
  | ctxConfig (d : Desc)
  /-- CTX_START (R110). Command that arms the watchdog of an IDLE context, makes it RUNNING and activates its layout. -/
  | ctxStart (d : Desc)
  /-- CTX_CLOSE (R132). Command that closes a context's open epoch at the instant firmware executes it. -/
  | ctxClose (d : Desc)
  /-- CTX_PAUSE (R110). Command that pauses a context, closing or discarding its open epoch according to MODE. -/
  | ctxPause (d : Desc)
  /-- CTX_RESUME (R110). Command that returns a PAUSED, or released ABANDONED, context to RUNNING. -/
  | ctxResume (d : Desc)
  /-- CTX_ABANDON (R141). Command that abandons a context's open epoch with cause COMMAND. -/
  | ctxAbandon (d : Desc)
  /-- CTX_STOP (R110). Command that returns a PAUSED or ABANDONED context to IDLE. -/
  | ctxStop (d : Desc)
  /-- CTX_LINE_QUERY (R147). Command that returns a line's metadata word, effective state and effective FLIP. -/
  | ctxLineQuery (d : Desc)
  /-- COPY_CONFIG (R146). Command that sets the copier's BATCH and STALL_LIMIT. -/
  | copyConfig (d : Desc)
  /-- CTX_SWAP (R285). Command that arms a program swap of a context to a new sealed bank, taking effect at its next close. -/
  | ctxSwap (d : Desc)
  /-- CTX_SWAP_TIMEOUT (R280). An armed swap's time-out expires before any close; the swap is disarmed and completes with ST_TIMEOUT. -/
  | ctxSwapTimeout (c : Fin 16)
  /-- WEIR_QUERY (R184). Command that returns the millpond, the fill, the level and the weir flags. -/
  | weirQuery (d : Desc)
  /-- WEIR_CONFIG (R182). Command that sets the reservations, the soft rate, the bucket, the debt limit and the warning limits at one instant. -/
  | weirConfig (d : Desc)
  /-- WEIR_CALIBRATE (R181). Command that writes the triplicated calibration values after checking them against the shadow pool. -/
  | weirCalibrate (d : Desc)
  /-- WEIR_DEBT_CLEAR (R184). Command that clears the endurance debt and records the cleared value in the ledger. -/
  | weirDebtClear (d : Desc)
  /-- SLU_QUERY (R218). Command that returns SLU_LAST and SLU_STAT. -/
  | sluQuery (d : Desc)
  /-- SLU_CONFIG (R218). Command that stores the restore mode and the policies, effective at the next restore. -/
  | sluConfig (d : Desc)
  /-- SLU_DETECT_SET (R218). Command that sets the VIN trip and good thresholds and the detection filters. -/
  | sluDetectSet (d : Desc)
  /-- SLU_SAVE_TEST (R218). Command that starts a save with cause TEST 1 ms after its completion. -/
  | sluSaveTest (d : Desc)
  /-- SLU_SHUTDOWN (R218). Command that starts a save with cause ORDERLY 1 ms after its completion. -/
  | sluShutdown (d : Desc)
  /-- SLU_PREFETCH (R213). Command that queues a run of segments for the restore stream and completes when they are in. -/
  | sluPrefetch (d : Desc)
  /-- NST_QUERY (R257). Command that returns a NAND channel's status, bad blocks, erase count and rate. -/
  | nstQuery (d : Desc)
  /-- NST_EVACUATE (R253). Command that moves everything movable off a NAND channel. -/
  | nstEvacuate (d : Desc)
  /-- SEEP_CONFIG (R257). Command that sets the seep's age, merge, audit, refresh and journal parameters. -/
  | seepConfig (d : Desc)
  /-- SEEP_AUDIT_START (R257). Command that restarts the current audit pass from its beginning. -/
  | seepAuditStart (d : Desc)
  /-- NST_FORMAT (R257). Command that erases the store and writes new rings, a root and the anchors. -/
  | nstFormat (d : Desc)
  /-- SCAN_CONFIG (R284). Command that sets which contexts are served with timers and edge planes. -/
  | scanConfig (d : Desc)
  /-- SCAN_QUERY (R284). Command that returns the cells, the planes and the queued passes. -/
  | scanQuery (d : Desc)
  /-- SCAN_LAYOUT_CHECK (R284). Command that applies the layout rules to a bank without activating it. -/
  | scanLayoutCheck (d : Desc)
  /-- DCH_QUERY (R318). Command that returns a DRAM channel's rank states, migration pointer and status. -/
  | dchQuery (d : Desc)
  /-- DCH_CONFIG (R318). Command that sets a STOPPED channel's write CRC, DBI, refresh mode, migration rate and timings. -/
  | dchConfig (d : Desc)
  /-- DCH_POP_SET (R290). Command that stores the DRAM population, effective at the next reset. -/
  | dchPopSet (d : Desc)
  /-- DCH_MAP_SET (R293). Command that stores the channel and bank mapping masks, effective at the next reset. -/
  | dchMapSet (d : Desc)
  /-- DCH_RANK_RETIRE (R308). Command that starts migrating a rank onto its channel's spare. -/
  | dchRankRetire (d : Desc)
  /-- FAB_PORT_SET (R318). Command that sets a fabric port's latency target and panic thresholds. -/
  | fabPortSet (d : Desc)
  /-- FAB_QUERY (R318). Command that returns a port's configuration and its latency, clearing the latency. -/
  | fabQuery (d : Desc)
  /-- ERR_QUERY (R337). Command that returns a leaky bucket and the vote status. -/
  | errQuery (d : Desc)
  /-- ERR_CONFIG (R337). Command that sets the bucket interval, THRESH and RETIRE. -/
  | errConfig (d : Desc)
  /-- ERR_INJECT (R337). Command that injects a DRAM error or a poisoned granule at an address. -/
  | errInject (d : Desc)
  /-- ERR_BKT_RESET (R337). Command that resets one leaky bucket, or all of them. -/
  | errBktReset (d : Desc)
  /-- TRIB_CONFIG (R371). Command that sets a STOPPED tributary port's personality, timing, blocks and addresses. -/
  | tribConfig (d : Desc)
  /-- TRIB_MOD_SET (R371). Command that sets a module entry's enable, policies and expected identity. -/
  | tribModSet (d : Desc)
  /-- TRIB_MOD_ENABLE (R344). Command that enables or disables a module address on a RUNNING port. -/
  | tribModEnable (d : Desc)
  /-- TRIB_ROLLCALL (R354). Command that starts a roll-call on a port and completes once it has been handled. -/
  | tribRollcall (d : Desc)
  /-- TRIB_MOD_QUERY (R371). Command that returns a module entry and its vendor and product. -/
  | tribModQuery (d : Desc)
  /-- TRIB_MDIO (R341). Command that makes a Clause 22 MDIO read or write to a port's PHY. -/
  | tribMdio (d : Desc)
  /-- SEQ_CONFIG (R394). Command that sets a sequencer's image segment and parameter window. -/
  | seqConfig (d : Desc)
  /-- SEQ_QUERY (R394). Command that returns a sequencer's status and the ID of its loaded image. -/
  | seqQuery (d : Desc)
  /-- MIR_CONFIG (R414). Command that sets the mirror priority, pairing, silence time and resync rate. -/
  | mirConfig (d : Desc)
  /-- MIR_QUERY (R414). Command that returns MIR_STAT and the last PSEQ. -/
  | mirQuery (d : Desc)
  /-- MIR_SWITCH (R412). Command that makes a planned handover, or with FORCE a forced switchover. -/
  | mirSwitch (d : Desc)
  /-- MIR_RESYNC (R409). Command that starts a full resynchronisation of the partner. -/
  | mirResync (d : Desc)
  /-- CONF_QUERY (R437). Command that returns CONF_STAT and CONF_HOME. -/
  | confQuery (d : Desc)
  /-- CONF_CONFIG (R437). Command that stores the chip count, the formation time-out and the home map, effective at the next reset. -/
  | confConfig (d : Desc)
  /-- BOOT_CONF_CHIPS (R419). BOOT-class command that writes the expected chip count to the ledger in any state. -/
  | bootConfChips (d : Desc)
  /-- PWR_QUERY (R466). Command that returns the sequencer status, the rail faults and the bank voltage. -/
  | pwrQuery (d : Desc)
  /-- PWR_RAIL_QUERY (R466). Command that returns one rail's status and reading. -/
  | pwrRailQuery (d : Desc)
  /-- PWR_TABLE_WRITE (R464). Command that stores a valid rail table in the ledger, effective at the next power-up. -/
  | pwrTableWrite (d : Desc) (buf : List Byte)
  /-- PWR_TABLE_READ (R466). Command that copies the rail table in force, or the stored one, to a buffer. -/
  | pwrTableRead (d : Desc)
  /-- PWR_GROUP (R466). Command that sequences a rail group on or shuts it down. -/
  | pwrGroup (d : Desc)
  /-- PWR_LATCH_CLEAR (R447). Command that clears the LATCHED_OFF state so that a RECOVERY sequence can start. -/
  | pwrLatchClear (d : Desc)
  /-- PWR_HUB_MEASURE (R457). Command that starts a hold-up bank measurement and completes when it is recorded. -/
  | pwrHubMeasure (d : Desc)
  /-- PWR_CYCLE (R466). Command that starts an ORDERLY save and then powers up in NORMAL or TEST mode. -/
  | pwrCycle (d : Desc)
  /-- BKD_TIME_GET (R495). Command that returns the time in the snapshot layout. -/
  | bkdTimeGet (d : Desc)
  /-- BKD_TIME_SET (R476). Command that halts the clock, writes the time and releases it, returning T_h. -/
  | bkdTimeSet (d : Desc)
  /-- BKD_ALARM_SET (R477). Command that sets the alarm fields, the mask, ARM and PWRON_EN. -/
  | bkdAlarmSet (d : Desc)
  /-- BKD_ALARM_ACK (R479). Command that clears the PWRON latch, FIRED and ALM_SKIPPED. -/
  | bkdAlarmAck (d : Desc)
  /-- BKD_SWO_CLEAR (R470). Command that re-arms the switch-over stamp and returns the old stamp. -/
  | bkdSwoClear (d : Desc)
  /-- LDG_QUERY (R495). Command that returns the ledger status, the event count and whether a tag is present. -/
  | ldgQuery (d : Desc)
  /-- LDG_TAG_WRITE (R489). Command that writes the user identity tag record. -/
  | ldgTagWrite (d : Desc) (buf : List Byte)
  /-- LDG_TAG_READ (R495). Command that reads the user identity tag record. -/
  | ldgTagRead (d : Desc)
  /-- LDG_EVENT_READ (R490). Command that reads power-event records, newest first. -/
  | ldgEventRead (d : Desc)
  /-- LDG_USER_APPEND (R490). Command that appends a record to a user log ring. -/
  | ldgUserAppend (d : Desc) (buf : List Byte)
  /-- LDG_USER_READ (R495). Command that reads a record from a user log ring. -/
  | ldgUserRead (d : Desc)
  /-- LDG_RAW_READ (R483). Command that reads raw ledger bytes. -/
  | ldgRawRead (d : Desc)
  /-- LDG_RAW_WRITE (R483). Command that read-modify-writes 1 to 64 raw bytes of one ledger page. -/
  | ldgRawWrite (d : Desc) (buf : List Byte)
  /-- BOOT_LOAD (R502). Boot ROM command that loads part of a firmware image over the service port. -/
  | bootLoad (d : Desc) (buf : List Byte)
  /-- BOOT_RUN (R502). Boot ROM command that verifies the loaded image and starts it. -/
  | bootRun (d : Desc)
  /-- BOOT_FW_UPDATE (R503). Command that verifies a new image and writes both NAND boot copies in turn. -/
  | bootFwUpdate (d : Desc) (buf : List Byte)
  /-- BOOT_FW_QUERY (R512). Command that returns GLB_BOOT_STAT and GLB_FW_SEQ. -/
  | bootFwQuery (d : Desc)
  /-- BOOT_KEY_REVOKE (R512). Command that blows the fuse revoking a firmware key slot. -/
  | bootKeyRevoke (d : Desc)
  /-- BOOT_RESET (R508). Command that makes a core reset in BOOT or HALTED. -/
  | bootReset (d : Desc)
  /-- ADD (R379). Sequencer instruction rd := rs + rt. -/
  | add (n : Fin 12)
  /-- SUB (R379). Sequencer instruction rd := rs - rt. -/
  | sub (n : Fin 12)
  /-- AND (R379). Sequencer bitwise AND of two registers. -/
  | and (n : Fin 12)
  /-- OR (R379). Sequencer bitwise OR of two registers. -/
  | or (n : Fin 12)
  /-- XOR (R379). Sequencer bitwise XOR of two registers. -/
  | xor (n : Fin 12)
  /-- SHL (R379). Sequencer shift left by a register amount. -/
  | shl (n : Fin 12)
  /-- SHR (R379). Sequencer logical shift right by a register amount. -/
  | shr (n : Fin 12)
  /-- ADDI (R379). Sequencer add of an immediate. -/
  | addi (n : Fin 12)
  /-- ANDI (R379). Sequencer AND with a zero-extended immediate. -/
  | andi (n : Fin 12)
  /-- ORI (R379). Sequencer OR with a zero-extended immediate. -/
  | ori (n : Fin 12)
  /-- XORI (R379). Sequencer XOR with a zero-extended immediate. -/
  | xori (n : Fin 12)
  /-- SHLI (R379). Sequencer shift left by an immediate. -/
  | shli (n : Fin 12)
  /-- SHRI (R379). Sequencer logical shift right by an immediate. -/
  | shri (n : Fin 12)
  /-- LI (R379). Sequencer load of an immediate into a register. -/
  | li (n : Fin 12)
  /-- LDW (R379). Sequencer load of an aligned data-memory word. -/
  | ldw (n : Fin 12)
  /-- LDB (R379). Sequencer load of a data-memory byte, zero-extended. -/
  | ldb (n : Fin 12)
  /-- STW (R379). Sequencer store of an aligned data-memory word. -/
  | stw (n : Fin 12)
  /-- STB (R379). Sequencer store of a data-memory byte. -/
  | stb (n : Fin 12)
  /-- BEQ (R379). Sequencer branch if equal. -/
  | beq (n : Fin 12)
  /-- BNE (R379). Sequencer branch if not equal. -/
  | bne (n : Fin 12)
  /-- BLTU (R379). Sequencer branch if below, unsigned. -/
  | bltu (n : Fin 12)
  /-- BGEU (R379). Sequencer branch if at or above, unsigned. -/
  | bgeu (n : Fin 12)
  /-- JMP (R379). Sequencer jump to an absolute target. -/
  | jmp (n : Fin 12)
  /-- CALL (R379). Sequencer jump that writes the link register. -/
  | call (n : Fin 12)
  /-- JR (R379). Sequencer jump to a register address. -/
  | jr (n : Fin 12)
  /-- CHK (R379). Sequencer bound check against an immediate, trapping BOUND. -/
  | chk (n : Fin 12)
  /-- CHKR (R379). Sequencer bound check against a register, trapping BOUND. -/
  | chkr (n : Fin 12)
  /-- LCFG (R380). Sequencer instruction that sets the character framing at the next character boundary. -/
  | lcfg (n : Fin 12)
  /-- LDIV (R380). Sequencer instruction that sets the bit time. -/
  | ldiv (n : Fin 12)
  /-- SEND (R379). Sequencer instruction that queues a character for transmission, waiting while the queue is full. -/
  | send (n : Fin 12)
  /-- RECV (R381). Sequencer instruction that takes a received character, waiting up to a time-out. -/
  | recv (n : Fin 12)
  /-- DE (R379). Sequencer instruction that sets TRIBn_DE. -/
  | de (n : Fin 12)
  /-- DRAIN (R379). Sequencer instruction that waits until the transmit queue is empty. -/
  | seqDrain (n : Fin 12)
  /-- WEDGE (R379). Sequencer instruction that waits for an edge on TRIBn_RXD, up to a time-out. -/
  | wedge (n : Fin 12)
  /-- WAIT (R379). Sequencer instruction that waits a number of cycles. -/
  | seqWait (n : Fin 12)
  /-- TXL (R379). Sequencer instruction that drives the TXD level after a drain. -/
  | txl (n : Fin 12)
  /-- RXL (R379). Sequencer instruction that reads the synchronised RXD level. -/
  | rxl (n : Fin 12) (level : Bool)
  /-- ISTB (R383). Sequencer store of a byte into staging. -/
  | istb (n : Fin 12)
  /-- ISTW (R383). Sequencer store of a word into staging. -/
  | istw (n : Fin 12)
  /-- IPUB (R383). Sequencer instruction that publishes staging as a module's input update. -/
  | ipub (n : Fin 12)
  /-- OSEL (R384). Sequencer instruction that selects and holds a module's newest output image and returns its status. -/
  | osel (n : Fin 12)
  /-- OLDB (R384). Sequencer read of a byte of the selected output image. -/
  | oldb (n : Fin 12)
  /-- OLDW (R384). Sequencer read of a word of the selected output image. -/
  | oldw (n : Fin 12)
  /-- OACK (R384). Sequencer instruction that records the selected image's PUB_SEQ as OUT_ACK. -/
  | oack (n : Fin 12)
  /-- MLD (R386). Sequencer read of a word of the parameter window in working memory. -/
  | mld (n : Fin 12)
  /-- MARR (R385). Sequencer instruction that declares a module arrived, with its identity record. -/
  | marr (n : Fin 12)
  /-- MDEP (R385). Sequencer instruction that declares a module departed. -/
  | mdep (n : Fin 12)
  /-- MQRY (R379). Sequencer read of a module-table entry. -/
  | mqry (n : Fin 12)
  /-- MFS (R382). Sequencer read of a special register. -/
  | mfs (n : Fin 12)
  /-- HALT (R388). Sequencer instruction that makes a clean stop when STOPREQ is set, and otherwise traps USER. -/
  | halt (n : Fin 12)
  /-- NOP (R379). Sequencer instruction with no effect. -/
  | nop (n : Fin 12)
  /-- SEQ_WAIT_END (R376). A waiting sequencer instruction ends, when its condition is met or it times out. -/
  | seqWaitEnd (n : Fin 12) (timeout : Bool) (cycles : Word)
  /-- SEQ_EXEC_BEGIN (R375). Sequencer execution begins at ENTRY with its registers cleared. -/
  | seqExecBegin (n : Fin 12)
  /-- LINE_CHAR_RECEIVED (R381). The line engine receives a whole character into the sequencer's receiver. -/
  | lineCharReceived (n : Fin 12) (c : BitVec 9) (parity framing brk whileDe : Bool)
  /-- LINE_CHAR_SENT (R380). The line engine finishes sending a character and takes the next from the transmit queue. -/
  | lineCharSent (n : Fin 12)
  /-- MQ_SQ_TAIL (R44). Doorbell write of a submission tail; pending entries are taken modulo the ring size. -/
  | mqSqTail (mq : Fin 4) (v : Word)
  /-- MQ_CQ_HEAD (R54). Doorbell write of the completion head; it frees slots and re-arms the vector. -/
  | mqCqHead (mq : Fin 4) (v : Word)
  /-- MQ_EQ_HEAD (R54). Doorbell write of the event head; it frees entries and re-arms the vector. -/
  | mqEqHead (mq : Fin 4) (v : Word)
  /-- MBX_BOOT_ADDR_LO (R39). Doorbell write of the low half of the MQ0 setup block address. -/
  | mbxBootAddrLo (v : Word)
  /-- MBX_BOOT_ADDR_HI (R39). Doorbell write of the high half of the setup address, which starts MQ0 setup. -/
  | mbxBootAddrHi (v : Word)
  /-- MBX_SETUP_READ_DONE (R39). The DMA read of the setup block completes; MQ0 becomes ACTIVE, or setup fails with a reason. -/
  | mbxSetupReadDone (block : Option (BitVec 512))
  /-- DESCRIPTOR_FETCH (R41). The device fetches a descriptor in ring order and checks and dispatches it. -/
  | descriptorFetch (mq : Fin 4) (raw : BitVec 512)
  /-- COMPLETION_WRITE (R42). A finished command's completion entry is written into a free completion slot. -/
  | completionWrite (mb : Fin 5) (tag : BitVec 16)
  /-- MQ_DMA_FAIL (R45). A DMA access to a mailbox's rings fails and the mailbox becomes HALTED. -/
  | mqDmaFail (mq : Fin 4)
  /-- CTXD_CLOSE (R134). Context doorbell write, checked in order; it closes the epoch or is rejected with a reason. -/
  | ctxdClose (ws : List (Fin 16 × Word))
  /-- MSIX_TABLE_WRITE (R55). A host write to an MSI-X table entry. -/
  | msixTableWrite (off : BitVec 10) (v : Word)
  /-- RC_READ (R11). A read of an RC register returns its value and clears it. -/
  | rcRead (who : Requester) (off : BitVec 24)
  /-- LO_HALF_READ (R14). A read of a _LO register latches the matching _HI value for that requester. -/
  | loHalfRead (who : Requester) (off : BitVec 24)
  /-- ALIAS_READ (R37). A read through a group or broadcast alias returns the lowest member and may set GLB_ALIAS_STAT.DIFF. -/
  | aliasRead (who : Requester) (off : BitVec 24)
  /-- REGISTER_WRITE (R8). A write to any register with no row of its own, W1C clears included, under the access codes. -/
  | registerWrite (who : RegWriter) (off : BitVec 24) (v : Word)
  /-- RTC_SEC_READ (R474). A read of RTC_SEC latches the whole time copy into the requester's snapshot. -/
  | rtcSecRead (who : Requester)
  /-- RTC_HALT_WRITE (R476). A write of RTC_CTRL.HALT stops counting, or releases the clock after checking the date. -/
  | rtcHaltWrite (who : Requester) (halt : Bool)
  /-- ALARM_ARM_WRITE (R477). A write of ALM_CTRL.ARMED arms the alarm and clears FIRED. -/
  | alarmArmWrite (who : Requester) (arm : Bool)
  /-- SVC_FRAME (R71). A whole frame is received on the service UART, checked in order and served. -/
  | svcFrame (frame : List Byte)
  /-- SVC_FRAME_TIMEOUT (R72). A gap of more than 10 ms between two bytes of a frame; an error frame is sent. -/
  | svcFrameTimeout
  /-- SVC_EN_CHANGE (R64). SVC_EN changes level after its 1 ms filter, granting or removing MAINTAIN on the service port. -/
  | svcEnChange (level : Bool)
  /-- SMBUS_READ_WORD (R73). An SMBus Read Word transaction returns a telemetry word. -/
  | smbusReadWord (x : SmbXfer)
  /-- TELEMETRY_REFRESH (R74). Every 100 ms the telemetry values are refreshed. -/
  | telemetryRefresh (junction power : BitVec 16)
  /-- BAR2_WRITE (R100). A host write TLP to BAR2 is translated, checked and accepted, or trapped. -/
  | bar2Write (off : BitVec 36) (req : BitVec 16) (bytes : List WByte) (poison : Bool)
  /-- BAR2_READ (R100). A host read TLP to BAR2 is translated, checked and served, or trapped. -/
  | bar2Read (off : BitVec 36) (req : BitVec 16) (len : Nat)
  /-- CONFIG_REQUEST (R504). A PCIe configuration request, answered with retry status until firmware is ready. -/
  | configRequest (r : CfgReq)
  /-- FABRIC_WRITE_ACCEPT (R150). A fabric-port write is accepted and provisionally charged, or waits. -/
  | fabricWriteAccept (who : Writer) (addr : BitVec 40) (bytes : List WByte) (buf : BufRead)
  /-- LINE_WRITE_APPLY (R123). An accepted write is applied to a line, moving its state. -/
  | lineWriteApply (fp : Fin 23)
  /-- FABRIC_READ (R125). A read of a line is served according to its effective state. -/
  | fabricRead (fp : Fin 23) (addr : BitVec 40) (len : Nat) (words : MetaRead) (ue : BitVec 512)
  /-- WEIR_ADMIT (R161). Each cycle the weir considers waiting writes in release order and admits those that fit. -/
  | weirAdmit
  /-- WEIR_RECOMPUTE (R156). Every 1 ms the weir recomputes the millpond from measured inputs. -/
  | weirRecompute
  /-- SOFT_BUCKET_REFILL (R166). The host soft token bucket refills at its rate. -/
  | softBucketRefill (us : Nat)
  /-- CLEAN_BUCKET_REFILL (R172). The cleaning token bucket refills, repaying debt first. -/
  | cleanBucketRefill (us : Nat)
  /-- WEIR_DRY_HOLD (R168). A dry hold lasts 10 ms and the event is raised. -/
  | weirDryHold
  /-- WEIR_LEDGER_RECORD (R175). Hourly, or on a 1 GiB debt change, the bucket and the debt are recorded in the ledger. -/
  | weirLedgerRecord
  /-- COPY_BATCH (R129). The copier serves one batch of copies for the next context in turn. -/
  | copyBatch
  /-- COPY_DONE (R123). A copy-before-write completes and the waiting write is applied. -/
  | copyDone (line : Nat)
  /-- SETTLE (R123). The copier settles a COMMITTED (FLIP) line by copying the shadow value home. -/
  | settle (line : Nat)
  /-- COPY_STALL_LONG (R148). A write waits for a copy longer than STALL_LIMIT. -/
  | copyStallLong (fp : Fin 23)
  /-- CLOSING_END (R138). Close bookkeeping completes and the context returns to its state, recording CTX_CLOSE_LAT. -/
  | closingEnd (c : Fin 16)
  /-- DEFERRED_CLOSE_TAKEN (R119). A close deferred by aging is taken once aging completes. -/
  | deferredCloseTaken (c : Fin 16)
  /-- AGING_VISIT (R118). Background aging rewrites one line's stored state to its effective state. -/
  | agingVisit (c : Fin 16) (line : Nat)
  /-- AGING_DONE (R118). Aging of a stamp finishes and its discard bit clears. -/
  | agingDone (c : Fin 16)
  /-- CTX_WATCHDOG_EXPIRE (R140). A RUNNING context makes no close within CTX_WDOG and its epoch is abandoned. -/
  | ctxWatchdogExpire (c : Fin 16)
  /-- VIN_TRIP (R186). VIN_SENSE stays below TRIP for its filter time: cause VIN. -/
  | vinTrip (mv : Nat)
  /-- PFAIL_IN_ASSERT (R186). PFAIL_IN# stays low for its filter time plus deglitch: cause PFAIL_IN. -/
  | pfailInAssert
  /-- PFAIL_EXTERNAL (R186). PFAIL# is held low by another device for 50 ns: cause EXTERNAL. -/
  | pfailExternal
  /-- REFCLK_LOSS (R32). No REFCLK edge for 2 µs: holdover and a save with cause CLOCK. -/
  | refclkLoss
  /-- INTERNAL_UE (R320). An uncorrectable error in firmware memory halts firmware and starts an INTERNAL save. -/
  | internalUe (staging : Bool)
  /-- SAVE_T0 (R190). PFAIL# is driven low: SAVING, every epoch abandoned, shed rails disabled. -/
  | saveT0
  /-- QUIESCE_DONE (R193). At Q every source has stopped and the save set is fixed. -/
  | quiesceDone
  /-- SAVE_PROGRAM_DONE (R194). A save-log, metadata or seal program reports its result and the sluice proceeds. -/
  | saveProgramDone (part : SavePart) (ok : Bool)
  /-- SAVE_BANK_FLOOR (R201). The bank falls to its floor before S and the save ends without a seal. -/
  | saveBankFloor
  /-- INPUT_GOOD (R204). The input holds good for RESUME_FILT. -/
  | inputGood
  /-- RESUME_READY (R206). A resume without restore reaches READY, releases PFAIL# and restarts units. -/
  | resumeReady
  /-- ANCHOR_VOTE_DONE (R209). The anchor vote finds the root and restore starts. -/
  | anchorVoteDone
  /-- RESTORE_AREA_READY (R209). The next area is ready and GLB_STATE becomes RESTORE. -/
  | restoreAreaReady
  /-- SEGMENT_BUILD (R210). An unbuilt segment's line metadata is built from its presence maps. -/
  | segmentBuild (seg : Nat)
  /-- RESTORE_SEGMENT_IN (R213). The stream finishes bringing one segment in. -/
  | restoreSegmentIn (seg : Nat)
  /-- DEMAND_FAULT_DONE (R214). A demand fault fill completes and the waiting access proceeds. -/
  | demandFaultDone (line : Nat) (bad : Bool)
  /-- NAND_OP_DONE (R222). A NAND program, read or erase completes after `us` µs; of a read, the bit errors of each codeword at the
  last retry level that was tried, and how many levels were (R242, R243). -/
  | nandOpDone (ch : Fin 16) (ok : Bool) (us : Nat) (errors : List Nat) (retries : Nat)
  /-- NAND_OP_TIMEOUT (R222). A NAND operation exceeds twice its NCFG maximum: a channel fault. -/
  | nandOpTimeout (ch : Fin 16)
  /-- NST_CHANNEL_RESTART (R254). Firmware makes a restart attempt on a FAULTED NAND channel. -/
  | nstChannelRestart (ch : Fin 16) (ok : Bool)
  /-- JOURNAL_PAGE_ISSUE (R247). A journal page is issued when it is full or 1 ms after its first slot was filled. -/
  | journalPageIssue
  /-- SEEP_MERGE (R249). The seep merges a segment into a new image. -/
  | seepMerge (seg : Nat)
  /-- CHECKPOINT_WRITE (R239). The seep writes a checkpoint. -/
  | checkpointWrite
  /-- AREA_READY (R236). The seep readies the next generation area. -/
  | areaReady
  /-- RING_ROTATE (R231). A full ring block is rotated to new blocks and the anchor rewritten. -/
  | ringRotate
  /-- STATIC_SPREAD (R245). The seep rewrites an image to even out erase counts. -/
  | staticSpread (lun : Nat)
  /-- AUDIT_LINE (R251). The audit pass reads one retained line and fixes or poisons it. -/
  | auditLine (fixed bad : BitVec 4)
  /-- AUDIT_PAGE (R252). The audit pass reads one live NAND page: bit errors of each codeword, retry levels tried. -/
  | auditPage (errors : List Nat) (retries : Nat)
  /-- SCAN_PASS_START (R262). A queued scan pass starts. -/
  | scanPassStart
  /-- SCAN_LINE_VISIT (R263). A scan pass visits and writes one carry, edge or timer line. -/
  | scanLineVisit
  /-- OUTPUT_CAPTURE (R363). A published output block is captured after its close. -/
  | outputCapture (n : Fin 12)
  /-- DCH_COMMAND_SLOT (R302). In each command slot a channel chooses its next DRAM command. -/
  | dchCommandSlot (ch : Fin 4)
  /-- DRAM_REQUEST_DONE (R294). A DRAM request completes. -/
  | dramRequestDone (ch : Fin 4) (id : Nat) (corrected : Nat) (uncorrectable : BitVec 8)
  /-- REFRESH_DUE (R306). tREFI expires for a rank and a refresh is due. -/
  | refreshDue (ch : Fin 4) (rank : Fin 3)
  /-- DRAM_TEMP_READ (R306). Every 32 ms the rank temperature is read and the refresh mode chosen. -/
  | dramTempRead (ch : Fin 4) (reported hot : Bool)
  /-- ZQCS_DUE (R307). Every 128 ms ZQCS is issued to each rank. -/
  | zqcsDue (ch : Fin 4)
  /-- DQS_RECENTRE (R307). Every 1 s read DQS is re-centred. -/
  | dqsRecentre (ch : Fin 4)
  /-- ALERT_N (R304). ALERT_n reports a CA parity or write-CRC error, and the channel replays or resends. -/
  | alertN (ch : Fin 4) (event : Alert)
  /-- DCH_RESPONSE_TIMEOUT (R315). A 10 µs response time-out faults a channel. -/
  | dchResponseTimeout (ch : Fin 4)
  /-- DCH_RESTART_ATTEMPT (R315). Firmware resets and retrains a FAULTED DRAM channel. -/
  | dchRestartAttempt (ch : Fin 4) (ok : Bool)
  /-- MIGRATION_LINE (R309). Migration moves one line of a retiring rank to the spare. -/
  | migrationLine (ch : Fin 4) (unreadable : BitVec 4)
  /-- FAB_PANIC (R301). A real-time port raises or drops panic on its staging fill. -/
  | fabPanic (fp : Fin 23) (fill : Nat)
  /-- BUCKET_TICK (R335). The common leaky-bucket tick subtracts 1 from every non-zero counter. -/
  | bucketTick
  /-- VOTE_REPAIR (R333). At the first READY, copies that differ from the vote are rewritten. -/
  | voteRepair
  /-- POLL_CYCLE_START (R351). A tributary poll cycle starts. -/
  | pollCycleStart (n : Fin 12)
  /-- POLL (R352). The port sends a POLL to one module. -/
  | poll (n : Fin 12)
  /-- DATA (R353). A DATA reply is received whole and its input stored. -/
  | dataReply (n : Fin 12) (f : RxFrame)
  /-- REPLY_TIMEOUT (R353). RESP_TO expires without a reply, counting a miss. -/
  | replyTimeout (n : Fin 12) (a : Fin 255)
  /-- IDENTIFY (R354). A roll-call falls due and IDENTIFY is sent. -/
  | identify (n : Fin 12)
  /-- CLAIM (R354). A CLAIM from a module is received. -/
  | claim (n : Fin 12) (f : RxFrame)
  /-- ROLLCALL_WINDOW_CLOSE (R355). The roll-call window closes and the CLAIMs are handled in order. -/
  | rollcallWindowClose (n : Fin 12)
  /-- INPUT_STORE (R359). An input update is written to a slot and its header flipped. -/
  | inputStore (n : Fin 12) (a : Fin 255)
  /-- INPUT_LATCH_EXPIRE (R360). An input slot latch expires after LATCH_MAX and the held update is stored. -/
  | inputLatchExpire (n : Fin 12) (a : Fin 255)
  /-- PHY_STATUS_POLL (R341). Every 10 ms the PHY link status is read. -/
  | phyStatusPoll (n : Fin 12)
  /-- LISTEN_MISS_WINDOW (R366). In LISTEN, a TRIB_CYCLE window ends and silent modules count a miss. -/
  | listenMissWindow (n : Fin 12)
  /-- TOKEN_CHANGE (R367). The mirror unit changes a port's TOKEN. -/
  | tokenChange (n : Fin 12) (token : Bool)
  /-- MDIO_DONE (R341). An MDIO access completes on its bus. -/
  | mdioDone (bus : Fin 2) (answered : Bool) (value : BitVec 16)
  /-- MIR_LINK_RETRAIN (R396). Every 100 ms a DOWN mirror port is retrained. -/
  | mirLinkRetrain (l : LinkId)
  /-- LINK_TRAINED (R396). Lane training of a mirror or Confluence port ends. -/
  | linkTrained (l : LinkId) (ok : Bool)
  /-- REPLAY_TIMEOUT (R397). 20 µs pass without acknowledgement and frames are replayed. -/
  | replayTimeout (l : LinkId)
  /-- LINK (R397). An acknowledgement-only LINK frame is received. -/
  | linkFrame (l : LinkId) (h : LinkHdr)
  /-- FRAME_CRC_BAD (R397). A link frame fails its CRC and is answered with NAK. -/
  | frameCrcBad (l : LinkId)
  /-- HELLO_SEND (R398). Every 1 ms a HELLO is sent on each UP port. -/
  | helloSend
  /-- HELLO (R400). A HELLO is received and roles are settled. -/
  | helloFrame (p : Fin 2) (h : LinkHdr) (m : Hello)
  /-- PACKET_BEGIN (R401). The PRIMARY begins a mirror packet. -/
  | packetBegin
  /-- LATEST_PACKET_DUE (R401). Every 1 ms a LATEST packet begins if lines were written. -/
  | latestPacketDue
  /-- LINES (R406). A LINES frame is received and its entries admitted. -/
  | linesFrame (p : Fin 2) (h : LinkHdr) (pseq fidx : Nat) (es : List LineEntry)
  /-- EPOCH_END (R406). An EPOCH_END frame is received. -/
  | epochEnd (p : Fin 2) (h : LinkHdr) (e : EpochEnd)
  /-- PACKET_APPLY (R407). A complete packet is applied in PSEQ order. -/
  | packetApply
  /-- RESTART (R405). A RESTART frame is received. -/
  | restartFrame (p : Fin 2) (h : LinkHdr) (pseq : Nat) (reread : Bool)
  /-- ACK (R405). An ACK frame is received and lines are unpinned. -/
  | ackFrame (p : Fin 2) (h : LinkHdr) (applied : Nat) (synced : Bool)
  /-- HANDOVER (R411). A HANDOVER frame triggers a switchover. -/
  | handover (p : Fin 2) (h : LinkHdr) (last : Nat)
  /-- DYING (R410). A DYING frame triggers a switchover. -/
  | dying (p : Fin 2) (h : LinkHdr) (last cause : Nat)
  /-- MIR_DEAD_TIMEOUT (R410). No frame arrives on either port for DEAD_MS. -/
  | mirDeadTimeout
  /-- JOIN_SEND (R418). Every 1 ms JOIN is sent on the wired ports. -/
  | joinSend
  /-- JOIN (R418). A JOIN frame is received. -/
  | joinFrame (p : Fin 3) (h : LinkHdr) (j : Join)
  /-- FORMED (R418). A FORMED frame is received and membership taken. -/
  | formed (p : Fin 3) (h : LinkHdr) (members : BitVec 4)
  /-- CONF_FORM_TIMEOUT (R419). The cluster has not formed within FORM_MS. -/
  | confFormTimeout
  /-- CONF_FORM_RETRY (R419). Every 100 ms a failed formation is retried. -/
  | confFormRetry
  /-- WR (R422). A remote WR frame is applied at the owning chip. -/
  | wr (p : Fin 3) (h : LinkHdr) (addr : BitVec 40) (bytes : List Byte) (poison mgmt : Bool)
  /-- RD_REQ (R424). A remote read request is received. -/
  | rdReq (p : Fin 3) (h : LinkHdr) (tag : BitVec 16) (lines : Nat) (addr : BitVec 40)
  /-- RD_CPL (R424). A remote read completion is received. -/
  | rdCpl (p : Fin 3) (h : LinkHdr) (tag : BitVec 16) (idx : Nat) (abort : Bool) (es : List LineEntry)
  /-- PREPARE (R426). A member takes PREPARE and holds the context's writes. -/
  | prepare (p : Fin 3) (h : LinkHdr) (c : Fin 16) (epoch : Nat)
  /-- PREPARED (R426). The home takes PREPARED; at the last one it closes. -/
  | prepared (p : Fin 3) (h : LinkHdr) (c : Fin 16) (epoch : Nat)
  /-- COMMIT (R426). A member takes COMMIT and closes. -/
  | commit (p : Fin 3) (h : LinkHdr) (c : Fin 16) (epoch : Nat)
  /-- ABANDON (R427). A member takes ABANDON and abandons the epoch. -/
  | abandon (p : Fin 3) (h : LinkHdr) (c : Fin 16) (cause : BitVec 3) (epoch : Nat)
  /-- RESOLVE (R429). RESOLVE settles a prepared context at save. -/
  | resolveFrame (p : Fin 3) (h : LinkHdr) (es : List (Fin 16 × Nat))
  /-- RESOLVE_TIMEOUT (R429). Nothing arrives by T0 + 10 µs and the prepared epoch is abandoned. -/
  | resolveTimeout
  /-- CTXSYNC (R425). A context copy is updated from its home. -/
  | ctxsync (p : Fin 3) (h : LinkHdr) (c : Fin 16) (r : CtxRec)
  /-- LOST (R432). A LOST frame makes a slot lost. -/
  | lostFrame (p : Fin 3) (h : LinkHdr) (slot : Fin 4)
  /-- PEER_LOST (R433). A chip declares a slot lost. -/
  | peerLost (slot : Fin 4)
  /-- EPOCHS (R430). EPOCHS frames are compared after a restore. -/
  | epochs (p : Fin 3) (h : LinkHdr) (es : List (Fin 16 × Nat))
  /-- ROLE (R434). A ROLE frame sets the board role. -/
  | roleFrame (p : Fin 3) (h : LinkHdr) (role : Role) (cause : Nat)
  /-- APPLY (R435). An APPLY frame bounds the apply of a spanning context. -/
  | applyEpoch (p : Fin 3) (h : LinkHdr) (c : Fin 16) (epoch : Nat)
  /-- HAVE (R435). A HAVE frame reports a member's complete epoch. -/
  | haveEpoch (p : Fin 3) (h : LinkHdr) (c : Fin 16) (epoch : Nat)
  /-- SWITCH (R435). A SWITCH frame switches every chip of the board. -/
  | switchFrame (p : Fin 3) (h : LinkHdr) (trigger : Nat)
  /-- CONF_LINK_IDLE (R417). Every 10 µs a LINK frame is sent on an idle link. -/
  | confLinkIdle (p : Fin 3)
  /-- ELASTIC_LIMIT (R431). An elastic buffer nears its limit and the lane retrains. -/
  | elasticLimit (p : Fin 3)
  /-- RAIL_EXCURSION (R442). A rail excursion outlasts its filter and becomes effective. -/
  | railExcursion (r : Fin 16) (kind : RailBad) (mv : Nat)
  /-- RAIL_STABLE (R443). The stable time expires and the rail becomes GOOD. -/
  | railStable (r : Fin 16)
  /-- RAIL_RISE_TIMEOUT (R443). The rail is not GOOD within RISE_TO. -/
  | railRiseTimeout (r : Fin 16)
  /-- RAIL_ENABLE (R444). DELAY expires and the rail is enabled. -/
  | railEnable (r : Fin 16)
  /-- SEQUENCE_START (R444). A start sequence begins. -/
  | sequenceStart
  /-- RAIL_DISABLE (R452). SHUT_DELAY expires and the rail is disabled. -/
  | railDisable (r : Fin 16)
  /-- RAIL_FALLEN (R452). The rail falls below FALL. -/
  | railFallen (r : Fin 16)
  /-- RAIL_FALL_SLOW (R452). FALL_TO expires and the rail is taken as fallen. -/
  | railFallSlow (r : Fin 16) (mv : Nat)
  /-- RETRY_OFF_EXPIRE (R446). The retry off time expires and the sequence restarts. -/
  | retryOffExpire
  /-- MIN_OFF_EXPIRE (R207). The 500 ms minimum off time expires. -/
  | minOffExpire
  /-- RSTOUT_STRETCH_END (R454). A reset output's stretch ends and it is released. -/
  | rstoutStretchEnd (k : Fin 6)
  /-- VDD_AON_POR (R508). VDD_AON crosses its power-on reset threshold. -/
  | vddAonPor (rising : Bool)
  /-- HUB_SAMPLE (R456). A bank voltage sample drives HUB_CHG, HUB_BAL and the overvoltage check. -/
  | hubSample (mv : Nat)
  /-- HUB_CHARGE_TIMEOUT (R456). The bank does not reach TARGET within CHG_TO. -/
  | hubChargeTimeout
  /-- HUB_MEAS_DUE (R457). A scheduled bank measurement falls due. -/
  | hubMeasDue
  /-- HUB_MEAS_END (R458). The measurement ends and C and ESR are recorded. -/
  | hubMeasEnd (v0 v1 v2 us : Nat)
  /-- SUBSEC_TICK (R472). The sub-second count advances and the copy is refreshed. -/
  | subsecTick
  /-- VBAT_SWITCH (R470). The backup domain switches supply. -/
  | vbatSwitch (toVbat : Bool)
  /-- VBAT_MEASURE (R471). Every second VBAT is measured. -/
  | vbatMeasure (mv : Nat)
  /-- OSC_STOP (R471). No crystal edge for 1 s. -/
  | oscStop
  /-- BKD_DOMAIN_RESET (R469). The backup domain is reset when no supply can carry it. -/
  | bkdDomainReset
  /-- BKD_WRITE_ARRIVE (R473). A backup-domain write takes effect in the domain. -/
  | bkdWriteArrive
  /-- LEDGER_PAGE_WRITE_DONE (R480). A ledger page write finishes its read-back. -/
  | ledgerPageWriteDone (result : ReadBack)
  /-- EVENT_LOG_WRITE (R461). Firmware writes a power-event record. -/
  | eventLogWrite
  /-- CORE_RESET_RELEASE (R497). Core reset is released and the straps are sampled. -/
  | coreResetRelease (chipid bootsrc : BitVec 2) (testEn : Bool)
  /-- IMAGE_VERIFIED (R501). The boot ROM verifies a firmware image and starts it. -/
  | imageVerified
  /-- FIRMWARE_READY (R498). Firmware sets GLB_FIL. -/
  | firmwareReady
  /-- TRAINING_DONE (R498). DRAM and NAND training ends. -/
  | trainingDone (dram : BitVec 4) (nand : BitVec 16)
  /-- PERST (R509). A link reset by PERST#, hot reset or link down. -/
  | perst
  /-- ASSIGN_RECEIVED (R366). A port in LISTEN receives an ASSIGN frame sent to 0xFF and enters the assignment in its module table. -/
  | assignReceived (n : Fin 12) (f : RxFrame)
  /-- SERIAL_FRAME_IDLE (R346). A serial receiver drops a frame because the line stays idle too long within it. -/
  | serialFrameIdle (n : Fin 12)
  /-- SEEP_CLEAN (R246). The seep chooses a cleanable line, reads its value and places its record in a journal page, drawing tokens. -/
  | seepClean
  /-- MIR_SWITCH_TIMEOUT (R412). A planned MIR_SWITCH sees no PRIMARY HELLO from the partner within DEAD_MS; it completes with ST_TIMEOUT and the chip is left SOLO. -/
  | mirSwitchTimeout
  /-- RAIL_GLITCH (R442). A rail excursion ends within its filter time and is counted as a glitch in RAIL_GLITCH. -/
  | railGlitch (r : Fin 16)
  /-- SVC_SYNC_ERROR (R72). The service UART receives a byte other than 0xA5 where a frame should begin, discards bytes up to the next 0xA5 and sends one error frame. -/
  | svcSyncError
  /-- SVC_LENGTH_ERROR (R72). The service UART rejects a LENGTH above 4,160 as soon as the LENGTH bytes arrive and sends an error frame. -/
  | svcLengthError (len : BitVec 16)
  /-- BKD_RESET_RELEASE (R468). The backup-domain reset is released when the supply in use rises above 1.50 V. -/
  | bkdResetRelease
  /-- PWR_HUB_MEASURE_TIMEOUT (R466). A PWR_HUB_MEASURE that R158 has deferred for more than 10 s completes with ST_TIMEOUT. -/
  | pwrHubMeasureTimeout
deriving DecidableEq, Repr
end Sys2Proof
end

