-- ==== Sys2Proof/Decode.lean ====
section
/-! DEFINITION. The host's reading of a word as a command. No row of the opcode table gives bits: the commands of this
block are descriptors, register accesses, frames and events, and no word spells one (log entry 1). -/
namespace Sys2Proof
/-- The command that a word spells: none, since no row of the table has bits. -/
def decodeTableWord (_nbits _w : Nat) : Option Instr := none
end Sys2Proof
end

