-- ==== Sys2Proof/Config.lean ====
section
/-! DEFINITION. The free values of the block: constants without a body. Nothing can be proved of the value of one, so a
statement about it holds whatever it is. -/
namespace Sys2Proof.Config
/-- SHA-384 of some bytes (R500, R501). The manual refers to the published standard; the model leaves the function
open. DESIGN CHOICE (log entry 3). -/
opaque sha384 : List Byte → BitVec 384
/-- Whether a signature verifies under a key over some bytes (R501 reason 5). DESIGN CHOICE (log entry 3). -/
opaque ecdsaOk : List Byte → List Byte → BitVec 384 → Bool
/-- Key-hash slots of FACTORY (R485, R501): records that Amimer defines. -/
opaque keyHash : Nat → BitVec 384
/-- The CHECK code of a metadata word over bits [24:0] (R321): not specified, may differ between parts. -/
opaque metaCheck : BitVec 25 → BitVec 7
/-- What an indeterminate ledger byte reads as (R481): the first argument numbers the read. -/
opaque indeterminate : Nat → Nat → Byte
/-- The parity of a codeword's 1,024 bytes (R242): the manual names the code and not its polynomial. -/
opaque bchParity : List Byte → BitVec 840
/-- Contents that a failed or never written DRAM granule gives, where its bytes are read raw (R323). -/
opaque rawDram : Nat → Nat → Byte
/-- A value a part draws afresh: the argument is the counter of the state. -/
opaque fresh : Nat → BitVec 64
/-- Characters that a sequencer's transmit queue holds (R379): the manual does not say. -/
opaque seqTxDepth : Nat
/-- Cells of the boundary-scan register (R535): the manual does not number them. -/
opaque scanCells : Nat
/-- The number of the TAP instruction that the bits shifted in spell, newest first (R535): IEEE 1149.1 fixes the code of
BYPASS alone, all ones. -/
opaque tapDecode : List Bool → Nat
end Sys2Proof.Config
end

