-- ==== Sys2Proof/Machine/State.lean ====
section
/-! DEFINITION. The state of the block, as plain data: every register, FIFO, buffer, counter, mode and pin the spec
gives it, the queue of waiting commands, and the state right after reset. Where the manual gives a quantity that is
a function of others (a count of lines, a sum), it is computed (Ops, Regs) and not held twice. -/
namespace Sys2Proof.Machine
/-! ## Host interface (chapter 02) -/
/-- State of a mailbox, `MQ_STAT.STATE` (R46). -/
inductive MqState | absent | active | halted
deriving DecidableEq, Repr
/-- What a command that runs on after its own step waits for. -/
inductive Wait
  | none
  /-- a `UNIT_STOP` DRAIN: instances (index into the lifecycle table) still to end, all the targets by number, and the
  targets that did not pass or ended otherwise, each with its status (R58) -/
  | drain (left : List Nat) (all : List Nat) (fails : List (Nat × Nat))
  /-- NAND work named by a number: the records issued before it are to be durable -/
  | nand (mark : Nat)
  /-- a `SEG_SEAL` of a segment, the slots before the mark being its records, and its marker once that has been placed -/
  | sealing (seg : Nat) (mark : Nat) (marked : Bool)
  /-- the anchor that names new rings is to be written, then durable; the status the command ends with -/
  | anchor (st : Nat)
  /-- a `SEG_LOAD`: its pieces, by their places in the order of acceptance, are to be applied; the status it ends with -/
  | load (lo hi st : Nat)
  /-- the ledger job of this number is to be durable; the status the command then ends with -/
  | ledger (mark st : Nat)
  | swap (ctx : Nat)
  | group (g : Nat) (on : Bool)
  /-- `TRIB_ROLLCALL`: ports still to end, all the targets, those that failed with their statuses, modules assigned so far -/
  | rollcall (left : List Nat) (all : List Nat) (fails : List (Nat × Nat)) (assigned : Nat)
  | prefetch (first : Nat) (count : Nat)
  | mirSwitch
  | hubMeasure
  | mdio (bus : Nat)
  /-- `NST_EVACUATE`: the channels, and the status it ends with -/
  | evacuate (mask st : Nat)
  | bkd
deriving DecidableEq, Repr
/-- Phase of an outstanding command (R42). -/
inductive Phase
  /-- fetched and past R57 steps 1 to 3 -/
  | accepted
  | running (w : Wait)
  /-- ended; its completion entry waits for a free slot (R42) -/
  | finished
deriving DecidableEq, Repr
/-- A command outstanding on a mailbox (R42), or on the service port (R72). -/
structure Cmd where
  /-- the descriptor that was checked, and its place in the order of acceptance (R50) -/
  desc   : Desc
  order  : Nat
  /-- inline data of the frame it came in, on the service port (R72) -/
  inl    : List Byte
  tag    : BitVec 16
  opcode : BitVec 16
  sqi    : BitVec 16
  fence  : Bool
  phase  : Phase
  status : BitVec 16
  result : BitVec 64
  /-- bytes the device writes to the command's buffer, or after its completion frame (R71) -/
  data   : List Byte
  /-- its mailbox was deleted: it runs to its end, and its completion is discarded (R67) -/
  orphan : Bool
deriving DecidableEq, Repr
/-- One mailbox (R39–R46, R53, R54). -/
structure Mailbox where
  state    : MqState
  sqBase   : BitVec 64
  cqBase   : BitVec 64
  eqBase   : BitVec 64
  sqLog2   : Nat
  cqLog2   : Nat
  eqLog2   : Nat
  cqVec    : Nat
  eqVec    : Nat
  tail     : Nat
  fetch    : Nat
  cqHead   : Nat
  cqTail   : Nat
  /-- completion slots and event slots written and not yet passed by the head doorbell (R42) -/
  cqUsed   : Nat
  eqUsed   : Nat
  cqPhase  : Bool
  cqArmed  : Bool
  eqHead   : Nat
  eqTail   : Nat
  eqPhase  : Bool
  eqArmed  : Bool
  /-- events were dropped since the last entry written (R52 LOST) -/
  eqGap    : Bool
  eqLost   : Nat
  dbRange  : Bool
  dmaFail  : Bool
  eqOver   : Bool
  mask     : BitVec 32
  /-- outstanding commands, oldest first -/
  cmds     : List Cmd
deriving DecidableEq, Repr
/-- An event entry (R52) without its ring-dependent flags. -/
structure Event where
  code : BitVec 16
  inst : Word
  time : BitVec 64
  data : BitVec 128
deriving DecidableEq, Repr
/-- The service UART (R64, R70–R72). -/
structure Svc where
  /-- `SVC_EN` after its 1 ms filter -/
  en       : Bool
  /-- 0 = 115,200, 1 = 921,600, 2 = 3,000,000 bit/s -/
  baud     : Nat
  /-- a rate that takes effect once the completion of `SVC_BAUD` has been sent -/
  baudNext : Option Nat
  mask     : BitVec 32
  cmds     : List Cmd
  /-- event frames waiting to be sent, at most 16 -/
  frames   : List Event
  /-- events were dropped since the last event frame was sent: the next one carries LOST (R72) -/
  gap      : Bool
deriving DecidableEq, Repr
/-- Telemetry words of the SMBus target (R73), refreshed by R74. -/
structure Telemetry where
  words : Vector (BitVec 16) 10
  /-- READY has been reached since core reset release -/
  ready : Bool
deriving DecidableEq, Repr
/-- A window descriptor (R99). -/
structure Window where
  base    : BitVec 40
  len     : Nat
  access  : BitVec 2
  classes : BitVec 4
  ctxMask : BitVec 16
deriving DecidableEq, Repr
/-- GLB registers that are not constants (R38, R107). -/
structure Glb where
  fil        : BitVec 32
  fwbuild    : BitVec 32
  /-- `GLB_STATE.STATE`: 0 BOOT, 1 RESTORE, 2 READY, 3 SAVING, 4 HALTED -/
  state      : BitVec 3
  resumed    : Bool
  chipid     : BitVec 2
  bootsrc    : BitVec 2
  /-- `GLB_UID`, fused -/
  uid        : BitVec 64
  aliasDiff  : Bool
  aliasOff   : BitVec 20
  time       : BitVec 64
  authRefused : Nat
  trapValid  : Bool
  trapReason : BitVec 3
  trapWrite  : Bool
  trapSlot   : BitVec 6
  trapAddr   : BitVec 36
  trapReq    : BitVec 16
  trapCount  : Nat
  /-- `_HI` halves latched by a `_LO` read, per requester (R14): (requester, offset of the HI register, value) -/
  latches    : List (Requester × Nat × Word)
  /-- last raising time of each rate-limited event: ((event code, key), `GLB_TIME`) -/
  limits     : List ((Nat × Nat) × Nat)
deriving DecidableEq, Repr
/-- Live and stored authority of a port (R63–R66). -/
structure PortAuth where
  live   : BitVec 6
  stored : BitVec 6
deriving DecidableEq, Repr
/-! ## Working memory, contexts and the weir (chapters 03–05) -/
/-- Stored state of a line (R121). -/
inductive LState
  | never | clean | unrestored | opened | committed | openOver | dirty | written
deriving DecidableEq, Repr
/-- Port class that a charge belongs to (R152), ports of class none apart. -/
inductive PClass | host | mgmt | conf | mirror | scan
deriving DecidableEq, Repr
/-- One line's metadata (R120, R320–R323) and what the retention engine keeps for it. -/
structure Line where
  state    : LState
  stamp    : BitVec 8
  flip     : Bool
  baseZero : Bool
  /-- bits of the metadata word: one per 64 B beat -/
  poison   : BitVec 4
  /-- VALID bits of R321: which beats of the home location hold data -/
  valid    : BitVec 4
  /-- poison of the shadow line's beats (R131) -/
  shPoison : BitVec 4
  /-- class whose count the line is charged to (R152) -/
  charge   : Option PClass
  /-- number of the newest write applied: a clean completes only if it has not moved (R124, R126) -/
  serial   : Nat
  /-- the `serial` and the close number of the committed value of an OPEN_OVER_COMMITTED line -/
  base     : Nat
  baseClose : Nat
  /-- closes its context had made by the last write, and the time of it (R246) -/
  closeNo  : Nat
  writtenAt : Nat
  /-- the line of the shadow pool that holds its shadow value, while it has one (R124) -/
  shAt     : Nat
deriving DecidableEq, Repr
/-- Sparse data by key: strictly rising keys, no entry equal to the default. -/
abbrev AMap (α : Type) := List (Nat × α)
/-- Why an accepted piece of a write is not applied yet (R128): not looked at, a copy, a demand fault, a visit or a capture
(R264, R364), or its copy or fault is done and it waits for its port's earlier writes. -/
inductive PWait | ready | copy | fault | visit | served
deriving DecidableEq, Repr
/-- The part of an accepted write that falls in one line (R103, R150). -/
structure Piece where
  fp     : Fin 23
  /-- local line number -/
  line   : Nat
  bytes  : List WByte
  /-- the 64 B granules that the write poisons where it reaches them -/
  poison : BitVec 4
  /-- the source of R327 that its poison is created from; 0 where it only carries it (R329) -/
  src    : Nat
  /-- the owner's open epoch at acceptance, for a line of an EPOCH segment (R132) -/
  epoch  : Option (Fin 16 × Nat)
  /-- class charged provisionally (R150) -/
  charge : Option PClass
  wait   : PWait
  /-- `GLB_TIME` when it began to wait -/
  since  : Nat
  /-- its place in the order of acceptance, reads and writes together -/
  order  : Nat
  /-- a `SEG_LOAD`, a restore fill, or another writer that R536 lets into a CONSTANT segment -/
  privileged : Bool
deriving DecidableEq, Repr
/-- A write the weir has not admitted yet (R161, R163). -/
structure Held where
  fp     : Fin 23
  addr   : Nat
  bytes  : List WByte
  /-- poisoned, from a source of R327 -/
  poison : Option Nat
  since  : Nat
  /-- how many accesses were accepted before it came (R423) -/
  order  : Nat
  /-- the command that firmware makes it for: port and TAG (R164, R536) -/
  cmd    : Option (Fin 12 × BitVec 16)
  /-- a BAR2 write's offset and requester: it is translated and checked anew when it is taken (R105, R150) -/
  bar    : Option (BitVec 36 × BitVec 16)
deriving DecidableEq, Repr
/-- A TLP of the host stream that waits behind a held write (R102, R165). -/
inductive HostTlp
  | write (off : BitVec 36) (req : BitVec 16) (bytes : List WByte) (poison : Bool)
  | read (off : BitVec 36) (req : BitVec 16) (len : Nat)
  | reg (off : Nat) (v : Word)
  | regRead (off : Nat)
  | doorbell (ws : List (Fin 16 × Word))
deriving DecidableEq, Repr
/-- A deferred close or abandon (R119). -/
inductive Deferred
  /-- a close; `next` is the state CLOSING is to leave, `none` that in which the close begins -/
  | close (fromDoorbell : Bool) (next : Option CtxMode)
  /-- an abandon; `next` is the state it is to leave, `none` that which R110 gives for the state it is taken in -/
  | abandon (cause : Nat) (next : Option CtxMode)
deriving DecidableEq, Repr
/-- One context (R109–R119, R145). -/
structure Ctx where
  mode      : CtxMode
  /-- state CLOSING returns to -/
  closeTo   : CtxMode
  /-- state the close began in -/
  closeFrom : CtxMode
  epoch     : Nat
  commit    : Nat
  discard   : BitVec 256
  cause     : BitVec 3
  released  : Bool
  policy    : BitVec 2
  rank      : BitVec 4
  minPeriod : Nat
  wdog      : Nat
  bankSeg   : Nat
  bankCount : Nat
  lastClose : Option Nat
  /-- instant the watchdog was last armed (R140) -/
  armed     : Nat
  /-- instant CLOSING began -/
  closeAt   : Nat
  lastPeriod : Nat
  closeLat  : Nat
  closeMax  : Nat
  rejects   : Nat
  rejSince  : Nat
  dropped   : Nat
  /-- accepted closes; `CTXD_STAT.CLOSES` shows them modulo 256 -/
  closes    : Nat
  lastReject : BitVec 3
  /-- stamps whose aging is queued or under way, oldest first (R118) -/
  aging     : List (BitVec 8)
  deferred  : Option Deferred
  deferAt   : Nat
  /-- WEIR_EPOCH_LARGE was raised in this epoch (R169) -/
  warned    : Bool
deriving DecidableEq, Repr
/-- The copier (R129, R146). -/
structure Copier where
  batch     : Nat
  stallLimit : Nat
  /-- copies queued: (context, line) -/
  queue     : List (Fin 16 × Nat)
  /-- copies the current batch is making -/
  active    : List (Fin 16 × Nat)
  last      : Fin 16
  stallMax  : Nat
  cancelled : Nat
  copies    : BitVec 64
  full      : BitVec 64
deriving DecidableEq, Repr
/-- Calibration (R181). -/
structure Cal where
  cap : Nat
  esr : Nat
  vfloor : Nat
  eff : Nat
  tfix : Nat
  psave : Nat
  rate : Nat
  guardPct : Nat
deriving DecidableEq, Repr
/-- The weir (R154–R183). Counts, uses and accounts are not fields: they are counted from the lines and the
accepted writes (R149–R152). -/
structure Weir where
  millpond  : Nat
  /-- allowance before the pool limit, bytes -/
  allow     : Nat
  level     : BitVec 3
  noBank    : Bool
  poolLimited : Bool
  debtHigh  : Bool
  measDefer : Bool
  /-- values of the consecutive larger recomputations (R156) -/
  rising    : List Nat
  inCap     : Nat
  inEsr     : Nat
  inVbank   : Nat
  inPsave   : Nat
  inRate    : Nat
  inKesr    : Nat
  holdSince : Option Nat
  dryRaised : Bool
  holdMax   : Nat
  holdCount : Nat
  mgmtRefused : Nat
  res       : Vector Nat 5
  cal       : Cal
  soft      : Nat
  /-- soft tokens in bytes (R166) -/
  softTokens : Nat
  mirLagMax : Nat
  epochWarn : Nat
  /-- cleaning tokens in bytes (R172) -/
  bucket    : Nat
  bktRate   : Nat
  bktDepth  : Nat
  /-- endurance debt in bytes; `WEIR_DEBT` shows whole MiB -/
  debt      : Nat
  debtLimit : Nat
  /-- debt at the last COUNTERS record (R175) -/
  debtRecorded : Nat
  cleanRate : Nat
  /-- bytes cleaned since the rate was last taken, and bytes cleaned at the emergency rate since reset -/
  cleaned   : Nat
  emerg     : Nat
deriving DecidableEq, Repr
/-- Segment summary (R106): the sizes in force, in segments, and the stored next pool size. -/
structure SegSum where
  installed : Nat
  shadow    : Nat
  shadowNext : Nat
  pslcHave  : Nat
  shadowShort : Bool
  capacityLow : Bool
  constDropped : Nat
deriving DecidableEq, Repr
/-! ## Save, restore and the backing store (chapters 06 and 07) -/
/-- The key that orders a line's durable values (R240). -/
structure Key where
  gen   : Nat
  phase : Nat
  jseq  : Nat
deriving DecidableEq, Repr
/-- A line record (R196) as the store holds it. TYPE: 1 EPOCH, 2 LATEST, 3 sealed CONSTANT. -/
structure Rec where
  type   : Nat
  line   : Nat
  poison : BitVec 4
  value  : List Byte
deriving DecidableEq, Repr
/-- A segment marker (R232, R248). -/
structure Marker where
  first   : Nat
  count   : Nat
  entry   : Seg
  empties : Bool
  /-- the segment-table change it belongs to: number of the change's first slot, and its markers (R85; log entry 157) -/
  change  : Nat × Nat
deriving DecidableEq, Repr
/-- A slot of a journal page. -/
inductive Slot
  /-- a record, and the number of the write whose value it holds (R124); one that is only rewritten cleans nothing and has none -/
  | line (r : Rec) (serial : Option Nat)
  | marker (m : Marker)
deriving DecidableEq, Repr
/-- A journal record page (R232, R237). -/
structure JPage where
  jseq    : Nat
  /-- number of its first slot, counting every slot placed since format -/
  first   : Nat
  gen     : Nat
  ppa     : Nat
  slots   : List Slot
  /-- its program reported success -/
  durable : Bool
deriving DecidableEq, Repr
/-- A segment image (R238). -/
structure Image where
  seg   : Nat
  cut   : Key
  map   : Nat
  pages : List Nat
  recs  : List Rec
deriving DecidableEq, Repr
/-- Fields of a seal (R199) beside its generation. -/
structure Seal where
  cause    : Nat
  isOver   : Bool
  chFault  : Bool
  railLeft : Bool
  dramPoison : Bool
  empty    : Bool
  slot     : Nat
  chips    : Nat
  prevGen  : Nat
  records  : Nat
  metaLen  : Nat
  tSeal    : Nat
  vT0      : Nat
  vSeal    : Nat
  rtc      : BitVec 64
  uid      : BitVec 64
deriving DecidableEq, Repr
/-- A stripe's rows (R233): its ordered LUNs (channel, CE, LUN packed as in ORDER) and the blocks of its rows. -/
structure Stripe where
  gen    : Nat
  desc   : Nat
  order  : List Nat
  home   : Nat
  spare  : Nat
  blocks : List Nat
  base   : Nat
  prev   : Nat
deriving DecidableEq, Repr
/-- A generation area (R195, R233, R235) and what has been programmed into it. -/
structure Area where
  stripe : Stripe
  log    : List Rec
  metaCtx : List CtxRec
  metaSeg : AMap Seg
  sealA  : Nat
  sealB  : Nat
  sealRec : Option Seal
  /-- the home page numbers rewritten into spare rows, with their new place (R235) -/
  moved  : List (Nat × Nat)
  /-- spare pages given out, and channels dropped from the stripe (R201) -/
  spareUsed : Nat
  dropped : List Nat
deriving DecidableEq, Repr
/-- A checkpoint (R239). -/
structure Ckpt where
  seq    : Nat
  key    : Key
  jt     : Nat
  header : Nat
  /-- its table pages -/
  tables : List Nat
  segs   : AMap Seg
  images : List (Nat × Nat)
  erases : AMap Nat
deriving DecidableEq, Repr
/-- The current root (R230). -/
structure Root where
  seq      : Nat
  genReady : Nat
  ready    : Nat
  next     : Nat
  ckptNew  : Nat
  ckptOld  : Nat
  jrnHead  : Nat
  bbt      : Nat
  areas    : List (Nat × Nat)
deriving DecidableEq, Repr
/-- The rings that a rotation left, until the anchor that names the new ones is written (R231). -/
structure PriorRing where
  a     : Nat
  b     : Nat
  index : Nat
  epoch : Nat
  roots : List (Nat × Root)
  /-- places of the descriptors: in the new rings, in these -/
  descs : List (Nat × Nat)
deriving DecidableEq, Repr
/-- The two rings (R229, R231): the block each lies in, the page of the next index, the epoch, and the roots written into them,
by page index. -/
structure Ring where
  a     : Nat
  b     : Nat
  index : Nat
  epoch : Nat
  roots : List (Nat × Root)
  prior : Option PriorRing
  /-- the ledger job of their anchor -/
  job   : Nat
  /-- the anchor is still to be written: it waits for the pages of the new rings (R231) -/
  anchorDue : Bool
deriving DecidableEq, Repr
/-- What a NAND operation is for. -/
inductive NUse
  | journal (jseq : Nat)
  /-- reads: of a demand fault, the restore stream, a merge -/
  | fault (line : Nat) | stream (seg : Nat) | merge (seg : Nat)
  /-- programs of rings, images and checkpoints, and erasures; programs of a boot copy -/
  | other | boot
deriving DecidableEq, Repr
inductive NKind | program | read | erase
deriving DecidableEq, Repr
/-- A NAND operation in flight on a channel (R222). -/
structure NOp where
  ch   : Fin 16
  kind : NKind
  use  : NUse
  ppa  : Nat
  since : Nat
deriving DecidableEq, Repr
/-- A NAND channel's own state (R254, R255). -/
structure Nch where
  installed : Bool
  cePresent : BitVec 4
  lunSvc   : BitVec 8
  trained  : Bool
  restarts : Nat
  /-- programs, newest first: LUN (2 × CE + LUN) and time in µs; and the times of the last 1,000 reads -/
  progs    : List (Nat × Nat)
  readTimes : List Nat
  corr     : Nat
  uncorr   : Nat
  retry    : Nat
  errs     : BitVec 5
  /-- JEDEC ID that each target of the board answers with (R221) -/
  ids      : Vector (BitVec 48) 4
deriving DecidableEq, Repr
/-- The NAND configuration block (R221), as far as the controller uses it after boot. -/
structure Ncfg where
  ceCount : Nat
  planes  : Nat
  jedec   : BitVec 48
  blocks  : Nat
  ppb     : Nat
  progCmd : Byte
  readCmd : Byte
  eraseCmd : Byte
  exitCmd : Byte
  retrySteps : Nat
  tProg   : Nat
  tRead   : Nat
  tErase  : Nat
  cycles  : Nat
  retry   : List (BitVec 32)
deriving DecidableEq, Repr
/-- What the store knows of one block: retired, erase count apart from formats, held by a structure. -/
structure Blk where
  bad    : Bool
  erases : Nat
  held   : Bool
  /-- a program or an erase was cut off (R253) -/
  cut    : Bool
  /-- marked bad by its maker (R244) -/
  factory : Bool
deriving DecidableEq, Repr
/-- The backing store (chapter 07). -/
structure Store where
  ncfg    : Ncfg
  ch      : Vector Nch 16
  /-- operations in flight, and those that wait for their turn (R222) -/
  ops     : List NOp
  waitq   : List NOp
  /-- codewords that do not decode at any retry level: page, codeword (R243) -/
  badWords : List (Nat × Nat)
  /-- the bad-block table has changed and is still to be written; a checkpoint that a reset asked for is still to be written -/
  tableDue : Bool
  ckptDue : Bool
  /-- `GLB_TIME` of the last checkpoint, and from which the next throttled merge may start (R239, R249) -/
  ckptAt  : Nat
  mergeAt : Nat
  /-- by block key: PPA of the block's page 0 -/
  blocks  : AMap Blk
  /-- formats so far, each of which erased every block outside the boot region -/
  wiped   : Nat
  /-- good blocks of each LUN at format: (LUN key, count) -/
  formatGood : List (Nat × Nat)
  ring    : Ring
  root    : Option Root
  ckpts   : List Ckpt
  images  : List Image
  journal : List JPage
  stripe  : Option Stripe
  /-- full stripes still holding live pages -/
  oldStripes : List Stripe
  /-- the page being filled, and when its first slot was filled -/
  filling : List Slot
  fillAt  : Nat
  /-- slots placed since format -/
  placed  : Nat
  jseq    : Nat
  jt      : Nat
  /-- the pre-erased next area, the ready area, the sealed areas unmerged (oldest first) -/
  nextArea : Option Area
  ready   : Option Area
  /-- the area being readied, its descriptor and root still being programmed (R236), and the descriptor it had as the next area -/
  readying : Option (Area × Nat)
  sealed  : List Area
  /-- generation of the newest area readied (R195) -/
  gen     : Nat
  /-- an area that was written but not sealed, found at restore (R208) -/
  unsealed : Option Area
  ageMin  : Nat
  mergeFrac : Nat
  auditH  : Nat
  refreshBits : Nat
  mergeRate : Nat
  jrnMax  : Nat
  cleaning : Bool
  emergency : Bool
  merging : Bool
  auditing : Bool
  spaceLow : Bool
  walk    : Nat
  auditLine : Nat
  auditPage : Nat
  auditProgress : Nat
  /-- `GLB_TIME` of the end of the last pass -/
  auditEnd : Nat
  auditStart : Nat
  auditFixed : Nat
  auditRefreshed : Nat
  dramFixed : Nat
  refresh : Nat
  lost    : Nat
  wrClean : Nat
  wrSave  : Nat
  wrMerge : Nat
  wrOther : Nat
  /-- channels being evacuated (R253) -/
  evacuating : BitVec 16
deriving DecidableEq, Repr
/-- Where the sluice is, `SLU_STAT.PHASE` (R217). -/
inductive SPhase | idle | quiesce | log | metadata | sealing | shutdown | resuming
deriving DecidableEq, Repr
/-- A demand fault in flight (R214). -/
structure FaultOp where
  line  : Nat
  since : Nat
deriving DecidableEq, Repr
/-- Who gets what a waiting read returns. -/
inductive Reader
  | fabric | host (req : BitVec 16) | peer (tag : Nat)
deriving DecidableEq, Repr
/-- A read that waits for demand faults, scan visits or earlier writes (R102, R214, R215, R264). -/
structure ReadWait where
  who   : Reader
  fp    : Fin 23
  addr  : Nat
  len   : Nat
  since : Nat
  order : Nat
deriving DecidableEq, Repr
/-- The save and restore engines (R217). -/
structure Slu where
  phase    : SPhase
  streaming : Bool
  restoreDone : Bool
  inputGood : Bool
  mode     : Bool
  gpolicy  : BitVec 2
  lostPolicy : Bool
  trip     : Nat
  good     : Nat
  vinFilt  : Nat
  pinFilt  : Nat
  resumeFilt : Nat
  vin      : Nat
  /-- `SLU_LAST` and its companions -/
  lastCause : Nat
  lastOutcome : Nat
  lastOver : Bool
  lastChFault : Bool
  lastRailLeft : Bool
  lastDramPoison : Bool
  lastEmpty : Bool
  lastRecords : Nat
  lastTseal : Nat
  lastVT0  : Nat
  lastVSeal : Nat
  lastRate : Nat
  saves    : Nat
  /-- the save under way -/
  cause    : Nat
  t0       : Nat
  vT0      : Nat
  overAtT0 : Bool
  chFault  : Bool
  railLeft : Bool
  dramPoison : Bool
  records  : Nat
  /-- metadata pages still to be programmed -/
  metaLeft : Nat
  /-- the seal's copies still to be programmed: bit 0 copy A, bit 1 copy B -/
  sealLeft : Nat
  /-- bits 0 and 1: copy A, B failed once; bits 2 and 3: copy A, B programmed -/
  sealTried : Nat
  noArea   : Bool
  sealAt   : Nat
  vSeal    : Nat
  ctxT0    : List CtxRec
  segT0    : AMap Seg
  /-- lifecycle units RUNNING at T0 (R206) -/
  runAtT0  : List Nat
  /-- units DRAINING at T0 (R206), and the calendar time at T0 (R199) -/
  drainAtT0 : List Nat
  rtcT0    : BitVec 64
  /-- lines COMMITTED (FLIP) marked as covered by the seal (R194) -/
  covered  : List Nat
  /-- a cause that arose after S is held (R207) -/
  held     : Option Nat
  /-- when the held cause arose (R186) -/
  heldAt   : Nat
  pending  : Option Nat
  /-- when the pending cause arose (R186) -/
  askedAt  : Nat
  /-- segments whose seal T0 cut off: their markers are not written (R97) -/
  sealCut  : List Nat
  reportDue : Bool
  /-- `PFAIL#` driven by this chip -/
  pfail    : Bool
  everRestored : Bool
  /-- restore: unbuilt segments, segments still to bring in, prefetch runs -/
  unbuilt  : List Nat
  todo     : List Nat
  prefetch : List Nat
  /-- the priority restore sets not yet in: (16 the global set or a context, segment), in the order of the stream -/
  sets     : List (Nat × Nat)
  /-- MODE as it stood when the restore began (R218) -/
  rstEager : Bool
  rstDone  : Nat
  rstTotal : Nat
  rstStart : Nat
  rstTime  : Nat
  faultCount : Nat
  faultMax : Nat
  faults   : List FaultOp
  reads    : List ReadWait
  dropped  : Nat
  recordBad : Nat
deriving DecidableEq, Repr
/-! ## Scan services (chapter 08) -/
/-- An edge plane descriptor (R259). Addresses are working-memory addresses. -/
structure Plane where
  src   : Nat
  prev  : Nat
  rise  : Nat
  fall  : Nat
  lines : Nat
deriving DecidableEq, Repr
/-- A carry map entry (R277). -/
structure Carry where
  kind   : Nat
  policy : Nat
  old    : Nat
  new    : Nat
deriving DecidableEq, Repr
/-- A layout block as read (R259). -/
structure Layout where
  bankSeg   : Nat
  bankCount : Nat
  timerBase : Nat
  timerCount : Nat
  tinitOff  : Nat
  carryOff  : Nat
  carryCount : Nat
  planes    : List Plane
deriving DecidableEq, Repr
/-- RESYNC of one plane (R273) and the on-die record of its non-zero RISE and FALL lines. -/
structure PlaneSt where
  resync  : Bool
  /-- RESYNC is of every line, not of the lines an aborted pass left -/
  all     : Bool
  /-- epochs into which a full visit wrote while RESYNC was set -/
  wroteIn : Option Nat
  /-- lines an aborted pass did not visit -/
  partialLines : List Nat
  nonzero : List Nat
deriving DecidableEq, Repr
/-- An armed or uncommitted program swap (R275–R280). -/
structure Swap where
  newSeg   : Nat
  newCount : Nat
  keep     : Bool
  timeout  : Nat
  armedAt  : Nat
  /-- the swap epoch, once the close has taken the swap -/
  epoch    : Option Nat
  oldSeg   : Nat
  oldCount : Nat
  oldLayout : Option Layout
  newLayout : Layout
  carry    : List Carry
  oldShelf : Nat × Nat
  /-- SUSPENDED as it stood before the close took the swap (R276) -/
  oldSuspended : Bool
deriving DecidableEq, Repr
/-- Scan services' state of one context (R283). -/
structure ScanCtx where
  layout    : Option Layout
  suspended : Bool
  reason    : Nat
  rebase    : Bool
  rebaseIn  : Option Nat
  warm      : Bool
  warmIn    : Option Nat
  /-- the release will set WARM_PENDING (R271) -/
  warmDue   : Bool
  planes    : List PlaneSt
  last      : Nat
  shelf     : Nat × Nat
  swap      : Option Swap
  overruns  : Nat
  poisoned  : Nat
deriving DecidableEq, Repr
/-- One line a pass has still to visit. -/
inductive Visit
  | edge (plane : Nat) (idx : Nat)
  | timer (idx : Nat)
deriving DecidableEq, Repr
/-- A queued or running pass (R262). -/
structure Pass where
  ctx     : Fin 16
  tick    : BitVec 32
  closeAt : Nat
  /-- the epoch the pass writes into at its start -/
  epoch   : Nat
  swap    : Option Swap
  /-- the layout it works on; a later swap does not change it (R266) -/
  layout  : Layout
  /-- REBASE and WARM_PENDING as they stood at its close (R269, R271) -/
  rebase  : Bool
  warm    : Bool
  todo    : List Visit
  /-- planes that had RESYNC on every line at its close: it visits them in full (R273) -/
  full    : List Nat
  started : Nat
  /-- the visit under way, and its writes that wait at FP21: line, bytes, poison (R162, R265) -/
  pend    : Option (Visit × List (Nat × List Byte × BitVec 4))
  /-- a write of the pass was accepted, and into which epoch the first one fell -/
  wrote   : Option Nat
deriving DecidableEq, Repr
structure Scan where
  timerEn : BitVec 16
  edgeEn  : BitVec 16
  ctx     : Vector ScanCtx 16
  running : Option Pass
  queue   : List Pass
  passMax : Nat
  waitMax : Nat
  overruns : Nat
  poisonSkips : Nat
deriving DecidableEq, Repr
/-! ## DRAM channels and fabric (chapter 09) -/
inductive RankSt | absent | inService | spare | migrating | retired | degraded
deriving DecidableEq, Repr
/-- A DRAM request in a channel (R294): one 64 B burst. -/
structure DReq where
  id     : Nat
  fp     : Fin 23
  burst  : Nat
  write  : Bool
  /-- bytes a write enables -/
  mask   : BitVec 64
  poison : Bool
  /-- urgency 7 from entry: a demand-fault fill (R300) -/
  urgent : Bool
  entered : Nat
  /-- a read that was sent to DRAM, or a write being issued -/
  issued : Bool
  /-- a merge read (R298) for a write entry of its burst -/
  merge  : Bool
  /-- a read waiting for the write entry of its burst to be issued (R297) -/
  raw    : Bool
  /-- its port's latency target when it entered (R300, R318) -/
  target : Nat
  /-- its place in the order in which requests entered the channel (R295); a merge read has that of its entry -/
  ord    : Nat
  /-- a migration's own request: its rank, whatever the address says; urgency 0 (R309, R310) -/
  rank   : Option Nat
deriving DecidableEq, Repr
/-- A write-queue entry (R296). -/
structure WEntry where
  id     : Nat
  fp     : Fin 23
  burst  : Nat
  mask   : BitVec 64
  /-- every byte of the burst is there: written, or merged in (R298) -/
  merged : Bool
  poison : Bool
  entered : Nat
  /-- a read waits for it (R297) -/
  next   : Bool
  ord    : Nat
deriving DecidableEq, Repr
/-- An open row of a bank: (rank, bank group, bank, row). -/
structure OpenRow where
  rank : Nat
  bg   : Nat
  ba   : Nat
  row  : Nat
deriving DecidableEq, Repr
/-- A rank migration (R309). -/
structure Migration where
  rank   : Nat
  target : Nat
  ptr    : Nat
  cause  : Nat
  copied : Nat
  rebuilt : Nat
  poisoned : Nat
  /-- ledger job of the record of its start (R311) -/
  job    : Nat
deriving DecidableEq, Repr
/-- A command of the DRAM bus (R302). -/
inductive DCmd
  | nop | mpr | refresh (rank : Nat) | activate (id : Nat) | precharge (id : Nat) | column (id : Nat) | zqcs (rank : Nat)
deriving DecidableEq, Repr
/-- One DRAM channel (R317). -/
structure Dch where
  trained  : Bool
  selfRef  : Bool
  ref2x    : Bool
  restarts : Nat
  /-- every restart attempt failed (R315) -/
  dead     : Bool
  ranks    : Nat
  density  : Bool
  spareEn  : Bool
  spare    : Nat
  wcrc     : Bool
  dbi      : Bool
  refMode  : Nat
  migRate  : Nat
  tim      : Vector Word 4
  bg0      : BitVec 21
  bg1      : BitVec 21
  ba0      : BitVec 21
  ba1      : BitVec 21
  rank     : Vector RankSt 3
  mig      : Option Migration
  failedRanks : List Nat
  reqs     : List DReq
  wq       : List WEntry
  draining : Bool
  rows     : List OpenRow
  /-- consecutive column commands to one open row while other rows of its bank wait, and that row (R302) -/
  hitStreak : Nat
  hitRow   : Option OpenRow
  postponed : Vector Nat 3
  postMax  : Nat
  ce       : Vector Nat 3
  ue       : Vector Nat 3
  /-- uncorrectable beats of each rank since reset, whatever `DCH_UE_r` shows (R319) -/
  ueSum    : Vector Nat 3
  caparRetry : Nat
  wcrcRetry : Nat
  /-- failed events under retry: the request, whether its write CRC failed or else CA parity, and the retries made (R304) -/
  retries  : List (Nat × Bool × Nat)
  fwd      : Nat
  rawWait  : Nat
  dropped  : Nat
  errs     : BitVec 6
  lastCmd  : DCmd
  /-- requests that wait at their ports because the channel is not RUNNING or is full (R294, R313) -/
  waiting  : List DReq
deriving DecidableEq, Repr
/-- One fabric port's QoS state (R299, R316). -/
structure FPort where
  target  : Nat
  panicHi : Nat
  panicLo : Nat
  panic   : Bool
  lat     : Nat
deriving DecidableEq, Repr
/-- A read that has been served and awaits its DRAM requests (R294): what it found, and the requests. -/
structure Flight where
  read : ReadWait
  /-- each line's value and poison as the read found them -/
  got  : List (Nat × List Byte × BitVec 4)
  /-- each request, with the burst of the line's address that it reads -/
  ids  : List (Nat × Nat)
deriving DecidableEq, Repr
structure Fab where
  chmap0 : BitVec 28
  chmap1 : BitVec 28
  port   : Vector FPort 23
  panicCount : Nat
  nextId : Nat
  flights : List Flight
deriving DecidableEq, Repr
/-! ## Integrity (chapter 10) -/
/-- A leaky bucket (R334, R335). -/
structure Bucket where
  count : Nat
  isOver : Bool
  /-- the rank was retired for it since reset -/
  retired : Bool
  peak  : Nat
deriving DecidableEq, Repr
structure Err where
  summary : BitVec 19
  made    : Nat
  used    : Nat
  cleared : Nat
  madeValid : Bool
  madeSource : Nat
  madeGran : BitVec 4
  madeAddr : BitVec 40
  madeSince : Nat
  usedValid : Bool
  usedConsumer : Nat
  usedInst : Nat
  usedAddr : BitVec 40
  metaLost : Nat
  repaired : Nat
  sramCe   : Nat
  sramUe   : Nat
  voteAnchor : Nat
  votePolicy : Nat
  voteCal  : Nat
  repairPending : Bool
  interval : Nat
  thresh   : Nat
  retire   : Nat
  /-- INTERVAL, THRESH and RETIRE that `ERR_CONFIG` gave, in force from the next tick (R337) -/
  cfgNext  : Option (Nat × Nat × Nat)
  bkt      : Vector Bucket 37
  /-- injections armed by `ERR_INJECT` kinds 1 and 2: (kind, granule address) -/
  inject   : List (Nat × Nat)
deriving DecidableEq, Repr
/-! ## Tributary ports and dialect sequencers (chapters 11 and 12) -/
/-- Module states (R344). -/
inductive ModSt | absent | active | stale | mismatch | disabled
deriving DecidableEq, Repr
/-- A module's identity record (R349), 32 bytes; its fields are read from the bytes. -/
abbrev Ident := BitVec 256
/-- A module's captured output image (R363). -/
structure OutImage where
  pubSeq : Word
  bytes  : List Byte
deriving DecidableEq, Repr
/-- OUT_STATE of a module (R365, R370). -/
inductive OutSt | none | normal | hold | safe
deriving DecidableEq, Repr
/-- An input update that waits for a slot latch (R360). -/
structure InUpdate where
  bytes : List Byte
  len   : Nat
  mstat : Byte
  time  : BitVec 64
  ack   : Word
  zeroed : Bool
deriving DecidableEq, Repr
/-- A module-table entry (R343) with the port's account of its blocks. -/
structure Mod where
  state    : ModSt
  enable   : Bool
  inZero   : Bool
  poisonSafe : Bool
  expVendor : BitVec 16
  expProduct : BitVec 16
  ident    : Option Ident
  mac      : BitVec 48
  /-- an ASSIGN was sent or heard and no good DATA has come since (R344) -/
  assigned : Bool
  misses   : Nat
  reason   : Nat
  outState : OutSt
  image    : Option OutImage
  /-- ACK_SEQ of the module's last reply, or OUT_ACK recorded by OACK -/
  ackSeq   : Option Word
  prevUid  : Option (BitVec 64)
  /-- header of the input block (R358) -/
  cur      : Bool
  hStale   : Bool
  expired  : Bool
  hZeroed  : Bool
  seq      : Word
  hLen     : Nat
  mstat    : Byte
  time     : BitVec 64
  outAck   : Word
  /-- slot latched by a host read, and when (R360) -/
  latched  : Option (Bool × Nat)
  heldUp   : Option InUpdate
  /-- the module was heard in the current LISTEN window (R366) -/
  heard    : Bool
deriving DecidableEq, Repr
/-- An output block to capture: module, its owner context and the closed epoch (R363, R364). -/
structure Capture where
  addr  : Nat
  ctx   : Fin 16
  epoch : Nat
deriving DecidableEq, Repr
/-- Configuration of a port (R370). -/
structure TribCfg where
  pers    : BitVec 2
  coding  : Bool
  ethMode : Bool
  speed100 : Bool
  autoAddr : Bool
  phyAddr : BitVec 5
  missLimit : Nat
  div     : Nat
  cycle   : Nat
  respTo  : Nat
  gap     : Nat
  latchMax : Nat
  period  : Nat
  slots   : Nat
  slotUs  : Nat
  inBase  : BitVec 40
  outBase : BitVec 40
  inStride : Nat
  outStride : Nat
  mac     : BitVec 48
  group   : BitVec 48
deriving DecidableEq, Repr
/-- One tributary port. -/
structure Trib where
  installed : Bool
  cfg      : TribCfg
  link     : Bool
  token    : Bool
  startReason : Nat
  /-- PHY link-status bit as last read (R341) -/
  phyLink  : Bool
  linkFast : Bool
  mods     : Vector Mod 255
  /-- modules still to poll in the running cycle, and those whose reply is awaited -/
  toPoll   : List Nat
  awaiting : List Nat
  inCycle  : Bool
  cycleSeq : BitVec 16
  cycleStart : Nat
  cycleLast : Nat
  cycleMax : Nat
  overruns : Nat
  /-- roll-call: due, window open, ROLL, CLAIMs received in order (SRC MAC, WANT, identity) -/
  rollDue  : Bool
  /-- another roll-call is asked for while the window of one is open -/
  rollAgain : Bool
  rollOpen : Bool
  roll     : BitVec 16
  claims   : List (BitVec 48 × Nat × Ident)
  rollAssigned : Nat
  /-- no cycle has ended since the port started or took the token: the roll-call waits for one (R367, R368) -/
  first    : Bool
  /-- publishes of open epochs, and captures under way -/
  publish  : List Capture
  captures : List Capture
  framesOk : Nat
  framesBad : Nat
  misses   : Nat
  latchExp : Nat
  overwrite : Nat
  errs     : BitVec 6
  de       : Bool
  txd      : Bool
  rxd      : Bool
  /-- the SGMII transmitter and receiver are powered (R523) -/
  sgOn     : Bool
deriving DecidableEq, Repr
/-- An MDIO access queued on a bus (R341). -/
structure Mdio where
  port  : Nat
  write : Bool
  reg   : BitVec 5
  value : BitVec 16
  /-- the `TRIB_MDIO` that made it, by port and TAG; `none` for the port's own 10 ms poll -/
  cmd   : Option (Fin 12 × BitVec 16)
deriving DecidableEq, Repr
/-- What a waiting sequencer instruction waits for (R376). -/
inductive SWait
  | send (c : BitVec 9) | recv (rd : BitVec 4) (limit : Word) | drain | txl (v : Bool)
  | wedge (rd : BitVec 4) (kind : BitVec 2) (limit : Word) | cycles (n : Word)
  | mld (rd : BitVec 4) (off : Word)
  | lcfg (v : Word) | ldiv (v : Word)
  /-- the character boundary has come: the setting is made -/
  | done
deriving DecidableEq, Repr
/-- EXEC of `SEQ_STAT` (R393). -/
inductive SExec | off | executing | waiting | clean | trapped
deriving DecidableEq, Repr
/-- One dialect sequencer (R373, R380–R393). -/
structure Seqr where
  exec    : SExec
  stopreq : Bool
  imageReason : Nat
  pc      : Nat
  regs    : Vector Word 16
  imem    : AMap Word
  dmem    : AMap Byte
  /-- staging buffer; unlisted bytes are zero (R383) -/
  staging : AMap Byte
  wait    : Option SWait
  /-- the word address after the waiting instruction -/
  nextPc  : Nat
  image   : Nat
  paramBase : BitVec 40
  paramLen : Nat
  trap    : Nat
  trapPc  : Nat
  trapWord : Word
  trapArg : Word
  busy    : Nat
  ignored : Nat
  rxOverrun : Nat
  id      : Word
  entry   : Nat
  lcfg    : BitVec 13
  bitTime : Nat
  txq     : List (BitVec 9)
  sending : Option (BitVec 9)
  rxq     : List Word
  rxLost  : Bool
  /-- cycles since execution began (R382) -/
  time    : BitVec 64
  timeHi  : Word
  /-- selected module and its held image (R384) -/
  sel     : Option (Nat × OutImage × OutSt)
  /-- cycles not waiting since `SEQ_BUSY` was last taken -/
  worked  : Nat
deriving DecidableEq, Repr
/-! ## Mirror and Confluence (chapters 13 and 14) -/
/-- Frames of the mirror link (R398) and of the Confluence link (R417). -/
inductive LinkMsg
  | hello (h : Hello)
  | lines (pseq fidx : Nat) (es : List LineEntry)
  | epochEnd (e : EpochEnd)
  | restart (pseq : Nat) (reread : Bool)
  | ack (applied : Nat) (synced : Bool)
  | handover (last : Nat)
  | dying (last cause : Nat)
  | join (j : Join)
  | formed (members : BitVec 4)
  | wr (addr : Nat) (bytes : List Byte) (poison : Bool) (mgmt : Bool)
  | rdReq (tag lines addr : Nat)
  | rdCpl (tag idx : Nat) (status : Nat) (es : List LineEntry)
  | prepare (ctx epoch : Nat)
  | prepared (ctx epoch : Nat)
  | commit (ctx epoch : Nat)
  | abandon (ctx cause epoch : Nat)
  | resolve (es : List (Nat × Nat))
  | ctxsync (c : Nat) (r : CtxRec)
  | lost (slot : Nat)
  | epochs (es : List (Nat × Nat))
  | role (role cause : Nat)
  | apply (ctx epoch : Nat)
  | have_ (ctx epoch : Nat)
  | switch (trigger : Nat)
deriving DecidableEq, Repr
inductive LinkSt | down | training | up
deriving DecidableEq, Repr
/-- One mirror or Confluence port: link state and the replay window of R397. -/
structure LinkPort where
  link     : LinkSt
  retrains : Nat
  replayed : Nat
  tx       : Nat
  rx       : Nat
  /-- bytes sent and received since the rates were last taken -/
  sent     : Nat
  got      : Nat
  errs     : BitVec 4
  /-- next FSEQ to send, and the last FSEQ received good and in order -/
  fseq     : BitVec 16
  ackseq   : BitVec 16
  /-- frames sent and not acknowledged, oldest first, at most 64 -/
  window   : List (BitVec 16 × LinkMsg)
  backlog  : List LinkMsg
  /-- frames received in order and held, not acknowledged, behind a WR that the weir does not admit, which stands first (R422) -/
  hold     : List (BitVec 16 × LinkMsg)
  /-- how often each unacknowledged frame that was replayed was (R397); retrains in a row that failed -/
  replays  : List (BitVec 16 × Nat)
  failed   : Nat
  /-- a frame came in since the last frame went out: a mirror port owes a LINK frame (R398) -/
  owes     : Bool
deriving DecidableEq, Repr
/-- A packet that is due but has not begun (R401, R402). -/
structure PktDue where
  kind  : Nat
  ctx   : Nat
  first : Nat
  last  : Nat
  lines : List Nat
  sliceLast : Bool
  body  : PktBody
deriving DecidableEq, Repr
/-- A packet the PRIMARY has sent and the STANDBY has not acknowledged. -/
structure PktTx where
  pseq  : Nat
  due   : PktDue
  /-- its values are read, into these frames; a packet that is restarted is read again (R402, R410) -/
  read  : Bool
  frames : List (List LineEntry)
  /-- a restart made it to be read anew (R410) -/
  again : Bool
  /-- the LINES frames sent, and whether its EPOCH_END is -/
  next  : Nat
  ended : Bool
deriving DecidableEq, Repr
/-- A packet arriving on the STANDBY (R406). -/
structure PktRx where
  pseq   : Nat
  frames : List (Nat × List LineEntry)
  /-- entries that the weir has not admitted yet, with the fabric port they came in on -/
  waiting : List (Fin 23 × LineEntry)
  /-- the entries admitted: line, and the line of the shadow pool it was written into (R406) -/
  places : List (Nat × Nat)
  fin    : Option EpochEnd
deriving DecidableEq, Repr
structure Mir where
  role    : Role
  synced  : Bool
  partner : Option Hello
  heardAt : Nat
  conflict : Bool
  refuse  : Nat
  priority : Nat
  pair    : Bool
  autoSilent : Bool
  deadMs  : Nat
  resyncRate : Nat
  pseq    : Nat
  due     : List PktDue
  unacked : List PktTx
  rx      : List PktRx
  wrDropped : Nat
  switches : Nat
  port    : Vector LinkPort 2
  ctxSynced : BitVec 16
  globalSynced : Bool
  /-- slices still to send in a resynchronisation, and how many there were -/
  slices  : List PktDue
  sliceTotal : Nat
  /-- LATEST lines written since the last KIND 3 packet -/
  latest  : List Nat
  /-- it was STANDBY before it lost its partner (R414) -/
  wasStandby : Bool
  /-- a planned switch is waiting for the partner's HELLO (R412) -/
  switching : Bool
  /-- a switch that waits for aging (R119, R412): asked for by this chip's command, or by a SWITCH frame (`true`) -/
  switchAsked : Option Bool
  /-- packets applied as sealing, whose ACK waits for the seal (R407): PSEQ, segment, slot mark, whether its marker has been placed -/
  sealAck : List (Nat × Nat × Nat × Bool)
  /-- RESTARTs taken whose second copy may still come: PSEQ, and the port of the first (R398) -/
  restarted : List (Nat × Nat)
  /-- a planned switch has begun, and its last packets are still to be sent (R412) -/
  handing : Bool
  /-- PSEQs that a RESTART withdrew (R405) -/
  skip    : List Nat
  /-- the role another chip of the board announced (R434) -/
  boardRole : Option Role
  /-- newest APPLY and HAVE epochs of spanning contexts (R435): (context, epoch), (slot, context, epoch) -/
  applyTo : List (Nat × Nat)
  haves   : List (Nat × Nat × Nat)
deriving DecidableEq, Repr
inductive FormSt | forming | formed | failed
deriving DecidableEq, Repr
/-- PHASE of a spanning context's close (R436), with the instant D and the members that have answered. -/
structure Prep where
  phase  : BitVec 2
  since  : Nat
  epoch  : Nat
  done   : BitVec 4
  /-- where CLOSING returns to -/
  next   : CtxMode
  /-- an abandon that takes effect just after C (R427) -/
  abandonAfter : Option Nat
deriving DecidableEq, Repr
/-- A remote read in flight (R424). -/
structure RemRead where
  tag   : Nat
  slot  : Nat
  addr  : Nat
  len   : Nat
  since : Nat
  who   : Reader
  got   : List (Nat × LineEntry)
deriving DecidableEq, Repr
structure Conf where
  form    : FormSt
  members : BitVec 4
  lost    : BitVec 4
  reason  : Nat
  chips   : Nat
  formMs  : Nat
  home    : BitVec 32
  dropped : Nat
  prepMax : Nat
  rlatMax : Nat
  port    : Vector LinkPort 3
  joins   : Vector (Option Join) 3
  prep    : Vector Prep 16
  /-- slots that own EPOCH segments of each context -/
  owners  : Vector (BitVec 4) 16
  reads   : List RemRead
  nextTag : Nat
  /-- deferred abandons of R429 -/
  resolving : BitVec 16
  firstJoin : Option Nat
  /-- EPOCHS heard before this chip's own records are read (R430): (slot, context, epoch) -/
  epochs  : List (Nat × Nat × Nat)
  split   : BitVec 16
deriving DecidableEq, Repr
/-! ## Power (chapter 15) -/
inductive RailMode | off | rising | good | out | falling | faulted
deriving DecidableEq, Repr
/-- A rail's settings (R440), as the words of the rail table give them. -/
structure RailCfg where
  en     : Bool
  uv     : Nat
  ov     : Nat
  fall   : Nat
  filt   : Nat
  stable : Nat
  pgEn   : Bool
  retain : Bool
  shed   : Bool
  group  : Nat
  dep    : BitVec 16
  delay  : Nat
  riseTo : Nat
  shutDelay : Nat
  fallTo : Nat
  react  : Nat
  n      : Nat
  g      : Nat
deriving DecidableEq, Repr
structure Rail where
  cfg     : RailCfg
  mode    : RailMode
  enPin   : Bool
  inWin   : Bool
  pgPin   : Bool
  attempts : Nat
  retries : Nat
  lastFault : Nat
  mv      : Nat
  minMv   : Nat
  maxMv   : Nat
  glitch  : Nat
  /-- the start sequence or the shutdown that is moving this rail -/
  start   : Bool
  stop    : Bool
  /-- the rail is being restarted by a RETRY_RAIL reaction -/
  retrySeq : Bool
deriving DecidableEq, Repr
structure RstOut where
  rails   : BitVec 16
  stretch : Nat
  asserted : Bool
deriving DecidableEq, Repr
structure HubCfg where
  cells4 : Bool
  hyst   : Nat
  target : Nat
  div    : Nat
  rload  : Nat
  chgTo  : Nat
  measH  : Nat
  capEol : Nat
deriving DecidableEq, Repr
inductive SeqSt | off | starting | on | shutting | offWait | latched
deriving DecidableEq, Repr
inductive HubSt | idle | charging | full | measuring | saving | overvolt
deriving DecidableEq, Repr
structure Latch where
  rail  : Nat
  fault : Nat
  mode  : Nat
deriving DecidableEq, Repr
structure Pwr where
  vddAon  : Bool
  refclk  : Bool
  holdover : Bool
  seq     : SeqSt
  mode    : Nat
  retry   : Nat
  tableRom : Bool
  /-- the first power-up after a rail table was written (R445) -/
  tableNew : Bool
  nextMode : Nat
  fault   : BitVec 16
  latch   : Option Latch
  /-- the record of a latch that is cleared, to be logged and raised at the next READY (R447) -/
  latchDue : Option Latch
  retries : Nat
  retryOff : Nat
  /-- ms from the last sequence start to ON -/
  seqTime : Nat
  /-- the start failure that the shutdown under way ends in the latch for (R446) -/
  failing : Option Latch
  /-- groups that `PWR_GROUP` is starting or that a start failure has shut down: (group, retries made) (R446) -/
  groupSeqs : List (Nat × Nat)
  rail    : Vector Rail 16
  rst     : Vector RstOut 6
  hub     : HubCfg
  hubSt   : HubSt
  chg     : Bool
  bal     : Bool
  load    : Bool
  bankReady : Bool
  chgTimeout : Bool
  capLow  : Bool
  /-- OVERVOLT holds HUB_CHG low until the bank falls below TARGET -/
  overvolt : Bool
  reachedTarget : Bool
  vbank   : Nat
  /-- lowest sample of the last 10 ms, with recent samples (newest first) -/
  samples : List Nat
  cap     : Option Nat
  esr     : Option Nat
  psave   : Option Nat
  /-- measured since the last device reset (R155) -/
  measured : Bool
  measAge : Nat
  v0      : Nat
  v1      : Nat
  measAt  : Nat
  measDue : Bool
  /-- a `PWR_HUB_MEASURE` waits (R158) -/
  measCmd : Bool
  /-- `HUB_MEASURED` is to be raised once the measurement is in the ledger (R458) -/
  measRaise : Bool
  /-- time of the last measurement in the snapshot layout, as its COUNTERS record keeps it; 0 none (R492) -/
  measTime : Nat
  /-- the shutdown under way ends in a power-up by itself (R207), or in RETRY (R446), or in the latch -/
  offThen : Nat
  minOffDone : Bool
  /-- events of the span of R451, raised at the next READY -/
  heldEvents : List Event
  /-- power-event records held on-die (R462) -/
  heldLog : List (List Byte)
deriving DecidableEq, Repr
/-! ## Backup domain and ledger (chapter 16) -/
/-- Calendar fields, BCD (R472). -/
structure Cal8 where
  sub   : BitVec 10
  sec   : Byte
  min   : Byte
  hour  : Byte
  day   : BitVec 3
  date  : Byte
  month : Byte
  century : Bool
  year  : Byte
deriving DecidableEq, Repr
/-- A register write on its way into the backup domain (R473). -/
inductive BkdWrite
  | field (off : Nat) (v : Word)
  | halt (v : Bool)
  /-- the release that ends a `BKD_TIME_SET` -/
  | setEnd
  | alarm (off : Nat) (v : Word)
  | alarmCtrl (mask : BitVec 6) (armed pwronEn : Bool)
  | alarmArm (armed : Bool)
  | alarmSet (f : Cal8) (mask : BitVec 6) (arm pwronEn : Bool)
  | alarmAck
  | w1c (off : Nat) (v : Word)
deriving DecidableEq, Repr
structure Bkd where
  time    : Cal8
  halt    : Bool
  wrRej   : Bool
  timeLost : Bool
  oscStop : Bool
  yearWrap : Bool
  /-- the copy on the CCLK side (R473), with HALT and TIME_LOST as they stood -/
  copy    : Cal8
  copyHalt : Bool
  copyLost : Bool
  /-- snapshots of host, firmware and service port (R474), with HALT and TIME_LOST as latched -/
  snap    : Vector Cal8 3
  alarm   : Cal8
  mask    : BitVec 6
  armed   : Bool
  fired   : Bool
  skipped : Bool
  pwronEn : Bool
  pwron   : Bool
  /-- time of the last firing, `BKD_ALARM` due at the next READY (R478) -/
  firedAt : Option Cal8
  oscEvent : Bool
  swo     : BitVec 64
  swoValid : Bool
  onVbat  : Bool
  vbatLow : Bool
  swoCount : Nat
  vbat    : Nat
  /-- held in reset until the supply rises above 1.50 V -/
  inReset : Bool
  transit : List BkdWrite
  /-- T_h of the last halt -/
  th      : Cal8
  /-- times released with their command: `BKD_TIME_SET` under way -/
  setCmd  : Bool
deriving DecidableEq, Repr
/-- What a ledger write is for: it decides who learns of its end. -/
inductive LdgUse
  | anchor | policy | cal | settings (cls : Nat) | railTable | counters (t : Nat) | event | tag | user (ring : Nat) | raw | repair
deriving DecidableEq, Repr
/-- A page write queued or running (R480). -/
structure PageWrite where
  page  : Nat
  data  : List Byte
  use   : LdgUse
  /-- the job it belongs to -/
  job   : Nat
  tries : Nat
deriving DecidableEq, Repr
/-- A record to be written (R489): the ring it goes to is chosen when its turn comes. -/
structure LdgJob where
  id      : Nat
  area    : Nat
  type    : Nat
  inst    : Nat
  seq     : Option Nat
  payload : List Byte
  use     : LdgUse
  tries   : Nat
deriving DecidableEq, Repr
structure Ldg where
  /-- byte contents; an unlisted byte is erased, 0xFF -/
  mem     : AMap Byte
  /-- groups that do not correct (R482), and groups cut off, whose bytes are indeterminate (R481) -/
  uncorr  : List Nat
  cut     : List Nat
  jobs    : List LdgJob
  pages   : List PageWrite
  nextJob : Nat
  /-- where the next try of a failed record goes (R489) -/
  retryAt : Option Nat
  failed  : List Nat
  conflict : Bool
  conflictArea : Nat
  locked  : Bool
  writeFail : Bool
  pageWrites : Nat
  corr    : Nat
  bad     : Nat
  abandoned : Nat
  /-- areas whose newest record was read and rewritten since power-up (R491) -/
  settled : List Nat
deriving DecidableEq, Repr
/-! ## Start-up (chapter 17) -/
/-- A firmware image as its header gives it (R500), with what reading its code found. -/
structure FwImage where
  keyIndex : Nat
  seq     : Nat
  fil     : BitVec 16
  build   : Word
  codeLen : Nat
  entry   : Nat
  hash    : BitVec 384
  key     : List Byte
  sig     : List Byte
  headerOk : Bool
  /-- the code as read, or `none` where a codeword is uncorrectable -/
  code    : Option (List Byte)
deriving DecidableEq, Repr
structure Boot where
  stage   : Nat
  copy    : Nat
  reasonA : Nat
  reasonB : Nat
  haltCause : Nat
  fwSeq   : Nat
  revoked : BitVec 4
  /-- image bytes loaded over the service port (R502) -/
  loaded  : AMap Byte
  /-- the boot copies on NCH0 and NCH8: the NCFG in page 0 of their good blocks, the image -/
  copies  : Vector (Option Ncfg × Option FwImage) 2
  coreOut : Bool
  trainedDram : Bool
  trainedNand : Bool
  /-- `GLB_TIME` instants from which CRS is counted -/
  relAt   : Nat
  perstAt : Nat
  /-- events raised before a mailbox was ACTIVE (R505) -/
  held    : List Event
  heldLost : Bool
  /-- mailbox has been ACTIVE since reset -/
  anyActive : Bool
  /-- the reset a command asked for once its completion is written: 1 core, 2 orderly -/
  resetDue : Nat
  /-- the cause of the save that a command asked for, once its completion is written -/
  saveDue : Option Nat
  /-- `TEST_EN` was high at core reset release: the boot ROM is held in a factory test mode (R534) -/
  testEn  : Bool
deriving DecidableEq, Repr
/-! ## Lifecycle (R59) and outputs -/
inductive Life | off | stopped | running | draining | faulted
deriving DecidableEq, Repr
/-- One lifecycle instance. -/
structure UnitS where
  life  : Life
  /-- fault record -/
  fault : Word
  /-- time-out of the drain under way in ms, 0 none (R61) -/
  drainMs : Nat
deriving DecidableEq, Repr
/-- What the device sends outward. The newest is first. -/
inductive Out
  | dma (addr : BitVec 64) (bytes : List Byte) (poison : BitVec 64)
  | msix (vec : Nat) (addr : BitVec 64) (data : Word)
  | cpl (req : BitVec 16) (bytes : List Byte) (poison : Bool)
  | cplUr (req : BitVec 16)
  | cplCa (req : BitVec 16)
  /-- a host read of BAR0 that ends with Completer Abort (R191) -/
  | regCa
  | crs (req : BitVec 16)
  /-- the SET FEATURES of a read-retry level before a page is read again: address and P1–P3 (R221, R243) -/
  | nandRetry (ppa : Nat) (feature : Word)
  /-- a configuration completion, with what a read returns -/
  | cfgOk (req : BitVec 16) (v : Word)
  | reg (who : Requester) (v : Word)
  | svc (bytes : List Byte)
  /-- an SMBus transaction: whether the address and the command byte were acknowledged, and the bytes given (R73) -/
  | smb (addrAck codeAck : Bool) (bytes : List Byte)
  /-- a frame of a mirror or Confluence port, its CRC included (R397) -/
  | link (l : LinkId) (bytes : List Byte)
  | tribFrame (port : Nat) (bytes : List Byte)
  /-- a character on a legacy port's line: its levels in order, two for a bit, from start bit to stop bits (R380) -/
  | tribChar (port : Nat) (bits : List Bool)
  /-- `TRIBn_DE` of a serial port that sends a frame of its own (R340) -/
  | tribDe (port : Nat) (high : Bool)
  | mdio (bus : Nat) (write : Bool) (phy reg : BitVec 5) (v : BitVec 16)
  | read (fp : Nat) (bytes : List Byte) (poison : Bool)
  /-- an operation on a NAND bus: command bytes before and after it, page, and the bytes programmed (R221, R222) -/
  | nand (kind : NKind) (before after : List Byte) (ppa : Nat) (bytes : List Byte)
deriving DecidableEq, Repr
/-! ## The whole state -/
/-- What software may change in the configuration space (R33), and its error status. The identity, the capabilities and
their places are constants of `Machine/Pci`. -/
structure CfgSpace where
  command : BitVec 16
  /-- W1C bits of Status; bit 4, the capability list, is a constant -/
  status  : BitVec 16
  cacheLine : Byte
  intLine : Byte
  bar0    : BitVec 64
  bar2    : BitVec 64
  devCtl  : BitVec 16
  devSta  : BitVec 16
  devCtl2 : BitVec 16
  lnkCtl  : BitVec 16
  msixEn  : Bool
  msixMask : Bool
  ueSta   : Word
  ueMask  : Word
  ueSev   : Word
  ceSta   : Word
  ceMask  : Word
  aerCtl  : Word
deriving DecidableEq, Repr
/-- Instructions of the test access port (R535): those IEEE 1149.1 makes mandatory, and IDCODE. -/
inductive TapIr | idcode | bypass | sample | preload | extest
deriving DecidableEq, Repr
/-- Controller states of IEEE 1149.1 (R535). -/
inductive TapSt
  | reset | idle | selDr | capDr | shDr | ex1Dr | pauDr | ex2Dr | updDr | selIr | capIr | shIr | ex1Ir | pauIr | ex2Ir | updIr
deriving DecidableEq, Repr
/-- The test access port (R535). -/
structure Tap where
  /-- `TRST#` is released: the pull-down holds it low while it is unconnected -/
  trst  : Bool
  st    : TapSt
  ir    : TapIr
  /-- instruction bits shifted in, newest first; data bits in the register selected, first bit out at the head -/
  irBits : List Bool
  dr    : List Bool
  /-- update latches of the boundary cells: (cell, level) -/
  cells : AMap Bool
deriving DecidableEq, Repr
/-- MSI-X table and pending bits (R55). -/
structure Msix where
  table : Vector Word 256
  pba   : BitVec 64
deriving DecidableEq, Repr
/-- Retention engine: working memory, its metadata, contexts, copier and the weir. -/
structure Ret where
  segs    : AMap Seg
  sum     : SegSum
  ctx     : Vector Ctx 16
  lines   : AMap Line
  /-- home contents by local byte address, and shadow contents by the home address of their line -/
  dram    : AMap Byte
  shadow  : AMap Byte
  writes  : List Piece
  held    : List Held
  serial  : Nat
  /-- reads and writes accepted so far -/
  order   : Nat
  copy    : Copier
  weir    : Weir
  windows : Vector Window 64
deriving DecidableEq, Repr
/-- A setting whose ledger records are being written (R489): it takes effect once its command completes. -/
structure DueSet where
  /-- the ledger job that makes it durable -/
  job  : Nat
  op   : Nat
  desc : Desc
  /-- the targets that passed -/
  ts   : List Nat
  /-- its records are durable -/
  ready : Bool
deriving DecidableEq, Repr
/-- Host interface. -/
structure HostIf where
  mq      : Vector Mailbox 4
  bootAddr : BitVec 64
  bootStat : Nat
  bootReason : Nat
  setupBusy : Bool
  msix    : Msix
  cfg     : CfgSpace
  /-- commands accepted so far, on every port (R50) -/
  accepts : Nat
  svc     : Svc
  tele    : Telemetry
  /-- host TLPs that wait behind a held write or a deferred close (R102, R119) -/
  stream  : List HostTlp
  /-- the write at the head of the host stream that is not admitted (R165) -/
  heldHost : Bool
  auth    : Vector PortAuth 12
  /-- narrowings whose completion is not written yet (R66): arrival port, TAG, port narrowed, authorities removed -/
  narrow  : List (Fin 12 × BitVec 16 × Fin 12 × BitVec 6)
  /-- window descriptors whose `WIN_SET` is done and its completion not yet written (R100) -/
  winDue  : List (Fin 12 × BitVec 16 × Fin 64 × Window)
  /-- settings that wait for the ledger -/
  dueSets : List DueSet
deriving DecidableEq, Repr
structure State where
  glb   : Glb
  host  : HostIf
  ret   : Ret
  slu   : Slu
  store : Store
  scan  : Scan
  dch   : Vector Dch 4
  fab   : Fab
  err   : Err
  trib  : Vector Trib 12
  mdio  : Vector (List Mdio) 2
  seqr  : Vector Seqr 12
  mir   : Mir
  conf  : Conf
  pwr   : Pwr
  bkd   : Bkd
  ldg   : Ldg
  boot  : Boot
  tap   : Tap
  /-- lifecycle instances: NCH 0–15, SCAN 16, DCH 17–20, TRIB 21–32, SEQ 33–44, MIR 45–46, CONF 47–49 -/
  life  : Vector UnitS 50
  /-- number of the next free value (the model's own, not the spec's) -/
  free  : Nat
  out   : List Out
  pending : List Instr
deriving DecidableEq, Repr
/-- Why the machine stops with a fault. -/
inductive Fault
  /-- Raised by no row: every command of the block has an effect (log entry 4). -/
  | noSuchAddress
deriving DecidableEq, Repr
/-- Why the machine refuses a command. -/
inductive Refusal
  /-- Raised by an arm of `exec` whose command has no meaning yet. Safe: nothing is claimed of it. -/
  | notModelled (mnemonic : String)
deriving DecidableEq, Repr
/-! ## The machine right after reset: an always-on reset of a new device (R508), nothing powered but `VDD_AON`. -/
/-- A line never written (R86): what an unlisted line of `Ret.lines` is. -/
def Line.never : Line :=
  ⟨.never, 0, false, false, 0, 0, 0, none, 0, 0, 0, 0, 0, 0⟩
/-- A segment before the first configuration (R89): what an unlisted entry of `Ret.segs` is. -/
def Seg.new : Seg := ⟨.volatile, false, false, 0, false, false, false, 0⟩
def Mailbox.reset : Mailbox :=
  { state := .absent, sqBase := 0, cqBase := 0, eqBase := 0, sqLog2 := 0, cqLog2 := 0, eqLog2 := 0, cqVec := 0, eqVec := 0,
    tail := 0, fetch := 0, cqHead := 0, cqTail := 0, cqUsed := 0, eqUsed := 0, cqPhase := true, cqArmed := true, eqHead := 0, eqTail := 0,
    eqPhase := true, eqArmed := true, eqGap := false, eqLost := 0, dbRange := false, dmaFail := false, eqOver := false,
    mask := 0x7FFFE, cmds := [] }
def Svc.reset : Svc := ⟨false, 0, none, 0, [], [], false⟩
def Window.reset : Window := ⟨0, 0, 0, 0, 0⟩
def Glb.reset : Glb :=
  { fil := 0, fwbuild := 0, state := 0, resumed := false, chipid := 0, bootsrc := 0, uid := 0, aliasDiff := false,
    aliasOff := 0, time := 0, authRefused := 0, trapValid := false, trapReason := 0, trapWrite := false, trapSlot := 0,
    trapAddr := 0, trapReq := 0, trapCount := 0, latches := [], limits := [] }
/-- Default live policy (R63). -/
def PortAuth.defaults : Vector PortAuth 12 :=
  #v[⟨7, 7⟩, ⟨7, 7⟩, ⟨7, 7⟩, ⟨7, 7⟩, ⟨2, 2⟩, ⟨15, 15⟩, ⟨17, 17⟩, ⟨17, 17⟩, ⟨33, 33⟩, ⟨33, 33⟩, ⟨33, 33⟩, ⟨0, 0⟩]
/-- The MSI-X table after reset: every vector masked, as PCI Express has it (R55; log entry 143). -/
def Msix.reset : Msix := ⟨Vector.ofFn fun i : Fin 256 => if i.val % 4 = 3 then 1 else 0, 0⟩
/-- The configuration space after reset: PCI Express gives the values of what R33 names (log entry 142). -/
def CfgSpace.reset : CfgSpace :=
  { command := 0, status := 0, cacheLine := 0, intLine := 0, bar0 := 0, bar2 := 0, devCtl := 0x2800, devSta := 0, devCtl2 := 0,
    lnkCtl := 0, msixEn := false, msixMask := false, ueSta := 0, ueMask := 0, ueSev := 0x00462030, ceSta := 0, ceMask := 0x2000, aerCtl := 0 }
/-- The TAP with `TRST#` low (R535). -/
def Tap.reset : Tap := ⟨false, .reset, .idcode, [], [], []⟩
def HostIf.reset : HostIf :=
  { mq := Vector.replicate 4 Mailbox.reset, bootAddr := 0, bootStat := 0, bootReason := 0, setupBusy := false,
    msix := Msix.reset, cfg := CfgSpace.reset, accepts := 0, svc := Svc.reset, tele := ⟨Vector.replicate 10 0, false⟩, stream := [],
    heldHost := false, auth := PortAuth.defaults, narrow := [], winDue := [], dueSets := [] }
/-- A context of a new device (R115, R145). -/
def Ctx.new : Ctx :=
  { mode := .idle, closeTo := .idle, closeFrom := .idle, epoch := 1, commit := 0, discard := 0, cause := 0, released := false,
    policy := 0, rank := 0, minPeriod := 10, wdog := 0, bankSeg := 0, bankCount := 0, lastClose := none, armed := 0,
    closeAt := 0, lastPeriod := 0, closeLat := 0, closeMax := 0, rejects := 0, rejSince := 0, dropped := 0, closes := 0,
    lastReject := 0, aging := [], deferred := none, deferAt := 0, warned := false }
def Copier.reset : Copier := ⟨16, 4000, [], [], 15, 0, 0, 0, 0⟩
/-- Calibration before any `WEIR_CALIBRATE` (R181, R184). -/
def Cal.defaults : Cal := ⟨200, 300, 2000, 90, 60, 310, 11000, 40⟩
def Weir.reset : Weir :=
  { millpond := 0, allow := 0, level := 0, noBank := false, poolLimited := false, debtHigh := false, measDefer := false,
    rising := [], inCap := 0, inEsr := 0, inVbank := 0, inPsave := 0, inRate := 0, inKesr := 0,
    holdSince := none, dryRaised := false, holdMax := 0, holdCount := 0, mgmtRefused := 0, res := #v[32, 2, 8, 12, 4],
    cal := Cal.defaults, soft := 2000, softTokens := 65536, mirLagMax := 25, epochWarn := 50, bucket := 0, bktRate := 60,
    bktDepth := 64, debt := 0, debtLimit := 256, debtRecorded := 0, cleanRate := 0, cleaned := 0, emerg := 0 }
def Ret.reset : Ret :=
  { segs := [], sum := ⟨16384, 2048, 4, 0, false, false, 0⟩, ctx := Vector.replicate 16 Ctx.new, lines := [], dram := [],
    shadow := [], writes := [], held := [], serial := 0, order := 0, copy := Copier.reset, weir := Weir.reset,
    windows := Vector.replicate 64 Window.reset }
def Slu.reset : Slu :=
  { phase := .idle, streaming := false, restoreDone := false, inputGood := false, mode := false, gpolicy := 0,
    lostPolicy := false, trip := 900, good := 960, vinFilt := 1, pinFilt := 0, resumeFilt := 50, vin := 0, lastCause := 0,
    lastOutcome := 0, lastOver := false, lastChFault := false, lastRailLeft := false, lastDramPoison := false,
    lastEmpty := false, lastRecords := 0, lastTseal := 0, lastVT0 := 0, lastVSeal := 0, lastRate := 0, saves := 0,
    cause := 0, t0 := 0, vT0 := 0, overAtT0 := false, chFault := false, railLeft := false, dramPoison := false,
    records := 0, metaLeft := 0, sealLeft := 0, sealTried := 0, noArea := false, sealAt := 0, vSeal := 0,
    ctxT0 := [], segT0 := [], runAtT0 := [], drainAtT0 := [], rtcT0 := 0, covered := [], held := none, heldAt := 0, pending := none, askedAt := 0, sealCut := [],
    reportDue := false, pfail := false, everRestored := false, unbuilt := [], todo := [], prefetch := [], sets := [], rstEager := false, rstDone := 0,
    rstTotal := 0, rstStart := 0, rstTime := 0, faultCount := 0, faultMax := 0, faults := [], reads := [], dropped := 0,
    recordBad := 0 }
/-- A block that no table lists: good, free and never erased. -/
def Blk.fresh : Blk := ⟨false, 0, false, false, false⟩
def Nch.reset : Nch := ⟨true, 0, 0, false, 0, [], [], 0, 0, 0, 0, Vector.replicate 4 0⟩
/-- NCFG of the store (R221): the manual gives its fields and no values; these are the model's. -/
def Ncfg.new : Ncfg := ⟨4, 4, 0, 1364, 512, 0, 0, 0, 0, 0, 700, 60, 10000, 30000, []⟩
def Store.new : Store :=
  { ncfg := Ncfg.new, ch := Vector.replicate 16 Nch.reset, ops := [], waitq := [], badWords := [], tableDue := false, ckptDue := false, ckptAt := 0, mergeAt := 0, blocks := [], wiped := 0, formatGood := [], ring := ⟨0, 0, 0, 0, [], none, 0, false⟩,
    root := none, ckpts := [], images := [], journal := [], stripe := none, oldStripes := [], filling := [], fillAt := 0, placed := 0,
    jseq := 0, jt := 0, nextArea := none, ready := none, readying := none, sealed := [], gen := 0, unsealed := none, ageMin := 4,
    mergeFrac := 50, auditH := 24, refreshBits := 40, mergeRate := 60, jrnMax := 128, cleaning := false, emergency := false,
    merging := false, auditing := false, spaceLow := false, walk := 0, auditLine := 0, auditPage := 0, auditProgress := 0,
    auditEnd := 0, auditStart := 0, auditFixed := 0, auditRefreshed := 0, dramFixed := 0, refresh := 0, lost := 0,
    wrClean := 0, wrSave := 0, wrMerge := 0, wrOther := 0, evacuating := 0 }
def ScanCtx.reset : ScanCtx :=
  ⟨none, false, 0, false, none, false, none, false, [], 0, (0, 0), none, 0, 0⟩
def Scan.reset : Scan :=
  ⟨0xFFFF, 0xFFFF, Vector.replicate 16 ScanCtx.reset, none, [], 0, 0, 0, 0⟩
/-- A channel of the population the model takes for a new device: one 8 Gb rank, no spare. -/
def Dch.reset : Dch :=
  { trained := false, selfRef := false, ref2x := false, restarts := 0, dead := false, ranks := 1, density := false,
    spareEn := false, spare := 0, wcrc := false, dbi := true, refMode := 0, migRate := 2000,
    tim := #v[0x16161016, 0x18228434, 0x02308CC4, 0x000030C0], bg0 := 0x111, bg1 := 0x222, ba0 := 0x444, ba1 := 0x888,
    rank := #v[.inService, .absent, .absent], mig := none, failedRanks := [], reqs := [], wq := [], draining := false,
    rows := [], hitStreak := 0, hitRow := none, postponed := #v[0, 0, 0], postMax := 0, ce := #v[0, 0, 0], ue := #v[0, 0, 0],
    ueSum := #v[0, 0, 0], caparRetry := 0, wcrcRetry := 0, retries := [], fwd := 0, rawWait := 0, dropped := 0, errs := 0, lastCmd := .nop,
    waiting := [] }
/-- Latency targets of R299. -/
def FPort.defaults : Vector FPort 23 :=
  let f (t : Nat) : FPort := ⟨t, 75, 50, false, 0⟩
  #v[f 1000, f 2000, f 2000, f 2000, f 2000, f 2000, f 2000, f 2000, f 2000, f 2000, f 2000, f 2000, f 2000, f 2000,
     f 1000, f 1000, f 1000, f 1000, f 1000, f 4000, f 20000, f 500, f 500]
def Fab.reset : Fab := ⟨0x0101010, 0x0202020, FPort.defaults, 0, 0, []⟩
def Err.reset : Err :=
  { summary := 0, made := 0, used := 0, cleared := 0, madeValid := false, madeSource := 0, madeGran := 0, madeAddr := 0,
    madeSince := 0, usedValid := false, usedConsumer := 0, usedInst := 0, usedAddr := 0, metaLost := 0, repaired := 0,
    sramCe := 0, sramUe := 0, voteAnchor := 0, votePolicy := 0, voteCal := 0, repairPending := false, interval := 10,
    thresh := 16, retire := 48, cfgNext := none, bkt := Vector.replicate 37 ⟨0, false, false, 0⟩, inject := [] }
def Mod.new : Mod :=
  { state := .absent, enable := true, inZero := false, poisonSafe := true, expVendor := 0, expProduct := 0, ident := none,
    mac := 0, assigned := false, misses := 0, reason := 0, outState := .none, image := none, ackSeq := none, prevUid := none,
    cur := false, hStale := false, expired := false, hZeroed := false, seq := 0, hLen := 0, mstat := 0, time := 0,
    outAck := 0, latched := none, heldUp := none, heard := false }
/-- Settings of a new port (R370); MAC and GROUP by R347, the MAC's first byte in bits [7:0]. -/
def TribCfg.new (uid : BitVec 64) (n : Nat) : TribCfg :=
  { pers := 0, coding := false, ethMode := false, speed100 := false, autoAddr := true, phyAddr := 0, missLimit := 3, div := 50,
    cycle := 1000, respTo := 50, gap := 20, latchMax := 10, period := 1000, slots := 16, slotUs := 40, inBase := 0,
    outBase := 0, inStride := 3, outStride := 2, mac := BitVec.ofNat 48 (0x02 + uid.toNat / 2 ^ 24 % 256 * 2 ^ 8 + uid.toNat / 2 ^ 16 % 256 * 2 ^ 16 + uid.toNat / 2 ^ 8 % 256 * 2 ^ 24
      + uid.toNat % 256 * 2 ^ 32 + n * 2 ^ 40),
    group := BitVec.ofNat 48 (0x00631E0003 + n * 2 ^ 40) }
def Trib.reset (uid : BitVec 64) (n : Nat) : Trib :=
  { installed := true, cfg := TribCfg.new uid n, link := false, token := true, startReason := 0, phyLink := false,
    linkFast := false, mods := Vector.replicate 255 Mod.new, toPoll := [], awaiting := [], inCycle := false, cycleSeq := 0,
    cycleStart := 0, cycleLast := 0, cycleMax := 0, overruns := 0, rollDue := false, rollAgain := false, rollOpen := false, roll := 0,
    claims := [], rollAssigned := 0, first := false, publish := [], captures := [], framesOk := 0, framesBad := 0, misses := 0,
    latchExp := 0, overwrite := 0, errs := 0, de := false, txd := true, rxd := true, sgOn := false }
def Seqr.reset : Seqr :=
  { exec := .off, stopreq := false, imageReason := 0, pc := 0, regs := Vector.replicate 16 0, imem := [], dmem := [],
    staging := [], wait := none, nextPc := 0, image := 0, paramBase := 0, paramLen := 0, trap := 0, trapPc := 0,
    trapWord := 0, trapArg := 0, busy := 0, ignored := 0, rxOverrun := 0, id := 0, entry := 0, lcfg := 8, bitTime := 2000,
    txq := [], sending := none, rxq := [], rxLost := false, time := 0, timeHi := 0, sel := none, worked := 0 }
def LinkPort.reset : LinkPort := ⟨.down, 0, 0, 0, 0, 0, 0, 0, 0, 0xFFFF, [], [], [], [], 0, false⟩
def Mir.reset : Mir :=
  { role := .solo, synced := false, partner := none, heardAt := 0, conflict := false, refuse := 0, priority := 0, pair := true,
    autoSilent := false, deadMs := 10, resyncRate := 4000, pseq := 0, due := [], unacked := [], rx := [], wrDropped := 0,
    switches := 0, port := Vector.replicate 2 LinkPort.reset, ctxSynced := 0, globalSynced := false, slices := [],
    sliceTotal := 0, latest := [], wasStandby := false, switching := false, switchAsked := none, sealAck := [], restarted := [], handing := false, skip := [], boardRole := none, applyTo := [],
    haves := [] }
def Conf.reset : Conf :=
  { form := .forming, members := 0, lost := 0, reason := 0, chips := 1, formMs := 1000, home := 0, dropped := 0, prepMax := 0, rlatMax := 0, port := Vector.replicate 3 LinkPort.reset,
    joins := Vector.replicate 3 none, prep := Vector.replicate 16 ⟨0, 0, 0, 0, .idle, none⟩,
    owners := Vector.replicate 16 0, reads := [], nextTag := 0, resolving := 0, firstJoin := none, epochs := [],
    split := 0 }
/-- A rail of the ROM default table (R441). -/
def RailCfg.rom (en : Bool) (dep : BitVec 16) (group : Nat) (retain : Bool) : RailCfg :=
  { en := en, uv := 576, ov := 624, fall := 60, filt := 4, stable := 10, pgEn := false, retain := retain, shed := false,
    group := group, dep := dep, delay := 5, riseTo := 10, shutDelay := 10, fallTo := 5, react := 3, n := 0, g := 0 }
/-- The rails of the ROM default table (R441). -/
def RailCfg.romTable : Vector RailCfg 16 :=
  let x := RailCfg.rom false 0 0 false
  #v[.rom true 0 0 true, .rom true 0x0001 0 true, .rom true 0x0002 0 false, .rom true 0x0002 0 false,
     .rom true 0x0020 1 true, .rom true 0x0002 1 true, .rom true 0x0004 2 false, .rom true 0x0044 2 false,
     x, x, x, x, x, x, x, x]
def Rail.reset (c : RailCfg) : Rail :=
  ⟨c, .off, false, false, false, 0, 0, 0, 0, 0, 0, 0, false, false, false⟩
def HubCfg.rom : HubCfg := ⟨false, 10, 5000, 10000, 1000, 120, 24, 70⟩
def Pwr.reset : Pwr :=
  { vddAon := true, refclk := true, holdover := false, seq := .off, mode := 0, retry := 0, tableRom := false, tableNew := false,
    nextMode := 0, fault := 0, latch := none, latchDue := none, retries := 3, retryOff := 500, seqTime := 0, failing := none, groupSeqs := [],
    rail := RailCfg.romTable.map Rail.reset, rst := Vector.replicate 6 ⟨0x00FF, 20, true⟩, hub := HubCfg.rom,
    hubSt := .idle, chg := false, bal := false, load := false, bankReady := false, chgTimeout := false, capLow := false,
    overvolt := false, reachedTarget := false, vbank := 0, samples := [], cap := none, esr := none, psave := none,
    measured := false, measAge := 0xFFFF, v0 := 0, v1 := 0, measAt := 0, measDue := false, measCmd := false, measRaise := false, measTime := 0, offThen := 0,
    minOffDone := true, heldEvents := [], heldLog := [] }
/-- The time after a domain reset (R469). -/
def Cal8.por : Cal8 := ⟨0, 0, 0, 0, 1, 1, 1, false, 0⟩
/-- A snapshot before its first `RTC_SEC` read (R474), and the cleared time of a stamp. -/
def Cal8.zero : Cal8 := ⟨0, 0, 0, 0, 0, 0, 0, false, 0⟩
def Bkd.reset : Bkd :=
  { time := Cal8.por, halt := true, wrRej := false, timeLost := true, oscStop := false, yearWrap := false, copy := Cal8.por,
    copyHalt := true, copyLost := true,
    snap := Vector.replicate 3 Cal8.zero, alarm := Cal8.por, mask := 0, armed := false, fired := false, skipped := false,
    pwronEn := false, pwron := false, firedAt := none, oscEvent := false, swo := 0, swoValid := false, onVbat := false,
    vbatLow := false, swoCount := 0, vbat := 0, inReset := false, transit := [], th := Cal8.por, setCmd := false }
def Ldg.blank : Ldg :=
  { mem := [], uncorr := [], cut := [], jobs := [], pages := [], nextJob := 0, retryAt := none, failed := [], conflict := false,
    conflictArea := 0, locked := true, writeFail := false, pageWrites := 0, corr := 0, bad := 0, abandoned := 0, settled := [] }
def Boot.reset : Boot :=
  { stage := 0, copy := 0, reasonA := 0, reasonB := 0, haltCause := 0, fwSeq := 0, revoked := 0, loaded := [],
    copies := Vector.replicate 2 (none, none), coreOut := false, trainedDram := false, trainedNand := false, relAt := 0,
    perstAt := 0, held := [], heldLost := false, anyActive := false, resetDue := 0,
    saveDue := none, testEn := false }
/-- The state right after reset (R508), of a new device. -/
def State.reset : State :=
  { glb := Glb.reset, host := HostIf.reset, ret := Ret.reset, slu := Slu.reset, store := Store.new, scan := Scan.reset,
    dch := Vector.replicate 4 Dch.reset, fab := Fab.reset, err := Err.reset,
    trib := Vector.ofFn fun n : Fin 12 => Trib.reset 0 n, mdio := Vector.replicate 2 [],
    seqr := Vector.replicate 12 Seqr.reset, mir := Mir.reset, conf := Conf.reset, pwr := Pwr.reset, bkd := Bkd.reset,
    ldg := Ldg.blank, boot := Boot.reset, tap := Tap.reset, life := Vector.replicate 50 ⟨.off, 0, 0⟩, free := 0, out := [], pending := [] }
end Sys2Proof.Machine
end

