-- ==== Sys2Proof/Machine/Ops.lean ====
section
/-! DEFINITION. The shared operations: sparse memory, bytes and checks, the line table and what it says of a line,
the segment table, and raising an event. -/
namespace Sys2Proof
/-! ## Bits and bytes -/
/-- Bits `[lo + n - 1 : lo]` of a word, as a number. -/
def bits {w : Nat} (v : BitVec w) (lo n : Nat) : Nat := (v.toNat >>> lo) % 2 ^ n
/-- Bit `i` of a number. -/
def bitN (v i : Nat) : Bool := v.testBit i
def b2n (b : Bool) : Nat := if b then 1 else 0
/-- The `n` bytes of `v`, least significant first (R7). -/
def leBytes : Nat → Nat → List Byte
  | 0, _ => []
  | n + 1, v => BitVec.ofNat 8 v :: leBytes n (v / 256)
/-- The number that bytes spell, least significant first (R7). -/
def leNat : List Byte → Nat
  | [] => 0
  | b :: t => b.toNat + 256 * leNat t
/-- Bytes `off` to `off + n - 1` of a structure, as a number. -/
def field (b : List Byte) (off n : Nat) : Nat := leNat ((b.drop off).take n)
/-- Whether `n` bytes from `off` on are all zero. -/
def zeros (b : List Byte) (off n : Nat) : Bool := ((b.drop off).take n).all (· == 0)
def sat (n v : Nat) : Nat := min v (2 ^ n - 1)
/-- A word made of fields: (lowest bit, value). The fields do not overlap. -/
def pack (fs : List (Nat × Nat)) : Nat := fs.foldl (fun a p => a ||| (p.2 <<< p.1)) 0
def packW (fs : List (Nat × Nat)) : Word := BitVec.ofNat 32 (pack fs)
def rep (n : Nat) (b : Byte) : List Byte := List.replicate n b
/-- A list with `x` before the first element that it does not exceed, and a list put in order; equals keep their order. -/
def insertBy {α : Type} (le : α → α → Bool) (x : α) : List α → List α
  | [] => [x]
  | y :: t => if le x y then x :: y :: t else y :: insertBy le x t
def sortBy {α : Type} (le : α → α → Bool) (l : List α) : List α := l.foldr (insertBy le) []
def sortNat (l : List Nat) : List Nat := sortBy (fun a b => decide (a ≤ b)) l
/-! ## Check codes -/
/-- One bit of the reflected CRC-32 of IEEE 802.3. -/
def crc32Bit (c : BitVec 32) : BitVec 32 := if c.getLsbD 0 then (c >>> 1) ^^^ 0xEDB88320 else c >>> 1
def crc32Byte (c : BitVec 32) (b : Byte) : BitVec 32 :=
  let x := c ^^^ b.zeroExtend 32
  crc32Bit (crc32Bit (crc32Bit (crc32Bit (crc32Bit (crc32Bit (crc32Bit (crc32Bit x)))))))
/-- CRC-32, IEEE 802.3 polynomial (R97, R196). -/
def crc32 (bs : List Byte) : BitVec 32 := ~~~(bs.foldl crc32Byte 0xFFFFFFFF)
def crc16Bit (c : BitVec 16) : BitVec 16 := if c.getLsbD 15 then (c <<< 1) ^^^ 0x1021 else c <<< 1
def crc16Byte (c : BitVec 16) (b : Byte) : BitVec 16 :=
  let x := c ^^^ (b.zeroExtend 16 <<< 8)
  crc16Bit (crc16Bit (crc16Bit (crc16Bit (crc16Bit (crc16Bit (crc16Bit (crc16Bit x)))))))
/-- CRC-16 of the service port: polynomial 0x1021, initial value 0xFFFF, no reflection (R71). -/
def crc16 (bs : List Byte) : BitVec 16 := bs.foldl crc16Byte 0xFFFF
/-! ## Codes of the shared types -/
def RClass.code : RClass → Nat
  | .volatile => 0 | .epoch => 1 | .latest => 2 | .constant => 3
def RClass.ofCode (n : Nat) : RClass :=
  if n % 4 = 1 then .epoch else if n % 4 = 2 then .latest else if n % 4 = 3 then .constant else .volatile
/-- A segment entry as R88 encodes it, for a segment that exists. -/
def Seg.word (e : Seg) : Word :=
  packW [(0, e.cls.code), (2, b2n e.sealed), (3, b2n e.loading), (4, if e.cls = .epoch then e.owner.val else 0),
    (8, b2n e.retentive), (9, b2n e.prio), (10, b2n e.loadLost), (16, 1)]
/-- The entry that an R88 word spells; the CRC of a sealed segment is not part of it. -/
def Seg.ofWord (w : Word) (crc : BitVec 32) : Seg :=
  ⟨RClass.ofCode (bits w 0 2), w.getLsbD 2, w.getLsbD 3, Fin.ofNat 16 (bits w 4 4), w.getLsbD 8, w.getLsbD 9, w.getLsbD 10, crc⟩
def CtxMode.code : CtxMode → Nat
  | .idle => 0 | .running => 1 | .closing => 2 | .paused => 3 | .abandoned => 4
def LClass.base : LClass → Nat
  | .nst => 0 | .scan => 16 | .dch => 17 | .trib => 21 | .seq => 33 | .mir => 45 | .conf => 47
def LClass.size : LClass → Nat
  | .nst => 16 | .scan => 1 | .dch => 4 | .trib => 12 | .seq => 12 | .mir => 2 | .conf => 3
/-- The unit-class code (R20). -/
def LClass.code : LClass → Nat
  | .nst => 0x07 | .scan => 0x08 | .dch => 0x09 | .trib => 0x0B | .seq => 0x0C | .mir => 0x0D | .conf => 0x0E
def LClass.all : List LClass := [.nst, .scan, .dch, .trib, .seq, .mir, .conf]
end Sys2Proof
namespace Sys2Proof.Machine
/-! ## Sparse data by key -/
/-- What key `k` holds in `m`, whose unlisted keys hold `d`. -/
def mget {α : Type} (d : α) (m : AMap α) (k : Nat) : α :=
  match m with
  | [] => d
  | (j, v) :: t => if j = k then v else mget d t k
/-- `m` with `v` at key `k`, in canonical form: keys rise, and no entry holds the default. -/
def mset {α : Type} [DecidableEq α] (d : α) (m : AMap α) (k : Nat) (v : α) : AMap α :=
  match m with
  | [] => if v = d then [] else [(k, v)]
  | (j, w) :: t =>
    if k < j then (if v = d then (j, w) :: t else (k, v) :: (j, w) :: t)
    else if k = j then (if v = d then t else (k, v) :: t)
    else (j, w) :: mset d t k v
/-- `m` without the keys from `lo` to below `hi`. -/
def mdrop {α : Type} (m : AMap α) (lo hi : Nat) : AMap α :=
  m.filter fun p => !(decide (lo ≤ p.1) && decide (p.1 < hi))
/-- The canonical form: strictly rising keys, no default entry. -/
def mwf {α : Type} [DecidableEq α] (d : α) : AMap α → Bool
  | [] => true
  | (k, v) :: t => decide (v ≠ d) && t.all (fun p => decide (k < p.1)) && mwf d t
/-- Write a run of values from key `k` on. -/
def mputs {α : Type} [DecidableEq α] (d : α) (m : AMap α) (k : Nat) : List α → AMap α
  | [] => m
  | v :: vs => mputs d (mset d m k v) (k + 1) vs
/-- Read `n` values from key `k` on. -/
def mgets {α : Type} (d : α) (m : AMap α) (k : Nat) : Nat → List α
  | 0 => []
  | n + 1 => mget d m k :: mgets d m (k + 1) n
/-- `v` with entry `i` changed by `f`. -/
def vmod {α : Type} {n : Nat} (v : Vector α n) (i : Fin n) (f : α → α) : Vector α n :=
  v.set i (f v[i])
/-! ## Time -/
/-- CCLK cycles in one millisecond and one microsecond (R27). -/
def cyclesMs : Nat := 800000
def cyclesUs : Nat := 800
def State.now (s : State) : Nat := s.glb.time.toNat
/-- `SCAN_TICK`: 100 µs ticks since core reset release (R31, R283). -/
def State.tick (s : State) : Nat := s.now / 80000
def toUs (cycles : Nat) : Nat := cycles / cyclesUs
/-! ## The chip, its memory and its segments -/
def State.slot (s : State) : Nat := s.glb.chipid.toNat
/-- Working-memory address of a line of this chip (R79, R80). -/
def State.wma (s : State) (line : Nat) : BitVec 40 := BitVec.ofNat 40 (s.slot * 2 ^ 38 + line * 256)
/-- The port that is wired to a slot (R416). -/
def confTo (s : State) (j : Nat) : Fin 3 := Fin.ofNat 3 ((j + 3 - s.slot) % 4)
def portTo (s : State) (j : Nat) : LinkId := .conf (confTo s j)
def windowAt (s : State) (off : BitVec 36) : Window := s.ret.windows[(Fin.ofNat 64 (off.toNat / 2 ^ 30))]
/-- Working-memory address that a window names for an offset. -/
def windowAddr (s : State) (off : BitVec 36) : Nat := (windowAt s off).base.toNat + off.toNat % 2 ^ 30
def lineOf (addr : Nat) : Nat := addr / 256
def segOf (line : Nat) : Nat := line / 8192
def segLine (seg : Nat) : Nat := seg * 8192
/-- `SEG_RESERVE`: 1/64 of installed memory (R76). -/
def State.segReserve (s : State) : Nat := s.ret.sum.installed / 64
/-- `SEG_USABLE`: the number of existing segments (R76, R81). -/
def State.usable (s : State) : Nat := s.ret.sum.installed - s.segReserve - s.ret.sum.shadow
def State.segExists (s : State) (seg : Nat) : Bool := decide (seg < s.usable)
def State.seg (s : State) (seg : Nat) : Seg := mget Seg.new s.ret.segs seg
def State.setSeg (s : State) (seg : Nat) (e : Seg) : State :=
  { s with ret := { s.ret with segs := mset Seg.new s.ret.segs seg e } }
def State.lineAt (s : State) (l : Nat) : Line := mget Line.never s.ret.lines l
def State.setLine (s : State) (l : Nat) (x : Line) : State :=
  { s with ret := { s.ret with lines := mset Line.never s.ret.lines l x } }
def State.ctxAt (s : State) (c : Fin 16) : Ctx := s.ret.ctx[c]
def State.onCtx (s : State) (c : Fin 16) (f : Ctx → Ctx) : State :=
  { s with ret := { s.ret with ctx := vmod s.ret.ctx c f } }
def State.onWeir (s : State) (f : Weir → Weir) : State :=
  { s with ret := { s.ret with weir := f s.ret.weir } }
def State.onCopy (s : State) (f : Copier → Copier) : State :=
  { s with ret := { s.ret with copy := f s.ret.copy } }
/-- The class a line's segment has, and its owner. -/
def State.lineSeg (s : State) (l : Nat) : Seg := s.seg (segOf l)
/-- STATE codes of R121. -/
def LState.code : LState → Nat
  | .never => 0 | .clean => 1 | .unrestored => 2 | .opened => 3 | .committed => 4 | .openOver => 5 | .dirty => 6 | .written => 7
/-- The effective state and FLIP of a line of context `x` (R117). -/
def effective (x : Ctx) (l : Line) : LState × Bool :=
  match l.state with
  | .opened | .openOver =>
    if BitVec.ofNat 8 x.epoch = l.stamp then (l.state, l.flip)
    else if x.discard.getLsbD l.stamp.toNat then
      (if l.state = .opened then (if l.baseZero then (.never, false) else (.unrestored, false)) else (.committed, !l.flip))
    else (.committed, l.flip)
  | _ => (l.state, l.flip)
/-- The effective state of line `l` (R117); only EPOCH lines have an owner. -/
def State.eff (s : State) (l : Nat) : LState × Bool :=
  let g := s.lineSeg l
  if g.cls = .epoch then effective (s.ctxAt g.owner) (s.lineAt l) else ((s.lineAt l).state, (s.lineAt l).flip)
/-- A deferred close holds the context's EPOCH writes and the host stream (R119). -/
def closeHolds (x : Ctx) : Bool := match x.deferred with | some (.close _ _) => true | _ => false
/-- Whether a line of class `k` in effective state `e` counts against the millpond (R149). -/
def counts (k : RClass) (e : LState) : Bool :=
  match k, e with
  | .epoch, .opened | .epoch, .openOver | .epoch, .committed | .latest, .dirty => true
  | _, _ => false
/-- Whether an entry of the line table counts (R149). -/
def State.countsLine (s : State) (l : Nat) : Bool := counts (s.lineSeg l).cls (s.eff l).1
/-- The counting lines, by number, with their metadata. -/
def State.counted (s : State) : List (Nat × Line) := s.ret.lines.filter fun p => s.countsLine p.1
/-- Provisional charges outstanding, one per accepted piece (R150). -/
def State.provisional (s : State) : List Piece := s.ret.writes.filter fun p => p.charge.isSome
/-- Line entries of arriving mirror packets that are admitted, each charged to MIRROR (R178, R406). -/
def State.mirHeld (s : State) : Nat :=
  (s.mir.rx.map fun p => p.places.length).sum
/-- `WEIR_COUNT` (R149, R150). -/
def State.count (s : State) : Nat := s.counted.length + s.provisional.length + s.mirHeld
/-- Lines charged to class `k` (R152), provisional charges included. -/
def State.use (s : State) (k : PClass) : Nat :=
  (s.counted.filter fun p => p.2.charge = some k).length + (s.provisional.filter fun p => p.charge = some k).length
    + (if k = .mirror then s.mirHeld else 0)
def PClass.idx : PClass → Fin 5
  | .host => 0 | .mgmt => 1 | .conf => 2 | .mirror => 3 | .scan => 4
def PClass.all : List PClass := [.host, .mgmt, .conf, .mirror, .scan]
/-- Class of a fabric port (R152). -/
def portClass (fp : Fin 23) : Option PClass :=
  if fp.val = 0 then some .host else if fp.val = 1 then some .mgmt
  else if 14 ≤ fp.val ∧ fp.val ≤ 15 then some .mirror
  else if 16 ≤ fp.val ∧ fp.val ≤ 18 then some .conf
  else if fp.val = 21 then some .scan else none
/-- Reservation of class `k` in lines of the millpond (R160). -/
def State.resLines (s : State) (k : PClass) : Nat := s.ret.weir.millpond * s.ret.weir.res[k.idx] / 100
/-- The shared pool in lines (R160). -/
def State.shared (s : State) : Nat := s.ret.weir.millpond - (PClass.all.map s.resLines).sum
/-- The shared pool in use (R160, R161). -/
def State.sharedUsed (s : State) : Nat := (PClass.all.map fun k => s.use k - s.resLines k).sum
/-- An account of context `c` (R151): its lines in effective state `e`. -/
def State.account (s : State) (c : Fin 16) (e : LState) : Nat :=
  (s.ret.lines.filter fun p => (s.lineSeg p.1).cls = .epoch ∧ (s.lineSeg p.1).owner = c ∧ (s.eff p.1).1 = e).length
/-- Lines of context `c` written in its open epoch, `CTX_OPEN_LINES` (R145, R169). -/
def State.openLines (s : State) (c : Fin 16) : Nat := s.account c .opened + s.account c .openOver
/-- Bytes of a line's home location and of its shadow line, as stored. -/
def State.homeBytes (s : State) (l : Nat) : List Byte := mgets 0 s.ret.dram (l * 256) 256
def State.shadowBytes (s : State) (l : Nat) : List Byte := mgets 0 s.ret.shadow (l * 256) 256
def State.setHome (s : State) (l : Nat) (bs : List Byte) : State :=
  { s with ret := { s.ret with dram := mputs 0 s.ret.dram (l * 256) bs } }
def State.setShadow (s : State) (l : Nat) (bs : List Byte) : State :=
  { s with ret := { s.ret with shadow := mputs 0 s.ret.shadow (l * 256) bs } }
/-- Free the shadow line of `l`: its contents are void from here on. -/
def State.freeShadow (s : State) (l : Nat) : State :=
  { s with ret := { s.ret with shadow := mdrop s.ret.shadow (l * 256) (l * 256 + 256) } }
/-- Drop the home contents of a line. -/
def State.dropHome (s : State) (l : Nat) : State :=
  { s with ret := { s.ret with dram := mdrop s.ret.dram (l * 256) (l * 256 + 256) } }
/-- Home bytes as a reader sees them: a granule whose VALID bit is clear reads zero (R322). -/
def validBytes (v : BitVec 4) (bs : List Byte) : List Byte :=
  (List.range 256).map fun i => if v.getLsbD (i / 64) then bs.getD i 0 else 0
/-- The value and poison a reader finds in line `l`, its state being neither UNRESTORED nor unbuilt (R125, R326). -/
def State.lineValue (s : State) (l : Nat) : List Byte × BitVec 4 :=
  let x := s.lineAt l
  let e := s.eff l
  match e.1 with
  | .never | .unrestored => (rep 256 0, 0)
  | _ => if e.2 then (s.shadowBytes l, x.shPoison) else (validBytes x.valid (s.homeBytes l), x.poison)
/-- The value a line held at the last close, where DRAM holds it: a COMMITTED line's own value, and the other copy of
an OPEN_OVER_COMMITTED line (R121). -/
def State.committedValue (s : State) (l : Nat) : List Byte × BitVec 4 :=
  let x := s.lineAt l
  match s.eff l with
  | (.openOver, false) => (s.shadowBytes l, x.shPoison)
  | (.openOver, true) => (validBytes x.valid (s.homeBytes l), x.poison)
  | _ => s.lineValue l
/-- Whether a line uses a shadow line: every OPEN_OVER_COMMITTED line and every FLIP line (R121). -/
def State.usesShadow (s : State) (l : Nat) : Bool :=
  match s.eff l with
  | (.openOver, _) => true
  | (.committed, f) => f
  | _ => false
/-- Shadow lines in use (R124), those that hold an arriving mirror packet's entries among them (R406). -/
def State.shadowUsed (s : State) : Nat := (s.ret.lines.filter fun p => s.usesShadow p.1).length + s.mirHeld
/-- The settle list: COMMITTED (FLIP) lines (R123). -/
def State.settleList (s : State) : List Nat :=
  (s.ret.lines.filter fun p => s.eff p.1 = (.committed, true)).map (·.1)
/-- The metadata word of R120 and R321, CHECK as the part stores it. -/
def metaWord (x : Line) : Word :=
  let low := pack [(0, x.stamp.toNat), (8, x.state.code), (11, b2n x.flip), (12, b2n x.baseZero), (16, x.poison.toNat),
    (20, x.valid.toNat)]
  BitVec.ofNat 32 (low ||| ((Config.metaCheck (BitVec.ofNat 25 low)).toNat <<< 25))
def Life.code : Life → Nat
  | .off => 0 | .stopped => 1 | .running => 2 | .draining => 3 | .faulted => 4
/-- The retained size in GiB, rounded up (R91): every existing segment whose class is not VOLATILE. -/
def State.retainedSegs (s : State) : Nat :=
  (s.ret.segs.filter fun p => p.2.cls ≠ .volatile ∧ p.1 < s.usable).length
def gibUp (segs : Nat) : Nat := (segs + 511) / 512
/-- `SEG_PSLC_NEED`: 2.5 × retained size + 64 GiB, rounded up (R106). -/
def pslcNeed (retGib : Nat) : Nat := (5 * retGib + 1) / 2 + 64
/-! ## Lifecycle instances -/
/-- Lifecycle index of instance `i` of class `cc`. -/
def unitAt (cc : LClass) (i : Nat) : Fin 50 := Fin.ofNat 50 (cc.base + i)
/-- Class and instance of a lifecycle index. -/
def classOf (i : Fin 50) : LClass × Nat :=
  if i.val < 16 then (.nst, i) else if i.val < 17 then (.scan, 0) else if i.val < 21 then (.dch, i - 17)
  else if i.val < 33 then (.trib, i - 21) else if i.val < 45 then (.seq, i - 33) else if i.val < 47 then (.mir, i - 45)
  else (.conf, i - 47)
def State.lifeOf (s : State) (cc : LClass) (i : Nat) : Life := s.life[unitAt cc i].life
def State.isRunning (s : State) (cc : LClass) (i : Nat) : Bool := s.lifeOf cc i = .running
def State.setLife (s : State) (i : Fin 50) (l : Life) : State :=
  { s with life := vmod s.life i fun u => { u with life := l } }
/-! ## Outputs and events -/
def State.emit (s : State) (o : Out) : State := { s with out := o :: s.out }
/-- Dword `k` of the table entry of vector `v` (R55). -/
def State.vecWord (s : State) (v k : Nat) : Word := s.host.msix.table[(Fin.ofNat 256 (4 * v + k))]
/-- A message of vector `v` may be sent: MSI-X is enabled, and neither the function nor the vector is masked (R33, R55; log
entry 143). Bus Master Enable does not gate it (DESIGN CHOICE, log entry 188). -/
def State.vecOpen (s : State) (v : Nat) : Bool :=
  s.host.cfg.msixEn && !s.host.cfg.msixMask && !(s.vecWord v 3).getLsbD 0
def State.setPba (s : State) (p : BitVec 64) : State := { s with host := { s.host with msix := { s.host.msix with pba := p } } }
/-- The MSI-X message of vector `v`, held in the pending-bit array while it may not be sent (R55). -/
def State.msix (s : State) (v : Nat) : State :=
  if s.vecOpen v then s.emit (.msix v (s.vecWord v 1 ++ s.vecWord v 0) (s.vecWord v 2))
  else s.setPba (s.host.msix.pba ||| BitVec.ofNat 64 (2 ^ v))
/-- Pending vectors that may be sent now are sent, and their bits clear (R55). -/
def State.msixFlush (s : State) : State :=
  (List.range 64).foldl (fun s v =>
    if s.host.msix.pba.getLsbD v && s.vecOpen v then (s.setPba (s.host.msix.pba &&& ~~~(BitVec.ofNat 64 (2 ^ v)))).msix v else s) s
/-- The bytes of an event entry (R52). -/
def eventBytes (e : Event) (flags : Nat) : List Byte :=
  leBytes 2 e.code.toNat ++ leBytes 1 flags ++ [0] ++ leBytes 4 e.inst.toNat ++ leBytes 8 e.time.toNat ++ leBytes 16 e.data.toNat
/-- Write one event to the event ring of mailbox `q` (R53, R54). -/
def State.pushEvent (s : State) (q : Fin 4) (e : Event) : State :=
  let m := s.host.mq[q]
  if m.eqUsed ≥ 2 ^ m.eqLog2 then
    let m1 := { m with eqLost := sat 16 (m.eqLost + 1), eqOver := true, eqGap := true }
    { s with host := { s.host with mq := s.host.mq.set q m1 } }
  else
    let tl := (m.eqTail + 1) % 2 ^ m.eqLog2
    let m' := { m with eqTail := tl, eqUsed := m.eqUsed + 1, eqPhase := if tl = 0 then !m.eqPhase else m.eqPhase,
                       eqGap := false, eqArmed := false }
    let s1 := { s with host := { s.host with mq := s.host.mq.set q m' } }
    let s2 := s1.emit (.dma (m.eqBase + BitVec.ofNat 64 (32 * m.eqTail)) (eventBytes e (b2n m.eqPhase + 2 * b2n m.eqGap)) 0)
    if m.eqArmed then s2.msix m.eqVec else s2
/-- Event data: fields at their byte offsets in the entry, 16 to 31 (R52). -/
def evd (fs : List (Nat × Nat)) : BitVec 128 := BitVec.ofNat 128 (pack (fs.map fun p => (8 * (p.1 - 16), p.2)))
def MqState.isActive (m : MqState) : Bool := m = .active
/-- Hand one event to every mailbox and to the service port, as their masks allow (R53, R72, R505). -/
def State.deliver (s : State) (e : Event) : State :=
  let cls := bits e.code 8 8
  let toMq (s : State) (q : Fin 4) : State :=
    if s.host.mq[q].state = .active ∧ s.host.mq[q].mask.getLsbD cls then s.pushEvent q e else s
  let s1 := [(0 : Fin 4), 1, 2, 3].foldl toMq s
  let s2 := if s1.boot.anyActive then s1
    else if s1.boot.held.length < 64 then { s1 with boot := { s1.boot with held := s1.boot.held ++ [e] } }
    else { s1 with boot := { s1.boot with heldLost := true } }
  let v := s2.host.svc
  if v.mask.getLsbD cls then
    (if v.frames.length < 16 then
      { s2 with host := { s2.host with svc := { v with frames := v.frames ++ [e] } } }
     else { s2 with host := { s2.host with svc := { v with gap := true } } })
  else s2
/-- Raise an event (R52, R53). -/
def State.raise (s : State) (code inst : Nat) (data : List (Nat × Nat)) : State :=
  s.deliver ⟨BitVec.ofNat 16 code, BitVec.ofNat 32 inst, s.glb.time, evd data⟩
def limitGet (ls : List ((Nat × Nat) × Nat)) (k : Nat × Nat) : Option Nat :=
  (ls.find? fun p => p.1 = k).map (·.2)
/-- Whether an event of `code` and key may be raised now: at most one in 1 ms. -/
def State.mayRaise (s : State) (code key : Nat) : Bool :=
  match limitGet s.glb.limits (code, key) with
  | none => true
  | some t => decide (t + cyclesMs ≤ s.now)
/-- The millisecond of an event's limit begins. -/
def State.noteRaised (s : State) (code key : Nat) : State :=
  { s with glb := { s.glb with limits := ((code, key), s.now) :: s.glb.limits.filter fun p => p.1 ≠ (code, key) } }
/-- Raise an event that is limited to one per key per 1 ms; the rest are counted by their counters only. -/
def State.raiseLim (s : State) (code key inst : Nat) (data : List (Nat × Nat)) : State :=
  if s.mayRaise code key then (s.noteRaised code key).raise code inst data else s
/-- Attribute an error to unit class `k` in `ERR_SUMMARY` (R336, R338). -/
def State.blame (s : State) (k : Nat) : State :=
  { s with err := { s.err with summary := s.err.summary ||| BitVec.ofNat 19 (2 ^ k) } }
/-- Raise an event of the ERR class, attributed to class `k` (R338). -/
def State.raiseErr (s : State) (code key inst k : Nat) (data : List (Nat × Nat)) : State :=
  if s.mayRaise code key then (s.blame k).raiseLim code key inst data else s
/-- A change of a lifecycle state, with its `UNIT_STATE` event (R59). -/
def State.toLife (s : State) (i : Fin 50) (l : Life) : State :=
  let old := s.life[i].life
  let c := classOf i
  (s.setLife i l).raise (c.1.code * 256 + 1) c.2 [(16, old.code), (17, l.code)]
/-- A change of `GLB_STATE.STATE`, with `DEVICE_STATE` (R55). -/
def State.toDev (s : State) (st : BitVec 3) : State :=
  let old := s.glb.state
  let s1 := { s with glb := { s.glb with state := st } }
  if old = st then s1 else s1.raise 0x0101 0 [(16, old.toNat), (17, st.toNat)]
/-- Draw a free value: the state's counter moves on, and the value is `Config.fresh` of it. -/
def State.draw (s : State) : BitVec 64 × State := (Config.fresh s.free, { s with free := s.free + 1 })
/-- The largest computable allowance in bytes (R157, R154 steps 3 to 8 with the rated values), rounded down step by
step: E in µJ, t in ns, raw bytes. -/
def usableEnergy (cap10mF v vfloor eff : Nat) : Nat :=
  if v ≤ vfloor then 0 else cap10mF * (v * v - vfloor * vfloor) * eff / 20000
def writeTimeNs (e psave tfix : Nat) : Nat :=
  -- E in µJ, P in 0.1 W, TFIX in ms: P × TFIX is 100 µJ per unit
  if e ≤ psave * tfix * 100 then 0 else (e - psave * tfix * 100) * 10000 / psave
def allowBytes (tNs rateMBs kesrMicro guardPct : Nat) : Nat :=
  tNs * rateMBs / 1000 * kesrMicro / 1000000 * (100 - guardPct) / 100 * 256 / 272
def largestAllow (c : Cal) (target : Nat) : Nat :=
  allowBytes (writeTimeNs (usableEnergy c.cap target c.vfloor c.eff) c.psave c.tfix) c.rate 1000000 c.guardPct
def State.largest (s : State) : Nat := largestAllow s.ret.weir.cal s.pwr.hub.target
/-- The shadow pool in force, in bytes. -/
def State.poolBytes (s : State) : Nat := s.ret.sum.shadow * 2097152
/-! ## DRAM channels and their lines (R291, R315) -/
def dchLife (c : Fin 4) : Fin 50 := Fin.ofNat 50 (17 + c)
def dchRunning (s : State) (c : Fin 4) : Bool := s.life[dchLife c].life = .running
/-- The channel works on the requests it holds: RUNNING, or DRAINING them (R313). -/
def dchServing (s : State) (c : Fin 4) : Bool := dchRunning s c || s.life[dchLife c].life = .draining
/-- A channel whose restarts all failed serves nothing (R315). -/
def dchDead (s : State) (c : Fin 4) : Bool := s.dch[c].dead
/-- Parity of a number's low 40 bits. -/
def parity (v : Nat) : Nat := ((List.range 40).map fun i => b2n (v.testBit i)).sum % 2
/-- The channel a line lies in: `line` is a[37:8] (R291). -/
def channelOf (s : State) (line : Nat) : Fin 4 :=
  let hi := line / 4
  let c0 := (line + parity (hi &&& s.fab.chmap0.toNat)) % 2
  let c1 := (line / 2 + parity (hi &&& s.fab.chmap1.toNat)) % 2
  Fin.ofNat 4 (c0 + 2 * c1)
/-! ## Leaky buckets (R334, R335) -/
/-- The class an `ERR_BUCKET` event of a source is attributed to (R338). -/
def bucketClass (i : Nat) : Nat :=
  if i ≤ 11 then 0x09 else if i ≤ 27 then 0x07 else if i = 28 then 0x11 else if i = 29 then 0x03 else if i = 30 then 0x0A
  else if i = 31 then 0x01 else if i ≤ 33 then 0x0D else 0x0E
def onBucket (s : State) (i : Fin 37) (f : Bucket → Bucket) : State := { s with err := { s.err with bkt := vmod s.err.bkt i f } }
/-- The lines of the shadow pool stand above the usable segments (R76). -/
def State.poolLine (s : State) (i : Nat) : Nat := segLine s.usable + i
/-- The line of working memory that holds the shadow value of `l`. -/
def State.shadowPlace (s : State) (l : Nat) : Nat := s.poolLine (s.lineAt l).shAt
/-- The line of working memory that a read of `l` goes to (R125). -/
def State.placeOf (s : State) (l : Nat) : Nat := if (s.eff l).2 then s.shadowPlace l else l
/-- The line whose shadow value a line of the pool holds. -/
def State.poolOwner (s : State) (p : Nat) : Option Nat :=
  (s.ret.lines.find? fun q => s.usesShadow q.1 && s.shadowPlace q.1 == p).map (·.1)
/-- A free line of the pool. Which one is not stated: it is free (log entry 165). -/
def State.poolFree (s : State) : Nat × State :=
  let (v, s1) := s.draw
  let used := ((s.ret.lines.filter fun q => s.usesShadow q.1).map fun q => q.2.shAt) ++ s.mir.rx.flatMap fun p => p.places.map (·.2)
  let n := max 1 (segLine s.ret.sum.shadow)
  ((((List.range (used.length + 1)).map fun k => (v.toNat + k) % n).find? fun i => !used.contains i).getD 0, s1)
/-- Give `l` a free line of the pool. -/
def State.allocShadow (s : State) (l : Nat) : State :=
  let (i, s1) := s.poolFree
  s1.setLine l { s1.lineAt l with shAt := i }
/-- One counted event of source `i`: the counter rises, and the thresholds are checked after the add. -/
def bucketAdd (i : Fin 37) (s : State) : State :=
  let b := s.err.bkt[i]
  let c := min 255 (b.count + 1)
  let hit := decide (c ≥ s.err.thresh) && !b.isOver
  let s1 := onBucket s i fun b => { b with count := c, peak := max b.peak c, isOver := b.isOver || hit }
  let s2 := if hit then s1.raiseErr 0x0A12 i.val 0 (bucketClass i) [(16, i.val), (17, c), (18, 1)] else s1
  if i.val ≤ 11 ∧ b.count < s.err.retire ∧ c ≥ s.err.retire then s2.raiseErr 0x0A12 i.val 0 (bucketClass i) [(16, i.val), (17, c), (18, 2)]
  else s2
def bucketAddN (i : Fin 37) : Nat → State → State
  | 0, s => s
  | n + 1, s => bucketAddN i n (bucketAdd i s)
/-! ## Order with the host's own writes (R104, R105) -/
/-- A write of the host stream that was accepted is not applied to the line yet: a command that looks at the line waits for it
(R104, R105). -/
def hostBehind (s : State) (l : Nat) : Bool := s.ret.writes.any fun p => p.fp = 0 && p.line = l
end Sys2Proof.Machine
end

