-- ==== Sys2Proof/Machine/Flags.lean ====
section
/-! DEFINITION. Status codes (R69 and the unit chapters), authorities (R62), and the saturating counters and limits that
several units share. -/
namespace Sys2Proof.Machine
namespace St
def ok : Nat := 0x0000
def partialDone : Nat := 0x0001
def authority : Nat := 0x0100
def unitState : Nat := 0x0101
def badTarget : Nat := 0x0102
def badParam : Nat := 0x0103
def busy : Nat := 0x0104
def aborted : Nat := 0x0105
def poisoned : Nat := 0x0106
def timeout : Nat := 0x0107
def noResource : Nat := 0x0108
def weirHeld : Nat := 0x0109
def notReady : Nat := 0x010A
def conflict : Nat := 0x010B
-- unit-specific codes: the same value means different things in different classes (R69)
def segOwnerState : Nat := 0x0201
def segSealed : Nat := 0x0202
def segCapacity : Nat := 0x0203
def segCrc : Nat := 0x0204
def segClass : Nat := 0x0205
def ctxOverrun : Nat := 0x0201
def ctxStale : Nat := 0x0202
def ctxNotReleased : Nat := 0x0203
def ctxEpochLimit : Nat := 0x0204
def ctxBank : Nat := 0x0205
def ctxSwapLayout : Nat := 0x0206
def ctxSwapUndone : Nat := 0x0207
def ctxNotHome : Nat := 0x0208
def weirShadow : Nat := 0x0201
def sluStreaming : Nat := 0x0201
def sluIdle : Nat := 0x0202
def nstLive : Nat := 0x0201
def nstSpace : Nat := 0x0202
def nstRetained : Nat := 0x0203
def scanLayout : Nat := 0x0201
def dchNoSpare : Nat := 0x0201
def dchMap : Nat := 0x0202
def dchMigrating : Nat := 0x0203
def dchLive : Nat := 0x0204
def errTarget : Nat := 0x0201
def tribMdio : Nat := 0x0201
def tribListen : Nat := 0x0202
def tribPersonality : Nat := 0x0203
def tribNoDialect : Nat := 0x0204
def seqPort : Nat := 0x0201
def mirRole : Nat := 0x0201
def mirUnsynced : Nat := 0x0202
def mirNoPartner : Nat := 0x0203
def confMember : Nat := 0x0201
def pwrRetain : Nat := 0x0201
def pwrTable : Nat := 0x0202
def pwrDep : Nat := 0x0203
def bkdDate : Nat := 0x0201
def ldgFull : Nat := 0x0201
def ldgLocked : Nat := 0x0202
def ldgEmpty : Nat := 0x0203
def ldgWrite : Nat := 0x0204
def bootImage : Nat := 0x0201
def bootKey : Nat := 0x0202
end St
/-! ## Authorities (R62) -/
def auObserve : Nat := 0
def auOperate : Nat := 1
def auConfigure : Nat := 2
def auMaintain : Nat := 3
def auMirror : Nat := 4
def auPeer : Nat := 5
/-- Ceilings of R63. -/
def ceiling (p : Nat) : BitVec 6 :=
  if p ≤ 3 then 15 else if p = 4 then 2 else if p = 5 then 15 else if p ≤ 7 then 17 else if p ≤ 10 then 33 else 0
/-- Defaults of R63. -/
def defaultAuth (p : Nat) : BitVec 6 :=
  if p ≤ 3 then 7 else if p = 4 then 2 else if p = 5 then 15 else if p ≤ 7 then 17 else if p ≤ 10 then 33 else 0
/-- The authorities a port holds now (R63); for the service port, MAINTAIN follows `SVC_EN` (R64). -/
def State.liveAuth (s : State) (p : Fin 12) : BitVec 6 :=
  let a := s.host.auth[p].live
  if p.val = 5 ∧ !s.host.svc.en then a &&& 0x37 else a
def State.holds (s : State) (p : Fin 12) (au : Nat) : Bool := (s.liveAuth p).getLsbD au
/-- Count a refusal for want of authority and report it, one event per port per 1 ms (R38, R55, R66). -/
def State.refuseAuth (s : State) (p : Fin 12) (ctx opcode : Nat) : State :=
  let s1 := { s with glb := { s.glb with authRefused := sat 32 (s.glb.authRefused + 1) } }
  s1.raiseLim 0x0102 p.val 0 [(16, p.val), (17, ctx), (18, opcode)]
/-! ## Fill of the weir (R159) -/
/-- Fill in 0.1 % of the millpond, saturating at 1,023 (R183). -/
def fillPermille (count pond : Nat) : Nat := if pond = 0 then (if count = 0 then 1000 else 1023) else min 1023 (count * 1000 / pond)
def isFaulted (l : Life) : Bool := l = .faulted
end Sys2Proof.Machine
end

