-- ==== Sys2Proof/Machine/Operands.lean ====
section
/-! DEFINITION. How a command descriptor is read: its PARAM fields, its reserved bits, and the targets that SELECT and
INSTANCE name (R15, R47, R56). -/
namespace Sys2Proof
/-- PARAM bytes `off` to `off + n - 1` of a descriptor, `off` counted from the descriptor's first byte (R47). -/
def Desc.p (d : Desc) (off n : Nat) : Nat := (d.param.toNat >>> (8 * (off - 16))) % 2 ^ (8 * n)
/-- Bit `b` of PARAM byte `off`. -/
def Desc.bit (d : Desc) (off b : Nat) : Bool := d.param.getLsbD (8 * (off - 16) + b)
/-- The PARAM bits a command's table defines, from a list of (byte, number of bits from that byte's bit 0). -/
def usedMask (fs : List (Nat × Nat)) : Nat := fs.foldl (fun a p => a ||| ((2 ^ p.2 - 1) <<< (8 * (p.1 - 16)))) 0
/-- Every PARAM bit outside the defined ones is zero (R15). -/
def Desc.onlyUses (d : Desc) (fs : List (Nat × Nat)) : Bool := d.param &&& ~~~(BitVec.ofNat 384 (usedMask fs)) = 0
def Desc.fence (d : Desc) : Bool := d.flags.getLsbD 0
end Sys2Proof
namespace Sys2Proof.Machine
/-- How a command's targets may be named (R56). -/
inductive Sel
  /-- SELECT 0 with INSTANCE 0 -/
  | zero
  /-- SELECT 0 only, INSTANCE below the count -/
  | single (n : Nat)
  /-- a mailbox other than the one the command arrived on (R67) -/
  | otherMailbox
  /-- SELECT 0 with INSTANCE the first segment of a run -/
  | segment
  /-- contexts: single, mask, all -/
  | contexts
  /-- a lifecycle class, as its row of R56 allows -/
  | units (cc : LClass)
  /-- a lifecycle class, SELECT 0 only -/
  | oneUnit (cc : LClass)
deriving DecidableEq, Repr
/-- What the tables say of one command: opcode, the authority it requires, its PARAM bits, its targets, the byte at which
a buffer address stands, and whether its encodings are clear of reserved ones. -/
structure CmdInfo where
  op   : Nat
  auth : Nat
  used : List (Nat × Nat) := []
  sel  : Sel := .zero
  buf  : Option Nat := none
  enc  : Desc → Bool := fun _ => true
/-- Whether an instance is installed (R36, R56). -/
def State.installed (s : State) (cc : LClass) (i : Nat) : Bool :=
  match cc with
  | .nst => s.store.ch[Fin.ofNat 16 i].installed && decide (i < 16)
  | .trib | .seq => s.trib[Fin.ofNat 12 i].installed && decide (i < 12)
  | _ => decide (i < cc.size)
def State.instances (s : State) (cc : LClass) : List Nat := (List.range cc.size).filter fun i => s.installed cc i
/-- Members of group `g` (R36). -/
def groupOf (cc : LClass) (g : Nat) : List Nat :=
  match cc with
  | .nst => [4 * g, 4 * g + 1, 4 * g + 2, 4 * g + 3]
  | .trib | .seq => [3 * g, 3 * g + 1, 3 * g + 2]
  | _ => []
def hasGroups (cc : LClass) : Bool := match cc with | .nst | .trib | .seq => true | _ => false
def hasMask (cc : LClass) : Bool := match cc with | .scan => false | _ => true
def maskList (m n : Nat) : List Nat := (List.range n).filter fun i => m.testBit i
/-- The instances a descriptor names, in ascending order; none where it names a missing one or the selection is not
allowed (R56, R57 step 5). -/
def targets (s : State) (k : Sel) (d : Desc) : Option (List Nat) :=
  let sel := d.sel.toNat
  let inst := d.inst.toNat
  match k with
  | .zero => if sel = 0 ∧ inst = 0 then some [0] else none
  | .single n => if sel = 0 ∧ inst < n then some [inst] else none
  | .otherMailbox => if sel = 0 ∧ inst < 4 ∧ inst ≠ d.port.val then some [inst] else none
  | .segment => if sel = 0 ∧ s.segExists inst then some [inst] else none
  | .contexts =>
    if sel = 0 then (if inst < 16 then some [inst] else none)
    else if sel = 1 then (if 0 < inst ∧ inst < 2 ^ 16 then some (maskList inst 16) else none)
    else if sel = 3 then (if inst = 0 then some (List.range 16) else none)
    else none
  | .units cc =>
    if sel = 0 then (if inst < cc.size ∧ s.installed cc inst then some [inst] else none)
    else if sel = 1 ∧ hasMask cc then
      (if 0 < inst ∧ inst < 2 ^ cc.size ∧ (maskList inst cc.size).all (s.installed cc) then some (maskList inst cc.size) else none)
    else if sel = 2 ∧ hasGroups cc then
      (let g := (groupOf cc inst).filter (s.installed cc)
       if inst < 4 ∧ g ≠ [] then some g else none)
    else if sel = 3 ∧ hasMask cc then (if inst = 0 ∧ s.instances cc ≠ [] then some (s.instances cc) else none)
    else none
  | .oneUnit cc => if sel = 0 ∧ inst < cc.size ∧ s.installed cc inst then some [inst] else none
/-- The run of instances that SELECT 0 names: a `SEG_SET_CLASS` or `SEG_SET_FLAGS` names COUNT segments (R90). -/
def runLen (op : Nat) (d : Desc) : Nat := if op = 0x0311 ∨ op = 0x0312 then d.p 16 4 else 1
/-- Whether a command acts on instance `k` of its class, as SELECT and INSTANCE name it (R36, R56). -/
def hits (op : Nat) (d : Desc) (k : Nat) : Bool :=
  let i := d.inst.toNat
  match d.sel.toNat with
  | 0 => if op = 0x0203 then k == d.port.val else decide (i ≤ k) && decide (k < i + runLen op d)
  | 1 => i.testBit k
  | 2 => if op / 256 = 0x07 then k / 4 == i else k / 3 == i
  | _ => true
/-- Two commands act on one unit instance (R50). -/
def shareUnit (op1 : Nat) (d1 : Desc) (op2 : Nat) (d2 : Desc) : Bool :=
  decide (op1 / 256 = op2 / 256) &&
    (if d1.sel = 0 ∧ d2.sel = 0 ∧ op1 ≠ 0x0203 ∧ op2 ≠ 0x0203 then
      decide (d1.inst.toNat < d2.inst.toNat + runLen op2 d2) && decide (d2.inst.toNat < d1.inst.toNat + runLen op1 d1)
     else (List.range 16).any fun k => hits op1 d1 k && hits op2 d2 k)
def maskOf (ts : List Nat) : Nat := ts.foldl (fun a i => a ||| 2 ^ i) 0
end Sys2Proof.Machine
end

