-- ==== Sys2Proof/Machine/Mailbox.lean ====
section
/-! DEFINITION. Accepting and completing commands (R41–R58): the checks in their order, outstanding commands, FENCE, and
the completion of a command, at once or later. -/
namespace Sys2Proof.Machine
/-! ## Outstanding commands -/
/-- Mailbox of a port: 0–3 the PCIe mailboxes, 5 the service port; commands reach no other port. -/
def cmdsOf (s : State) (p : Fin 12) : List Cmd :=
  if p.val = 0 then s.host.mq[0].cmds else if p.val = 1 then s.host.mq[1].cmds else if p.val = 2 then s.host.mq[2].cmds
  else if p.val = 3 then s.host.mq[3].cmds else if p.val = 5 then s.host.svc.cmds else []
def onCmds (s : State) (p : Fin 12) (f : List Cmd → List Cmd) : State :=
  if h : p.val < 4 then
    { s with host := { s.host with mq := vmod s.host.mq ⟨p.val, h⟩ fun m => { m with cmds := f m.cmds } } }
  else if p.val = 5 then { s with host := { s.host with svc := { s.host.svc with cmds := f s.host.svc.cmds } } }
  else s
/-- A completion can still be delivered on the port (R45, R67). -/
def portAlive (s : State) (p : Fin 12) : Bool :=
  if h : p.val < 4 then s.host.mq[p.val].state = .active else p.val = 5
def Phase.isFinished : Phase → Bool
  | .finished => true
  | _ => false
/-- A command as it is accepted: `order` is its place in the order of acceptance (R50), `inl` its inline data (R72). -/
def newCmd (d : Desc) (op order : Nat) (inl : List Byte) : Cmd :=
  { desc := d, order := order, inl := inl, tag := d.tag, opcode := BitVec.ofNat 16 op, sqi := d.sqi, fence := d.fence,
    phase := .accepted, status := 0, result := 0, data := [], orphan := false }
/-- The command was accepted with just this descriptor and has not taken effect. -/
def Cmd.isFor (c : Cmd) (d : Desc) (op : Nat) : Bool := decide (c.desc = d) && c.opcode == BitVec.ofNat 16 op && decide (c.phase = .accepted)
/-- The descriptor was fetched and is past steps 1 to 3 of R57. -/
def isAccepted (s : State) (d : Desc) (op : Nat) : Bool := (cmdsOf s d.port).any (·.isFor d op)
/-- What a command's buffer holds: on the service port the inline data of the frame it came in (R72). -/
def bufferOf (s : State) (d : Desc) (op : Nat) (buf : List Byte) : List Byte :=
  if d.port.val = 5 then (match (cmdsOf s d.port).find? (·.isFor d op) with | some c => c.inl | none => buf) else buf
/-- A command with the tag is outstanding (R51). -/
def tagOutstanding (s : State) (d : Desc) : Bool := (cmdsOf s d.port).any fun c => c.tag = d.tag ∧ !c.orphan
/-- The commands a tag may name: those of the mailbox as it is now, or, where none of them is meant, those a deleted
mailbox left behind. -/
def named (cs : List Cmd) (tag : BitVec 16) (c : Cmd) : Bool :=
  decide (c.tag = tag) && !c.phase.isFinished && (!c.orphan || !(cs.any fun x => x.tag = tag ∧ !x.phase.isFinished ∧ !x.orphan))
def setFirst (p : Cmd → Bool) (f : Cmd → Cmd) : List Cmd → List Cmd
  | [] => []
  | c :: t => if p c then f c :: t else c :: setFirst p f t
/-- Set the first unfinished command of the tag to `f` of it. -/
def setCmd (tag : BitVec 16) (f : Cmd → Cmd) (cs : List Cmd) : List Cmd := setFirst (named cs tag) f cs
/-- The entry of a command that has ended: kept until it is written, or discarded at once where the port is gone. -/
def endCmd (alive : Bool) (tag : BitVec 16) (f : Cmd → Cmd) (cs : List Cmd) : List Cmd :=
  if alive && !(cs.any fun c => named cs tag c && c.orphan) then setCmd tag f cs else cs.filter fun c => !named cs tag c
/-- Complete a command with a status and RESULT (R42, R48). -/
def finish (d : Desc) (st res : Nat) (s : State) : State :=
  onCmds s d.port (endCmd (portAlive s d.port) d.tag fun c =>
    { c with phase := .finished, status := BitVec.ofNat 16 st, result := BitVec.ofNat 64 res })
/-- End a command, by port and TAG, with the progress its RESULT holds (R164, R536). -/
def finishTag (p : Fin 12) (tag : BitVec 16) (st : Nat) (s : State) : State :=
  onCmds s p (endCmd (portAlive s p) tag fun c => { c with phase := .finished, status := BitVec.ofNat 16 st })
/-- A `SEG_LOAD` of segment `g` is outstanding: its completion is not written (R42, R95, R97). -/
def isLoadOf (g : Nat) (c : Cmd) : Bool := c.opcode == 0x0314 && decide (c.desc.inst.toNat = g) && !(decide (c.phase = .finished) && c.orphan)
/-- Complete a command that returns data in a buffer: by DMA before the completion entry (R34), or after the completion
frame on the service port (R71). -/
def finishData (d : Desc) (st res buf : Nat) (bs : List Byte) (s : State) : State :=
  let s1 := if d.port.val < 4 ∧ bs ≠ [] then s.emit (.dma (BitVec.ofNat 64 buf) bs 0) else s
  onCmds s1 d.port (endCmd (portAlive s d.port) d.tag fun c =>
    { c with phase := .finished, status := BitVec.ofNat 16 st, result := BitVec.ofNat 64 res,
             data := if d.port.val = 5 then bs else [] })
/-- Let a command run on, with the result it will carry. -/
def running (d : Desc) (w : Wait) (res : Nat) (s : State) : State :=
  onCmds s d.port (setCmd d.tag fun c => { c with phase := .running w, result := BitVec.ofNat 64 res })
/-- What has become of a running command. -/
inductive WaitEnd
  | go
  | goWith (w : Wait)
  | done (st : Nat) (res : Option Nat)
deriving DecidableEq, Repr
def stepWait (f : Wait → WaitEnd) (alive : Bool) : List Cmd → List Cmd
  | [] => []
  | c :: t =>
    match c.phase with
    | .running w =>
      match f w with
      | .go => c :: stepWait f alive t
      | .goWith w' => { c with phase := .running w' } :: stepWait f alive t
      | .done st res =>
        let r := match res with | none => c.result | some v => BitVec.ofNat 64 v
        if alive && !c.orphan then { c with phase := .finished, status := BitVec.ofNat 16 st, result := r } :: stepWait f alive t
        else stepWait f alive t
    | _ => c :: stepWait f alive t
/-- Ask every running command whether its wait has ended. -/
def wake (f : Wait → WaitEnd) (s : State) : State :=
  [(0 : Fin 12), 1, 2, 3, 5].foldl (fun s p => onCmds s p (stepWait f (portAlive s p))) s
/-- End every outstanding command with `ST_ABORTED` (R68). -/
def abortAll (s : State) : State :=
  let f (alive : Bool) (cs : List Cmd) : List Cmd :=
    if alive then (cs.filter fun c => !c.orphan).map fun c => if c.phase.isFinished then c else { c with phase := .finished, status := BitVec.ofNat 16 St.aborted }
    else []
  [(0 : Fin 12), 1, 2, 3, 5].foldl (fun s p => onCmds s p (f (portAlive s p))) s
/-! ## The checks of R57 -/
/-- FENCE (R49): a fenced command waits for every earlier one, and every later one waits for it. -/
def fenced (cs : List Cmd) (tag : BitVec 16) : Bool :=
  let earlier := (cs.takeWhile fun c => !named cs tag c).filter fun c => !c.orphan
  let self := cs.find? (named cs tag)
  earlier.any (·.fence) || (match self with | some c => c.fence && !earlier.isEmpty | none => false)
/-- The ports that commands arrive on. -/
def cmdPorts : List (Fin 12) := [0, 1, 2, 3, 5]
/-- `SEG_SEAL` and `SEG_LOAD_BEGIN` do not wait for a load of their segment: they find it outstanding (R95, R97). -/
def passesLoad (op earlier : Nat) : Bool := (op == 0x0313 || op == 0x0315) && earlier == 0x0314
/-- A command that has not taken effect: it has not begun, or its setting waits for the ledger (log entry 60), or it is a seal
that waits for its records (R97) or a load whose writes are not applied. -/
def Phase.inEffect : Phase → Bool
  | .accepted | .running (.ledger _ _) | .running (.sealing _ _ _)
  | .running (.anchor _) | .running (.load _ _ _) => false
  | _ => true
/-- A command accepted earlier acts on the same unit instance and has not taken effect yet (R50). -/
def mustFollow (s : State) (op : Nat) (d : Desc) : Bool :=
  match (cmdsOf s d.port).find? (·.isFor d op) with
  | none => false
  | some me => cmdPorts.any fun p => (cmdsOf s p).any fun c =>
      !c.phase.inEffect && decide (c.order < me.order) && shareUnit op d c.opcode.toNat c.desc
        && !passesLoad op c.opcode.toNat
/-- Outcome of the checks. -/
inductive Start
  /-- held by a FENCE, or by an earlier command on its unit: nothing but the acceptance has happened -/
  | wait (s : State)
  /-- refused, with its completion -/
  | refused (s : State)
  /-- past steps 1 to 6, with the targets named -/
  | go (ts : List Nat) (s : State)
/-- Step 1: UNIT, reserved bits and reserved encodings (R15, R57), and on the service port no buffer address (R72). -/
def formOk (i : CmdInfo) (d : Desc) : Bool :=
  decide (d.unit.toNat = i.op / 256) && decide (d.flags.toNat < 2) && decide (d.rsv = 0) && decide (d.sel.toNat < 4)
    && d.onlyUses i.used && i.enc d
    && (match i.buf with | some b => decide (d.port.val ≠ 5) || decide (d.p b 8 = 0) | none => true)
/-- The sequencer is latched off: only the always-on responder answers (R447). -/
def latchedOff (s : State) : Bool := s.pwr.seq = .latched
/-- Step 4. `PWR_LATCH_CLEAR` is served while the sequencer is latched off (R447). -/
def readyFor (s : State) (i : CmdInfo) : Bool :=
  decide (s.glb.state = 2) || decide (i.auth = auObserve) || decide (i.op / 256 = 0x12) || (latchedOff s && i.op == 0x0F15)
    || (s.glb.fil == 0 && i.op == 0x0130)
def accept (i : CmdInfo) (d : Desc) (inl : List Byte) (s : State) : State :=
  let s1 := { s with host := { s.host with accepts := s.host.accepts + 1 } }
  onCmds s1 d.port fun cs => cs ++ [newCmd d i.op s.host.accepts inl]
/-- Complete with a failing status and no other effect. -/
def refuse (d : Desc) (st : Nat) (s : State) : Start := .refused (finish d st 0 s)
/-- Steps 1 to 3 of R57. -/
def firstRefusal (i : CmdInfo) (d : Desc) (s : State) : Option Nat :=
  if !formOk i d then some St.badParam
  else if tagOutstanding s d then some St.conflict
  else if !s.holds d.port i.auth then some St.authority
  else none
/-- Record a command that its first checks refuse: it is outstanding until its completion is written (R42, R51). -/
def recordRefused (op : Nat) (d : Desc) (st : Nat) (s : State) : State :=
  let s1 := if st = St.authority then s.refuseAuth d.port 0 op else s
  if portAlive s1 d.port then
    onCmds s1 d.port fun cs => cs ++ [{ newCmd d op s1.host.accepts [] with phase := .finished, status := BitVec.ofNat 16 st }]
  else s1
/-- Steps 4 to 6, made when the command starts (R49, R50, R57). -/
def startAccepted (i : CmdInfo) (d : Desc) (rng : Bool) (s : State) : Start :=
  if fenced (cmdsOf s d.port) d.tag || mustFollow s i.op d then .wait s
  else if !readyFor s i then refuse d St.notReady s
  else match targets s i.sel d with
    -- `SEG_SET_CLASS` names in RESULT the segment that fails (R91)
    | none => .refused (finish d St.badTarget (if i.op = 0x0311 ∧ d.sel = 0 then d.inst.toNat else 0) s)
    | some ts => if rng then .go ts s else refuse d St.badParam s
/-- Whether a command can reach the device on its port at all: through an ACTIVE mailbox (R39, R45); on the service port
through firmware, the boot ROM (R502) or, latched off, the always-on responder (R447); through no mailbox while `PFAIL#` is driven, and
never while a save runs (R68). -/
def canArrive (s : State) (op : Nat) (p : Fin 12) : Bool :=
  if h : p.val < 4 then decide (s.host.mq[p.val].state = .active) && !s.slu.pfail
  else if p.val = 5 then
    (if latchedOff s then op == 0x0F10 || op == 0x0F15
     else if s.glb.fil = 0 then s.host.svc.en && s.boot.stage == 3 && (op == 0x0130 || op == 0x1210 || op == 0x1211)
     else decide (s.glb.state ≠ 3))
  else true
/-- The checks in the order of R57; steps 1 to 3 were made at the fetch of a fetched command (R66). `rng` says that the
command's values are in range. -/
def start (i : CmdInfo) (d : Desc) (rng : Bool) (s : State) : Start :=
  if isAccepted s d i.op then startAccepted i d rng s
  else if !canArrive s i.op d.port then .wait s
  else match firstRefusal i d s with
    | some st => .refused (recordRefused i.op d st s)
    | none => startAccepted i d rng (accept i d [] s)
/-- Run a command: the checks, then its effect on the targets. -/
def command (i : CmdInfo) (d : Desc) (rng : Bool) (f : List Nat → State → State) (s : State) : State :=
  match start i d rng s with
  | .wait s' => s'
  | .refused s' => s'
  | .go ts s' => f ts s'
/-- A multi-target command: steps 7 and 8 per target on the state it finds, its effect on every target that passes, and
the status and mask of R58. -/
def multi (d : Desc) (ts : List Nat) (check : Nat → Option Nat) (act : Nat → State → State) (s : State) : State :=
  let ok := ts.filter fun t => (check t).isNone
  let s1 := ok.foldl (fun s t => act t s) s
  let st := if ok.length = ts.length then St.ok else if ok = [] then (ts.head?.bind check).getD St.ok else St.partialDone
  finish d st (maskOf ok) s1
/-- The targets that passed, of those named, where `fails` lists the others with their statuses (R58). -/
def passedOf (all : List Nat) (fails : List (Nat × Nat)) : List Nat := all.filter fun t => !fails.any (·.1 = t)
/-- The status of R58: OK where all passed, PARTIAL where some did, else that of the lowest-numbered target. -/
def statusOf (all : List Nat) (fails : List (Nat × Nat)) : Nat :=
  let ok := passedOf all fails
  if ok.length = all.length then St.ok
  else if ok = [] then ((all.head?.bind fun t => fails.find? (·.1 = t)).map (·.2)).getD St.ok
  else St.partialDone
/-- The targets that a check turns away, with the statuses it gives. -/
def failing (ts : List Nat) (check : Nat → Option Nat) : List (Nat × Nat) := ts.filterMap fun t => (check t).map fun st => (t, st)
/-- RESULT of a query that SELECT may address to several targets: bytes 8–11 are then the mask of R48 and R58, and bytes
12–15 the lowest target's (log entry 44). -/
def queryResult (d : Desc) (ts : List Nat) (res : Nat) : Nat :=
  if d.sel = 0 then res else res / 2 ^ 32 * 2 ^ 32 + maskOf ts
/-! ## Completion entries -/
/-- The 16 bytes of a completion entry (R48). -/
def completionBytes (c : Cmd) (sqi : BitVec 16) (phase : Bool) : List Byte :=
  leBytes 2 c.tag.toNat ++ leBytes 2 c.status.toNat ++ leBytes 2 sqi.toNat ++ leBytes 1 (b2n phase) ++ [0] ++ leBytes 8 c.result.toNat
def dropCmd (tag : BitVec 16) : List Cmd → List Cmd
  | [] => []
  | c :: t => if c.tag = tag ∧ c.phase.isFinished then t else c :: dropCmd tag t
/-- A frame on the service port (R71). -/
def svcFrame (type : Nat) (payload : List Byte) : List Byte :=
  let body := leBytes 1 type ++ leBytes 2 payload.length ++ payload
  0xA5 :: body ++ leBytes 2 (crc16 body).toNat
end Sys2Proof.Machine
end

