-- ==== Sys2Proof/Machine/Ledger.lean ====
section
/-! DEFINITION. The ledger (R480–R492): its areas and records, choosing the current record of a key, and the queue of page
writes through which every unit stores what it keeps. -/
namespace Sys2Proof.Machine
/-- First page and number of pages of an area, by its code (R484). -/
def areaBase : Nat → Nat
  | 0 => 0 | 1 => 128 | 2 => 160 | 3 => 176 | 4 => 192 | 5 => 208 | 6 => 224 | 7 => 240 | 8 => 256 | 9 => 512 | 10 => 1536
  | 11 => 3584 | 12 => 3840 | _ => 4096
def areaPages : Nat → Nat
  | 0 => 128 | 1 => 32 | 2 | 3 | 4 | 5 | 6 | 7 => 16 | 8 => 256 | 9 => 1024 | 10 => 2048 | 11 | 12 => 256 | _ => 0
def isLogArea (a : Nat) : Bool := a == 10 || a == 11 || a == 12
/-- Whether a record type belongs to an area (R484). -/
def typeInArea (a t : Nat) : Bool :=
  match a with
  | 0 => decide (0x70 ≤ t) && decide (t ≤ 0x7F)
  | 1 => t == 0x20
  | 2 | 3 | 4 => t == 0x01
  | 5 | 6 | 7 => t == 0x02 || t == 0x03
  | 8 => decide (0x40 ≤ t) && decide (t ≤ 0x43)
  | 9 => t == 0x10 || t == 0x11
  | 10 => t == 0x04
  | 11 | 12 => t == 0x30
  | _ => false
/-- The area that a page lies in. -/
def areaOfPage (p : Nat) : Nat :=
  if p < 128 then 0 else if p < 160 then 1 else if p < 208 then 2 + (p - 160) / 16 else if p < 256 then 5 + (p - 208) / 16
  else if p < 512 then 8 else if p < 1536 then 9 else if p < 3584 then 10 else if p < 3840 then 11 else 12
/-- The three areas of a triplicated group that `a` is a copy of, or `a` alone. -/
def copiesOf (a : Nat) : List Nat :=
  if a = 2 ∨ a = 3 ∨ a = 4 then [2, 3, 4] else if a = 5 ∨ a = 6 ∨ a = 7 then [5, 6, 7] else [a]
/-- A valid record as it stands in the ledger. -/
structure LRec where
  page    : Nat
  pages   : Nat
  type    : Nat
  inst    : Nat
  seq     : Nat
  payload : List Byte
  raw     : List Byte
deriving DecidableEq, Repr
/-- One read of a ledger byte: read number `k` gives an indeterminate byte its value (R481). -/
def ldgByte (l : Ldg) (k a : Nat) : Byte :=
  if l.cut.contains (a / 8) then Config.indeterminate k a else mget 0xFF l.mem a
def ldgBytes (l : Ldg) (k a n : Nat) : List Byte := (List.range n).map fun i => ldgByte l k (a + i)
def recPages (len : Nat) : Nat := (16 + len + 63) / 64
/-- The bytes of a record (R486). -/
def recordBytes (type inst seq : Nat) (payload : List Byte) : List Byte :=
  let n := recPages payload.length
  let h := leBytes 2 0x4C44 ++ leBytes 1 type ++ leBytes 1 inst ++ leBytes 4 seq ++ leBytes 2 payload.length ++ leBytes 1 n
    ++ [0] ++ payload
  let r := h ++ leBytes 4 (crc32 h).toNat
  r ++ rep (n * 64 - r.length) 0xFF
/-- The record at page `p` of area `a`, where it is valid (R487); two reads, `k` and `k + 1`, must agree. -/
def recordAt (l : Ldg) (k a p : Nat) : Option LRec :=
  let h := ldgBytes l k (p * 64) 12
  if field h 0 2 ≠ 0x4C44 then none else
  let len := field h 8 2
  let n := field h 10 1
  if len > 2032 ∨ n ≠ recPages len ∨ field h 11 1 ≠ 0 then none
  else if p + n > areaBase a + areaPages a ∨ !typeInArea a (field h 2 1) then none
  else
    let r := ldgBytes l k (p * 64) (n * 64)
    if (List.range (n * 8)).any fun g => l.uncorr.contains (p * 8 + g) then none
    else if field r (12 + len) 4 ≠ (crc32 (r.take (12 + len))).toNat then none
    else if ldgBytes l (k + 1) (p * 64) (n * 64) ≠ r then none
    else some ⟨p, n, field h 2 1, field h 3 1, field h 4 4, (r.drop 12).take len, r⟩
/-- A page reads as erased. -/
def erased (l : Ldg) (k p : Nat) : Bool := (ldgBytes l k (p * 64) 64).all (· == 0xFF)
/-- The search of R487 from page `p` on: valid records in slot order, and invalid records other than erased pages. -/
def searchFrom (l : Ldg) (k a : Nat) : Nat → Nat → List LRec × Nat
  | 0, _ => ([], 0)
  | fuel + 1, p =>
    if p ≥ areaBase a + areaPages a then ([], 0) else
    match recordAt l k a p with
    | some r => let (rs, b) := searchFrom l k a fuel (p + r.pages); (r :: rs, b)
    | none => let (rs, b) := searchFrom l k a fuel (p + 1); (rs, if erased l k p then b else b + 1)
/-- The valid records of an area in slot order, and the number of invalid ones. An array with nothing programmed is not
walked. -/
def searchArea (l : Ldg) (k a : Nat) : List LRec × Nat :=
  if l.mem = [] ∧ l.cut = [] then ([], 0) else searchFrom l k a (areaPages a) (areaBase a)
/-- R488. -/
def newerSeq (x y : Nat) : Bool := let d := (x + 2 ^ 32 - y) % 2 ^ 32; decide (1 ≤ d) && decide (d ≤ 2 ^ 31 - 1)
def tieSeq (x y : Nat) : Bool := let d := (x + 2 ^ 32 - y) % 2 ^ 32; d == 0 || d == 2 ^ 31
/-- The newest of some records in slot order; the later slot wins a tie (R488). -/
def newest : List LRec → Option LRec → Option LRec
  | [], c => c
  | r :: t, none => newest t (some r)
  | r :: t, some c => newest t (some (if newerSeq r.seq c.seq || tieSeq r.seq c.seq then r else c))
/-- The ties of R488 whose records differ. -/
def conflicts : List LRec → Option LRec → List LRec
  | [], _ => []
  | r :: t, none => conflicts t (some r)
  | r :: t, some c =>
    if newerSeq r.seq c.seq then conflicts t (some r)
    else if tieSeq r.seq c.seq then (if r.raw ≠ c.raw then r :: conflicts t (some r) else conflicts t (some r))
    else conflicts t (some c)
/-- The key of a record (R488). -/
def keyOf (r : LRec) : Nat × Nat × List Byte := (r.type, r.inst, if r.type = 0x11 then r.payload.take 3 else [])
def keyOfNew (type inst : Nat) (payload : List Byte) : Nat × Nat × List Byte :=
  (type, inst, if type = 0x11 then payload.take 3 else [])
/-- The current records of a keyed area. -/
def currents (rs : List LRec) : List LRec :=
  rs.filter fun r => newest (rs.filter fun x => keyOf x = keyOf r) none = some r
/-- The current record of a key. -/
def current (rs : List LRec) (key : Nat × Nat × List Byte) : Option LRec := newest (rs.filter fun x => keyOf x = key) none
/-- Search an area: two reads of it are made, its invalid records are counted, and conflicts are reported (R487, R488). -/
def State.searched (s : State) (a : Nat) : List LRec × State :=
  let (rs, bad) := searchArea s.ldg s.free a
  let s1 := { s with free := s.free + 2, ldg := { s.ldg with bad := sat 32 (s.ldg.bad + bad) } }
  if isLogArea a then (rs, s1) else
  let cs := (currents rs).flatMap fun r => conflicts (rs.filter fun x => keyOf x = keyOf r) none
  (rs, cs.foldl (fun s r =>
    let s' := { s with ldg := { s.ldg with conflict := true, conflictArea := a } }
    s'.raiseLim 0x1110 0 0 [(16, a), (17, r.type), (18, r.inst), (20, r.seq)]) s1)
/-- The head of an area: the page after its newest valid record (R489). -/
def headPage (a : Nat) (rs : List LRec) : Nat :=
  match newest rs none with
  | some r => r.page + r.pages
  | none => areaBase a
def placeAt (a h n : Nat) : Nat := if h + n > areaBase a + areaPages a then areaBase a else h
/-- Pages that current records of an area would cover with a new record of `n` pages (R489 Full area). -/
def wouldCover (rs : List LRec) (key : Nat × Nat × List Byte) (n : Nat) : Nat :=
  n + (((currents rs).filter fun r => keyOf r ≠ key).map (·.pages)).sum
/-- Whether a record of a keyed area would fill it beyond half. -/
def tooFull (s : State) (a type inst : Nat) (payload : List Byte) : Bool :=
  !isLogArea a &&
    decide (2 * wouldCover (searchArea s.ldg s.free a).1 (keyOfNew type inst payload) (recPages payload.length) > areaPages a)
/-- The records to write, in order, so that `n` pages for the key become free at the head: current records of other
keys in the way go to the head first (R489). The `Bool` says that the copies of a group keep their SEQ. -/
def clearWay (a : Nat) (keepSeq : Bool) (key : Nat × Nat × List Byte) (n : Nat) :
    Nat → List LRec → Nat → Nat → List (Nat × LRec) × Nat
  | 0, _, h, _ => ([], h)
  | fuel + 1, cur, h, sq =>
    let p := placeAt a h n
    match cur.find? fun r => keyOf r ≠ key ∧ r.page < p + n ∧ p < r.page + r.pages with
    | none => ([], h)
    | some r =>
      let q := placeAt a h r.pages
      let seq := if keepSeq then r.seq else sq
      let r' : LRec := { r with page := q, seq := seq, raw := recordBytes r.type r.inst seq r.payload }
      let (ws, h') := clearWay a keepSeq key n fuel (cur.filter (· ≠ r)) (q + r.pages) (sq + 1)
      ((q, r') :: ws, h')
def pagesOf (p : Nat) (raw : List Byte) (use : LdgUse) (job tries : Nat) : List PageWrite :=
  (List.range (raw.length / 64)).map fun i => ⟨p + i, (raw.drop (64 * i)).take 64, use, job, tries⟩
/-- The newest SEQ among the valid records of some areas, plus one; 1 where there is none (R489). -/
def nextSeq (rss : List (List LRec)) : Nat :=
  match newest rss.flatten none with
  | some r => (r.seq + 1) % 2 ^ 32
  | none => 1
/-- The page writes of a job, and the SEQ it takes. The first write to an area after a power-up rewrites the newest record
at the head with the same SEQ and content (R491). -/
def planJob (l : Ldg) (k : Nat) (j : LdgJob) : List PageWrite × Nat :=
  match j.use with
  | .raw =>
    -- R483: the page is read and the bytes merged, wrapping to its start; `inst` carries the offset, `area` the page
    let old := ldgBytes l k (j.area * 64) 64
    let new := (List.range j.payload.length).foldl (fun (bs : List Byte) i => bs.set ((j.inst + i) % 64) (j.payload.getD i 0)) old
    ([⟨j.area, new, .raw, j.id, j.tries⟩], 0)
  | _ =>
    let rs := (searchArea l k j.area).1
    let h0 := match l.retryAt with | some h => h | none => headPage j.area rs
    let settle := if l.settled.contains j.area then none else newest rs none
    let triple := (copiesOf j.area).length == 3
    let sq0 := match j.seq with
      | some n => n
      | none => nextSeq ((copiesOf j.area).map fun a => (searchArea l k a).1)
    -- current records in the way of the settled one move as they do for a new one
    let clear (key : Nat × Nat × List Byte) (n : Nat) (cur : List LRec) (h sq : Nat) : List (Nat × LRec) × Nat :=
      if isLogArea j.area then ([], h) else clearWay j.area triple key n 64 cur h sq
    let (mv0, ws0, h1) : List (Nat × LRec) × List PageWrite × Nat := match settle with
      | some r =>
        let (mv, h) := clear (keyOf r) r.pages (currents rs) h0 sq0
        let q := placeAt j.area h r.pages
        (mv, mv.flatMap (fun (p : Nat × LRec) => pagesOf p.1 p.2.raw j.use j.id j.tries) ++ pagesOf q r.raw j.use j.id j.tries, q + r.pages)
      | none => ([], [], h0)
    let sq := if triple then sq0 else (sq0 + mv0.length) % 2 ^ 32
    let n := recPages j.payload.length
    let key := keyOfNew j.type j.inst j.payload
    let here : List LRec := mv0.map (·.2) ++ (currents rs).filter fun r => !(mv0.any fun p => keyOf p.2 = keyOf r)
    let (mv, h2) := clear key n here h1 sq
    let sq' := if triple then sq else (sq + mv.length) % 2 ^ 32
    let ws1 := mv.flatMap fun (p : Nat × LRec) => pagesOf p.1 p.2.raw j.use j.id j.tries
    (ws0 ++ ws1 ++ pagesOf (placeAt j.area h2 n) (recordBytes j.type j.inst sq' j.payload) j.use j.id j.tries, sq')
/-- Start the job at the head of the queue, where no page write runs; the other copies of its group take its SEQ. -/
def ldgKick (s : State) : State :=
  match s.ldg.pages, s.ldg.jobs with
  | [], j :: rest =>
    let (ws, sq) := planJob s.ldg s.free j
    let rest' := rest.map fun x => if x.id = j.id ∧ x.use = j.use ∧ j.use ≠ .raw ∧ x.area ∈ copiesOf j.area then { x with seq := some sq } else x
    { s with free := s.free + 2,
             ldg := { s.ldg with pages := ws, jobs := { j with seq := some sq } :: rest', retryAt := none,
                                 settled := if s.ldg.settled.contains j.area then s.ldg.settled else j.area :: s.ldg.settled } }
  | _, _ => s
/-- Queue the writing of records that share one job number (R480): (area, type, INST, payload, use). -/
def ldgEnqueue (rs : List (Nat × Nat × Nat × List Byte × LdgUse)) (s : State) : State :=
  let js := rs.map fun r => (⟨s.ldg.nextJob, r.1, r.2.1, r.2.2.1, none, r.2.2.2.1, r.2.2.2.2, 0⟩ : LdgJob)
  ldgKick { s with ldg := { s.ldg with jobs := s.ldg.jobs ++ js, nextJob := s.ldg.nextJob + 1 } }
/-- A record of a triplicated group goes to its three copies (R489). -/
def triple (a type inst : Nat) (payload : List Byte) (use : LdgUse) : List (Nat × Nat × Nat × List Byte × LdgUse) :=
  [(a, type, inst, payload, use), (a + 1, type, inst, payload, use), (a + 2, type, inst, payload, use)]
/-- The body of a 0x11 settings record (R492). -/
def settingPayload (op inst : Nat) (body : List Byte) : List Byte := leBytes 2 op ++ leBytes 1 inst ++ [0] ++ body
def paramBytes (d : Desc) : List Byte := leBytes 48 d.param.toNat
def setting (op inst : Nat) (body : List Byte) : Nat × Nat × Nat × List Byte × LdgUse :=
  (9, 0x11, op / 256, settingPayload op inst body, .settings (op / 256))
/-- The setting of `op` for the targets `ts` waits for the job that is about to be queued. -/
def noteDue (d : Desc) (op : Nat) (ts : List Nat) (s : State) : State :=
  { s with host := { s.host with dueSets := s.host.dueSets ++ [⟨s.ldg.nextJob, op, d, ts, false⟩] } }
/-- Let a command complete once the records it writes are durable (R489): `ST_LDG_FULL` and nothing changed where one
would fill its area, `ST_LDG_WRITE` where the writes fail. Its setting for the targets `ts` takes effect when it completes
(log entry 60). -/
def storingAs (st : Nat) (d : Desc) (op : Nat) (ts : List Nat) (rs : List (Nat × Nat × Nat × List Byte × LdgUse)) (res : Nat)
    (s : State) : State :=
  if rs.any fun r => tooFull s r.1 r.2.1 r.2.2.1 r.2.2.2.1 then finish d St.ldgFull 0 s
  else if rs = [] then finish d st res s
  else ldgEnqueue rs (noteDue d op ts (running d (.ledger s.ldg.nextJob st) res s))
/-- The same for a command that ends with `ST_OK`. -/
def storing (d : Desc) (op : Nat) (rs : List (Nat × Nat × Nat × List Byte × LdgUse)) (res : Nat) (s : State) : State :=
  storingAs St.ok d op [0] rs res s
/-- The settings of a job are to take effect, or are dropped where its writes failed (R489). -/
def dueEnd (id st : Nat) (ds : List DueSet) : List DueSet :=
  if st = St.ok then ds.map fun x => if x.job = id then { x with ready := true } else x else ds.filter (·.job ≠ id)
/-- The end of a job: the commands that wait for it complete, and the settings it stored are to take effect. -/
def ldgJobEnd (id st : Nat) (res : Option Nat) (s : State) : State :=
  let s1 := { s with host := { s.host with dueSets := dueEnd id st s.host.dueSets } }
  wake (fun w => match w with | .ledger m k => if m = id then .done (if st = St.ok then k else st) res else .go | _ => .go) s1
/-- The commands that return the SEQ of the record they wrote (R495). -/
def seqResult (j : LdgJob) : Option Nat :=
  match j.use with
  | .tag | .user _ => j.seq
  | _ => none
/-! ## Voted words (R332, R333) -/
/-- First area and record type of a voted group: 0 ANCHOR, 1 POLICY, 2 CAL. -/
def groupArea (g : Nat) : Nat := if g = 0 then 2 else 5
def groupType (g : Nat) : Nat := if g = 0 then 1 else if g = 1 then 2 else 3
/-- The record that each copy of a group holds, if any. -/
def groupCopies (s : State) (g : Nat) : List (Option LRec) :=
  [0, 1, 2].map fun i => current (searchArea s.ldg s.free (groupArea g + i)).1 (groupType g, 0, [])
def majByte (a b c : Byte) : Byte := (a &&& b) ||| (a &&& c) ||| (b &&& c)
/-- The bitwise majority of three payloads; a byte missing from a shorter one counts as zero. -/
def majority (a b c : List Byte) : List Byte :=
  (List.range (max a.length (max b.length c.length))).map fun i => majByte (a.getD i 0) (b.getD i 0) (c.getD i 0)
/-- The vote of R333: the result code and the payload, `none` where the default applies. -/
def voteOf (cs : List (Option LRec)) : Nat × Option (List Byte) :=
  match cs.filterMap id with
  | [a, b, c] =>
    if a.payload = b.payload ∧ b.payload = c.payload then (0, some a.payload) else (1, some (majority a.payload b.payload c.payload))
  | [a, b] =>
    if a.payload = b.payload then (1, some a.payload) else (2, some (if newerSeq b.seq a.seq then b.payload else a.payload))
  | [a] => (2, some a.payload)
  | _ => (3, none)
/-- The copies that differ from a vote's result or hold no record, by index. -/
def badCopies (cs : List (Option LRec)) (r : Option (List Byte)) : List Nat :=
  (List.range 3).filter fun i => (cs.getD i none).map (·.payload) ≠ r
/-- The calibration record of some values (R181, R184). -/
def calRecord (c : Cal) : List Byte :=
  leBytes 2 c.cap ++ leBytes 2 c.esr ++ leBytes 2 c.vfloor ++ leBytes 1 c.eff ++ leBytes 1 c.tfix ++ leBytes 2 c.psave ++ leBytes 2 c.rate
    ++ leBytes 1 c.guardPct ++ [0, 0, 0]
/-- The default of a group, for a vote with no valid copy; no root stands for the anchor (R332). -/
def groupDefault (g : Nat) : Option (List Byte) :=
  if g = 0 then none
  else if g = 1 then some (((List.range 11).map fun p => (defaultAuth p).zeroExtend 8) ++ [0])
  else some (calRecord Cal.defaults)
/-- The payload that a group's copies are to hold (R332, R333). -/
def groupWanted (g : Nat) (cs : List (Option LRec)) : Option (List Byte) := (voteOf cs).2.or (groupDefault g)
/-- The copies that are rewritten after a vote (R333). -/
def rewritten (g : Nat) (cs : List (Option LRec)) : List Nat :=
  match groupWanted g cs with | none => [] | some p => badCopies cs (some p)
/-- Vote a group, show the result, and report any result but UNANIMOUS (R333). -/
def castVote (g : Nat) (s : State) : State :=
  let cs := groupCopies s g
  let (code, _) := voteOf cs
  let e := s.err
  let e1 := if g = 0 then { e with voteAnchor := code } else if g = 1 then { e with votePolicy := code } else { e with voteCal := code }
  let s1 := { s with err := { e1 with repairPending := decide (e1.voteAnchor ≠ 0 ∨ e1.votePolicy ≠ 0 ∨ e1.voteCal ≠ 0) } }
  if code = 0 then s1 else s1.raiseErr 0x0A13 g 0 0x0A [(16, g), (17, code), (18, maskOf (rewritten g cs))]
/-- The payload that a group's vote yields. -/
def voted (s : State) (g : Nat) : Option (List Byte) := (voteOf (groupCopies s g)).2
/-- A measurement is in the ledger: its event, and the end of a `PWR_HUB_MEASURE` (R458, R466). -/
def measurementIn (s : State) : State :=
  if !s.pwr.measRaise then s else
  let c := s.pwr.cap.getD 0
  let e := s.pwr.esr.getD 0
  wake (fun w => match w with | .hubMeasure => .done St.ok (some (pack [(0, c), (16, e)])) | _ => .go)
    (({ s with pwr := { s.pwr with measRaise := false } } : State).raise 0x0F15 0 [(16, c), (18, e), (20, s.pwr.v0)])
/-- The voted group that a job writes, by what it writes for (R332). -/
def voteGroup (j : LdgJob) : Option Nat :=
  match j.use with
  | .anchor => some 0
  | .policy => some 1
  | .cal => some 2
  | .repair => some (if j.type = groupType 0 then 0 else if j.type = groupType 1 then 1 else 2)
  | _ => none
/-- What follows the last write of a job: the vote of its group (R333), or the end of a measurement, whose record was
written or not (R458, R466, R489). -/
def voteAfter (j : LdgJob) (st : Nat) (s : State) : State :=
  match voteGroup j, j.use with
  | some g, _ => castVote g s
  | none, .counters 0x41 => if st = St.ok then measurementIn s
      else wake (fun w => match w with | .hubMeasure => .done st none | _ => .go) { s with pwr := { s.pwr with measRaise := false } }
  | _, _ => s
/-- A rewrite of R333 is queued. -/
def repairing (l : Ldg) : Bool := l.jobs.any fun j => j.use = .repair
/-- The rewrites of a group: one job, so that the group is voted when they are done. -/
def repairGroup (s : State) (g : Nat) : State :=
  let cs := groupCopies s g
  match groupWanted g cs, rewritten g cs with
  | some p, i :: is => ldgEnqueue ((i :: is).map fun k => (groupArea g + k, groupType g, 0, p, .repair)) s
  | _, _ => s
/-- `VOTE_REPAIR`: the copies that differ from the result, or from the default of a group with no valid copy, are rewritten at
the first READY, unless the ANCHOR result is NONE (R332, R333). REPAIR_PENDING falls with the votes that follow. -/
def voteRepair (s : State) : State :=
  if s.glb.state ≠ 2 ∨ s.err.repairPending = false ∨ s.err.voteAnchor = 3 ∨ repairing s.ldg = true then s
  else [0, 1, 2].foldl repairGroup s
def execVoteRepair (s : State) : Host.Outcome State Fault Refusal := .next (voteRepair s)
/-- A page write has finished its read-back (R480, R489). -/
def pageWriteDone (ok : Bool) (s : State) : State :=
  match s.ldg.pages, s.ldg.jobs with
  | pw :: rest, j :: js =>
    let gs := (List.range 8).map fun g => pw.page * 8 + g
    let keep (xs : List Nat) : List Nat := xs.filter fun g => !gs.contains g
    let l := { s.ldg with pageWrites := sat 32 (s.ldg.pageWrites + 1) }
    if ok then
      let l1 := { l with mem := mputs 0xFF l.mem (pw.page * 64) pw.data, uncorr := keep l.uncorr, cut := keep l.cut, pages := rest }
      if rest ≠ [] then { s with ldg := l1 }
      else
        let st := if l1.failed.contains j.id then St.ldgWrite else St.ok
        let s1 := { s with ldg := { l1 with jobs := js, failed := if js.any (·.id = j.id) then l1.failed else l1.failed.filter (· ≠ j.id) } }
        ldgKick (if js.any fun x => x.id = j.id then s1 else ldgJobEnd j.id st (if st = St.ok then seqResult j else none) (voteAfter j st s1))
    else
      let l1 := { l with cut := keep l.cut ++ gs, pages := [] }
      if j.tries < 2 then
        let at' := if pw.page + 1 ≥ areaBase j.area + areaPages j.area then areaBase j.area else pw.page + 1
        ldgKick { s with ldg := { l1 with jobs := { j with tries := j.tries + 1 } :: js, retryAt := if j.use = .raw then none else some at' } }
      else
        let s1 := { s with ldg := { l1 with jobs := js, writeFail := true, failed := j.id :: l1.failed } }
        let s2 := s1.raiseLim 0x1111 0 0 [(16, pw.page * 64), (20, if j.use = .raw then areaOfPage j.area else j.area)]
        ldgKick (if js.any fun x => x.id = j.id then s2
          else ldgJobEnd j.id St.ldgWrite none (voteAfter j St.ldgWrite { s2 with ldg := { s2.ldg with failed := s2.ldg.failed.filter (· ≠ j.id) } }))
  | _, _ => s
/-- A page whose write is cut off in phase `n` (R480, R481): 0 the erase, 1 to 8 the program of group `n` - 1, 9 the read-back. The
groups before the one cut hold the new data, those after it read erased. -/
def cutPage (n : Nat) (pw : PageWrite) (l : Ldg) : Ldg :=
  let gs := (List.range 8).map fun g => pw.page * 8 + g
  let out (xs : List Nat) : List Nat := xs.filter fun g => !gs.contains g
  let done := 8 * (n - 1)
  if n = 0 then { l with cut := out l.cut ++ gs }
  else { l with mem := mputs 0xFF l.mem (pw.page * 64) (pw.data.take done ++ List.replicate (64 - done) 0xFF),
                uncorr := out l.uncorr, cut := out l.cut ++ if n = 9 then [] else [pw.page * 8 + (n - 1)] }
/-- A page write in progress is stopped where it stands, and what was queued is lost (R462, R481): how far it had come is a free
value. -/
def ldgCut (s0 : State) : State :=
  match s0.ldg.pages with
  | [] => s0
  | pw :: _ =>
    let (v, s) := s0.draw
    { s with ldg := { cutPage (bits v 0 8 % 10) pw s.ldg with pages := [], abandoned := sat 32 (s.ldg.abandoned + 1) } }
/-- The PARAM bytes of the current settings record of a command and instance, where one exists (R492). -/
def stored (s : State) (op inst : Nat) : Option (List Byte) :=
  (current (searchArea s.ldg s.free 9).1 (0x11, op / 256, leBytes 2 op ++ leBytes 1 inst)).map fun r => r.payload.drop 4
/-- The payload of the current record of a type in a keyed area. -/
def storedRec (s : State) (a type inst : Nat) : Option (List Byte) :=
  (current (searchArea s.ldg s.free a).1 (type, inst, [])).map (·.payload)
end Sys2Proof.Machine
end

