-- ==== Sys2Proof/Machine/Backup.lean ====
section
/-! DEFINITION. The backup domain (R468–R479), its clock and alarm, and the BKD and LDG commands (R495). -/
namespace Sys2Proof.Machine
/-! ## BCD and the calendar (R472) -/
def bcdVal (b : Byte) : Nat := b.toNat / 16 * 10 + b.toNat % 16
def toBcd (n : Nat) : Byte := BitVec.ofNat 8 (n / 10 % 10 * 16 + n % 10)
/-- Valid BCD within a range. -/
def bcdIn (b : Byte) (lo hi : Nat) : Bool :=
  decide (b.toNat / 16 ≤ 9) && decide (b.toNat % 16 ≤ 9) && decide (lo ≤ bcdVal b) && decide (bcdVal b ≤ hi)
/-- Years since 2000. -/
def yearOf (c : Cal8) : Nat := bcdVal c.year + (if c.century then 100 else 0)
/-- A leap year is divisible by 4 and is not 2100. -/
def leap (y : Nat) : Bool := y % 4 == 0 && y != 100
def monthDays (y m : Nat) : Nat :=
  if m = 2 then (if leap y then 29 else 28) else if m = 4 ∨ m = 6 ∨ m = 9 ∨ m = 11 then 30 else 31
def dateExists (c : Cal8) : Bool := decide (bcdVal c.date ≤ monthDays (yearOf c) (bcdVal c.month))
/-- Every field of a time is valid BCD and in the range of R472. -/
def fieldsOk (c : Cal8) : Bool :=
  bcdIn c.sec 0 59 && bcdIn c.min 0 59 && bcdIn c.hour 0 23 && decide (1 ≤ c.day.toNat) && bcdIn c.date 1 31 && bcdIn c.month 1 12
    && bcdIn c.year 0 99
/-- The day after; the `Bool` says that the calendar wrapped. -/
def nextDay (c : Cal8) : Cal8 × Bool :=
  let c := { c with day := if c.day = 7 then 1 else c.day + 1 }
  if bcdVal c.date < monthDays (yearOf c) (bcdVal c.month) then ({ c with date := toBcd (bcdVal c.date + 1) }, false)
  else if bcdVal c.month < 12 then ({ c with date := 1, month := toBcd (bcdVal c.month + 1) }, false)
  else if yearOf c = 199 then ({ c with date := 1, month := 1, year := 0, century := false }, true)
  else
    let y := yearOf c + 1
    ({ c with date := 1, month := 1, year := toBcd (y % 100), century := decide (y ≥ 100) }, false)
/-- The next second. -/
def nextSecond (c : Cal8) : Cal8 × Bool :=
  if bcdVal c.sec < 59 then ({ c with sec := toBcd (bcdVal c.sec + 1) }, false)
  else if bcdVal c.min < 59 then ({ c with sec := 0, min := toBcd (bcdVal c.min + 1) }, false)
  else if bcdVal c.hour < 23 then ({ c with sec := 0, min := 0, hour := toBcd (bcdVal c.hour + 1) }, false)
  else nextDay { c with sec := 0, min := 0, hour := 0 }
/-- The snapshot layout (R475). -/
def calNat (c : Cal8) (lost halt : Bool) : Nat :=
  pack [(0, c.sub.toNat), (10, c.day.toNat), (13, b2n lost), (14, b2n halt), (16, c.sec.toNat), (24, c.min.toNat), (32, c.hour.toNat),
    (40, c.date.toNat), (48, c.month.toNat % 32), (55, b2n c.century), (56, c.year.toNat)]
/-- The time that 8 bytes in the snapshot layout spell. -/
def calOf (n : Nat) : Cal8 :=
  { sub := BitVec.ofNat 10 n, day := BitVec.ofNat 3 (n / 2 ^ 10), sec := BitVec.ofNat 8 (n / 2 ^ 16), min := BitVec.ofNat 8 (n / 2 ^ 24),
    hour := BitVec.ofNat 8 (n / 2 ^ 32), date := BitVec.ofNat 8 (n / 2 ^ 40), month := BitVec.ofNat 8 (n / 2 ^ 48 % 32),
    century := n.testBit 55, year := BitVec.ofNat 8 (n / 2 ^ 56) }
/-- The time as CCLK logic has it (R473). -/
def copyNat (b : Bkd) : Nat := calNat b.copy b.copyLost b.copyHalt
/-! ## The alarm (R477, R478) -/
def onDay (b : Bkd) (c : Cal8) : Bool :=
  (!b.mask.getLsbD 3 || c.date == b.alarm.date) && (!b.mask.getLsbD 4 || (c.month == b.alarm.month && c.century == b.alarm.century))
    && (!b.mask.getLsbD 5 || c.year == b.alarm.year)
def onTime (b : Bkd) (c : Cal8) : Bool :=
  (!b.mask.getLsbD 0 || c.sec == b.alarm.sec) && (!b.mask.getLsbD 1 || c.min == b.alarm.min) && (!b.mask.getLsbD 2 || c.hour == b.alarm.hour)
def matches_ (b : Bkd) (c : Cal8) : Bool := onDay b c && onTime b c
/-- Second of the day. -/
def todOf (c : Cal8) : Nat := bcdVal c.hour * 3600 + bcdVal c.min * 60 + bcdVal c.sec
def atTod (c : Cal8) (t : Nat) : Cal8 := { c with hour := toBcd (t / 3600), min := toBcd (t / 60 % 60), sec := toBcd (t % 60) }
/-- Some second strictly after `lo` and before `hi` of a day matches the alarm's time of day. -/
def todBetween (b : Bkd) (lo hi : Nat) : Bool :=
  (List.range 86400).any fun t => decide (lo < t) && decide (t < hi) && onTime b (atTod b.alarm t)
/-- Seconds since 2000-01-01, for comparing times. -/
def dayKey (c : Cal8) : Nat := (yearOf c * 12 + bcdVal c.month) * 32 + bcdVal c.date
def timeKey (c : Cal8) : Nat := dayKey c * 86400 + todOf c
/-- Some whole day strictly between two dates matches the alarm's date. -/
def dayBetween (b : Bkd) (c : Cal8) (stop : Nat) : Nat → Bool
  | 0 => false
  | fuel + 1 =>
    let n := (nextDay c).1
    if dayKey n ≥ stop ∨ dayKey n ≤ dayKey c then false else onDay b n || dayBetween b n stop fuel
/-- Whether the alarm matches some second after `th` and before `tn`. -/
def matchBetween (b : Bkd) (th tn : Cal8) : Bool :=
  if dayKey th = dayKey tn then onDay b th && todBetween b (todOf th) (todOf tn)
  else (onDay b th && todBetween b (todOf th) 86400) || (onDay b tn && (todBetween b 0 (todOf tn) || (decide (0 < todOf tn) && onTime b (atTod b.alarm 0))))
    || dayBetween b th (dayKey tn) 73100
/-- Fire the alarm (R478); its event is raised while READY, or else held for the next READY. -/
def fire (skip : Bool) (s : State) : State :=
  let b := s.bkd
  let b1 := { b with armed := false, fired := true, skipped := b.skipped || skip, pwron := b.pwron || b.pwronEn, firedAt := some b.time }
  { s with bkd := b1 }
/-- `BKD_ALARM` of a firing not reported yet. -/
def reportAlarm (s : State) : State :=
  match s.bkd.firedAt with
  | none => s
  | some t =>
    let s1 := { s with bkd := { s.bkd with firedAt := none } }
    s1.raiseLim 0x1010 0 0 [(16, b2n s.bkd.skipped + 2 * b2n s.bkd.pwron), (20, calNat t s.bkd.timeLost s.bkd.halt)]
def reportOsc (s : State) : State :=
  if s.bkd.oscEvent then ({ s with bkd := { s.bkd with oscEvent := false } } : State).raiseLim 0x1013 0 0 [] else s
def whenReady (f : State → State) (s : State) : State := if s.glb.state = 2 then f s else s
/-- What the backup domain reports at a READY (R469, R471, R478). -/
def bkdAtReady (s : State) : State :=
  let s1 := if s.bkd.timeLost then s.raiseLim 0x1012 0 0 [(16, copyNat s.bkd)] else s
  reportAlarm (reportOsc s1)
/-! ## Counting (R472, R473) -/
def refreshCopy (b : Bkd) : Bkd := { b with copy := b.time, copyHalt := b.halt, copyLost := b.timeLost }
/-- `SUBSEC_TICK`: 32 crystal cycles have passed; counting stops while HALT is 1 or the domain is in reset. -/
def subsecTick (s : State) : State :=
  let b := s.bkd
  if b.inReset then s
  else if b.halt then { s with bkd := refreshCopy b }
  else if b.time.sub ≠ 1023 then { s with bkd := refreshCopy { b with time := { b.time with sub := b.time.sub + 1 } } }
  else
    let (t, wrap) := nextSecond { b.time with sub := 0 }
    let s1 := { s with bkd := { b with time := t, yearWrap := b.yearWrap || wrap } }
    let s2 := if b.armed && matches_ b t then fire false s1 else s1
    whenReady reportAlarm { s2 with bkd := refreshCopy s2.bkd }
def execSubsecTick (s : State) : Host.Outcome State Fault Refusal := .next (subsecTick s)
/-! ## Supply (R468–R471) -/
/-- `VBAT_SWITCH`: the domain changes supply; the first switch to `VBAT` after arming is stamped (R470). -/
def vbatSwitch (toVbat : Bool) (s : State) : State :=
  let b := s.bkd
  if b.onVbat = toVbat then s
  else if toVbat then
    let b1 := { b with onVbat := true, swoCount := min 255 (b.swoCount + 1) }
    { s with bkd := if b.swoValid then b1 else { b1 with swoValid := true, swo := BitVec.ofNat 64 (calNat b.time b.timeLost b.halt) } }
  else { s with bkd := { b with onVbat := false } }
def execVbatSwitch (toVbat : Bool) (s : State) : Host.Outcome State Fault Refusal := .next (vbatSwitch toVbat s)
/-- `VBAT_MEASURE`: once a second while `VDD_AON` is good (R471). -/
def vbatMeasure (mv : Nat) (s : State) : State :=
  if !s.pwr.vddAon then s else
  let low := if mv < 2200 then true else if mv > 2300 then false else s.bkd.vbatLow
  let s1 := { s with bkd := { s.bkd with vbat := min 4095 mv, vbatLow := low } }
  if low && !s.bkd.vbatLow then s1.raiseLim 0x1011 0 0 [(16, mv)] else s1
def execVbatMeasure (mv : Nat) (s : State) : Host.Outcome State Fault Refusal := .next (vbatMeasure mv s)
/-- `OSC_STOP` (R471): the event is raised at the next READY. -/
def oscStop (s : State) : State := whenReady reportOsc { s with bkd := { s.bkd with oscStop := true, oscEvent := true } }
def execOscStop (s : State) : Host.Outcome State Fault Refusal := .next (oscStop s)
/-- `BKD_DOMAIN_RESET` (R468, R469): the values of a domain reset; counting stops until release. Snapshots, the copy and
the writes still in transit lie on the CCLK side. -/
def bkdDomainReset (s : State) : State :=
  { s with bkd := { Bkd.reset with snap := s.bkd.snap, copy := s.bkd.copy, copyHalt := s.bkd.copyHalt, copyLost := s.bkd.copyLost,
                                   onVbat := s.bkd.onVbat, transit := s.bkd.transit,
                                   setCmd := s.bkd.setCmd, inReset := true } }
def execBkdDomainReset (s : State) : Host.Outcome State Fault Refusal := .next (bkdDomainReset s)
/-- `BKD_RESET_RELEASE` (R468). -/
def bkdResetRelease (s : State) : State := { s with bkd := { s.bkd with inReset := false } }
def execBkdResetRelease (s : State) : Host.Outcome State Fault Refusal := .next (bkdResetRelease s)
/-! ## Writes into the domain (R473, R476, R477) -/
/-- A write to a time field by its register offset; `none` where it is not valid. -/
def setField (c : Cal8) (off : Nat) (v : Word) : Option Cal8 :=
  let b (n : Nat) : Byte := BitVec.ofNat 8 (bits v 0 n)
  match off with
  | 0x00 => if bcdIn (b 7) 0 59 then some { c with sec := b 7 } else none
  | 0x04 => if bcdIn (b 7) 0 59 then some { c with min := b 7 } else none
  | 0x08 => if bcdIn (b 6) 0 23 then some { c with hour := b 6 } else none
  | 0x0C => if bits v 0 3 ≠ 0 then some { c with day := BitVec.ofNat 3 (bits v 0 3) } else none
  | 0x10 => if bcdIn (b 6) 1 31 then some { c with date := b 6 } else none
  | 0x14 => if bcdIn (b 5) 1 12 then some { c with month := b 5, century := v.getLsbD 7 } else none
  | 0x18 => if bcdIn (b 8) 0 99 then some { c with year := b 8 } else none
  | _ => none
/-- The alarm fields, at 0x30 to 0x44; there is no DAY (R477). -/
def setAlarmField (c : Cal8) (off : Nat) (v : Word) : Option Cal8 :=
  match off with
  | 0x30 => setField c 0x00 v | 0x34 => setField c 0x04 v | 0x38 => setField c 0x08 v | 0x3C => setField c 0x10 v
  | 0x40 => setField c 0x14 v | 0x44 => setField c 0x18 v | _ => none
def reject (s : State) : State := { s with bkd := { s.bkd with wrRej := true } }
/-- A release of HALT: refused where the date does not exist; otherwise the second starts anew and the alarm is evaluated
(R476, R478). -/
def releaseHalt (s : State) : State :=
  let b := s.bkd
  if !b.halt then s
  else if !dateExists b.time then reject s
  else
    let tn := { b.time with sub := 0 }
    let s1 := { s with bkd := { b with time := tn, halt := false, timeLost := false } }
    if !b.armed then s1
    else if matches_ b tn then fire false s1
    else if timeKey tn > timeKey b.th ∧ matchBetween b b.th tn then fire true s1
    else s1
/-- One write as it takes effect in the domain. -/
def applyWrite (w : BkdWrite) (s : State) : State :=
  let b := s.bkd
  match w with
  | .field off v =>
    if !b.halt then reject s
    else match setField b.time off v with | some t => { s with bkd := { b with time := t } } | none => reject s
  | .halt true => { s with bkd := { b with halt := true, th := b.time } }
  | .halt false | .setEnd => whenReady reportAlarm (releaseHalt s)
  | .alarm off v =>
    if b.armed then reject s
    else match setAlarmField b.alarm off v with | some t => { s with bkd := { b with alarm := t } } | none => reject s
  | .alarmCtrl m armed en =>
    -- MASK is not writable while ARMED is 1; setting ARMED clears FIRED
    let s1 := if b.armed && m ≠ b.mask then reject s else { s with bkd := { b with mask := m } }
    { s1 with bkd := { s1.bkd with armed := armed, pwronEn := en, fired := b.fired && !(armed && !b.armed) } }
  | .alarmArm armed => { s with bkd := { b with armed := armed, fired := b.fired && !(armed && !b.armed) } }
  | .alarmSet f m arm en =>
    { s with bkd := { b with alarm := { f with sub := 0, day := b.alarm.day }, mask := m, armed := arm, pwronEn := en,
                             fired := b.fired && !arm } }
  | .alarmAck => { s with bkd := { b with pwron := false, fired := false, skipped := false } }
  | .w1c off v =>
    if off = 0x20 then
      { s with bkd := { b with wrRej := b.wrRej && !v.getLsbD 1, oscStop := b.oscStop && !v.getLsbD 3, yearWrap := b.yearWrap && !v.getLsbD 4 } }
    else if off = 0x48 then { s with bkd := { b with skipped := b.skipped && !v.getLsbD 10 } }
    else if off = 0x58 then { s with bkd := { b with swoValid := b.swoValid && !v.getLsbD 0 } }
    else s
/-- `BKD_WRITE_ARRIVE`: the oldest write in transit takes effect; the release that ends a `BKD_TIME_SET` completes it. -/
def bkdWriteArrive (s : State) : State :=
  match s.bkd.transit with
  | [] => s
  | w :: rest =>
    let s0 := { s with bkd := { s.bkd with transit := rest } }
    let s1 := if s.bkd.inReset then s0 else applyWrite w s0
    match w with
    | .setEnd =>
      if s1.bkd.setCmd then
        let s2 := { s1 with bkd := { s1.bkd with setCmd := false } }
        wake (fun k => match k with
          | .bkd => if s2.bkd.halt then .done St.bkdDate none else .done St.ok (some (calNat s2.bkd.th s.bkd.timeLost true))
          | _ => .go) s2
      else s1
    | _ => s1
def execBkdWriteArrive (s : State) : Host.Outcome State Fault Refusal := .next (bkdWriteArrive s)
def send (w : BkdWrite) (s : State) : State := { s with bkd := { s.bkd with transit := s.bkd.transit ++ [w] } }
/-! ## BKD commands (R495) -/
def bkdTimeGetInfo : CmdInfo := { op := 0x1010, auth := auObserve }
def bkdTimeGet (d : Desc) (s : State) : State := command bkdTimeGetInfo d true (fun _ s => finish d St.ok (copyNat s.bkd) s) s
def execBkdTimeGet (d : Desc) (s : State) : Host.Outcome State Fault Refusal := .next (bkdTimeGet d s)
def bkdTimeSetInfo : CmdInfo :=
  { op := 0x1011, auth := auConfigure, used := [(16, 64)],
    enc := fun d => decide (d.p 16 2 % 1024 = 0) && !d.bit 17 5 && !d.bit 17 6 && !d.bit 17 7 && !d.bit 22 5 && !d.bit 22 6 }
/-- The register writes that set a time (R476). -/
def timeWrites (c : Cal8) : List BkdWrite :=
  [.halt true, .field 0x00 (c.sec.zeroExtend 32), .field 0x04 (c.min.zeroExtend 32), .field 0x08 (c.hour.zeroExtend 32),
   .field 0x0C (c.day.zeroExtend 32), .field 0x10 (c.date.zeroExtend 32),
   .field 0x14 (packW [(0, c.month.toNat), (7, b2n c.century)]), .field 0x18 (c.year.zeroExtend 32), .setEnd]
/-- `BKD_TIME_SET`: a time field that is no valid BCD completes with `ST_BKD_DATE`; otherwise the procedure of R476. -/
def bkdTimeSet (d : Desc) (s : State) : State :=
  command bkdTimeSetInfo d true (fun _ s =>
    let c := calOf (d.p 16 8)
    if !fieldsOk c then finish d St.bkdDate 0 s
    else if s.bkd.setCmd then finish d St.busy 0 s
    else running d .bkd 0 { s with bkd := { s.bkd with transit := s.bkd.transit ++ timeWrites c, setCmd := true } }) s
def execBkdTimeSet (d : Desc) (s : State) : Host.Outcome State Fault Refusal := .next (bkdTimeSet d s)
def bkdAlarmSetInfo : CmdInfo :=
  { op := 0x1012, auth := auConfigure, used := [(18, 40), (23, 8), (24, 6), (25, 2)], enc := fun d => !d.bit 22 5 && !d.bit 22 6 }
def bkdAlarmSet (d : Desc) (s : State) : State :=
  command bkdAlarmSetInfo d true (fun _ s =>
    let f := calOf (d.p 18 6 * 2 ^ 16 + 2 ^ 10)
    if d.bit 25 0 ∧ !fieldsOk f then finish d St.bkdDate 0 s
    else finish d St.ok 0 (send (.alarmSet f (BitVec.ofNat 6 (d.p 24 1)) (d.bit 25 0) (d.bit 25 1)) s)) s
def execBkdAlarmSet (d : Desc) (s : State) : Host.Outcome State Fault Refusal := .next (bkdAlarmSet d s)
/-- `ALM_CTRL` as it reads. -/
def almCtrl (b : Bkd) : Word :=
  packW [(0, b.mask.toNat), (8, b2n b.armed), (9, b2n b.fired), (10, b2n b.skipped), (11, b2n b.pwronEn), (12, b2n b.pwron)]
def bkdAlarmAckInfo : CmdInfo := { op := 0x1013, auth := auOperate }
def bkdAlarmAck (d : Desc) (s : State) : State :=
  command bkdAlarmAckInfo d true (fun _ s => finish d St.ok (bits (almCtrl s.bkd) 0 16) (send .alarmAck s)) s
def execBkdAlarmAck (d : Desc) (s : State) : Host.Outcome State Fault Refusal := .next (bkdAlarmAck d s)
def bkdSwoClearInfo : CmdInfo := { op := 0x1014, auth := auConfigure }
def bkdSwoClear (d : Desc) (s : State) : State :=
  command bkdSwoClearInfo d true (fun _ s =>
    finish d St.ok (if s.bkd.swoValid then s.bkd.swo.toNat else 0) (send (.w1c 0x58 1) s)) s
def execBkdSwoClear (d : Desc) (s : State) : Host.Outcome State Fault Refusal := .next (bkdSwoClear d s)
/-! ## Backup-domain registers with a rule of their own -/
def Requester.idx : Requester → Fin 3
  | .host => 0 | .firmware => 1 | .service => 2
def bcdWord (b : Byte) : Word := b.zeroExtend 32
/-- Firmware, and the service port holding MAINTAIN, may write fields that are not doorbells or W1C (R9). -/
def mayWrite (s : State) (who : Requester) : Bool :=
  match who with
  | .host => false
  | .firmware => decide (s.glb.fil ≠ 0)
  | .service => decide (s.glb.fil ≠ 0) && s.holds 5 auMaintain
/-- `RTC_HALT_WRITE` (R476). -/
def rtcHaltWrite (who : Requester) (halt : Bool) (s : State) : State := if mayWrite s who then send (.halt halt) s else s
def execRtcHaltWrite (who : Requester) (halt : Bool) (s : State) : Host.Outcome State Fault Refusal := .next (rtcHaltWrite who halt s)
/-- `ALARM_ARM_WRITE` (R477): ARMED is written, the mask and PWRON_EN stay as they are when it takes effect. -/
def alarmArmWrite (who : Requester) (arm : Bool) (s : State) : State :=
  if mayWrite s who then send (.alarmArm arm) s else s
def execAlarmArmWrite (who : Requester) (arm : Bool) (s : State) : Host.Outcome State Fault Refusal := .next (alarmArmWrite who arm s)
/-! ## LDG commands (R495) -/
def ldgStat (l : Ldg) : Word :=
  packW [(0, b2n (l.pages ≠ [])), (1, b2n l.conflict), (2, b2n l.locked), (3, b2n l.writeFail), (8, l.conflictArea)]
def ldgEvents (s : State) : Nat := (searchArea s.ldg s.free 10).1.length
def ldgQueryInfo : CmdInfo := { op := 0x1110, auth := auObserve }
def ldgQuery (d : Desc) (s : State) : State :=
  command ldgQueryInfo d true (fun _ s =>
    let (es, s1) := s.searched 10
    let (ts, s2) := s1.searched 1
    finish d St.ok (pack [(0, (ldgStat s2.ldg).toNat), (32, min 4095 es.length), (48, b2n (current ts (0x20, 0, [])).isSome)]) s2) s
def execLdgQuery (d : Desc) (s : State) : Host.Outcome State Fault Refusal := .next (ldgQuery d s)
/-- A buffer of the stated length was given. -/
def bufOk (buf : List Byte) (len lo hi : Nat) : Bool := decide (lo ≤ len) && decide (len ≤ hi) && decide (buf.length = len)
def ldgTagWriteInfo : CmdInfo := { op := 0x1111, auth := auConfigure, used := [(16, 80)], buf := some 16 }
def ldgTagWrite (d : Desc) (given : List Byte) (s : State) : State :=
  let buf := bufferOf s d 0x1111 given
  command ldgTagWriteInfo d (bufOk buf (d.p 24 2) 1 496) (fun _ s =>
    storing d 0x1111 [(1, 0x20, 0, buf, .tag)] 0 s) s
def execLdgTagWrite (d : Desc) (buf : List Byte) (s : State) : Host.Outcome State Fault Refusal := .next (ldgTagWrite d buf s)
def ldgTagReadInfo : CmdInfo := { op := 0x1112, auth := auObserve, used := [(16, 64)], buf := some 16 }
def ldgTagRead (d : Desc) (s : State) : State :=
  command ldgTagReadInfo d true (fun _ s =>
    let (rs, s1) := s.searched 1
    match current rs (0x20, 0, []) with
    | none => finish d St.ldgEmpty 0 s1
    | some r => finishData d St.ok (pack [(0, r.payload.length), (32, r.seq)]) (d.p 16 8) r.payload s1) s
def execLdgTagRead (d : Desc) (s : State) : Host.Outcome State Fault Refusal := .next (ldgTagRead d s)
/-- Order of SEQ, newest first (R490). -/
def insertSeq (r : LRec) : List LRec → List LRec
  | [] => [r]
  | x :: t => if newerSeq r.seq x.seq then r :: x :: t else x :: insertSeq r t
def newestFirst (rs : List LRec) : List LRec := rs.foldl (fun acc r => insertSeq r acc) []
def ldgEventReadInfo : CmdInfo := { op := 0x1113, auth := auObserve, used := [(16, 112)], buf := some 16 }
def ldgEventRead (d : Desc) (s : State) : State :=
  command ldgEventReadInfo d (decide (1 ≤ d.p 28 2) && decide (d.p 28 2 ≤ 256)) (fun _ s =>
    let (rs, s1) := s.searched 10
    let sel := ((newestFirst rs).drop (d.p 24 4)).take (d.p 28 2)
    if sel = [] then finish d St.ldgEmpty 0 s1
    else finishData d St.ok sel.length (d.p 16 8) (sel.flatMap fun r => r.raw.take 32) s1) s
def execLdgEventRead (d : Desc) (s : State) : Host.Outcome State Fault Refusal := .next (ldgEventRead d s)
def ldgUserAppendInfo : CmdInfo := { op := 0x1114, auth := auConfigure, used := [(16, 16), (24, 80)], buf := some 24 }
def ldgUserAppend (d : Desc) (given : List Byte) (s : State) : State :=
  let buf := bufferOf s d 0x1114 given
  command ldgUserAppendInfo d (decide (d.p 16 1 ≤ 1) && bufOk buf (d.p 32 2) 1 496) (fun _ s =>
    let a := 11 + d.p 16 1
    storing d 0x1114 [(a, 0x30, d.p 17 1, buf, .user (d.p 16 1))] 0 s) s
def execLdgUserAppend (d : Desc) (buf : List Byte) (s : State) : Host.Outcome State Fault Refusal := .next (ldgUserAppend d buf s)
def ldgUserReadInfo : CmdInfo := { op := 0x1115, auth := auObserve, used := [(16, 8), (20, 96)], buf := some 24 }
def ldgUserRead (d : Desc) (s : State) : State :=
  command ldgUserReadInfo d (decide (d.p 16 1 ≤ 1)) (fun _ s =>
    let (rs, s1) := s.searched (11 + d.p 16 1)
    match (newestFirst rs)[d.p 20 4]? with
    | none => finish d St.ldgEmpty 0 s1
    | some r => finishData d St.ok (pack [(0, r.payload.length), (16, r.inst), (32, r.seq)]) (d.p 24 8) r.payload s1) s
def execLdgUserRead (d : Desc) (s : State) : Host.Outcome State Fault Refusal := .next (ldgUserRead d s)
def ldgRawReadInfo : CmdInfo := { op := 0x1116, auth := auMaintain, used := [(16, 48), (24, 64)], buf := some 24 }
/-- `LDG_RAW_READ` (R483): any address, without wrap. -/
def ldgRawRead (d : Desc) (s : State) : State :=
  let a := d.p 16 4
  let n := d.p 20 2
  command ldgRawReadInfo d (decide (1 ≤ n) && decide (n ≤ 4096) && decide (a + n ≤ 0x40000)) (fun _ s =>
    finishData d St.ok 0 (d.p 24 8) (ldgBytes s.ldg s.free a n) { s with free := s.free + 1 }) s
def execLdgRawRead (d : Desc) (s : State) : Host.Outcome State Fault Refusal := .next (ldgRawRead d s)
def ldgRawWriteInfo : CmdInfo := { op := 0x1117, auth := auMaintain, used := [(16, 40), (24, 64)], buf := some 24 }
/-- `LDG_RAW_WRITE` (R483, R485): one page is read, merged and written; locked FACTORY pages are not. -/
def ldgRawWrite (d : Desc) (given : List Byte) (s : State) : State :=
  let buf := bufferOf s d 0x1117 given
  let a := d.p 16 4
  command ldgRawWriteInfo d (bufOk buf (d.p 20 1) 1 64 && decide (a < 0x40000)) (fun _ s =>
    if s.ldg.locked ∧ a / 64 < 128 then finish d St.ldgLocked 0 s
    else ldgEnqueue [(a / 64, 0, a % 64, buf, .raw)] (running d (.ledger s.ldg.nextJob St.ok) 0 s)) s
def execLdgRawWrite (d : Desc) (buf : List Byte) (s : State) : Host.Outcome State Fault Refusal := .next (ldgRawWrite d buf s)
end Sys2Proof.Machine
end

