-- ==== Sys2Proof/Machine/Pci.lean ====
section
/-! DEFINITION. The configuration space of the one PCI Express function (R33): its identity and capabilities, what software may
write in it, and its error status. R33 names the values; PCI Express gives the places of the fields, and the places of the
capabilities are the model's (log entry 142). -/
namespace Sys2Proof.Machine
def onCfg (s : State) (f : CfgSpace → CfgSpace) : State := { s with host := { s.host with cfg := f s.host.cfg } }
/-- Two registers of 16 bits in one dword. -/
def halves (lo hi : BitVec 16) : Word := hi ++ lo
/-- One dword of the configuration space, by its number. Everything not listed reads zero, BAR4, BAR5 and the expansion ROM
among it (R33). -/
def cfgDword (c : CfgSpace) (i : Nat) : Word :=
  match i with
  | 0x00 => 0x81601E63
  | 0x01 => halves c.command (c.status ||| 0x0010)
  | 0x02 => 0x058000B1
  | 0x03 => c.cacheLine.zeroExtend 32
  -- BAR0/1 and BAR2/3: 64-bit memory, prefetchable clear; 64 MiB and 64 GiB
  | 0x04 => (c.bar0.extractLsb' 0 32 &&& 0xFC000000) ||| 0x4
  | 0x05 => c.bar0.extractLsb' 32 32
  | 0x06 => 0x4
  | 0x07 => c.bar2.extractLsb' 32 32 &&& 0xFFFFFFF0
  | 0x0D => 0x40
  | 0x0F => c.intLine.zeroExtend 32
  -- PCI Express capability: an endpoint; 512 B payload, 10-bit tags as requester, Gen4 x8
  | 0x10 => 0x00028010
  | 0x11 => 0x00008022
  | 0x12 => halves c.devCtl c.devSta
  | 0x13 => 0x00000084
  | 0x14 => halves c.lnkCtl 0
  | 0x19 => 0x00020000
  | 0x1A => halves c.devCtl2 0
  | 0x1B => 0x0000001E
  -- MSI-X capability: 64 vectors, table at EVT + 0x0000, pending bits at EVT + 0x1000 of BAR0 (R55)
  | 0x20 => halves 0x0011 (0x003F ||| (if c.msixEn then 0x8000 else 0) ||| (if c.msixMask then 0x4000 else 0))
  | 0x21 => 0x00030000
  | 0x22 => 0x00031000
  -- Advanced Error Reporting
  | 0x40 => 0x00020001
  | 0x41 => c.ueSta
  | 0x42 => c.ueMask
  | 0x43 => c.ueSev
  | 0x44 => c.ceSta
  | 0x45 => c.ceMask
  | 0x46 => c.aerCtl
  | _ => 0
/-- Read Completion Boundary and Max Payload Size in force, in bytes: a part of 512 B takes no more (R33, R330). -/
def readBoundary (s : State) : Nat := if s.host.cfg.lnkCtl.getLsbD 3 then 128 else 64
def maxPayload (s : State) : Nat := 128 * 2 ^ min 2 (bits s.host.cfg.devCtl 5 3)
/-- The bits that a write with these byte enables reaches. -/
def enableMask (be : BitVec 4) : Word :=
  BitVec.ofNat 32 (((List.range 4).map fun i => if be.getLsbD i then 0xFF <<< (8 * i) else 0).sum)
/-- `old` with the writable bits that the enables reach replaced. -/
def mergeBits {w : Nat} (old new en writable : BitVec w) : BitVec w := (old &&& ~~~(en &&& writable)) ||| (new &&& en &&& writable)
/-- A configuration write of one dword; bits that R33 and PCI Express make constants keep their value. Bus Master Enable and Memory Space
Enable of Command are written and read, and gate nothing: neither mailbox DMA, nor messages, nor accesses to the BARs (DESIGN CHOICE, log
entry 188: the manual does not say what they do). -/
def cfgPut (c : CfgSpace) (i : Nat) (be : BitVec 4) (v : Word) : CfgSpace :=
  let en := enableMask be
  let lo (x : Word) : BitVec 16 := x.extractLsb' 0 16
  let hi (x : Word) : BitVec 16 := x.extractLsb' 16 16
  match i with
  | 0x01 => { c with command := mergeBits c.command (lo v) (lo en) 0x0546, status := c.status &&& ~~~(hi v &&& hi en &&& 0xF900) }
  | 0x03 => { c with cacheLine := mergeBits c.cacheLine (v.extractLsb' 0 8) (en.extractLsb' 0 8) 0xFF }
  | 0x04 => { c with bar0 := c.bar0.extractLsb' 32 32 ++ mergeBits (c.bar0.extractLsb' 0 32) v en 0xFC000000 }
  | 0x05 => { c with bar0 := mergeBits (c.bar0.extractLsb' 32 32) v en 0xFFFFFFFF ++ c.bar0.extractLsb' 0 32 }
  | 0x07 => { c with bar2 := mergeBits (c.bar2.extractLsb' 32 32) v en 0xFFFFFFF0 ++ c.bar2.extractLsb' 0 32 }
  | 0x0F => { c with intLine := mergeBits c.intLine (v.extractLsb' 0 8) (en.extractLsb' 0 8) 0xFF }
  -- Relaxed Ordering is never used (R34): its enable is a constant 0
  | 0x12 => { c with devCtl := mergeBits c.devCtl (lo v) (lo en) 0x79EF, devSta := c.devSta &&& ~~~(hi v &&& hi en &&& 0x000F) }
  | 0x14 => { c with lnkCtl := mergeBits c.lnkCtl (lo v) (lo en) 0x0FCB }
  | 0x1A => { c with devCtl2 := mergeBits c.devCtl2 (lo v) (lo en) 0x101F }
  | 0x20 =>
    let k : Word := (if c.msixEn then 0x80000000 else 0) ||| (if c.msixMask then 0x40000000 else 0)
    let k' := mergeBits k v en 0xC0000000
    { c with msixEn := k'.getLsbD 31, msixMask := k'.getLsbD 30 }
  | 0x41 => { c with ueSta := c.ueSta &&& ~~~(v &&& en) }
  | 0x42 => { c with ueMask := mergeBits c.ueMask v en 0x03FFF030 }
  | 0x43 => { c with ueSev := mergeBits c.ueSev v en 0x03FFF030 }
  | 0x44 => { c with ceSta := c.ceSta &&& ~~~(v &&& en) }
  | 0x45 => { c with ceMask := mergeBits c.ceMask v en 0x0000F1C1 }
  | 0x46 => { c with aerCtl := mergeBits c.aerCtl v en 0x00000140 }
  | _ => c
/-- A configuration write; vectors that it lets through send what they hold pending (R55). -/
def cfgWrite (r : CfgReq) (be : BitVec 4) (v : Word) (s : State) : State := (onCfg s fun c => cfgPut c r.dword.toNat be v).msixFlush
/-- An error of the uncorrectable kind, by its AER bit, with the Status and Device Status bits that go with it (R33). -/
def aerNote (bit : Nat) (status : BitVec 16) (devSta : BitVec 16) (s : State) : State :=
  onCfg s fun c => { c with ueSta := c.ueSta ||| BitVec.ofNat 32 (2 ^ bit), status := c.status ||| status, devSta := c.devSta ||| devSta }
/-- An Advisory Non-Fatal Error (R328): logged with the correctable errors as well, and counted as one of them (R334). -/
def advisory (s : State) : State :=
  bucketAdd 31 (onCfg s fun c => { c with ceSta := c.ceSta ||| 0x2000, devSta := c.devSta ||| 1 })
/-- A poisoned TLP was received (R33, R328). -/
def gotPoison (s : State) : State := advisory (aerNote 12 0x8000 0 s)
/-- A request was answered with Unsupported Request. -/
def gaveUr (req : BitVec 16) (s : State) : State := (advisory (aerNote 20 0 0x0008 s)).emit (.cplUr req)
/-- A request was answered with Completer Abort. -/
def gaveCa (req : BitVec 16) (s : State) : State := (advisory (aerNote 15 0x0800 0 s)).emit (.cplCa req)
end Sys2Proof.Machine
end

