-- ==== Sys2Proof/Machine/Tap.lean ====
section
/-! DEFINITION. Boundary scan (R535): the TAP of IEEE 1149.1, its IDCODE, its reset by `TRST#`, the supply it needs, and the pins
that it overrides. No row of the opcode table drives the JTAG pins, so no command reaches these operations: they say what
`State.tap` does when the test equipment clocks it (log entry 129). -/
namespace Sys2Proof.Machine
/-- IDCODE (R535): version 1, part 0x8160, manufacturer field 0x0C7. -/
def tapIdcode : Word := 0x181600C7
/-- Boundary scan works once `VDD_IO18`, rail 2, is in range (R441, R535). -/
def tapPowered (s : State) : Bool := s.pwr.rail[2].inWin
/-- Controller transitions of IEEE 1149.1 on a `TCK` edge with this `TMS`. -/
def TapSt.next (st : TapSt) (tms : Bool) : TapSt :=
  match st, tms with
  | .reset, true => .reset   | .reset, false => .idle
  | .idle, true => .selDr    | .idle, false => .idle
  | .selDr, true => .selIr   | .selDr, false => .capDr
  | .capDr, true => .ex1Dr   | .capDr, false => .shDr
  | .shDr, true => .ex1Dr    | .shDr, false => .shDr
  | .ex1Dr, true => .updDr   | .ex1Dr, false => .pauDr
  | .pauDr, true => .ex2Dr   | .pauDr, false => .pauDr
  | .ex2Dr, true => .updDr   | .ex2Dr, false => .shDr
  | .updDr, true => .selDr   | .updDr, false => .idle
  | .selIr, true => .reset   | .selIr, false => .capIr
  | .capIr, true => .ex1Ir   | .capIr, false => .shIr
  | .shIr, true => .ex1Ir    | .shIr, false => .shIr
  | .ex1Ir, true => .updIr   | .ex1Ir, false => .pauIr
  | .pauIr, true => .ex2Ir   | .pauIr, false => .pauIr
  | .ex2Ir, true => .updIr   | .ex2Ir, false => .shIr
  | .updIr, true => .selDr   | .updIr, false => .idle
/-- The instruction that the bits shifted in spell: all ones, and every code not used, is BYPASS (IEEE 1149.1). -/
def tapInstr (bits : List Bool) : TapIr :=
  if bits.all id then .bypass
  else match Config.tapDecode bits with | 0 => .idcode | 1 => .sample | 2 => .preload | 3 => .extest | _ => .bypass
/-- Level of a boundary cell's pin as the block drives or receives it. -/
abbrev Pins := Nat → Bool
/-- What Capture-DR loads: the identity, one 0 for BYPASS, or the levels of the boundary cells. -/
def tapCapture (pins : Pins) (ir : TapIr) : List Bool :=
  match ir with
  | .idcode => (List.range 32).map tapIdcode.getLsbD
  | .bypass => [false]
  | _ => (List.range Config.scanCells).map pins
/-- One `TCK` edge: the bit shifted in, and the bit that `TDO` shows. -/
def Tap.clock (pins : Pins) (tms tdi : Bool) (t : Tap) : Tap × Bool :=
  let t1 : Tap × Bool := match t.st with
    | .reset => ({ t with ir := .idcode }, false)
    | .capDr => ({ t with dr := tapCapture pins t.ir }, false)
    | .shDr => ({ t with dr := t.dr.drop 1 ++ [tdi] }, t.dr.headD false)
    | .updDr =>
      (match t.ir with
       | .preload | .extest => { t with cells := (List.range t.dr.length).foldl (fun m i => mset false m i (t.dr.getD i false)) [] }
       | _ => t, false)
    | .capIr => ({ t with irBits := [] }, false)
    | .shIr => ({ t with irBits := tdi :: t.irBits }, false)
    | .updIr => ({ t with ir := tapInstr t.irBits }, false)
    | _ => (t, false)
  ({ t1.1 with st := t.st.next tms }, t1.2)
/-- `TRST#` low holds the controller in Test-Logic-Reset. -/
def tapTrst (released : Bool) (s : State) : State :=
  { s with tap := if released then { s.tap with trst := true } else Tap.reset }
/-- One `TCK` edge of the block's TAP: nothing moves while `TRST#` is low or `VDD_IO18` is out of range. -/
def tapEdge (pins : Pins) (tms tdi : Bool) (s : State) : State × Bool :=
  if s.tap.trst && tapPowered s then ({ s with tap := (s.tap.clock pins tms tdi).1 }, (s.tap.clock pins tms tdi).2) else (s, false)
/-- Level of a pin in the scan chain: EXTEST overrides what the block drives (R535). -/
def pinLevel (s : State) (cell : Nat) (driven : Bool) : Bool :=
  if s.tap.trst && tapPowered s && decide (s.tap.ir = .extest) then mget false s.tap.cells cell else driven
end Sys2Proof.Machine
end

