-- ==== Sys2Proof/Machine/Host.lean ====
section
/-! DEFINITION. The host interface (chapter 02): mailbox set-up, rings and doorbells, completions, authority, the MSI-X table,
the service UART's line errors, SMBus telemetry and configuration requests. -/
namespace Sys2Proof.Machine
/-- BAR0 writes are ignored while `GLB_FIL` is zero (R504). -/
def deaf (s : State) : Bool := s.glb.fil == 0
/-- A request of the host needs a demand fault that has no place among the 256 in flight (R214). -/
def faultsFull (s : State) : Bool :=
  let needs (l : Nat) (full : Bool) : Bool :=
    (s.slu.unbuilt.contains (segOf l) || (!full && decide ((s.eff l).1 = .unrestored))) && !(s.slu.faults.any fun f => f.line = l)
  let lines (a n : Nat) : List Nat := if n = 0 then [] else (List.range ((a + n - 1) / 256 + 1 - a / 256)).map (a / 256 + ·)
  decide (s.slu.faults.length ≥ 256) &&
    ((s.slu.reads.any fun r => (match r.who with | .host _ => true | _ => false) && (lines r.addr r.len).any fun l => needs l false)
      || s.ret.writes.any fun p => p.fp = 0 && needs p.line (p.bytes.length == 256 && p.bytes.all (·.isSome)))
/-- A request of the host waits for a DRAM channel that is not RUNNING (R313, R315). -/
def channelOut (s : State) : Bool :=
  let out (l : Nat) : Bool := !dchRunning s (channelOf s l) && !dchDead s (channelOf s l)
  let lines (a n : Nat) : List Nat := if n = 0 then [] else (List.range ((a + n - 1) / 256 + 1 - a / 256)).map (a / 256 + ·)
  (s.slu.reads.any fun r => (match r.who with | .host _ => true | _ => false) && (lines r.addr r.len).any out)
    || s.ret.writes.any fun p => p.fp = 0 && out p.line
/-- The host stream is held: by a write that is not admitted (R165), while a close is deferred (R119), by a request that waits for a
fault to be started (R214), and by one that waits for its DRAM channel (R313). -/
def streamHeld (s : State) : Bool := s.host.heldHost || s.ret.ctx.any closeHolds || faultsFull s || channelOut s
/-- The Confluence link to slot `j` takes no more of the host's accesses now: it is TRAINING, or its 64 frames are unacknowledged
(R179, R422, R431). -/
def linkFull (s : State) (j : Nat) : Bool :=
  let p := s.conf.port[confTo s j]
  decide (p.link = .training) || (decide (p.link = .up) && (decide (p.backlog ≠ []) || decide (p.window.length ≥ 64)))
/-- An access to another chip's slot waits for the link to it. -/
def tlpWaits (s : State) (t : HostTlp) : Bool :=
  match t with
  | .write off _ _ _ | .read off _ _ => let j := windowAddr s off / 2 ^ 38; decide (j ≠ s.slot) && linkFull s j
  | _ => false
/-- A TLP that no one takes: a read ends with Completer Abort, a write is dropped (R191). -/
def dropTlp (t : HostTlp) (s : State) : State :=
  match t with
  | .read _ req _ => gaveCa req s
  | .regRead _ => s.emit .regCa
  | _ => s
/-- What arrives on the host stream takes effect in order: behind a hold it waits (R102). From T0 to the READY of a resume
nothing is taken (R191). -/
def inStream (t : HostTlp) (f : State → State) (s : State) : State :=
  if s.glb.state = 3 then dropTlp t s
  else if streamHeld s ∨ s.host.stream ≠ [] ∨ tlpWaits s t then { s with host := { s.host with stream := s.host.stream ++ [t] } } else f s
def onMq (s : State) (q : Fin 4) (f : Mailbox → Mailbox) : State := { s with host := { s.host with mq := vmod s.host.mq q f } }
/-! ## Bringing up a mailbox (R39, R40) -/
/-- The reason a queue description is refused, if any (R40): `b` holds 32 bytes. -/
def queueBad (b : List Byte) : Option Nat :=
  let sq := field b 24 1
  let cq := field b 25 1
  let eq := field b 26 1
  let lg (n : Nat) : Bool := decide (4 ≤ n) && decide (n ≤ 10)
  if field b 0 8 % 4096 ≠ 0 ∨ field b 8 8 % 4096 ≠ 0 ∨ field b 16 8 % 4096 ≠ 0 then some 2
  else if !(lg sq && lg cq && lg eq) || decide (2 ^ cq < min (2 ^ sq) 256) then some 3
  else if field b 27 1 > 63 ∨ field b 28 1 > 63 then some 4
  else if !zeros b 29 3 then some 5
  else none
/-- A mailbox as a queue description creates it: empty rings, both armed, every event enabled (R43, R53, R54). -/
def newMailbox (b : List Byte) : Mailbox :=
  { Mailbox.reset with
    state := .active, sqBase := BitVec.ofNat 64 (field b 0 8), cqBase := BitVec.ofNat 64 (field b 8 8),
    eqBase := BitVec.ofNat 64 (field b 16 8), sqLog2 := field b 24 1, cqLog2 := field b 25 1, eqLog2 := field b 26 1,
    cqVec := field b 27 1, eqVec := field b 28 1 }
/-- Make a mailbox ACTIVE; the events held since reset go to the first one (R505). -/
def activate (q : Fin 4) (b : List Byte) (s : State) : State :=
  let old := s.host.mq[q]
  let left := (old.cmds.filter fun c => !c.phase.isFinished).map fun c => { c with orphan := true }
  let s1 := onMq s q fun _ =>
    { newMailbox b with dbRange := old.dbRange, dmaFail := old.dmaFail, eqOver := old.eqOver, eqLost := old.eqLost, eqGap := s.boot.heldLost, cmds := left }
  if s1.boot.anyActive then onMq s1 q fun m => { m with eqGap := false }
  else
    let evs := s1.boot.held
    evs.foldl (fun s e => s.pushEvent q e) { s1 with boot := { s1.boot with held := [], heldLost := false, anyActive := true } }
/-- `MBX_BOOT_ADDR_LO` (R39, R504). -/
def mbxBootAddrLo (v : Word) (s : State) : State :=
  if deaf s then s else
  { s with host := { s.host with bootAddr := BitVec.ofNat 64 (s.host.bootAddr.toNat / 2 ^ 32 * 2 ^ 32 + v.toNat) } }
def execMbxBootAddrLo (v : Word) (s : State) : Host.Outcome State Fault Refusal :=
  .next (inStream (.reg 0x10800 v) (mbxBootAddrLo v) s)
def setupFails (r : Nat) (s : State) : State := { s with host := { s.host with bootStat := 3, bootReason := r, setupBusy := false } }
/-- `MBX_BOOT_ADDR_HI` (R39): the write starts setup, which is accepted only while MQ0 is ABSENT or HALTED. -/
def mbxBootAddrHi (v : Word) (s : State) : State :=
  if deaf s then s else
  let a := s.host.bootAddr.toNat % 2 ^ 32 + v.toNat * 2 ^ 32
  let s1 := { s with host := { s.host with bootAddr := BitVec.ofNat 64 a } }
  if s.host.mq[0].state = .active ∨ s.host.setupBusy then
    (if s.host.setupBusy then s1 else setupFails 1 s1)
  else if a % 64 ≠ 0 then setupFails 2 s1
  else { s1 with host := { s1.host with bootStat := 1, bootReason := 0, setupBusy := true } }
def execMbxBootAddrHi (v : Word) (s : State) : Host.Outcome State Fault Refusal :=
  .next (inStream (.reg 0x10804 v) (mbxBootAddrHi v) s)
/-- `MBX_SETUP_READ_DONE` (R39, R40). -/
def mbxSetupReadDone (block : Option (BitVec 512)) (s : State) : State :=
  if !s.host.setupBusy then s else
  match block with
  | none => setupFails 6 s
  | some v =>
    let b := leBytes 64 v.toNat
    match queueBad (b.take 32) with
    | some r => setupFails r s
    | none =>
      if !zeros b 32 32 then setupFails 5 s
      else activate 0 b { s with host := { s.host with bootStat := 2, bootReason := 0, setupBusy := false } }
def execMbxSetupReadDone (block : Option (BitVec 512)) (s : State) : Host.Outcome State Fault Refusal := .next (mbxSetupReadDone block s)
/-! ## Doorbells (R41–R44, R54) -/
def dbBad (q : Fin 4) (s : State) : State := onMq s q fun m => { m with dbRange := true }
/-- `MQ_SQ_TAIL`. A mailbox that is ABSENT has no ring, and its doorbells have no effect (log entry 144). -/
def mqSqTail (q : Fin 4) (v : Word) (s : State) : State :=
  let i := bits v 0 10
  let m := s.host.mq[q]
  if deaf s ∨ m.state = .absent then s
  else if i ≥ 2 ^ m.sqLog2 then dbBad q s
  else onMq s q fun m => { m with tail := i }
def execMqSqTail (mq : Fin 4) (v : Word) (s : State) : Host.Outcome State Fault Refusal :=
  .next (inStream (.reg (0x10000 + 0x100 * mq.val + 0) v) (mqSqTail mq v) s)
/-- Entries that a new head passes, of `used` entries from `old` on (R42). DESIGN CHOICE (log entry 145): a head equal to the
old one passes none, though with every slot used it could mean all of them. -/
def passed (lg old new used : Nat) : Nat := min used ((new + 2 ^ lg - old) % 2 ^ lg)
/-- `MQ_CQ_HEAD`: slots are freed and the ring re-armed; where entries remain it sends a message at once. DESIGN CHOICE (log
entry 146): that message disarms the ring, as any message does. -/
def mqCqHead (q : Fin 4) (v : Word) (s : State) : State :=
  let i := bits v 0 10
  let m := s.host.mq[q]
  if deaf s ∨ m.state = .absent then s
  else if i ≥ 2 ^ m.cqLog2 then dbBad q s
  else
    let u := m.cqUsed - passed m.cqLog2 m.cqHead i m.cqUsed
    let s1 := onMq s q fun m => { m with cqHead := i, cqUsed := u, cqArmed := decide (u = 0) }
    if u = 0 then s1 else s1.msix m.cqVec
def execMqCqHead (mq : Fin 4) (v : Word) (s : State) : Host.Outcome State Fault Refusal :=
  .next (inStream (.reg (0x10000 + 0x100 * mq.val + 4) v) (mqCqHead mq v) s)
/-- `MQ_EQ_HEAD`, the same for the event ring. -/
def mqEqHead (q : Fin 4) (v : Word) (s : State) : State :=
  let i := bits v 0 10
  let m := s.host.mq[q]
  if deaf s ∨ m.state = .absent then s
  else if i ≥ 2 ^ m.eqLog2 then dbBad q s
  else
    let u := m.eqUsed - passed m.eqLog2 m.eqHead i m.eqUsed
    let s1 := onMq s q fun m => { m with eqHead := i, eqUsed := u, eqArmed := decide (u = 0) }
    if u = 0 then s1 else s1.msix m.eqVec
def execMqEqHead (mq : Fin 4) (v : Word) (s : State) : Host.Outcome State Fault Refusal :=
  .next (inStream (.reg (0x10000 + 0x100 * mq.val + 8) v) (mqEqHead mq v) s)
/-- `MSIX_TABLE_WRITE` (R55): dword `off` of the table; a vector unmasked with its pending bit set sends its message. -/
def onMsix (s : State) (f : Msix → Msix) : State := { s with host := { s.host with msix := f s.host.msix } }
def msixTableWrite (off : BitVec 10) (v : Word) (s : State) : State :=
  if deaf s then s else
  let i := off.toNat / 4
  let w : Word := if i % 4 = 3 then v &&& 1 else if i % 4 = 0 then v &&& 0xFFFFFFFC else v
  (onMsix s fun m => { m with table := vmod m.table (Fin.ofNat 256 i) fun _ => w }).msixFlush
def execMsixTableWrite (off : BitVec 10) (v : Word) (s : State) : Host.Outcome State Fault Refusal :=
  .next (inStream (.reg (0x30000 + off.toNat) v) (msixTableWrite off v) s)
/-! ## Halting (R45) -/
/-- Narrowings and window descriptors that wait for a completion of a port take effect: their completions are written, or
never will be (R66, R100). -/
def narrowNow (sel : Fin 12 → BitVec 16 → Bool) (s : State) : State :=
  let (go, stay) := s.host.narrow.partition fun n => sel n.1 n.2.1
  let au := go.foldl (fun (v : Vector PortAuth 12) n => vmod v n.2.2.1 fun a => { a with live := a.live &&& ~~~n.2.2.2 }) s.host.auth
  let (win, later) := s.host.winDue.partition fun n => sel n.1 n.2.1
  let ws := win.foldl (fun (v : Vector Window 64) n => v.set n.2.2.1 n.2.2.2) s.ret.windows
  { s with host := { s.host with narrow := stay, auth := au, winDue := later }, ret := { s.ret with windows := ws } }
/-- A mailbox becomes HALTED: it fetches nothing more, and completions not written are discarded. -/
def haltMq (q : Fin 4) (s : State) : State :=
  narrowNow (fun p _ => p.val = q.val)
    (onMq s q fun m => { m with state := .halted, cmds := m.cmds.filter fun c => !c.phase.isFinished })
/-- `MQ_DMA_FAIL` (R45): the event goes to every other active mailbox. -/
def mqDmaFail (q : Fin 4) (s : State) : State :=
  if s.host.mq[q].state ≠ .active then s
  else
    let s1 := onMq (haltMq q s) q fun m => { m with dmaFail := true }
    s1.raise 0x0201 q [(16, q)]
def execMqDmaFail (mq : Fin 4) (s : State) : Host.Outcome State Fault Refusal := .next (mqDmaFail mq s)
/-! ## Completions (R42, R48, R54, R71) -/
/-- What the writing of a completion sets going: a narrowing (R66), the service rate (R70), a save 1 ms later (R218, R466,
R510), a core reset (R508). -/
def afterCompletion (p : Fin 12) (c : Cmd) (s : State) : State :=
  let s1 := narrowNow (fun q t => q = p && t = c.tag) s
  let ok := decide (c.status = 0)
  if c.opcode = 0x0130 then
    (match s1.host.svc.baudNext with
     | some r => { s1 with host := { s1.host with svc := { s1.host.svc with baud := r, baudNext := none } } }
     | none => s1)
  else if ok ∧ (c.opcode = 0x0613 ∨ c.opcode = 0x0614 ∨ c.opcode = 0x0120 ∨ c.opcode = 0x0F17) then
    (match s1.boot.saveDue with
     | some k => { s1 with boot := { s1.boot with saveDue := none }, slu := { s1.slu with pending := s1.slu.pending.or (some k) } }
     | none => s1)
  else s1
/-- `COMPLETION_WRITE`: a finished command's entry is written into a free completion slot, or sent as a frame. -/
def completionWrite (mb : Fin 5) (tag : BitVec 16) (s : State) : State :=
  if h : mb.val < 4 then
    let q : Fin 4 := ⟨mb.val, h⟩
    let m := s.host.mq[q]
    match m.cmds.find? fun c => c.tag = tag ∧ c.phase.isFinished with
    | none => s
    | some c =>
      if m.state ≠ .active ∨ m.cqUsed ≥ 2 ^ m.cqLog2 then s
      else
        let t := (m.cqTail + 1) % 2 ^ m.cqLog2
        let s1 := onMq s q fun m =>
          { m with cmds := dropCmd tag m.cmds, cqTail := t, cqUsed := m.cqUsed + 1, cqPhase := if t = 0 then !m.cqPhase else m.cqPhase, cqArmed := false }
        let s2 := s1.emit (.dma (m.cqBase + BitVec.ofNat 64 (16 * m.cqTail)) (completionBytes c c.sqi m.cqPhase) 0)
        let s3 := if m.cqArmed then s2.msix m.cqVec else s2
        afterCompletion ⟨mb.val, by omega⟩ c s3
  else
    -- PHASE is 0: a frame stands in no ring (log entry 147)
    match s.host.svc.cmds.find? fun c => c.tag = tag ∧ c.phase.isFinished with
    | none => s
    | some c =>
      let s1 := onCmds s 5 (dropCmd tag)
      afterCompletion 5 c (s1.emit (.svc (svcFrame 0x02 (completionBytes c 0 false ++ c.data))))
def execCompletionWrite (mb : Fin 5) (tag : BitVec 16) (s : State) : Host.Outcome State Fault Refusal := .next (completionWrite mb tag s)
/-! ## GLB and MBX commands -/
def glbIdentifyInfo : CmdInfo := { op := 0x0101, auth := auObserve }
def glbIdentify (d : Desc) (s : State) : State :=
  command glbIdentifyInfo d true (fun _ s =>
    finish d St.ok (pack [(0, 0x81601E63), (32, 0xB1), (40, s.glb.fil.toNat % 2 ^ 16), (56, s.glb.chipid.toNat)]) s) s
def execGlbIdentify (d : Desc) (s : State) : Host.Outcome State Fault Refusal := .next (glbIdentify d s)
def authNarrowInfo : CmdInfo := { op := 0x0110, auth := auConfigure, used := [(16, 16)] }
/-- `AUTH_NARROW` (R66): removes and never adds; in force from the writing of its completion. -/
def authNarrow (d : Desc) (s : State) : State :=
  command authNarrowInfo d (decide (d.p 16 1 ≤ 11)) (fun _ s =>
    let p := Fin.ofNat 12 (d.p 16 1)
    let m := BitVec.ofNat 6 (d.p 17 1)
    let s1 := { s with host := { s.host with narrow := s.host.narrow ++ [(d.port, d.tag, p, m)] } }
    let s2 := finish d St.ok ((s.liveAuth p &&& ~~~m).toNat) s1
    if portAlive s d.port then s2 else narrowNow (fun q t => q = d.port && t = d.tag) s2) s
def execAuthNarrow (d : Desc) (s : State) : Host.Outcome State Fault Refusal := .next (authNarrow d s)
def authPolicyWriteInfo : CmdInfo := { op := 0x0111, auth := auMaintain, used := [(16, 88)] }
/-- `AUTH_POLICY_WRITE` (R65, R332): live at the next reset. -/
def authPolicyWrite (d : Desc) (s : State) : State :=
  command authPolicyWriteInfo d true (fun _ s =>
    storing d 0x0111 (triple 5 0x02 0 ((paramBytes d).take 11 ++ [0]) .policy) 0 s) s
def execAuthPolicyWrite (d : Desc) (s : State) : Host.Outcome State Fault Refusal := .next (authPolicyWrite d s)
def mbxQueueCreateInfo : CmdInfo := { op := 0x0201, auth := auConfigure, used := [(16, 256)], sel := .otherMailbox, enc := fun d => d.p 45 3 = 0 }
/-- `MBX_QUEUE_CREATE` (R40, R67). -/
def mbxQueueCreate (d : Desc) (s : State) : State :=
  let b := (paramBytes d).take 32
  command mbxQueueCreateInfo d (queueBad b).isNone (fun ts s =>
    let q := Fin.ofNat 4 (ts.headD 0)
    if s.host.mq[q].state ≠ .absent then finish d St.unitState 0 s
    else finish d St.ok 0 (activate q b s)) s
def execMbxQueueCreate (d : Desc) (s : State) : Host.Outcome State Fault Refusal := .next (mbxQueueCreate d s)
def mbxEventMaskInfo : CmdInfo := { op := 0x0203, auth := auObserve, used := [(16, 32)], enc := fun d => d.inst = 0 }
def maskBits : BitVec 32 := 0x7FFFE
/-- `MBX_EVENT_MASK` (R53, R67, R72): the mask of the arrival mailbox, one bit per class. DESIGN CHOICE (log entry 148): bits
that stand for no class are dropped, so the mask of all ones is held and returned as 0x7FFFE. -/
def mbxEventMask (d : Desc) (s : State) : State :=
  command mbxEventMaskInfo d true (fun _ s =>
    let m := BitVec.ofNat 32 (d.p 16 4) &&& maskBits
    if h : d.port.val < 4 then
      let q : Fin 4 := ⟨d.port.val, h⟩
      finish d St.ok s.host.mq[q].mask.toNat (onMq s q fun x => { x with mask := m })
    else if d.port.val = 5 then
      finish d St.ok s.host.svc.mask.toNat { s with host := { s.host with svc := { s.host.svc with mask := m } } }
    else finish d St.badTarget 0 s) s
def execMbxEventMask (d : Desc) (s : State) : Host.Outcome State Fault Refusal := .next (mbxEventMask d s)
def svcBaudInfo : CmdInfo := { op := 0x0130, auth := auMaintain, used := [(16, 8)] }
/-- `SVC_BAUD` (R70): the rate changes once the completion has been sent. -/
def svcBaud (d : Desc) (s : State) : State :=
  command svcBaudInfo d (decide (d.p 16 1 ≤ 2)) (fun _ s =>
    finish d St.ok 0 { s with host := { s.host with svc := { s.host.svc with baudNext := some (d.p 16 1) } } }) s
def execSvcBaud (d : Desc) (s : State) : Host.Outcome State Fault Refusal := .next (svcBaud d s)
/-! ## Service UART line errors (R72) -/
/-- Something answers on the service UART: firmware, the boot ROM, or the always-on responder (R447). -/
def svcAlive (s : State) : Bool := s.boot.coreOut || latchedOff s
def svcError (reason : Nat) (s : State) : State := if svcAlive s then s.emit (.svc (svcFrame 0x07 [BitVec.ofNat 8 reason])) else s
/-- `SVC_FRAME_TIMEOUT`: a gap of more than 10 ms within a frame. -/
def execSvcFrameTimeout (s : State) : Host.Outcome State Fault Refusal := .next (svcError 1 s)
/-- `SVC_SYNC_ERROR`: one error frame for a run of discarded bytes. -/
def execSvcSyncError (s : State) : Host.Outcome State Fault Refusal := .next (svcError 7 s)
/-- `SVC_LENGTH_ERROR`: a LENGTH over 4,160, rejected as soon as it arrives. -/
def svcLengthError (len : BitVec 16) (s : State) : State := if len.toNat > 4160 then svcError 2 s else s
def execSvcLengthError (len : BitVec 16) (s : State) : Host.Outcome State Fault Refusal := .next (svcLengthError len s)
/-- `SVC_EN_CHANGE` (R64). -/
def svcEnChange (level : Bool) (s : State) : State := { s with host := { s.host with svc := { s.host.svc with en := level } } }
def execSvcEnChange (level : Bool) (s : State) : Host.Outcome State Fault Refusal := .next (svcEnChange level s)
/-! ## SMBus telemetry (R73, R74) -/
/-- The error summary word: classes 1 to 15, and one bit for classes 16 to 18. -/
def summaryWord (v : BitVec 19) : BitVec 16 :=
  BitVec.ofNat 16 (v.toNat / 2 % 2 ^ 15 + (if v.toNat / 2 ^ 16 = 0 then 0 else 2 ^ 15))
def sat16 (n : Nat) : BitVec 16 := BitVec.ofNat 16 (sat 16 n)
/-- The words as refreshed: junction temperature and chip power are measured, the rest follows the state. DESIGN CHOICE (log
entry 149): fill saturates at 1,023, and word 6 reads 0 where no capacitance was ever measured. -/
def teleWords (junction power : BitVec 16) (s : State) : Vector (BitVec 16) 10 :=
  #v[0x8160, junction, power, sat16 (fillPermille s.count s.ret.weir.millpond), sat16 (s.ret.weir.millpond / 4096), sat16 s.pwr.vbank,
     sat16 (s.pwr.cap.getD 0), BitVec.ofNat 16 s.glb.state.toNat, summaryWord s.err.summary, s.pwr.fault]
/-- `TELEMETRY_REFRESH`. -/
def telemetryRefresh (junction power : BitVec 16) (s : State) : State :=
  { s with host := { s.host with tele := { s.host.tele with words := teleWords junction power s } } }
def execTelemetryRefresh (junction power : BitVec 16) (s : State) : Host.Outcome State Fault Refusal := .next (telemetryRefresh junction power s)
/-- Rail 7 carries `VDD_IO33` (R441). -/
def io33Good (s : State) : Bool := s.pwr.rail[7].inWin
/-- The word a code of the table reads as: 0xFFFF until READY has been reached, but for the device ID and the state (R73). -/
def smbusWord (code : Byte) (s : State) : Option (BitVec 16) :=
  if h : code.toNat < 10 then
    (if code.toNat = 0 then some 0x8160
     else if !s.host.tele.ready ∧ code.toNat ≠ 7 then some 0xFFFF
     else some s.host.tele.words[code.toNat])
  else none
def crc8Bit (c : Byte) : Byte := if c.getLsbD 7 then (c <<< 1) ^^^ 0x07 else c <<< 1
def crc8Byte (c b : Byte) : Byte :=
  let x := c ^^^ b
  crc8Bit (crc8Bit (crc8Bit (crc8Bit (crc8Bit (crc8Bit (crc8Bit (crc8Bit x)))))))
/-- PEC of SMBus 2.0: a CRC-8 over every byte of the transaction, the two addresses with their direction bits among them. -/
def smbPec (addr : BitVec 7) (code : Byte) (w : BitVec 16) : Byte :=
  let a : Byte := addr.zeroExtend 8 <<< 1
  ([a, code, a ||| 1] ++ leBytes 2 w.toNat).foldl crc8Byte 0
/-- The 7-bit address the target answers at (R73). -/
def smbAddr (s : State) : BitVec 7 := 0x48 + s.glb.chipid.zeroExtend 7
/-- `SMBUS_READ_WORD` (R73): the address is not acknowledged before core reset release or without `VDD_IO33`; the
command byte is not, where its code is outside the table or the protocol is not Read Word (DESIGN CHOICE, log entry 178: the manual does not
say at which byte another protocol is). -/
def smbusReadWord (x : SmbXfer) (s : State) : State :=
  if !s.boot.coreOut || !io33Good s || decide (x.addr ≠ smbAddr s) then s.emit (.smb false false [])
  else if !x.word then s.emit (.smb true false [])
  else match smbusWord x.code s with
    | none => s.emit (.smb true false [])
    | some w => s.emit (.smb true true (leBytes 2 w.toNat ++ if x.pec then [smbPec x.addr x.code w] else []))
def execSmbusReadWord (x : SmbXfer) (s : State) : Host.Outcome State Fault Refusal := .next (smbusReadWord x s)
/-! ## Configuration requests (R504) -/
/-- Retry status ends when `GLB_FIL` is non-zero, or 1 s after core reset release and the last link reset. -/
def crsEnded (s : State) : Bool := s.glb.fil != 0 || decide (s.now ≥ max s.boot.relAt s.boot.perstAt + 800000000)
/-- `CONFIG_REQUEST` (R33, R504): a read returns a dword of the configuration space, a write changes it. -/
def configRequest (r : CfgReq) (s : State) : State :=
  if !s.boot.coreOut then s
  else if !crsEnded s then s.emit (.crs r.req)
  else match r.write with
    | none => s.emit (.cfgOk r.req (cfgDword s.host.cfg r.dword.toNat))
    | some (be, v) => (cfgWrite r be v s).emit (.cfgOk r.req 0)
def execConfigRequest (r : CfgReq) (s : State) : Host.Outcome State Fault Refusal := .next (configRequest r s)
end Sys2Proof.Machine
end

