-- ==== Sys2Proof/Machine/Integrity.lean ====
section
/-! DEFINITION. Integrity (chapter 10): leaky buckets, poison made, used and cleared, repair before poison, and the ERR
commands. -/
namespace Sys2Proof.Machine
/-! ## Leaky buckets (R335) -/
/-- `BUCKET_TICK`: settings that `ERR_CONFIG` left take effect (R337), and every non-zero counter falls by 1; OVER clears, and so
re-arms, at half the threshold. -/
def bucketTick (s : State) : State :=
  let e := match s.err.cfgNext with
    | some (i, t, r) => { s.err with interval := i, thresh := t, retire := r, cfgNext := none }
    | none => s.err
  { s with err := { e with bkt := e.bkt.map fun b =>
      let c := b.count - 1
      { b with count := c, isOver := b.isOver && decide (c > e.thresh / 2) } } }
def execBucketTick (s : State) : Host.Outcome State Fault Refusal := .next (bucketTick s)
/-! ## Poison (R326–R331) -/
def maskCount (m : BitVec 4) : Nat := b2n (m.getLsbD 0) + b2n (m.getLsbD 1) + b2n (m.getLsbD 2) + b2n (m.getLsbD 3)
/-- Record a creation of poison from source `src` (R327). -/
def poisonMade (line src : Nat) (m : BitVec 4) (s : State) : State :=
  if m = 0 then s else
  let e := s.err
  let e1 := { e with made := sat 32 (e.made + 1), madeSince := e.madeSince + 1 }
  let e2 := if e.madeValid then e1 else
    { e1 with madeValid := true, madeSource := src, madeGran := m, madeAddr := s.wma line }
  let s1 := { s with err := e2 }
  if s1.mayRaise 0x0A10 src then
    ({ s1 with err := { s1.err with madeSince := 0 } } : State).raiseErr 0x0A10 src 0 0x0A
      [(16, (s.wma line).toNat), (24, src), (25, m.toNat), (28, e2.madeSince)]
  else s1
/-- Record a consumption of poison at a working-memory address by consumer `k`, instance `inst` (R330). -/
def poisonUsedAt (addr k inst : Nat) (s : State) : State :=
  let e := s.err
  let e1 := { e with used := sat 32 (e.used + 1) }
  let e2 := if e.usedValid then e1 else
    { e1 with usedValid := true, usedConsumer := k, usedInst := inst, usedAddr := BitVec.ofNat 40 addr }
  ({ s with err := e2 } : State).raiseErr 0x0A11 k 0 0x0A [(16, addr % 2 ^ 40), (24, k), (25, inst)]
def poisonUsed (line k inst : Nat) (s : State) : State := poisonUsedAt (s.wma line).toNat k inst s
/-- An uncorrectable word of on-die memory, by its array and the class it affects (R338). -/
def sramUncorrectable (array cls : Nat) (s : State) : State :=
  ({ s with err := { s.err with sramUe := sat 32 (s.err.sramUe + 1) } } : State).raiseErr 0x0A15 array 0 cls [(16, array), (17, cls)]
def poisonCleared (n : Nat) (s : State) : State := { s with err := { s.err with cleared := sat 32 (s.err.cleared + n) } }
/-- Poison granules of a line's home location from a source of R327; only granules that hold data (R326). -/
def poisonHome (line src : Nat) (m : BitVec 4) (s : State) : State :=
  let x := s.lineAt line
  let m' := m &&& x.valid
  poisonMade line src m' (s.setLine line { x with poison := x.poison ||| m' })
/-- Poison the shadow copy of a line. -/
def poisonShadow (line src : Nat) (m : BitVec 4) (s : State) : State :=
  let x := s.lineAt line
  poisonMade line src m (s.setLine line { x with shPoison := x.shPoison ||| m })
/-- Poison the location that the line's value is read from. -/
def poisonLine (line src : Nat) (m : BitVec 4) (s : State) : State :=
  if (s.eff line).2 then poisonShadow line src m s else poisonHome line src m s
/-- A line whose durable value is in NAND (R325). -/
def hasNandValue (s : State) (line : Nat) : Bool :=
  let g := s.lineSeg line
  (s.eff line).1 = .clean || (g.cls = .constant && g.sealed && (s.eff line).1 = .written)
/-- A DRAM beat of the home location that does not correct, on a read or a migration (R325, R327). -/
def dramUncorrectable (line : Nat) (m : BitVec 4) (s : State) : State :=
  if hasNandValue s line then
    let x := s.lineAt line
    let s1 := (s.setLine line { x with state := .unrestored, poison := 0, valid := 0 }).dropHome line
    { s1 with err := { s1.err with repaired := sat 32 (s1.err.repaired + 1) } }
  else poisonHome line 1 m s
/-- The rebuild of an uncorrectable metadata word (R324). Granules that were never written hold what DRAM came up with (R322). -/
def metaRebuild (line : Nat) (s0 : State) : State :=
  let g := s0.lineSeg line
  let old := s0.lineAt line
  let raw (i : Nat) : Byte := Config.rawDram s0.free i
  let s : State := ({ s0 with free := s0.free + 1 } : State).setHome line
    ((s0.homeBytes line).zipIdx.map fun b => if old.valid.getLsbD (b.2 / 64) then b.1 else raw b.2)
  let x : Line :=
    match g.cls, g.sealed with
    | .epoch, _ => { old with state := .committed, flip := false, stamp := 0, baseZero := false, poison := 15, valid := 15, shPoison := 0, charge := some .mgmt }
    | .latest, _ => { old with state := .dirty, flip := false, poison := 15, valid := 15, charge := some .mgmt }
    | .constant, true => { old with state := .unrestored, flip := false, poison := 0, valid := 15, charge := none }
    | _, _ => { old with state := .written, flip := false, poison := 15, valid := 15, charge := none }
  let s1 := (s.setLine line x).freeShadow line
  let s2 := { s1 with err := { s1.err with metaLost := sat 32 (s1.err.metaLost + 1) } }
  let s3 := s2.raiseErr 0x0A14 0 0 0x0A [(16, (s.wma line).toNat), (24, g.cls.code)]
  poisonMade line 6 x.poison s3
/-! ## ERR commands (R337) -/
def errBkt (b : Bucket) : Word := packW [(0, b.count), (8, b2n b.isOver), (16, b.peak)]
def errVote (e : Err) : Word := packW [(0, e.voteAnchor), (2, e.votePolicy), (4, e.voteCal), (8, b2n e.repairPending)]
def errQueryInfo : CmdInfo := { op := 0x0A10, auth := auObserve, used := [(16, 8)] }
def errQuery (d : Desc) (s : State) : State :=
  let i := d.p 16 1
  command errQueryInfo d (decide (i ≤ 36)) (fun _ s =>
    finish d St.ok (pack [(0, (errBkt s.err.bkt[Fin.ofNat 37 i]).toNat), (32, bits (errVote s.err) 0 16)]) s) s
def execErrQuery (d : Desc) (s : State) : Host.Outcome State Fault Refusal := .next (errQuery d s)
def errConfigInfo : CmdInfo := { op := 0x0A11, auth := auConfigure, used := [(16, 24)] }
def errConfigOk (d : Desc) : Bool :=
  decide (1 ≤ d.p 16 1) && decide (2 ≤ d.p 17 1) && decide (d.p 17 1 ≤ 254) && decide (d.p 17 1 < d.p 18 1)
def errConfig (d : Desc) (s : State) : State :=
  command errConfigInfo d (errConfigOk d) (fun _ s =>
    storing d 0x0A11 [setting 0x0A11 0xFF (paramBytes d)] 0 s) s
def errConfigApply (d : Desc) (s : State) : State := { s with err := { s.err with cfgNext := some (d.p 16 1, d.p 17 1, d.p 18 1) } }
def execErrConfig (d : Desc) (s : State) : Host.Outcome State Fault Refusal := .next (errConfig d s)
def errInjectInfo : CmdInfo :=
  { op := 0x0A12, auth := auMaintain, used := [(16, 8), (24, 72)], enc := fun d => decide (1 ≤ d.p 16 1) && decide (d.p 16 1 ≤ 3) }
/-- `ERR_INJECT`, once the host's earlier writes of the line are applied (R104): kinds 1 and 2 wait for the next DRAM write of the granule, kind 3 poisons at once as source 5. -/
def errInject (d : Desc) (s : State) : State :=
  let a := d.p 24 8
  let g := d.p 32 1
  command errInjectInfo d (decide (g ≤ 3)) (fun _ s =>
    let l := lineOf (a % 2 ^ 38)
    let x := s.lineAt l
    let e := (s.eff l).1
    if hostBehind s l then s
    else if a / 2 ^ 38 ≠ s.slot ∨ !s.segExists (segOf l) ∨ e = .never ∨ e = .unrestored ∨ (d.p 16 1 = 3 ∧ !x.valid.getLsbD g) then
      finish d St.errTarget 0 s
    else if d.p 16 1 = 3 then finish d St.ok 0 (poisonHome l 5 (BitVec.ofNat 4 (2 ^ g)) s)
    else finish d St.ok 0 { s with err := { s.err with inject := s.err.inject ++ [(d.p 16 1, l * 4 + g)] } }) s
def execErrInject (d : Desc) (s : State) : Host.Outcome State Fault Refusal := .next (errInject d s)
def errBktResetInfo : CmdInfo := { op := 0x0A13, auth := auMaintain, used := [(16, 8)] }
def errBktReset (d : Desc) (s : State) : State :=
  let i := d.p 16 1
  let zero (b : Bucket) : Bucket := { b with count := 0, isOver := false }
  command errBktResetInfo d (decide (i ≤ 36) || i == 0xFF) (fun _ s =>
    finish d St.ok 0 (if i = 0xFF then { s with err := { s.err with bkt := s.err.bkt.map zero } }
      else onBucket s (Fin.ofNat 37 i) zero)) s
def execErrBktReset (d : Desc) (s : State) : Host.Outcome State Fault Refusal := .next (errBktReset d s)
end Sys2Proof.Machine
end

