-- ==== Sys2Proof/Machine/Units.lean ====
section
/-! DEFINITION. Endings of lifecycle instances (R59): a drain that ends, and an internal fault. -/
namespace Sys2Proof.Machine
/-- What becomes of a waiting `UNIT_STOP` DRAIN when lifecycle index `i` ends with status `st`: once every target has ended,
the status and mask of R58 (R59, R61). -/
def drainWait (i : Fin 50) (st : Nat) (w : Wait) : WaitEnd :=
  match w with
  | .drain left all fails =>
    if left.contains i.val then
      let left' := left.filter (· ≠ i.val)
      let fails' := if st = St.ok then fails else fails ++ [((classOf i).2, st)]
      if left' = [] then .done (statusOf all fails') (some (maskOf (passedOf all fails')))
      else .goWith (.drain left' all fails')
    else .go
  | _ => .go
def drainEnds (i : Fin 50) (st : Nat) (s : State) : State := wake (drainWait i st) s
/-- The last work in flight of a DRAINING instance ends. -/
def drained (i : Fin 50) (s : State) : State :=
  if s.life[i].life = .draining then drainEnds i St.ok (s.toLife i .stopped) else s
def setFault (i : Fin 50) (code : Nat) (s : State) : State :=
  { s with life := vmod s.life i fun u => { u with fault := BitVec.ofNat 32 code } }
/-- An internal fault of a RUNNING or DRAINING instance: any pending STOP ends, and `UNIT_FAULT` is raised (R59, R336). -/
def unitFault (i : Fin 50) (code : Nat) (s : State) : State :=
  let u := s.life[i].life
  if u = .running ∨ u = .draining then
    let c := classOf i
    ((drainEnds i St.aborted ((setFault i code s).toLife i .faulted)).blame c.1.code).raise (c.1.code * 256 + 2) c.2 [(16, code)]
  else s
end Sys2Proof.Machine
end

