-- ==== Sys2Proof/Machine/Dram.lean ====
section
/-! DEFINITION. DRAM channels and fabric quality of service (chapter 09): address mapping, the request engine, refresh,
rank retirement, and the DCH and FAB commands. -/
namespace Sys2Proof.Machine
def onDch (s : State) (c : Fin 4) (f : Dch → Dch) : State := { s with dch := vmod s.dch c f }
def onFab (s : State) (f : Fab → Fab) : State := { s with fab := f s.fab }
/-! ## Address mapping (R291–R293) -/
/-- Lines of a rank (R288, R292). -/
def rankLines (d : Dch) : Nat := if d.density then 2 ^ 26 else 2 ^ 25
/-- The ranks that hold addresses, in order: the spare is skipped, and takes the place of a retired rank (R292, R310). -/
def rankOrder (d : Dch) : List Nat :=
  let sp := if d.spareEn then d.spare else 3
  ((List.range d.ranks).filter fun r => r ≠ sp).map fun r => if d.rank[Fin.ofNat 3 r] = .retired then sp else r
/-- Line of channel address: a[37:10], the line's place in its channel. -/
def inChannel (line : Nat) : Nat := line / 4
/-- Rank that serves a line, and its line number in the rank; a migrated line is in the spare (R292, R309). -/
def rankAt (s : State) (line : Nat) : Nat × Nat :=
  let d := s.dch[channelOf s line]
  let r := (rankOrder d).getD (inChannel line / rankLines d) 0
  let k := inChannel line % rankLines d
  match d.mig with
  | some m => if m.rank = r ∧ k < m.ptr then (m.target, k) else (r, k)
  | none => (r, k)
/-- The line of channel `c` whose place in the channel is `k`: the inverse of R291. -/
def lineAtPlace (s : State) (c : Fin 4) (k : Nat) : Nat :=
  let b0 := (c.val + parity (k &&& s.fab.chmap0.toNat)) % 2
  let b1 := (c.val / 2 + parity (k &&& s.fab.chmap1.toNat)) % 2
  k * 4 + b0 + 2 * b1
/-- Bank of a line: bank group, bank and row (R292, R293); `ra[33:13]` is the line number in the rank from bit 5 on. -/
def bankAt (s : State) (line : Nat) : OpenRow :=
  let d := s.dch[channelOf s line]
  let (r, k) := rankAt s line
  let h := k / 32
  let p (m : BitVec 21) : Nat := parity (h &&& m.toNat)
  ⟨r, p d.bg0 + 2 * p d.bg1, p d.ba0 + 2 * p d.ba1, h / 16⟩
/-! ## The request engine (R294–R303) -/
def fullMask : BitVec 64 := BitVec.allOnes 64
/-- All eight beats are covered wholly: no merge read is needed (R298, R323). -/
def maskFull (m : BitVec 64) : Bool := m = fullMask
/-- Draining starts at 48 entries or when no read is pending, and goes on down to 16 (R296). -/
def drains (d : Dch) : Bool :=
  decide (d.wq.length ≥ 48) || !(d.reqs.any fun r => !r.write && !r.merge) || (d.draining && decide (d.wq.length > 16))
/-- A request as it enters its port, with its port's target (R300, R318). Demand-fault fills carry urgency 7 from entry. -/
def newReq (s : State) (fp : Fin 23) (burst : Nat) (write : Bool) (mask : BitVec 64) (poison urgent : Bool) : DReq :=
  { id := s.fab.nextId, fp := fp, burst := burst, write := write, mask := mask, poison := poison,
    urgent := urgent || decide (s.slu.phase ≠ .idle), entered := s.now, issued := false, merge := false, raw := false,
    target := s.fab.port[fp].target, ord := 0, rank := none }
/-- The entry that a write merges into: of its burst and rank, not issued, and with no read that waits for it (R295, R296). -/
def openEntry (d : Dch) (r : DReq) : Option WEntry :=
  if r.rank.isSome then none
  else d.wq.find? fun w => w.burst = r.burst ∧ !w.next ∧ !(d.reqs.any fun q => q.id == w.id && (q.issued || q.rank.isSome))
/-- The newest entry of a burst. -/
def newestEntry (d : Dch) (burst : Nat) : Option WEntry := (d.wq.filter fun w => w.burst = burst).getLast?
/-- An entry of the burst that entered the channel earlier (R295). -/
def olderEntry (d : Dch) (r : DReq) : Bool := d.wq.any fun w => w.burst == r.burst && decide (w.ord < r.ord)
/-- The channel has room for a request: at most 128 requests, merge reads among them, and 64 write entries (R294, R296, R298). -/
def fits (d : Dch) (r : DReq) : Bool :=
  if r.write then
    (openEntry d r).isSome || (decide (d.wq.length < 64) && decide (d.reqs.length + (if maskFull r.mask then 1 else 2) ≤ 128))
  else (match newestEntry d r.burst with | some w => maskFull w.mask | none => false) || decide (d.reqs.length < 128)
/-- The longest read latency of a port, in ns (R303, R316). -/
def noteLatency (r : DReq) (s : State) : State :=
  onFab s fun f => { f with port := vmod f.port r.fp fun p => { p with lat := sat 32 (max p.lat ((s.now - r.entered) * 5 / 4)) } }
/-- A number that no request has: an identity, or a place in the order of entry. -/
def takeNo (s : State) : Nat × State := (s.fab.nextId, onFab s fun f => { f with nextId := f.nextId + 1 })
/-- A write request takes an entry of its own, with its merge read where bytes of the burst are missing (R296, R298). -/
def queueEntry (c : Fin 4) (r : DReq) (s : State) : State :=
  let full := maskFull r.mask
  let (k, s1) := takeNo s
  onDch s1 c fun d =>
    { d with wq := d.wq ++ [⟨r.id, r.fp, r.burst, r.mask, full, r.poison, r.entered, false, r.ord⟩],
             reqs := d.reqs ++ r :: (if full then [] else [{ r with id := k, write := false, merge := true }]) }
/-- A read against the write queue (R297): none of its burst, forwarded, or behind the entries of its burst. -/
def placeRead (c : Fin 4) (r : DReq) (s : State) : State :=
  match newestEntry s.dch[c] r.burst with
  | none => onDch s c fun d => { d with reqs := d.reqs ++ [r] }
  | some w =>
    if maskFull w.mask then noteLatency r (onDch s c fun d => { d with fwd := sat 32 (d.fwd + 1) })
    else onDch s c fun d =>
      { d with rawWait := sat 32 (d.rawWait + 1), reqs := d.reqs ++ [{ r with raw := true }],
               wq := d.wq.map fun x => if x.burst = r.burst then { x with next := true } else x }
/-- A request that fits enters its channel (R295–R298). -/
def place (c : Fin 4) (r0 : DReq) (s0 : State) : State :=
  let (k, s) := takeNo s0
  let r := { r0 with ord := k }
  let s1 :=
    if r.write then
      match openEntry s.dch[c] r with
      | some w => onDch s c fun d => { d with wq := d.wq.map fun x =>
          if x.id = w.id then
            { x with mask := x.mask ||| r.mask, poison := x.poison || r.poison, merged := x.merged || maskFull (x.mask ||| r.mask) }
          else x }
      | none => queueEntry c r s
    else placeRead c r s
  onDch s1 c fun d => { d with draining := drains d }
/-- A request enters its channel, or waits at its port: where the channel is not RUNNING or is full, or behind another of its port
(R294, R313). -/
def enter (c : Fin 4) (r : DReq) (s : State) : State :=
  let d := s.dch[c]
  -- on a channel that has failed for good reads end at once and writes are dropped (R315)
  if d.dead then (if r.write then onDch s c fun d => { d with dropped := sat 32 (d.dropped + 1) } else s)
  else if !dchRunning s c || !fits d r || d.waiting.any (fun q => q.fp == r.fp) then onDch s c fun d => { d with waiting := d.waiting ++ [r] }
  else place c r s
def requestAs (urgent : Bool) (fp : Fin 23) (line g : Nat) (write : Bool) (mask : BitVec 64) (poison : Bool) (s : State) : State :=
  let r := newReq s fp (line * 4 + g) write mask poison urgent
  enter (channelOf s line) r (takeNo s).2
def request (fp : Fin 23) (line g : Nat) (write : Bool) (mask : BitVec 64) (poison : Bool) (s : State) : State :=
  requestAs false fp line g write mask poison s
/-- The requests of a line read: one burst for each granule that holds data (R294, R322). -/
def requestRead (fp : Fin 23) (line : Nat) (m : BitVec 4) (s : State) : State :=
  (maskList m.toNat 4).foldl (fun s g => request fp line g false 0 false s) s
/-- The requests of a line written whole, with its poison (R294). -/
def requestWrite (fp : Fin 23) (line : Nat) (po : BitVec 4) (s : State) : State :=
  (List.range 4).foldl (fun s g => request fp line g true fullMask (po.getLsbD g) s) s
/-- The requests of a read of the line's value: none where it is effectively NEVER or UNRESTORED (R86, R125, R322). -/
def requestValue (fp : Fin 23) (line : Nat) (s : State) : State :=
  let e := s.eff line
  if e.1 = .never ∨ e.1 = .unrestored then s
  else requestRead fp (s.placeOf line) (if e.2 then 15 else (s.lineAt line).valid) s
/-- Byte enables of granule `g` of a line's bytes. -/
def granMask (bs : List WByte) (g : Nat) : BitVec 64 :=
  BitVec.ofNat 64 (((bs.drop (64 * g)).take 64).foldr (fun b a => b2n b.isSome + 2 * a) 0)
/-- The first waiting request that fits and stands behind no other of its port; `seen` are the ports passed over. -/
def firstFit (d : Dch) : List (Fin 23) → List DReq → Option DReq
  | _, [] => none
  | seen, r :: t => if !seen.contains r.fp && fits d r then some r else firstFit d (r.fp :: seen) t
/-- Requests that wait at their ports enter while there is room. -/
def admitWaiting (c : Fin 4) : Nat → State → State
  | 0, s => s
  | n + 1, s =>
    if !dchRunning s c then s else
    match firstFit s.dch[c] [] s.dch[c].waiting with
    | none => s
    | some r => admitWaiting c n (place c r (onDch s c fun d => { d with waiting := d.waiting.erase r }))
/-- Urgency of a request: eight times its age, in ns, against its target (R300). A migration's own requests stay at 0 (R310). -/
def urgency (s : State) (r : DReq) : Nat :=
  if r.urgent || decide (s.slu.phase ≠ .idle) then 7
  else if r.rank.isSome then 0
  else min 7 (10 * (s.now - r.entered) / r.target)
/-- The row of a request; a migration names its own rank (R309). -/
def rowOf (s : State) (r : DReq) : OpenRow :=
  let x := bankAt s (r.burst / 4)
  match r.rank with | some k => { x with rank := k } | none => x
def sameBank (a b : OpenRow) : Bool := a.rank == b.rank && a.bg == b.bg && a.ba == b.ba
def rowHit (s : State) (c : Fin 4) (r : DReq) : Bool := s.dch[c].rows.contains (rowOf s r)
/-- Requests that may be issued (R295–R298): a read not behind a queued write; a merge read, and a complete write that drains, is older
than 4 µs or is wanted next, once no older entry of the burst is queued; and no write ahead of an earlier read of its burst. -/
def candidates (s : State) (c : Fin 4) : List DReq :=
  let d := s.dch[c]
  d.reqs.filter fun r =>
    !r.issued &&
      (if r.write then
        (d.wq.any fun w => w.id == r.id && w.merged && (d.draining || w.next || decide (s.now ≥ w.entered + 3200))) && !olderEntry d r &&
          !(d.reqs.any fun q => !q.write && !q.merge && q.burst == r.burst && decide (q.ord < r.ord))
       else if r.merge then !olderEntry d r
       else !r.raw)
/-- The reads that wait for an entry to be issued: it and its merge read go at their urgency (R297). -/
def waitingFor (s : State) (c : Fin 4) (r : DReq) : List DReq :=
  if r.write || r.merge then s.dch[c].reqs.filter fun q => q.raw && q.burst == r.burst && decide (r.ord < q.ord) else []
/-- The key of R302, compared field by field; a greater number is a greater key. An entry that a read waits for takes the read's
panic and urgency, and goes ahead of reads of equal urgency (R297). -/
def slotKey (s : State) (c : Fin 4) (r : DReq) : Nat :=
  let ws := waitingFor s c r
  let p := b2n ((r :: ws).any fun q => s.fab.port[q.fp].panic)
  let u := ((r :: ws).map (urgency s)).foldl max 0
  (((p * 8 + u) * 2 + b2n ((r.write && s.dch[c].draining) || ws ≠ [])) * 2 + b2n (rowHit s c r)) * 2 ^ 64 + (2 ^ 64 - 1 - r.entered)
/-- Its first two fields, panic and urgency (R302). -/
def keyHead (s : State) (c : Fin 4) (r : DReq) : Nat := slotKey s c r / 2 ^ 66
/-- No request of the channel is for the rank. -/
def rankIdle (s : State) (c : Fin 4) (r : Nat) : Bool := !(s.dch[c].reqs.any fun q => (rowOf s q).rank == r)
def best (key : DReq → Nat) : List DReq → Option DReq → Option DReq
  | [], b => b
  | r :: t, none => best key t (some r)
  | r :: t, some b => best key t (some (if key r > key b then r else b))
/-- The next command of a request: its column command on an open row, else a precharge or an activate. -/
def serveSlot (c : Fin 4) (r : DReq) (s : State) : State :=
  let row := rowOf s r
  let d := s.dch[c]
  if rowHit s c r then
    let others := d.reqs.any fun q => !q.issued && sameBank (rowOf s q) row && decide (rowOf s q ≠ row)
    onDch s c fun d =>
      { d with reqs := d.reqs.map (fun q => if q.id = r.id then { q with issued := true } else q),
               hitStreak := if !others then 0 else if d.hitRow = some row then d.hitStreak + 1 else 1, hitRow := some row, lastCmd := .column r.id }
  else if d.rows.any (sameBank row) then
    onDch s c fun d => { d with rows := d.rows.filter (fun x => !sameBank x row), lastCmd := .precharge r.id }
  else onDch s c fun d => { d with rows := d.rows ++ [row], hitStreak := 0, hitRow := none, lastCmd := .activate r.id }
def refreshRank (c : Fin 4) (r : Nat) (s : State) : State :=
  onDch s c fun d =>
    { d with postponed := vmod d.postponed (Fin.ofNat 3 r) (· - 1), rows := d.rows.filter (fun x => x.rank ≠ r), lastCmd := .refresh r }
/-- `DCH_COMMAND_SLOT` (R302, R306). Bank, rank and bus timings are taken as met (log entry 43). -/
def dchCommandSlot (c : Fin 4) (s : State) : State :=
  if !dchServing s c then s else
  let d := s.dch[c]
  match [0, 1, 2].find? fun r => d.postponed[Fin.ofNat 3 r] ≥ 8 with
  | some r => refreshRank c r s
  | none =>
    let cand := candidates s c
    match best (slotKey s c) cand none with
    | none =>
      -- a postponed refresh is pulled in where its rank is idle (R306)
      (match [0, 1, 2].find? fun r => d.postponed[Fin.ofNat 3 r] > 0 ∧ rankIdle s c r with
       | some r => refreshRank c r s
       | none => onDch s c fun d => { d with lastCmd := .nop })
    | some r =>
      let misses := cand.filter fun q => keyHead s c q = keyHead s c r ∧ !rowHit s c q
      let r' := if d.hitStreak ≥ 16 ∧ rowHit s c r then (best (fun q => 2 ^ 64 - 1 - q.entered) misses none).getD r else r
      serveSlot c r' s
/-- Postponed refreshes are pulled in when their rank is idle: each is issued then (R306). -/
def pullIn (c : Fin 4) (r : Nat) (s : State) : State :=
  let n := s.dch[c].postponed[Fin.ofNat 3 r]
  if rankIdle s c r then (List.range n).foldl (fun s _ => refreshRank c r s) s else s
def execDchCommandSlot (ch : Fin 4) (s : State) : Host.Outcome State Fault Refusal := .next (dchCommandSlot ch s)
/-! ## Refresh and upkeep (R306, R307) -/
/-- `REFRESH_DUE`: issued at once on an idle rank, else postponed. -/
def refreshDue (c : Fin 4) (r : Fin 3) (s : State) : State :=
  let d := s.dch[c]
  if d.rank[r] = .absent ∨ d.selfRef ∨ !d.trained then s
  else if !rankIdle s c r.val then
    let n := min 8 (d.postponed[r] + 1)
    onDch s c fun d => { d with postponed := vmod d.postponed r fun _ => n, postMax := max d.postMax n }
  else onDch s c fun d => { d with rows := d.rows.filter (fun x => x.rank ≠ r.val), lastCmd := .refresh r }
def execRefreshDue (ch : Fin 4) (rank : Fin 3) (s : State) : Host.Outcome State Fault Refusal := .next (refreshDue ch rank s)
/-- `DRAM_TEMP_READ`: with REF_MODE 0 the mode follows the hottest device; one that reports nothing leaves 2X. -/
def dramTempRead (c : Fin 4) (reported hot : Bool) (s : State) : State :=
  if dchServing s c ∧ s.dch[c].refMode = 0 then
    onDch s c fun d => { d with ref2x := !reported || hot, lastCmd := .mpr }
  else s
def execDramTempRead (ch : Fin 4) (reported hot : Bool) (s : State) : Host.Outcome State Fault Refusal := .next (dramTempRead ch reported hot s)
/-- `ZQCS_DUE`: ZQCS to each rank; the last is the last command issued. -/
def zqcsDue (c : Fin 4) (s : State) : State :=
  if dchServing s c then onDch s c fun d => { d with lastCmd := .zqcs (d.ranks - 1) } else s
def execZqcsDue (ch : Fin 4) (s : State) : Host.Outcome State Fault Refusal := .next (zqcsDue ch s)
/-- `DQS_RECENTRE`: MPR reads in idle slots. -/
def dqsRecentre (c : Fin 4) (s : State) : State :=
  if dchServing s c then onDch s c fun d => { d with lastCmd := .mpr } else s
def execDqsRecentre (ch : Fin 4) (s : State) : Host.Outcome State Fault Refusal := .next (dqsRecentre ch s)
/-! ## Rank retirement (R308–R312) -/
def rankEvent (c : Fin 4) (r : Nat) (old new cause : Nat) (s : State) : State :=
  s.raise 0x0910 c.val [(16, r), (17, old), (18, new), (19, cause)]
def RankSt.code : RankSt → Nat
  | .absent => 0 | .inService => 1 | .spare => 2 | .migrating => 3 | .retired => 4 | .degraded => 5
def setRank (c : Fin 4) (r : Nat) (x : RankSt) (s : State) : State :=
  onDch s c fun d => { d with rank := vmod d.rank (Fin.ofNat 3 r) fun _ => x }
/-- The spare of a channel, while it is one. -/
def spareOf (d : Dch) : Option Nat :=
  if d.spareEn ∧ d.rank[Fin.ofNat 3 d.spare] = .spare then some d.spare else none
/-- The record of a migration: 1 migrating, 2 complete (R311). -/
def migRecord (c : Fin 4) (r sp st : Nat) : Nat × Nat × Nat × List Byte × LdgUse :=
  (8, 0x43, c, [BitVec.ofNat 8 r, BitVec.ofNat 8 sp, BitVec.ofNat 8 st], .counters 0x43)
/-- Start migrating a rank onto the spare. -/
def startMigration (c : Fin 4) (r sp cause : Nat) (s : State) : State :=
  let s1 := rankEvent c r 1 3 cause (setRank c r .migrating
    (onDch s c fun d => { d with mig := some ⟨r, sp, 0, cause, 0, 0, 0, s.ldg.nextJob⟩ }))
  ldgEnqueue [migRecord c r sp 1] s1
/-- A failing rank that no spare can take is DEGRADED, once (R312): `DCH_RANK_DEGRADED` tells of it, and no `DCH_RANK_STATE` (DESIGN
CHOICE, log entry 186). -/
def degrade (c : Fin 4) (r : Nat) (s : State) : State :=
  (setRank c r .degraded s).raise 0x0911 c.val [(16, r), (20, sat 32 s.dch[c].ueSum[Fin.ofNat 3 r])]
/-- A rank fails with `cause` 1 or 2 (R308, R312). -/
def rankFails (c : Fin 4) (r cause : Nat) (s : State) : State :=
  let d := s.dch[c]
  match d.rank[Fin.ofNat 3 r] with
  | .inService =>
    (match spareOf d, d.mig with
     | some sp, none => startMigration c r sp cause s
     | _, _ => degrade c r s)
  | .spare =>
    if d.mig.isSome ∧ cause = 2 then
      onDch s c fun d => { d with failedRanks := if d.failedRanks.contains r then d.failedRanks else d.failedRanks ++ [r] }
    else s
  | _ => s
/-- The rank-retire threshold of a rank's bucket, once per rank per reset (R335). -/
def checkRetire (c : Fin 4) (r : Nat) (s : State) : State :=
  let i : Fin 37 := Fin.ofNat 37 (3 * c + r)
  let b := s.err.bkt[i]
  if b.count ≥ s.err.retire ∧ !b.retired then rankFails c r 2 (onBucket s i fun b => { b with retired := true }) else s
/-- Corrected and uncorrectable beats of a rank are counted and reported to its bucket; an uncorrectable one fails the rank (R305,
R308). -/
def countBeats (c : Fin 4) (r corrected ue : Nat) (s : State) : State :=
  let s1 := onDch s c fun d =>
    { d with ce := vmod d.ce (Fin.ofNat 3 r) fun v => sat 32 (v + corrected),
             ue := vmod d.ue (Fin.ofNat 3 r) fun v => sat 32 (v + ue),
             ueSum := vmod d.ueSum (Fin.ofNat 3 r) (· + ue),
             errs := d.errs ||| BitVec.ofNat 6 (b2n (decide (corrected > 0)) + 2 * b2n (decide (ue > 0))) }
  let s2 := checkRetire c r (bucketAddN (Fin.ofNat 37 (3 * c + r)) (corrected + ue) s1)
  if ue > 0 then rankFails c r 1 s2 else s2
/-! ## Faults (R304, R315) -/
/-- What waits at its port after a channel fault: reads as they are, and each write entry as one write of what it holds. A migration's
own requests are made again with their line (R315). -/
def backToPort (d : Dch) : List DReq :=
  (d.reqs.filter fun r => !r.merge && r.rank.isNone).map fun r =>
    match d.wq.find? (·.id = r.id) with
    | some w => { r with issued := false, raw := false, mask := w.mask, poison := w.poison }
    | none => { r with issued := false, raw := false }
/-- A channel fault: the channel is FAULTED, with the fault's code in its record and its event, and its requests wait at their
ports (R55, R315). -/
def dchFault (c : Fin 4) (code : Nat) (s : State) : State :=
  let u := s.life[dchLife c].life
  if u = .running ∨ u = .draining then
    let s1 := onDch s c fun d =>
      { d with waiting := backToPort d ++ d.waiting, reqs := [], wq := [], rows := [], restarts := 0, retries := [], errs := d.errs ||| 0x20 }
    unitFault (dchLife c) code s1
  else s
/-- A channel fault whose code the manual does not give: it is free. -/
def dchFaultFree (c : Fin 4) (s : State) : State := let (v, s1) := s.draw; dchFault c (bits v 0 32) s1
/-- Retries made of an event that failed. -/
def retriesOf (d : Dch) (id : Nat) (writeCrc : Bool) : Nat :=
  ((d.retries.find? fun x => x.1 = id ∧ x.2.1 = writeCrc).map (·.2.2)).getD 0
/-- `ALERT_N` for request `id`: the commands from the one in error on are replayed, or the write is sent again, at most three times for
one event; a fourth failure is a channel fault (R304). Devices check a write's CRC only where it is enabled. -/
def alertN (c : Fin 4) (id : Nat) (writeCrc : Bool) (s : State) : State :=
  if !dchServing s c ∨ (writeCrc ∧ !s.dch[c].wcrc) then s else
  let n := retriesOf s.dch[c] id writeCrc
  let s1 := onDch s c fun d => { d with errs := d.errs ||| (if writeCrc then 8 else 4) }
  if n ≥ 3 then dchFaultFree c s1
  else onDch s1 c fun d =>
    { d with retries := (id, writeCrc, n + 1) :: d.retries.filter (fun x => !(x.1 == id && x.2.1 == writeCrc)),
             reqs := d.reqs.map (fun q => if writeCrc ∧ q.id = id then { q with issued := false } else q),
             caparRetry := if writeCrc then d.caparRetry else sat 32 (d.caparRetry + 1),
             wcrcRetry := if writeCrc then sat 32 (d.wcrcRetry + 1) else d.wcrcRetry }
def execAlertN (ch : Fin 4) (event : Alert) (s : State) : Host.Outcome State Fault Refusal := .next (alertN ch event.id event.writeCrc s)
def execDchResponseTimeout (ch : Fin 4) (s : State) : Host.Outcome State Fault Refusal := .next (dchFaultFree ch s)
/-! ## Panic (R301) -/
def isRealTime (p : Fin 23) : Bool := decide (2 ≤ p.val) && decide (p.val ≤ 15)
/-- `FAB_PANIC`: a real-time port raises or drops panic on its staging fill, in percent. -/
def fabPanic (p : Fin 23) (fill : Nat) (s : State) : State :=
  let x := s.fab.port[p]
  if !isRealTime p then s
  else if !x.panic ∧ fill ≥ x.panicHi then
    (onFab s fun f => { f with port := vmod f.port p fun x => { x with panic := true }, panicCount := sat 32 (f.panicCount + 1) }).raiseLim
      0x0914 p.val p.val [(16, 1), (17, fill)]
  else if x.panic ∧ fill < x.panicLo then
    (onFab s fun f => { f with port := vmod f.port p fun x => { x with panic := false } }).raiseLim 0x0914 p.val p.val [(16, 0), (17, fill)]
  else s
def execFabPanic (fp : Fin 23) (fill : Nat) (s : State) : Host.Outcome State Fault Refusal := .next (fabPanic fp fill s)
/-! ## Commands (R318) -/
def dchRankReg (d : Dch) : Nat := pack [(0, d.rank[0].code), (4, d.rank[1].code), (8, d.rank[2].code)]
def dchMigPtr (d : Dch) : Nat := match d.mig with | some m => pack [(0, m.ptr), (28, m.rank)] | none => 0
def dchStat (d : Dch) : Nat :=
  pack [(0, b2n d.trained), (1, b2n d.selfRef), (2, b2n d.ref2x), (3, b2n d.mig.isSome), (4, d.restarts), (8, d.wq.length), (16, d.reqs.length)]
def dchQueryInfo : CmdInfo := { op := 0x0910, auth := auObserve, sel := .units .dch }
/-- `DCH_QUERY`. -/
def dchQuery (d : Desc) (s : State) : State :=
  command dchQueryInfo d true (fun ts s =>
    let x := s.dch[Fin.ofNat 4 (ts.headD 0)]
    finish d St.ok (queryResult d ts (pack [(0, dchRankReg x), (16, dchMigPtr x), (48, dchStat x % 2 ^ 16)])) s) s
def execDchQuery (d : Desc) (s : State) : Host.Outcome State Fault Refusal := .next (dchQuery d s)
def timOk (d : Desc) (density : Bool) : Bool :=
  let t0 : Word := BitVec.ofNat 32 (d.p 20 4)
  let t1 : Word := BitVec.ofNat 32 (d.p 24 4)
  let t2 : Word := BitVec.ofNat 32 (d.p 28 4)
  decide (bits t0 0 5 ≥ 20) && decide (bits t0 8 5 ≥ 16) && decide (bits t0 16 5 ≥ 20) && decide (bits t0 24 5 ≥ 20)
    && decide (bits t1 0 6 ≥ 52) && decide (bits t1 8 4 ≥ 4) && decide (bits t1 12 4 ≥ 8) && decide (bits t1 16 8 ≥ 34)
    && decide (bits t1 24 6 ≥ 24) && decide (bits t2 0 4 ≥ 4) && decide (bits t2 4 4 ≥ 12) && decide (bits t2 8 4 ≥ 12)
    && decide (bits t2 12 4 ≥ 8) && decide (bits t2 16 11 ≥ if density then 880 else 560)
def dchConfigInfo : CmdInfo :=
  { op := 0x0911, auth := auConfigure, used := [(16, 2), (17, 8), (18, 144)], sel := .units .dch,
    enc := fun d => decide (d.p 17 1 ≤ 2) && BitVec.ofNat 32 (d.p 20 4) &&& (0xE0E0E0E0 : Word) == 0
      && BitVec.ofNat 32 (d.p 24 4) &&& (0xC00000C0 : Word) == 0 && BitVec.ofNat 32 (d.p 28 4) &&& (0xF8000000 : Word) == 0
      && decide (d.p 34 2 = 0) }
/-- Settings as `DCH_CONFIG` gives them. -/
def dchApply (d : Desc) (x : Dch) : Dch :=
  { x with wcrc := d.bit 16 0, dbi := d.bit 16 1, refMode := d.p 17 1, migRate := d.p 18 2,
           tim := #v[BitVec.ofNat 32 (d.p 20 4), BitVec.ofNat 32 (d.p 24 4), BitVec.ofNat 32 (d.p 28 4), BitVec.ofNat 32 (d.p 32 4)] }
def dchConfig (d : Desc) (s : State) : State :=
  command dchConfigInfo d (decide (100 ≤ d.p 18 2) && decide (d.p 18 2 ≤ 8000) && timOk d s.dch[0].density) (fun ts s =>
    let chk (t : Nat) : Option Nat := if s.lifeOf .dch t = .stopped then none else some St.unitState
    let ok := passedOf ts (failing ts chk)
    storingAs (statusOf ts (failing ts chk)) d 0x0911 ok (ok.map fun t => setting 0x0911 t (paramBytes d)) (maskOf ok) s) s
def dchConfigApply (d : Desc) (ts : List Nat) (s : State) : State := ts.foldl (fun s t => onDch s (Fin.ofNat 4 t) (dchApply d)) s
def execDchConfig (d : Desc) (s : State) : Host.Outcome State Fault Refusal := .next (dchConfig d s)
def dchPopSetInfo : CmdInfo :=
  { op := 0x0912, auth := auMaintain, used := [(16, 16), (18, 1), (19, 8)], enc := fun d => decide (d.p 17 1 ≤ 1) }
/-- `DCH_POP_SET` (R290): in force from the next reset, which reads it from the ledger. -/
def dchPopSet (d : Desc) (s : State) : State :=
  let n := d.p 16 1
  command dchPopSetInfo d (decide (1 ≤ n) && decide (n ≤ 3) && decide (d.p 19 1 < n) && !(d.bit 18 0 && n == 1)) (fun _ s =>
    storing d 0x0912 [setting 0x0912 0xFF (paramBytes d)] 0 s) s
def execDchPopSet (d : Desc) (s : State) : Host.Outcome State Fault Refusal := .next (dchPopSet d s)
/-- A bank mask is valid (R293): its own base bit, no other of bits 0–3, at most three of the row bits. -/
def bankMaskOk (m own rows : Nat) : Bool :=
  m.testBit own && decide (m % 16 = 2 ^ own) && decide (m / 16 < 2 ^ rows)
    && decide (((List.range 17).map fun i => b2n ((m / 16).testBit i)).sum ≤ 3)
def dchMapSetInfo : CmdInfo :=
  { op := 0x0913, auth := auMaintain, used := [(16, 28), (20, 28), (24, 21), (28, 21), (32, 21), (36, 21)] }
/-- `DCH_MAP_SET` (R293): in force from the next reset. The row width is that of the density in force now, also where a `DCH_POP_SET` is
stored and not yet in force (DESIGN CHOICE, log entry 186). -/
def dchMapSet (d : Desc) (s : State) : State :=
  let rows := if s.dch[0].density then 17 else 16
  command dchMapSetInfo d true (fun _ s =>
    if bankMaskOk (d.p 24 4) 0 rows && bankMaskOk (d.p 28 4) 1 rows && bankMaskOk (d.p 32 4) 2 rows && bankMaskOk (d.p 36 4) 3 rows then
      storing d 0x0913 [setting 0x0913 0xFF (paramBytes d)] 0 s
    else finish d St.dchMap 0 s) s
def execDchMapSet (d : Desc) (s : State) : Host.Outcome State Fault Refusal := .next (dchMapSet d s)
def dchRankRetireInfo : CmdInfo := { op := 0x0914, auth := auMaintain, used := [(16, 8)], sel := .units .dch }
/-- `DCH_RANK_RETIRE` (R308, R318): it completes once the migration has begun. A rank below RANKS that is not IN_SERVICE is a bad
parameter (DESIGN CHOICE, log entry 186: the manual gives no status for it). -/
def dchRankRetire (d : Desc) (s : State) : State :=
  let r := d.p 16 1
  command dchRankRetireInfo d (decide (r < s.dch[0].ranks)) (fun ts s =>
    let chk (t : Nat) : Option Nat :=
      let x := s.dch[Fin.ofNat 4 t]
      if s.lifeOf .dch t ≠ .running then some St.unitState
      else if x.mig.isSome then some St.dchMigrating
      else if (spareOf x).isNone then some St.dchNoSpare
      else if x.rank[Fin.ofNat 3 r] ≠ .inService then some St.badParam
      else none
    multi d ts chk (fun t s =>
      let c : Fin 4 := Fin.ofNat 4 t
      match spareOf s.dch[c] with
      | some sp => startMigration c r sp 3 s
      | none => s) s) s
def execDchRankRetire (d : Desc) (s : State) : Host.Outcome State Fault Refusal := .next (dchRankRetire d s)
def fabPortSetInfo : CmdInfo := { op := 0x0915, auth := auConfigure, used := [(16, 8), (18, 32)] }
/-- `FAB_PORT_SET`: the panic bytes are ignored for ports that are not real-time. -/
def fabPortSet (d : Desc) (s : State) : State :=
  let p := d.p 16 1
  let rt := isRealTime (Fin.ofNat 23 p)
  command fabPortSetInfo d (decide (p ≤ 22) && decide (100 ≤ d.p 18 2) && (!rt || (decide (d.p 21 1 < d.p 20 1) && decide (d.p 20 1 ≤ 100))))
    (fun _ s =>
      storing d 0x0915 [setting 0x0915 p (paramBytes d)] 0 s) s
def fabPortApply (d : Desc) (s : State) : State :=
  let p : Fin 23 := Fin.ofNat 23 (d.p 16 1)
  onFab s fun f =>
    { f with port := vmod f.port p fun x =>
        if isRealTime p then { x with target := d.p 18 2, panicHi := d.p 20 1, panicLo := d.p 21 1 } else { x with target := d.p 18 2 } }
def execFabPortSet (d : Desc) (s : State) : Host.Outcome State Fault Refusal := .next (fabPortSet d s)
def fabPortCfg (p : Fin 23) (x : FPort) : Nat := pack [(0, x.target), (16, x.panicHi), (24, x.panicLo), (31, b2n (isRealTime p))]
def fabQueryInfo : CmdInfo := { op := 0x0916, auth := auObserve, used := [(16, 8)] }
def fabQuery (d : Desc) (s : State) : State :=
  let p := d.p 16 1
  command fabQueryInfo d (decide (p ≤ 22)) (fun _ s =>
    let q : Fin 23 := Fin.ofNat 23 p
    let x := s.fab.port[q]
    finish d St.ok (pack [(0, fabPortCfg q x), (32, x.lat)]) (onFab s fun f => { f with port := vmod f.port q fun x => { x with lat := 0 } })) s
def execFabQuery (d : Desc) (s : State) : Host.Outcome State Fault Refusal := .next (fabQuery d s)
end Sys2Proof.Machine
end

