-- ==== Sys2Proof/Machine/Images.lean ====
section
/-! DEFINITION. The bytes of what the store programs into NAND (R196, R198, R199, R221, R228–R239): record pages, metadata, seals,
roots, descriptors, tables, images and checkpoints, each with its check code. Multi-byte fields are little-endian (R7). -/
namespace Sys2Proof.Machine
def pageBytes : Nat := 16384
/-- Bytes filled with zeros to a length. -/
def padTo (n : Nat) (b : List Byte) : List Byte := b ++ rep (n - b.length) 0
def crcBytes (b : List Byte) : List Byte := leBytes 4 (crc32 b).toNat
/-- A structure of `n` bytes that ends in a CRC-32 over the bytes before it. -/
def sealedBytes (n : Nat) (b : List Byte) : List Byte := let x := padTo (n - 4) b; x ++ crcBytes x
/-- Whether the check code at the end of such a structure holds. -/
def crcHolds (n : Nat) (b : List Byte) : Bool := decide (field b (n - 4) 4 = (crc32 (b.take (n - 4))).toNat)
/-- `len` bytes in table pages, each ending in a CRC-32 over its first 16,380 bytes (R233, R239). -/
def tablePagesOf (len : Nat) (b : List Byte) : List (List Byte) :=
  (List.range ((len + 16379) / 16380)).map fun i => sealedBytes pageBytes ((b.drop (16380 * i)).take 16380)
/-- A bit per number below `n`, set for those listed: bit i in byte i / 8. -/
def bitmapOf (n : Nat) (is : List Nat) : List Byte :=
  (List.range (n / 8)).map fun j => BitVec.ofNat 8 ((List.range 8).map fun k => 2 ^ k * b2n (is.contains (8 * j + k))).sum
/-! ## Line records and record pages (R196, R232) -/
/-- A line record: `slot` the chip slot, `gen` the generation. -/
def lineRecord (slot gen : Nat) (r : Rec) : List Byte :=
  let h := leBytes 2 0x4C52 ++ leBytes 1 r.type ++ leBytes 1 r.poison.toNat ++ leBytes 4 (r.line % 2 ^ 30 + slot * 2 ^ 30) ++ leBytes 4 gen
  h ++ crcBytes (h ++ r.value) ++ r.value
/-- The record that 272 bytes spell, where MAGIC, the flags and the CRC hold. -/
def lineRecordOf (b : List Byte) : Option Rec :=
  if field b 0 2 = 0x4C52 ∧ field b 3 1 < 16 ∧ field b 12 4 = (crc32 (b.take 12 ++ (b.drop 16).take 256)).toNat then
    some ⟨field b 2 1, field b 4 4 % 2 ^ 30, BitVec.ofNat 4 (field b 3 1), (b.drop 16).take 256⟩
  else none
/-- A segment marker in the form of a record. -/
def markerRecord (gen : Nat) (m : Marker) : List Byte :=
  let h := leBytes 2 0x4C52 ++ [0x10, 0] ++ leBytes 4 0 ++ leBytes 4 gen
  let v := padTo 256 (leBytes 4 m.first ++ leBytes 4 m.count ++ leBytes 4 m.entry.word.toNat ++ leBytes 1 (b2n m.empties))
  h ++ crcBytes (h ++ v) ++ v
def slotBytes (slot gen : Nat) : Slot → List Byte
  | .line r _ => lineRecord slot gen r
  | .marker m => markerRecord gen m
/-- The header of a record page. -/
def pageHeader (kind count gen seq : Nat) : List Byte :=
  sealedBytes 64 (leBytes 4 0x52504731 ++ leBytes 1 kind ++ leBytes 1 count ++ [0, 0] ++ leBytes 8 gen ++ leBytes 8 seq)
/-- A record page of up to 60 slots; unused ones are zero. -/
def recordPage (kind slot gen seq : Nat) (xs : List Slot) : List Byte :=
  padTo pageBytes (pageHeader kind xs.length gen seq ++ (xs.take 60).flatMap (slotBytes slot gen))
/-- Codewords that slot `k` of a record page touches, those of 1,024 B (R232, R242). -/
def slotWords (k : Nat) : List Nat := let a := 64 + 272 * k; if a / 1024 = (a + 271) / 1024 then [a / 1024] else [a / 1024, (a + 271) / 1024]
/-! ## The metadata delta and the seal (R198, R199) -/
def ctxRecord (i : Nat) (r : CtxRec) : List Byte :=
  sealedBytes 64 (leBytes 1 i ++ leBytes 1 r.mode.code ++ leBytes 1 r.policy.toNat ++ leBytes 1 r.rank.toNat ++ leBytes 6 r.opened
    ++ leBytes 6 r.commit ++ leBytes 2 r.minPeriod ++ [0, 0] ++ leBytes 4 r.wdog ++ leBytes 4 r.bankSeg ++ leBytes 2 r.bankCount)
/-- Segments with records in a log, in its order, each with the ordinal of its first record and its lines. -/
def logIndex (log : List Rec) : List (Nat × Nat × List Nat) :=
  let gs := (log.map fun r => r.line / 8192).dedup
  gs.map fun g => (g, log.findIdx (fun r => r.line / 8192 = g), (log.filter fun r => r.line / 8192 = g).map fun r => r.line % 8192)
def indexEntry (x : Nat × Nat × List Nat) : List Byte := leBytes 4 x.1 ++ leBytes 8 x.2.1 ++ rep 4 0 ++ bitmapOf 8192 x.2.2
def entryWord (t : AMap Seg) (g : Nat) : Nat := match t.find? (·.1 = g) with | some p => p.2.word.toNat | none => Seg.new.word.toNat
/-- The whole metadata delta, in its 4 KiB units. -/
def metaBytes (gen usable : Nat) (cs : List CtxRec) (segs : AMap Seg) (log : List Rec) : List Byte :=
  let ix := logIndex log
  let up (b : List Byte) : List Byte := padTo ((b.length + 4095) / 4096 * 4096) b
  let head := sealedBytes 64 (leBytes 4 0x4D444C54 ++ rep 4 0 ++ leBytes 8 gen ++ leBytes 4 cs.length ++ leBytes 4 usable ++ leBytes 4 ix.length)
  up head ++ up (cs.zipIdx.flatMap fun c => ctxRecord c.2 c.1) ++ up ((List.range usable).flatMap fun g => leBytes 4 (entryWord segs g))
    ++ up (ix.flatMap indexEntry)
/-- A metadata page: the header of KIND 1 and four units. The manual's sizes leave no room for the 64 B of the header in the
16,384 B of a page; the bytes are given as they stand in the two rules (log entry 159). It holds units and no slots, and COUNT is written 1 (DESIGN CHOICE,
log entry 187). -/
def metaPage (gen seq : Nat) (units : List Byte) : List Byte := pageHeader 1 1 gen seq ++ padTo pageBytes units
def sealBytes (gen : Nat) (x : Seal) (metaCrc : Nat) : List Byte :=
  sealedBytes 256 (leBytes 4 0x5345414C ++ [1] ++ leBytes 1 x.cause
    ++ leBytes 1 (pack [(0, b2n x.isOver), (1, b2n x.chFault), (2, b2n x.railLeft), (3, b2n x.dramPoison), (4, b2n x.empty)])
    ++ leBytes 1 (pack [(0, x.slot), (2, x.chips - 1)]) ++ leBytes 8 gen ++ leBytes 8 x.prevGen ++ leBytes 4 x.records ++ leBytes 4 x.metaLen
    ++ leBytes 4 metaCrc ++ leBytes 4 x.tSeal ++ leBytes 2 x.vT0 ++ leBytes 2 x.vSeal ++ leBytes 8 x.rtc.toNat ++ leBytes 8 x.uid.toNat)
/-- A seal copy is valid: its CRC and its META_CRC both check. -/
def sealValid (b delta : List Byte) : Bool :=
  decide (field b 0 4 = 0x5345414C) && crcHolds 256 b && decide (field b 32 4 = (crc32 delta).toNat)
/-! ## Ring pages (R228–R230, R233) -/
def rootPage (r : Root) : List Byte :=
  padTo pageBytes (sealedBytes 4096 (leBytes 4 0x524F4F54 ++ [1] ++ leBytes 1 r.areas.length ++ [0, 0] ++ leBytes 8 r.seq ++ leBytes 8 r.genReady
    ++ leBytes 4 r.ready ++ leBytes 4 r.next ++ leBytes 4 r.ckptNew ++ leBytes 4 r.ckptOld ++ leBytes 4 r.jrnHead ++ leBytes 4 r.bbt
    ++ rep 16 0 ++ (r.areas.take 16).flatMap fun a => leBytes 8 a.1 ++ leBytes 4 a.2 ++ rep 20 0))
/-- Pages of a stripe's descriptor: the header and its block table. `sa` and `sb` are an area's seal pages. -/
def descriptorPages (area : Bool) (x : Stripe) (sa sb : Nat) : List (List Byte) :=
  padTo pageBytes (sealedBytes 4096 (leBytes 4 0x53545250 ++ leBytes 1 (if area then 1 else 2) ++ leBytes 1 (x.order.length % 128)
    ++ leBytes 2 x.home ++ leBytes 2 (if area then x.spare else 0) ++ rep 6 0 ++ leBytes 8 x.gen ++ leBytes 8 (if area then 0 else x.base)
    ++ leBytes 4 (if area then 0 else x.prev) ++ leBytes 4 sa ++ leBytes 4 sb ++ rep 20 0 ++ x.order.flatMap (leBytes 1)))
    :: tablePagesOf (2 * x.blocks.length) (x.blocks.flatMap (leBytes 2))
/-- Pages of the bad-block table: a bit per block, LUN by LUN; `bad lun b` says which are set. -/
def badTablePages (luns : List Nat) (blocks : Nat) (bad : Nat → Nat → Bool) : List (List Byte) :=
  let n := luns.length * blocks
  let bit (i : Nat) : Nat := if i < n then b2n (bad (luns.getD (i / blocks) 0) (i % blocks)) else 0
  (List.range ((n + 8 * pageBytes - 1) / (8 * pageBytes))).map fun p =>
    (List.range pageBytes).map fun j => BitVec.ofNat 8 ((List.range 8).map fun k => 2 ^ k * bit (8 * (p * pageBytes + j) + k)).sum
/-! ## Images and checkpoints (R238, R239) -/
/-- A key, encoded as CUT. -/
def keyBytes (k : Key) : List Byte := leBytes 8 k.gen ++ leBytes 1 k.phase ++ rep 7 0 ++ leBytes 8 k.jseq
def mapPageBytes (x : Image) : List Byte :=
  sealedBytes pageBytes (leBytes 4 0x494D4147 ++ leBytes 4 x.seg ++ leBytes 2 x.recs.length ++ rep 6 0 ++ keyBytes x.cut ++ leBytes 4 x.pages.length
    ++ rep 20 0 ++ bitmapOf 8192 (x.recs.map fun r => r.line % 8192) ++ x.pages.flatMap (leBytes 4))
/-- Record pages of an image, in order: KIND 3, GEN zero, SEQ the segment. -/
def imagePageBytes (slot : Nat) (x : Image) (i : Nat) : List Byte := recordPage 3 slot 0 x.seg (((x.recs.drop (60 * i)).take 60).map fun r => .line r none)
/-- Header and table pages of a checkpoint: `segs` segments, and `blocks` blocks in the order of the bad-block table, each with its
erase count. -/
def ckptPages (k : Ckpt) (segs blocks : Nat) (erases : Nat → Nat) : List (List Byte) :=
  let head := sealedBytes pageBytes (leBytes 4 0x434B5054 ++ rep 4 0 ++ leBytes 8 k.seq ++ keyBytes k.key ++ leBytes 8 k.jt ++ leBytes 4 segs ++ leBytes 4 blocks)
  let map_ (g : Nat) : Nat := match k.images.find? (·.1 = g) with | some p => p.2 | none => 0
  head :: tablePagesOf (8 * segs + 2 * blocks) ((List.range segs).flatMap (fun g => leBytes 4 (entryWord k.segs g))
    ++ (List.range segs).flatMap (fun g => leBytes 4 (map_ g)) ++ (List.range blocks).flatMap fun b => leBytes 2 (erases b))
/-! ## Firmware images and NCFG (R221, R500) -/
/-- Bytes 0 to 191 of a header whose reserved bytes are zero: what is signed. -/
def headBytes (x : FwImage) : List Byte :=
  leBytes 4 0x46574D55 ++ [1] ++ leBytes 1 x.keyIndex ++ [0, 0] ++ leBytes 8 x.seq ++ leBytes 2 x.fil.toNat ++ [0, 0]
    ++ leBytes 4 x.build.toNat ++ leBytes 4 x.codeLen ++ leBytes 4 x.entry ++ leBytes 48 x.hash.toNat ++ x.key ++ rep 15 0
/-- An image whole: its header in 4 KiB, then the code. -/
def imageBytes (x : FwImage) : List Byte := padTo 4096 (headBytes x ++ x.sig) ++ x.code.getD []
def ncfgBytes (x : Ncfg) : List Byte :=
  sealedBytes 4096 (leBytes 4 0x4E434647 ++ [1] ++ leBytes 1 x.ceCount ++ leBytes 1 x.planes ++ [0] ++ leBytes 6 x.jedec.toNat ++ leBytes 2 x.blocks
    ++ leBytes 2 x.ppb ++ [x.progCmd, x.readCmd, x.eraseCmd, x.exitCmd] ++ leBytes 1 x.retrySteps ++ [0] ++ leBytes 2 x.tProg ++ leBytes 2 x.tRead
    ++ leBytes 4 x.tErase ++ leBytes 4 x.cycles ++ rep 28 0 ++ (x.retry.take 16).flatMap fun r => leBytes 4 r.toNat)
/-- The NCFG that 4 KiB spell, where MAGIC, VERSION, the ranges and the CRC hold. -/
def ncfgOf (b : List Byte) : Option Ncfg :=
  let f := field b
  let ce := f 5 1
  let pl := f 6 1
  let byte (o : Nat) : Byte := b.getD o 0
  if f 0 4 = 0x4E434647 ∧ f 4 1 = 1 ∧ crcHolds 4096 b = true ∧ (ce = 1 ∨ ce = 2 ∨ ce = 4) ∧ (pl = 2 ∨ pl = 4) ∧ f 14 2 ≤ 4096
      ∧ 64 ≤ f 16 2 ∧ f 16 2 ≤ 4096 ∧ f 22 1 ≤ 15 ∧ zeros b 7 1 = true ∧ zeros b 23 1 = true ∧ zeros b 36 28 = true ∧ zeros b 128 3964 = true then
    some { ceCount := ce, planes := pl, jedec := BitVec.ofNat 48 (f 8 6), blocks := f 14 2, ppb := f 16 2, progCmd := byte 18, readCmd := byte 19,
           eraseCmd := byte 20, exitCmd := byte 21, retrySteps := f 22 1, tProg := f 24 2, tRead := f 26 2, tErase := f 28 4, cycles := f 32 4,
           retry := (List.range 16).map fun i => BitVec.ofNat 32 (f (64 + 4 * i) 4) }
  else none
end Sys2Proof.Machine
end

