-- ==== Sys2Proof/Machine/Links.lean ====
section
/-! DEFINITION. Mirror and Confluence ports as links (R396, R397, R417): numbered frames, acknowledgement, replay and
retraining. -/
namespace Sys2Proof.Machine
def linkOf (s : State) : LinkId → LinkPort
  | .mir p => s.mir.port[p]
  | .conf p => s.conf.port[p]
def onLink (s : State) (l : LinkId) (f : LinkPort → LinkPort) : State :=
  match l with
  | .mir p => { s with mir := { s.mir with port := vmod s.mir.port p f } }
  | .conf p => { s with conf := { s.conf with port := vmod s.conf.port p f } }
/-- Lifecycle instance, arrival port (R63), fabric port (R152) and bucket (R334) of a link. -/
def lifeOfLink : LinkId → Fin 50
  | .mir p => Fin.ofNat 50 (45 + p)
  | .conf p => Fin.ofNat 50 (47 + p)
def arrivalOf : LinkId → Fin 12
  | .mir p => Fin.ofNat 12 (6 + p)
  | .conf p => Fin.ofNat 12 (8 + p)
def fabricOf : LinkId → Fin 23
  | .mir p => Fin.ofNat 23 (14 + p)
  | .conf p => Fin.ofNat 23 (16 + p)
def bucketOf : LinkId → Fin 37
  | .mir p => Fin.ofNat 37 (32 + p)
  | .conf p => Fin.ofNat 37 (34 + p)
/-- A port that carries frames. A DRAINING one still has those acknowledged that it sent (R414, R437). -/
def isUp (s : State) (l : LinkId) : Bool :=
  (linkOf s l).link = .up && (s.life[lifeOfLink l].life = .running || s.life[lifeOfLink l].life = .draining)
/-- An entry of a LINES or RD_CPL frame (R403). -/
def entryBytes (e : LineEntry) : List Byte := leBytes 4 e.line.toNat ++ leBytes 1 e.poison.toNat ++ [0, 0, 0] ++ padTo 256 e.value
/-- BODY of an EPOCH_END (R404). -/
def bodyBytes : PktBody → List Byte
  | .none => rep 64 0
  | .ctx c r => ctxRecord c r
  | .seg f n e => padTo 64 (leBytes 4 f ++ leBytes 4 n ++ leBytes 4 e.word.toNat)
/-- A mask of contexts and 6 bytes for each, in ascending order (R417). -/
def epochsBytes (es : List (Nat × Nat)) : List Byte :=
  let xs := sortBy (fun a b => decide (a.1 ≤ b.1)) es
  leBytes 2 (maskOf (xs.map (·.1))) ++ rep 6 0 ++ xs.flatMap fun q => leBytes 6 q.2
def ctxEpoch (c k e : Nat) : List Byte := leBytes 1 c ++ leBytes 1 k ++ rep 6 0 ++ leBytes 6 e
/-- TYPE of a frame (R398, R417). -/
def msgType : LinkMsg → Nat
  | .hello _ => 0x01 | .lines _ _ _ => 0x02 | .epochEnd _ => 0x03 | .restart _ _ => 0x04 | .ack _ _ => 0x05 | .handover _ => 0x06
  | .dying _ _ => 0x07 | .join _ => 0x10 | .formed _ => 0x11 | .wr _ _ _ _ => 0x12 | .rdReq _ _ _ => 0x13 | .rdCpl _ _ _ _ => 0x14
  | .prepare _ _ => 0x15 | .prepared _ _ => 0x16 | .commit _ _ => 0x17 | .abandon _ _ _ => 0x18 | .resolve _ => 0x19 | .ctxsync _ _ => 0x1A
  | .lost _ => 0x1B | .epochs _ => 0x1C | .role _ _ => 0x1D | .apply _ _ => 0x1E | .have_ _ _ => 0x1F | .switch _ => 0x20
/-- PAYLOAD of a frame (R399, R403–R405, R417). A Confluence frame is as long as the bytes listed for it (log entry 167). -/
def msgBytes : LinkMsg → List Byte
  | .hello h => leBytes 8 h.uid.toNat ++ leBytes 1 h.role ++ leBytes 1 (pack [(0, b2n h.controlling), (1, b2n h.pair), (2, b2n h.synced)])
      ++ leBytes 1 h.chipid ++ leBytes 1 h.chips ++ leBytes 4 h.usable ++ leBytes 2 h.pslc ++ leBytes 2 h.fil.toNat ++ leBytes 1 h.priority
      ++ [0, 0, 0] ++ leBytes 8 h.pseq ++ leBytes 4 h.millpond
  | .lines p i es => leBytes 8 p ++ leBytes 4 i ++ leBytes 1 es.length ++ [0, 0, 0] ++ es.flatMap entryBytes
  | .epochEnd e => leBytes 8 e.pseq ++ leBytes 1 e.ctx ++ leBytes 1 e.kind ++ [0] ++ leBytes 1 (b2n e.sliceLast) ++ leBytes 4 e.frames
      ++ leBytes 6 e.first ++ rep 18 0 ++ bodyBytes e.body
  | .restart p r => leBytes 8 p ++ leBytes 8 (b2n r)
  | .ack a y => leBytes 8 a ++ leBytes 8 (b2n y)
  | .handover l => leBytes 16 l
  | .dying l c => leBytes 8 l ++ leBytes 8 c
  | .join j => leBytes 8 j.uid.toNat ++ leBytes 1 j.chipid ++ leBytes 1 j.chips ++ leBytes 2 j.fil.toNat ++ leBytes 4 j.port
      ++ leBytes 4 j.home.toNat ++ leBytes 4 j.usable
  | .formed m => leBytes 1 m.toNat
  | .wr a bs p g => leBytes 8 a ++ leBytes 2 bs.length ++ leBytes 1 (b2n p) ++ leBytes 5 (b2n g) ++ bs
  | .rdReq t n a => leBytes 2 t ++ leBytes 6 n ++ leBytes 8 a
  | .rdCpl t i st es => leBytes 2 t ++ leBytes 1 i ++ leBytes 1 es.length ++ leBytes 12 st ++ es.flatMap entryBytes
  | .prepare c e | .prepared c e | .commit c e | .apply c e | .have_ c e => ctxEpoch c 0 e
  | .abandon c k e => ctxEpoch c k e
  | .resolve es | .epochs es => epochsBytes es
  | .ctxsync c r => ctxRecord c r
  | .lost j => leBytes 1 j
  | .role r k => leBytes 1 r ++ leBytes 1 k
  | .switch t => leBytes 1 t
def msgLen (m : LinkMsg) : Nat := (msgBytes m).length
/-- A frame: header, payload, and a CRC-32 over both (R397). -/
def frameBytes (type : Nat) (nak : Bool) (fseq ackseq : BitVec 16) (payload : List Byte) : List Byte :=
  let b := leBytes 1 type ++ leBytes 1 (b2n nak) ++ leBytes 2 payload.length ++ leBytes 2 fseq.toNat ++ leBytes 2 ackseq.toNat ++ payload
  b ++ crcBytes b
/-- Put a numbered frame on the lanes. -/
def emitFrame (l : LinkId) (f : BitVec 16) (m : LinkMsg) (s : State) : State :=
  let s1 := onLink s l fun p => { p with sent := p.sent + 12 + msgLen m, owes := false }
  s1.emit (.link l (frameBytes (msgType m) false f (linkOf s l).ackseq (msgBytes m)))
/-- A LINK frame: acknowledgement only, with no number of its own (log entry 41). -/
def emitAck (l : LinkId) (nak : Bool) (s : State) : State :=
  let p := linkOf s l
  (onLink s l fun p => { p with sent := p.sent + 12, owes := false }).emit (.link l (frameBytes 0 nak (p.fseq - 1) p.ackseq []))
/-- Send what waits while the port is UP and has fewer than 64 frames unacknowledged (R397). -/
def pump (l : LinkId) : Nat → State → State
  | 0, s => s
  | n + 1, s =>
    let p := linkOf s l
    match p.backlog with
    | [] => s
    | m :: t =>
      if isUp s l && decide (p.window.length < 64) then
        pump l n (emitFrame l p.fseq m (onLink s l fun p =>
          { p with backlog := t, window := p.window ++ [(p.fseq, m)], fseq := p.fseq + 1 }))
      else s
/-- Send a frame on a link; on one whose link is DOWN or whose port is not RUNNING it is not sent. -/
def sendOn (l : LinkId) (m : LinkMsg) (s : State) : State :=
  if (linkOf s l).link = .down || s.life[lifeOfLink l].life != .running then s
  else pump l 64 (onLink s l fun p => { p with backlog := p.backlog ++ [m] })
def mirLinks : List LinkId := [.mir 0, .mir 1]
def confLinks : List LinkId := [.conf 0, .conf 1, .conf 2]
/-- A mirror port that new frames of an authority may go out on: UP, RUNNING, and its live policy holds the authority (R398). -/
def mirCarries (au : Nat) (s : State) (l : LinkId) : Bool :=
  isUp s l && s.life[lifeOfLink l].life = .running && s.holds (arrivalOf l) au
/-- The authority a mirror frame needs (R398). -/
def mirAuth : LinkMsg → Nat
  | .hello _ => auObserve
  | _ => auMirror
/-- Send a frame on every UP mirror port that may carry it (R398). -/
def sendMir (m : LinkMsg) (s : State) : State :=
  mirLinks.foldl (fun s l => if mirCarries (mirAuth m) s l then sendOn l m s else s) s
/-! ## The stream on the mirror ports (R401, R403, R404) -/
def anyMirUp (s : State) : Bool := mirLinks.any (mirCarries auMirror s)
/-- A port has room for replay: nothing waits for it, and fewer than 64 frames are unacknowledged (R397, R403). -/
def roomy (s : State) (l : LinkId) : Bool :=
  mirCarries auMirror s l && (linkOf s l).backlog.isEmpty && decide ((linkOf s l).window.length < 64)
/-- The port that the next frame goes to: of those with room the one with fewer frames unacknowledged, port 0 of equals. -/
def roomiest (s : State) : Option LinkId :=
  let load (l : LinkId) : Nat := (linkOf s l).window.length
  match mirLinks.filter (roomy s) with
  | [a, b] => some (if load b < load a then b else a)
  | ls => ls.head?
def epochEndOf (t : PktTx) : EpochEnd :=
  ⟨t.pseq, t.due.ctx, t.due.kind, t.due.sliceLast, t.frames.length, if t.due.kind = 1 then t.due.first else 0, t.due.body⟩
def onPkt (pseq : Nat) (f : PktTx → PktTx) (s : State) : State :=
  { s with mir := { s.mir with unacked := s.mir.unacked.map fun t => if t.pseq = pseq then f t else t } }
/-- Send the packets begun, oldest first: each LINES frame on a port that has room, then the EPOCH_END (R403, R404). One that is still to
be read holds those behind it. -/
def pumpMir : Nat → State → State
  | 0, s => s
  | n + 1, s =>
    match s.mir.unacked.find? (!·.ended), roomiest s with
    | some t, some l =>
      if !t.read then s
      else match t.frames[t.next]? with
        | some es => pumpMir n (sendOn l (.lines t.pseq t.next es) (onPkt t.pseq (fun t => { t with next := t.next + 1 }) s))
        | none => pumpMir n (sendMir (.epochEnd (epochEndOf t)) (onPkt t.pseq (fun t => { t with ended := true }) s))
    | _, _ => s
/-- The highest PSEQ whose packet was sent complete (R405). -/
def sentComplete (s : State) : Nat :=
  match s.mir.unacked.filter (!·.ended) with
  | [] => s.mir.pseq
  | t :: _ => ((s.mir.unacked.filter (·.ended)).map (·.pseq)).foldl max (t.pseq - 1)
/-- Drop the frames of a window up to the acknowledged one. -/
def ackTo (a : BitVec 16) (w : List (BitVec 16 × LinkMsg)) : List (BitVec 16 × LinkMsg) :=
  if w.any (fun x => x.1 = a) then (w.dropWhile fun x => x.1 ≠ a).drop 1 else w
/-- A port retrains and holds its traffic (R397, R431). -/
def retrain (l : LinkId) (cause : Nat) (s : State) : State :=
  let s1 := onLink s l fun p =>
    { p with link := .training, retrains := sat 8 (p.retrains + 1), replays := [], failed := 0,
             errs := p.errs ||| (if cause = 1 then 6 else 4) }
  match l with
  | .conf p => s1.raiseLim 0x0E14 p.val p.val [(16, cause)]
  | .mir _ => s1
/-- Replay every unacknowledged frame, oldest first; the fourth replay of one frame retrains the port (R397). -/
def replay (l : LinkId) (s : State) : State :=
  let p := linkOf s l
  if p.window = [] ∨ !isUp s l then s else
  let s1 := p.window.foldl (fun s w => emitFrame l w.1 w.2 s) s
  let made (f : BitVec 16) : Nat := ((p.replays.find? (·.1 = f)).map (·.2)).getD 0 + 1
  let ns := p.window.map fun w => (w.1, made w.1)
  let s2 := bucketAddN (bucketOf l) p.window.length
    (onLink s1 l fun p => { p with replayed := sat 32 (p.replayed + p.window.length), replays := ns })
  if ns.any (·.2 ≥ 4) then retrain l 2 s2 else s2
/-- Take a received frame's acknowledgement (R397). -/
def takeAck (l : LinkId) (h : LinkHdr) (s : State) : State :=
  let p := linkOf s l
  let w := ackTo h.ackseq p.window
  let s1 := onLink s l fun p => { p with window := w, replays := p.replays.filter fun x => w.any (·.1 = x.1) }
  let s2 := pumpMir 256 (pump l 64 s1)
  if h.nak then replay l s2 else s2
/-- Receive a frame that carries something: whether it is good and in order, and so acted on (R397). Behind a held WR a frame is
held too, and not acknowledged (R422). -/
def receive (l : LinkId) (h : LinkHdr) (m : LinkMsg) (s : State) : Bool × State :=
  if !isUp s l then (false, s) else
  let s1 := takeAck l h (onLink s l fun p => { p with got := p.got + 12 + msgLen m })
  let p := linkOf s1 l
  if p.hold ≠ [] then
    (false, if h.fseq = p.ackseq + 1 + BitVec.ofNat 16 p.hold.length then onLink s1 l fun p => { p with hold := p.hold ++ [(h.fseq, m)] } else s1)
  else if h.fseq = p.ackseq + 1 then (true, onLink s1 l fun p => { p with ackseq := h.fseq, owes := true })
  else (false, onLink s1 l fun p => { p with owes := true })
/-- Whether the frame's port holds the authority it needs; a discarded frame is counted (R398, R417). -/
def permitted (l : LinkId) (au : Nat) (s : State) : Bool × State :=
  if s.holds (arrivalOf l) au then (true, s) else (false, s.refuseAuth (arrivalOf l) 0 0)
/-- Receive a frame, check its authority, and act on it. -/
def onFrame (l : LinkId) (h : LinkHdr) (m : LinkMsg) (au : Nat) (f : State → State) (s : State) : State :=
  let (ok, s1) := receive l h m s
  if !ok then s1 else
  let (ok2, s2) := permitted l au s1
  if ok2 then f s2 else s2
/-- `LINK` (R397). -/
def linkFrame (l : LinkId) (h : LinkHdr) (s : State) : State :=
  if isUp s l then takeAck l h (onLink s l fun p => { p with got := p.got + 12 }) else s
def execLinkFrame (l : LinkId) (h : LinkHdr) (s : State) : Host.Outcome State Fault Refusal := .next (linkFrame l h s)
/-- `FRAME_CRC_BAD`: discarded, and answered with NAK (R397). -/
def frameCrcBad (l : LinkId) (s : State) : State :=
  if isUp s l then emitAck l true (onLink s l fun p => { p with errs := p.errs ||| 1 }) else s
def execFrameCrcBad (l : LinkId) (s : State) : Host.Outcome State Fault Refusal := .next (frameCrcBad l s)
/-- `REPLAY_TIMEOUT`: 20 µs without acknowledgement (R397). TIMEOUT is bit 1 of a mirror port's error register. -/
def replayTimeout (l : LinkId) (s : State) : State :=
  if !isUp s l ∨ (linkOf s l).window = [] then s else
  match l with
  | .mir _ => replay l (onLink s l fun p => { p with errs := p.errs ||| 2 })
  | .conf _ => replay l s
def execReplayTimeout (l : LinkId) (s : State) : Host.Outcome State Fault Refusal := .next (replayTimeout l s)
/-- A link goes DOWN: its traffic is gone, and its numbering starts afresh when it trains again. -/
def linkClear (l : LinkId) (st : LinkSt) (s : State) : State :=
  onLink s l fun p => { p with link := st, window := [], backlog := [], hold := [], fseq := 0, ackseq := 0xFFFF, replays := [], failed := 0, owes := false }
/-- Rates over the last 1 ms (R413, R436). -/
def takeRates (s : State) : State :=
  let f (p : LinkPort) : LinkPort := { p with tx := sat 16 (p.sent / 1000), rx := sat 16 (p.got / 1000), sent := 0, got := 0 }
  { s with mir := { s.mir with port := s.mir.port.map f }, conf := { s.conf with port := s.conf.port.map f } }
end Sys2Proof.Machine
end

