-- ==== Sys2Proof/Machine/MirrorOps.lean ====
section
/-! DEFINITION. What the mirror keeps of changes on a PRIMARY (R401, R402, R409): the packets that are due, the lines they
pin, and resynchronisation. -/
namespace Sys2Proof.Machine
/-- The state a context is in, or returns to from CLOSING. -/
def Ctx.settled (x : Ctx) : CtxMode := if x.mode = .closing then x.closeTo else x.mode
/-- The context record of R198 as it stands. -/
def Ctx.record (x : Ctx) : CtxRec :=
  ⟨x.settled, x.policy, x.rank, x.epoch, x.commit, x.minPeriod, x.wdog, x.bankSeg, x.bankCount⟩
def onMir (s : State) (f : Mir → Mir) : State := { s with mir := f s.mir }
def packets (s : State) : List PktDue := s.mir.due ++ s.mir.unacked.map (·.due)
/-- An epoch packet not yet acknowledged covers the line's committed value (R176, R402). -/
def mirCovers (s : State) (l : Nat) : Bool := s.mir.role = .primary && (packets s).any fun p => p.kind == 1 && p.lines.contains l
/-- A COMMITTED line is pinned so long (R176). -/
def pinned (s : State) (l : Nat) : Bool := mirCovers s l && (s.eff l).1 = .committed
def pinnedLines (s : State) : List Nat := (s.ret.lines.filter fun p => pinned s p.1).map (·.1)
/-- Queue a packet; only a PRIMARY sends any. -/
def duePacket (p : PktDue) (s : State) : State :=
  if s.mir.role = .primary then onMir s fun m => { m with due := m.due ++ [p] } else s
def recordOf (s : State) (c : Fin 16) : PktBody := .ctx c (s.ctxAt c).record
/-- A packet that is about a context's epochs or record. -/
def PktDue.isOf (c : Nat) (p : PktDue) : Bool := (p.kind == 1 || p.kind == 4) && p.ctx == c
def hasEpochDue (s : State) (c : Fin 16) : Bool := s.mir.due.any fun p => p.kind == 1 && p.ctx == c.val
/-- The newest packet of a context that has begun is an epoch's, and still to be read. -/
def readingEpoch (s : State) (c : Fin 16) : Option PktTx :=
  match (s.mir.unacked.filter (·.due.isOf c)).getLast? with
  | some t => if t.due.kind = 1 ∧ !t.read ∧ !(s.mir.due.any (·.isOf c)) then some t else none
  | none => none
/-- An epoch packet that covers epoch `e` too, and its lines. -/
def PktDue.extend (e : Nat) (ls : List Nat) (body : PktBody) (p : PktDue) : PktDue :=
  { p with last := e, lines := p.lines ++ ls.filter (fun l => !p.lines.contains l), body := body }
/-- A close queues a KIND 1 packet, or extends the one of the context that is still to be read (R401, R402). -/
def dueEpoch (c : Fin 16) (e : Nat) (ls : List Nat) (s : State) : State :=
  if s.mir.role ≠ .primary then s
  else if hasEpochDue s c then
    onMir s fun m => { m with due := m.due.map fun p => if p.kind = 1 ∧ p.ctx = c.val then p.extend e ls (recordOf s c) else p }
  else match readingEpoch s c with
    | some t => onPkt t.pseq (fun t => { t with due := t.due.extend e ls (recordOf s c) }) s
    | none => duePacket ⟨1, c, e, e, ls, false, recordOf s c⟩ s
/-- An abandon, a state change or a `CTX_CONFIG` queues a KIND 4 packet; a KIND 1 packet still to be read carries the new
record instead (log entry 42). -/
def dueContext (c : Fin 16) (s : State) : State :=
  if s.mir.role ≠ .primary then s
  else if hasEpochDue s c then
    onMir s fun m => { m with due := m.due.map fun p => if p.kind = 1 ∧ p.ctx = c.val then { p with body := recordOf s c } else p }
  else match readingEpoch s c with
    | some t => onPkt t.pseq (fun t => { t with due := { t.due with body := recordOf s c } }) s
    | none => duePacket ⟨4, c, 0, 0, [], false, recordOf s c⟩ s
/-- A segment-table change queues a KIND 5 packet; for a seal it carries the segment's lines. -/
def dueSegment (first count : Nat) (sealing : Bool) (s : State) : State :=
  duePacket ⟨5, 0xFF, first, count, if sealing then [first] else [], false, .seg first count (s.seg first)⟩ s
/-- A write to a LATEST line is noted for the next KIND 3 packet. -/
def noteLatest (l : Nat) (s : State) : State :=
  if s.mir.role = .primary ∧ !s.mir.latest.contains l then onMir s fun m => { m with latest := m.latest ++ [l] } else s
/-- Groups of at most eight segments, 16 MiB, for the slices of one owner; one empty group where there is none. -/
def groups : Nat → List Nat → List (List Nat)
  | 0, l => [l]
  | n + 1, l => if l.length ≤ 8 then [l] else l.take 8 :: groups n (l.drop 8)
def slicesOf (s : State) (ctx : Nat) (segs : List Nat) : List PktDue :=
  let g := groups segs.length segs
  let body : PktBody := if ctx < 16 then recordOf s (Fin.ofNat 16 ctx) else .none
  (List.range g.length).map fun i => ⟨2, ctx, 0, 0, g.getD i [], decide (i + 1 = g.length), body⟩
def segsWhere (s : State) (f : Seg → Bool) : List Nat :=
  (s.ret.segs.filter fun p => f p.2 && decide (p.1 < s.usable)).map (·.1)
/-- The packets of a resynchronisation, in order (R409). -/
def resyncPackets (s : State) : List PktDue :=
  [⟨6, 0xFF, 0, 0, [], false, .none⟩]
    ++ (segsWhere s fun e => e.cls = .constant && e.sealed).map (fun g => ⟨5, 0xFF, g, 1, [g], false, .seg g 1 (s.seg g)⟩)
    ++ (List.range 16).flatMap (fun c => slicesOf s c (segsWhere s fun e => e.cls = .epoch && e.owner.val = c))
    ++ slicesOf s 0xFF (segsWhere s fun e => e.cls = .latest)
/-- A slice as it stands when its turn comes: a context's record, or a segment's entry, is that of then; a segment that is a sealed CONSTANT
one no longer is left out, for its own packet tells of the change (R404, R409). -/
def freshSlice (s : State) (p : PktDue) : Option PktDue :=
  match p.kind with
  | 2 => some { p with body := if h : p.ctx < 16 then recordOf s ⟨p.ctx, h⟩ else .none }
  | 5 => let e := s.seg p.first; if e.cls = .constant ∧ e.sealed then some { p with body := .seg p.first 1 e } else none
  | _ => some p
/-- Start a full resynchronisation: every unacknowledged packet is withdrawn (R405, R409). -/
def resync (s : State) : State :=
  let s1 := s.mir.unacked.foldl (fun s p => sendMir (.restart p.pseq false) s) s
  let ps := resyncPackets s1
  onMir s1 fun m => { m with unacked := [], due := [], latest := [], slices := ps, sliceTotal := ps.length, synced := false,
                             ctxSynced := 0, globalSynced := false }
/-- The oldest epoch not acknowledged, for `WEIR_MIRROR_LAG`: epochs of several contexts are not ordered by the manual, and the
model takes the smallest number (DESIGN CHOICE, log entry 154). -/
def oldestEpoch (s : State) : Nat :=
  (((packets s).filter fun p => p.kind = 1).map (·.first)).foldl (fun a e => if a = 0 then e else min a e) 0
/-- Pinned lines past `MIR_LAG_MAX` percent of the millpond: all are unpinned and the partner is lagging (R177, R409). -/
def checkLag (s : State) : State :=
  let n := (pinnedLines s).length
  if s.mir.role = .primary ∧ n * 100 > s.ret.weir.mirLagMax * s.ret.weir.millpond then
    resync (s.raise 0x0514 0 [(16, n), (20, oldestEpoch s)])
  else s
end Sys2Proof.Machine
end

