-- ==== Sys2Proof/Machine/StoreOps.lean ====
section
/-! DEFINITION. The backing store's shared operations (chapter 07): NAND operations, LUNs and blocks, stripes and areas, the rings,
journal slots, and the newest durable value of a line. -/
namespace Sys2Proof.Machine
def onStore (s : State) (f : Store → Store) : State := { s with store := f s.store }
def onSlu (s : State) (f : Slu → Slu) : State := { s with slu := f s.slu }
def nstLife (c : Fin 16) : Fin 50 := Fin.ofNat 50 c
/-! ## Keys and durable values (R240, R241) -/
def keyLt (a b : Key) : Bool :=
  decide (a.gen < b.gen) || (a.gen == b.gen && (decide (a.phase < b.phase) || (a.phase == b.phase && decide (a.jseq < b.jseq))))
def keyMax (a b : Key) : Key := if keyLt a b then b else a
def Key.zero : Key := ⟨0, 0, 0⟩
def jkey (p : JPage) : Key := ⟨p.gen, 0, p.jseq⟩
def logKey (g : Nat) : Key := ⟨g, 1, 0⟩
/-- Line records of a page's slots. -/
def slotRec : Slot → Option Rec
  | .line r _ => some r
  | .marker _ => none
def slotMarker : Slot → Option Marker
  | .line _ _ => none
  | .marker m => some m
def durablePages (st : Store) : List JPage := st.journal.filter (·.durable)
/-- A page address: LUN key, block, page (R224). -/
def lunKey (ch ce lun : Nat) : Nat := ch + 16 * ce + 64 * lun
def ppaOf (lun blk page : Nat) : Nat := lun + 2 ^ 8 * page + 2 ^ 20 * blk
def ppaChan (p : Nat) : Nat := p % 16
/-- The block a page lies in: the PPA of its page 0. -/
def blockOf (p : Nat) : Nat := p % 128 + p / 2 ^ 20 * 2 ^ 20
/-- Place of page `n` of a stripe's home rows (R234). -/
def stripePage (nc : Ncfg) (x : Stripe) (n : Nat) : Nat :=
  let l := max 1 x.order.length
  let k := n / l
  let rowpages := max 1 (nc.planes * nc.ppb)
  let row := k / rowpages
  let pl := k % nc.planes
  let i := n % l
  ppaOf (x.order.getD i 0) (x.blocks.getD ((i * (x.home + x.spare) + row) * nc.planes + pl) 0) (k % rowpages / nc.planes)
/-- Place of a home page of an area, relocated or not (R235). -/
def areaPage (nc : Ncfg) (a : Area) (n : Nat) : Nat :=
  match a.moved.find? (·.1 = n) with
  | some m => m.2
  | none => stripePage nc a.stripe n
/-- A channel whose restarts all failed: what it holds reads as lost (R254). -/
def nchDead (st : Store) (c : Nat) : Bool := decide (st.ch[Fin.ofNat 16 c].restarts ≥ 3)
/-- The first `n` codewords of a page decode (R242). -/
def wordsRead (st : Store) (ppa n : Nat) : Bool :=
  !nchDead st (ppaChan ppa) && !(st.badWords.any fun w => w.1 = ppa ∧ w.2 < n)
/-- A structure of 4 KiB, and a page read whole, with the check codes that its codewords carry. -/
def headReads (st : Store) (ppa : Nat) : Bool := wordsRead st ppa 4
def pageReads (st : Store) (ppa : Nat) : Bool := wordsRead st ppa 16
/-- Slot `k` of a record page is lost: a codeword it lies in does not decode, or its channel is gone (R242, R243, R254). -/
def slotLost (st : Store) (ppa k : Nat) : Bool :=
  nchDead st (ppaChan ppa) || st.badWords.any fun w => w.1 = ppa && (slotWords k).contains w.2
/-- A durable record: its key, and the page and slot that hold it. -/
structure Placed where
  key  : Key
  record : Rec
  ppa  : Nat
  slot : Nat
deriving DecidableEq, Repr
/-- Every durable record: journal, the logs of the sealed areas, and images, whose values stand for those they merged. -/
def placedRecords (st : Store) : List Placed :=
  (durablePages st).flatMap (fun p => p.slots.zipIdx.filterMap fun q => (slotRec q.1).map fun r => ⟨jkey p, r, p.ppa, q.2⟩)
    ++ st.sealed.flatMap (fun a => a.log.zipIdx.map fun q => ⟨logKey a.stripe.gen, q.1, areaPage st.ncfg a (q.2 / 60), q.2 % 60⟩)
    ++ st.images.flatMap (fun im => im.recs.zipIdx.map fun q => ⟨im.cut, q.1, im.pages.getD (q.2 / 60) 0, q.2 % 60⟩)
/-- Durable markers that still read, with their keys. -/
def placedMarkers (st : Store) : List (Key × Marker) :=
  (durablePages st).flatMap fun p => (p.slots.zipIdx.filter fun q => !slotLost st p.ppa q.2).filterMap fun q => (slotMarker q.1).map fun m => (jkey p, m)
def markerHits (m : Marker) (seg : Nat) : Bool := decide (m.first ≤ seg) && decide (seg < m.first + m.count)
/-- Key of the newest durable marker that empties a segment. -/
def voidKey (st : Store) (seg : Nat) : Option Key :=
  ((placedMarkers st).filter fun x => x.2.empties && markerHits x.2 seg).foldl
    (fun k x => match k with | none => some x.1 | some y => some (keyMax y x.1)) none
def liveRecords (st : Store) (seg : Nat) : List Placed :=
  let rs := (placedRecords st).filter fun x => segOf x.record.line = seg
  match voidKey st seg with
  | none => rs
  | some k => rs.filter fun x => !keyLt x.key k
/-- The later of two records wins, and of equal keys the one listed later. -/
def newestRec : List Placed → Option Placed → Option Placed
  | [], b => b
  | x :: t, none => newestRec t (some x)
  | x :: t, some b => newestRec t (some (if keyLt x.key b.key then b else x))
/-- The newest durable value of a line (R208, R240). -/
def durableOf (st : Store) (line : Nat) : Option Placed :=
  newestRec ((liveRecords st (segOf line)).filter fun x => x.record.line = line) none
def isLost (st : Store) (x : Placed) : Bool := slotLost st x.ppa x.slot
/-- A record is live while it is its line's durable value. -/
def isLive (st : Store) (x : Placed) : Bool := durableOf st x.record.line == some x
/-- Live records of the pages that satisfy `f`. -/
def liveOn (st : Store) (f : Nat → Bool) : List Placed := (placedRecords st).filter fun x => f x.ppa && isLive st x
/-- Lines of a segment with a durable value, ascending: its presence maps (R210, R241). -/
def presentLines (st : Store) (seg : Nat) : List Nat :=
  sortNat ((liveRecords st seg).map (·.record.line)).dedup
/-! ## NAND operations (R213, R221, R222) -/
/-- The order in which NAND reads are served; what the manual does not list comes last (R213). -/
def readRank : NUse → Nat
  | .fault _ => 1
  | .stream _ => 3
  | .merge _ => 5
  | _ => 6
/-- The operation that is taken next: the oldest, but where that is a read, the read that is served first. -/
def nextOp (xs : List NOp) : Option NOp :=
  match xs with
  | [] => none
  | h :: _ =>
    if h.kind ≠ .read then some h
    else (xs.filter (·.kind = .read)).foldl (fun b o => match b with | none => some o | some x => if readRank o.use < readRank x.use then some o else b) none
/-- NAND takes the seep's work: outside a save (R191). -/
def nandOpen (s : State) : Bool := decide (s.slu.phase = .idle) && s.glb.state != 3
/-- A page of the rings in force. -/
def ringPage (st : Store) (p : Nat) : Bool := decide (st.ring.a ≠ 0) && (blockOf p == st.ring.a || blockOf p == st.ring.b)
/-- What an operation waits for: earlier ones on its page, or an erasure of its block; a ring page for the structures that it
names, every other program and erasure for the ring pages before it (R230, R231, R237, R250). -/
def mayIssue (st : Store) (ahead : List NOp) (o : NOp) : Bool :=
  let journal (x : NOp) : Bool := match x.use with | .journal _ => true | _ => false
  !(ahead.any fun x => blockOf x.ppa == blockOf o.ppa && (x.kind = .erase || o.kind = .erase || (x.kind = .program && x.ppa == o.ppa))) &&
  match o.kind with
  | .read => true
  | _ =>
    if o.kind = .program ∧ ringPage st o.ppa then !(ahead.any fun x => x.kind = .program && !ringPage st x.ppa && !journal x)
    else !(ahead.any fun x => x.kind = .program && ringPage st x.ppa)
/-- Waiting operations that may go on, `ahead` being those before them. -/
def eligible (s : State) : List NOp → List NOp → List NOp
  | _, [] => []
  | ahead, o :: t =>
    (if s.lifeOf .nst o.ch = .running ∧ mayIssue s.store ahead o then [o] else []) ++ eligible s (o :: ahead) t
/-- At most 512 operations are in flight (R222). -/
def issueOps : Nat → State → State
  | 0, s => s
  | n + 1, s =>
    if s.store.ops.length ≥ 512 ∨ !nandOpen s then s else
    match nextOp (eligible s s.store.ops s.store.waitq) with
    | none => s
    | some o => issueOps n (onStore s fun st => { st with waitq := st.waitq.erase o, ops := st.ops ++ [{ o with since := s.now }] })
/-- Operations that wait go on. -/
def issueAll (s : State) : State := issueOps s.store.waitq.length s
/-- What a page's spare area holds: 105 B of parity for each of its codewords (R242). -/
def spareBytes (page : List Byte) : List Byte :=
  (List.range (page.length / 1024)).flatMap fun i => leBytes 105 (Config.bchParity ((page.drop (1024 * i)).take 1024)).toNat
/-- Hand an operation to its channel, with the command bytes that NCFG gives it; a program gives the page and its spare area. -/
def nandOp (kind : NKind) (use : NUse) (ppa : Nat) (bytes : List Byte) (s : State) : State :=
  let nc := s.store.ncfg
  let pre := match kind with | .program => nc.progCmd | .read => nc.readCmd | .erase => nc.eraseCmd
  let cmd (b : Byte) : List Byte := if b = 0 then [] else [b]
  let s1 := s.emit (.nand kind (cmd pre) (cmd nc.exitCmd) ppa (bytes ++ spareBytes bytes))
  let s2 := onStore s1 fun st => { st with waitq := st.waitq ++ [⟨Fin.ofNat 16 (ppaChan ppa), kind, use, ppa, s.now⟩] }
  issueAll s2
/-- Queue a read of a page whose channel serves. -/
def nandRead (use : NUse) (ppa : Nat) (s : State) : State :=
  if ppa = 0 ∨ s.lifeOf .nst (ppaChan ppa) ≠ .running ∨ s.store.waitq.any (fun o => o.kind = .read ∧ o.use = use ∧ o.ppa = ppa) then s
  else nandOp .read use ppa [] s
/-- Reads whose purpose is served are over. -/
def readsOver (f : NUse → Bool) (s : State) : State :=
  let s1 := onStore s fun st =>
    { st with ops := st.ops.filter (fun o => !(o.kind = .read && f o.use)), waitq := st.waitq.filter fun o => !(o.kind = .read && f o.use) }
  issueAll s1
/-! ## LUNs, blocks and capacity (R224, R225) -/
def blkAt (st : Store) (k : Nat) : Blk := mget Blk.fresh st.blocks k
def setBlk (k : Nat) (f : Blk → Blk) (s : State) : State :=
  onStore s fun st => { st with blocks := mset Blk.fresh st.blocks k (f (blkAt st k)) }
def isBoot (k : Nat) : Bool := (k % 128 == 0 || k % 128 == 8) && decide (k / 2 ^ 20 < 16)
/-- A block's erase count, the erasures of formats included (R245). -/
def blkErases (st : Store) (k : Nat) (b : Blk) : Nat := if isBoot k then b.erases else b.erases + st.wiped
/-- Channels whose LUNs new stripes use: trained, RUNNING and not being evacuated. -/
def chServes (s : State) (c : Nat) : Bool :=
  let x := s.store.ch[Fin.ofNat 16 c]
  x.installed && x.trained && s.lifeOf .nst c = .running && !s.store.evacuating.getLsbD c
/-- LUNs of a channel in service (R253, R254): none while it is stopped or off. -/
def svcLuns (s : State) (c : Nat) : BitVec 8 :=
  if s.lifeOf .nst c = .off ∨ s.lifeOf .nst c = .stopped then 0 else s.store.ch[Fin.ofNat 16 c].lunSvc
def lunsOf (s : State) (c : Nat) : List Nat :=
  ((List.range 8).filter fun i => (svcLuns s c).getLsbD i).map fun i => lunKey c (i / 2) (i % 2)
/-- LUNs in service, in the order of R234: ascending LUN, CE, channel. -/
def luns (s : State) : List Nat := sortNat (((List.range 16).filter (chServes s)).flatMap (lunsOf s))
/-- Every LUN of the board, in the order of channel, CE and LUN (R229). -/
def boardLuns (s : State) : List Nat :=
  ((List.range 16).filter fun c => s.store.ch[Fin.ofNat 16 c].installed).flatMap fun c =>
    (List.range (2 * s.store.ncfg.ceCount)).map fun i => lunKey c (i / 2) (i % 2)
def isBad (st : Store) (k : Nat) : Bool := (blkAt st k).bad
/-- Good blocks of a LUN, boot region excluded. -/
def goodBlocks (st : Store) (lun : Nat) : Nat :=
  st.ncfg.blocks - (st.blocks.filter fun p => p.1 % 128 = lun ∧ p.2.bad ∧ !isBoot p.1).length - (if lun = 0 ∨ lun = 8 then 16 else 0)
/-- The LUNs in service. -/
def allLuns (s : State) : List Nat := (List.range 16).flatMap (lunsOf s)
def pslcBytes (s : State) : Nat := ((allLuns s).map (goodBlocks s.store)).sum * s.store.ncfg.ppb * pageBytes
/-- `SEG_PSLC_HAVE` (R225). -/
def pslcHave (s : State) : Nat := pslcBytes s / 2 ^ 30
/-- Bytes of good blocks that no structure holds. -/
def freeBytes (s : State) : Nat :=
  pslcBytes s - (s.store.blocks.filter fun p => p.2.held ∧ !p.2.bad ∧ !isBoot p.1).length * s.store.ncfg.ppb * pageBytes
def need (s : State) : Nat := pslcNeed (gibUp s.retainedSegs)
/-- The capacity is taken anew; a fall below the bound of R91 is reported (R94, R225). -/
def checkCapacity (s : State) : State :=
  let h := pslcHave s
  let short := decide (h < need s)
  let s1 := { s with ret := { s.ret with sum := { s.ret.sum with pslcHave := h, capacityLow := short } } }
  if short ∧ !s.ret.sum.capacityLow then s1.raise 0x0311 0 [(16, need s), (18, h)] else s1
/-- Free pSLC below 2 % of the capacity (R249). -/
def spaceLow (s : State) : Bool := decide (freeBytes s * 50 < pslcBytes s)
def checkSpace (s : State) : State :=
  let l := spaceLow s
  let s1 := onStore s fun st => { st with spaceLow := l }
  if l ∧ !s.store.spaceLow then s1.raise 0x0713 0 [(16, freeBytes s / 2 ^ 30), (18, pslcHave s)] else s1
/-- Queue the erasure of blocks that no structure references any longer. -/
def freeBlocks (ks : List Nat) (s : State) : State :=
  let busy (k : Nat) : Bool := (s.store.ops ++ s.store.waitq).any fun o => o.kind = .erase && o.ppa == k
  (ks.filter fun k => !isBad s.store k && !busy k).foldl (fun s k => nandOp .erase .other k [] s) s
/-- The least-erased free block of a LUN's plane, the lowest-numbered of equals (R245; log entry 46). -/
def pickBlock (s : State) (lun q : Nat) : Option Nat :=
  let st := s.store
  let cand := ((List.range st.ncfg.blocks).filter fun b => b % st.ncfg.planes = q).filter fun b =>
    let k := ppaOf lun b 0
    let x := blkAt st k
    !x.bad && !x.held && !isBoot k
  cand.foldl (fun m b => match m with
    | none => some b
    | some a => if (blkAt st (ppaOf lun b 0)).erases < (blkAt st (ppaOf lun a 0)).erases then some b else some a) none
/-- Free blocks of a LUN's plane. -/
def freeCount (s : State) (lun q : Nat) : Nat :=
  let st := s.store
  let pl := max 1 st.ncfg.planes
  let used := st.blocks.filter fun p => p.1 % 128 = lun ∧ p.1 / 2 ^ 20 % pl = q ∧ (p.2.bad ∨ p.2.held) ∧ !isBoot p.1
  st.ncfg.blocks / pl - used.length - (if lun = 0 ∨ lun = 8 then 16 / pl else 0)
/-- Take a block of a LUN's plane that has one free. -/
def takeBlock (lun q : Nat) (s : State) : Nat × State :=
  match pickBlock s lun q with
  | none => (0, s)
  | some b => (b, setBlk (ppaOf lun b 0) (fun x => { x with held := true }) s)
/-! ## Stripes (R233, R234) -/
/-- LUNs in service that have the free blocks for so many rows. -/
def rowLuns (s : State) (rows : Nat) : List Nat :=
  (luns s).filter fun l => (List.range s.store.ncfg.planes).all fun q => decide (rows ≤ freeCount s l q)
/-- Blocks of `rows` rows on every LUN of `order`, in the order of the block table. -/
def takeRows (order : List Nat) (rows : Nat) (s : State) : List Nat × State :=
  order.foldl (fun acc lun =>
    (List.range (rows * acc.2.store.ncfg.planes)).foldl (fun a j =>
      let (b, s') := takeBlock lun (j % a.2.store.ncfg.planes) a.2
      (a.1 ++ [b], s')) acc) ([], s)
def stripeRows (x : Stripe) : Nat := x.home + x.spare
/-- Block keys of a stripe. -/
def stripeBlocks (planes : Nat) (x : Stripe) : List Nat :=
  ((List.range x.blocks.length).map fun j => ppaOf (x.order.getD (j / (stripeRows x * planes)) 0) (x.blocks.getD j 0) 0).filter fun k =>
    decide (k / 2 ^ 20 ≠ 0)
/-- Home pages of a stripe. -/
def stripePages (nc : Ncfg) (x : Stripe) : Nat := x.order.length * x.home * nc.planes * nc.ppb
/-- Pages of a descriptor: the header and its block table (R233). -/
def descPages (nc : Ncfg) (x : Stripe) : Nat := 1 + (2 * x.order.length * stripeRows x * nc.planes + 16379) / 16380
/-- Page 0 of the first spare row of entry `i` of the order list (R235). -/
def firstSpare (nc : Ncfg) (x : Stripe) (i : Nat) : Nat :=
  ppaOf (x.order.getD i 0) (x.blocks.getD ((i * stripeRows x + x.home) * nc.planes) 0) 0
/-- Pages of the seal copies (R235). -/
def sealPlaces (nc : Ncfg) (x : Stripe) : Nat × Nat :=
  let g0 := x.order.getD 0 0 % 16 / 4
  let j := (List.range x.order.length).find? fun i => decide (x.order.getD i 0 % 16 / 4 ≠ g0)
  (firstSpare nc x 0, match j with | some i => firstSpare nc x i | none => 0)
/-- Page `k` of an area's spare rows, LUN by LUN in turn. -/
def sparePage (nc : Ncfg) (a : Area) (k : Nat) : Nat :=
  let x := a.stripe
  let l := max 1 x.order.length
  let i := k % l
  let j := k / l
  let rowpages := max 1 (nc.planes * nc.ppb)
  ppaOf (x.order.getD i 0) (x.blocks.getD ((i * stripeRows x + x.home + j / rowpages) * nc.planes + j % nc.planes) 0) (j % rowpages / nc.planes)
/-- The first spare page from `k` on that takes programs, and the count after it; `n` bounds the search. -/
def nextSpare (nc : Ncfg) (ok : Nat → Bool) (a : Area) : Nat → Nat → Option (Nat × Nat)
  | 0, _ => none
  | n + 1, k => let p := sparePage nc a k; if ok p && p != a.sealA && p != a.sealB then some (p, k + 1) else nextSpare nc ok a n (k + 1)
/-- The next free spare page of an area that takes programs, and the spare pages given out with it (R235). -/
def freeSpare (nc : Ncfg) (ok : Nat → Bool) (a : Area) : Option (Nat × Nat) :=
  nextSpare nc ok a (a.stripe.order.length * a.stripe.spare * nc.planes * nc.ppb - a.spareUsed) a.spareUsed
/-- Take whole blocks for `n` pages on one LUN, the first from `seed` on that has them free (log entry 49). -/
def takePages (seed n : Nat) (s : State) : Option (List Nat) × State :=
  let nc := s.store.ncfg
  let ppb := max 1 nc.ppb
  let k := (n + ppb - 1) / ppb
  let ls := luns s
  match (ls.rotateLeft (seed % max 1 ls.length)).find? fun l => (List.range nc.planes).all fun q => decide (k ≤ freeCount s l q) with
  | none => (none, s)
  | some lun =>
    let (bs, s1) := (List.range k).foldl (fun acc i =>
      let (b, s') := takeBlock lun ((seed + i) % max 1 nc.planes) acc.2
      (acc.1 ++ [b], s')) ([], s)
    (some ((List.range n).map fun i => ppaOf lun (bs.getD (i / ppb) 0) (i % ppb)), s1)
/-- Program pages with their content. -/
def programPages (use : NUse) (ps : List Nat) (pages : List (List Byte)) (s : State) : State :=
  (ps.zip pages).foldl (fun s q => nandOp .program use q.1 q.2 s) s
/-- Pages whose programs are still to end. -/
def pendingPages (st : Store) : List Nat := ((st.ops ++ st.waitq).filter (·.kind = .program)).map (·.ppa)
/-! ## Rings and roots (R229–R231) -/
def wroteOther (pages : Nat) (s : State) : State := onStore s fun st => { st with wrOther := st.wrOther + pages * pageBytes }
/-- The ring blocks are chosen on a channel of groups 0–1 and on one of groups 2–3 (R226). -/
def ringLun (s : State) (high : Bool) : Option Nat :=
  (luns s).find? fun l => (if high then decide (l % 16 ≥ 8) else decide (l % 16 < 8)) && decide (0 < freeCount s l 0)
/-- Stripes that the rings describe, each with whether it is an area and with its seal pages. -/
def described (st : Store) : List (Stripe × Bool × Nat × Nat) :=
  let area (a : Area) : Stripe × Bool × Nat × Nat := (a.stripe, true, a.sealA, a.sealB)
  (st.ready.toList ++ (st.readying.map (·.1)).toList ++ st.nextArea.toList ++ st.sealed).map area ++ (st.stripe.toList ++ st.oldStripes).map fun x => (x, false, 0, 0)
/-- Change the places of descriptors, PREV links among them. -/
def mapDescs (f : Nat → Nat) (st : Store) : Store :=
  let g (x : Stripe) : Stripe := { x with desc := f x.desc, prev := if x.prev = 0 then 0 else f x.prev }
  let area (a : Area) : Area := { a with stripe := g a.stripe }
  { st with ready := st.ready.map area, readying := st.readying.map fun x => (area x.1, x.2), nextArea := st.nextArea.map area, sealed := st.sealed.map area, stripe := st.stripe.map g,
            oldStripes := st.oldStripes.map g }
def lookNat (xs : List (Nat × Nat)) (d : Nat) : Nat := match xs.find? (·.1 = d) with | some p => p.2 | none => 0
/-- New places of the descriptors, from page `i` of a ring block on, and the page after them. -/
def newPlaces (nc : Ncfg) (a : Nat) : List (Stripe × Bool × Nat × Nat) → Nat → List (Nat × Nat) × Nat
  | [], i => ([], i)
  | x :: t, i => let (ps, j) := newPlaces nc a t (i + descPages nc x.1); ((x.1.desc, a + 2 ^ 8 * i) :: ps, j)
/-- The pages of the bad-block table, for every block of the board (R229). -/
def bbtContent (s : State) : List (List Byte) :=
  badTablePages (boardLuns s) s.store.ncfg.blocks fun l b => isBad s.store (ppaOf l b 0)
def bbtPages (s : State) : Nat := ((boardLuns s).length * s.store.ncfg.blocks + 8 * pageBytes - 1) / (8 * pageBytes)
/-- The payload of an anchor record (R228). -/
def anchorBytes (r : Ring) : List Byte := leBytes 4 r.a ++ leBytes 4 r.b ++ leBytes 8 r.epoch ++ rep 16 0
def writeAnchor (s : State) : State :=
  let r := { s.store.ring with job := s.ldg.nextJob, anchorDue := false }
  wake (fun w => match w with | .anchor st => .goWith (.ledger r.job st) | _ => .go)
    (ldgEnqueue (triple 2 0x01 0 (anchorBytes r) .anchor) (onStore s fun st => { st with ring := r }))
/-- Every ring page handed out is programmed. -/
def ringIdle (st : Store) : Bool := !((st.ops ++ st.waitq).any fun o => o.kind = .program && ringPage st o.ppa)
/-- The anchor is written once the pages of the rings that it names are programmed (R231). -/
def kickAnchor (s : State) : State := if s.store.ring.anchorDue && ringIdle s.store then writeAnchor s else s
/-- The rings before are erased once the anchor that names the new ones is written; a write that failed is made again (R231). -/
def dropOldRing (s : State) : State :=
  let r := s.store.ring
  match r.prior with
  | none => s
  | some p =>
    if r.anchorDue ∨ s.ldg.jobs.any (·.id = r.job) then s
    else if (voted s 0).any fun b => field b 0 4 = r.a then
      freeBlocks ([p.a, p.b].filter (· ≠ 0)) (onStore s fun st => { st with ring := { r with prior := none } })
    else writeAnchor s
/-- The pages of a ring block, the same in both rings: index and content (R229). -/
def programRing (a b i : Nat) (pages : List (List Byte)) (s : State) : State :=
  wroteOther (2 * pages.length) (pages.zipIdx.foldl (fun s q =>
    nandOp .program .other (b + 2 ^ 8 * (i + q.2)) q.1 (nandOp .program .other (a + 2 ^ 8 * (i + q.2)) q.1 s)) s)
def descOf (x : Option Area) : Nat := match x with | some a => a.stripe.desc | none => 0
/-- The area that a root names as READY: one that is, or is being, readied (R236). -/
def readyNamed (st : Store) : Option Area := st.ready.or (st.readying.map (·.1))
/-- The root of the store as it stands (R230). -/
def rootOf (st : Store) (bbt : Nat) : Root :=
  { seq := (st.root.map (·.seq)).getD 0 + 1, genReady := ((readyNamed st).map (·.stripe.gen)).getD 0, ready := descOf (readyNamed st),
    next := descOf st.nextArea, ckptNew := ((st.ckpts.head?).map (·.header)).getD 0,
    ckptOld := (((st.ckpts.drop 1).head?).map (·.header)).getD 0, jrnHead := ((st.stripe.or st.oldStripes.getLast?).map (·.desc)).getD 0,
    bbt := bbt, areas := st.sealed.map fun a => (a.stripe.gen, a.stripe.desc) }
/-- Rotate the rings: the root, the descriptors it references and the bad-block table into new blocks; the anchor is due (R231). -/
def rotateRings (s0 : State) : State :=
  let s := dropOldRing s0
  match ringLun s false, ringLun s true with
  | some la, some lb =>
    let (ba, s1) := takeBlock la 0 s
    let (bb, s2) := takeBlock lb 0 s1
    let a := ppaOf la ba 0
    let b := ppaOf lb bb 0
    let st := s2.store
    let old := st.ring
    let ds := described st
    let (places, i) := newPlaces st.ncfg a ds 1
    let bbt := a + 2 ^ 8 * i
    let st1 := mapDescs (lookNat places) st
    let root := st.root.map fun _ => rootOf st1 bbt
    let prior : Option PriorRing := match old.prior with
      | some p => some { p with descs := p.descs.map fun d => (lookNat places d.1, d.2) }
      | none => if old.a = 0 then none else some ⟨old.a, old.b, old.index, old.epoch, old.roots, places.map fun d => (d.2, d.1)⟩
    let unused := if old.prior.isSome then [old.a, old.b] else []
    let r : Ring := ⟨a, b, i + bbtPages s2, old.epoch + 1, (root.map fun x => (0, x)).toList, prior, 0, true⟩
    let s3 : State := { s2 with store := { st1 with ring := r, root := root } }
    let pages := (match root with | some x => rootPage x | none => rep pageBytes 0)
      :: (described st1).flatMap (fun x => descriptorPages x.2.1 x.1 x.2.2.1 x.2.2.2) ++ bbtContent s2
    freeBlocks unused (programRing a b 0 pages s3)
  | _, _ => s
/-- Write pages into the rings, rotating first where they do not fit; the PPA of the first, 0 where there is no ring. -/
def ringPages (pages : List (List Byte)) (s : State) : Nat × State :=
  let n := pages.length
  let s1 := if s.store.ring.a = 0 ∨ s.store.ring.index + n > s.store.ncfg.ppb then rotateRings s else s
  let r := s1.store.ring
  if r.a = 0 then (0, s1)
  else (r.a + 2 ^ 8 * r.index, programRing r.a r.b r.index pages (onStore s1 fun st => { st with ring := { r with index := r.index + n } }))
/-- Write a root (R230). -/
def writeRootWith (bbt : Option Nat) (s : State) : State :=
  let s1 := if s.store.ring.a = 0 ∨ s.store.ring.index + 1 > s.store.ncfg.ppb then rotateRings s else s
  if s1.store.ring.a = 0 then s1 else
  let r := rootOf s1.store (bbt.getD ((s1.store.root.map (·.bbt)).getD 0))
  let i := s1.store.ring.index
  let (_, s2) := ringPages [rootPage r] s1
  onStore s2 fun st => { st with root := some r, ring := { st.ring with roots := st.ring.roots ++ [(i, r)] } }
def writeRoot (s : State) : State := writeRootWith none s
/-- The bad-block table has changed: it is written with a new root, at once or when a save is over (R230, R244). -/
def tableChanged (s : State) : State :=
  if s.store.root.isNone then s
  else if !nandOpen s then onStore s fun st => { st with tableDue := true }
  else
    let (p, s1) := ringPages (bbtContent s) s
    writeRootWith (some p) (onStore s1 fun st => { st with tableDue := false })
/-- Open a stripe on every LUN in service that has the blocks. -/
def newStripe (area : Bool) (home spare gen base prev : Nat) (s : State) : Stripe × State :=
  let order := rowLuns s (home + spare)
  let (bs, s1) := takeRows order (home + spare) s
  let x : Stripe := ⟨gen, 0, order, home, spare, bs, base, prev⟩
  let (a, b) := if area then sealPlaces s1.store.ncfg x else (0, 0)
  let (p, s2) := ringPages (descriptorPages area x a b) s1
  ({ x with desc := p }, s2)
/-! ## The journal (R232, R237, R247) -/
/-- Place a slot in the page being filled. -/
def placeSlot (x : Slot) (s : State) : State :=
  onStore s fun st => { st with filling := st.filling ++ [x], placed := st.placed + 1, fillAt := if st.filling = [] then s.now else st.fillAt }
/-- The generation a page issued now carries (R232). -/
def pageGen (st : Store) : Nat := match st.ready with | some a => a.stripe.gen | none => st.gen + 1
/-- How many of the slots go into the next page: at most 60, and none from a marker on that empties a segment whose
record stands before it in the page (log entry 47). -/
def pageSlots : List Slot → List Nat → Nat → Nat
  | [], _, n => n
  | x :: t, segs, n =>
    if n ≥ 60 then n else
    match x with
    | .line r _ => pageSlots t (segOf r.line :: segs) (n + 1)
    | .marker m =>
      if m.empties ∧ segs.any (fun g => m.first ≤ g ∧ g < m.first + m.count) then n else pageSlots t segs (n + 1)
/-- Make sure that a stripe has room for the next page; a new one names the newest before it (R237). -/
def needStripe (s : State) : State :=
  match s.store.stripe with
  | some x =>
    if s.store.jseq - x.base < stripePages s.store.ncfg x then s
    else
      let (y, s1) := newStripe false 1 0 (pageGen s.store) s.store.jseq x.desc s
      writeRoot (onStore s1 fun st => { st with stripe := some y, oldStripes := st.oldStripes ++ [x] })
  | none =>
    let (y, s1) := newStripe false 1 0 (pageGen s.store) s.store.jseq ((s.store.oldStripes.getLast?.map (·.desc)).getD 0) s
    writeRoot (onStore s1 fun st => { st with stripe := some y })
/-- The open stripe can take a page, or one can be opened. -/
def canJournal (s : State) : Bool :=
  (match s.store.stripe with | some x => decide (s.store.jseq - x.base < stripePages s.store.ncfg x) | none => false) || rowLuns s 1 ≠ []
/-- Issue a journal page of the slots `xs`, the first of them number `first`. -/
def journalPage (first : Nat) (xs : List Slot) (s : State) : State :=
  let s1 := needStripe s
  let st := s1.store
  let ppa := match st.stripe with | some x => stripePage st.ncfg x (st.jseq - x.base) | none => 0
  let pg : JPage := ⟨st.jseq, first, pageGen st, ppa, xs, false⟩
  checkSpace (nandOp .program (.journal pg.jseq) ppa (recordPage 2 s.slot pg.gen pg.jseq xs)
    (onStore s1 fun st => { st with journal := st.journal ++ [pg], jseq := st.jseq + 1 }))
/-- Issue one journal page of the slots that wait (R247). -/
def issuePage (s : State) : State :=
  if s.store.filling = [] ∨ !canJournal s then s else
  let st := s.store
  let n := pageSlots st.filling [] 0
  journalPage (st.placed - st.filling.length) (st.filling.take n)
    (onStore s fun st => { st with filling := st.filling.drop n, fillAt := s.now })
/-- Every slot numbered below `mark` is durable. -/
def durableTo (st : Store) (mark : Nat) : Bool :=
  (st.filling = [] || decide (st.placed - st.filling.length ≥ mark)) && (st.journal.all fun p => p.durable || decide (p.first ≥ mark))
/-- A seal whose records and marker are durable: the segment is SEALED, its lines CLEAN, and on a PRIMARY the change is queued with the
segment's lines (R95, R97, R127, R401). -/
def sealNow (g : Nat) (s : State) : State :=
  let e := s.seg g
  if !e.loading then s else
  let s1 := s.setSeg g { e with sealed := true, loading := false }
  -- the standby seals on its own (R407)
  dueSegment g 1 true ((s1.ret.lines.filter fun p => segOf p.1 = g ∧ p.2.state = .written).foldl
    (fun s p => s.setLine p.1 { s.lineAt p.1 with state := .clean }) s1)
/-- The records of a seal: one for each WRITTEN line of the segment (R95, R97). -/
def placeSealRecords (g : Nat) (s : State) : State :=
  ((s.ret.lines.filter fun p => segOf p.1 = g ∧ p.2.state = .written).map (·.1)).foldl
    (fun s l => let (v, p) := s.lineValue l; placeSlot (.line ⟨3, l, p, v⟩ (some (s.lineAt l).serial)) s) s
/-- The marker of a seal, placed once its records are durable (R97, R248). -/
def placeSealMarker (g : Nat) (s : State) : State :=
  placeSlot (.marker ⟨g, 1, { s.seg g with sealed := true, loading := false }, false, (s.store.placed, 1)⟩) s
/-- Seals under way whose slots so far are durable: the segments, and whether their markers are among the slots. -/
def sealsDone (s : State) : List (Nat × Bool) :=
  (([(0 : Fin 12), 1, 2, 3, 5].flatMap (cmdsOf s)).filterMap fun c => match c.phase with
    | .running (.sealing g m k) => if durableTo s.store m then some (g, k) else none
    | _ => none)
    ++ (s.mir.sealAck.filter fun a => durableTo s.store a.2.2.1).map fun a => (a.2.1, a.2.2.2)
/-- Seals whose records are durable go on to their markers. -/
def markSeals (s0 : State) : State :=
  let gs := ((sealsDone s0).filter fun x => !x.2).map (·.1)
  if gs = [] then s0 else
  let s := gs.dedup.foldl (fun s g => placeSealMarker g s) s0
  let n := s.store.placed
  let s1 := wake (fun w => match w with | .sealing g _ false => if gs.contains g then .goWith (.sealing g n true) else .go | _ => .go) s
  onMir s1 fun m => { m with sealAck := m.sealAck.map fun a => if !a.2.2.2 && gs.contains a.2.1 then (a.1, a.2.1, n, true) else a }
/-- The highest PSEQ a STANDBY may acknowledge: below any packet whose seal is not durable yet (R407). -/
def ackable (s : State) : Nat := (s.mir.sealAck.map fun a => a.1 - 1).foldl min s.mir.pseq
/-- Seals that a mirror packet asked for: sealed once durable, and then acknowledged. -/
def wakeSeals (s : State) : State :=
  let (done, rest) := s.mir.sealAck.partition fun a => a.2.2.2 && durableTo s.store a.2.2.1
  if done = [] then s else
  let s1 := onMir s fun m => { m with sealAck := rest }
  if s1.mir.role = .standby then sendMir (.ack (ackable s1) s1.mir.synced) s1 else s1
/-- A segment holds poison. -/
def segPoisoned (s : State) (g : Nat) : Bool := s.ret.lines.any fun p => segOf p.1 = g && decide ((s.lineValue p.1).2 ≠ 0)
/-- Commands that wait for slots to be durable; a seal whose CRC met poison ends `ST_POISONED` (R330). -/
def wakeNand (s0 : State) : State :=
  let s := markSeals s0
  let s1 := wakeSeals (((sealsDone s).filter (·.2)).foldl (fun s g => sealNow g.1 s) s)
  wake (fun w => match w with
    | .nand m => if durableTo s1.store m then .done St.ok none else .go
    | .sealing g m true => if durableTo s1.store m then .done (if segPoisoned s1 g then St.poisoned else St.ok) none else .go
    | _ => .go) s1
/-- A segment's marker for a run, `EMPTIES` as R248 says: a change of one marker. -/
def placeMarker (first count : Nat) (empties : Bool) (s : State) : State :=
  placeSlot (.marker ⟨first, count, s.seg first, empties, (s.store.placed, 1)⟩) s
/-- Runs of equal entries from a list of entries that starts at segment `g`. -/
def segRuns (g : Nat) : List Seg → List (Nat × Nat × Seg)
  | [] => []
  | e :: t =>
    match segRuns (g + 1) t with
    | (f, n, x) :: r => if x = e ∧ f = g + 1 then (g, n + 1, e) :: r else (g, 1, e) :: (f, n, x) :: r
    | [] => [(g, 1, e)]
/-- The runs of equal entries that `count` segments from `first` on make. -/
def runsOf (s : State) (first count : Nat) : List (Nat × Nat × Seg) := segRuns first ((List.range count).map fun i => s.seg (first + i))
/-- The markers of a change that leaves the segments' entries apart: one for each run of equal ones, all of one change, which a
restore finds whole or not at all (R85; log entry 157). -/
def placeRuns (first count : Nat) (s : State) : State :=
  let rs := runsOf s first count
  rs.foldl (fun t r => placeSlot (.marker ⟨r.1, r.2.1, r.2.2, false, (s.store.placed, rs.length)⟩) t) s
/-- Let a command complete when everything placed so far is durable. -/
def untilDurable (d : Desc) (res : Nat) (s : State) : State := running d (.nand s.store.placed) res s
/-- No line of a segment is cleaned whose marker is not durable yet (R246). -/
def markerPending (st : Store) (seg : Nat) : Bool :=
  let hit (x : Slot) : Bool := match x with | .marker m => decide (m.first ≤ seg) && decide (seg < m.first + m.count) | .line _ _ => false
  st.filling.any hit || st.journal.any fun p => !p.durable && p.slots.any hit
/-! ## Retiring blocks and LUNs (R244, R245) -/
/-- A record of the line stands in a page that is not durable yet. -/
def inFlight (st : Store) (l : Nat) : Bool :=
  let hit (x : Slot) : Bool := match x with | .line r _ => r.line == l | .marker _ => false
  st.filling.any hit || st.journal.any fun p => !p.durable && p.slots.any hit
/-- A marker that empties the segment is on its way. -/
def voidPending (st : Store) (seg : Nat) : Bool :=
  let hit (x : Slot) : Bool := match x with | .marker m => m.empties && markerHits m seg | .line _ _ => false
  st.filling.any hit || st.journal.any fun p => !p.durable && p.slots.any hit
/-- Journal a durable record again, unless a newer one of its line, or a marker that voids it, is on its way. -/
def rejournal (r : Rec) (s : State) : State :=
  if inFlight s.store r.line ∨ voidPending s.store (segOf r.line) then s else placeSlot (.line r none) s
/-- Rewrite elsewhere the live records, and the markers that a checkpoint does not include yet, of the pages that satisfy `f`. -/
def moveOff (f : Nat → Bool) (s : State) : State :=
  let k := ((s.store.ckpts.head?).map (·.key)).getD Key.zero
  let ms := (durablePages s.store).flatMap fun p => if f p.ppa && keyLt k (jkey p) then p.slots.filter fun x => (slotMarker x).isSome else []
  let s1 := (liveOn s.store f).foldl (fun s x => if isLost s.store x then s else rejournal x.record s) s
  ms.foldl (fun s x => placeSlot x s) s1
/-- The open stripe takes no further page. -/
def closeStripe (s : State) : State := onStore s fun st => { st with oldStripes := st.oldStripes ++ st.stripe.toList, stripe := none }
def retireEvent (k cause : Nat) (s : State) : State := s.raise 0x0711 (ppaChan k) [(16, k), (20, cause)]
/-- A LUN that has lost a tenth of its good blocks leaves service, and its live data is moved off it (R244). -/
def checkLun (lun : Nat) (s : State) : State :=
  match s.store.formatGood.find? (·.1 = lun) with
  | none => s
  | some g =>
    let n := goodBlocks s.store lun
    let c : Fin 16 := Fin.ofNat 16 (lun % 16)
    let i := 2 * (lun / 16 % 4) + lun / 64
    if n * 10 < g.2 * 9 ∧ s.store.ch[c].lunSvc.getLsbD i then
      closeStripe (moveOff (fun p => p % 128 == lun) ((onStore s fun st => { st with ch := vmod st.ch c fun x => { x with lunSvc := x.lunSvc &&& ~~~(BitVec.ofNat 8 (2 ^ i)) } }).raise
        0x0712 c.val [(16, lun / 16 % 4), (17, lun / 64), (18, n)]))
    else s
/-- A block is retired: cause 1 erase, 2 program, 3 cycles. Its live records are rewritten elsewhere, an open journal stripe that it is
part of takes no further page, and the table is updated; other structures that lie in it follow (R244). -/
def retireBlock (k cause : Nat) (s : State) : State :=
  if isBad s.store k then s
  else
    let s1 := retireEvent k cause (setBlk k (fun b => { b with bad := true, held := false }) s)
    let s2 := moveOff (fun p => blockOf p == k) s1
    let open_ := match s2.store.stripe with | some x => (stripeBlocks s2.store.ncfg.planes x).contains k | none => false
    let s3 := if open_ then closeStripe s2 else s2
    let s4 := if nandOpen s3 ∧ (s3.store.ring.a = k ∨ s3.store.ring.b = k) then rotateRings s3 else s3
    checkSpace (checkCapacity (checkLun (k % 128) (tableChanged s4)))
/-- A block's erase count rises to `n`: at nine tenths of CYCLES it is reported (R245). -/
def noteWear (k n : Nat) (s : State) : State :=
  let cy := s.store.ncfg.cycles
  if n * 10 > cy * 9 ∧ (n - 1) * 10 ≤ cy * 9 then s.raise 0x0714 (ppaChan k) [(16, k), (20, n)] else s
/-- A block has been erased, and returns to the pool unless a structure goes on holding it (R245, R250). -/
def erased_ (keep : Bool) (k : Nat) (s : State) : State :=
  let b := blkAt s.store k
  let n := blkErases s.store k b + 1
  let s1 := onStore (setBlk k (fun b => { b with held := b.held && keep, erases := b.erases + 1, cut := false }) s) fun st =>
    { st with badWords := st.badWords.filter fun w => blockOf w.1 ≠ k }
  let s2 := noteWear k n s1
  if n ≥ 2 * s.store.ncfg.cycles then retireBlock k 3 s2 else s2
/-! ## Building and filling lines (R210, R214, R215) -/
def State.unbuilt (s : State) (seg : Nat) : Bool := s.slu.unbuilt.contains seg
/-- Build a segment's line metadata from its presence maps. -/
def buildSegment (seg : Nat) (s : State) : State :=
  if !s.unbuilt seg then s else
  let s1 := onSlu s fun x => { x with unbuilt := x.unbuilt.filter (· ≠ seg) }
  (presentLines s.store seg).foldl (fun s l => s.setLine l { Line.never with state := .unrestored }) s1
/-- Bytes that no part of the spec gives: a free value, fresh at each use. -/
def rawBytes (s : State) : List Byte := (List.range 256).map (Config.rawDram s.free)
/-- `SLU_RECORD_BAD`, at most one in 1 ms (R219). -/
def noteBadRecord (s : State) : State :=
  let n := s.slu.recordBad + 1
  if s.mayRaise 0x0615 0 then (onSlu s fun x => { x with recordBad := 0 }).raiseLim 0x0615 0 0 [(16, n)]
  else onSlu s fun x => { x with recordBad := n }
/-- The writes of a fill enter the fabric on FP19, those of a demand fault at its highest urgency (R213, R214, R300). -/
def fillRequest (fault : Bool) (line : Nat) (s : State) : State :=
  (List.range 4).foldl (fun s g => requestAs fault 19 line g true fullMask false s) s
/-- Fill an UNRESTORED line with its durable value; a record lost or missing leaves it poisoned (R215, R327). -/
def fillLine (fault : Bool) (line : Nat) (bad : Bool) (s : State) : State :=
  let x := s.lineAt line
  let clean (p : BitVec 4) : Line := { x with state := .clean, stamp := 0, flip := false, baseZero := false, valid := 15, poison := p }
  let lost (s : State) : State :=
    noteBadRecord (poisonMade line 2 15 ((({ s with free := s.free + 1 } : State).setLine line (clean 15)).setHome line (rawBytes s)))
  match durableOf s.store line, bad with
  | some x, false =>
    if isLost s.store x then fillRequest fault line (lost s)
    else fillRequest fault line ((s.setLine line (clean x.record.poison)).setHome line x.record.value)
  | _, _ => fillRequest fault line (lost s)
/-- A line that firmware reads is brought in first (R214, R261). -/
def faultIn (line : Nat) (s : State) : State :=
  let s1 := buildSegment (segOf line) s
  if (s1.eff line).1 = .unrestored then fillLine true line false s1 else s1
/-- What a line's NAND value reads as, for those who read it and leave the line as it is (R402). -/
def nandValue (s : State) (line : Nat) : List Byte × BitVec 4 :=
  match durableOf s.store line with
  | some x => if isLost s.store x then (rawBytes s, 15) else (x.record.value, x.record.poison)
  | none => (rawBytes s, 15)
/-- A line's value as the last close committed it, wherever R121 places it: of an OPEN line, zero or its NAND value (R86, R402). -/
def committedNow (s : State) (l : Nat) : List Byte × BitVec 4 :=
  match (s.eff l).1 with
  | .opened => if (s.lineAt l).baseZero then (rep 256 0, 0) else nandValue s l
  | _ => s.committedValue l
end Sys2Proof.Machine
end

