-- ==== Sys2Proof/Machine/WeirOps.lean ====
section
/-! DEFINITION. The weir's decisions (R159–R170): admission, shortfall and dryness, levels, and what every change of the
count sets going. -/
namespace Sys2Proof.Machine
/-- The highest epoch number (R115). -/
def terminalEpoch : Nat := 0xFFFFFFFFFFFF
def softActive (s : State) : Bool := decide (s.ret.weir.level.toNat ≥ 2)
/-- Class caps in percent (R162). -/
def capPct (k : PClass) (panic : Bool) : Nat :=
  match k with
  | .host => 95 | .conf => 97 | .mirror => if panic then 100 else 99 | .scan => 100 | .mgmt => 100
def capLines (s : State) (k : PClass) (panic : Bool) : Nat := s.ret.weir.millpond * capPct k panic / 100
/-- What `n` more lines of a class draw on the shared pool (R161). -/
def extraOf (use res n : Nat) : Nat := if use + n ≤ res then 0 else if use ≥ res then n else use + n - res
/-- The three parts of a shortfall (R167): millpond, class cap, shared pool; a part is 0 where its test passes. -/
structure Short where
  pond : Nat
  cap  : Nat
  pool : Nat
deriving DecidableEq, Repr
def shortfall (s : State) (k : PClass) (panic : Bool) (n : Nat) : Short :=
  let c := s.count
  let ext := extraOf (s.use k) (s.resLines k) n
  { pond := if n = 0 then 0 else c + n - s.ret.weir.millpond,
    cap := if ext = 0 then 0 else c + n - capLines s k panic,
    pool := if ext = 0 then 0 else s.sharedUsed + ext - s.shared }
def Short.none (x : Short) : Bool := x.pond == 0 && x.cap == 0 && x.pool == 0
def portPanic (s : State) (fp : Fin 23) : Bool := s.fab.port[fp].panic
/-- The decision of R161 for a write of `n` charged lines on port `fp`. -/
def admits (s : State) (fp : Fin 23) (n : Nat) : Bool :=
  match portClass fp with
  | none => true
  | some k => (shortfall s k (portPanic s fp) n).none && !(decide (k = .host) && softActive s && decide (s.ret.weir.softTokens / 256 < n))
/-- Charge the soft bucket for an admitted host write (R161, R166). -/
def drawSoft (fp : Fin 23) (n : Nat) (s : State) : State :=
  if fp = 0 ∧ softActive s then s.onWeir fun w => { w with softTokens := w.softTokens - 256 * n } else s
/-- A cleanable line (R168). -/
def cleanable (s : State) (l : Nat) : Bool :=
  match (s.lineSeg l).cls, (s.eff l).1 with
  | .epoch, .committed => !pinned s l
  | .latest, .dirty => true
  | _, _ => false
def cleanables (s : State) : List (Nat × Line) := s.ret.lines.filter fun p => cleanable s p.1
/-- Cleanable lines charged to a class whose use exceeds its reservation (R167). -/
def isOverRes (s : State) (k : PClass) : Bool := decide (s.use k > s.resLines k)
def cleanOver (s : State) : List (Nat × Line) :=
  (cleanables s).filter fun p => match p.2.charge with | some k => isOverRes s k | none => false
/-- Lines of a write that carry a charge: those in an EPOCH or a LATEST segment (R150). -/
def chargedClass (c : RClass) : Bool := match c with | .epoch | .latest => true | _ => false
/-- Lines that `len` bytes from `addr` on touch. -/
def linesFrom (addr len : Nat) : List Nat :=
  if len = 0 then [] else (List.range ((addr + len - 1) / 256 + 1 - addr / 256)).map (addr / 256 + ·)
/-- The charge of a write (R150). -/
def chargeOf (s : State) (addr len : Nat) : Nat :=
  ((linesFrom addr len).filter fun l => chargedClass (s.lineSeg l).cls).length
/-- Local address of a held write, as it translates now (R150). -/
def heldAddr (s : State) (h : Held) : Nat := match h.bar with | some (off, _) => windowAddr s off % 2 ^ 38 | none => h.addr
/-- The held host write, and its shortfall. -/
def heldShort (s : State) : Option Short :=
  match s.ret.weir.holdSince, s.ret.held.find? (·.fp = 0) with
  | some _, some h => some (shortfall s .host false (chargeOf s (heldAddr s h) h.bytes.length))
  | _, _ => none
/-- The hold is dry: a part of its shortfall exceeds the cleanable lines that relieve it (R168). The part and those lines, of the first dry
part in the order millpond, class cap, shared pool (DESIGN CHOICE, log entry 187: the manual does not say which part the event reports when
several are dry). -/
def dryPart (s : State) : Option (Nat × Nat) :=
  match heldShort s with
  | none => none
  | some x =>
    let c := (cleanables s).length
    let o := (cleanOver s).length
    if x.pond > c then some (x.pond, c) else if x.cap > c then some (x.cap, c) else if x.pool > o then some (x.pool, o) else none
def isDry (s : State) : Bool := (dryPart s).isSome
/-- Writes that wait elsewhere than at a port's staging: entries of mirror packets, the line a scan pass is to write, and WR
frames held on their links; each with its fabric port and charge. -/
def otherWaiting (s : State) : List (Fin 23 × Nat) :=
  (s.mir.rx.flatMap fun p => p.waiting.map fun e => (e.1, 1))
    ++ (match s.scan.running with | some p => (match p.pend with | some (_, n :: _) => [(21, chargeOf s (n.1 * 256) 256)] | _ => []) | none => [])
    ++ (confLinks.filterMap fun l => match (linkOf s l).hold.head? with
        | some (_, .wr a bs _ _) => some (fabricOf l, chargeOf s (a % 2 ^ 38) bs.length)
        | _ => none)
/-- A write of some class waits under R161. -/
def classHeld (s : State) (k : PClass) : Bool :=
  if k = .host then s.ret.weir.holdSince.isSome
  else (s.ret.held.any fun h => portClass h.fp = some k && !admits s h.fp (chargeOf s h.addr h.bytes.length))
    || (otherWaiting s).any fun w => portClass w.1 = some k && !admits s w.1 w.2
/-- The end of a host hold: its length is noted (R165, R167). -/
def endHold (s : State) : State :=
  match s.ret.weir.holdSince with
  | none => s
  | some t => s.onWeir fun w => { w with holdSince := none, holdMax := max w.holdMax (sat 32 (toUs (s.now - t))) }
/-! ## Levels (R159) -/
/-- The level at a count and a millpond, coming from level `cur`. -/
def levelOf (count pond cur : Nat) : Nat :=
  if count > pond then 4
  else
    let f := if pond = 0 then 100 * 1 else count * 100
    let p := if pond = 0 then 1 else pond
    let at_ (l enter leave : Nat) : Bool := decide (f ≥ enter * p) || (decide (cur ≥ l) && decide (f ≥ leave * p))
    if at_ 3 95 90 then 3 else if at_ 2 75 70 then 2 else if at_ 1 50 45 then 1 else 0
/-- Contexts whose open lines first exceed EPOCH_WARN percent of the millpond in their epoch (R169). -/
def warnEpochs (s : State) : State :=
  (List.range 16).foldl (fun s i =>
    let c : Fin 16 := Fin.ofNat 16 i
    let x := s.ctxAt c
    if x.warned then s else
    let n := s.openLines c
    if n * 100 > s.ret.weir.epochWarn * s.ret.weir.millpond then
      (s.onCtx c fun x => { x with warned := true }).raise 0x0513 i [(16, x.epoch), (24, n)]
    else s) s
/-- The level follows the count and the millpond; its change is reported, OVER with its own event, and throttling starts
with a full bucket (R159, R166, R170). -/
def relevel (s : State) : State :=
  let old := s.ret.weir.level.toNat
  let c := s.count
  let p := s.ret.weir.millpond
  let n := levelOf c p old
  if n = old then s else
  let s1 := s.onWeir fun w =>
    { w with level := BitVec.ofNat 3 n, softTokens := if old < 2 ∧ n ≥ 2 then 65536 else w.softTokens }
  let s2 := s1.raise 0x0510 0 [(16, old), (17, n), (20, p / 4096)]
  if n = 4 then s2.raise 0x0511 0 [(16, c), (20, p)] else s2
def onConf (s : State) (f : Conf → Conf) : State := { s with conf := f s.conf }
/-- Home slot of a context (R425). -/
def homeSlot (s : State) (c : Fin 16) : Nat := bits s.conf.home (2 * c) 2
/-- A member that is preparing sends PREPARED once every write it accepted earlier is applied (R426). -/
def tellPrepared (s : State) : State :=
  (List.range 16).foldl (fun s i =>
    let c : Fin 16 := Fin.ofNat 16 i
    let k := s.conf.prep[c]
    if k.phase = 1 ∧ homeSlot s c ≠ s.slot ∧ !(s.ret.writes.any fun p => p.epoch = some (c, k.epoch)) then
      sendOn (portTo s (homeSlot s c)) (.prepared c k.epoch) (onConf s fun x => { x with prep := vmod x.prep c fun k => { k with phase := 2 } })
    else s) s
/-- What follows every change of the lines or of the accepted writes; a close pins lines, and the pins are held to their limit
(R177). -/
def settleWeir (s : State) : State := tellPrepared (relevel (warnEpochs (checkLag s)))
end Sys2Proof.Machine
end

