-- ==== Sys2Proof/Machine/Lines.lean ====
section
/-! DEFINITION. Writes into working memory from acceptance to the line-state machine (R103, R121–R131, R150), the copier, demand
faults and reads. -/
namespace Sys2Proof.Machine
def onRet (s : State) (f : Ret → Ret) : State := { s with ret := f s.ret }
def localOf (addr : Nat) : Nat := addr % 2 ^ 38
/-- The local line of a byte offset in a sequencer's parameter window (R386). -/
def windowLine (q : Seqr) (off : Nat) : Nat := localOf (q.paramBase.toNat + off) / 256
def State.here (s : State) (addr : Nat) : Bool := decide (addr / 2 ^ 38 = s.slot) && s.segExists (segOf (lineOf (localOf addr)))
/-! ## Lines that a scan pass or an output capture still has to read (R264, R364) -/
def passes (s : State) : List Pass := s.scan.running.toList ++ s.scan.queue
/-- Line `l` is the `i`-th line of a region at working-memory address `base`, and `f i`. -/
def lineIn (base l : Nat) (f : Nat → Bool) : Bool := let b := lineOf (localOf base); decide (b ≤ l) && f (l - b)
def timerWaits (p : Pass) (l : Nat) : Bool := lineIn p.layout.timerBase l fun i => p.todo.contains (.timer i)
/-- Accesses wait for passes only while scan services are RUNNING (R282). -/
def passHolds (s : State) (f : Pass → Bool) : Bool := s.isRunning .scan 0 && (passes s).any f
/-- Planes of a layout with their numbers. -/
def planesOf (y : Layout) : List (Plane × Nat) := y.planes.zipIdx
def scanHoldsWrite (s : State) (l : Nat) : Bool :=
  passHolds s fun p => timerWaits p l || (planesOf p.layout).any fun q => lineIn q.1.src l fun i => p.todo.contains (.edge q.2 i)
def isEdgeOf (k : Nat) : Visit → Bool
  | .edge j _ => j == k
  | .timer _ => false
def scanHoldsRead (s : State) (l : Nat) : Bool :=
  passHolds s fun p => timerWaits p l || (planesOf p.layout).any fun q =>
    p.todo.any (isEdgeOf q.2) && (lineIn q.1.rise l (decide <| · < q.1.lines) || lineIn q.1.fall l (decide <| · < q.1.lines)
      || lineIn q.1.prev l (decide <| · < q.1.lines))
/-- First line of a module's output block (R362). -/
def outBlock (t : Trib) (a : Nat) : Nat := lineOf (localOf t.cfg.outBase.toNat) + a * t.cfg.outStride
/-- Captures that have still to read line `l`. -/
def capturesOn (s : State) (l : Nat) : List Capture :=
  (List.range 12).flatMap fun n =>
    let t := s.trib[Fin.ofNat 12 n]
    t.captures.filter fun c => decide (outBlock t c.addr ≤ l) && decide (l < outBlock t c.addr + t.cfg.outStride)
/-! ## Acceptance (R105, R111, R119, R150) -/
/-- A write's bytes line by line. -/
def splitWrite (addr : Nat) (bytes : List WByte) : List (Nat × List WByte) :=
  let pad := List.replicate (addr % 256) none ++ bytes
  (List.range ((pad.length + 255) / 256)).map fun i =>
    let b := (pad.drop (256 * i)).take 256
    (addr / 256 + i, b ++ List.replicate (256 - b.length) none)
/-- Highest module address of a personality (R343). -/
def topAddr (t : Trib) : Nat := if t.cfg.pers = 0 then 62 else 254
/-- A write publishes an output block: it names the block's PUB_SEQ (R363). -/
def publishes (s : State) (n : Nat) (l : Nat) (bs : List WByte) : Option Nat :=
  let t := s.trib[Fin.ofNat 12 n]
  let b := lineOf (localOf t.cfg.outBase.toNat)
  if s.lifeOf .trib n ≠ .off ∧ b < l ∧ (l - b) % t.cfg.outStride = 0 ∧ (bs.take 4).any (·.isSome) ∧ (l - b) / t.cfg.outStride ≤ topAddr t then
    some ((l - b) / t.cfg.outStride) else none
def notePublish (c : Fin 16) (e : Nat) (l : Nat) (bs : List WByte) (s : State) : State :=
  (List.range 12).foldl (fun s n =>
    match publishes s n l bs with
    | none => s
    | some a =>
      let k : Capture := ⟨a, c, e⟩
      { s with trib := vmod s.trib (Fin.ofNat 12 n) fun t => if t.publish.contains k then t else { t with publish := t.publish ++ [k] } }) s
/-- What becomes of a write that reaches the retention engine. -/
inductive Taken
  | accepted (s : State)
  /-- held: `true` where the weir does not admit it (R161) -/
  | held (weir : Bool)
  /-- dropped or discarded, with no effect on any line -/
  | dropped (s : State)
/-- Writes of a port that wait for a copy or a demand fault: at most 32 (R128). -/
def waitingOn (s : State) (fp : Fin 23) : Nat := (s.ret.writes.filter fun p => p.fp = fp ∧ (p.wait = .copy ∨ p.wait = .fault)).length
/-- A context whose EPOCH writes are held: its close is deferred (R119), or it is between D and C (R426). -/
def ctxHolds (s : State) (c : Fin 16) : Bool := closeHolds (s.ctxAt c) || s.conf.prep[c].phase != 0
/-- Add the pieces of an accepted write. -/
def addPieces (fp : Fin 23) (e : Option (Fin 16 × Nat)) (ch : Option PClass) (poison : Option Nat) (priv : Bool)
    (ps : List (Nat × List WByte)) (s : State) : State :=
  ps.foldl (fun s p =>
    if p.2.all (·.isNone) then s else
    let s1 := onRet s fun r =>
      { r with writes := r.writes ++ [⟨fp, p.1, p.2, if poison.isSome then 15 else 0, poison.getD 0, e, ch, .ready, s.now, r.order, priv⟩],
               order := r.order + 1 }
    match e with
    | some (c, n) => notePublish c n p.1 p.2 s1
    | none => s1) s
/-- A write to a CONSTANT segment is dropped and counted (R536). -/
def dropConstant (s : State) : State :=
  onRet s fun r => { r with sum := { r.sum with constDropped := sat 32 (r.sum.constDropped + 1) } }
/-- Take one write of port `fp` at local address `a`: the class is that of the segment now (R92, R150). `poison` is the source of R327
that the write poisons from, 0 where it only carries poison. -/
def takeWrite (fp : Fin 23) (a : Nat) (bytes : List WByte) (poison : Option Nat) (priv : Bool) (s : State) : Taken :=
  let g := s.lineSeg (lineOf a)
  let x := s.ctxAt g.owner
  let ep := decide (g.cls = .epoch)
  if g.cls = .constant ∧ !priv then
    .dropped (dropConstant s)
  else if ep ∧ (x.mode = .abandoned ∨ x.epoch = terminalEpoch) then
    .dropped (s.onCtx g.owner fun x => { x with dropped := sat 32 (x.dropped + 1) })
  else if waitingOn s fp ≥ 32 ∨ (ep ∧ ctxHolds s g.owner) then .held false
  else
    let n := if chargedClass g.cls then chargeOf s a bytes.length else 0
    if !admits s fp n then .held true
    else
      .accepted (addPieces fp (if ep then some (g.owner, x.epoch) else none) (if chargedClass g.cls then portClass fp else none) poison priv
        (splitWrite a bytes) (drawSoft fp n s))
/-- A write that is not taken waits at its port; a weir hold of the host begins with the first cycle of it (R165). -/
def holdWrite (h : Held) (weir : Bool) (s : State) : State :=
  let s1 := onRet s fun r => { r with held := r.held ++ [h] }
  if h.fp ≠ 0 then s1
  else
    let s2 : State := { s1 with host := { s1.host with heldHost := true } }
    if weir ∧ s.ret.weir.holdSince.isNone then
      s2.onWeir fun w => { w with holdSince := some s.now, holdCount := sat 32 (w.holdCount + 1), dryRaised := false }
    else s2
/-- A write by firmware that the weir does not admit is not made, and is counted (R164). -/
def refuseMgmt (s : State) : State := s.onWeir fun w => { w with mgmtRefused := sat 32 (w.mgmtRefused + 1) }
/-- The command that firmware made a write for ends with a status (R164, R536). -/
def endFirmware (cmd : Option (Fin 12 × BitVec 16)) (st : Nat) (s : State) : State :=
  match cmd with
  | some (port, tag) => finishTag port tag st s
  | none => s
/-- A held write of firmware that has been dropped: where it reached a CONSTANT segment its command ends `ST_SEG_CLASS` (R536). -/
def droppedWrite (cmd : Option (Fin 12 × BitVec 16)) (const : Bool) (s : State) : State := if const then endFirmware cmd St.segClass s else s
/-- A write reaches the retention engine on a port: taken, dropped, or held at the port. One of firmware that the weir does not admit
is not made, and the command it is made for ends `ST_WEIR_HELD` (R164); one that reaches a CONSTANT segment ends it `ST_SEG_CLASS`
(R536). -/
def offerAs (cmd : Option (Fin 12 × BitVec 16)) (fp : Fin 23) (a : Nat) (bytes : List WByte) (poison : Option Nat) (s : State) : State :=
  let h : Held := ⟨fp, a, bytes, poison, s.now, s.ret.order, cmd, none⟩
  if s.ret.held.any (·.fp = fp) then holdWrite h false s
  else
    match takeWrite fp a bytes poison false s with
    | .accepted s' => s'
    | .dropped s' => droppedWrite cmd (decide ((s.lineSeg (lineOf a)).cls = .constant)) s'
    | .held weir => if weir ∧ fp = 1 then endFirmware cmd St.weirHeld (refuseMgmt s) else holdWrite h weir s
def offerWrite (fp : Fin 23) (a : Nat) (bytes : List WByte) (poison : Option Nat) (s : State) : State := offerAs none fp a bytes poison s
/-- Firmware writes on FP1 for the command of a TAG. -/
def firmwareWrite (port : Fin 12) (tag : BitVec 16) (a : Nat) (bytes : List WByte) (poison : Option Nat) (s : State) : State :=
  offerAs (some (port, tag)) 1 a bytes poison s
/-- Tributary ports write VOLATILE segments only, and the engines' ports FP19, FP20 and FP22 make no such writes (R84,
R123); what any of them sends to a CONSTANT segment is dropped there (R536). -/
def portMayWrite (s : State) (fp : Fin 23) (a : Nat) : Bool :=
  let k := (s.lineSeg (lineOf a)).cls
  if fp = 19 ∨ fp = 20 ∨ fp = 22 then k = .constant
  else if 2 ≤ fp.val ∧ fp.val ≤ 13 then k = .volatile || k = .constant else true
/-- The on-die buffer that holds a write's data shows errors as the data is read out: corrected words are counted, and where a word does
not correct the write carries poison of source 5 (R320, R327, R334). -/
def bufferErrors (buf : BufRead) (s : State) : State :=
  let s1 := bucketAddN 30 buf.fixed { s with err := { s.err with sramCe := sat 32 (s.err.sramCe + buf.fixed) } }
  if buf.bad then sramUncorrectable 2 0x0A s1 else s1
def bufPoison (buf : BufRead) : Option Nat := if buf.bad then some 5 else none
/-- `FABRIC_WRITE_ACCEPT` at local address `a`. -/
def fabricWriteAccept (who : Writer) (a : Nat) (bytes : List WByte) (buf : BufRead) (s0 : State) : State :=
  if s0.slu.phase ≠ .idle then s0 else
  let s := bufferErrors buf s0
  match who with
  | .port fp => if !portMayWrite s fp a then s else settleWeir (offerWrite fp a bytes (bufPoison buf) s)
  | .firmware port tag => settleWeir (firmwareWrite port tag a bytes (bufPoison buf) s)
/-! ## Storing a piece -/
def touched (bs : List WByte) : BitVec 4 :=
  BitVec.ofNat 4 (((List.range 4).map fun g => 2 ^ g * b2n (((bs.drop (64 * g)).take 64).any (·.isSome))).sum)
def covered (bs : List WByte) : BitVec 4 :=
  BitVec.ofNat 4 (((List.range 4).map fun g => 2 ^ g * b2n (((bs.drop (64 * g)).take 64).all (·.isSome))).sum)
/-- A full write of one line (R122). -/
def isFull (bs : List WByte) : Bool := bs.length == 256 && bs.all (·.isSome)
def merge (old : List Byte) (new : List WByte) : List Byte := List.zipWith (fun o n => n.getD o) old new
/-- Poison of a location after a write (R328, R331): wholly covered granules clear, a poisoned write poisons. -/
def newPoison (old : BitVec 4) (p : Piece) : BitVec 4 :=
  (old &&& ~~~(covered p.bytes)) ||| (p.poison &&& touched p.bytes)
def noteClear (old new : BitVec 4) (s : State) : State := poisonCleared (maskCount (old &&& ~~~new)) s
/-- Poison that a piece creates; what it only carries is no creation (R327, R329). -/
def notePoisoned (p : Piece) (s : State) : State := if p.src = 0 then s else poisonMade p.line p.src (p.poison &&& touched p.bytes) s
/-- The write requests of a piece at the line `place` of its location, over the granules `v` that hold data: any other granule is written
as one full burst, with no merge read (R322). -/
def requestPiece (p : Piece) (place : Nat) (v : BitVec 4) (s : State) : State :=
  (maskList (touched p.bytes).toNat 4).foldl (fun s g =>
    request p.fp place g true (if v.getLsbD g then granMask p.bytes g else fullMask) (p.poison.getLsbD g) s) s
/-- Store a piece at home. `fresh`: what the line held is void, and reads zero where this write does not reach (R87, R322). -/
def storeHome (p : Piece) (fresh : Bool) (s : State) : State :=
  let x := s.lineAt p.line
  let v := if fresh then 0 else x.valid
  let po := if fresh then 0 else x.poison
  let po' := newPoison po p
  let s1 := s.setLine p.line { x with valid := if isFull p.bytes then 15 else v ||| touched p.bytes, poison := po' }
  let s2 := s1.setHome p.line (merge (validBytes v (s.homeBytes p.line)) p.bytes)
  requestPiece p p.line v (notePoisoned p (noteClear po po' s2))
/-- Store a piece in the shadow line; `fresh` for one that is to be allocated. -/
def storeShadow (p : Piece) (fresh : Bool) (s0 : State) : State :=
  let s := if fresh then s0.allocShadow p.line else s0
  let x := s.lineAt p.line
  let po := if fresh then 0 else x.shPoison
  let po' := newPoison po p
  let s1 := (s.setLine p.line { x with shPoison := po' }).setShadow p.line (merge (s.shadowBytes p.line) p.bytes)
  requestPiece p (s.shadowPlace p.line) 15 (notePoisoned p (noteClear po po' s1))
/-- The copier's two moves, with its reads and writes on FP22 (R294, R299); a copy carries its poison (R131). -/
def copyToShadow (l : Nat) (s0 : State) : State :=
  let s := s0.allocShadow l
  let x := s.lineAt l
  requestWrite 22 (s.shadowPlace l) x.poison (requestRead 22 l x.valid
    ((s.setLine l { x with shPoison := x.poison }).setShadow l (validBytes x.valid (s.homeBytes l))))
def copyHome (l : Nat) (s : State) : State :=
  let x := s.lineAt l
  requestWrite 22 l x.shPoison (requestRead 22 (s.shadowPlace l) 15
    ((s.setLine l { x with poison := x.shPoison, valid := 15 }).setHome l (s.shadowBytes l)))
/-! ## The line-state machine (R123, R126, R127) -/
/-- A piece whose epoch was closed before it is applied (R123 last paragraph, R135, R138). -/
def isLate (s : State) (p : Piece) : Bool := match p.epoch with | some (c, e) => decide (e ≠ (s.ctxAt c).epoch) | none => false
/-- Leave line `l` in a state, as the write of piece `p` makes it. -/
def leave (p : Piece) (st : LState) (flip bz : Bool) (stamp : BitVec 8) (s : State) : State :=
  let x := s.lineAt p.line
  let g := s.lineSeg p.line
  let was := s.countsLine p.line
  let late := isLate s p
  let n := (s.ctxAt g.owner).closes
  let s1 := onRet s fun r => { r with serial := r.serial + 1 }
  s1.setLine p.line
    { x with state := st, flip := flip, baseZero := bz, stamp := stamp,
             charge := if counts g.cls st then (if was then x.charge else p.charge) else none,
             serial := s.ret.serial + 1, closeNo := if late then n - 1 else n, writtenAt := s.now }
/-- Remember the committed value that a first write of the epoch moves aside (R124). -/
def keepBase (l : Nat) (s : State) : State :=
  let x := s.lineAt l
  s.setLine l { x with base := x.serial, baseClose := x.closeNo }
def stampOf (s : State) (p : Piece) : BitVec 8 := match p.epoch with | some (c, _) => BitVec.ofNat 8 (s.ctxAt c).epoch | none => 0
/-- An EPOCH line, a write of the open epoch (R123). -/
def applyEpoch_ (p : Piece) (s : State) : State :=
  let full := isFull p.bytes
  let x := s.lineAt p.line
  let st := stampOf s p
  match s.eff p.line with
  | (.never, _) => leave p .opened false true st (storeHome p true s)
  | (.unrestored, _) => leave p .opened false false st (storeHome p true s)
  | (.opened, _) => leave p .opened false x.baseZero st (storeHome p false s)
  | (.committed, false) =>
    if full then
      leave p .openOver true false st (storeShadow p true (keepBase p.line (s.onCopy fun c => { c with full := c.full + 1 })))
    else leave p .openOver false false st (storeHome p false (copyToShadow p.line (keepBase p.line s)))
  | (.committed, true) =>
    if full then leave p .openOver false false st (storeHome p false (keepBase p.line s))
    else leave p .openOver false false st (storeHome p false (copyHome p.line (keepBase p.line s)))
  | (.openOver, false) => leave p .openOver false false st (storeHome p false s)
  | (.openOver, true) => leave p .openOver true false st (storeShadow p false s)
  | _ => leave p .opened false false st (storeHome p false s)
/-- A write applied after the close instant of its epoch: it leaves the line COMMITTED at home (R123 last paragraph). -/
def applyLate (p : Piece) (s : State) : State :=
  let s1 :=
    match s.eff p.line with
    | (.never, _) | (.unrestored, _) => storeHome p true s
    | (.committed, true) => if isFull p.bytes then storeHome p true s else storeHome p false (copyHome p.line s)
    | _ => storeHome p false s
  (leave p .committed false false 0 s1).freeShadow p.line
/-- A LATEST line (R126). -/
def applyLatest (p : Piece) (s : State) : State :=
  match (s.eff p.line).1 with
  | .never | .unrestored => leave p .dirty false false 0 (storeHome p true s)
  | _ => leave p .dirty false false 0 (storeHome p false s)
/-- A VOLATILE line, or a CONSTANT line that a load reaches (R127). -/
def applyPlain (p : Piece) (s : State) : State :=
  leave p .written false false 0 (storeHome p (decide ((s.eff p.line).1 = .never)) s)
def applyPiece (p : Piece) (s : State) : State :=
  let s1 := onSlu s fun x => { x with covered := x.covered.filter (· ≠ p.line) }
  match (s.lineSeg p.line).cls with
  | .epoch => if isLate s p then applyLate p s1 else applyEpoch_ p s1
  | .latest => noteLatest p.line (applyLatest p s1)
  | .constant | .volatile => applyPlain p s1
/-! ## Order, copies and faults (R128, R129, R214) -/
/-- A pass has still to visit the piece's line (R264). Passes' own writes wait for no visit; and as a write that waits for a copy is
released by the close of its epoch (R135), so is one that waits for a visit (DEDUCED, log entry 183). -/
def scanHolds (s : State) (p : Piece) : Bool := p.fp != 21 && !isLate s p && scanHoldsWrite s p.line
/-- A capture of an earlier epoch has still to read the piece's line (R364). -/
def captureHolds (s : State) (p : Piece) : Bool := (capturesOn s p.line).any fun k => match p.epoch with | some (_, e) => decide (k.epoch < e) | none => true
/-- What stands in the way of applying a piece, copies and faults apart from those already served. -/
def obstacle (s : State) (p : Piece) : PWait :=
  let e := (s.eff p.line).1
  let full := isFull p.bytes
  if s.unbuilt (segOf p.line) then .fault
  else if scanHolds s p || captureHolds s p then .visit
  else if e = .unrestored ∧ !full then .fault
  else if (s.lineSeg p.line).cls = .epoch ∧ !isLate s p ∧ e = .committed ∧ !full ∧ p.wait ≠ .served then .copy
  else .ready
/-- Of two writes of one line `q` goes first: in the order of acceptance (R128), but a pass's write goes before those that waited for its
visit (R264). -/
def goesFirst (q p : Piece) : Bool :=
  if q.fp = 21 ∧ p.fp ≠ 21 ∧ p.wait = .visit then true
  else if p.fp = 21 ∧ q.fp ≠ 21 ∧ q.wait = .visit then false
  else decide (q.order < p.order)
/-- An earlier write, or an earlier read that waits, of the same line (R128, R215). -/
def behindOther (s : State) (p : Piece) : Bool :=
  (s.ret.writes.any fun q => q.line = p.line ∧ goesFirst q p) ||
    (s.slu.reads.any fun r => r.order < p.order ∧ (linesFrom r.addr r.len).contains p.line)
def setPiece (p : Piece) (w : PWait) (s : State) : State :=
  onRet s fun r => { r with writes := r.writes.map fun q =>
    if q.order = p.order then { q with wait := w, since := if q.wait = w then q.since else s.now } else q }
def dropPiece (p : Piece) (s : State) : State := onRet s fun r => { r with writes := r.writes.filter fun q => q.order ≠ p.order }
/-- The pages that a demand fault reads: the presence map of an unbuilt segment's image, and the page of the line's record where the
value is wanted (R214, R238). -/
def faultPages (s : State) (line : Nat) (value : Bool) : List Nat :=
  (if s.unbuilt (segOf line) then (s.store.images.filter (·.seg = segOf line)).map (·.map) else [])
    ++ (if value then ((durableOf s.store line).map (·.ppa)).toList else [])
/-- Start a demand fault, unless one of the line is under way or 256 are; one under way reads what more is wanted of it (R213, R214). -/
def startFault (line : Nat) (value : Bool) (s : State) : State :=
  let under := s.slu.faults.any (·.line = line)
  if !under ∧ s.slu.faults.length ≥ 256 then s
  else
    let asked (p : Nat) : Bool := (s.store.ops ++ s.store.waitq).any fun o => o.use == .fault line && o.ppa == p
    let s1 := if under then s else
      onSlu s fun x => { x with faults := x.faults ++ [⟨line, s.now⟩], faultCount := sat 32 (x.faultCount + 1) }
    ((faultPages s line value).filter fun p => !asked p).foldl (fun s p => nandRead (.fault line) p s) s1
def portPieces (s : State) (fp : Fin 23) : List Piece := s.ret.writes.filter (·.fp = fp)
/-- A `SEG_LOAD` completes once its writes are applied. -/
def wakeLoads (s : State) : State :=
  wake (fun w => match w with
    | .load lo hi st => if s.ret.writes.any fun p => p.fp = 1 ∧ lo ≤ p.order ∧ p.order < hi then .go else .done st none
    | _ => .go) s
/-- Look at the first piece of a port that is not waiting for a copy or a fault: apply it if it is the port's oldest and
nothing stands in its way, or let it begin to wait. -/
def lineWriteApply (fp : Fin 23) (s : State) : State :=
  let ps := portPieces s fp
  match ps.find? fun p => p.wait ≠ .copy ∧ p.wait ≠ .fault with
  | none => s
  | some p =>
    if behindOther s p then s
    else if dchDead s (channelOf s p.line) then
      dropPiece p (onDch s (channelOf s p.line) fun d => { d with dropped := sat 32 (d.dropped + 1) })
    else if !dchRunning s (channelOf s p.line) then s
    else
      match obstacle s p with
      | .ready | .served => if (ps.head?.map (·.order)) = some p.order then applyPiece p (dropPiece p s) else s
      | .visit => setPiece p .visit s
      | .copy => if p.wait = .copy ∨ waitingOn s fp ≥ 32 then s
        else setPiece p .copy (s.onCopy fun c => { c with queue := c.queue ++ [((s.lineSeg p.line).owner, p.line)] })
      | .fault =>
        if waitingOn s fp ≥ 32 then s else
        let s1 := startFault p.line (!isFull p.bytes) s
        if s1.slu.faults.any (·.line = p.line) then setPiece p .fault s1 else s
def execLineWriteApply (fp : Fin 23) (s : State) : Host.Outcome State Fault Refusal :=
  .next (settleWeir (let s1 := lineWriteApply fp s; if fp = 1 then wakeLoads s1 else s1))
/-- Apply a port's oldest pieces as long as their waits are served. -/
def applyServed (fp : Fin 23) : Nat → State → State
  | 0, s => s
  | n + 1, s =>
    match (portPieces s fp).head? with
    | some p => if p.wait = .served then applyServed fp n (lineWriteApply fp s) else s
    | none => s
/-! ## Reads (R125, R264, R326) -/
/-- A read of a line need not wait. -/
def readable (s : State) (r : ReadWait) (l : Nat) : Bool :=
  let c := channelOf s (s.placeOf l)
  !s.unbuilt (segOf l) && decide ((s.eff l).1 ≠ .unrestored) && !scanHoldsRead s l
    && !(s.ret.writes.any fun p => p.line = l ∧ p.fp = r.fp ∧ p.order < r.order)
    && !(s.ret.held.any fun h => h.fp = r.fp ∧ h.order ≤ r.order ∧ (linesFrom (heldAddr s h) h.bytes.length).contains l)
    && (decide ((s.eff l).1 = .never) || dchRunning s c || dchDead s c)
/-- What the read of one line returns. A channel that has failed for good returns poison (R315). -/
def readLine (s : State) (l : Nat) : List Byte × BitVec 4 :=
  if (s.eff l).1 ≠ .never ∧ dchDead s (channelOf s (s.placeOf l)) then (rawBytes s, 15) else s.lineValue l
/-- What a read finds of its lines: each line's value and poison. -/
abbrev LineView := Nat → List Byte × BitVec 4
/-- Bytes, and the poison among them, of a read. -/
def viewBytes (f : LineView) (addr len : Nat) : List Byte := (((linesFrom addr len).flatMap fun l => (f l).1).drop (addr % 256)).take len
def viewPoison (f : LineView) (addr len : Nat) : Bool :=
  (linesFrom addr len).any fun l =>
    (List.range 4).any fun g => (f l).2.getLsbD g && decide (l * 256 + 64 * g < addr + len) && decide (addr < l * 256 + 64 * g + 64)
def readBytes (s : State) (addr len : Nat) : List Byte := viewBytes (readLine s) addr len
def readPoison (s : State) (addr len : Nat) : Bool := viewPoison (readLine s) addr len
/-- Pieces of a read cut at the boundaries of a size: offset and length. -/
def cuts (size addr len : Nat) : List (Nat × Nat) :=
  (List.range ((addr + len + size - 1) / size - addr / size)).map fun i =>
    let a := max addr ((addr / size + i) * size)
    (a, min (addr + len) ((addr / size + i + 1) * size) - a)
/-- Pieces no longer than the Max Payload Size, cut at addresses aligned to the boundary (R330). -/
def fitted (mps rcb : Nat) : Nat → Nat → Nat → List (Nat × Nat)
  | 0, _, _ => []
  | n + 1, addr, len =>
    if len ≤ mps then [(addr, len)]
    else let stop := (addr + mps) / rcb * rcb; (addr, stop - addr) :: fitted mps rcb n stop (addr + len - stop)
/-- The completions of a host read: cut at the Read Completion Boundary where a byte is poisoned, else only where the Max Payload
Size forces it (R330). -/
def cplPieces (s : State) (bad : Nat → Nat → Bool) (addr len : Nat) : List (Nat × Nat) :=
  if bad addr len then cuts (readBoundary s) addr len else fitted (maxPayload s) (readBoundary s) len addr len
/-- Host completions, each that holds a poisoned byte marked (R330). -/
def hostCompletions (req : BitVec 16) (f : LineView) (addr len : Nat) (s : State) : State :=
  (cplPieces s (viewPoison f) addr len).foldl (fun s' c => s'.emit (.cpl req (viewBytes f c.1 c.2) (viewPoison f c.1 c.2))) s
/-- First line of a read that holds poison among the bytes read. -/
def firstBadOf (f : LineView) (addr len : Nat) : Nat :=
  ((linesFrom addr len).find? fun l => let a := max addr (l * 256); viewPoison f a (min (addr + len) (l * 256 + 256) - a)).getD (lineOf addr)
def firstPoisoned (s : State) (addr len : Nat) : Nat := firstBadOf (readLine s) addr len
/-! ## Input-block headers (R358, R360) -/
/-- First line of a module's input block. -/
def inBlock (t : Trib) (a : Nat) : Nat := lineOf (localOf t.cfg.inBase.toNat) + a * t.cfg.inStride
def ModSt.code : ModSt → Nat
  | .absent => 0 | .active => 1 | .stale => 2 | .mismatch => 3 | .disabled => 4
def OutSt.code : OutSt → Nat
  | .none => 0 | .normal => 1 | .hold => 2 | .safe => 3
/-- The header line of a module's input block (R358). -/
def headerBytes (a : Nat) (m : Mod) : List Byte :=
  leBytes 1 (pack [(0, b2n m.cur), (1, b2n m.hStale), (2, b2n m.expired), (3, b2n m.hZeroed)]) ++ leBytes 1 m.state.code ++ leBytes 1 a
    ++ leBytes 1 m.outState.code ++ leBytes 4 m.seq.toNat ++ leBytes 2 m.hLen ++ [m.mstat, 0] ++ leBytes 4 m.outAck.toNat
    ++ leBytes 8 m.time.toNat ++ rep 40 0 ++ leBytes 32 ((m.ident.getD 0).toNat) ++ rep 160 0
/-- A whole-line write of a unit's port, made at once where no accepted write of its line and none of its port is still to be
applied (R128) and its channel is RUNNING (R313). A channel that has failed for good drops it (R315), and so does a CONSTANT segment
(R536). -/
def putLine (fp : Fin 23) (l : Nat) (bs : List Byte) (s : State) : State :=
  let c := channelOf s l
  if (s.lineSeg l).cls = .constant then dropConstant s
  else if (s.ret.writes.any fun p => p.line = l ∨ p.fp = fp) || !(dchRunning s c || dchDead s c) then
    addPieces fp none none none false [(l, bs.map some)] s
  else if dchDead s c then onDch s c fun d => { d with dropped := sat 32 (d.dropped + 1) }
  else applyPiece ⟨fp, l, bs.map some, 0, 0, none, none, .ready, s.now, s.ret.order, false⟩ (onRet s fun r => { r with order := r.order + 1 })
/-- Fabric port of a tributary port. -/
def tribPort (n : Fin 12) : Fin 23 := Fin.ofNat 23 (2 + n)
def onMod (s : State) (n : Fin 12) (a : Fin 255) (f : Mod → Mod) : State :=
  { s with trib := vmod s.trib n fun t => { t with mods := vmod t.mods a f } }
/-- Write the header line of module `a` (R359). -/
def writeHeader (n : Fin 12) (a : Fin 255) (s : State) : State :=
  putLine (tribPort n) (inBlock s.trib[n] a) (headerBytes a s.trib[n].mods[a]) s
/-- A latching read of a header: the slot that CUR names is latched anew, and EXPIRED, now read, is cleared (R360). -/
def latchSlot (n : Fin 12) (a : Fin 255) (s : State) : State :=
  let e := s.trib[n].mods[a].expired
  let s1 := onMod s n a fun m => { m with latched := some (m.cur, s.now), expired := false }
  if e then writeHeader n a s1 else s1
/-- A host read whose data includes byte 0 of an input header latches the slot it names, whether the port runs or not (R360). -/
def latchBlocks (addr len : Nat) (s : State) : State :=
  (List.range 12).foldl (fun s n =>
    let i : Fin 12 := Fin.ofNat 12 n
    if s.lifeOf .trib n = .off then s else
    (linesFrom addr len).foldl (fun s l =>
      let t := s.trib[i]
      let b := inBlock t 0
      if addr ≤ l * 256 ∧ b < l ∧ (l - b) % t.cfg.inStride = 0 ∧ (l - b) / t.cfg.inStride ≤ topAddr t then
        latchSlot i (Fin.ofNat 255 ((l - b) / t.cfg.inStride)) s
      else s) s) s
/-- The entry of a line as the links carry it (R403). -/
def entryAs (f : LineView) (s : State) (l : Nat) : LineEntry := ⟨BitVec.ofNat 32 (l + s.slot * 2 ^ 30), (f l).2, (f l).1⟩
def entryOf (s : State) (l : Nat) : LineEntry := entryAs (readLine s) s l
/-- Remote read completions, four lines to a frame (R424). -/
def peerCompletions (fp tag : Nat) (f : LineView) (addr len : Nat) (s : State) : State :=
  let ls := linesFrom addr len
  (List.range ((ls.length + 3) / 4)).foldl (fun s' i =>
    sendOn (.conf (Fin.ofNat 3 (fp - 16))) (.rdCpl tag (4 * i) 0 (((ls.drop (4 * i)).take 4).map (entryAs f s))) s') s
/-- Answer a read with what it found. -/
def answer (r : ReadWait) (f : LineView) (s : State) : State :=
  let used (s : State) : State := if viewPoison f r.addr r.len then poisonUsed (firstBadOf f r.addr r.len) 1 0 s else s
  match r.who with
  | .fabric => let s1 := s.emit (.read r.fp (viewBytes f r.addr r.len) (viewPoison f r.addr r.len)); if r.fp = 0 then used s1 else s1
  | .host req => used (hostCompletions req f r.addr r.len s)
  | .peer tag => peerCompletions r.fp tag f r.addr r.len s
/-- A line of what a read found. -/
def gotView (got : List (Nat × List Byte × BitVec 4)) : LineView := fun l => ((got.find? (·.1 = l)).map (·.2)).getD (rep 256 0, 0)
/-- A request that a channel has not finished. -/
def notDone (d : Dch) (id : Nat) : Bool := (d.reqs ++ d.waiting).any (·.id = id)
/-- Enter the read request of burst `g` of line `l`, and note it where it is not answered from the write queue at once (R297). -/
def askBurst (fp : Fin 23) (l g : Nat) (x : State × List (Nat × Nat)) : State × List (Nat × Nat) :=
  let p := x.1.placeOf l
  let id := x.1.fab.nextId
  let s1 := request fp p g false 0 false x.1
  (s1, if notDone s1.dch[channelOf s1 p] id then x.2 ++ [(id, l * 4 + g)] else x.2)
/-- The DRAM requests of a read. A line that is effectively NEVER is answered from its metadata (R86, R322). -/
def askRead (r : ReadWait) (s : State) : State × List (Nat × Nat) :=
  (linesFrom r.addr r.len).foldl (fun x l =>
    let e := x.1.eff l
    if e.1 = .never then x
    else (maskList (if e.2 then (15 : BitVec 4) else (x.1.lineAt l).valid).toNat 4).foldl (fun x g => askBurst r.fp l g x) x) (s, [])
/-- Serve a read: what it finds is settled now, since no later write of its bursts passes it (R295); it is answered once its DRAM
requests are done. -/
def serve (r : ReadWait) (s : State) : State :=
  let got := (linesFrom r.addr r.len).map fun l => (l, readLine s l)
  let (s1, ids) := askRead r { s with free := s.free + 1 }
  let s2 := match r.who with | .host _ => latchBlocks r.addr r.len s1 | _ => s1
  if ids = [] then answer r (gotView got) s2
  else onFab s2 fun x => { x with flights := x.flights ++ [⟨r, got, ids⟩] }
/-- Start the demand faults that a read needs. -/
def faultRead (r : ReadWait) (s : State) : State :=
  (linesFrom r.addr r.len).foldl (fun s l =>
    if s.unbuilt (segOf l) ∨ (s.eff l).1 = .unrestored then startFault l true s else s) s
/-- A read arrives: it is answered, or waits. -/
def takeRead (who : Reader) (fp : Fin 23) (addr len : Nat) (s : State) : State :=
  let r : ReadWait := ⟨who, fp, addr, len, s.now, s.ret.order⟩
  let s1 := onRet s fun x => { x with order := x.order + 1 }
  if (linesFrom addr len).all (readable s1 r) then serve r s1
  else faultRead r (onSlu s1 fun x => { x with reads := x.reads ++ [r] })
/-- Serve the reads that wait no longer, oldest first, and start the faults that there was no room for. -/
def serveReads (s : State) : State :=
  s.slu.reads.foldl (fun s r =>
    if (linesFrom r.addr r.len).all (readable s r) then
      serve r (onSlu s fun x => { x with reads := x.reads.filter fun q => q.order ≠ r.order })
    else faultRead r s) s
/-- Uncorrectable beats that a read meets: the line is refilled, or its granules are poisoned (R325, R327). -/
def meetErrors (l : Nat) (m : BitVec 4) (s : State) : State :=
  let e := s.eff l
  if m = 0 ∨ e.1 = .never ∨ e.1 = .unrestored then s
  else if e.2 then poisonShadow l 1 m s
  else let m' := m &&& (s.lineAt l).valid; if m' = 0 then s else dramUncorrectable l m' s
/-- The granules of a line with a beat in `beats`. -/
def beatGranules (beats : BitVec 32) : BitVec 4 :=
  BitVec.ofNat 4 (maskOf ((List.range 4).filter fun g => decide (beats.toNat / 2 ^ (8 * g) % 256 ≠ 0)))
/-- The beats of the granules `m`. -/
def beatCount (m : BitVec 4) (beats : BitVec 32) : Nat :=
  ((List.range 32).filter fun i => m.getLsbD (i / 8) && beats.getLsbD i).length
/-- Uncorrectable beats that a read of a line meets are counted at its rank (R305, R308), and the line is repaired or poisoned. -/
def readErrors (l : Nat) (beats : BitVec 32) (s : State) : State :=
  let e := s.eff l
  let p := s.placeOf l
  let v : BitVec 4 := if e.1 = .never ∨ e.1 = .unrestored then 0 else if e.2 then 15 else (s.lineAt l).valid
  let m := beatGranules beats &&& v
  if m = 0 then s else meetErrors l m (countBeats (channelOf s p) (rankAt s p).1 0 (beatCount m beats) s)
/-- The metadata word of a line is read: one that does not correct in the metadata cache is read from the reserve, and one that does not
correct there is rebuilt; corrected ones are counted (R320, R324, R334). -/
def readMeta (w : MetaRead) (i l : Nat) (s : State) : State :=
  let s1 := if w.cacheBad.getLsbD i then sramUncorrectable 1 0x03 s
    else if w.cacheFixed.getLsbD i then bucketAdd 29 { s with err := { s.err with sramCe := sat 32 (s.err.sramCe + 1) } } else s
  if w.bad.getLsbD i then metaRebuild l s1 else if w.fixed.getLsbD i then bucketAdd 29 s1 else s1
/-- `FABRIC_READ` at local address `a`. `words` tells of the metadata words of the lines, and `ue` names the beats that do not correct,
32 to a line, both counted from the first line. -/
def fabricRead (fp : Fin 23) (a len : Nat) (words : MetaRead) (ue : BitVec 512) (s : State) : State :=
  let ls := (linesFrom a len).zipIdx
  let s1 := ls.foldl (fun s q => readMeta words q.2 q.1 s) s
  let s2 := ls.foldl (fun s q => readErrors q.1 (BitVec.ofNat 32 (ue.toNat >>> (32 * q.2))) s) s1
  settleWeir (takeRead .fabric fp a len s2)
/-- A DRAM request of a read in flight is done; `spoil` says what an error does to what it read. The read is answered after the last. -/
def flightDone (id : Nat) (spoil : Nat → List Byte × BitVec 4 → List Byte × BitVec 4) (s : State) : State :=
  match s.fab.flights.find? fun f => f.ids.any (·.1 = id) with
  | none => s
  | some f =>
    let b := ((f.ids.find? (·.1 = id)).map (·.2)).getD 0
    let f' : Flight :=
      { f with ids := f.ids.filter (·.1 ≠ id), got := f.got.map fun x => if x.1 = b / 4 then (x.1, spoil (b % 4) x.2) else x }
    let s1 := onFab s fun x =>
      { x with flights := if f'.ids = [] then x.flights.filter (· ≠ f) else x.flights.map fun y => if y = f then f' else y }
    if f'.ids = [] then answer f.read (gotView f'.got) s1 else s1
/-- Reads in flight that wait anew, for a demand fault or a channel. -/
def unflight (which : Flight → Bool) (s : State) : State :=
  let back := s.fab.flights.filter which
  back.foldl (fun s f => faultRead f.read s)
    (onSlu (onFab s fun x => { x with flights := x.flights.filter fun f => !which f }) fun x => { x with reads := x.reads ++ back.map (·.read) })
/-- Every read that is not answered yet. -/
def openReads (s : State) : List ReadWait := s.slu.reads ++ s.fab.flights.map (·.read)
def dropReads (gone : ReadWait → Bool) (s : State) : State :=
  onFab (onSlu s fun x => { x with reads := x.reads.filter fun r => !gone r }) fun x => { x with flights := x.flights.filter fun f => !gone f.read }
/-- `DEMAND_FAULT_DONE`: the segment's presence map is read and, where a read or a partial write wants the value, the line
filled; what waited goes on (R214, R215). -/
def demandFaultDone (line : Nat) (bad : Bool) (s : State) : State :=
  match s.slu.faults.find? (·.line = line) with
  | none => s
  | some f =>
    let us := toUs (s.now - f.since)
    let s0 := onSlu s fun x => { x with faults := x.faults.filter fun g => g.line ≠ line, faultMax := sat 16 (max x.faultMax us) }
    let s1 := buildSegment (segOf line) (readsOver (· == .fault line) <| if us > 1000 then s0.raiseLim 0x0614 0 0 [(16, (s.wma line).toNat), (24, us)] else s0)
    let wanted := (s1.slu.reads.any fun r => (linesFrom r.addr r.len).contains line)
      || (s1.ret.writes.any fun p => p.line = line && !isFull p.bytes)
      || s1.seqr.any fun q => match q.wait with | some (.mld _ off) => windowLine q off.toNat == line | _ => false
    let s2 := if wanted ∧ (s1.eff line).1 = .unrestored then fillLine true line bad s1 else s1
    let ps := s2.ret.writes.filter fun p => p.line = line ∧ p.wait = .fault
    let s3 := ps.foldl (fun s p => setPiece p .served s) s2
    let s4 := serveReads s3
    serveReads (ps.foldl (fun s p => applyServed p.fp 64 s) s4)
def execDemandFaultDone (line : Nat) (bad : Bool) (s : State) : Host.Outcome State Fault Refusal :=
  .next (settleWeir (demandFaultDone line bad s))
/-! ## The copier (R129, R135, R141, R148) -/
/-- `COPY_BATCH`: the next context in turn, ascending from the one after the last served. -/
def copyBatch (s : State) : State :=
  let k := s.ret.copy
  if k.active ≠ [] then s else
  match (List.range 16).find? fun i => k.queue.any fun q => q.1.val = (k.last.val + 1 + i) % 16 with
  | none => s
  | some i =>
    let c : Fin 16 := Fin.ofNat 16 (k.last.val + 1 + i)
    let mine := (k.queue.filter fun q => q.1 = c).take k.batch
    s.onCopy fun k => { k with last := c, active := mine, queue := k.queue.filter fun q => !mine.contains q }
def execCopyBatch (s : State) : Host.Outcome State Fault Refusal := .next (copyBatch s)
/-- The channels of a line's locations take requests, or have failed for good: elsewhere the copier's requests wait (R313, R315). -/
def channelTakes (s : State) (l : Nat) : Bool :=
  let ok (p : Nat) : Bool := dchRunning s (channelOf s p) || dchDead s (channelOf s p)
  ok l && (!s.usesShadow l || ok (s.shadowPlace l))
/-- `COPY_DONE`: a copy of the running batch is made; its write is applied once it is its port's oldest. -/
def copyDone (line : Nat) (s : State) : State :=
  let k := s.ret.copy
  if !(k.active.any fun q => q.2 = line) || !channelTakes s line then s else
  let s1 := s.onCopy fun k => { k with active := k.active.filter fun q => q.2 ≠ line, copies := k.copies + 1 }
  match s1.ret.writes.find? fun p => p.line = line ∧ p.wait = .copy with
  | none => s1
  | some p =>
    let s2 := s1.onCopy fun k => { k with stallMax := max k.stallMax (sat 16 (s.now - p.since)) }
    serveReads (applyServed p.fp 64 (setPiece p .served s2))
def execCopyDone (line : Nat) (s : State) : Host.Outcome State Fault Refusal := .next (settleWeir (copyDone line s))
/-- `SETTLE`: only while no copy is queued. A line that the last seal covers settles CLEAN (R206). -/
def settle (line : Nat) (s : State) : State :=
  if s.ret.copy.queue ≠ [] ∨ s.ret.copy.active ≠ [] ∨ s.slu.phase ≠ .idle ∨ s.eff line ≠ (.committed, true) ∨ !channelTakes s line then s
  else
    let cov := s.slu.covered.contains line
    let s1 := copyHome line s
    let x := s1.lineAt line
    let s2 := s1.setLine line
      { x with state := if cov then .clean else .committed, flip := false, stamp := 0, charge := if cov then none else x.charge }
    onSlu (s2.freeShadow line) fun x => { x with covered := x.covered.filter (· ≠ line) }
def execSettle (line : Nat) (s : State) : Host.Outcome State Fault Refusal := .next (settleWeir (settle line s))
/-- `COPY_STALL_LONG`. -/
def copyStallLong (fp : Fin 23) (s : State) : State :=
  match s.ret.writes.find? fun p => p.fp = fp ∧ p.wait = .copy ∧ s.now - p.since > s.ret.copy.stallLimit with
  | none => s
  | some p => s.raiseLim 0x0415 fp.val fp.val [(16, (s.lineSeg p.line).owner.val), (18, sat 16 (s.now - p.since))]
def execCopyStallLong (fp : Fin 23) (s : State) : Host.Outcome State Fault Refusal := .next (copyStallLong fp s)
/-- Copies of a context still queued are cancelled (R135, R141). -/
def cancelCopies (c : Fin 16) (s : State) : State :=
  s.onCopy fun k =>
    let gone := k.queue.filter fun q => q.1 = c
    { k with queue := k.queue.filter (fun q => q.1 ≠ c), cancelled := sat 32 (k.cancelled + gone.length) }
/-- Longest wait of an access under R264 (R283): of those of `before`, the waits that are over in `s`. -/
def noteWait (before s : State) : State :=
  let waits (s : State) (p : Piece) : Bool := p.wait = .visit && scanHolds s p
  let ws := ((before.ret.writes.filter fun p => waits before p && !waits s p).map (·.since))
    ++ ((before.slu.reads.filter fun r => (linesFrom r.addr r.len).any (scanHoldsRead before) && !(linesFrom r.addr r.len).any (scanHoldsRead s)).map (·.since))
  { s with scan := { s.scan with waitMax := sat 32 (ws.foldl (fun m t => max m (s.now - t)) s.scan.waitMax) } }
/-- At a close, writes of the closed epoch that wait for a copy wait no longer: they are applied without one (R135). -/
def releaseLate (c : Fin 16) (s : State) : State :=
  onRet s fun r => { r with writes := r.writes.map fun p =>
    match p.epoch with
    | some (k, _) => if k = c ∧ (p.wait = .copy ∨ p.wait = .visit) then { p with wait := .served } else p
    | none => p }
/-- At an abandon, the accepted writes of the context's open epoch are void (R141, R423). -/
def voidWrites (c : Fin 16) (e : Nat) (s : State) : State :=
  onRet s fun r => { r with writes := r.writes.filter fun p => p.epoch ≠ some (c, e) }
end Sys2Proof.Machine
end

