-- ==== Sys2Proof/Machine/DramRows.lean ====
section
/-! DEFINITION. The rows of a DRAM channel that touch lines (R298, R309–R315): a request that completes, restarts, and
migration. -/
namespace Sys2Proof.Machine
/-- A DRAINING channel whose last request is done enters self-refresh and STOPS (R313). -/
def dchDrained (c : Fin 4) (s : State) : State :=
  let d := s.dch[c]
  if s.life[dchLife c].life = .draining ∧ d.reqs = [] ∧ d.wq = [] then
    drained (dchLife c) (onDch s c fun d => { d with selfRef := true, rows := [] })
  else s
/-- Injected errors planted in a granule by a write (R337): kinds 11 and 12 stand in DRAM, 1 and 2 wait for a write. -/
def planted (s : State) (k g : Nat) : Bool := s.err.inject.contains (k, g)
def onInject (s : State) (f : List (Nat × Nat) → List (Nat × Nat)) : State := { s with err := { s.err with inject := f s.err.inject } }
/-- A write of granule `g` reaches DRAM: what was planted is gone, and what waited is planted. -/
def plant (g : Nat) (s : State) : State :=
  onInject s fun xs => ((xs.filter fun x => x.2 ≠ g ∨ x.1 < 10)).map fun x => if x.2 = g then (x.1 + 10, g) else x
/-- A write request is done: its entry leaves the queue, and reads that no earlier entry of the burst holds back go on (R295). -/
def writeDone (c : Fin 4) (r : DReq) (s : State) : State :=
  plant r.burst (onDch s c fun d =>
    { d with wq := d.wq.filter (fun w => w.id ≠ r.id),
             reqs := (d.reqs.filter fun q => q.id ≠ r.id).map fun q =>
               if q.burst = r.burst ∧ !(d.wq.any fun w => w.id ≠ r.id && w.burst == r.burst && decide (w.ord < q.ord)) then { q with raw := false } else q })
/-- Bytes of a granule where its beats in `bad` are the raw ones read, but for the bytes in `keep` (R323). -/
def rawBeats (bad : BitVec 8) (keep : BitVec 64) (raw old : List Byte) : List Byte :=
  old.zipIdx.map fun b => if bad.getLsbD (b.2 / 8) && !keep.getLsbD b.2 then raw.getD b.2 0 else b.1
/-- Granule `g` of a line's bytes changed. -/
def onGranule (g : Nat) (f : List Byte → List Byte) (bs : List Byte) : List Byte :=
  bs.take (64 * g) ++ f ((bs.drop (64 * g)).take 64) ++ bs.drop (64 * g + 64)
/-- A merge read of a burst of the location `place` meets beats that do not correct: the raw bytes are merged and the granule is poisoned
(R323). -/
def mergeBad (place g : Nat) (bad : BitVec 8) (keep : BitVec 64) (s0 : State) : State :=
  let f := onGranule g (rawBeats bad keep (rawBytes s0))
  let s : State := { s0 with free := s0.free + 1 }
  let m : BitVec 4 := BitVec.ofNat 4 (2 ^ g)
  if segLine s.usable ≤ place then
    (match s.poolOwner place with
     | some l => poisonShadow l 1 m (s.setShadow l (f (s.shadowBytes l)))
     | none => s)
  else if s.segExists (segOf place) then poisonHome place 1 m (s.setHome place (f (s.homeBytes place)))
  else s
/-- A read of a burst meets beats that do not correct: the line whose value the location holds is repaired or poisoned, unless a write of
the whole burst is queued behind the read (R325, R327). -/
def readBad (c : Fin 4) (r : DReq) (s : State) : State :=
  let p := r.burst / 4
  let m : BitVec 4 := BitVec.ofNat 4 (2 ^ (r.burst % 4))
  if s.dch[c].wq.any fun w => w.burst == r.burst && maskFull w.mask && decide (r.ord < w.ord) then s
  else if segLine s.usable ≤ p then (match s.poolOwner p with | some l => poisonShadow l 1 m s | none => s)
  else if (s.eff p).2 ∨ (s.eff p).1 = .never ∨ (s.eff p).1 = .unrestored then s
  else meetErrors p m s
/-- The read in flight that request `id` belongs to, and the line it is for. -/
def flightOf (s : State) (id : Nat) : Option (Flight × Nat) :=
  (s.fab.flights.find? fun f => f.ids.any (·.1 = id)).map fun f => (f, ((f.ids.find? (·.1 = id)).map (·.2 / 4)).getD 0)
/-- A read request gives its data to the read it is part of. Beats that do not correct are the raw ones, in a granule that is poisoned;
where the line has a value in NAND the read waits for its demand fault instead (R305, R325). -/
def deliverBurst (r : DReq) (bad : BitVec 8) (s : State) : State :=
  match flightOf s r.id with
  | none => s
  | some (f, l) =>
    if bad ≠ 0 ∧ (s.eff l).1 = .unrestored then unflight (· == f) s
    else
      let raw := rawBytes s
      flightDone r.id (fun g x =>
        if bad = 0 then x else (onGranule g (rawBeats bad 0 raw) x.1, x.2 ||| BitVec.ofNat 4 (2 ^ g))) { s with free := s.free + 1 }
/-- A read request is done: its beats are counted; uncorrectable ones are repaired or poison the granule, and a merge read completes
its write entry (R298, R305, R325). A migration's own reads change nothing else. -/
def readDone (c : Fin 4) (r : DReq) (corrected : Nat) (ue : BitVec 8) (s0 : State) : State :=
  -- which beat an injected error stands in is not stated: it is free
  let (v, s) := s0.draw
  let k := corrected + b2n (planted s 11 r.burst)
  let bad := if planted s 12 r.burst then ue ||| BitVec.ofNat 8 (2 ^ bits v 0 3) else ue
  let n := maskCount (BitVec.ofNat 4 bad.toNat) + maskCount (BitVec.ofNat 4 (bad.toNat / 16))
  let entry := s.dch[c].wq.find? fun w => w.burst = r.burst ∧ w.ord = r.ord
  let s1 := onDch s c fun d =>
    { d with reqs := d.reqs.filter (fun q => q.id ≠ r.id),
             wq := if r.merge then d.wq.map fun w => if w.burst = r.burst ∧ w.ord = r.ord then { w with merged := true, poison := w.poison || decide (bad ≠ 0) } else w
                   else d.wq }
  let s2 := countBeats c (rowOf s r).rank k n
    (if bad ≠ 0 ∧ r.fp = 19 ∧ s.slu.phase ≠ .idle then onSlu s1 fun x => { x with dramPoison := true } else s1)
  if r.rank.isSome then s2
  else if r.merge then
    (if bad = 0 then s2 else mergeBad (r.burst / 4) (r.burst % 4) bad ((entry.map (·.mask)).getD 0) s2)
  else deliverBurst r bad (if bad = 0 then s2 else readBad c r s2)
/-- `DRAM_REQUEST_DONE`, of a request that was issued: `corrected` beats were corrected, those in `ue` do not correct. -/
def dramRequestDone (c : Fin 4) (id corrected : Nat) (ue : BitVec 8) (s : State) : State :=
  match s.dch[c].reqs.find? fun r => r.id = id ∧ r.issued with
  | none => s
  | some r =>
    let s1 := onDch s c fun d => { d with retries := d.retries.filter (·.1 ≠ id) }
    let s2 := if r.write then writeDone c r s1 else readDone c r corrected ue s1
    let s3 := if r.write ∨ r.merge ∨ r.rank.isSome then s2 else noteLatency r s2
    let s4 := pullIn c (rowOf s r).rank (admitWaiting c 192 (onDch s3 c fun d => { d with draining := drains d }))
    dchDrained c s4
def execDramRequestDone (ch : Fin 4) (id : Nat) (corrected : Nat) (uncorrectable : BitVec 8) (s : State) :
    Host.Outcome State Fault Refusal := .next (settleWeir (dramRequestDone ch id corrected uncorrectable s))
/-! ## Restarts (R315) -/
/-- Granules of a location that a write waiting at its port covers whole: they reach DRAM after the restart (R313, R315). -/
def keptGranules (s : State) (place : Nat) : BitVec 4 :=
  BitVec.ofNat 4 (maskOf ((List.range 4).filter fun g =>
    s.dch[channelOf s place].waiting.any fun r => r.write && r.burst == place * 4 + g && maskFull r.mask))
/-- `old` in the granules kept, `new` in the others. -/
def mixBytes (keep : BitVec 4) (old new : List Byte) : List Byte :=
  (List.range 256).map fun i => if keep.getLsbD (i / 64) then old.getD i 0 else new.getD i 0
/-- The contents of a line's home location are lost. -/
def loseHome (l : Nat) (s : State) : State :=
  let k := keptGranules s l
  poisonHome l 7 (~~~k) (({ s with free := s.free + 1 } : State).setHome l (mixBytes k (s.homeBytes l) (rawBytes s)))
/-- The contents of a line's shadow line are lost. -/
def loseShadow (l : Nat) (s : State) : State :=
  let k := keptGranules s (s.shadowPlace l)
  poisonShadow l 7 (~~~k) (({ s with free := s.free + 1 } : State).setShadow l (mixBytes k (s.shadowBytes l) (rawBytes s)))
/-- What a restart of channel `c` does to a line: what it holds in the channel is lost. -/
def loseLine (c : Fin 4) (s : State) (l : Nat) : State :=
  let home := decide (channelOf s l = c)
  match (s.eff l).1 with
  | .never | .unrestored => s
  | .clean => if home then (s.setLine l { s.lineAt l with state := .unrestored, poison := 0, valid := 0 }).dropHome l else s
  | _ =>
    let s1 := if home then loseHome l s else s
    if s.usesShadow l ∧ channelOf s (s.shadowPlace l) = c then loseShadow l s1 else s1
/-- Entries of arriving packets whose pool lines lie in the channel are lost with it (R315, R406). -/
def loseEntries (c : Fin 4) (s : State) : State :=
  let hit (p : PktRx) (l : Nat) : Bool := p.places.any fun x => x.1 == l && channelOf s (s.poolLine x.2) == c
  let made := s.mir.rx.flatMap fun p => (p.frames.flatMap (·.2)).filterMap fun e =>
    let l := e.line.toNat % 2 ^ 30
    if hit p l then some l else none
  let spoil (p : PktRx) (e : LineEntry) : LineEntry := if hit p (e.line.toNat % 2 ^ 30) then { e with poison := 15 } else e
  made.foldl (fun s l => poisonMade l 7 15 s)
    { s with mir := { s.mir with rx := s.mir.rx.map fun p => { p with frames := p.frames.map fun f => (f.1, f.2.map (spoil p)) } } }
/-- What the ranks of channel `c` held is lost (R315). -/
def loseChannel (c : Fin 4) (s : State) : State := loseEntries c (s.ret.lines.foldl (fun s p => loseLine c s p.1) s)
/-- Reads with a request in the channel. -/
def flightIn (d : Dch) (f : Flight) : Bool := f.ids.any fun x => notDone d x.1
/-- Waiting reads of a channel that has failed for good complete with every beat poisoned (R315). -/
def poisonWaiting (c : Fin 4) (s : State) : State :=
  (s.dch[c].reqs ++ s.dch[c].waiting).foldl (fun s r =>
    flightDone r.id (fun g x => (onGranule g (fun _ => ((rawBytes s).drop (64 * g)).take 64) x.1, x.2 ||| BitVec.ofNat 4 (2 ^ g)))
      { s with free := s.free + 1 }) s
/-- `DCH_RESTART_ATTEMPT`: after the third failure the channel stays FAULTED for good, waiting reads are answered with
every beat poisoned, and waiting writes are dropped. A restart that succeeds starts the waiting reads anew, on what it left. -/
def dchRestartAttempt (c : Fin 4) (ok : Bool) (s : State) : State :=
  let d := s.dch[c]
  if s.life[dchLife c].life ≠ .faulted ∨ d.dead ∨ d.restarts ≥ 3 then s else
  let s1 := onDch s c fun d => { d with restarts := d.restarts + 1 }
  if ok then
    let gone := (s.fab.flights.filter (flightIn d)).flatMap fun f => f.ids.map (·.1)
    let s2 := loseChannel c (unflight (flightIn d) s1)
    let s3 := ((setFault (dchLife c) 0 s2).toLife (dchLife c) .stopped).toLife (dchLife c) .running
    serveReads (admitWaiting c 192 (onDch s3 c fun d => { d with selfRef := false, waiting := d.waiting.filter fun r => !gone.contains r.id }))
  else
    let s2 := onDch s1 c fun d => { d with errs := d.errs ||| 0x10 }
    if d.restarts + 1 < 3 then s2
    else
      let n := (d.waiting.filter (·.write)).length
      serveReads (onDch (poisonWaiting c s2) c fun d => { d with dead := true, waiting := [], dropped := sat 32 (d.dropped + n) })
def execDchRestartAttempt (ch : Fin 4) (ok : Bool) (s : State) : Host.Outcome State Fault Refusal :=
  .next (settleWeir (dchRestartAttempt ch ok s))
/-! ## Migration (R309–R311) -/
def onMig (s : State) (c : Fin 4) (f : Migration → Migration) : State := onDch s c fun d => { d with mig := d.mig.map f }
/-- Write what the spare holds of an unreadable line: a CLEAN line's value from NAND, any other poisoned in its
unreadable beats. -/
def migrateBad (c : Fin 4) (l : Nat) (m : BitVec 4) (s : State) : State :=
  if hasNandValue s l then
    let s1 := onMig s c fun g => { g with rebuilt := g.rebuilt + 1 }
    let (v, p) := nandValue s l
    let x := s.lineAt l
    let s2 := ({ s1 with free := s.free + 1 } : State).setLine l { x with poison := p, valid := 15 }
    let s3 := poisonMade l 2 (if (durableOf s.store l).any (!isLost s.store ·) then 0 else p) s2
    { s3.setHome l v with err := { s3.err with repaired := sat 32 (s3.err.repaired + 1) } }
  else poisonHome l 1 m (onMig s c fun g => { g with poisoned := g.poisoned + 1 })
/-- Local line numbers a metadata-reserve line describes: 64 words of 4 B (R320). -/
def describedBy (l resFirst : Nat) : List Nat := (List.range 64).map fun i => (l - resFirst) * 64 + i
/-- Lines of the reserve lie above the usable segments and the shadow pool (R76). -/
def reserveFirst (s : State) : Nat := segLine (s.ret.sum.installed - s.segReserve)
/-- A line of the shadow pool (R309). One that holds no line's value is copied, or poisoned, as it stands; nothing reads its poison. -/
def migratePool (c : Fin 4) (place : Nat) (m : BitVec 4) (s : State) : State :=
  if m = 0 then onMig s c fun g => { g with copied := g.copied + 1 }
  else
    let s1 := onMig s c fun g => { g with poisoned := g.poisoned + 1 }
    match s.poolOwner place with
    | some l => poisonShadow l 1 m s1
    | none => s1
/-- A migration's own request: on a rank it names, with a target of 1 ms (R310). -/
def migRequest (c : Fin 4) (rank burst : Nat) (write : Bool) (s : State) : State :=
  let r := newReq s 20 burst write (if write then fullMask else 0) false false
  enter c { r with rank := some rank, target := 1000000 } (takeNo s).2
/-- The requests that move a line: its granules that hold data are read from the old rank, and the line is written to the new (R309, R310,
R322). -/
def migRequests (c : Fin 4) (m : Migration) (line : Nat) (v : BitVec 4) (s : State) : State :=
  let s1 := (maskList v.toNat 4).foldl (fun s g => migRequest c m.rank (line * 4 + g) false s) s
  (List.range 4).foldl (fun s g => migRequest c m.target (line * 4 + g) true s) s1
/-- The line in transit is stalled: requests of it, or of the migration, are still in the channel (R309). -/
def migStalled (d : Dch) (line : Nat) : Bool := (d.reqs ++ d.waiting).any fun q => q.rank.isSome || q.burst / 4 == line
/-- The end of a migration (R310–R312). -/
def migrationEnd (c : Fin 4) (m : Migration) (s : State) : State :=
  let s1 := onDch s c fun d => { d with mig := none }
  let s2 := rankEvent c m.rank 3 4 4 (setRank c m.rank .retired s1)
  let s3 := rankEvent c m.target 2 1 4 (setRank c m.target .inService s2)
  let s4 := ldgEnqueue [migRecord c m.rank m.target 2] s3
  if s4.dch[c].failedRanks.contains m.target then
    degrade c m.target (onDch s4 c fun d => { d with failedRanks := d.failedRanks.filter (· ≠ m.target) })
  else s4
/-- `DCH_MIG_PROGRESS`, raised at each quarter of the rank's lines (R319). -/
def migrationProgress (c : Fin 4) (done : Nat) (s : State) : State :=
  match s.dch[c].mig with
  | some g =>
    if done % (rankLines s.dch[c] / 4) = 0 then
      s.raise 0x0913 c.val [(16, g.rank), (20, sat 32 g.copied), (24, sat 32 g.rebuilt), (28, sat 32 g.poisoned)]
    else s
  | none => s
/-- What a migration does with a line in its place, by what the line holds; `none` where nothing is copied (R309). -/
def migrateLine (c : Fin 4) (l : Nat) (unreadable : BitVec 4) (s : State) : Option (BitVec 4 × State) :=
  if reserveFirst s ≤ l then
    some (15, if unreadable = 0 then onMig s c fun g => { g with copied := g.copied + 1 }
      else ((describedBy l (reserveFirst s)).filter fun x => s.segExists (segOf x)).foldl (fun s x => metaRebuild x s)
        (onMig s c fun g => { g with poisoned := g.poisoned + 1 }))
  else if segLine s.usable ≤ l then some (15, migratePool c l unreadable s)
  else if (s.eff l).1 = .never ∨ (s.eff l).1 = .unrestored ∨ !s.segExists (segOf l) then none
  else
    let v := (s.lineAt l).valid
    let bad := unreadable &&& v
    some (v, if bad = 0 then onMig s c fun g => { g with copied := g.copied + 1 } else migrateBad c l bad s)
/-- `MIGRATION_LINE`: once no request of the line at the pointer and none of the migration is in the channel, the line is moved, or passed
over where it holds nothing; the pointer moves on. No line moves before the record of the start is durable, nor from T0 on. -/
def migrationLine (c : Fin 4) (unreadable : BitVec 4) (s : State) : State :=
  let d := s.dch[c]
  match d.mig with
  | none => s
  | some m =>
    let l := lineAtPlace s c ((((rankOrder d).idxOf m.rank) * rankLines d) + m.ptr)
    if s.slu.phase ≠ .idle ∨ !dchRunning s c ∨ s.ldg.jobs.any (·.id = m.job) ∨ migStalled d l then s else
    let s1 := match migrateLine c l unreadable s with
      | none => s
      | some (v, t) => migRequests c m l v t
    let s2 := migrationProgress c (m.ptr + 1) (onMig s1 c fun g => { g with ptr := g.ptr + 1 })
    if m.ptr + 1 ≥ rankLines d then migrationEnd c { m with ptr := m.ptr + 1 } s2 else s2
def execMigrationLine (ch : Fin 4) (unreadable : BitVec 4) (s : State) : Host.Outcome State Fault Refusal :=
  .next (settleWeir (migrationLine ch unreadable s))
end Sys2Proof.Machine
end

