-- ==== Sys2Proof/Machine/Store.lean ====
section
/-! DEFINITION. The seep and the NAND channels (R222, R239, R243–R258): images, checkpoints and areas, NAND operations, cleaning and
merges, the audit pass, and the NST and SEEP commands. -/
namespace Sys2Proof.Machine
def onNch (s : State) (c : Fin 16) (f : Nch → Nch) : State := onStore s fun st => { st with ch := vmod st.ch c f }
def nErr (c : Fin 16) (m : BitVec 5) (s : State) : State := onNch s c fun x => { x with errs := x.errs ||| m }
/-! ## The segment table in NAND (R85, R241) -/
/-- The newest sealed area. -/
def newestSealed (st : Store) : Option Area :=
  st.sealed.foldl (fun m a => match m with | none => some a | some b => if b.stripe.gen < a.stripe.gen then some a else some b) none
/-- A checkpoint reads: its header and every table page. -/
def ckptGood (st : Store) (k : Ckpt) : Bool := (k.header :: k.tables).all (pageReads st)
/-- The table to begin from, and the key up to which it includes the markers. -/
def baseTable (st : Store) : Key × AMap Seg :=
  let c := match st.ckpts.find? (ckptGood st) with | some k => (k.key, k.segs) | none => (Key.zero, [])
  match newestSealed st with
  | some a => if keyLt c.1 (logKey a.stripe.gen) then (logKey a.stripe.gen, a.metaSeg) else c
  | none => c
/-- A marker's entry on its run. -/
def applyMarker (t : AMap Seg) (m : Marker) : AMap Seg := (List.range' m.first m.count).foldl (fun t g => mset Seg.new t g m.entry) t
/-- A stored table as the table in force: the last entry of a segment counts. -/
def asTable (m : AMap Seg) : AMap Seg := m.foldl (fun t p => mset Seg.new t p.1 p.2) []
/-- The markers that count: of a change, either all its markers are there or none of them counts (R85; log entry 157). -/
def wholeMarkers (st : Store) : List (Key × Marker) :=
  let ms := placedMarkers st
  let k := ((st.ckpts.head?).map (·.key)).getD Key.zero
  ms.filter fun x => keyLt x.1 k || !keyLt k x.1 || decide (x.2.change.2 ≤ (ms.filter fun y => y.2.change = x.2.change).length)
/-- The segment table that NAND holds, of markers whose keys `upTo` admits; entries of segments that do not exist are left out. -/
def tableOf (s : State) (upTo : Key → Bool) : AMap Seg :=
  let (k, t) := baseTable s.store
  let t' := (((wholeMarkers s.store).filter fun x => keyLt k x.1 && upTo x.1).map (·.2)).foldl applyMarker (asTable t)
  t'.filter fun p => decide (p.1 < s.usable)
def tableFound (s : State) : AMap Seg := tableOf s fun _ => true
/-! ## Images and pages that are live (R238, R239, R249, R250, R252) -/
/-- The newest image of a segment. -/
def imageOf (st : Store) (seg : Nat) : Option Image := (st.images.filter (·.seg = seg)).getLast?
/-- Every page of an image is programmed. -/
def imageDone (st : Store) (im : Image) : Bool := let ps := pendingPages st; (im.map :: im.pages).all fun p => !ps.contains p
/-- The images that a checkpoint names now: complete, of segments that hold a line, and not emptied since. -/
def imagesNow (st : Store) : List (Nat × Nat) :=
  ((st.images.map (·.seg)).dedup).filterMap fun g =>
    match (st.images.filter fun im => im.seg = g ∧ imageDone st im).getLast? with
    | some im =>
      if presentLines st g ≠ [] ∧ (match voidKey st g with | some k => !keyLt im.cut k | none => true) = true then some (g, im.map) else none
    | none => none
/-- An EMPTIES marker still voids records of an image or of a sealed area. -/
def markerLive (st : Store) (k : Key) (m : Marker) : Bool :=
  m.empties && ((st.sealed.any fun a => keyLt (logKey a.stripe.gen) k && a.log.any fun r => markerHits m (segOf r.line))
    || st.images.any fun im => keyLt im.cut k && markerHits m im.seg)
/-- A journal page that the tail may not pass, `k` being the key whose markers the checkpoint includes. -/
def pageLive (st : Store) (k : Key) (p : JPage) : Bool :=
  !p.durable || (p.slots.zipIdx.any fun q => match q.1 with
    | .line r _ => isLive st ⟨jkey p, r, p.ppa, q.2⟩
    | .marker m => keyLt k (jkey p) || markerLive st (jkey p) m)
/-- Keys of markers that a segment table cannot include yet: of pages still being programmed, and of changes whose markers are not all
there (R85, R237). -/
def openMarkers (st : Store) : List Key :=
  let whole := wholeMarkers st
  ((st.journal.filter fun p => !p.durable && p.slots.any fun x => (slotMarker x).isSome).map jkey)
    ++ ((placedMarkers st).filter fun x => !whole.contains x).map (·.1)
/-- K of a checkpoint (R239): the newest key of the durable journal pages and the sealed areas below every marker that is still open. -/
def newestKey (st : Store) : Key :=
  let xs := openMarkers st
  ((st.sealed.map fun a => logKey a.stripe.gen) ++ (durablePages st).map jkey).foldl
    (fun k x => if xs.all (keyLt x) then keyMax k x else k) Key.zero
/-- The journal tail (R239). -/
def tailOf (st : Store) (k : Key) : Nat := ((st.journal.find? (pageLive st k)).map (·.jseq)).getD st.jseq
/-- 4 KiB units of the metadata delta with index entries of `segs` segments (R198). -/
def metaUnits (s : State) (segs : Nat) : Nat := 2 + (4 * s.usable + 4095) / 4096 + (1040 * segs + 4095) / 4096
/-- Pages of a boot copy: the NCFG in every good block, and those of the image (R499). -/
def bootBlocks (st : Store) (i : Fin 2) : List Nat := ((List.range 16).map fun b => 8 * i.val + b * 2 ^ 20).filter fun k => !isBad st k
def ncfgPages (st : Store) (i : Fin 2) : List Nat := bootBlocks st i
def fwPages (st : Store) (i : Fin 2) (codeLen : Nat) : List Nat :=
  ((bootBlocks st i).flatMap fun k => (List.range (st.ncfg.ppb - 1)).map fun p => k + 2 ^ 8 * (p + 1)).take ((4096 + codeLen + pageBytes - 1) / pageBytes)
def copyPages (s : State) (i : Fin 2) : List Nat :=
  ncfgPages s.store i ++ (match s.boot.copies[i].2 with | some x => fwPages s.store i x.codeLen | none => [])
/-- Pages that hold live data: images, journal from the tail, unmerged areas, checkpoints, ring pages and the boot copies (R252). -/
def livePages (s : State) : List Nat :=
  let st := s.store
  let area (a : Area) : List Nat :=
    let n := (a.log.length + 59) / 60
    let m := match a.sealRec with | some q => (q.metaLen + 3) / 4 | none => 0
    (List.range (n + m)).map (areaPage st.ncfg a) ++ [a.sealA, a.sealB]
  let images := st.images.flatMap fun im => im.map :: im.pages
  let journal := (st.journal.filter fun p => p.durable && decide (st.jt ≤ p.jseq)).map (·.ppa)
  let ckpts := st.ckpts.flatMap fun k => k.header :: k.tables
  let rings := (List.range st.ring.index).flatMap fun i => [st.ring.a + 2 ^ 8 * i, st.ring.b + 2 ^ 8 * i]
  (images ++ journal ++ st.sealed.flatMap area ++ ckpts ++ rings).filter (· ≠ 0) ++ copyPages s 0 ++ copyPages s 1
/-! ## Merges (R238, R249) -/
/-- A merged record: one that is lost stays so, as poison (R215; log entry 160). -/
def mergedRec (s : State) (x : Placed) : Rec := if isLost s.store x then { x.record with poison := 15, value := rawBytes s } else x.record
/-- A page of the segment's records is still being programmed, an image among them. -/
def mergeBusy (st : Store) (seg : Nat) : Bool :=
  (st.journal.any fun p => !p.durable && p.slots.any fun x => match x with | .line r _ => segOf r.line == seg | .marker m => markerHits m seg)
    || st.images.any fun im => decide (im.seg = seg) && !imageDone st im
/-- Write an image of a segment with its newest durable values: their pages are read, and the map and record pages programmed. -/
def writeImage (seg : Nat) (s : State) : State :=
  let st := s.store
  let xs := (presentLines st seg).filterMap (durableOf st)
  if xs = [] ∨ mergeBusy st seg then s else
  let n := (xs.length + 59) / 60
  match takePages seg (n + 1) s with
  | (none, _) => s
  | (some ps, s1) =>
    let old := match imageOf st seg with | some im => im.cut | none => Key.zero
    let im : Image := ⟨seg, xs.foldl (fun k x => keyMax k x.key) old, ps.headD 0, ps.tail, xs.map (mergedRec s)⟩
    let s2 := ((xs.map (·.ppa)).dedup).foldl (fun s p => nandRead (.merge seg) p s) s1
    programPages .other ps (mapPageBytes im :: (List.range n).map (imagePageBytes s.slot im))
      (onStore s2 fun st => { st with images := st.images ++ [im], wrMerge := st.wrMerge + (n + 1) * pageBytes })
/-- Sealed areas none of whose records is live are freed: the root that drops them is written before the erase (R250).
The newest seal is kept: its context records are those that a restore takes (R115, R208). -/
def freeAreas (s : State) : State :=
  let newest := (s.store.sealed.map (·.stripe.gen)).foldl max 0
  let live (a : Area) : Bool := a.log.zipIdx.any fun q => isLive s.store ⟨logKey a.stripe.gen, q.1, areaPage s.store.ncfg a (q.2 / 60), q.2 % 60⟩
  let gone := s.store.sealed.filter fun a => decide (a.stripe.gen ≠ newest) && !live a
  if gone = [] ∨ !nandOpen s then s else
  let s1 := writeRoot (onStore s fun st => { st with sealed := st.sealed.filter fun a => !gone.contains a })
  freeBlocks (gone.flatMap fun a => stripeBlocks s.store.ncfg.planes a.stripe) s1
/-- Span of the journal from the tail, in MiB. -/
def spanMiB (st : Store) : Nat := (st.jseq - st.jt) * pageBytes / 2 ^ 20
/-- Journal records of a segment above its image's CUT. -/
def unmerged (st : Store) (seg : Nat) : Nat :=
  let cut := match imageOf st seg with | some im => im.cut | none => Key.zero
  let above (k : Key) : Bool := keyLt cut k && (match voidKey st seg with | some v => !keyLt k v | none => true)
  (((durablePages st).filter fun p => above (jkey p)).flatMap fun p => (p.slots.filterMap slotRec).filter fun r => segOf r.line = seg).length
def inOldestArea (st : Store) (seg : Nat) : Bool :=
  match st.sealed.head? with
  | some a => a.log.zipIdx.any fun q => decide (segOf q.1.line = seg) && isLive st ⟨logKey a.stripe.gen, q.1, areaPage st.ncfg a (q.2 / 60), q.2 % 60⟩
  | none => false
/-- The segment owns a live record in the oldest journal stripe. -/
def inOldestStripe (st : Store) (seg : Nat) : Bool :=
  match st.oldStripes ++ st.stripe.toList with
  | [] => false
  | x :: _ => (liveOn st fun p => (st.journal.any fun q => q.ppa = p && q.durable && decide (x.base ≤ q.jseq) && decide (q.jseq < x.base + stripePages st.ncfg x))).any
      fun y => segOf y.record.line = seg
/-- The segment has a record, in the journal or in a sealed area, newer than its image (R249). -/
def hasUnmerged (st : Store) (seg : Nat) : Bool :=
  let cut := match imageOf st seg with | some im => im.cut | none => Key.zero
  (liveRecords st seg).any fun x => keyLt cut x.key
/-- A merge may start under the rate limit: MERGE_RATE (R249). -/
def mergeRateOk (s : State) : Bool := decide (s.store.mergeAt ≤ s.now)
/-- A segment is to be merged (R249). -/
def mergeDue (s : State) (seg : Nat) : Bool :=
  let st := s.store
  let n := (presentLines st seg).length
  let u := unmerged st seg
  decide (n > 0) &&
    ((mergeRateOk s && ((decide (u > 0) && decide (u * 100 ≥ st.mergeFrac * n)) || inOldestArea st seg))
      || (decide (spanMiB st * 4 > st.jrnMax * 3) && inOldestStripe st seg)
      || (spaceLow s && hasUnmerged st seg))
/-- The seep works while the store serves and no save runs. -/
def seepRuns (s : State) : Bool := (s.glb.state == 1 || s.glb.state == 2) && decide (s.slu.phase = .idle) && s.store.root.isSome
/-- `SEEP_MERGE`. -/
def seepMerge (seg : Nat) (s : State) : State :=
  if !seepRuns s ∨ !mergeDue s seg then s else
  let s1 := writeImage seg s
  let d := (s1.store.wrMerge - s.store.wrMerge) * 800 / max 1 s.store.mergeRate
  checkSpace (freeAreas (onStore s1 fun st => { st with merging := true, mergeAt := s.now + d }))
def execSeepMerge (seg : Nat) (s : State) : Host.Outcome State Fault Refusal := .next (seepMerge seg s)
/-! ## Checkpoints (R239, R249, R250) -/
/-- Images that neither kept checkpoint nor the newest set names are dropped, with their blocks. -/
def dropImages (s : State) : State :=
  let now := imagesNow s.store
  let kept (im : Image) : Bool :=
    now.contains (im.seg, im.map) || !imageDone s.store im || s.store.ckpts.any fun k => k.images.contains (im.seg, im.map)
  let gone := s.store.images.filter fun im => !kept im
  freeBlocks ((gone.flatMap fun im => im.map :: im.pages).map blockOf).dedup
    (onStore s fun st => { st with images := st.images.filter kept })
/-- Journal pages and stripes below the tail of the older kept checkpoint are gone (R250). -/
def dropJournal (s : State) : State :=
  let lim := (s.store.ckpts.map (·.jt)).foldl min s.store.jt
  let gone := s.store.oldStripes.filter fun x => x.base + stripePages s.store.ncfg x ≤ lim
  freeBlocks (gone.flatMap (stripeBlocks s.store.ncfg.planes))
    (onStore s fun st => { st with journal := st.journal.filter (fun p => lim ≤ p.jseq), oldStripes := st.oldStripes.filter fun x => !gone.contains x })
/-- Write a checkpoint (R239): header and table pages lie in the free pool, in whole blocks. Of a checkpoint that is no longer
kept, every block is freed. -/
def writeCheckpoint (s : State) : State :=
  let s0 := dropOldRing s
  let st := s0.store
  let k := newestKey st
  let jt := tailOf st k
  let ls := boardLuns s0
  let blocks := ls.length * st.ncfg.blocks
  let pages := 1 + (8 * s0.usable + 2 * blocks + 16379) / 16380
  let seq := ((st.ckpts.head?).map (·.seq)).getD 0 + 1
  match takePages seq pages s0 with
  | (none, _) => s0
  | (some ps, s1) =>
    let c : Ckpt := ⟨seq, k, jt, ps.headD 0, ps.tail, tableOf s1 (fun x => !keyLt k x), imagesNow s1.store, s1.store.blocks.map fun p => (p.1, blkErases s1.store p.1 p.2)⟩
    let count (i : Nat) : Nat := let b := ppaOf (ls.getD (i / st.ncfg.blocks) 0) (i % st.ncfg.blocks) 0; blkErases s1.store b (blkAt s1.store b)
    let old := (st.ckpts.drop 1).flatMap fun x => ((x.header :: x.tables).map blockOf).dedup
    let s2 := programPages .other ps (ckptPages c s0.usable blocks count) s1
    let s3 := wroteOther pages (onStore s2 fun st =>
      { st with ckpts := c :: st.ckpts.take 1, jt := jt, merging := false, ckptDue := false, ckptAt := s.now })
    checkSpace (freeAreas (dropJournal (dropImages (freeBlocks old (writeRoot s3)))))
/-- When the tail has advanced by 16 MiB since the last, or the set of images has changed and 1 s has passed since the last (log
entry 161); or one is owed. -/
def checkpointDue (s : State) : Bool :=
  let st := s.store
  let (jt, ims) := match st.ckpts.head? with | some c => (c.jt, c.images) | none => (0, [])
  st.ckptDue || decide ((tailOf st (newestKey st) - jt) * pageBytes ≥ 2 ^ 24)
    || (decide (imagesNow st ≠ ims) && decide (st.ckptAt + 800000000 ≤ s.now))
def stripeOn (c : Nat) (x : Stripe) : Bool := x.order.any fun l => l % 16 == c
def areaOn (c : Nat) (a : Option Area) : Bool := match a with | some y => stripeOn c y.stripe | none => false
def openStripeOn (st : Store) (c : Nat) : Bool := match st.stripe with | some x => stripeOn c x | none => false
/-- Live records, or a part of the ready, the pre-erased or the open stripe, lie on the channel (R253). -/
def holdsRecords (st : Store) (c : Nat) : Bool :=
  !(liveOn st fun p => ppaChan p == c).isEmpty || areaOn c (readyNamed st) || areaOn c st.nextArea || openStripeOn st c
/-- What keeps a channel from being stopped: besides, the rings and the boot region (R253). -/
def holdsLive (st : Store) (c : Nat) : Bool :=
  holdsRecords st c || c == 0 || c == 8 || ((st.ring.a ≠ 0 && ppaChan st.ring.a == c) || (st.ring.b ≠ 0 && ppaChan st.ring.b == c))
/-- Home pages of a sealed area's metadata. -/
def metaHome (a : Area) : List Nat :=
  let n := (a.log.length + 59) / 60
  (List.range (match a.sealRec with | some q => (q.metaLen + 3) / 4 | none => 0)).map (n + ·)
/-- Pages of checkpoints, images and the metadata and seals of unmerged areas. -/
def ckptPagesOf (k : Ckpt) : List Nat := k.header :: k.tables
def imagePages (im : Image) : List Nat := im.map :: im.pages
def areaMeta (nc : Ncfg) (a : Area) : List Nat := (metaHome a).map (areaPage nc a) ++ [a.sealA, a.sealB]
/-- Something movable lies on the channel (R253). -/
def holdsMovable (st : Store) (c : Nat) : Bool :=
  let on (p : Nat) : Bool := ppaChan p == c && p ≠ 0
  holdsRecords st c || (st.ckpts.flatMap ckptPagesOf ++ st.images.flatMap imagePages ++ st.sealed.flatMap (areaMeta st.ncfg)).any on
def wakeEvacuate (s : State) : State :=
  wake (fun w => match w with | .evacuate m st => if (maskList m 16).any (holdsMovable s.store) then .go else .done st none | _ => .go) s
/-- `CHECKPOINT_WRITE`. -/
def checkpointWrite (s : State) : State := if seepRuns s && checkpointDue s then wakeEvacuate (writeCheckpoint s) else s
def execCheckpointWrite (s : State) : Host.Outcome State Fault Refusal := .next (checkpointWrite s)
/-! ## Areas (R195, R235, R236) -/
/-- Pages that an area must hold: the records of a millpond equal to the shadow pool, and the metadata of every segment. -/
def areaNeed (s : State) : Nat := (s.ret.sum.shadow * 8192 + 59) / 60 + (metaUnits s s.usable + 3) / 4
def homeRows (s : State) (l : Nat) : Nat := let row := max 1 (l * s.store.ncfg.planes * s.store.ncfg.ppb); (areaNeed s + row - 1) / row
/-- A fresh area, erased and with no generation, where the LUNs have the blocks for it. -/
def preErase (s : State) : Option Area × State :=
  let h := homeRows s (luns s).length
  let spare := (h + 14) / 15 + 1
  if (rowLuns s (h + spare)).length < (luns s).length ∨ luns s = [] then (none, s) else
  let (x, s1) := newStripe true h spare 0 0 0 s
  (some ⟨x, [], [], [], (sealPlaces s.store.ncfg x).1, (sealPlaces s.store.ncfg x).2, none, [], 0, []⟩, s1)
/-- Keep the next area erased in advance (R236). -/
def preEraseNext (s : State) : State :=
  if s.store.nextArea.isSome then s else
  let (a, s1) := preErase s
  if a.isNone then s1 else writeRoot (onStore s1 fun st => { st with nextArea := a })
/-- The area being readied is ready once its descriptor and the root that names it are programmed (R236). -/
def areaReadied (s : State) : State :=
  match s.store.readying with
  | none => s
  | some (a, _) =>
    if s.store.ready.isSome ∨ !ringIdle s.store then s else onStore s fun st => { st with ready := some a, readying := none, gen := a.stripe.gen }
/-- Begin to ready the next area: its descriptor with its generation, and a root that names it (R236). -/
def readyArea (s : State) : State :=
  if s.store.ready.isSome ∨ s.store.readying.isSome ∨ s.store.sealed.length ≥ 16 ∨ s.store.root.isNone then s else
  match (match s.store.nextArea with | some a => (some a, s) | none => preErase s) with
  | (none, s1) => s1
  | (some a, s1) =>
    let x : Stripe := { a.stripe with gen := s1.store.gen + 1 }
    let (p, s2) := ringPages (descriptorPages true x a.sealA a.sealB) s1
    let was := if s.store.nextArea.isSome then a.stripe.desc else 0
    let s3 := onStore s2 fun st => { st with readying := some ({ a with stripe := { x with desc := p } }, was), nextArea := none }
    let (n, s4) := preErase s3
    areaReadied (writeRoot (onStore s4 fun st => { st with nextArea := n }))
/-- `AREA_READY`. -/
def execAreaReady (s : State) : Host.Outcome State Fault Refusal :=
  .next (settleWeir (if seepRuns s then preEraseNext (readyArea (areaReadied s)) else s))
/-- `RING_ROTATE`: when the ring block is full; old ring blocks whose anchor is written are erased. -/
def ringRotate (s : State) : State :=
  if !nandOpen s then s
  else if s.store.root.isSome && decide (s.store.ring.index ≥ s.store.ncfg.ppb) then rotateRings s else dropOldRing (kickAnchor s)
def execRingRotate (s : State) : Host.Outcome State Fault Refusal := .next (ringRotate s)
/-- Erase counts of a LUN's good blocks, each with its block, highest first where `hi`. -/
def lunBlocks (st : Store) (lun : Nat) : List Nat := ((List.range st.ncfg.blocks).map fun b => ppaOf lun b 0).filter fun k => !isBad st k && !isBoot k
/-- `STATIC_SPREAD` (R245): the image that holds the LUN's least-erased block is rewritten. -/
def staticSpread (lun : Nat) (s : State) : State :=
  let st := s.store
  let ks := lunBlocks st lun
  let hi := (ks.map fun k => (blkAt st k).erases).foldl max 0
  let lo := (ks.map fun k => (blkAt st k).erases).foldl min hi
  let im := st.images.find? fun im => (im.map :: im.pages).any fun p => decide ((blkAt st (blockOf p)).erases = lo) && decide (p % 128 = lun)
  match im with
  | some im => if seepRuns s && decide (hi - lo > 2000) && imageOf st im.seg == some im then writeImage im.seg s else s
  | none => s
def execStaticSpread (lun : Nat) (s : State) : Host.Outcome State Fault Refusal := .next (staticSpread lun s)
/-! ## Boot copies (R227, R499, R503) -/
/-- Erase a copy's good blocks and program the NCFG into page 0 of each, and the image (R499, R503). -/
def programCopy (i : Fin 2) (x : Option FwImage) (s : State) : State :=
  let ks := bootBlocks s.store i
  let s1 := ks.foldl (fun s k => nandOp .erase .boot k [] s) s
  let s2 := programPages .boot ks (ks.map fun _ => padTo pageBytes (ncfgBytes s.store.ncfg)) s1
  let n := match x with | some y => (fwPages s.store i y.codeLen).length | none => 0
  let s3 := match x with
    | some y => programPages .boot (fwPages s.store i y.codeLen)
        ((List.range n).map fun j => padTo pageBytes (((imageBytes y).drop (pageBytes * j)).take pageBytes)) s2
    | none => s2
  wroteOther (ks.length + n) { s3 with boot := { s3.boot with copies := vmod s3.boot.copies i fun _ => (some s.store.ncfg, x) } }
/-- A copy found bad is rewritten from the other (R252). -/
def copyFrom (i : Fin 2) (s : State) : State := programCopy i s.boot.copies[(1 - i : Fin 2)].2 s
/-- Which copy a boot page belongs to. -/
def copyOf (p : Nat) : Fin 2 := if p % 16 = 0 then 0 else 1
/-- A block of a copy has failed while the copy is written: what is queued for the copy is dropped, and the copy is laid out again in the
good blocks of its range (R227). -/
def layOutAgain (i : Fin 2) (s : State) : State :=
  let mine (o : NOp) : Bool := decide (o.use = .boot) && o.kind ≠ .read && decide (copyOf o.ppa = i)
  programCopy i s.boot.copies[i].2
    (onStore s fun st => { st with ops := st.ops.filter (fun o => !mine o), waitq := st.waitq.filter fun o => !mine o })
/-! ## Ends of NAND operations (R222, R237, R243, R244, R247) -/
/-- The clean of a line whose page has become durable (R123, R124, R126). -/
def cleanDone (r : Rec) (serial : Nat) (s : State) : State :=
  let x := s.lineAt r.line
  match (s.lineSeg r.line).cls, s.eff r.line with
  | .epoch, (.committed, false) =>
    if x.serial = serial then s.setLine r.line { x with state := .clean, flip := false, baseZero := false, stamp := 0, charge := none } else s
  | .epoch, (.openOver, false) =>
    if x.base = serial then (s.setLine r.line { x with state := .opened, baseZero := false }).freeShadow r.line else s
  | .latest, (.dirty, _) =>
    if x.serial = serial then s.setLine r.line { x with state := .clean, charge := none } else s
  | _, _ => s
def slotCleaned (x : Slot) (s : State) : State := match x with | .line r (some n) => cleanDone r n s | _ => s
/-- A journal page has become durable. Its bytes count as cleaning, those of the records that are only rewritten as refresh
(R245, R256). -/
def pageDurable (j : Nat) (s : State) : State :=
  match s.store.journal.find? (·.jseq = j) with
  | none => s
  | some p =>
    let again := (p.slots.filter fun x => match x with | .line _ none => true | _ => false).length
    let share := pageBytes * again / max 1 p.slots.length
    let s1 := onStore s fun st => { st with wrClean := st.wrClean + (pageBytes - share), wrMerge := st.wrMerge + share,
                                            journal := st.journal.map fun q => if q.jseq = j then { q with durable := true } else q }
    checkSpace (freeAreas (wakeNand (p.slots.foldl (fun s x => slotCleaned x s) s1)))
/-- A page whose program failed is issued again with a new JSEQ, without records that a later marker voids (R237). -/
def reissue (j : Nat) (s : State) : State :=
  match s.store.journal.find? (·.jseq = j) with
  | none => s
  | some p =>
    let voids (seg : Nat) (x : Slot) : Bool := match x with | .marker m => m.empties && markerHits m seg | .line _ _ => false
    let later (seg : Nat) : Bool := s.store.filling.any (voids seg) || s.store.journal.any fun q => decide (j < q.jseq) && q.slots.any (voids seg)
    let keep := p.slots.filter fun x => match x with | .line r _ => !later (segOf r.line) | .marker _ => true
    let s1 := onStore s fun st => { st with journal := st.journal.filter (·.jseq ≠ j) }
    if canJournal s1 then journalPage p.first keep s1 else onStore s1 fun st => { st with filling := keep ++ st.filling }
/-- The last 1,000 program times of each LUN. -/
def noteProg (l us : Nat) (xs : List (Nat × Nat)) : List (Nat × Nat) :=
  if (xs.filter (·.1 = l)).length < 1000 then (l, us) :: xs else (l, us) :: (xs.reverse.eraseP (·.1 = l)).reverse
def lunOfPpa (p : Nat) : Nat := 2 * (p / 16 % 4) + p / 64 % 2
def noteTime (kind : NKind) (ppa us : Nat) (x : Nch) : Nch :=
  match kind with
  | .program => { x with progs := noteProg (lunOfPpa ppa) us x.progs }
  | .read => { x with readTimes := (us :: x.readTimes).take 1000 }
  | .erase => x
def nchDrained (c : Fin 16) (s : State) : State :=
  if s.life[nstLife c].life ≠ .draining ∨ s.store.ops.any (·.ch = c) then s else checkCapacity (drained (nstLife c) s)
/-- A page whose worst codeword needs REFRESH_BITS or more corrections: its live records are rewritten (R243). -/
def refreshPage (p : Nat) (s : State) : State :=
  let rs := liveOn s.store (· == p)
  rs.foldl (fun s x => if isLost s.store x then s else rejournal x.record s)
    (bucketAdd (Fin.ofNat 37 (12 + ppaChan p)) (onStore s fun st => { st with refresh := sat 32 (st.refresh + 1), auditRefreshed := st.auditRefreshed + b2n st.auditing }))
/-- A read that fails to decode some codeword, with retry levels left: it is made again at the next level (R243). -/
def readAgain (s : State) (errors : List Nat) (retries : Nat) : Bool :=
  (errors.take 16).any (fun e => decide (60 < e)) && decide (retries < s.store.ncfg.retrySteps)
/-- The SET FEATURES of the retry levels that a read went through (R221, R243). -/
def retryLevels (p n : Nat) (s : State) : State :=
  (s.store.ncfg.retry.take (min n s.store.ncfg.retrySteps)).foldl (fun s w => s.emit (.nandRetry p w)) s
/-- A page has been read: the errors of each of its codewords at the last retry level tried. More than 60 at the last level of NCFG are
beyond the code (R242, R243). -/
def pageRead (p : Nat) (errors : List Nat) (retries : Nat) (s0 : State) : State :=
  let s := retryLevels p retries s0
  let bad := (errors.zipIdx.filter fun q => decide (60 < q.1) && decide (q.2 < 16)).map fun q => (p, q.2)
  let fixed := (errors.filter (· ≤ 60)).sum
  let s1 := onNch (onStore s fun st => { st with badWords := st.badWords ++ bad.filter fun w => !st.badWords.contains w }) (Fin.ofNat 16 (ppaChan p)) fun x =>
    { x with corr := sat 32 (x.corr + fixed), uncorr := sat 32 (x.uncorr + bad.length), retry := sat 32 (x.retry + retries),
             errs := x.errs ||| (if bad = [] then 0 else 4) }
  if errors.any fun e => decide (s.store.refreshBits ≤ e) then refreshPage p s1 else s1
/-- A program ended: what it was for. A page that failed retires its block, and what it held is written elsewhere (R244). -/
def programDone (op : NOp) (ok : Bool) (s : State) : State :=
  match op.use, ok with
  | .journal j, true => pageDurable j s
  | .journal j, false => reissue j (retireBlock (blockOf op.ppa) 2 s)
  | .boot, false => layOutAgain (copyOf op.ppa) (retireBlock (blockOf op.ppa) 2 s)
  | _, false => retireBlock (blockOf op.ppa) 2 s
  | _, true => s
/-- An erasure ended. A boot block that is retired by it has its copy laid out again (R227, R244). -/
def eraseDone (op : NOp) (ok : Bool) (s : State) : State :=
  let s1 := if ok then erased_ (op.use = .boot) op.ppa s else retireBlock op.ppa 1 s
  if op.use = .boot ∧ isBoot op.ppa ∧ isBad s1.store op.ppa then layOutAgain (copyOf op.ppa) s1 else s1
/-! ### Structures on blocks, LUNs and channels that leave service (R244, R253) -/
/-- A page lies where nothing is to stay: in a bad block, on a retired LUN, or on a channel being evacuated. What lies on a channel that
has failed for good cannot be read. -/
def misplaced (s : State) (p : Nat) : Bool :=
  let c : Fin 16 := Fin.ofNat 16 (ppaChan p)
  p ≠ 0 && !nchDead s.store (ppaChan p)
    && (isBad s.store (blockOf p) || s.store.evacuating.getLsbD (ppaChan p)
      || (s.store.ch[c].installed && s.store.ch[c].trained && !s.store.ch[c].lunSvc.getLsbD (lunOfPpa p)))
/-- Program page `n` of a sealed area's metadata, or a seal copy, in a spare page elsewhere (R235, R244). -/
def moveMeta (n : Nat) (x : Area × State) : Area × State :=
  let (a, s) := x
  if !misplaced s (areaPage s.store.ncfg a n) then x else
  match freeSpare s.store.ncfg (fun p => !misplaced s p) a with
  | none => x
  | some (p, k) =>
    let delta := metaBytes a.stripe.gen s.usable a.metaCtx a.metaSeg a.log
    let i := n - (a.log.length + 59) / 60
    ({ a with moved := a.moved.filter (·.1 ≠ n) ++ [(n, p)], spareUsed := k },
     nandOp .program .other p (metaPage a.stripe.gen n ((delta.drop (pageBytes * i)).take pageBytes)) s)
def moveSeal (b : Bool) (x : Area × State) : Area × State :=
  let (a, s) := x
  if !misplaced s (if b then a.sealB else a.sealA) then x else
  match freeSpare s.store.ncfg (fun p => !misplaced s p) a, a.sealRec with
  | some (p, k), some q =>
    let crc := (crc32 (metaBytes a.stripe.gen s.usable a.metaCtx a.metaSeg a.log)).toNat
    (if b then { a with sealB := p, spareUsed := k } else { a with sealA := p, spareUsed := k },
     nandOp .program .other p (padTo pageBytes (sealBytes a.stripe.gen q crc)) s)
  | _, _ => x
/-- A sealed area's metadata and seals leave the places where they cannot stay; a seal that moves is named by a new descriptor. -/
def tidyArea (a0 : Area) (s0 : State) : State :=
  let (a, s) := moveSeal true (moveSeal false ((metaHome a0).foldl (fun x n => moveMeta n x) (a0, s0)))
  if a = a0 then s0 else
  let put (a : Area) (s : State) : State := onStore s fun st => { st with sealed := st.sealed.map fun x => if x.stripe.gen = a.stripe.gen then a else x }
  if a.sealA = a0.sealA ∧ a.sealB = a0.sealB then put a s
  else
    let (p, s1) := ringPages (descriptorPages true a.stripe a.sealA a.sealB) s
    writeRoot (put { a with stripe := { a.stripe with desc := p } } s1)
/-- Images, checkpoints and areas leave the places where they cannot stay: an image is merged anew, checkpoints are written until neither
kept one, nor an image that one alone names, lies there. -/
def tidy (s : State) : State :=
  if !seepRuns s then s else
  let st := s.store
  let ims := st.images.filter fun im => (imagePages im).any (misplaced s)
  let ars := st.sealed.filter fun a => (areaMeta st.ncfg a).any (misplaced s)
  let cks := st.ckpts.any fun k => (ckptPagesOf k).any (misplaced s)
  let alone := ims.any fun im => imageOf st im.seg ≠ some im && !mergeBusy st im.seg
  let s1 := (ims.filter fun im => imageOf st im.seg == some im).foldl (fun s im => writeImage im.seg s) s
  let s2 := ars.foldl (fun s a => tidyArea a s) s1
  if cks ∨ alone ∨ st.ckptDue then writeCheckpoint s2 else s2
/-- The store goes on after an operation: what waited for ring pages, and what is still to be moved (R231, R236, R244). -/
def storeMoves (s : State) : State := wakeEvacuate (issueAll (areaReadied (kickAnchor (tidy s))))
/-- `NAND_OP_DONE`: an operation of the channel ends, the oldest, or of reads the one served first (R213). A read that has a retry level
left goes on at it. -/
def nandOpDone (c : Fin 16) (ok : Bool) (us : Nat) (errors : List Nat) (retries : Nat) (s : State) : State :=
  if s.glb.state = 3 ∨ (s.life[nstLife c].life ≠ .running ∧ s.life[nstLife c].life ≠ .draining) then s else
  match nextOp (s.store.ops.filter (·.ch = c)) with
  | none => s
  | some op =>
    if op.kind = .read ∧ readAgain s errors retries then s else
    let s1 := onNch (onStore s fun st => { st with ops := st.ops.erase op }) c (noteTime op.kind op.ppa us)
    let s2 := match op.kind with
      | .program => programDone op ok (if ok then s1 else nErr c 1 s1)
      | .erase => eraseDone op ok (if ok then s1 else nErr c 2 s1)
      | .read => pageRead op.ppa errors retries s1
    nchDrained c (storeMoves s2)
def execNandOpDone (ch : Fin 16) (ok : Bool) (us : Nat) (errors : List Nat) (retries : Nat) (s : State) : Host.Outcome State Fault Refusal :=
  .next (settleWeir (nandOpDone ch ok us errors retries s))
/-! ## Channel faults (R254) -/
/-- The channel is dropped from the stripe that a save fills: pages that were to go there go to spare pages elsewhere, and
`CHANNEL_FAULT` is set (R201). -/
def saveLoses (c : Fin 16) (s : State) : State :=
  if s.glb.state = 3 ∧ s.slu.phase ≠ .idle then
    onStore (onSlu s fun x => { x with chFault := true }) fun st => { st with ready := st.ready.map fun a => { a with dropped := a.dropped ++ [c.val] } }
  else s
/-- `NAND_OP_TIMEOUT`: cause 1. The sluice's own operations are in flight while it writes. -/
def nandOpTimeout (c : Fin 16) (s : State) : State :=
  let fault (s : State) : State := unitFault (nstLife c) 1 (onNch (nErr c 0x18 s) c fun x => { x with restarts := 0 })
  if s.glb.state = 3 ∧ (s.slu.phase = .log ∨ s.slu.phase = .metadata ∨ s.slu.phase = .sealing) then saveLoses c (fault s)
  else if !(s.store.ops.any (·.ch = c)) then s
  else fault s
def execNandOpTimeout (ch : Fin 16) (s : State) : Host.Outcome State Fault Refusal := .next (nandOpTimeout ch s)
/-- Operations of a channel that `f` picks are taken back, in flight or waiting. -/
def takeOps (c : Fin 16) (f : NOp → Bool) (s : State) : List NOp × State :=
  let mine (o : NOp) : Bool := decide (o.ch = c) && f o
  ((s.store.ops ++ s.store.waitq).filter mine,
   onStore s fun st => { st with ops := st.ops.filter (fun o => !mine o), waitq := st.waitq.filter fun o => !mine o })
/-- Pages whose programs will not be made are written elsewhere: journal pages again, images anew; a checkpoint is owed, and the
rings go to new blocks. -/
def moveOps (ops : List NOp) (s : State) : State :=
  let ps := (ops.filter (·.kind = .program)).map (·.ppa)
  let s1 := onStore s fun st =>
    { st with badWords := st.badWords ++ ps.flatMap (fun p => (List.range 16).map fun w => (p, w)),
              ckptDue := st.ckptDue || st.ckpts.any fun c => (c.header :: c.tables).any ps.contains }
  let ims := s1.store.images.filter fun im => (im.map :: im.pages).any ps.contains
  let s2 := freeBlocks ((ims.flatMap imagePages).map blockOf).dedup (onStore s1 fun st => { st with images := st.images.filter fun im => !ims.contains im })
  let s3 := (ops.filterMap fun o => match o.use with | .journal j => some j | _ => none).foldl (fun s j => reissue j s) s2
  let s4 := ims.foldl (fun s im => writeImage im.seg s) s3
  if ps.any (ringPage s4.store) then rotateRings s4 else s4
/-- `NST_CHANNEL_RESTART`: one of up to three attempts; after the last failure the LUNs leave service and pages still to
be programmed there go elsewhere. In a save there is none (R201). -/
def nstChannelRestart (c : Fin 16) (ok : Bool) (s : State) : State :=
  let x := s.store.ch[c]
  if s.life[nstLife c].life ≠ .faulted ∨ x.restarts ≥ 3 ∨ s.glb.state = 3 then s else
  let n := x.restarts + 1
  let cause := s.life[nstLife c].fault.toNat
  let s1 := (onNch s c fun x => { x with restarts := n }).raise 0x0710 c.val [(16, n), (17, b2n ok), (18, cause)]
  if ok then
    let s2 := onNch s1 c fun x => { x with restarts := 0, trained := true }
    let s3 := onStore s2 fun st => { st with ops := st.ops.map fun o => if o.ch = c then { o with since := s.now } else o }
    issueAll (((setFault (nstLife c) 0 s3).toLife (nstLife c) .stopped).toLife (nstLife c) .running)
  else if n < 3 then s1
  else
    let (ops, s2) := takeOps c (fun _ => true) (onNch s1 c fun x => { x with lunSvc := 0, trained := false })
    let s3 := if openStripeOn s2.store c.val then closeStripe s2 else s2
    issueAll (moveOps ops (checkCapacity s3))
def execNstChannelRestart (ch : Fin 16) (ok : Bool) (s : State) : Host.Outcome State Fault Refusal := .next (settleWeir (nstChannelRestart ch ok s))
/-! ## Journal and cleaning (R173, R246, R247) -/
/-- `JOURNAL_PAGE_ISSUE`: at 60 slots, or 1 ms after the first was filled. -/
def execJournalPageIssue (s : State) : Host.Outcome State Fault Refusal := .next (if nandOpen s then issuePage s else s)
/-- Emergency cleaning (R173). -/
def emergency (s : State) : Bool := decide (s.ret.weir.level.toNat ≥ 3) || PClass.all.any (classHeld s)
/-- The age rules of R246. -/
def oldEnough (s : State) (l : Nat) : Bool :=
  let x := s.lineAt l
  let closes := (s.ctxAt (s.lineSeg l).owner).closes
  match s.eff l with
  | (.committed, _) => decide (closes ≥ x.closeNo + 1 + s.store.ageMin)
  | (.openOver, _) => decide (closes ≥ x.baseClose + 1 + s.store.ageMin)
  | (.dirty, _) => decide (s.now ≥ x.writtenAt + 8000000)
  | _ => false
/-- A line that the seep may clean now (R124, R246). -/
def mayClean (s : State) (em : Bool) (l : Nat) : Bool :=
  let e := s.eff l
  let form := match (s.lineSeg l).cls, e with
    | .epoch, (.committed, false) => !pinned s l
    | .epoch, (.openOver, false) => !em && !mirCovers s l
    | .latest, (.dirty, _) => true
    | _, _ => false
  form && !markerPending s.store (segOf l) && !inFlight s.store l && !(s.ret.writes.any fun p => p.line = l ∧ p.wait = .copy)
    && dchRunning s (channelOf s l) && (em || oldEnough s l)
/-- The next line in ascending order from where the walk stopped. -/
def nextFrom (w : Nat) (ls : List Nat) : Option Nat := match ls.find? (w ≤ ·) with | some l => some l | none => ls.head?
/-- The line cleaned next: under emergency, first one charged to a class over its reservation. -/
def pickClean (s : State) : Option Nat :=
  let em := emergency s
  let ls := (s.ret.lines.map (·.1)).filter (mayClean s em)
  let first := if em then ls.filter fun l => match (s.lineAt l).charge with | some k => isOverRes s k | none => false else []
  if first = [] then nextFrom s.store.walk ls else first.head?
/-- Debt rises by bytes cleaned without tokens; its rise through the limit is reported (R174). -/
def addDebt (n : Nat) (s : State) : State :=
  let w := s.ret.weir
  let lim := w.debtLimit * 2 ^ 30
  let d := w.debt + n
  if w.debt < lim ∧ lim ≤ d ∧ !w.debtHigh then
    (s.onWeir fun w => { w with debt := d, debtHigh := true }).raise 0x0516 0 [(16, d / 2 ^ 20), (20, w.debtLimit)]
  else s.onWeir fun w => { w with debt := d }
/-- Draw the tokens of one record (R172, R173). -/
def drawTokens (em : Bool) (s : State) : State :=
  let have_ := min 272 s.ret.weir.bucket
  let s1 := s.onWeir fun w =>
    { w with bucket := w.bucket - have_, cleaned := w.cleaned + 272, emerg := if em then w.emerg + 272 else w.emerg }
  if em then addDebt (272 - have_) s1 else s1
/-- `SEEP_CLEAN`. -/
def seepClean (s : State) : State :=
  let em := emergency s
  if !seepRuns s ∨ (!em ∧ s.ret.weir.bucket < 272) then s else
  match pickClean s with
  | none => onStore s fun st => { st with cleaning := false, emergency := em }
  | some l =>
    let x := s.lineAt l
    let (v, p) := s.committedValue l
    let ty := if (s.lineSeg l).cls = .latest then 2 else 1
    let sr := if (s.eff l).1 = .openOver then x.base else x.serial
    let s1 := placeSlot (.line ⟨ty, l, p, v⟩ (some sr)) (drawTokens em s)
    onStore s1 fun st => { st with walk := l + 1, cleaning := true, emergency := em }
def execSeepClean (s : State) : Host.Outcome State Fault Refusal := .next (seepClean s)
/-! ## The audit pass (R251, R252) -/
def isRetained (s : State) (seg : Nat) : Bool := decide ((s.seg seg).cls ≠ .volatile) && s.segExists seg
def auditable (s : State) : List Nat :=
  (s.ret.lines.map (·.1)).filter fun l => isRetained s (segOf l) && decide ((s.eff l).1 ≠ .never) && decide ((s.eff l).1 ≠ .unrestored)
/-- Start a pass where none runs. -/
def auditBegin (s : State) : State :=
  if s.store.auditing then s
  else onStore s fun st => { st with auditing := true, auditStart := s.now, auditLine := 0, auditPage := 0, auditProgress := 0, auditFixed := 0, auditRefreshed := 0 }
/-- The pages that a pass reads, in ascending order; it goes on from `auditPage` (R252). -/
def auditPages (s : State) : List Nat := sortNat (livePages s).dedup
/-- The pass ends when every line and every page has been read. -/
def auditCheck (s : State) : State :=
  let ls := auditable s
  let ps := auditPages s
  let done := (ls.filter (· < s.store.auditLine)).length + (ps.filter (· < s.store.auditPage)).length
  let total := ls.length + ps.length
  if done = total then
    let st := s.store
    (onStore s fun st => { st with auditing := false, auditEnd := s.now, auditProgress := 0 }).raise 0x0715 0
      [(16, (s.now - st.auditStart) / 800000000), (20, st.auditFixed), (24, st.auditRefreshed)]
  else onStore s fun st => { st with auditProgress := done * 1000 / max 1 total }
/-- `AUDIT_LINE`: the next retained line is read, in the granules that hold data (R322); `fixed` names those with a corrected beat, `bad`
those with one that does not correct. A corrected beat counts for its rank (R334), and is rewritten in place. -/
def auditLine (fixed bad : BitVec 4) (s : State) : State :=
  if !seepRuns s then s else
  let s1 := auditBegin s
  match (auditable s1).find? (s1.store.auditLine ≤ ·) with
  | none => auditCheck s1
  | some l =>
    let v : BitVec 4 := if (s1.eff l).2 then 15 else (s1.lineAt l).valid
    let p := s1.placeOf l
    let f := maskCount (fixed &&& v)
    let s2 := onStore s1 fun st => { st with auditLine := l + 1, auditFixed := st.auditFixed + f, dramFixed := sat 32 (st.dramFixed + f) }
    let s3 := (maskList (fixed &&& v).toNat 4).foldl (fun s g => request 20 p g true fullMask false s) (requestValue 20 l s2)
    let s4 := countBeats (channelOf s p) (rankAt s p).1 f (maskCount (bad &&& v)) s3
    auditCheck (meetErrors l (bad &&& v) s4)
def execAuditLine (fixed bad : BitVec 4) (s : State) : Host.Outcome State Fault Refusal := .next (settleWeir (auditLine fixed bad s))
/-- A record found lost: journaled again from DRAM where its line is CLEAN and readable, else counted and reported. -/
def recordLost (x : Placed) (s : State) : State :=
  let l := x.record.line
  let (v, p) := s.lineValue l
  if (s.eff l).1 = .clean ∧ p = 0 ∧ !s.unbuilt (segOf l) ∧ dchRunning s (channelOf s l) then rejournal { x.record with value := v, poison := 0 } s
  else
    (onStore s fun st => { st with lost := sat 32 (st.lost + 1) }).raiseLim 0x0716 0 (ppaChan x.ppa) [(16, (s.wma l).toNat), (24, x.ppa)]
/-- `AUDIT_PAGE`: the next live page is read. Every live record that lies in a codeword beyond the code is lost; a boot copy found
bad is rewritten from the other (R243, R252). -/
def auditPage (errors : List Nat) (retries : Nat) (s : State) : State :=
  if !seepRuns s ∨ readAgain s errors retries then s else
  let s1 := auditBegin s
  match (auditPages s1).find? (s1.store.auditPage ≤ ·) with
  | none => auditCheck s1
  | some p =>
    let bad := (errors.zipIdx.filter fun q => 60 < q.1).map (·.2)
    let boot := isBoot (blockOf p)
    let s2 := pageRead p errors retries (onStore s1 fun st => { st with auditPage := p + 1 })
    let lost := (liveOn s2.store (· == p)).filter fun x => (slotWords x.slot).any bad.contains
    auditCheck (if bad = [] then s2 else if boot then copyFrom (copyOf p) s2 else lost.foldl (fun s x => recordLost x s) s2)
def execAuditPage (errors : List Nat) (retries : Nat) (s : State) : Host.Outcome State Fault Refusal := .next (settleWeir (auditPage errors retries s))
/-! ## NST and SEEP commands (R253, R257) -/
def meanOf (xs : List Nat) : Nat := if xs = [] then 0 else xs.sum / xs.length
/-- One LUN's term of R223 in MB/s; a LUN that has programmed nothing counts with the NCFG maximum. The mean time and the term are each
rounded down (DESIGN CHOICE, log entry 187: the manual gives no rounding). -/
def lunRate (s : State) (c : Fin 16) (i : Nat) : Nat :=
  let xs := ((s.store.ch[c].progs.filter (·.1 = i)).take 1000).map (·.2)
  let m := if xs = [] then s.store.ncfg.tProg else meanOf xs
  s.store.ncfg.planes * 16384 / max 1 m
def nchRate (s : State) (c : Fin 16) : Nat :=
  if !chServes s c then 0 else min 700 (((List.range 8).filter fun i => s.store.ch[c].lunSvc.getLsbD i).map (lunRate s c)).sum
/-- The measured save-write rate (R223). -/
def storeRate (s : State) : Nat := ((List.range 16).map fun c => nchRate s (Fin.ofNat 16 c)).sum * 16320 / 16384
def nchBlocks (s : State) (c : Nat) : List Nat := (lunsOf s c).flatMap (lunBlocks s.store)
def nchBad (s : State) (c : Nat) : Nat := (s.store.blocks.filter fun p => p.1 % 16 = c ∧ p.2.bad).length
def nchMaxErase (s : State) (c : Nat) : Nat :=
  ((s.store.blocks.filter fun p => p.1 % 16 = c).map fun p => blkErases s.store p.1 p.2).foldl max (if s.store.ch[Fin.ofNat 16 c].installed then s.store.wiped else 0)
/-- The average over the channel's blocks, in service or not (R255). -/
def nchAvgErase (s : State) (c : Nat) : Nat :=
  let ls := (boardLuns s).filter (· % 16 = c)
  let n := ls.length * s.store.ncfg.blocks
  let boot := (ls.filter fun l => l = 0 ∨ l = 8).length * 16
  (((s.store.blocks.filter fun p => p.1 % 16 = c).map (·.2.erases)).sum + s.store.wiped * (n - boot)) / max 1 n
def nchStat (s : State) (c : Fin 16) : Nat :=
  let x := s.store.ch[c]
  pack [(0, x.cePresent.toNat), (4, (svcLuns s c).toNat), (12, b2n x.trained), (13, x.restarts)]
def nstQueryInfo : CmdInfo := { op := 0x0710, auth := auObserve, sel := .units .nst }
def nstQuery (d : Desc) (s : State) : State :=
  command nstQueryInfo d true (fun ts s =>
    let c : Fin 16 := Fin.ofNat 16 (ts.headD 0)
    finish d St.ok (queryResult d ts (pack [(0, nchStat s c % 2 ^ 12), (16, sat 16 (nchBad s c)), (32, sat 16 (nchMaxErase s c)),
      (48, sat 16 (nchRate s c))])) s) s
def execNstQuery (d : Desc) (s : State) : Host.Outcome State Fault Refusal := .next (nstQuery d s)
/-- Blocks of an area that is given up. -/
def areaBlocks (st : Store) (a : Option Area) : List Nat := (a.map fun x => stripeBlocks st.ncfg.planes x.stripe).getD []
/-- Move what is movable off a channel: images and journal are rewritten, areas and the open stripe made anew, and checkpoints and
the metadata of unmerged areas follow (R253). The root that drops an area precedes the erasure of its blocks (R250). -/
def evacuate (c : Nat) (s : State) : State :=
  let s1 := onStore s fun st => { st with evacuating := st.evacuating ||| BitVec.ofNat 16 (2 ^ c) }
  let segs := ((liveOn s1.store fun p => ppaChan p == c).map fun x => segOf x.record.line).dedup
  let s2 := segs.foldl (fun s g => if mergeBusy s.store g then moveOff (fun p => ppaChan p == c) s else writeImage g s) s1
  let s3 := if openStripeOn s2.store c then closeStripe s2 else s2
  let next := areaOn c s3.store.nextArea
  let rdy := areaOn c (readyNamed s3.store)
  let old := (if next then areaBlocks s3.store s3.store.nextArea else []) ++ if rdy then areaBlocks s3.store (readyNamed s3.store) else []
  let s4 := if next ∨ rdy then
      freeBlocks old (writeRoot (onStore s3 fun st =>
        { st with nextArea := if next then none else st.nextArea, ready := if rdy then none else st.ready,
                  readying := if rdy then none else st.readying })) else s3
  tidy (writeCheckpoint (preEraseNext (if rdy then readyArea s4 else s4)))
def chanBytes (s : State) (c : Nat) : Nat := ((lunsOf s c).map (goodBlocks s.store)).sum * s.store.ncfg.ppb * pageBytes
def nstEvacuateInfo : CmdInfo := { op := 0x0711, auth := auConfigure, sel := .units .nst }
/-- Bytes that stay once the channels of the list, and those evacuated before, are gone. -/
def bytesWithout (s : State) (cs : List Nat) : Nat :=
  pslcBytes s - (((List.range 16).filter fun c => s.store.evacuating.getLsbD c || cs.contains c).map (chanBytes s)).sum
def evacBad (s : State) (ts : List Nat) (c : Nat) : Option Nat :=
  if s.lifeOf .nst c ≠ .running then some St.unitState
  else if bytesWithout s (ts.filter fun t => s.lifeOf .nst t = .running) / 2 ^ 30 < need s then some St.nstSpace else none
def nstEvacuate (d : Desc) (s : State) : State :=
  command nstEvacuateInfo d true (fun ts s =>
    let ok := ts.filter fun c => (evacBad s ts c).isNone
    let s1 := ok.foldl (fun s c => evacuate c s) s
    if ok.any fun c => holdsMovable s1.store c then running d (.evacuate (maskOf ok) (statusOf ts (failing ts (evacBad s ts)))) (maskOf ok) s1
    else finish d (statusOf ts (failing ts (evacBad s ts))) (maskOf ok) s1) s
def execNstEvacuate (d : Desc) (s : State) : Host.Outcome State Fault Refusal := .next (settleWeir (nstEvacuate d s))
def seepConfigInfo : CmdInfo := { op := 0x0720, auth := auConfigure, used := [(16, 64)] }
def seepApply (d : Desc) (st : Store) : Store :=
  { st with ageMin := d.p 16 1, mergeFrac := d.p 17 1, auditH := d.p 18 1, refreshBits := d.p 19 1, mergeRate := d.p 20 2, jrnMax := d.p 22 2 }
def seepOk (d : Desc) : Bool :=
  decide (10 ≤ d.p 17 1) && decide (d.p 17 1 ≤ 90) && decide (1 ≤ d.p 18 1) && decide (d.p 18 1 ≤ 168) && decide (20 ≤ d.p 19 1)
    && decide (d.p 19 1 ≤ 56) && decide (10 ≤ d.p 20 2) && decide (d.p 20 2 ≤ 2000) && decide (32 ≤ d.p 22 2) && decide (d.p 22 2 ≤ 512)
def seepConfig (d : Desc) (s : State) : State :=
  command seepConfigInfo d (seepOk d) (fun _ s => storing d 0x0720 [setting 0x0720 0xFF (paramBytes d)] 0 s) s
def execSeepConfig (d : Desc) (s : State) : Host.Outcome State Fault Refusal := .next (seepConfig d s)
def seepAuditStartInfo : CmdInfo := { op := 0x0721, auth := auConfigure }
def seepAuditStart (d : Desc) (s : State) : State :=
  command seepAuditStartInfo d true (fun _ s => finish d St.ok 0 (auditBegin (onStore s fun st => { st with auditing := false }))) s
def execSeepAuditStart (d : Desc) (s : State) : Host.Outcome State Fault Refusal := .next (seepAuditStart d s)
/-- The old bad-block table is readable: a root names it, and each of its pages reads in one of the rings (R229, R257). -/
def tableReads (s : State) : Bool :=
  let r := s.store.ring
  match s.store.root with
  | none => false
  | some x =>
    let i := x.bbt / 2 ^ 8 % 2 ^ 12
    (List.range (bbtPages s)).all fun k => pageReads s.store (r.a + 2 ^ 8 * (i + k)) || pageReads s.store (r.b + 2 ^ 8 * (i + k))
/-- A formatted store: every block outside the boot region erased; bad are those that the old table says, where it is readable, and
those that their maker marked (R244, R257). -/
def formatted (old : Bool) (st : Store) : Store :=
  { Store.new with
    ncfg := st.ncfg, ch := st.ch, ageMin := st.ageMin, mergeFrac := st.mergeFrac, auditH := st.auditH, refreshBits := st.refreshBits,
    mergeRate := st.mergeRate, jrnMax := st.jrnMax, ring := { Store.new.ring with epoch := st.ring.epoch },
    badWords := st.badWords.filter fun w => isBoot (blockOf w.1),
    blocks := (st.blocks.map fun p => if isBoot p.1 then p else (p.1, { p.2 with held := false, cut := false, bad := (old && p.2.bad) || p.2.factory })).filter
      (·.2 ≠ Blk.fresh),
    wiped := st.wiped + 1 }
/-- The erasures of a format count as any: blocks that pass nine tenths of CYCLES are reported, blocks that reach twice CYCLES
retired (R244, R245). -/
def formatWear (s : State) : State :=
  let st := s.store
  let cy := st.ncfg.cycles
  let mine := (st.blocks.filter fun p => !isBoot p.1 && !p.2.bad).map (·.1)
  let s1 := mine.foldl (fun s k => let n := blkErases st k (blkAt st k)
                                   if n ≥ 2 * cy then retireEvent k 3 (setBlk k (fun b => { b with bad := true }) s) else noteWear k n s) s
  if st.wiped * 10 > cy * 9 ∧ (st.wiped - 1) * 10 ≤ cy * 9 then
    (boardLuns s).foldl (fun s l => (List.range st.ncfg.blocks).foldl (fun s b =>
      let k := ppaOf l b 0
      if isBoot k ∨ (st.blocks.any (·.1 = k)) then s else noteWear k st.wiped s) s) s1
  else s1
def nstFormatInfo : CmdInfo := { op := 0x0722, auth := auMaintain }
/-- `NST_FORMAT`: the table, the rings with a root, and the anchors are written, and the first area is readied (R257, R507). -/
def nstFormat (d : Desc) (s : State) : State :=
  command nstFormatInfo d true (fun _ s =>
    if s.retainedSegs ≠ 0 then finish d St.nstRetained 0 s
    else
      let s1 := formatWear (onStore s (formatted (tableReads s)))
      let s2 := onStore s1 fun st => { st with formatGood := (allLuns s1).map fun l => (l, goodBlocks st l) }
      let s3 := checkCapacity s2
      let (p, s4) := ringPages (bbtContent s3) s3
      let s5 := readyArea (writeRootWith (some p) s4)
      if s5.store.ring.a = 0 then finish d St.noResource 0 s
      else running d (.anchor St.ok) (pslcHave s5) s5) s
def execNstFormat (d : Desc) (s : State) : Host.Outcome State Fault Refusal := .next (settleWeir (nstFormat d s))
end Sys2Proof.Machine
end

