-- ==== Sys2Proof/Machine/ScanOps.lean ====
section
/-! DEFINITION. Scan services' shared operations (R258–R262, R273–R280): layouts, their activation, the queue of passes, and what
closes and abandons do to planes, rebase, warm settings and program swaps. -/
namespace Sys2Proof.Machine
def onScan (s : State) (f : Scan → Scan) : State := { s with scan := f s.scan }
def onScanCtx (s : State) (c : Fin 16) (f : ScanCtx → ScanCtx) : State := onScan s fun x => { x with ctx := vmod x.ctx c f }
def scanRunning (s : State) : Bool := s.isRunning .scan 0 && s.glb.state != 3
/-! ## Reading a bank (R259, R261) -/
def segBytes : Nat := 2097152
/-- Bytes of a program bank, by offset; lines still in NAND are brought in first. -/
def bankLines (seg off len : Nat) : List Nat := linesFrom (seg * segBytes + off) len
def bankIn (seg off len : Nat) (s : State) : State := (bankLines seg off len).foldl (fun s l => faultIn l s) s
def bankBytes (s : State) (seg off len : Nat) : List Byte := readBytes s (seg * segBytes + off) len
def bankPoison (s : State) (seg off len : Nat) : Bool := readPoison s (seg * segBytes + off) len
/-- A run of segments is sealed CONSTANT. -/
def sealedBank (s : State) (seg count : Nat) : Bool :=
  (List.range count).all fun i => s.segExists (seg + i) && decide ((s.seg (seg + i)).cls = .constant) && (s.seg (seg + i)).sealed
def planeOf (b : List Byte) (p : Nat) : Plane :=
  let o := 64 + 48 * p
  ⟨field b o 8, field b (o + 8) 8, field b (o + 16) 8, field b (o + 24) 8, field b (o + 32) 2⟩
/-- The layout block as its bytes give it, where reason 1 of R260 does not apply. -/
def parseLayout (seg count : Nat) (b : List Byte) : Option Layout :=
  let n := field b 5 1
  let ps := (List.range n).map (planeOf b)
  let tb := field b 8 8
  let tc := field b 16 4
  let al (a : Nat) : Bool := decide (a % 256 = 0)
  if decide (field b 0 4 = 0x53434C59) && decide (field b 4 1 = 1) && decide (field b 4092 4 = (crc32 (b.take 4092)).toNat)
      && zeros b 6 2 && zeros b 32 32 && (List.range n).all (fun p => zeros b (64 + 48 * p + 34) 14) && zeros b (64 + 48 * n) (4092 - 64 - 48 * n)
      && decide (n ≤ 64) && decide (tc ≤ 65536) && decide (field b 28 4 ≤ 131072) && ps.all (fun p => decide (1 ≤ p.lines) && decide (p.lines ≤ 512))
      && al tb && ps.all (fun p => al p.src && al p.prev && al p.rise && al p.fall) && (decide (tb = 0) == decide (tc = 0)) then
    some ⟨seg, count, tb, tc, field b 20 4, field b 24 4, field b 28 4, ps⟩
  else none
/-! ## Validity (R260) -/
def timerLines (y : Layout) : Nat := (y.timerCount + 15) / 16
/-- Regions as (first line, lines), at their working-memory addresses. -/
def workRegions (y : Layout) : List (Nat × Nat) :=
  (if y.timerCount = 0 then [] else [(lineOf y.timerBase, timerLines y)])
    ++ y.planes.flatMap fun p => [(lineOf p.prev, p.lines), (lineOf p.rise, p.lines), (lineOf p.fall, p.lines)]
def srcRegions (y : Layout) : List (Nat × Nat) := y.planes.map fun p => (lineOf p.src, p.lines)
def overlap (a b : Nat × Nat) : Bool := decide (a.1 < b.1 + b.2) && decide (b.1 < a.1 + a.2)
def pairwise : List (Nat × Nat) → Bool
  | [] => true
  | a :: t => !(t.any (overlap a)) && pairwise t
def onSlot (s : State) (r : Nat × Nat) : Bool := decide (r.1 / 2 ^ 30 = s.slot)
/-- A region lies in EPOCH segments that `c` owns. -/
def ownedRegion (s : State) (c : Fin 16) (r : Nat × Nat) : Bool :=
  let a := r.1 % 2 ^ 30
  (List.range (segOf (a + r.2 - 1) + 1 - segOf a)).all fun i =>
    let g := s.seg (segOf a + i)
    s.segExists (segOf a + i) && decide (g.cls = .epoch) && decide (g.owner = c)
def othersLayouts (s : State) (c : Fin 16) : List Layout :=
  ((List.range 16).filter (· ≠ c.val)).filterMap fun i => s.scan.ctx[Fin.ofNat 16 i].layout
def inBank (y : Layout) (off len : Nat) : Bool := decide (4096 ≤ off) && decide (off + len ≤ y.bankCount * segBytes) && decide (off % 16 = 0)
/-- Reasons 2 to 6, the lowest that applies. -/
def layoutBad (s : State) (c : Fin 16) (y : Layout) : Option Nat :=
  let all := workRegions y ++ srcRegions y
  let os := othersLayouts s c
  if all.any (fun r => decide (r.1 ≥ 2 ^ 32)) || !((all.filter (onSlot s)).all (ownedRegion s c)) then some 2
  else if !pairwise (workRegions y) || (srcRegions y).any (fun r => (workRegions y).any (overlap r)) then some 3
  else if (y.tinitOff ≠ 0 && !inBank y y.tinitOff (16 * y.timerCount)) || (y.carryOff ≠ 0 && !inBank y y.carryOff (16 * y.carryCount)) then some 4
  else if (os.map (·.timerCount)).sum + y.timerCount > 65536 ∨ (os.map (·.planes.length)).sum + y.planes.length > 64 then some 5
  else if !(all.all (onSlot s)) then some 6 else none
/-- Read and check the layout block of a bank: the layout, or a reason. Poison in it counts as its check failing (R330). -/
def readLayout (s : State) (c : Fin 16) (seg count : Nat) : Layout ⊕ Nat :=
  if bankPoison s seg 0 4096 then .inr 1
  else match parseLayout seg count (bankBytes s seg 0 4096) with
    | none => .inr 1
    | some y => match layoutBad s c y with | some r => .inr r | none => .inl y
/-- Firmware meets poison in a bank that it reads for context `c` (R330, consumer 7): the first poisoned line is recorded. -/
def notePoisonRead (c seg off len : Nat) (s : State) : State :=
  if bankPoison s seg off len then poisonUsed (firstPoisoned s (seg * segBytes + off) len) 7 c s else s
/-! ## Carry maps (R277) -/
def carryAt (b : List Byte) (i : Nat) : Carry := ⟨field b (16 * i) 1, field b (16 * i + 1) 1, field b (16 * i + 4) 4, field b (16 * i + 8) 4⟩
def readCarry (s : State) (y : Layout) : List Carry :=
  let b := bankBytes s y.bankSeg y.carryOff (16 * y.carryCount)
  (List.range y.carryCount).map (carryAt b)
def wordExists (y : Layout) (w : Nat) : Bool :=
  match y.planes[w / 2 ^ 14]? with | some p => decide (w % 2 ^ 14 < 32 * p.lines) | none => false
def itemExists (y : Layout) (kind n : Nat) : Bool := if kind = 1 then decide (n < y.timerCount) else wordExists y n
def carryOk (b : List Byte) (old new : Layout) (cs : List Carry) : Bool :=
  cs.all (fun c => (c.kind == 1 || c.kind == 2) && decide (c.policy ≤ (if c.kind = 1 then 1 else 0)) && itemExists old c.kind c.old
      && itemExists new c.kind c.new && (c.policy != 1 || decide (new.tinitOff ≠ 0)))
    && (List.range cs.length).all (fun i => zeros b (16 * i + 2) 2 && zeros b (16 * i + 12) 4)
    && (cs.map fun c => (c.kind, c.old)).dedup.length == cs.length && (cs.map fun c => (c.kind, c.new)).dedup.length == cs.length
/-- The carry map of a swap and whether reasons 7 and 8 hold: the reason, or the map in force. While the current layout is
suspended the map is empty; a context with no current layout has no old item that an entry could name. -/
def swapCarry (s : State) (k : ScanCtx) (y : Layout) : List Carry ⊕ Nat :=
  match k.layout with
  | none => if k.suspended ∨ y.carryOff = 0 ∨ y.carryCount = 0 then .inl [] else .inr 7
  | some o =>
    let cs := if y.carryOff = 0 then [] else readCarry s y
    let b := bankBytes s y.bankSeg y.carryOff (16 * y.carryCount)
    if bankPoison s y.bankSeg y.carryOff (16 * y.carryCount) ∨ !carryOk b o y cs then .inr 7
    else if (workRegions y).any (fun r => (workRegions o).any (overlap r)) then .inr 8 else .inl cs
/-! ## Activation (R261, R273) -/
def freshPlane : PlaneSt := ⟨true, true, none, [], []⟩
def mapPasses (x : Scan) (f : Pass → Pass) : Scan := { x with running := x.running.map f, queue := x.queue.map f }
/-- Set a context's planes to RESYNC from now on: a pass already queued is no full visit of them. -/
def planesAnew (c : Fin 16) (ps : List PlaneSt) (s : State) : State :=
  onScan (onScanCtx s c fun x => { x with planes := ps }) fun x => mapPasses x fun p => if p.ctx = c then { p with full := [] } else p
def newPlanes (y : Option Layout) : List PlaneSt := match y with | some y => y.planes.map fun _ => freshPlane | none => []
/-- RESYNC on every plane of a context. -/
def resyncAll (c : Fin 16) (s : State) : State :=
  planesAnew c (s.scan.ctx[c].planes.map fun q => { freshPlane with nonzero := q.nonzero }) s
/-- Activate a context's layout from its bank. -/
def activateLayout (c : Fin 16) (s : State) : State :=
  let x := s.ctxAt c
  if x.bankCount = 0 then onScanCtx s c fun k => { k with layout := none, planes := [], suspended := false }
  else
    let s1 := bankIn x.bankSeg 0 4096 s
    match readLayout s1 c x.bankSeg x.bankCount with
    | .inl y => planesAnew c (newPlanes (some y)) (onScanCtx s1 c fun k => { k with layout := some y, suspended := false, reason := 0 })
    | .inr r =>
      let s2 := onScanCtx (notePoisonRead c x.bankSeg 0 4096 s1) c fun k => { k with layout := none, planes := [], suspended := true, reason := r }
      s2.raiseLim 0x0810 c.val c.val [(16, r), (20, x.bankSeg)]
/-- A context that becomes IDLE has no active layout. -/
def deactivate (c : Fin 16) (s : State) : State := onScanCtx s c fun k => { k with layout := none, planes := [], suspended := false }
/-! ## Passes (R262, R273) -/
/-- SRC lines of a plane that the closed epoch wrote, by index. -/
def writtenIn (s : State) (c : Fin 16) (e : Nat) (p : Plane) : List Nat :=
  (List.range p.lines).filter fun i =>
    let l := lineOf (localOf p.src) + i
    let x := s.lineAt l
    ((x.state = .opened ∨ x.state = .openOver) ∧ x.stamp = BitVec.ofNat 8 e) ∨ s.ret.writes.any fun q => q.line = l ∧ q.epoch = some (c, e)
/-- Every visit of a layout, in the order of a pass (R262). -/
def layoutVisits (y : Layout) : List Visit :=
  (y.planes.zipIdx.flatMap fun q => (List.range q.1.lines).map (Visit.edge q.2)) ++ (List.range (timerLines y)).map Visit.timer
/-- The lines that either of two passes visits, in order. -/
def unionVisits (y : Layout) (a b : List Visit) : List Visit := (layoutVisits y).filter fun v => a.contains v || b.contains v
/-- The lines a pass visits: planes in order, then the timer table. -/
def passLines (s : State) (c : Fin 16) (e : Nat) (y : Layout) (ps : List PlaneSt) (swap : Bool) : List Visit :=
  let edges := if !s.scan.edgeEn.getLsbD c.val then [] else
    (y.planes.zip ps).zipIdx.flatMap fun q =>
      let idx := if swap || q.1.2.all then List.range q.1.1.lines
        else (List.range q.1.1.lines).filter fun i => q.1.2.partialLines.contains i || (writtenIn s c e q.1.1).contains i || q.1.2.nonzero.contains i
      idx.map (Visit.edge q.2)
  edges ++ (if s.scan.timerEn.getLsbD c.val then (List.range (timerLines y)).map Visit.timer else [])
/-- A close while the context's earlier pass runs (R266). -/
def noteOverrun (c : Fin 16) (s : State) : State :=
  match s.scan.running with
  | some p =>
    if p.ctx ≠ c then s else
    let s' := onScanCtx (onScan s fun x => { x with overruns := sat 32 (x.overruns + 1) }) c fun k => { k with overruns := k.overruns + 1 }
    let n := s'.scan.ctx[c].overruns
    -- the pass still runs: its duration is taken from its start to this close (DESIGN CHOICE, log entry 184)
    if s'.mayRaise 0x0811 c.val then
      (onScanCtx s' c fun k => { k with overruns := 0 }).raiseLim 0x0811 c.val c.val [(16, n), (20, toUs (s.now - p.started))]
    else s'
  | none => s
/-- Queue a pass for the close of epoch `e`, as REBASE, WARM_PENDING and RESYNC stand once that close has committed; an
unstarted pass of the context merges with it (R262, R269, R271, R273). -/
def queuePass (c : Fin 16) (e : Nat) (swap : Option Swap) (s0 : State) : State :=
  let s := noteOverrun c s0
  let k := s.scan.ctx[c]
  match k.layout with
  | none => s
  | some y =>
    if !scanRunning s ∨ s.mir.role = .standby ∨ !(s.scan.timerEn.getLsbD c.val || s.scan.edgeEn.getLsbD c.val) then s else
    let ls := passLines s c e y k.planes swap.isSome
    let full := if s.scan.edgeEn.getLsbD c.val then (k.planes.zipIdx.filter (·.1.all)).map (·.2) else []
    let new : Pass := ⟨c, BitVec.ofNat 32 s.tick, s.now, e + 1, swap, y, k.rebase, k.warm, ls, full, 0, none, none⟩
    if s.scan.queue.any (·.ctx = c) then
      onScan s fun x => { x with queue := x.queue.map fun p => if p.ctx = c then
        (if swap.isSome then new else { new with todo := unionVisits y p.todo ls, swap := p.swap }) else p }
    else onScan s fun x => { x with queue := x.queue ++ [new] }
/-- Passes stop; planes not finished keep RESYNC for the lines not visited (R282). -/
def stopPasses (s : State) : State :=
  let ps := passes s
  let s1 := onScan s fun x => { x with running := none, queue := [] }
  ps.foldl (fun (s : State) (p : Pass) => onScanCtx s p.ctx fun k =>
    if k.layout ≠ some p.layout then k else
    { k with planes := k.planes.zipIdx.map fun q =>
        let left : List Nat := p.todo.filterMap fun v => match v with | .edge j i => if j = q.2 then some i else none | .timer _ => none
        if left.isEmpty then q.1 else { q.1 with resync := true, wroteIn := none, partialLines := (q.1.partialLines ++ left).dedup } }) s1
/-- Passes stop, and the accesses that waited for them go on (R282, R283). -/
def abortPasses (s : State) : State := noteWait s (stopPasses s)
/-! ## What closes and abandons do (R269, R271, R273, R275, R276) -/
/-- The close of epoch `e` commits what passes wrote into it. -/
def scanCommit (c : Fin 16) (e : Nat) (s : State) : State :=
  let out := (s.ctxAt c).released
  let s1 := onScanCtx s c fun k =>
    { k with planes := k.planes.map (fun p => if p.wroteIn = some e then { p with resync := false, all := false, wroteIn := none } else p),
             rebase := k.rebase && !(out && decide (k.rebaseIn = some e)), rebaseIn := if k.rebaseIn = some e then none else k.rebaseIn,
             warm := k.warm && decide (k.warmIn ≠ some e), warmIn := if k.warmIn = some e then none else k.warmIn }
  match s1.scan.ctx[c].swap with
  | some w =>
    if w.epoch = some e then
      let s2 := onScanCtx s1 c fun k => { k with swap := none }
      let s3 := s2.raiseLim 0x0813 c.val c.val [(16, e), (22, 0), (24, w.oldSeg)]
      wake (fun k => match k with | .swap i => if i = c.val then .done St.ok (some e) else .go | _ => .go) s3
    else s1
  | none => s1
/-- The new layout of a swap and its carry map, checked against the banks as they stand now (R260, R261, R277): they, or the status
and the reason with which `CTX_SWAP` ends. The lines that the check reads are brought in. -/
def checkSwap (c : Fin 16) (seg n : Nat) (s : State) : ((Layout × List Carry) ⊕ (Nat × Nat)) × State :=
  if !sealedBank s seg n then (.inr (St.ctxBank, 0), s) else
  let s1 := bankIn seg 0 4096 s
  match readLayout s1 c seg n with
  | .inr r => (.inr (St.ctxSwapLayout, r), notePoisonRead c seg 0 4096 s1)
  | .inl y =>
    let s2 := bankIn seg y.tinitOff (16 * y.timerCount) (bankIn seg y.carryOff (16 * y.carryCount) s1)
    match swapCarry s2 s2.scan.ctx[c] y with
    | .inr r => (.inr (St.ctxSwapLayout, r), notePoisonRead c seg y.carryOff (16 * y.carryCount) s2)
    | .inl cs => (.inl (y, cs), s2)
/-- An armed swap is taken by the close of epoch `e`, its layout checked afresh (R261, R275). A swap whose check fails now is
disarmed and ends as the check ends it; the close goes on without it (DEDUCED, log entry 158). -/
def swapTake (c : Fin 16) (e : Nat) (s0 : State) : Option Swap × State :=
  match s0.scan.ctx[c].swap with
  | none => (none, s0)
  | some w =>
    if w.epoch.isSome then (none, s0) else
    let (r, s) := checkSwap c w.newSeg w.newCount s0
    match r with
    | .inr (st, why) =>
      (none, wake (fun k => match k with | .swap i => if i = c.val then .done st (some why) else .go | _ => .go)
        (onScanCtx s c fun k => { k with swap := none }))
    | .inl (y, cs) =>
      let x := s.ctxAt c
      let k := s.scan.ctx[c]
      let w' : Swap := { w with epoch := some (e + 1), oldSeg := x.bankSeg, oldCount := x.bankCount, oldLayout := k.layout, oldShelf := k.shelf, oldSuspended := k.suspended,
                                newLayout := y, carry := cs }
      let s1 := onScanCtx s c fun k =>
        { k with swap := some w', shelf := (x.bankSeg, x.bankCount), layout := some y, suspended := false, reason := 0 }
      (some w', (planesAnew c (newPlanes (some y)) s1).onCtx c fun x => { x with bankSeg := w.newSeg, bankCount := w.newCount })
/-- An abandon of epoch `e`: RESYNC everywhere, what passes wrote into it is void, and a swap epoch is undone. -/
def scanAbandon (c : Fin 16) (e : Nat) (s : State) : State :=
  let s1 := onScanCtx s c fun k => { k with rebaseIn := if k.rebaseIn = some e then none else k.rebaseIn, warmIn := if k.warmIn = some e then none else k.warmIn }
  match s1.scan.ctx[c].swap with
  | some w =>
    if w.epoch = some e then
      let s2 := onScanCtx s1 c fun k =>
        { k with swap := none, layout := w.oldLayout, shelf := w.oldShelf, suspended := w.oldSuspended }
      let s3 := (planesAnew c (newPlanes w.oldLayout) s2).onCtx c fun x => { x with bankSeg := w.oldSeg, bankCount := w.oldCount }
      let s4 := noteWait s <| onScan s3 fun x => { x with running := x.running.filter (fun p => p.ctx ≠ c ∨ p.swap.isNone), queue := x.queue.filter fun p => p.ctx ≠ c ∨ p.swap.isNone }
      let s5 := s4.raiseLim 0x0813 c.val c.val [(16, e), (22, 1), (24, w.oldSeg)]
      wake (fun k => match k with | .swap i => if i = c.val then .done St.ctxSwapUndone none else .go | _ => .go) s5
    else resyncAll c s1
  | none => resyncAll c s1
end Sys2Proof.Machine
end

