-- ==== Sys2Proof/Machine/ContextOps.lean ====
section
/-! DEFINITION. What closing and abandoning an epoch do (R115–R119, R132–R141), on one chip and, for a spanning context, over
the Confluence links (R425–R427). -/
namespace Sys2Proof.Machine
/-! ## The cluster as a context sees it (R416, R425) -/
/-- This chip runs the context's state machine: it is the home, it is alone, or the home is lost (R433). -/
def actsHome (s : State) (c : Fin 16) : Bool :=
  decide (s.conf.chips = 1) || decide (homeSlot s c = s.slot) || s.conf.lost.getLsbD (homeSlot s c)
/-- Slots other than this one that own EPOCH segments of the context. -/
def otherOwners (s : State) (c : Fin 16) : List Nat :=
  (List.range 4).filter fun j => j ≠ s.slot && s.conf.owners[c].getLsbD j && s.conf.members.getLsbD j && !s.conf.lost.getLsbD j
def ownsHere (s : State) (c : Fin 16) : Bool := s.ret.segs.any fun p => p.2.cls = .epoch && p.2.owner = c && decide (p.1 < s.usable)
/-- SPANNING: a chip other than the home owns EPOCH segments of the context. -/
def spanning (s : State) (c : Fin 16) : Bool :=
  (otherOwners s c).any (· ≠ homeSlot s c) || (decide (s.slot ≠ homeSlot s c) && decide (s.conf.chips ≠ 1) && ownsHere s c)
/-- The slot that is wired to a port. -/
def slotAt (s : State) (p : Fin 3) : Nat := (s.slot + p.val + 1) % 4
def sendTo (js : List Nat) (m : LinkMsg) (s : State) : State := js.foldl (fun s j => sendOn (portTo s j) m s) s
/-- Members other than this chip that are not lost. -/
def peers (s : State) : List Nat := (List.range 4).filter fun j => j ≠ s.slot && s.conf.members.getLsbD j && !s.conf.lost.getLsbD j
/-- A change of a context's record is told to the mirror partner and to the other chips (R401, R425). -/
def ctxChanged (c : Fin 16) (s : State) : State :=
  let s1 := dueContext c s
  if actsHome s c then sendTo (peers s1) (.ctxsync c (s1.ctxAt c).record) s1 else s1
/-- Enter a state, with its `CTX_STATE` event (R148). -/
def toMode (c : Fin 16) (m : CtxMode) (s : State) : State :=
  let old := (s.ctxAt c).mode
  let s1 := s.onCtx c fun x => { x with mode := m }
  if old = m then s1 else s1.raise 0x0410 c.val [(16, old.code), (17, m.code), (18, (s.ctxAt c).cause.toNat)]
/-! ## Aging (R118, R119) -/
def stampOfEpoch (e : Nat) : BitVec 8 := BitVec.ofNat 8 e
/-- Aging that the new open stamp `t` queues. -/
def queueAging (c : Fin 16) (e : Nat) (s : State) : State :=
  let t : BitVec 8 := stampOfEpoch e - 201
  s.onCtx c fun x => { x with aging := if x.aging.contains t then x.aging else x.aging ++ [t] }
/-- Opening epoch `e` must wait for aging of its stamp. -/
def agingBlocks (s : State) (c : Fin 16) (e : Nat) : Bool := (s.ctxAt c).aging.contains (stampOfEpoch e)
/-! ## Closing (R132, R135, R138) -/
/-- Lines written in epoch `e` of a context, those of writes not yet applied included. -/
def epochLines (s : State) (c : Fin 16) (e : Nat) : List Nat :=
  ((s.ret.lines.filter fun p =>
      let g := s.lineSeg p.1
      g.cls = .epoch ∧ g.owner = c ∧ (p.2.state = .opened ∨ p.2.state = .openOver) ∧ p.2.stamp = stampOfEpoch e).map (·.1)
    ++ ((s.ret.writes.filter fun p => p.epoch = some (c, e)).map (·.line))).dedup
/-- Shadow lines of OPEN_OVER_COMMITTED lines of epoch `e` whose FLIP is `f` are freed. -/
def freeShadows (c : Fin 16) (e : Nat) (f : Bool) (s : State) : State :=
  (s.ret.lines.filter fun p =>
      let g := s.lineSeg p.1
      g.cls = .epoch ∧ g.owner = c ∧ p.2.state = .openOver ∧ p.2.stamp = stampOfEpoch e ∧ p.2.flip = f).foldl
    (fun s p => s.freeShadow p.1) s
def onTrib (s : State) (n : Fin 12) (f : Trib → Trib) : State := { s with trib := vmod s.trib n f }
/-- Blocks published in epoch `e` are to be captured, by a port that is RUNNING or DRAINING at the close, on modules whose identity, and
with it OUT_LEN, is known (R363; DESIGN CHOICE, log entry 185). -/
def takePublishes (c : Fin 16) (e : Nat) (capture : Bool) (s : State) : State :=
  { s with trib := s.trib.mapFinIdx fun n t _ =>
      let (now, later) := t.publish.partition fun k => k.ctx = c && k.epoch = e
      let alive := s.lifeOf .trib n = .running || s.lifeOf .trib n = .draining
      let new := (now.filter fun k => capture && alive && (t.mods[Fin.ofNat 255 k.addr].ident).isSome)
      { t with publish := later, captures := (t.captures.filter fun k => !new.any fun n => n.addr = k.addr) ++ new } }
/-- No close of a spanning context is under way. -/
def Prep.idle : Prep := ⟨0, 0, 0, 0, .idle, none⟩
/-- The close instant: epoch e is committed and e + 1 opens; the context is CLOSING and will be `next`. -/
def closeNow (c : Fin 16) (src next : CtxMode) (s : State) : State :=
  let e := (s.ctxAt c).epoch
  let ls := epochLines s c e
  let (w, s1) := swapTake c e (scanCommit c e s)
  let s2 := s1.onCtx c fun x =>
    { x with mode := .closing, closeFrom := if x.mode = .closing then x.closeFrom else src, closeTo := next,
             closeAt := if x.mode = .closing then x.closeAt else s.now, epoch := e + 1, commit := e,
             lastPeriod := match x.lastClose with | some t => sat 32 (s.now - t) | none => 0, lastClose := some s.now, armed := s.now,
             closes := x.closes + 1, warned := false }
  let s3 := queuePass c e w (takePublishes c e true (freeShadows c e false (noteWait s (releaseLate c (cancelCopies c s2)))))
  let s4 := queueAging c (e + 1) s3
  let s5 := if s4.mir.role = .primary then dueEpoch c e ls s4 else s4
  if actsHome s5 c ∧ !spanning s5 c then sendTo (peers s5) (.ctxsync c (s5.ctxAt c).record) s5 else s5
/-- Take a close: at once, or by way of PREPARE for a spanning context. -/
def beginClose (c : Fin 16) (next : CtxMode) (s : State) : State :=
  let x := s.ctxAt c
  if spanning s c && actsHome s c then
    let s1 := s.onCtx c fun x => { x with mode := .closing, closeFrom := x.mode, closeTo := next, closeAt := s.now }
    let s2 := onConf s1 fun k => { k with prep := vmod k.prep c fun _ => ⟨1, s.now, x.epoch, 0, next, none⟩ }
    sendTo (otherOwners s c) (.prepare c x.epoch) s2
  else closeNow c x.mode next s
/-- A close asked for: deferred while aging of the stamp it would open is incomplete (R119). `next` is the state CLOSING is to
leave, `none` that in which the close begins (R110). A close or an abandon asked for while one is deferred takes its place, and the
deferral is counted from then (DESIGN CHOICE: the manual does not say, log entry 153). -/
def askClose (c : Fin 16) (fromDoorbell : Bool) (next : Option CtxMode) (s : State) : State :=
  if agingBlocks s c ((s.ctxAt c).epoch + 1) then s.onCtx c fun x => { x with deferred := some (.close fromDoorbell next), deferAt := s.now }
  else beginClose c (next.getD (s.ctxAt c).mode) s
/-! ## Abandoning (R140, R141) -/
/-- What the abandon instant does to the epoch and its data, the context's state apart. With the terminal epoch open it changes
nothing (R115). -/
def abandonEpoch (c : Fin 16) (cause : Nat) (s : State) : State :=
  let e := (s.ctxAt c).epoch
  if e ≥ terminalEpoch then s else
  let s0 := s.onCtx c fun x => { x with cause := BitVec.ofNat 3 cause, deferred := none }
  let s1 := freeShadows c e true (voidWrites c e (cancelCopies c s0))
  let s2 := s1.onCtx c fun x =>
    { x with epoch := e + 1, discard := x.discard ||| (1#256 <<< (e % 256)), warned := false }
  queueAging c (e + 1) (takePublishes c e false (scanAbandon c e s2))
/-- `CTX_ABANDONED`, of an epoch that was open before the terminal one. -/
def tellAbandoned (c : Fin 16) (e cause : Nat) (s : State) : State :=
  if e ≥ terminalEpoch then s else s.raise 0x0412 c.val [(16, e), (22, cause)]
/-- The abandon instant. With the terminal epoch open it changes nothing (R115). -/
def abandonNow (c : Fin 16) (cause : Nat) (next : CtxMode) (s : State) : State :=
  if (s.ctxAt c).epoch ≥ terminalEpoch then s else
  ctxChanged c (tellAbandoned c (s.ctxAt c).epoch cause (toMode c next (abandonEpoch c cause s)))
/-- The state that an abandon leaves a context in, by that in which it is taken: a RUNNING one becomes ABANDONED, or what `next` says, any
other stays (R110). -/
def abandonTo (x : Ctx) (next : Option CtxMode) : CtxMode := match x.settled with | .running => next.getD .abandoned | m => m
def afterAbandon (x : Ctx) : CtxMode := abandonTo x none
/-- An abandon asked for: after C while the context is between D and C, else deferred by aging, else now; the home tells
the members (R119, R427). One that is deferred takes the place of a close or an abandon that was (log entry 153). -/
def askAbandon (c : Fin 16) (cause : Nat) (next : Option CtxMode) (s : State) : State :=
  if s.conf.prep[c].phase ≠ 0 then onConf s fun k => { k with prep := vmod k.prep c fun p => { p with abandonAfter := some cause } }
  -- with the terminal epoch open an abandon changes nothing, and so waits for nothing (R115)
  else if (s.ctxAt c).epoch ≥ terminalEpoch then s
  else if agingBlocks s c ((s.ctxAt c).epoch + 1) then s.onCtx c fun x => { x with deferred := some (.abandon cause next), deferAt := s.now }
  else
    let e := (s.ctxAt c).epoch
    let s1 := abandonNow c cause (abandonTo (s.ctxAt c) next) s
    if spanning s c && actsHome s c then sendTo (otherOwners s c) (.abandon c cause e) s1 else s1
end Sys2Proof.Machine
end

