-- ==== Sys2Proof/Machine/Contexts.lean ====
section
/-! DEFINITION. Contexts (chapter 04): context commands, doorbells, the end of CLOSING, aging, the watchdog, and COPY_CONFIG. -/
namespace Sys2Proof.Machine
/-! ## Checks -/
/-- A rejected close or doorbell (R134, R148). -/
def rejectClose (c : Fin 16) (reason : Nat) (doorbell : Bool) (s : State) : State :=
  let s1 := s.onCtx c fun x =>
    { x with rejects := sat 32 (x.rejects + 1), rejSince := x.rejSince + 1, lastReject := if doorbell then BitVec.ofNat 3 reason else x.lastReject }
  if s1.mayRaise 0x0411 c.val then
    (s1.onCtx c fun x => { x with rejSince := 0 }).raiseLim 0x0411 c.val c.val [(16, reason), (20, (s1.ctxAt c).rejSince)]
  else s1
/-- Step 3 of R134: the minimum period, in units of 10 µs. -/
def tooSoon (s : State) (c : Fin 16) : Bool :=
  match (s.ctxAt c).lastClose with | some t => decide (s.now < t + (s.ctxAt c).minPeriod * 8000) | none => false
/-- The close would open the terminal epoch (R115). -/
def atLimit (s : State) (c : Fin 16) : Bool := decide ((s.ctxAt c).epoch + 1 ≥ terminalEpoch)
def fin16 (i : Nat) : Fin 16 := Fin.ofNat 16 i
/-- A context that this chip does not drive: on a STANDBY, on a PRIMARY that is handing over (R412), and, of a chip that was STANDBY when it
lost its partner, one that stays RUNNING as applied until `MIR_SWITCH` with FORCE (R410). -/
def notDriven (s : State) (c : Fin 16) : Bool :=
  s.mir.role = .standby || s.mir.handing || (s.mir.wasStandby && (s.ctxAt c).settled = .running)
/-- What stands before an OPERATE context command, state apart (R113, R425). -/
def ctxGate (s : State) (c : Fin 16) : Option Nat :=
  if notDriven s c then some St.unitState else if !actsHome s c then some St.ctxNotHome else none
/-- R112: a command waits while one of its targets is CLOSING. -/
def waitsClosing (s : State) (ts : List Nat) : Bool := ts.any fun i => (s.ctxAt (fin16 i)).mode == .closing
/-- A multi-target context command. -/
def ctxCommand (i : CmdInfo) (d : Desc) (rng : Bool) (check : State → Fin 16 → Option Nat) (act : Fin 16 → State → State) (s : State) : State :=
  command i d rng (fun ts s => if waitsClosing s ts then s else multi d ts (fun t => check s (fin16 t)) (fun t => act (fin16 t)) s) s
/-- The bank of a context is sealed CONSTANT, where it has one. -/
def bankOk (s : State) (c : Fin 16) : Bool := let x := s.ctxAt c; decide (x.bankCount = 0) || sealedBank s x.bankSeg x.bankCount
/-! ## Commands (R147) -/
def ctxQueryInfo : CmdInfo := { op := 0x0410, auth := auObserve, sel := .single 16 }
def ctxQuery (d : Desc) (s : State) : State :=
  command ctxQueryInfo d true (fun ts s =>
    let x := s.ctxAt (fin16 (ts.headD 0))
    finish d St.ok (pack [(0, x.epoch), (48, x.mode.code), (56, x.cause.toNat), (60, b2n x.released)]) s) s
def execCtxQuery (d : Desc) (s : State) : Host.Outcome State Fault Refusal := .next (ctxQuery d s)
def ctxConfigInfo : CmdInfo :=
  { op := 0x0411, auth := auConfigure, used := [(16, 8), (17, 8), (18, 16), (20, 24), (24, 32), (28, 16)], sel := .contexts }
def ctxConfigOk (d : Desc) : Bool :=
  decide (d.p 16 1 ≤ 2) && decide (d.p 17 1 ≤ 15) && decide (10 ≤ d.p 18 2) && decide (d.p 28 2 ≤ 4095) && decide (d.p 24 4 < 2 ^ 17)
def ctxConfigCheck (s : State) (c : Fin 16) : Option Nat :=
  if s.mir.role = .standby then some St.mirRole else if !actsHome s c then some St.ctxNotHome else if (s.ctxAt c).mode ≠ .idle then some St.unitState
  else if s.scan.ctx[c].swap.isSome then some St.busy else none
def ctxConfigAct (d : Desc) (c : Fin 16) (s : State) : State :=
  ctxChanged c (s.onCtx c fun x =>
    { x with policy := BitVec.ofNat 2 (d.p 16 1), rank := BitVec.ofNat 4 (d.p 17 1), minPeriod := d.p 18 2, wdog := d.p 20 3,
             bankSeg := d.p 24 4, bankCount := d.p 28 2, cause := 0 })
def ctxConfig (d : Desc) (s : State) : State := ctxCommand ctxConfigInfo d (ctxConfigOk d) ctxConfigCheck (ctxConfigAct d) s
def execCtxConfig (d : Desc) (s : State) : Host.Outcome State Fault Refusal := .next (ctxConfig d s)
def ctxStartInfo : CmdInfo := { op := 0x0412, auth := auOperate, sel := .contexts }
def runCheck (s : State) (c : Fin 16) : Option Nat :=
  if (s.ctxAt c).epoch ≥ terminalEpoch then some St.ctxEpochLimit else if !bankOk s c then some St.ctxBank else none
def ctxStartCheck (s : State) (c : Fin 16) : Option Nat :=
  (ctxGate s c).or (if (s.ctxAt c).mode ≠ .idle then some St.unitState else runCheck s c)
/-- Arm the watchdog, become RUNNING, and activate the layout (R110, R261). -/
def ctxRun (c : Fin 16) (s : State) : State := activateLayout c (ctxChanged c (toMode c .running (s.onCtx c fun x => { x with armed := s.now })))
def ctxStart (d : Desc) (s : State) : State := ctxCommand ctxStartInfo d true ctxStartCheck ctxRun s
def execCtxStart (d : Desc) (s : State) : Host.Outcome State Fault Refusal := .next (settleWeir (ctxStart d s))
def ctxCloseInfo : CmdInfo := { op := 0x0413, auth := auOperate, used := [(16, 16), (18, 1)], sel := .contexts }
/-- Steps 3 to 5 of R134 for a command; `chk` the expected epoch. -/
def closeSteps (s : State) (c : Fin 16) (chk : Option Nat) : Option Nat :=
  let x := s.ctxAt c
  if x.mode = .running ∧ tooSoon s c then some St.ctxOverrun
  else if x.mode = .running ∧ chk.any (· ≠ x.epoch % 2 ^ 16) then some St.ctxStale
  else if atLimit s c then some St.ctxEpochLimit else none
def closeReason (st : Nat) : Option Nat :=
  if st = St.ctxOverrun then some 2 else if st = St.ctxStale then some 3 else if st = St.ctxEpochLimit then some 5 else none
def ctxCloseCheck (d : Desc) (s : State) (c : Fin 16) : Option Nat :=
  let m := (s.ctxAt c).mode
  (ctxGate s c).or (if m = .idle ∨ m = .running ∨ m = .paused then closeSteps s c (if d.bit 18 0 then some (d.p 16 2) else none) else some St.unitState)
/-- Closes that a command asks for and a check fails are counted. -/
def countRejects (ts : List Nat) (check : Fin 16 → Option Nat) (s : State) : State :=
  ts.foldl (fun s t => match (check (fin16 t)).bind closeReason with | some r => rejectClose (fin16 t) r false s | none => s) s
def ctxClose (d : Desc) (s : State) : State :=
  command ctxCloseInfo d true (fun ts s =>
    if waitsClosing s ts then s else
    let chk (t : Nat) := ctxCloseCheck d s (fin16 t)
    let ok := ts.filter fun t => (chk t).isNone
    let low := match ok.head? with | some t => (s.ctxAt (fin16 t)).epoch % 2 ^ 32 | none => 0
    let s1 := ok.foldl (fun s t => askClose (fin16 t) false none s) (countRejects ts (ctxCloseCheck d s) s)
    finish d (statusOf ts (failing ts chk)) (pack [(0, maskOf ok), (32, low)]) s1) s
def execCtxClose (d : Desc) (s : State) : Host.Outcome State Fault Refusal := .next (settleWeir (ctxClose d s))
def ctxPauseInfo : CmdInfo := { op := 0x0414, auth := auOperate, used := [(16, 8)], sel := .contexts }
def ctxPauseCheck (mode : Nat) (s : State) (c : Fin 16) : Option Nat :=
  (ctxGate s c).or (match (s.ctxAt c).mode with
    | .running => if mode = 0 then closeSteps s c none else if atLimit s c then some St.ctxEpochLimit else none
    | .abandoned => none
    | _ => some St.unitState)
def ctxPauseAct (mode : Nat) (c : Fin 16) (s : State) : State :=
  if (s.ctxAt c).mode = .abandoned then ctxChanged c (toMode c .paused s)
  else if mode = 0 then askClose c false (some .paused) s else askAbandon c 1 (some .paused) s
def ctxPause (d : Desc) (s : State) : State :=
  let m := d.p 16 1
  command ctxPauseInfo d (decide (m ≤ 1)) (fun ts s =>
    if waitsClosing s ts then s
    else multi d ts (fun t => ctxPauseCheck m s (fin16 t)) (fun t => ctxPauseAct m (fin16 t))
      (if m = 0 then countRejects ts (ctxPauseCheck m s) s else s)) s
def execCtxPause (d : Desc) (s : State) : Host.Outcome State Fault Refusal := .next (settleWeir (ctxPause d s))
def ctxResumeInfo : CmdInfo := { op := 0x0415, auth := auOperate, sel := .contexts }
def ctxResumeCheck (s : State) (c : Fin 16) : Option Nat :=
  let x := s.ctxAt c
  (ctxGate s c).or (if x.mode ≠ .paused ∧ x.mode ≠ .abandoned then some St.unitState
    else if !x.released then some St.ctxNotReleased else runCheck s c)
def ctxResume (d : Desc) (s : State) : State := ctxCommand ctxResumeInfo d true ctxResumeCheck ctxRun s
def execCtxResume (d : Desc) (s : State) : Host.Outcome State Fault Refusal := .next (settleWeir (ctxResume d s))
def ctxAbandonInfo : CmdInfo := { op := 0x0416, auth := auOperate, sel := .contexts }
def ctxAbandonCheck (s : State) (c : Fin 16) : Option Nat :=
  let m := (s.ctxAt c).mode
  (ctxGate s c).or (if m ≠ .idle ∧ m ≠ .running ∧ m ≠ .paused then some St.unitState else if atLimit s c then some St.ctxEpochLimit else none)
def ctxAbandonAct (c : Fin 16) (s : State) : State := askAbandon c 1 none s
def ctxAbandon (d : Desc) (s : State) : State := ctxCommand ctxAbandonInfo d true ctxAbandonCheck ctxAbandonAct s
def execCtxAbandon (d : Desc) (s : State) : Host.Outcome State Fault Refusal := .next (settleWeir (ctxAbandon d s))
def ctxStopInfo : CmdInfo := { op := 0x0417, auth := auConfigure, sel := .contexts }
def ctxStopCheck (s : State) (c : Fin 16) : Option Nat :=
  let m := (s.ctxAt c).mode
  if s.mir.role = .standby then some St.mirRole else if !actsHome s c then some St.ctxNotHome else if m ≠ .paused ∧ m ≠ .abandoned then some St.unitState else none
def ctxStopAct (c : Fin 16) (s : State) : State := deactivate c (ctxChanged c (toMode c .idle s))
def ctxStop (d : Desc) (s : State) : State := ctxCommand ctxStopInfo d true ctxStopCheck ctxStopAct s
def execCtxStop (d : Desc) (s : State) : Host.Outcome State Fault Refusal := .next (ctxStop d s)
def ctxLineQueryInfo : CmdInfo := { op := 0x0418, auth := auObserve, used := [(16, 64)] }
/-- `CTX_LINE_QUERY`; it needs the line's state, so an unbuilt segment is built (R210). -/
def ctxLineQuery (d : Desc) (s : State) : State :=
  let a := d.p 16 8
  command ctxLineQueryInfo d (s.here a) (fun _ s =>
    let l := lineOf (localOf a)
    if hostBehind s l then s else
    let s1 := buildSegment (segOf l) s
    let e := s1.eff l
    finish d St.ok (pack [(0, (metaWord (s1.lineAt l)).toNat), (32, e.1.code), (40, b2n e.2)]) s1) s
def execCtxLineQuery (d : Desc) (s : State) : Host.Outcome State Fault Refusal := .next (ctxLineQuery d s)
def copyConfigInfo : CmdInfo := { op := 0x0419, auth := auConfigure, used := [(16, 8), (18, 16)] }
def copyConfig (d : Desc) (s : State) : State :=
  command copyConfigInfo d (decide (1 ≤ d.p 16 1) && decide (d.p 16 1 ≤ 16)) (fun _ s =>
    finish d St.ok 0 (s.onCopy fun k => { k with batch := d.p 16 1, stallLimit := d.p 18 2 })) s
def execCopyConfig (d : Desc) (s : State) : Host.Outcome State Fault Refusal := .next (copyConfig d s)
/-! ## Doorbells (R134) -/
/-- The first check of a doorbell that fails, as its reason. -/
def doorbellBad (s : State) (c : Fin 16) (w : Word) : Option Nat :=
  let x := s.ctxAt c
  if !s.holds 4 auOperate then some 4
  else if notDriven s c ∨ !actsHome s c ∨ (x.mode ≠ .running ∧ x.mode ≠ .closing) then some 1
  else if x.mode = .closing ∨ tooSoon s c then some 2
  else if w.getLsbD 31 ∧ bits w 0 16 ≠ x.epoch % 2 ^ 16 then some 3
  else if atLimit s c then some 5 else none
def doorbell (c : Fin 16) (w : Word) (s : State) : State :=
  match doorbellBad s c w with
  | none => askClose c true none s
  | some r => rejectClose c r true (if r = 4 then s.refuseAuth 4 c.val 0 else s)
/-- The doorbells of one write TLP, all in the same cycle (R136). -/
def ringAll (ws : List (Fin 16 × Word)) (s : State) : State := settleWeir (ws.foldl (fun s p => doorbell p.1 p.2 s) s)
/-! ## Background work -/
/-- `CLOSING_END` (R110, R138): the writes of the closed epoch are applied. -/
def closingEnd (c : Fin 16) (s : State) : State :=
  let x := s.ctxAt c
  if x.mode ≠ .closing ∨ s.conf.prep[c].phase ≠ 0 ∨ (s.ret.writes.any fun p => match p.epoch with | some (k, e) => k = c ∧ e < x.epoch | none => false) then s
  else
    let n := s.now - x.closeAt
    let s1 := s.onCtx c fun x => { x with mode := x.closeTo, closeLat := sat 16 n, closeMax := max x.closeMax (sat 16 n) }
    if x.closeFrom = x.closeTo then s1 else ctxChanged c (s1.raise 0x0410 c.val [(16, x.closeFrom.code), (17, x.closeTo.code), (18, x.cause.toNat)])
def execClosingEnd (c : Fin 16) (s : State) : Host.Outcome State Fault Refusal := .next (closingEnd c s)
/-- `AGING_VISIT` (R118): a line of the oldest stamp under aging takes its effective state. -/
def agingVisit (c : Fin 16) (line : Nat) (s : State) : State :=
  let x := s.lineAt line
  let g := s.lineSeg line
  match (s.ctxAt c).aging with
  | [] => s
  | t :: _ =>
    if g.cls ≠ .epoch ∨ g.owner ≠ c ∨ (x.state ≠ .opened ∧ x.state ≠ .openOver) ∨ x.stamp ≠ t ∨ stampOfEpoch (s.ctxAt c).epoch = t then s
    else match s.eff line with
      | (.never, _) => (s.setLine line Line.never).dropHome line
      | (.unrestored, _) => (s.setLine line { x with state := .unrestored, flip := false, baseZero := false, stamp := 0, charge := none, valid := 0, poison := 0 }).dropHome line
      | (st, f) => s.setLine line { x with state := st, flip := f, baseZero := false, stamp := 0 }
/-- Age at once what carries the stamp that an abandon at T0 is to open: it waits for nothing (R119, R190). -/
def forceAging (c : Fin 16) (s : State) : State :=
  let t := stampOfEpoch ((s.ctxAt c).epoch + 1)
  let old := (s.ctxAt c).aging
  if !old.contains t then s else
  let s1 := s.onCtx c fun x => { x with aging := [t] }
  let s2 := (s1.ret.lines.map (·.1)).foldl (fun s l => agingVisit c l s) s1
  s2.onCtx c fun x => { x with aging := old.filter (· ≠ t), discard := x.discard &&& ~~~(1#256 <<< t.toNat) }
def execAgingVisit (c : Fin 16) (line : Nat) (s : State) : Host.Outcome State Fault Refusal := .next (settleWeir (agingVisit c line s))
/-- `AGING_DONE`: no line carries the stamp any longer, and its discard bit clears. -/
def agingDone (c : Fin 16) (s : State) : State :=
  match (s.ctxAt c).aging with
  | [] => s
  | t :: rest =>
    let left := s.ret.lines.any fun p =>
      (s.lineSeg p.1).cls = .epoch && (s.lineSeg p.1).owner = c && (p.2.state = .opened || p.2.state = .openOver) && p.2.stamp = t
    if left then s else s.onCtx c fun x => { x with aging := rest, discard := x.discard &&& ~~~(1#256 <<< t.toNat) }
/-- `DEFERRED_CLOSE_TAKEN` (R119). -/
def deferredCloseTaken (c : Fin 16) (s : State) : State :=
  let x := s.ctxAt c
  match x.deferred with
  | none => s
  | some k =>
    if agingBlocks s c (x.epoch + 1) then s else
    let s1 := s.onCtx c fun x => { x with deferred := none }
    let s2 := match k with
      | .close _ next =>
        if actsHome s c then beginClose c (next.getD x.mode) s1
        else closeNow c x.settled x.settled (onConf s1 fun k => { k with prep := vmod k.prep c fun _ => Prep.idle })
      | .abandon cause next => askAbandon c cause next s1
    s2.raise 0x0413 c.val [(16, toUs (s.now - x.deferAt))]
def execDeferredCloseTaken (c : Fin 16) (s : State) : Host.Outcome State Fault Refusal := .next (settleWeir (deferredCloseTaken c s))
/-- `CTX_WATCHDOG_EXPIRE` (R140): of a RUNNING context with a watchdog, on its home and not on a STANDBY. -/
def ctxWatchdogExpire (c : Fin 16) (s : State) : State :=
  let x := s.ctxAt c
  if s.glb.state = 3 ∨ x.mode ≠ .running ∨ x.wdog = 0 ∨ notDriven s c ∨ !actsHome s c then s else askAbandon c 3 none s
def execCtxWatchdogExpire (c : Fin 16) (s : State) : Host.Outcome State Fault Refusal := .next (settleWeir (ctxWatchdogExpire c s))
end Sys2Proof.Machine
end

