-- ==== Sys2Proof/Machine/Scan.lean ====
section
/-! DEFINITION. Scan services (chapter 08): timer cells, edge planes, program swaps, the pass that visits them, and the SCAN
commands. -/
namespace Sys2Proof.Machine
/-! ## Timer cells (R267, R268, R271) -/
/-- A timer cell's fields (R267). -/
structure Cell where
  preset : Nat
  acc    : Nat
  ref    : Nat
  type   : Nat
  inp    : Bool
  reset  : Bool
  dn     : Bool
  tt     : Bool
  q      : Bool
  last   : Bool
deriving DecidableEq, Repr
def cellOf (b : List Byte) : Cell :=
  let y := (b.getD 13 0)
  let z := (b.getD 14 0)
  ⟨field b 0 4, field b 4 4, field b 8 4, (b.getD 12 0).toNat % 8, y.getLsbD 0, y.getLsbD 1, z.getLsbD 0, z.getLsbD 1, z.getLsbD 2, z.getLsbD 3⟩
/-- The cell's bytes; of `b` what a pass does not write is kept. -/
def cellBytes (b : List Byte) (c : Cell) (ctrl : Byte) : List Byte :=
  leBytes 4 c.preset ++ leBytes 4 c.acc ++ leBytes 4 c.ref ++ [(b.getD 12 0 &&& 0xF8) ||| BitVec.ofNat 8 c.type, ctrl,
    BitVec.ofNat 8 (pack [(0, b2n c.dn), (1, b2n c.tt), (2, b2n c.q), (3, b2n c.last)]), b.getD 15 0]
/-- One update of R268, for a defined TYPE: `n` ticks have passed. -/
def runCell (n : Nat) (c : Cell) : Cell :=
  let up := min c.preset (c.acc + n)
  match c.type with
  | 1 =>
    let acc := if !c.inp then 0 else if c.last then up else c.acc
    let dn := c.inp && acc == c.preset
    { c with acc := acc, dn := dn, tt := c.inp && !dn, q := dn }
  | 2 =>
    let (acc, tt, dn) :=
      if c.inp then (0, false, false) else if c.last then (0, true, c.dn) else if c.tt then (up, true, c.dn) else (c.acc, false, c.dn)
    let fin := !c.inp && tt && acc == c.preset
    { c with acc := acc, tt := tt && !fin, dn := dn || fin, q := c.inp || (tt && !fin) }
  | 3 =>
    let acc := if c.reset then 0 else if c.inp && c.last then up else c.acc
    let dn := acc == c.preset
    { c with acc := acc, dn := dn, tt := c.inp && !dn && !c.reset, q := dn }
  | _ =>
    let (acc, tt, dn) := if c.tt then (up, true, c.dn) else if c.inp && !c.last then (0, true, false) else (c.acc, false, c.dn)
    let fin := tt && acc == c.preset
    { c with acc := acc, tt := tt && !fin, dn := dn || fin, q := tt && !fin }
/-- The settings of WARM_PENDING, in a cell that is not RETENTIVE (R271). -/
def warmCell (c : Cell) : Cell := if c.type = 3 then c else { c with acc := 0, dn := false, tt := false, q := false, last := false, inp := false, reset := false }
/-- A pass's update of a cell at tick `now` (R268, R269, R271). -/
def updateCell (now : Nat) (rebase warm : Bool) (b : List Byte) : List Byte :=
  let c0 := cellOf b
  let keepCtrl := !warm || c0.type == 3
  let ctrl := if keepCtrl then b.getD 13 0 else 0
  if c0.type ≥ 5 then
    (if warm then leBytes 4 c0.preset ++ leBytes 4 0 ++ leBytes 4 c0.ref ++ [b.getD 12 0, 0, 0x10, b.getD 15 0] else b.set 14 (b.getD 14 0 ||| 0x10))
  else
    let c := if warm then warmCell c0 else c0
    if c.type = 0 then (if warm then cellBytes b c ctrl else b)
    else
      let n := if rebase then 0 else (now + 2 ^ 32 - c.ref) % 2 ^ 32
      let c' := runCell n c
      cellBytes b { c' with last := c.inp, ref := now } ctrl
/-! ## What a visit writes -/
/-- A line that a visit computes: its number, bytes and poison. -/
abbrev NewLine := Nat × List Byte × BitVec 4
def localLine (base i : Nat) : Nat := lineOf (localOf base) + i
def cut16 (b : List Byte) (j : Nat) : List Byte := (b.drop (16 * j)).take 16
/-- Carry entry whose NEW is `n`. -/
def carryTo (w : Swap) (kind n : Nat) : Option Carry := w.carry.find? fun c => c.kind = kind ∧ c.new = n
/-- What a pass reads of a line as the close committed it (R262). While scan services run, no other write of a later epoch reaches an
unvisited SRC or timer line (R264), and the line is read as an earlier pass's visit left it (R266). -/
def passValue (s : State) (l : Nat) : List Byte × BitVec 4 := if s.isRunning .scan 0 then s.lineValue l else committedNow s l
/-- Poisoned 64 B beats that a visit reads, by line and beat. -/
abbrev Beats := List (Nat × Nat)
def beatsOf (l : Nat) (p : BitVec 4) : Beats := (maskList p.toNat 4).map fun g => (l, g)
def orIf (p : Bool) (l g : Nat) : Beats := if p then [(l, g)] else []
/-- What a visit writes, what it read poisoned, and the cells it skipped. -/
structure Work where
  lines : List NewLine
  bad   : Beats
  skips : Nat
/-- A cell that a pass computes: its bytes, the poison it read, and whether it was skipped. -/
abbrev NewCell := List Byte × Beats × Bool
/-- A cell of a swap's new table (R278); `there` is the cell in working memory and `dirt` the poison of its beat. What a poisoned
beat gives is poisoned, whether of a cell or of the initial image, and a cell that is kept is then left as it is (R281). -/
def swapCell (s : State) (p : Pass) (w : Swap) (idx : Nat) (there : List Byte) (dirt : Beats) : NewCell :=
  let y := w.newLayout
  let off := y.tinitOff + 16 * idx
  let image := if y.tinitOff = 0 then rep 16 0 else bankBytes s y.bankSeg off 16
  let at_ := lineOf (y.bankSeg * segBytes + off)
  let imageBad := orIf (y.tinitOff ≠ 0 && bankPoison s y.bankSeg off 16) at_ (off % 256 / 64)
  let ref (b : List Byte) : List Byte := b.take 8 ++ leBytes 4 p.tick.toNat ++ b.drop 12
  match carryTo w 1 idx, w.oldLayout with
  | some c, some o =>
    let l := localLine o.timerBase (c.old / 16)
    let (v, po) := committedNow s l
    let g := c.old % 16 / 4
    let b := updateCell p.tick.toNat p.rebase p.warm (cut16 v (c.old % 16))
    let bad := orIf (po.getLsbD g) l g
    if c.policy = 0 then (b, bad, false)
    else
      let x := cellOf b
      let i := cellOf image
      (leBytes 4 i.preset ++ leBytes 4 (min x.acc i.preset) ++ (b.drop 8).take 4 ++ [image.getD 12 0] ++ b.drop 13, bad ++ imageBad, false)
  | _, _ =>
    if w.keep then (if dirt = [] then (ref there, [], false) else (there, dirt, true)) else (ref image, imageBad, false)
/-- The timer line of a pass. A beat that the table does not reach, and cells beyond its end, stay as they are. -/
def timerVisit (s : State) (p : Pass) (i : Nat) : Work :=
  let y := p.layout
  let l := localLine y.timerBase i
  let (v, po) := if p.swap.isSome then s.lineValue l else passValue s l
  let cells : List NewCell := (List.range 16).map fun j =>
    let idx := 16 * i + j
    let b := cut16 v j
    let dirt := orIf (po.getLsbD (j / 4)) l (j / 4)
    if idx ≥ y.timerCount then (b, [], false)
    else match p.swap with
      | some w => swapCell s p w idx b dirt
      | none => if dirt = [] then (updateCell p.tick.toNat p.rebase p.warm b, [], false) else (b, dirt, true)
  let out (g : Nat) : Bool := ((cells.drop (4 * g)).take 4).any (fun c => c.2.1 ≠ []) || (po.getLsbD g && decide (y.timerCount < 16 * i + 4 * g + 4))
  ⟨[(l, cells.flatMap (·.1), BitVec.ofNat 4 ((List.range 4).map fun g => 2 ^ g * b2n (out g)).sum)],
   (cells.flatMap fun c => c.2.1).dedup, (cells.filter fun c => c.2.2).length⟩
/-- PREV word of the old plane that an edge word carries: its bytes and poison. -/
def oldWord (s : State) (o : Layout) (w : Nat) : List Byte × Beats :=
  match o.planes[w / 2 ^ 14]? with
  | none => (rep 8 0, [])
  | some pl =>
    let n := w % 2 ^ 14
    let l := localLine pl.prev (n / 32)
    let (v, p) := committedNow s l
    ((v.drop (8 * (n % 32))).take 8, orIf (p.getLsbD (n % 32 / 8)) l (n % 32 / 8))
def zip3 (f : Byte → Byte → Byte) (a b : List Byte) : List Byte := List.zipWith f a b
/-- The previous image that a visit of plane `j`, line `i` compares with, its poison, and the beats that poison it (R272, R278). -/
def prevImage (s : State) (p : Pass) (j : Nat) (pl : Plane) (i : Nat) (src : List Byte) : List Byte × BitVec 4 × Beats :=
  match p.swap with
  | none => let l := localLine pl.prev i; let (v, po) := s.lineValue l; (v, po, beatsOf l po)
  | some w =>
    let ws := (List.range 32).map fun n =>
      match carryTo w 2 (j * 2 ^ 14 + 32 * i + n), w.oldLayout with
      | some c, some o => oldWord s o c.old
      | _, _ => ((src.drop (8 * n)).take 8, [])
    (ws.flatMap (·.1), BitVec.ofNat 4 ((List.range 4).map fun g => 2 ^ g * b2n (((ws.drop (8 * g)).take 8).any (·.2 ≠ []))).sum, (ws.flatMap (·.2)).dedup)
/-- RISE, FALL and PREV lines of a visit. Of a carried word R278 gives the old plane's PREV word and computes RISE and FALL under R272,
which leaves S in PREV: the model compares with the old PREV word and leaves S (DEDUCED, log entry 184). -/
def edgeVisit (s : State) (p : Pass) (j : Nat) (pl : Plane) (i : Nat) : Work :=
  let sl := localLine pl.src i
  let (sv, sp) := passValue s sl
  let (pv, pp, bad) := prevImage s p j pl i sv
  ⟨[(localLine pl.rise i, zip3 (fun a b => a &&& ~~~b) sv pv, sp ||| pp), (localLine pl.fall i, zip3 (fun a b => b &&& ~~~a) sv pv, sp ||| pp),
    (localLine pl.prev i, sv, sp ||| (if p.swap.isSome then pp else 0))], beatsOf sl sp ++ bad, 0⟩
/-! ## The pass (R262–R266) -/
/-- Lines that a visit changes: the rest are not written (R265). -/
def changed (s : State) (ls : List NewLine) : List NewLine := ls.filter fun n => s.lineValue n.1 ≠ n.2
/-- Writes of a line that have to wait for the visit under way. -/
def waitVisit (l : Nat) (s : State) : State :=
  (s.ret.writes.filter fun q => q.line = l && scanHolds s q).foldl (fun s q => setPiece q .visit s) s
/-- One FP21 write of a whole line, in the epoch now open: it goes before the writes that wait for the visit (R264), and behind the other
accepted writes of its line it waits its turn (R128). In an ABANDONED context, and with the terminal epoch open, it is dropped. -/
def scanWrite (c : Fin 16) (n : NewLine) (s : State) : State :=
  let x := s.ctxAt c
  if x.mode = .abandoned ∨ x.epoch ≥ terminalEpoch then s.onCtx c fun x => { x with dropped := sat 32 (x.dropped + 1) }
  else
    let p : Piece := ⟨21, n.1, n.2.1.map some, n.2.2, 0, some (c, x.epoch), some .scan, .ready, s.now, s.ret.order, false⟩
    let s0 := onRet s fun r => { r with order := r.order + 1 }
    let s1 := waitVisit n.1 (notePublish c x.epoch n.1 p.bytes s0)
    if dchDead s (channelOf s n.1) then onDch s1 (channelOf s n.1) fun d => { d with dropped := sat 32 (d.dropped + 1) }
    else if behindOther s1 p || (s.ret.writes.any fun q => q.fp = 21) || !dchRunning s (channelOf s n.1) then onRet s1 fun r => { r with writes := r.writes ++ [p] } else applyPiece p s1
/-- Writes of an epoch already closed, or of an earlier pass, are still to be applied to a line. -/
def lateOn (s : State) (l : Nat) : Bool := s.ret.writes.any fun p => p.line = l && (isLate s p || p.fp == 21)
/-- Lines that a visit reads, in the layout it works on. -/
def visitReads (y : Layout) : Visit → List Nat
  | .timer i => [localLine y.timerBase i]
  | .edge j i => match y.planes[j]? with | some p => [localLine p.src i, localLine p.prev i, localLine p.rise i, localLine p.fall i] | none => []
/-- Old lines from which a visit of a swap's pass takes carried cells and words. -/
def carryLines (p : Pass) (v : Visit) : List Nat :=
  match p.swap with
  | none => []
  | some w => match w.oldLayout with
    | none => []
    | some o =>
      let mine (c : Carry) : Bool := match v with
        | .timer i => c.kind == 1 && c.new / 16 == i
        | .edge j i => c.kind == 2 && c.new / 32 == j * 512 + i
      ((w.carry.filter mine).map fun c =>
        if c.kind = 1 then localLine o.timerBase (c.old / 16)
        else match o.planes[c.old / 2 ^ 14]? with | some q => localLine q.prev (c.old % 2 ^ 14 / 32) | none => 0).dedup
/-- Accesses wait for a visit: a write of its SRC or timer line, or a read that the visit's line, or its plane, keeps waiting
(R264). -/
def accessWaits (s : State) (y : Layout) (v : Visit) : Bool :=
  let held := s.slu.reads.flatMap fun r => linesFrom r.addr r.len
  match v with
  | .timer i => let l := localLine y.timerBase i; (s.ret.writes.any fun p => p.line = l && p.wait = .visit) || held.contains l
  | .edge j i => match y.planes[j]? with
    | none => false
    | some p => (s.ret.writes.any fun q => q.line = localLine p.src i && q.wait = .visit)
        || held.any fun l => [p.rise, p.fall, p.prev].any fun b => lineIn b l (decide <| · < p.lines)
/-- Lines with accesses waiting come first (R264). -/
def pickVisit (s : State) (y : Layout) (vs : List Visit) : Option Visit :=
  match vs.find? (accessWaits s y) with
  | some v => some v
  | none => vs.head?
/-- `SCAN_POISONED` for one line, and the consumption of R330. -/
def scanPoisoned (c : Fin 16) (line kind beats : Nat) (s : State) : State :=
  let s1 := poisonUsed line 4 c s
  let n := s1.scan.ctx[c].poisoned + beats
  if s1.mayRaise 0x0812 c.val then
    (onScanCtx s1 c fun k => { k with poisoned := 0 }).raiseLim 0x0812 c.val c.val [(16, (s.wma line).toNat), (24, kind), (28, n)]
  else onScanCtx s1 c fun k => { k with poisoned := n }
/-- Each poisoned line that a visit read is told of (R287). -/
def tellPoison (c : Fin 16) (kind : Nat) (bad : Beats) (s : State) : State :=
  (bad.map (·.1)).dedup.foldl (fun s l => scanPoisoned c l kind (bad.filter fun b => b.1 = l).length s) s
/-- A plane's account of a visit's line once it is written: which of its RISE and FALL lines are non-zero, the lines left by an
aborted pass, and the epoch in which a full visit of it ended (R273). `more`: the pass has more of the plane's lines to visit. -/
def planeVisited (p : Pass) (j i : Nat) (nz more : Bool) (s : State) : State :=
  let x := s.ctxAt p.ctx
  if x.mode = .abandoned ∨ x.epoch ≥ terminalEpoch then s else
  onScanCtx s p.ctx fun k => if k.layout ≠ some p.layout then k else { k with planes := k.planes.zipIdx.map fun q =>
    if q.2 ≠ j then q.1 else
    let left := q.1.partialLines.filter (· ≠ i)
    let ends := if q.1.all then p.full.contains j && !more else q.1.resync && left.isEmpty
    { q.1 with partialLines := left, wroteIn := if ends then some x.epoch else q.1.wroteIn,
               nonzero := if nz then (if q.1.nonzero.contains i then q.1.nonzero else q.1.nonzero ++ [i]) else q.1.nonzero.filter (· ≠ i) } }
def scanLife : Fin 50 := 16
/-- The end of a pass. -/
def passEnd (p : Pass) (s : State) : State :=
  let n := sat 32 (s.now - p.started)
  let s1 := onScanCtx (onScan s fun x => { x with running := none, passMax := max x.passMax n }) p.ctx fun k => { k with last := n }
  if s1.scan.queue = [] then drained scanLife s1 else s1
def onRunning (s : State) (f : Pass → Pass) : State := onScan s fun x => { x with running := x.running.map f }
/-- A write of the running pass is accepted: the first one names the epoch into which a pass made under REBASE or WARM_PENDING
wrote (R269, R271). -/
def noteEpoch (p : Pass) (s : State) : State :=
  let x := s.ctxAt p.ctx
  if p.wrote.isSome ∨ x.mode = .abandoned ∨ x.epoch ≥ terminalEpoch then s else
  onScanCtx (onRunning s fun q => { q with wrote := some x.epoch }) p.ctx fun k =>
    { k with rebaseIn := if p.rebase && k.rebase && k.rebaseIn.isNone then some x.epoch else k.rebaseIn,
             warmIn := if p.warm && k.warm && k.warmIn.isNone then some x.epoch else k.warmIn }
/-- What the passes last wrote to a line, or left there. -/
def lastWritten (s : State) (l : Nat) : List Byte :=
  match (s.ret.writes.filter fun q => q.line = l ∧ q.fp = 21).getLast? with
  | some q => q.bytes.map (·.getD 0)
  | none => (s.lineValue l).1
/-- A visit whose lines are all written is over. -/
def visitEnds (p : Pass) (v : Visit) (s0 : State) : State :=
  let left := p.todo.filter (· ≠ v)
  let s := onRunning s0 fun q => { q with todo := left, pend := none }
  let s1 := match v with
    | .timer _ => s
    | .edge j i => match p.layout.planes[j]? with
      | none => s
      | some pl =>
        let nz := [pl.rise, pl.fall].any fun b => (lastWritten s (localLine b i)).any (· ≠ 0)
        planeVisited p j i nz (left.any (isEdgeOf j)) s
  let s2 := serveReads (noteWait s0 s1)
  match s2.scan.running with | some q => if q.todo = [] then passEnd q s2 else s2 | none => s2
/-- The lines of the visit under way, one write each, as the weir admits them (R161, R162, R265). While the context's close is
deferred or prepared they wait as well. -/
def visitWrites (v : Visit) : List NewLine → State → State
  | [], s => match s.scan.running with | some p => visitEnds p v s | none => s
  | n :: rest, s =>
    match s.scan.running with
    | none => s
    | some p =>
      if ctxHolds s p.ctx || !admits s 21 1 then onRunning s fun q => { q with pend := some (v, n :: rest) }
      else visitWrites v rest (scanWrite p.ctx n (noteEpoch p (drawSoft 21 1 s)))
/-- One visit: nothing happens while writes of a closed epoch are still to be applied to a line it reads. -/
def visit (p : Pass) (v : Visit) (s0 : State) : State :=
  let ls := visitReads p.layout v ++ carryLines p v
  if ls.any (lateOn s0) then s0 else
  let s := ls.foldl (fun s l => faultIn l s) s0
  match v with
  | .timer i =>
    let w := timerVisit s p i
    visitWrites v (changed s w.lines) (tellPoison p.ctx 1 w.bad (onScan s fun x => { x with poisonSkips := sat 32 (x.poisonSkips + w.skips) }))
  | .edge j i =>
    match p.layout.planes[j]? with
    | none => visitEnds p v s
    | some pl => let w := edgeVisit s p j pl i; visitWrites v (changed s w.lines) (tellPoison p.ctx 2 w.bad s)
/-- `SCAN_PASS_START`: the oldest queued pass starts, one at a time. -/
def scanPassStart (s : State) : State :=
  match s.scan.running, s.scan.queue with
  | none, p :: rest =>
    let p' := { p with started := s.now }
    let s1 := onScan s fun x => { x with running := some p', queue := rest }
    if p.todo = [] then passEnd p' s1 else s1
  | _, _ => s
def execScanPassStart (s : State) : Host.Outcome State Fault Refusal := .next (scanPassStart s)
/-- `SCAN_LINE_VISIT`: the visit under way goes on, or the next begins. -/
def scanLineVisit (s : State) : State :=
  match s.scan.running with
  | none => s
  | some p =>
    match p.pend with
    | some (v, ls) => visitWrites v ls s
    | none => match pickVisit s p.layout p.todo with
      | none => passEnd p s
      | some v => visit p v s
def execScanLineVisit (s : State) : Host.Outcome State Fault Refusal := .next (settleWeir (scanLineVisit s))
/-! ## Commands (R284, R285) -/
def ctxSwapInfo : CmdInfo := { op := 0x0420, auth := auOperate, used := [(16, 32), (20, 16), (22, 1), (24, 32)], sel := .single 16 }
/-- `CTX_SWAP`: armed once its checks pass, in the order of R285. -/
def ctxSwap (d : Desc) (s : State) : State :=
  let seg := d.p 16 4
  let n := d.p 20 2
  command ctxSwapInfo d (decide (1 ≤ n) && decide (n ≤ 4095) && decide (seg < 2 ^ 17)) (fun ts s =>
    let c := fin16 (ts.headD 0)
    let x := s.ctxAt c
    if x.mode = .closing then s
    else match ctxGate s c with
      | some st => finish d st 0 s
      | none =>
        if x.mode = .abandoned ∨ !scanRunning s then finish d St.unitState 0 s
        else if !sealedBank s seg n then finish d St.ctxBank 0 s
        else if s.scan.ctx[c].swap.isSome then finish d St.busy 0 s
        else match checkSwap c seg n s with
          | (.inr (st, r), s1) => finish d st r s1
          | (.inl (y, cs), s1) =>
            let k := s1.scan.ctx[c]
            running d (.swap c) 0 (onScanCtx s1 c fun _ =>
              { k with swap := some ⟨seg, n, d.bit 22 0, d.p 24 4, s.now, none, x.bankSeg, x.bankCount, k.layout, y, cs, k.shelf, k.suspended⟩ })) s
def execCtxSwap (d : Desc) (s : State) : Host.Outcome State Fault Refusal := .next (ctxSwap d s)
/-- `CTX_SWAP_TIMEOUT`. -/
def ctxSwapTimeout (c : Fin 16) (s : State) : State :=
  match s.scan.ctx[c].swap with
  | some w =>
    if w.epoch.isSome ∨ w.timeout = 0 then s
    else wake (fun k => match k with | .swap i => if i = c.val then .done St.timeout none else .go | _ => .go)
      (onScanCtx s c fun k => { k with swap := none })
  | none => s
def execCtxSwapTimeout (c : Fin 16) (s : State) : Host.Outcome State Fault Refusal := .next (ctxSwapTimeout c s)
def scanConfigInfo : CmdInfo := { op := 0x0810, auth := auConfigure, used := [(16, 32)] }
def scanConfig (d : Desc) (s : State) : State :=
  command scanConfigInfo d true (fun _ s =>
    if s.lifeOf .scan 0 ≠ .stopped then finish d St.unitState 0 s
    else storing d 0x0810 [setting 0x0810 0xFF (paramBytes d)] 0 s) s
def scanConfigApply (d : Desc) (s : State) : State :=
  onScan s fun x => { x with timerEn := BitVec.ofNat 16 (d.p 16 2), edgeEn := BitVec.ofNat 16 (d.p 18 2) }
def execScanConfig (d : Desc) (s : State) : Host.Outcome State Fault Refusal := .next (scanConfig d s)
def activeLayouts (s : State) : List (Nat × Layout) :=
  (List.range 16).filterMap fun i => (s.scan.ctx[fin16 i].layout).map fun y => (i, y)
def scanCells (s : State) : Nat := ((activeLayouts s).map fun p => p.2.timerCount).sum
def scanPlanes (s : State) : Nat := ((activeLayouts s).map fun p => p.2.planes.length).sum
def scanQueryInfo : CmdInfo := { op := 0x0811, auth := auObserve }
def scanQuery (d : Desc) (s : State) : State :=
  command scanQueryInfo d true (fun _ s =>
    finish d St.ok (pack [(0, scanCells s), (32, scanPlanes s), (40, s.scan.queue.length)]) s) s
def execScanQuery (d : Desc) (s : State) : Host.Outcome State Fault Refusal := .next (scanQuery d s)
def scanLayoutCheckInfo : CmdInfo := { op := 0x0812, auth := auObserve, used := [(16, 32), (20, 16), (22, 8), (23, 1)] }
/-- The reason a bank fails R260 for a context, if any, once the lines it reads are brought in. -/
def layoutReason (c : Fin 16) (seg n : Nat) (asSwap : Bool) (s : State) : Option Nat × State :=
  if n = 0 ∨ !sealedBank s seg n then (some 1, s)
  else if asSwap then
    match checkSwap c seg n s with
    | (.inr (_, r), s1) => (some r, s1)
    | (.inl _, s1) => (none, s1)
  else
    let s1 := bankIn seg 0 4096 s
    match readLayout s1 c seg n with
    | .inr r => (some r, notePoisonRead c seg 0 4096 s1)
    | .inl _ => (none, s1)
/-- `SCAN_LAYOUT_CHECK`. No bank has 0 segments, so BANK_COUNT 0 fails with reason 1, and a count above 4,095, which no bank has either, is a
bad parameter (DESIGN CHOICE, log entry 184: the manual gives the field no range here). -/
def scanLayoutCheck (d : Desc) (s : State) : State :=
  command scanLayoutCheckInfo d (decide (d.p 22 1 < 16) && decide (d.p 20 2 ≤ 4095)) (fun _ s =>
    match layoutReason (fin16 (d.p 22 1)) (d.p 16 4) (d.p 20 2) (d.bit 23 0) s with
    | (some r, s1) => finish d St.scanLayout r s1
    | (none, s1) => finish d St.ok 0 s1) s
def execScanLayoutCheck (d : Desc) (s : State) : Host.Outcome State Fault Refusal := .next (scanLayoutCheck d s)
end Sys2Proof.Machine
end

