-- ==== Sys2Proof/Machine/Segments.lean ====
section
/-! DEFINITION. Segments and windows (chapter 03): the segment table, loading and sealing CONSTANT segments, and BAR2 window
descriptors. -/
namespace Sys2Proof.Machine
/-! ## Emptying (R90, R92) -/
/-- Input blocks whose header is zeroed count their updates anew (R358). -/
def blocksZeroed (inside : Nat → Bool) (s : State) : State :=
  { s with trib := s.trib.map fun t => { t with mods := t.mods.mapFinIdx fun a m _ => if inside (inBlock t a) then { m with seq := 0 } else m } }
/-- Every line of a segment becomes NEVER; accepted writes to it are discarded, with their charges, and its copies and
faults end. -/
def emptySegment (g : Nat) (s : State) : State :=
  let lo := segLine g
  let hi := segLine (g + 1)
  let inside (l : Nat) : Bool := decide (lo ≤ l) && decide (l < hi)
  let s1 := onRet s fun r =>
    { r with lines := mdrop r.lines lo hi, dram := mdrop r.dram (lo * 256) (hi * 256), shadow := mdrop r.shadow (lo * 256) (hi * 256),
             writes := r.writes.filter (fun p => !inside p.line),
             copy := { r.copy with queue := r.copy.queue.filter (fun q => !inside q.2), active := r.copy.active.filter fun q => !inside q.2 } }
  let s2 := onSlu s1 fun x =>
    { x with unbuilt := x.unbuilt.filter (· ≠ g), todo := x.todo.filter (· ≠ g), prefetch := x.prefetch.filter (· ≠ g),
             faults := x.faults.filter (fun f => !inside f.line), covered := x.covered.filter fun l => !inside l }
  onMir (blocksZeroed inside s2) fun m => { m with latest := m.latest.filter fun l => !inside l }
def runOf (first count : Nat) : List Nat := (List.range count).map (first + ·)
/-! ## Checks (R91, R95) -/
/-- A context that is not IDLE has the segment in its program bank. -/
def inActiveBank (s : State) (g : Nat) : Bool :=
  (List.range 16).any fun i => let x := s.ctxAt (fin16 i); x.mode ≠ .idle && decide (x.bankSeg ≤ g) && decide (g < x.bankSeg + x.bankCount)
/-- The segment holds input or output blocks of a port that is not OFF or STOPPED: of its module addresses, 1 to 62 on a serial port
(R91, R343). -/
def portBlocksIn (s : State) (g : Nat) : Bool :=
  (List.range 12).any fun n =>
    let t := s.trib[Fin.ofNat 12 n]
    let here (b stride : Nat) : Bool := let l := lineOf (localOf b); decide (segOf (l + stride) ≤ g) && decide (g ≤ segOf (l + (topAddr t + 1) * stride - 1))
    s.lifeOf .trib n ≠ .off && s.lifeOf .trib n ≠ .stopped && (here t.cfg.inBase.toNat t.cfg.inStride || here t.cfg.outBase.toNat t.cfg.outStride)
/-- The segment holds timer cells or planes of a context that is not IDLE. -/
def layoutIn (s : State) (g : Nat) : Bool :=
  (activeLayouts s).any fun q => (workRegions q.2 ++ srcRegions q.2).any fun r =>
    let l := r.1 % 2 ^ 30
    decide (segOf l ≤ g) && decide (g ≤ segOf (l + r.2 - 1))
def ownerQuiet (s : State) (e : Seg) : Bool :=
  if e.cls = .epoch then (let m := (s.ctxAt e.owner).mode; m = .idle || m = .paused) else true
/-- CLASS and OWNER agree: the first check of R91. -/
def ownerFits (d : Desc) : Bool := decide (if d.p 20 1 = 1 then d.p 21 1 ≤ 15 else d.p 21 1 = 0)
/-- The checks of R81 and R91 on one segment, `e` its new entry; `fits` says that CLASS and OWNER agree. -/
def classBad (s : State) (fits : Bool) (e : Seg) (g : Nat) : Option Nat :=
  if !s.segExists g then some St.badTarget
  else if !fits then some St.badParam
  else if (s.seg g).loading then some St.segSealed
  else if !ownerQuiet s (s.seg g) || !ownerQuiet s e || inActiveBank s g || portBlocksIn s g || layoutIn s g then some St.segOwnerState
  else none
/-- The first segment of a run that fails, with its status. -/
def firstBad (bad : Nat → Option Nat) : List Nat → Option (Nat × Nat)
  | [] => none
  | g :: t => match bad g with | some st => some (st, g) | none => firstBad bad t
/-- The capacity check on the run as a whole: the segment it reports. -/
def capacityBad (s : State) (e : Seg) (run : List Nat) : Option Nat :=
  let now := s.retainedSegs
  let was := (run.filter fun g => (s.seg g).cls ≠ .volatile).length
  let new := now - was + (if e.cls = .volatile then 0 else run.length)
  if gibUp new > gibUp now ∧ s.ret.sum.pslcHave < pslcNeed (gibUp new) then (run.find? fun g => (s.seg g).cls = .volatile).or run.head? else none
/-! ## Commands -/
def segQueryInfo : CmdInfo := { op := 0x0310, auth := auObserve, sel := .segment }
def segQuery (d : Desc) (s : State) : State :=
  command segQueryInfo d true (fun ts s =>
    let e := s.seg (ts.headD 0)
    finish d St.ok (pack [(0, e.word.toNat), (32, if e.sealed then e.crc.toNat else 0)]) s) s
def execSegQuery (d : Desc) (s : State) : Host.Outcome State Fault Refusal := .next (segQuery d s)
def segSetClassInfo : CmdInfo :=
  { op := 0x0311, auth := auConfigure, used := [(16, 48), (22, 2)], sel := .segment, enc := fun d => decide (d.p 20 1 ≤ 3) }
def countOk (d : Desc) : Bool := decide (1 ≤ d.p 16 4) && decide (d.p 16 4 ≤ 65536)
def newEntry (d : Desc) : Seg :=
  ⟨RClass.ofCode (d.p 20 1), false, false, fin16 (d.p 21 1), d.bit 22 0, d.bit 22 1, false, 0⟩
/-- Entries agree but for their flags. -/
def sameButFlags (a b : Seg) : Bool := a.cls = b.cls && a.sealed == b.sealed && (a.cls ≠ .epoch || a.owner = b.owner)
/-- Entries agree altogether, LOADING apart. -/
def sameEntry (a b : Seg) : Bool := sameButFlags a b && a.retentive == b.retentive && a.prio == b.prio
/-- The KIND 5 packets of `SEG_SET_CLASS`. A packet whose entry differs in flags only is taken as one of `SEG_SET_FLAGS`, so a run that keeps
its class and owner and takes new flags has two: the flags, then the entry as it stands, which empties it (R407; DESIGN CHOICE, log entry
52). `old` gives the entries before. -/
def dueClass (first : Nat) (run : List Nat) (e : Seg) (old : Nat → Seg) (s : State) : State :=
  let s1 := dueSegment first run.length false s
  if run.all (fun g => sameButFlags (old g) e) && !run.all (fun g => sameEntry (old g) e) then dueSegment first run.length false s1 else s1
/-- `SEG_SET_CLASS` (R90–R92): every segment is checked, then the run changes at one instant; the command completes when
the marker is durable (R248). -/
def segSetClass (d : Desc) (s : State) : State :=
  command segSetClassInfo d (countOk d) (fun ts s =>
    if s.mir.role = .standby then finish d St.mirRole 0 s else
    let first := ts.headD 0
    let run := runOf first (d.p 16 4)
    let e := newEntry d
    match firstBad (classBad s (ownerFits d) e) run with
      | some (st, g) => finish d st g s
      | none => match capacityBad s e run with
        | some g => finish d St.segCapacity g s
        | none =>
          let s1 := run.foldl (fun s g => (emptySegment g s).setSeg g e) s
          let s2 := serveReads (checkCapacity (placeMarker first run.length true s1))
          untilDurable d 0 (dueClass first run e (fun g => s.seg g) s2)) s
def execSegSetClass (d : Desc) (s : State) : Host.Outcome State Fault Refusal := .next (settleWeir (segSetClass d s))
def segSetFlagsInfo : CmdInfo := { op := 0x0312, auth := auConfigure, used := [(16, 32), (22, 2)], sel := .segment }
/-- `SEG_SET_FLAGS` (R93): markers of one change, one for each run of equal entries (R85). -/
def segSetFlags (d : Desc) (s : State) : State :=
  command segSetFlagsInfo d (countOk d) (fun ts s =>
    if s.mir.role = .standby then finish d St.mirRole 0 s else
    let first := ts.headD 0
    let run := runOf first (d.p 16 4)
    match firstBad (fun g => if s.segExists g then none else some St.badTarget) run with
    | some (st, g) => finish d st g s
    | none =>
      let s1 := run.foldl (fun s g => s.setSeg g { s.seg g with retentive := d.bit 22 0, prio := d.bit 22 1 }) s
      let s2 := placeRuns first run.length s1
      -- a run whose entries stay as they are is no change, and has no packet (R401)
      let told (r : Nat × Nat × Seg) : Bool := !(runOf r.1 r.2.1).all fun g => sameEntry (s.seg g) (s1.seg g)
      untilDurable d 0 (((runsOf s1 first run.length).filter told).foldl (fun s r => dueSegment r.1 r.2.1 false s) s2)) s
def execSegSetFlags (d : Desc) (s : State) : Host.Outcome State Fault Refusal := .next (segSetFlags d s)
/-- A `SEG_LOAD` of the segment is outstanding: its completion is not written (R42, R95, R97). -/
def loadsOut (s : State) (g : Nat) : Bool := cmdPorts.any fun p => (cmdsOf s p).any (isLoadOf g)
def segLoadBeginInfo : CmdInfo := { op := 0x0313, auth := auConfigure, used := [(16, 1)], sel := .segment }
/-- `SEG_LOAD_BEGIN` (R95). -/
def segLoadBegin (d : Desc) (s : State) : State :=
  command segLoadBeginInfo d true (fun ts s =>
    if s.mir.role = .standby then finish d St.mirRole 0 s else
    let g := ts.headD 0
    let e := s.seg g
    let re := d.bit 16 0
    if e.cls ≠ .constant then finish d St.segClass 0 s
    else if !re then
      (if e.sealed then finish d St.segSealed 0 s
       else finish d St.ok 0 (s.setSeg g { e with loading := true, loadLost := e.loadLost && e.loading }))
    else if inActiveBank s g then finish d St.segOwnerState 0 s
    else if e.loading && loadsOut s g then finish d St.busy 0 s
    else
      let s1 := (emptySegment g s).setSeg g { e with loading := true, sealed := false, loadLost := false, crc := 0 }
      untilDurable d 0 (dueSegment g 1 false (placeMarker g 1 true (serveReads s1)))) s
def execSegLoadBegin (d : Desc) (s : State) : Host.Outcome State Fault Refusal := .next (settleWeir (segLoadBegin d s))
def segLoadInfo : CmdInfo := { op := 0x0314, auth := auConfigure, used := [(16, 128)], sel := .segment, buf := some 16 }
/-- `SEG_LOAD` (R96): `buf` is what the buffer holds, `bad` the first poisoned byte of it. The bytes are written through FP1, and the
command completes once they are applied; a write that is not admitted ends it (R164). -/
def segLoad (d : Desc) (given : List Byte) (bad : Option Nat) (s : State) : State :=
  let buf := bufferOf s d 0x0314 given
  let off := d.p 24 4
  let len := d.p 28 4
  command segLoadInfo d (decide (1 ≤ len) && decide (len ≤ 1048576) && decide (off + len ≤ segBytes) && decide (buf.length = len)) (fun ts s =>
    if s.mir.role = .standby then finish d St.mirRole 0 s else
    let g := ts.headD 0
    let e := s.seg g
    if e.cls ≠ .constant then finish d St.segClass 0 s
    else if !e.loading then finish d St.segSealed 0 s
    else
      let n := match bad with | some k => min k len | none => len
      let st := if n < len then St.poisoned else St.ok
      if n = 0 then finish d st 0 s
      else match takeWrite 1 (g * segBytes + off) ((buf.take n).map some) none true s with
        | .accepted s1 => running d (.load s.ret.order s1.ret.order st) n s1
        | .held true => finish d St.weirHeld 0 (refuseMgmt s)
        | .held false => s
        | .dropped s1 => finish d St.segClass 0 s1) s
def execSegLoad (d : Desc) (buf : List Byte) (bad : Option Nat) (s : State) : Host.Outcome State Fault Refusal := .next (segLoad d buf bad s)
def segSealInfo : CmdInfo := { op := 0x0315, auth := auConfigure, used := [(16, 1), (20, 32)], sel := .segment }
/-- CRC-32 of a segment's 2 MiB, NEVER lines counting as zeros (R97). -/
def segCrc (s : State) (g : Nat) : BitVec 32 :=
  ~~~((List.range 8192).foldl (fun c i => ((s.lineValue (segLine g + i)).1).foldl crc32Byte c) 0xFFFFFFFF)
/-- `SEG_SEAL` (R95, R97, R248): a record for each WRITTEN line; once those are durable the marker, and SEALED when that is. Its CRC is
computed over what is there; poison in it is consumed, and the command then ends `ST_POISONED` (R330). -/
def segSeal (d : Desc) (s : State) : State :=
  command segSealInfo d true (fun ts s =>
    if s.mir.role = .standby then finish d St.mirRole 0 s else
    let g := ts.headD 0
    let e := s.seg g
    if e.cls ≠ .constant then finish d St.segClass 0 s
    else if !e.loading then finish d St.segSealed 0 s
    else if loadsOut s g then finish d St.busy 0 s
    else
      let c := segCrc s g
      let s0 := if segPoisoned s g then poisonUsed (firstPoisoned s (g * segBytes) segBytes) 3 d.port.val s else s
      if d.bit 16 0 ∧ d.p 20 4 ≠ c.toNat then finish d St.segCrc c.toNat s0
      else
        let s1 := placeSealRecords g (s0.setSeg g { e with crc := c })
        running d (.sealing g s1.store.placed false) c.toNat s1) s
def execSegSeal (d : Desc) (s : State) : Host.Outcome State Fault Refusal := .next (segSeal d s)
def segShadowSetInfo : CmdInfo := { op := 0x0316, auth := auConfigure, used := [(16, 8)] }
/-- `SEG_SHADOW_SET` (R77). -/
def shadowFits (s : State) (gib : Nat) : Bool :=
  decide (gib * 2 ^ 30 ≥ s.largest) && s.ret.segs.all fun p => p.2.cls = .volatile || decide (p.1 < s.ret.sum.installed - s.segReserve - gib * 512)
def segShadowSet (d : Desc) (s : State) : State :=
  let n := d.p 16 1
  command segShadowSetInfo d (decide (1 ≤ n) && decide (n ≤ 32)) (fun _ s =>
    if s.mir.role = .standby then finish d St.mirRole 0 s else
    if !shadowFits s n then finish d St.segCapacity 0 s
    else storing d 0x0316 [setting 0x0316 0xFF (paramBytes d)] 0 s) s
def execSegShadowSet (d : Desc) (s : State) : Host.Outcome State Fault Refusal := .next (segShadowSet d s)
/-! ## Windows (R99, R107) -/
/-- `SEG_USABLE` of a chip slot of the cluster; none where the slot is no member. -/
def usableOf (s : State) (j : Nat) : Option Nat :=
  if j = s.slot then some s.usable
  else if !s.conf.members.getLsbD j then none
  else match portTo s j with | .conf p => (s.conf.joins[p]).map (·.usable) | .mir _ => none
/-- BASE has 40 bits; ACCESS 3 and CLASSES bits [7:4] are reserved (R15, R99). -/
def winSetInfo : CmdInfo :=
  { op := 0x0140, auth := auConfigure, used := [(16, 8), (24, 40), (32, 36), (37, 8), (38, 16)], enc := fun d => decide (d.p 37 1 ≤ 2) }
def windowOf (d : Desc) : Window := ⟨BitVec.ofNat 40 (d.p 24 8), d.p 32 4, BitVec.ofNat 2 (d.p 37 1), BitVec.ofNat 4 (d.p 36 1), BitVec.ofNat 16 (d.p 38 2)⟩
def winOk (s : State) (d : Desc) : Bool :=
  let b := d.p 24 8
  let n := d.p 32 4
  decide (d.p 16 1 < 64) && decide (b % 4096 = 0) && decide (4096 ≤ n) && decide (n ≤ 2 ^ 30) && decide (n % 4096 = 0)
    && (decide (d.p 37 1 = 0) || match usableOf s (b / 2 ^ 38) with | some u => decide (b % 2 ^ 38 + n ≤ u * segBytes) | none => false)
/-- `WIN_SET`: in force once its completion is written (R100). -/
def winSet (d : Desc) (s : State) : State :=
  command winSetInfo d (winOk s d) (fun _ s =>
    let i : Fin 64 := Fin.ofNat 64 (d.p 16 1)
    let s1 : State := { s with host := { s.host with winDue := s.host.winDue ++ [(d.port, d.tag, i, windowOf d)] } }
    let s2 := finish d St.ok 0 s1
    if portAlive s d.port then s2 else narrowNow (fun q t => q = d.port && t = d.tag) s2) s
def execWinSet (d : Desc) (s : State) : Host.Outcome State Fault Refusal := .next (winSet d s)
def winQueryInfo : CmdInfo := { op := 0x0141, auth := auObserve, used := [(16, 8)] }
def winQuery (d : Desc) (s : State) : State :=
  command winQueryInfo d (decide (d.p 16 1 < 64)) (fun _ s =>
    let w := s.ret.windows[Fin.ofNat 64 (d.p 16 1)]
    finish d St.ok (pack [(0, w.base.toNat), (40, w.access.toNat), (44, w.classes.toNat), (48, w.ctxMask.toNat)]) s) s
def execWinQuery (d : Desc) (s : State) : Host.Outcome State Fault Refusal := .next (winQuery d s)
end Sys2Proof.Machine
end

