-- ==== Sys2Proof/Machine/Weir.lean ====
section
/-! DEFINITION. The weir's own rows (chapter 05): the millpond and what it is computed from, the token buckets, the ledger
record, and the WEIR commands. Admission stands in WeirOps and Stream. -/
namespace Sys2Proof.Machine
/-! ## The millpond (R154–R157) -/
/-- Step 1: the capacitance used, derated by 5 % while it is only a recorded value (R155). -/
def capIn (s : State) : Option Nat :=
  s.pwr.cap.map fun c => min (if s.pwr.measured then c else c * 95 / 100) s.ret.weir.cal.cap
/-- Step 2: the lowest sample of the last 10 ms. -/
def bankVolt (s : State) : Option Nat := match s.pwr.samples with | [] => none | v :: t => some (t.foldl min v)
def psaveIn (s : State) : Nat := max s.ret.weir.cal.psave (s.pwr.psave.getD 0)
/-- A program of the store has been timed since the last device reset (R155). -/
def rateKnown (s : State) : Bool := (List.range 16).any fun c => s.store.ch[Fin.ofNat 16 c].progs ≠ []
def lunsInService (s : State) : Nat := (luns s).length
/-- Step 6: the save-write rate, or its substitute; never above `CAL_RATE`. -/
def rateIn (s : State) : Nat :=
  let c := s.ret.weir.cal.rate
  if rateKnown s then min c (storeRate s) else c * lunsInService s / 128
/-- Step 7 in millionths, rounded down. -/
def kesr (c : Cal) (esr psave : Nat) : Nat :=
  let den := c.eff * (c.vfloor * c.vfloor)
  if den = 0 then 0 else 1000000 - ((esr - c.esr) * psave * 1000000000 + den - 1) / den
def esrIn (s : State) : Nat := s.pwr.esr.getD s.ret.weir.cal.esr
/-- Steps 3 to 8. -/
def allowance (s : State) (cap v : Nat) : Nat :=
  let c := s.ret.weir.cal
  let p := psaveIn s
  allowBytes (writeTimeNs (usableEnergy cap v c.vfloor c.eff) p c.tfix) (rateIn s) (kesr c (esrIn s) p) c.guardPct
/-- The bank cannot save: at or below its floor, or of unknown capacitance (R156). -/
def noBank (s : State) : Bool :=
  (capIn s).isNone || (match bankVolt s with | some v => decide (v ≤ s.ret.weir.cal.vfloor) | none => false)
def allowNow (s : State) : Nat :=
  match capIn s, bankVolt s with
  | some c, some v => if v ≤ s.ret.weir.cal.vfloor then 0 else allowance s c v
  | _, _ => 0
/-- Step 9, zero while no area is ready (R195). -/
def pondNow (s : State) : Nat := if s.store.ready.isNone then 0 else min (allowNow s) s.poolBytes / 256
/-- A larger millpond takes effect after ten larger values in a row (R156). -/
def nextPond (cur v : Nat) (rising : List Nat) : Nat × List Nat :=
  if v ≤ cur then (v, [])
  else if rising.length + 1 < 10 then (cur, v :: rising)
  else (rising.foldl min v, [])
def noteBank (s : State) : State :=
  let n := noBank s
  let s1 := s.onWeir fun w => { w with noBank := n }
  if n ∧ !s.ret.weir.noBank then s1.raise 0x0515 0 [(16, (bankVolt s).getD 0), (18, b2n (capIn s).isNone)] else s1
/-- Shares of the last 1 ms, 200,000 cycles, that the sequencers worked (R393). -/
def takeBusy (s : State) : State := { s with seqr := s.seqr.map fun q => { q with busy := min 1000 (q.worked * 1000 / 200000), worked := 0 } }
/-- `WEIR_RECOMPUTE`, every 1 ms; the rates that are taken over 1 ms are taken with it. -/
def weirRecompute (s : State) : State :=
  let (p, r) := nextPond s.ret.weir.millpond (pondNow s) s.ret.weir.rising
  let a := allowNow s
  let s1 := (takeBusy (takeRates s)).onWeir fun w =>
    { w with millpond := p, rising := r, allow := a, poolLimited := decide (s.poolBytes < a ∧ p = s.poolBytes / 256),
             inCap := (capIn s).getD 0, inEsr := esrIn s, inVbank := (bankVolt s).getD 0, inPsave := psaveIn s, inRate := rateIn s,
             inKesr := kesr w.cal (esrIn s) (psaveIn s) / 1000, cleanRate := sat 16 (w.cleaned / 1000), cleaned := 0 }
  settleWeir (noteBank s1)
def execWeirRecompute (s : State) : Host.Outcome State Fault Refusal := .next (weirRecompute s)
/-! ## Token buckets (R166, R172–R175) -/
/-- `SOFT_BUCKET_REFILL`: 1 MB/s is a byte per microsecond. -/
def softBucketRefill (us : Nat) (s : State) : State :=
  s.onWeir fun w => { w with softTokens := min 65536 (w.softTokens + w.soft * us) }
def execSoftBucketRefill (us : Nat) (s : State) : Host.Outcome State Fault Refusal := .next (softBucketRefill us s)
/-- `CLEAN_BUCKET_REFILL`: debt is repaid before any token is added. -/
def cleanBucketRefill (us : Nat) (s : State) : State :=
  s.onWeir fun w =>
    let n := w.bktRate * us
    let d := w.debt - n
    { w with debt := d, bucket := min (w.bktDepth * 2 ^ 30) (w.bucket + (n - w.debt)),
             debtHigh := w.debtHigh && decide (w.debtLimit * 2 ^ 30 ≤ 2 * d) }
def execCleanBucketRefill (us : Nat) (s : State) : Host.Outcome State Fault Refusal := .next (cleanBucketRefill us s)
/-- The COUNTERS record of the bucket and the debt (R492). -/
def bucketRecord (w : Weir) : Nat × Nat × Nat × List Byte × LdgUse :=
  (8, 0x40, 0, leBytes 4 (w.bucket / 2 ^ 20) ++ leBytes 4 (w.debt / 2 ^ 20), .counters 0x40)
/-- `WEIR_LEDGER_RECORD`. -/
def weirLedgerRecord (s : State) : State :=
  ldgEnqueue [bucketRecord s.ret.weir] (s.onWeir fun w => { w with debtRecorded := w.debt })
def execWeirLedgerRecord (s : State) : Host.Outcome State Fault Refusal := .next (weirLedgerRecord s)
/-! ## Dry holds (R168) -/
def Short.max (x : Short) : Nat := Nat.max x.pond (Nat.max x.cap x.pool)
/-- The context with the most open lines, the lowest of equals. -/
def largestOpen (s : State) : Nat :=
  ((List.range 16).foldl (fun (b : Nat × Nat) c =>
    let n := s.openLines (Fin.ofNat 16 c)
    if n > b.2 then (c, n) else b) (0, 0)).1
/-- `WEIR_DRY_HOLD`: raised once in a hold. -/
def weirDryHold (s : State) : State :=
  match dryPart s, heldShort s with
  | some (_, relief), some x =>
    if s.ret.weir.dryRaised then s
    else (s.onWeir fun w => { w with dryRaised := true }).raise 0x0512 0 [(16, x.max), (20, relief), (24, largestOpen s)]
  | _, _ => s
def execWeirDryHold (s : State) : Host.Outcome State Fault Refusal := .next (weirDryHold s)
/-! ## Commands (R181, R182, R184) -/
def weirQueryInfo : CmdInfo := { op := 0x0510, auth := auObserve }
def weirQuery (d : Desc) (s : State) : State :=
  command weirQueryInfo d true (fun _ s =>
    let w := s.ret.weir
    finish d St.ok (pack [(0, w.millpond / 4096), (32, fillPermille s.count w.millpond), (48, w.level.toNat),
      (56, b2n (isDry s)), (57, b2n w.noBank), (58, b2n w.debtHigh)]) s) s
def execWeirQuery (d : Desc) (s : State) : Host.Outcome State Fault Refusal := .next (weirQuery d s)
def within (lo v hi : Nat) : Bool := decide (lo ≤ v) && decide (v ≤ hi)
def weirConfigInfo : CmdInfo := { op := 0x0511, auth := auConfigure, used := [(16, 40), (22, 40), (28, 32)] }
/-- Tokens above a newly lowered DEPTH are cut off at once (DESIGN CHOICE: the manual does not say, log entry 155). -/
def cutTokens (depthGib bucket : Nat) : Nat := min bucket (depthGib * 2 ^ 30)
/-- The settings that PARAM bytes 16 to 31 give, `f off n` being the number in bytes `off` to `off + n - 1`. -/
def weirSettings (f : Nat → Nat → Nat) (w : Weir) : Weir :=
  { w with res := #v[f 16 1, f 17 1, f 18 1, f 19 1, f 20 1], soft := f 22 2, bktRate := f 24 2, bktDepth := f 26 1,
           debtLimit := f 28 2, mirLagMax := f 30 1, epochWarn := f 31 1, bucket := cutTokens (f 26 1) w.bucket }
def weirConfigOk (d : Desc) : Bool :=
  decide (d.p 16 1 + d.p 17 1 + d.p 18 1 + d.p 19 1 + d.p 20 1 ≤ 60) && within 100 (d.p 22 2) 16000 && within 10 (d.p 24 2) 1000
    && within 1 (d.p 26 1) 255 && within 1 (d.p 28 2) 65535 && within 5 (d.p 30 1) 50 && within 5 (d.p 31 1) 90
def weirConfig (d : Desc) (s : State) : State :=
  command weirConfigInfo d (weirConfigOk d) (fun _ s =>
    storing d 0x0511 [setting 0x0511 0xFF (paramBytes d)] 0 s) s
def execWeirConfig (d : Desc) (s : State) : Host.Outcome State Fault Refusal := .next (weirConfig d s)
def weirCalibrateInfo : CmdInfo := { op := 0x0512, auth := auMaintain, used := [(16, 104)] }
/-- The calibration that bytes 16 to 28 give. -/
def calBytes (f : Nat → Nat → Nat) : Cal := ⟨f 16 2, f 18 2, f 20 2, f 22 1, f 23 1, f 24 2, f 26 2, f 28 1⟩
def calOk (c : Cal) : Bool :=
  within 100 c.cap 1000 && within 1 c.esr 10000 && within 1000 c.vfloor 8000 && within 70 c.eff 98 && within 20 c.tfix 250
    && within 100 c.psave 1000 && within 1000 c.rate 12800 && within 25 c.guardPct 75
def weirCalibrate (d : Desc) (s : State) : State :=
  let c := calBytes d.p
  command weirCalibrateInfo d (calOk c && decide (c.vfloor < s.pwr.hub.target)) (fun _ s =>
    let l := largestAllow c s.pwr.hub.target
    if l > s.poolBytes then finish d St.weirShadow 0 s
    else storing d 0x0512 (triple 5 0x03 0 ((paramBytes d).take 13 ++ [0, 0, 0]) .cal) (l / 2 ^ 20) s) s
def execWeirCalibrate (d : Desc) (s : State) : Host.Outcome State Fault Refusal := .next (weirCalibrate d s)
def weirDebtClearInfo : CmdInfo := { op := 0x0513, auth := auMaintain }
def weirDebtClear (d : Desc) (s : State) : State :=
  command weirDebtClearInfo d true (fun _ s =>
    storing d 0x0513 [bucketRecord { s.ret.weir with debt := 0 }] (s.ret.weir.debt / 2 ^ 20) s) s
def execWeirDebtClear (d : Desc) (s : State) : Host.Outcome State Fault Refusal := .next (weirDebtClear d s)
end Sys2Proof.Machine
end

