-- ==== Sys2Proof/Machine/Mirror.lean ====
section
/-! DEFINITION. The mirror (chapter 13): roles, packets on the PRIMARY, applying them on the STANDBY, losses and
switchover. -/
namespace Sys2Proof.Machine
def Role.code : Role → Nat
  | .solo => 0 | .primary => 1 | .standby => 2
/-! ## Roles (R399, R400, R434) -/
/-- Some context is RUNNING, CLOSING or PAUSED. -/
def controlling (s : State) : Bool :=
  (List.range 16).any fun i => let m := (s.ctxAt (fin16 i)).mode; m = .running || m = .closing || m = .paused
def helloOf (s : State) : Hello :=
  { uid := s.glb.uid, role := Role.code s.mir.role, controlling := controlling s, pair := s.mir.pair, synced := s.mir.synced,
    chipid := s.slot, chips := s.conf.chips, usable := s.usable, pslc := s.ret.sum.pslcHave, fil := s.glb.fil.truncate 16,
    priority := s.mir.priority, pseq := s.mir.pseq, millpond := s.ret.weir.millpond }
/-- `HELLO_SEND` (R398). -/
def helloSend (s : State) : State := sendMir (.hello (helloOf s)) s
def execHelloSend (s : State) : Host.Outcome State Fault Refusal := .next (helloSend s)
/-- Row 1 of R400: the refusal reason. -/
def refusal (s : State) (m : Hello) : Option Nat :=
  if !s.mir.pair || !m.pair then some 5
  else if m.usable ≠ s.usable then some 1
  else if m.pslc ≠ s.ret.sum.pslcHave then some 2
  else if m.chipid ≠ s.slot ∨ m.chips ≠ s.conf.chips then some 3
  else if bits m.fil 8 8 ≠ bits s.glb.fil 8 8 then some 4 else none
def allPeers (m : LinkMsg) (s : State) : State := sendTo (peers s) m s
/-- Change the role, with its event. -/
def toRole (r : Role) (cause : Nat) (s : State) : State :=
  let old := s.mir.role
  if old = r then s
  else (onMir s fun m => { m with role := r }).raise 0x0D10 0 [(16, Role.code old), (17, Role.code r), (18, cause)]
/-- What a role leaves behind. -/
def clearStream (m : Mir) : Mir :=
  { m with due := [], unacked := [], rx := [], slices := [], sliceTotal := 0, latest := [], skip := [], restarted := [],
           handing := false, synced := false, ctxSynced := 0, globalSynced := false, applyTo := [], haves := [] }
/-- Take a role that a HELLO or a ROLE frame settles: a STANDBY starts unsynced, at the PRIMARY's PSEQ (R409). -/
def takeRole (r : Role) (cause : Nat) (pseq : Nat) (s : State) : State :=
  if s.mir.role = r then s else
  let s1 := toRole r cause (onMir s clearStream)
  match r with
  | .standby => abortPasses (onMir s1 fun m => { m with pseq := pseq, wasStandby := false })
  | .primary => onMir s1 fun m => { m with wasStandby := false }
  | .solo => s1
/-- Reset the role to SOLO and tell the board. -/
def goSolo (cause : Nat) (s : State) : State := allPeers (.role 0 cause) (takeRole .solo cause 0 s)
def refused (r : Nat) (m : Hello) (s : State) : State :=
  let s1 := allPeers (.role 0 1) s
  if s.mir.refuse = r then s1
  else (onMir s1 fun k => { k with refuse := r }).raise 0x0D11 0 [(16, 3), (17, r), (20, m.uid.toNat)]
/-- Rows 2 to 4 of R400: this chip's role, none where it stays SOLO for a conflict. -/
def settles (s : State) (m : Hello) : Option Role :=
  let me := controlling s
  if me && m.controlling then none
  else if me then some .primary
  else if m.controlling then some .standby
  else if s.mir.priority ≠ m.priority then some (if s.mir.priority > m.priority then .primary else .standby)
  else some (if s.glb.uid.toNat < m.uid.toNat then .primary else .standby)
/-- A SOLO chip settles its role. On a board only slot 0 does; the others wait for its ROLE frame (R434). -/
def settleRole (m : Hello) (s : State) : State :=
  match refusal s m with
  | some r => refused r m s
  | none =>
    if s.mir.boardRole = some .solo then s
    else if s.conf.chips ≠ 1 ∧ s.slot ≠ 0 then
      (match s.mir.boardRole with | some r => takeRole r 1 m.pseq s | none => s)
    else match settles s m with
      | none =>
        if s.mir.conflict then s
        else (onMir s fun k => { k with conflict := true }).raise 0x0D15 0 [(16, m.uid.toNat)]
      | some r => allPeers (.role (Role.code r) 1) (takeRole r 1 m.pseq (onMir s fun k => { k with conflict := false, refuse := 0 }))
/-- A resynchronisation is under way: packets of it are still to be sent or acknowledged. -/
def resyncing (s : State) : Bool :=
  s.mir.slices ≠ [] || (packets s).any fun p => p.kind = 2 || p.kind = 6
/-- `HELLO` (R400, R409, R412). -/
def hearHello (m : Hello) (s : State) : State :=
  let isNew := s.mir.partner.isNone
  let s1 := onMir s fun k => { k with partner := some m, heardAt := s.now }
  let s2 := if isNew ∧ (refusal s m).isNone then s1.raise 0x0D11 0 [(16, 1), (17, 0), (20, m.uid.toNat)] else s1
  if s2.mir.switching then
    (if m.role = 1 then
      wake (fun w => match w with | .mirSwitch => .done St.ok none | _ => .go) (onMir s2 fun k => { k with switching := false })
     else s2)
  else match s2.mir.role with
    | .solo => settleRole m s2
    | .primary =>
      if m.role = 1 then settleRole m (goSolo 1 s2)
      else if m.role = 2 ∧ !m.synced ∧ !s2.mir.synced ∧ !resyncing s2 then resync s2 else s2
    | .standby => if m.role = 2 then settleRole m (goSolo 1 s2) else s2
/-! ## Packets on the PRIMARY (R401–R404) -/
/-- The committed value of an EPOCH line, wherever it lies; the current value of another line (R402). -/
def mirrorValue (s : State) (l : Nat) : List Byte × BitVec 4 :=
  if dchDead s (channelOf s l) then (rawBytes s, 15) else
  match (s.lineSeg l).cls, (s.eff l).1 with
  | _, .unrestored => nandValue s l
  | .epoch, _ => committedNow s l
  | _, _ => s.lineValue l
def mirrorEntry (s : State) (l : Nat) : LineEntry :=
  let (v, p) := mirrorValue s l
  ⟨BitVec.ofNat 32 (l + s.slot * 2 ^ 30), p, v⟩
def liveLines (s : State) (g : Nat) : List Nat :=
  (s.ret.lines.filter fun p => segOf p.1 = g ∧ (s.eff p.1).1 ≠ .never).map (·.1)
/-- Line `i` of the segment table: 64 words of R88, zero for a segment that does not exist. -/
def tableLine (s : State) (i : Nat) : LineEntry :=
  ⟨BitVec.ofNat 32 i, 0, (List.range 64).flatMap fun j =>
    let g := 64 * i + j
    leBytes 4 (if s.segExists g then (s.seg g).word.toNat else 0)⟩
/-- The segments whose lines a packet carries, built so that they can be read. -/
def packetSegs (p : PktDue) : List Nat := if p.kind = 2 ∨ p.kind = 5 then p.lines else []
/-- A segment is still one of those that a slice is for. -/
def inSlice (s : State) (p : PktDue) (g : Nat) : Bool :=
  let e := s.seg g
  if p.ctx < 16 then e.cls = .epoch && decide (e.owner.val = p.ctx) else e.cls = .latest
def packetEntries (p : PktDue) (s : State) : List LineEntry :=
  if p.kind = 6 then (List.range 2048).map (tableLine s)
  else if p.kind = 2 then ((p.lines.filter (inSlice s p)).flatMap (liveLines s)).map (mirrorEntry s)
  else if p.kind = 5 then (p.lines.flatMap (liveLines s)).map (mirrorEntry s)
  else p.lines.map (mirrorEntry s)
def fours : Nat → List LineEntry → List (List LineEntry)
  | 0, _ => []
  | n + 1, l => if l = [] then [] else l.take 4 :: fours n (l.drop 4)
/-- A packet can be read: every accepted write of an epoch it covers is applied, so that its lines hold what was committed (R402). -/
def packetReady (s : State) (p : PktDue) : Bool :=
  !(p.kind == 1 || p.kind == 2) || !(s.ret.writes.any fun w => match w.epoch with
    | some (c, e) => decide (c.val = p.ctx) && decide (e < (s.ctxAt c).epoch)
    | none => false)
/-- What a restarted packet is read as: at the newest committed values, and so as covering every epoch closed since, with the lines of the
context's later packets and the record as it stands (R402, R410; DEDUCED, log entry 78). -/
def rereadDue (t : PktTx) (s : State) : PktDue :=
  let p := t.due
  let later := (s.mir.unacked.filter (t.pseq < ·.pseq)).map (·.due) ++ s.mir.due
  let before := s.mir.unacked.any fun u => decide (u.pseq < t.pseq) && u.again && u.due.kind == 1 && u.due.ctx == p.ctx
  if h : p.ctx < 16 then
    let c : Fin 16 := ⟨p.ctx, h⟩
    let ls := (later.filter fun q => q.kind = 1 ∧ q.ctx = p.ctx).flatMap (·.lines)
    if p.kind = 1 then p.extend (s.ctxAt c).commit ls (recordOf s c)
    else if p.kind = 2 ∨ before then { p with body := recordOf s c } else p
  else p
/-- Read a packet's values (R402). -/
def readPacket (t : PktTx) (s0 : State) : State :=
  let p := if t.again then rereadDue t s0 else t.due
  let s := (packetSegs p).foldl (fun s g => buildSegment g s) s0
  let es := packetEntries p s
  onPkt t.pseq (fun t => { t with due := p, read := true, frames := fours es.length es, next := 0, ended := false }) { s with free := s.free + 1 }
/-- Read the packets that are begun and can be read, oldest first, and send what there is room for. -/
def readBegun : Nat → State → State
  | 0, s => s
  | n + 1, s =>
    match s.mir.unacked.find? (!·.read) with
    | some t => if packetReady s t.due then readBegun n (pumpMir 256 (readPacket t s)) else s
    | none => s
/-- The next packet: the table of a resynchronisation, then changes in order, then slices. -/
def nextPacket (s : State) : Option (Option PktDue × Mir) :=
  let m := s.mir
  match m.slices, m.due with
  | [], [] => none
  | p :: t, [] => some (freshSlice s p, { m with slices := t })
  | [], d :: ds => some (some d, { m with due := ds })
  | p :: t, d :: ds => if p.kind = 6 then some (some p, { m with slices := t }) else some (some d, { m with due := ds })
/-- The next packet begins: it takes its PSEQ, and its values are read and its frames sent as soon as they can be. -/
def beginNext (s : State) : State :=
  let s0 := readBegun s.mir.unacked.length s
  if s0.mir.unacked.any (!·.read) then s0 else
  match nextPacket s0 with
  | none => s0
  | some (none, m) => onMir s0 fun _ => m
  | some (some p, m) =>
    readBegun 1 (onMir s0 fun _ =>
      { m with pseq := m.pseq + 1, unacked := m.unacked ++ [⟨m.pseq + 1, p, false, [], false, 0, false⟩] })
/-- `LATEST_PACKET_DUE`. -/
def latestPacketDue (s : State) : State :=
  if s.mir.latest = [] then s
  else onMir (duePacket ⟨3, 0xFF, 0, 0, s.mir.latest, false, .none⟩ s) fun m => { m with latest := [] }
def execLatestPacketDue (s : State) : Host.Outcome State Fault Refusal := .next (latestPacketDue s)
/-- A planned switch whose last packets are all sent: HANDOVER goes, and the chip becomes STANDBY. A member of a board that was not synced
stays so (R26, R412, R435). -/
def finishHandOver (s : State) : State :=
  if !s.mir.handing ∨ s.mir.role ≠ .primary ∨ s.mir.due ≠ [] ∨ s.mir.slices ≠ [] ∨ s.mir.unacked.any (!·.ended) then s
  else if s.mir.latest ≠ [] then latestPacketDue s
  else
    let s1 := toRole .standby 3 (onMir (sendMir (.handover s.mir.pseq) s) clearStream)
    abortPasses (onMir s1 fun m =>
      { m with synced := s.mir.synced, ctxSynced := s.mir.ctxSynced, globalSynced := s.mir.globalSynced, switching := true, wasStandby := false })
/-- A HELLO frame. -/
def helloFrame (p : Fin 2) (h : LinkHdr) (m : Hello) (s : State) : State :=
  onFrame (.mir p) h (.hello m) auObserve (fun s => finishHandOver (hearHello m s)) s
def execHelloFrame (p : Fin 2) (h : LinkHdr) (m : Hello) (s : State) : Host.Outcome State Fault Refusal := .next (helloFrame p h m s)
/-- `PACKET_BEGIN`. -/
def packetBegin (s : State) : State := if s.mir.role ≠ .primary ∨ !anyMirUp s then s else finishHandOver (beginNext s)
def execPacketBegin (s : State) : Host.Outcome State Fault Refusal := .next (packetBegin s)
/-- The resynchronisation a packet completed has reached its partner (R409). -/
def noteSynced (ctx : Nat) (s : State) : State :=
  let s1 := onMir s fun m =>
    if ctx < 16 then { m with ctxSynced := m.ctxSynced ||| BitVec.ofNat 16 (2 ^ ctx) } else { m with globalSynced := true }
  let s2 := if ctx < 16 then s1.raise 0x0D13 0 [(16, ctx)] else s1
  if s2.mir.ctxSynced = 0xFFFF ∧ s2.mir.globalSynced ∧ !s2.mir.synced then
    (onMir s2 fun m => { m with synced := true }).raise 0x0D13 0 [(16, 0xFF)]
  else s2
/-- `ACK`: every packet up to APPLIED is acknowledged, and its lines are unpinned (R176, R405). -/
def takeAckFrame (applied : Nat) (s : State) : State :=
  if s.mir.role ≠ .primary then s else
  let gone := s.mir.unacked.filter fun t => t.pseq ≤ applied
  let s1 := onMir s fun m => { m with unacked := m.unacked.filter fun t => applied < t.pseq }
  gone.foldl (fun s t => if t.due.sliceLast then noteSynced t.due.ctx s else s) s1
def ackFrame (p : Fin 2) (h : LinkHdr) (applied : Nat) (synced : Bool) (s : State) : State :=
  onFrame (.mir p) h (.ack applied synced) auMirror (fun s => settleWeir (finishHandOver (takeAckFrame applied s))) s
def execAckFrame (p : Fin 2) (h : LinkHdr) (applied : Nat) (synced : Bool) (s : State) : Host.Outcome State Fault Refusal :=
  .next (ackFrame p h applied synced s)
/-! ## Packets on the STANDBY (R406–R408) -/
/-- Put a packet in PSEQ order. -/
def insertRx (p : PktRx) : List PktRx → List PktRx
  | [] => [p]
  | q :: t => if p.pseq < q.pseq then p :: q :: t else q :: insertRx p t
def rxOf (pseq : Nat) (s : State) : PktRx := (s.mir.rx.find? (·.pseq = pseq)).getD ⟨pseq, [], [], [], none⟩
def setRx (p : PktRx) (s : State) : State := onMir s fun m => { m with rx := insertRx p (m.rx.filter (·.pseq ≠ p.pseq)) }
/-- A frame of a packet that is still to be applied. -/
def wanted (pseq : Nat) (s : State) : Bool := s.mir.role = .standby && decide (s.mir.pseq < pseq) && !s.mir.skip.contains pseq
/-- Admit the entries of the ports named that the weir lets in now, in order, each written into a line of the shadow pool through its port
(R161, R163, R178, R406). -/
def admitRxOf (ports : List (Fin 23)) (s : State) : State :=
  s.mir.rx.foldl (fun (s : State) (p : PktRx) =>
    p.waiting.foldl (fun s e =>
      if ports.contains e.1 && admits s e.1 1 then
        (let q := rxOf p.pseq s
         let (i, s1) := s.poolFree
         requestWrite e.1 (s.poolLine i) e.2.poison
           (setRx { q with waiting := q.waiting.erase e, places := q.places ++ [(e.2.line.toNat % 2 ^ 30, i)] } s1))
      else s) s) s
def admitRx (s : State) : State := admitRxOf [14, 15] s
def rxComplete (p : PktRx) : Bool :=
  match p.fin with
  | some e => decide (p.frames.length = e.frames) && p.waiting.isEmpty
  | none => false
/-- The epoch that an APPLY frame has released for a spanning context (R435). -/
def appliedTo (s : State) (c : Nat) : Nat := ((s.mir.applyTo.find? (·.1 = c)).map (·.2)).getD 0
/-- The home sends APPLY with the newest epoch that every owner has complete. -/
def sendApply (c : Fin 16) (s : State) : State :=
  let have_ (j : Nat) : Nat := ((s.mir.haves.filter fun x => x.1 = j ∧ x.2.1 = c.val).map (·.2.2)).foldl max 0
  let e := (otherOwners s c).foldl (fun a j => min a (have_ j)) (have_ s.slot)
  if e ≤ appliedTo s c then s
  else sendTo (otherOwners s c) (.apply c e)
    (onMir s fun m => { m with applyTo := (c.val, e) :: m.applyTo.filter (fun (x : Nat × Nat) => x.1 ≠ c.val) })
def noteHave (j : Nat) (c : Fin 16) (e : Nat) (s : State) : State :=
  let s1 := onMir s fun m => { m with haves := (j, c.val, e) :: m.haves.filter (fun (x : Nat × Nat × Nat) => !(x.1 == j && x.2.1 == c.val)) }
  if actsHome s c then sendApply c s1 else s1
/-- A complete packet of a spanning context is reported to its home (R435). -/
def reportHave (pseq : Nat) (s : State) : State :=
  let p := rxOf pseq s
  match p.fin with
  | some ⟨_, _, 1, _, _, _, .ctx c r⟩ =>
    let i := fin16 c
    if rxComplete p ∧ spanning s i then
      (if actsHome s i then noteHave s.slot i r.commit s else sendTo [homeSlot s i] (.have_ c r.commit) s)
    else s
  | _ => s
/-- `LINES`. -/
def takeLines (fp : Fin 23) (pseq fidx : Nat) (es : List LineEntry) (s : State) : State :=
  let p := rxOf pseq s
  if !wanted pseq s ∨ p.frames.any (·.1 = fidx) then s
  else reportHave pseq (admitRx (setRx { p with frames := p.frames ++ [(fidx, es)], waiting := p.waiting ++ es.map ((fp, ·)) } s))
def linesFrame (p : Fin 2) (h : LinkHdr) (pseq fidx : Nat) (es : List LineEntry) (s : State) : State :=
  onFrame (.mir p) h (.lines pseq fidx es) auMirror (fun s => settleWeir (takeLines (fabricOf (.mir p)) pseq fidx es s)) s
def execLinesFrame (p : Fin 2) (h : LinkHdr) (pseq fidx : Nat) (es : List LineEntry) (s : State) : Host.Outcome State Fault Refusal :=
  .next (linesFrame p h pseq fidx es s)
/-- `EPOCH_END`. -/
def takeEpochEnd (e : EpochEnd) (s : State) : State :=
  let p := rxOf e.pseq s
  if !wanted e.pseq s ∨ p.fin.isSome then s else reportHave e.pseq (setRx { p with fin := some e } s)
def epochEndFrame (p : Fin 2) (h : LinkHdr) (e : EpochEnd) (s : State) : State :=
  onFrame (.mir p) h (.epochEnd e) auMirror (takeEpochEnd e) s
def execEpochEnd (p : Fin 2) (h : LinkHdr) (e : EpochEnd) (s : State) : Host.Outcome State Fault Refusal := .next (epochEndFrame p h e s)
/-- `RESTART`: the frames held for the packet go, with their charges; a withdrawn packet is never completed (R405). The second copy, on the
other port, is ignored (R398). -/
def takeRestart (p : Fin 2) (pseq : Nat) (reread : Bool) (s : State) : State :=
  if !wanted pseq s then s
  else if s.mir.restarted.contains (pseq, 1 - p.val) then onMir s fun m => { m with restarted := m.restarted.filter (· ≠ (pseq, 1 - p.val)) }
  else onMir s fun m =>
    let m1 := { m with rx := m.rx.filter (·.pseq ≠ pseq), restarted := (pseq, p.val) :: m.restarted.filter (· ≠ (pseq, p.val)) }
    if reread then m1 else { m1 with skip := pseq :: m1.skip, synced := false, ctxSynced := 0, globalSynced := false }
def restartFrame (p : Fin 2) (h : LinkHdr) (pseq : Nat) (reread : Bool) (s : State) : State :=
  onFrame (.mir p) h (.restart pseq reread) auMirror (fun s => settleWeir (takeRestart p pseq reread s)) s
def execRestartFrame (p : Fin 2) (h : LinkHdr) (pseq : Nat) (reread : Bool) (s : State) : Host.Outcome State Fault Refusal :=
  .next (restartFrame p h pseq reread s)
/-! ## Applying a packet (R407) -/
/-- Leave a line with a carried value, in the state its class gives it. -/
def storeEntry (e : LineEntry) (s0 : State) : State :=
  let l := e.line.toNat % 2 ^ 30
  if !s0.segExists (segOf l) then s0 else
  let s := buildSegment (segOf l) s0
  let g := s.lineSeg l
  let x := s.lineAt l
  let put (st : LState) : State :=
    let ch := if counts g.cls st then (if s.countsLine l then x.charge else some .mirror) else none
    let s1 := onRet s fun r => { r with serial := r.serial + 1 }
    let s2 := s1.setLine l
      { x with state := st, stamp := 0, flip := false, baseZero := false, valid := 15, poison := e.poison, shPoison := 0, charge := ch,
               serial := s.ret.serial + 1, closeNo := (s.ctxAt g.owner).closes, writtenAt := s.now }
    onSlu ((s2.setHome l e.value).freeShadow l) fun k => { k with covered := k.covered.filter (· ≠ l) }
  match g.cls with
  | .epoch => put .committed
  | .latest => put .dirty
  | .constant => put .written
  | .volatile => s
/-- A context takes the record of BODY. Its lines are never OPEN here, so nothing is left to age. -/
def takeRecord (c : Fin 16) (r : CtxRec) (s : State) : State :=
  toMode c r.mode (s.onCtx c fun x =>
    { x with policy := r.policy, rank := r.rank, epoch := r.opened, commit := r.commit, minPeriod := r.minPeriod, wdog := r.wdog,
             bankSeg := r.bankSeg, bankCount := r.bankCount, discard := 0, aging := [], deferred := none })
/-- Output blocks whose header a KIND 1 packet carries are captured (R363, R407). -/
def captureEntries (c : Fin 16) (epoch : Nat) (es : List LineEntry) (s : State) : State :=
  (List.range 12).foldl (fun s n =>
    let i : Fin 12 := Fin.ofNat 12 n
    es.foldl (fun s e =>
      match publishes s n (e.line.toNat % 2 ^ 30) (e.value.map some) with
      | some a =>
        if (s.lifeOf .trib n = .running ∨ s.lifeOf .trib n = .draining) ∧ ((s.trib[i].mods[Fin.ofNat 255 a]).ident).isSome then
          onTrib s i fun t => { t with captures := t.captures.filter (fun k => k.addr ≠ a) ++ [⟨a, c, epoch⟩] }
        else s
      | none => s) s) s
/-- Seal a segment on the STANDBY: a record for each line, then the marker; the ACK waits for it (R97, R248). -/
def sealHere (pseq g : Nat) (e : Seg) (s : State) : State :=
  let s1 := placeSealRecords g (s.setSeg g { e with sealed := false, loading := true, crc := segCrc s g })
  onMir s1 fun m => { m with sealAck := m.sealAck ++ [(pseq, g, s1.store.placed, false)] }
/-- A KIND 5 packet: a seal, a change of flags, or a change of class. BODY does not name the command: an entry that differs from the old ones
in flags only comes from `SEG_SET_FLAGS`, any other empties the run (log entry 52). -/
def applySegments (pseq first count : Nat) (e : Seg) (es : List LineEntry) (s : State) : State :=
  let old := s.seg first
  if e.sealed ∧ (!old.sealed ∨ es ≠ []) then
    sealHere pseq first e (es.foldl (fun s x => storeEntry x s) (s.setSeg first { e with sealed := false, loading := true }))
  else if (runOf first count).all (fun g => sameButFlags (s.seg g) e) && !(runOf first count).all (fun g => sameEntry (s.seg g) e) then
    placeRuns first count ((runOf first count).foldl (fun s g =>
      s.setSeg g { s.seg g with retentive := e.retentive, prio := e.prio }) s)
  else
    let s1 := (runOf first count).foldl (fun s g => (emptySegment g s).setSeg g e) s
    serveReads (checkCapacity (placeMarker first count true s1))
/-- The table's entries, in segment order. -/
def tableEntries (es : List LineEntry) (n : Nat) : List Seg :=
  let bs := (sortBy (fun a b => decide (a.line.toNat ≤ b.line.toNat)) es).flatMap (·.value)
  (List.range n).map fun g => Seg.ofWord (BitVec.ofNat 32 (field bs (4 * g) 4)) 0
/-- A KIND 6 packet replaces the table and empties every segment; the partner is unsynced from here. -/
def applyTable (es : List LineEntry) (s : State) : State :=
  let t := segRuns 0 (tableEntries es s.usable)
  let s1 := t.foldl (fun s r =>
    placeMarker r.1 r.2.1 true ((runOf r.1 r.2.1).foldl (fun s g =>
      (emptySegment g s).setSeg g { r.2.2 with crc := if r.2.2.sealed then segCrc (emptySegment g s) g else 0 }) s)) s
  serveReads (checkCapacity (onMir s1 fun m => { m with synced := false, ctxSynced := 0, globalSynced := false }))
/-- The apply instant of a packet. -/
def applyPacket (p : PktRx) (e : EpochEnd) (s : State) : State :=
  let es := (sortBy (fun a b => decide (a.1 ≤ b.1)) p.frames).flatMap (·.2)
  let s1 := onMir s fun m => { m with rx := m.rx.filter (·.pseq ≠ p.pseq), pseq := p.pseq, skip := m.skip.filter (p.pseq < ·) }
  let store (s : State) : State := es.foldl (fun s x => storeEntry x s) s
  let s2 := match e.kind, e.body with
    | 1, .ctx c r => captureEntries (fin16 c) r.commit es (takeRecord (fin16 c) r (store s1))
    | 2, .ctx c r | 4, .ctx c r => takeRecord (fin16 c) r (store s1)
    | 5, .seg first count x => applySegments p.pseq first count x es s1
    | 6, _ => applyTable es s1
    | _, _ => store s1
  if e.sliceLast then noteSynced e.ctx s2 else s2
/-- PSEQ of the packet that is next in order, withdrawn ones passed over. -/
def nextPseq : Nat → List Nat → Nat → Nat
  | 0, _, p => p
  | n + 1, skip, p => if skip.contains p then nextPseq n skip (p + 1) else p
/-- The packet that may be applied now. -/
def applicable (s : State) : Option (PktRx × EpochEnd) :=
  let n := nextPseq s.mir.skip.length s.mir.skip (s.mir.pseq + 1)
  match s.mir.rx.find? (·.pseq = n) with
  | none => none
  | some p =>
    match p.fin with
    | none => none
    | some e =>
      if !rxComplete p then none
      else match e.kind, e.body with
        | 1, .ctx c r => if spanning s (fin16 c) ∧ appliedTo s c < r.commit then none else some (p, e)
        | _, _ => some (p, e)
/-- `PACKET_APPLY`, with the ACK that follows it. -/
def packetApply (s : State) : State :=
  if s.mir.role ≠ .standby then s else
  match applicable s with
  | none => s
  | some (p, e) => let s1 := applyPacket p e s; sendMir (.ack (ackable s1) s1.mir.synced) s1
def execPacketApply (s : State) : Host.Outcome State Fault Refusal := .next (settleWeir (admitRx (packetApply s)))
/-! ## Switchover (R411, R412) -/
def applyAll : Nat → State → State
  | 0, s => s
  | n + 1, s => match applicable s with | some (p, e) => applyAll n (applyPacket p e s) | none => s
/-- The COUNTERS record of saves and switchovers (R492). -/
def switchRecord (s : State) : Nat × Nat × Nat × List Byte × LdgUse := 
  (8, 0x42, 0, leBytes 4 s.slu.saves ++ leBytes 4 s.mir.switches, .counters 0x42)
/-- A RUNNING context is abandoned with cause SWITCHOVER, or waits for aging to be (R119, R411). A synced context is RELEASED, in whatever
state; one that is not synced is ABANDONED and not RELEASED, so that only `CTX_STOP` makes it usable again. -/
def switchContext (c : Fin 16) (s : State) : State :=
  let x := s.ctxAt c
  let synced := s.mir.ctxSynced.getLsbD c.val
  let s1 :=
    if x.settled ≠ .running then (if synced then s else toMode c .abandoned s)
    else if x.epoch < terminalEpoch ∧ agingBlocks s c (x.epoch + 1) then s.onCtx c fun x => { x with deferred := some (.abandon 5 none), deferAt := s.now }
    else abandonNow c 5 .abandoned s
  let s2 := s1.onCtx c fun x => { x with released := synced }
  resyncAll c (onScanCtx s2 c fun k => { k with rebase := true })
def unreleased (s : State) : Nat :=
  maskOf ((List.range 16).filter fun i => !(s.ctxAt (fin16 i)).released)
/-- A STANDBY becomes PRIMARY. `tell` says whether the other chips of the board are to be told (R435). -/
def switchover (trigger : Nat) (tell : Bool) (s : State) : State :=
  let s0 := if tell then allPeers (.switch trigger) s else s
  let s1 := applyAll s0.mir.rx.length s0
  let s2 := onMir s1 fun m => { m with rx := [], skip := [], switches := m.switches + 1, wasStandby := false }
  let s3 := toRole .primary (if trigger = 3 then 3 else 2) s2
  let s4 := (List.range 16).foldl (fun s i => switchContext (fin16 i) s) s3
  let s5 := if trigger = 3 then s4 else onMir s4 fun m => { m with synced := false, ctxSynced := 0, globalSynced := false }
  ldgEnqueue [switchRecord s5] (s5.raise 0x0D14 0 [(16, trigger), (20, s5.mir.pseq), (28, unreleased s5)])
def onStandby (f : State → State) (s : State) : State := if s.mir.role = .standby then settleWeir (f s) else s
/-- `HANDOVER`. -/
def handover (p : Fin 2) (h : LinkHdr) (last : Nat) (s : State) : State :=
  onFrame (.mir p) h (.handover last) auMirror (onStandby (switchover 3 true)) s
def execHandover (p : Fin 2) (h : LinkHdr) (last : Nat) (s : State) : Host.Outcome State Fault Refusal := .next (handover p h last s)
/-- `DYING`. -/
def dying (p : Fin 2) (h : LinkHdr) (last cause : Nat) (s : State) : State :=
  onFrame (.mir p) h (.dying last cause) auMirror (onStandby (switchover 1 true)) s
def execDying (p : Fin 2) (h : LinkHdr) (last cause : Nat) (s : State) : Host.Outcome State Fault Refusal := .next (dying p h last cause s)
/-- The partner is gone: its event, and no partner from here on. -/
def partnerLost (s : State) : State :=
  match s.mir.partner with
  | none => s
  | some m => (onMir s fun k => { k with partner := none, conflict := false, boardRole := none }).raise 0x0D11 0
      [(16, 2), (17, 0), (20, m.uid.toNat)]
/-- A chip that was STANDBY and is SOLO now keeps what a forced switchover takes up: its packets and what was synced (R411, R414). -/
def wasStandby (s t : State) : State :=
  onMir t fun m => { m with wasStandby := true, rx := s.mir.rx, skip := s.mir.skip, ctxSynced := s.mir.ctxSynced,
                            globalSynced := s.mir.globalSynced }
/-- `MIR_DEAD_TIMEOUT` (R410). -/
def mirDeadTimeout (s : State) : State :=
  if s.glb.state = 3 then s else
  let s1 := partnerLost s
  match s.mir.role with
  | .solo => s1
  | .primary => goSolo 4 s1
  | .standby =>
    if s.mir.autoSilent then switchover 2 true s1
    else wasStandby s (goSolo 4 s1)
def execMirDeadTimeout (s : State) : Host.Outcome State Fault Refusal := .next (settleWeir (mirDeadTimeout s))
/-- Begin every packet that is due. -/
def flushDue : Nat → State → State
  | 0, s => s
  | n + 1, s => if s.mir.due = [] then s else flushDue n (beginNext s)
/-- Instant H of a planned switchover (R412): the open epochs of RUNNING contexts are abandoned, and what the STANDBY still lacks is sent,
the LATEST lines written since the last KIND 3 packet with it. HANDOVER goes once all of it is sent. -/
def handOver (s : State) : State :=
  let s1 := (List.range 16).foldl (fun s i =>
    if (s.ctxAt (fin16 i)).settled = .running then abandonNow (fin16 i) 5 .abandoned s else s) s
  let s2 := latestPacketDue (onMir s1 fun m => { m with handing := true, switching := true, switchAsked := none, wasStandby := false })
  finishHandOver (flushDue s2.mir.due.length s2)
/-- An open epoch that is to be abandoned has to wait for aging (R119). -/
def switchWaits (s : State) : Bool :=
  (List.range 16).any fun i => let x := s.ctxAt (fin16 i); x.settled = .running && agingBlocks s (fin16 i) (x.epoch + 1)
/-- Hand over, or wait for the aging that stands in the way; `byFrame` where a SWITCH frame asked for it (R119, R412, R435). -/
def askHandOver (byFrame : Bool) (s : State) : State :=
  if switchWaits s then onMir s fun m => { m with switchAsked := some byFrame } else handOver s
/-- `AGING_DONE`; a switch that a SWITCH frame asked for goes on once no aging holds it. -/
def execAgingDone (c : Fin 16) (s : State) : Host.Outcome State Fault Refusal :=
  let s1 := agingDone c s
  .next (if s1.mir.switchAsked = some true ∧ s1.mir.role = .primary ∧ !switchWaits s1 then settleWeir (handOver s1) else s1)
/-! ## Commands (R414) -/
def mirConfigInfo : CmdInfo := { op := 0x0D10, auth := auConfigure, used := [(16, 8), (17, 2), (18, 8), (20, 16)] }
def mirConfigOk (d : Desc) : Bool := decide (2 ≤ d.p 18 1) && within 100 (d.p 20 2) 12000
/-- The settings that PARAM bytes give. -/
def mirSettings (f : Nat → Nat → Nat) (m : Mir) : Mir :=
  { m with priority := f 16 1, pair := bitN (f 17 1) 0, autoSilent := bitN (f 17 1) 1, deadMs := f 18 1, resyncRate := f 20 2 }
def portIdle (l : Life) : Bool := l = .off || l = .stopped
def mirConfig (d : Desc) (s : State) : State :=
  command mirConfigInfo d (mirConfigOk d) (fun _ s =>
    if !portIdle (s.lifeOf .mir 0) || !portIdle (s.lifeOf .mir 1) then finish d St.unitState 0 s
    else storing d 0x0D10 [setting 0x0D10 0xFF (paramBytes d)] 0 s) s
def execMirConfig (d : Desc) (s : State) : Host.Outcome State Fault Refusal := .next (mirConfig d s)
def mirStat (s : State) : Word :=
  packW [(0, Role.code s.mir.role), (2, b2n s.mir.synced), (3, b2n s.mir.partner.isSome), (4, b2n s.mir.conflict), (8, s.mir.refuse),
    (12, b2n ((linkOf s (.mir 0)).link = .up)), (13, b2n ((linkOf s (.mir 1)).link = .up))]
def mirQueryInfo : CmdInfo := { op := 0x0D11, auth := auObserve }
def mirQuery (d : Desc) (s : State) : State :=
  command mirQueryInfo d true (fun _ s => finish d St.ok (pack [(0, (mirStat s).toNat), (32, s.mir.pseq % 2 ^ 32)]) s) s
def execMirQuery (d : Desc) (s : State) : Host.Outcome State Fault Refusal := .next (mirQuery d s)
def mirSwitchInfo : CmdInfo := { op := 0x0D12, auth := auOperate, used := [(16, 1)] }
/-- `MIR_SWITCH`: with FORCE a switchover, without it a handover that ends with the partner's HELLO. -/
def mirSwitch (d : Desc) (s : State) : State :=
  command mirSwitchInfo d true (fun _ s =>
    if d.bit 16 0 then
      (if s.mir.role = .solo ∧ s.mir.wasStandby then
        (let s1 := switchover 4 true s; finish d St.ok s1.mir.pseq s1)
       else finish d St.mirRole 0 s)
    else if s.mir.role ≠ .primary then finish d St.mirRole 0 s
    else if !s.mir.synced then finish d St.mirUnsynced 0 s
    else if switchWaits s then askHandOver false s
    else
      let s1 := handOver (allPeers (.switch 3) s)
      running d .mirSwitch s1.mir.pseq s1) s
def execMirSwitch (d : Desc) (s : State) : Host.Outcome State Fault Refusal := .next (settleWeir (mirSwitch d s))
/-- `MIR_SWITCH_TIMEOUT`. -/
def mirSwitchTimeout (s : State) : State :=
  if !s.mir.switching then s
  else wake (fun w => match w with | .mirSwitch => .done St.timeout none | _ => .go)
    (onMir (if s.mir.role = .standby then wasStandby s (goSolo 4 s) else goSolo 4 s) fun m => { m with switching := false, handing := false })
def execMirSwitchTimeout (s : State) : Host.Outcome State Fault Refusal := .next (mirSwitchTimeout s)
def mirResyncInfo : CmdInfo := { op := 0x0D13, auth := auConfigure }
def mirResync (d : Desc) (s : State) : State :=
  command mirResyncInfo d true (fun _ s =>
    if s.mir.partner.isNone then finish d St.mirNoPartner 0 s
    else if s.mir.role ≠ .primary then finish d St.mirRole 0 s
    else finish d St.ok 0 (resync s)) s
def execMirResync (d : Desc) (s : State) : Host.Outcome State Fault Refusal := .next (settleWeir (mirResync d s))
/-! ## Links of the mirror (R396, R410) -/
/-- A message that belongs to packet `q`. -/
def ofPacket (q : Nat) : LinkMsg → Bool
  | .lines p _ _ => p == q
  | .epochEnd e => e.pseq == q
  | _ => false
def onPort (s : State) (l : LinkId) (q : Nat) : Bool :=
  let p := linkOf s l
  (p.window.any fun x => ofPacket q x.2) || p.backlog.any (ofPacket q)
/-- Restart packets: RESTART for each, and each is then read anew and sent from its start with the same PSEQ (R410). -/
def restart (ts : List PktTx) (s : State) : State :=
  let s1 := ts.foldl (fun s t =>
    onPkt t.pseq (fun t => { t with read := false, frames := [], again := true, next := 0, ended := false }) (sendMir (.restart t.pseq true) s)) s
  readBegun s1.mir.unacked.length s1
/-- The packets to restart when those of `hit` are: a context's later packets with them, since they carry older values (log entry 78). -/
def restartSet (hit : PktTx → Bool) (s : State) : List PktTx :=
  let ts := s.mir.unacked.filter fun t => hit t && (t.read || t.again)
  s.mir.unacked.filter fun t => ts.any fun u => u.pseq = t.pseq || (decide (u.pseq < t.pseq) && decide (u.due.ctx < 16) && u.due.ctx == t.due.ctx
    && (u.due.kind == 1 || u.due.kind == 2) && t.read)
/-- A port's traffic is gone: the packets with frames on it restart on the other port. -/
def mirPortDown (p : Fin 2) (link : LinkSt) (s : State) : State :=
  let ts := restartSet (fun t => onPort s (.mir p) t.pseq) s
  let s1 := (onMir (linkClear (.mir p) link s) fun m => { m with restarted := [] }).raise 0x0D12 0
    [(16, p.val), (17, match link with | .down => 0 | .training => 1 | .up => 2)]
  if anyMirUp s1 then restart ts s1 else s1
/-- A port comes UP: what it still holds is replayed; where the packets had no port, they are sent afresh. -/
def mirPortUp (p : Fin 2) (s : State) : State :=
  let alone := !anyMirUp s
  let s1 := (onLink s (.mir p) fun k => { k with link := .up, failed := 0 }).raise 0x0D12 0 [(16, p.val), (17, 2)]
  let k := linkOf s1 (.mir p)
  if k.window = [] ∧ k.backlog = [] then (if alone then restart (restartSet (fun _ => true) s1) s1 else pumpMir 256 s1)
  else pumpMir 256 (pump (.mir p) 64 (k.window.foldl (fun s w => emitFrame (.mir p) w.1 w.2 s) s1))
/-- `MIR_LINK_RETRAIN`: every 100 ms, of a RUNNING port whose link is DOWN; Confluence ports take the same rule (R396, R417). -/
def mirLinkRetrain (l : LinkId) (s : State) : State :=
  let k := linkOf s l
  if s.life[lifeOfLink l].life = .running ∧ k.link = .down ∧ s.glb.state ≠ 3 then
    onLink s l fun k => { k with link := .training, retrains := sat 8 (k.retrains + 1), failed := 2 }
  else s
def execMirLinkRetrain (l : LinkId) (s : State) : Host.Outcome State Fault Refusal := .next (mirLinkRetrain l s)
end Sys2Proof.Machine
end

