-- ==== Sys2Proof/Machine/Conf.lean ====
section
/-! DEFINITION. Confluence (chapter 14): forming the cluster, remote accesses, spanning closes, saves, lost peers and the role
of a board. -/
namespace Sys2Proof.Machine
/-! ## Forming (R416–R420) -/
/-- Ports that are wired for the expected number of chips; a chip outside of that number has none. -/
def wired (s : State) : List (Fin 3) := [(0 : Fin 3), 1, 2].filter fun p => decide (s.slot < s.conf.chips) && decide (slotAt s p < s.conf.chips)
def joinOf (s : State) (p : Fin 3) : Join :=
  ⟨s.glb.uid, s.slot, s.conf.chips, s.glb.fil.truncate 16, p.val, s.conf.home, s.usable⟩
/-- `JOIN_SEND`. -/
def joinSend (s : State) : State :=
  if s.conf.form ≠ .forming ∨ s.conf.chips = 1 then s
  else (wired s).foldl (fun s p => sendOn (.conf p) (.join (joinOf s p)) s)
    (onConf s fun k => { k with firstJoin := k.firstJoin.or (some s.now) })
def execJoinSend (s : State) : Host.Outcome State Fault Refusal := .next (joinSend s)
/-- The first reason of R418 that fails on this chip's own links, with the slot concerned. -/
def formFault (s : State) : Option (Nat × Nat) :=
  let ps := wired s
  let at_ (bad : Fin 3 → Join → Bool) : Option Nat :=
    (ps.find? fun p => match s.conf.joins[p] with | some j => bad p j | none => false).map (slotAt s ·)
  let seen : List Nat := s.slot :: ps.filterMap fun p => (s.conf.joins[p]).map (·.chipid)
  match ps.find? fun p => (s.conf.joins[p]).isNone with
  | some p => some (1, slotAt s p)
  | none =>
    let r (n : Nat) (o : Option Nat) : Option (Nat × Nat) := o.map fun j => (n, j)
    ((((r 2 (at_ fun _ j => decide (seen.count j.chipid > 1))).or
      (r 3 (at_ fun p j => decide (j.chipid ≠ slotAt s p) || decide (j.port ≠ 2 - p.val)))).or
      (r 4 (at_ fun _ j => decide (j.chips ≠ s.conf.chips)))).or
      (r 5 (at_ fun _ j => decide (bits j.fil 8 8 ≠ bits s.glb.fil 8 8)))).or
      (r 6 (at_ fun _ j => decide (j.home ≠ s.conf.home)))
/-- Which slots own segments of each context is known to the members; no frame carries it, so it is a free value (log
entry 54). -/
def drawOwners (s : State) : State :=
  let (v, s1) := s.draw
  onConf s1 fun k => { k with owners := Vector.ofFn fun c : Fin 16 => BitVec.ofNat 4 (bits v (4 * c.val) 4) &&& k.members }
/-- Membership is taken (R418, R420). -/
def takeMembers (m : BitVec 4) (s : State) : State :=
  if s.conf.form = .formed then s
  else
    let s1 : State := { s with boot := { s.boot with stage := if s.boot.stage = 7 then 8 else s.boot.stage } }
    (drawOwners (onConf s1 fun k => { k with form := .formed, members := m, lost := 0, reason := 0 })).raise 0x0E10 0
      [(16, m.toNat), (17, s.conf.chips)]
def allMembers (n : Nat) : BitVec 4 := BitVec.ofNat 4 (2 ^ n - 1)
/-- The chip in slot 0 forms the cluster when every condition holds. What it observes of the links between other members no frame says,
so that it is a free value (log entry 53). -/
def tryForm (s : State) : State :=
  if s.conf.form = .formed ∨ s.slot ≠ 0 ∨ (formFault s).isSome then s
  else
    let (v, s1) := s.draw
    if 2 < s.conf.chips ∧ v.getLsbD 0 then s1
    else takeMembers (allMembers s.conf.chips)
      ((wired s1).foldl (fun s p => sendOn (.conf p) (.formed (allMembers s.conf.chips)) s) s1)
/-- The oldest write that waits at a Confluence port is held by the weir: every later frame of its link waits unacknowledged (R422). -/
def weirHeads (s : State) (p : Fin 3) : Bool :=
  match s.ret.held.find? (·.fp = fabricOf (.conf p)) with
  | some h => (match takeWrite h.fp h.addr h.bytes h.poison false s with | .held weir => weir | _ => false)
  | none => false
/-- A frame that is next in order waits in its port, unacknowledged. -/
def holdFrame (p : Fin 3) (h : LinkHdr) (m : LinkMsg) (s : State) : State :=
  onLink (takeAck (.conf p) h s) (.conf p) fun k => { k with hold := [(h.fseq, m)], got := k.got + 12 + msgLen m }
/-- The port is UP, and the frame next in order, with none held before it. -/
def nextFrame (s : State) (p : Fin 3) (h : LinkHdr) : Bool :=
  let k := linkOf s (.conf p)
  isUp s (.conf p) && decide (k.hold = []) && decide (h.fseq = k.ackseq + 1)
/-- A frame of a Confluence port is received, unless it waits behind a write that the weir holds. -/
def confFrame (p : Fin 3) (h : LinkHdr) (m : LinkMsg) (au : Nat) (f : State → State) (s : State) : State :=
  if nextFrame s p h && weirHeads s p then holdFrame p h m s else onFrame (.conf p) h m au f s
/-- From T0 until Q only COMMIT, ABANDON and RESOLVE are taken (R429). -/
def onConfFrame (p : Fin 3) (h : LinkHdr) (m : LinkMsg) (au : Nat) (f : State → State) (s : State) : State :=
  confFrame p h m au (fun s => if s.slu.phase = .idle then f s else s) s
/-- Frames between members (R432). -/
def fromMember (p : Fin 3) (f : State → State) (s : State) : State :=
  if s.conf.members.getLsbD (slotAt s p) ∧ !s.conf.lost.getLsbD (slotAt s p) then f s else s
/-- `JOIN`. -/
def takeJoin (p : Fin 3) (j : Join) (s : State) : State :=
  if s.conf.form = .formed then s
  else tryForm (onConf s fun k => { k with joins := k.joins.set p (some j), firstJoin := k.firstJoin.or (some s.now) })
def joinFrame (p : Fin 3) (h : LinkHdr) (j : Join) (s : State) : State := onConfFrame p h (.join j) auObserve (takeJoin p j) s
def execJoinFrame (p : Fin 3) (h : LinkHdr) (j : Join) (s : State) : Host.Outcome State Fault Refusal := .next (joinFrame p h j s)
/-- `FORMED`, from the chip in slot 0. -/
def formedFrame (p : Fin 3) (h : LinkHdr) (m : BitVec 4) (s : State) : State :=
  onConfFrame p h (.formed m) auPeer (fun s => if slotAt s p = 0 ∧ m.getLsbD s.slot then takeMembers m s else s) s
def execFormed (p : Fin 3) (h : LinkHdr) (m : BitVec 4) (s : State) : Host.Outcome State Fault Refusal := .next (formedFrame p h m s)
/-- `CONF_FORM_TIMEOUT`. A chip that sees nothing amiss itself has not heard from slot 0; at slot 0 the fault is one of a link between
other members (log entry 53). -/
def confFormTimeout (s : State) : State :=
  if s.conf.form ≠ .forming ∨ s.conf.firstJoin.isNone then s
  else
    let (v, s1) := s.draw
    let other := if s.slot = 0 ∧ 2 < s.conf.chips then (1 + bits v 0 8 % 6, bits v 8 8 % s.conf.chips) else (1, 0)
    let (r, j) := (formFault s).getD other
    (onConf s1 fun k => { k with form := .failed, reason := r }).raise 0x0E11 0 [(16, r), (17, j)]
def execConfFormTimeout (s : State) : Host.Outcome State Fault Refusal := .next (confFormTimeout s)
/-- `CONF_FORM_RETRY`. -/
def confFormRetry (s : State) : State :=
  if s.conf.form ≠ .failed then s
  else onConf s fun k => { k with form := .forming, joins := Vector.replicate 3 none, firstJoin := none }
def execConfFormRetry (s : State) : Host.Outcome State Fault Refusal := .next (confFormRetry s)
/-! ## Remote accesses (R421–R424) -/
/-- A STANDBY takes no write to a retained segment (R408). -/
def standbyDrops (s : State) (l : Nat) : Bool := s.mir.role = .standby && decide ((s.lineSeg l).cls ≠ .volatile)
def countDropped (s : State) : State := onMir s fun m => { m with wrDropped := sat 32 (m.wrDropped + 1) }
/-- Present a WR's write: `none` where the weir holds it, and its link with it (R422). One that is poisoned poisons from source 3 of
R327. Behind writes of its port that wait for a close it waits at the port. -/
def offerWr (p : Fin 3) (addr : Nat) (data : List Byte) (poisoned : Bool) (s : State) : Option State :=
  let bytes : List WByte := data.map some
  let poison : Option Nat := if poisoned then some 3 else none
  let fp := fabricOf (.conf p)
  let a := localOf addr
  if !s.here addr then some s
  else if standbyDrops s (lineOf a) then some (countDropped s)
  else if s.ret.held.any (·.fp = fp) then some (holdWrite ⟨fp, a, bytes, poison, s.now, s.ret.order, none, none⟩ false s)
  else match takeWrite fp a bytes poison false s with
    | .accepted s' => some (settleWeir s')
    | .dropped s' => some s'
    | .held true => none
    | .held false => some (holdWrite ⟨fp, a, bytes, poison, s.now, s.ret.order, none, none⟩ false s)
def isMember (s : State) (p : Fin 3) : Bool := s.conf.members.getLsbD (slotAt s p) && !s.conf.lost.getLsbD (slotAt s p)
/-- `WR`: a write that the weir does not admit waits in its port, and its frame and those behind it stay unacknowledged (R162,
R422). -/
def wr (p : Fin 3) (h : LinkHdr) (addr : BitVec 40) (bytes : List Byte) (poison mgmt : Bool) (s : State) : State :=
  let m : LinkMsg := .wr addr.toNat bytes poison mgmt
  let judged := nextFrame s p h && s.holds (arrivalOf (.conf p)) auPeer && isMember s p && decide (s.slu.phase = .idle)
  if judged && (offerWr p addr.toNat bytes poison s).isNone then holdFrame p h m s
  else onConfFrame p h m auPeer (fromMember p fun s => (offerWr p addr.toNat bytes poison s).getD s) s
def execWr (p : Fin 3) (h : LinkHdr) (addr : BitVec 40) (bytes : List Byte) (poison mgmt : Bool) (s : State) :
    Host.Outcome State Fault Refusal := .next (wr p h addr bytes poison mgmt s)
/-- `RD_REQ`: lines that do not exist are answered with ABORT. -/
def takeRdReq (p : Fin 3) (tag lines addr : Nat) (s : State) : State :=
  if s.here addr ∧ s.here (addr + 256 * lines - 1) ∧ 1 ≤ lines then
    takeRead (.peer tag) (fabricOf (.conf p)) (localOf addr / 256 * 256) (256 * lines) s
  else sendOn (.conf p) (.rdCpl tag 0 1 []) s
def rdReq (p : Fin 3) (h : LinkHdr) (tag : BitVec 16) (lines : Nat) (addr : BitVec 40) (s : State) : State :=
  onConfFrame p h (.rdReq tag.toNat lines addr.toNat) auPeer (fromMember p (takeRdReq p tag.toNat lines addr.toNat)) s
def execRdReq (p : Fin 3) (h : LinkHdr) (tag : BitVec 16) (lines : Nat) (addr : BitVec 40) (s : State) : Host.Outcome State Fault Refusal :=
  .next (rdReq p h tag lines addr s)
/-- Lines of a remote read that have come. -/
def gotBytes (r : RemRead) : List Byte × List (BitVec 4) :=
  let es := sortBy (fun a b => decide (a.1 ≤ b.1)) r.got
  (((es.flatMap (·.2.value)).drop (r.addr % 256)).take r.len, es.map (·.2.poison))
/-- Poison among the granules from `a` on. -/
def remPoison (r : RemRead) (a len : Nat) : Bool :=
  let ps := (gotBytes r).2
  (cuts 64 a len).any fun c => let g := c.1 / 64 - r.addr / 256 * 4; (ps.getD (g / 4) 0).getLsbD (g % 4)
/-- A remote read ends without data: the host's with Completer Abort (R424). -/
def abortRemote (r : RemRead) (s : State) : State := match r.who with | .host req => gaveCa req s | _ => s
/-- Complete a remote read towards the host, which consumes its poison, or firmware (R330, R421, R424). -/
def endRemote (r : RemRead) (s : State) : State :=
  let bs := (gotBytes r).1
  let bad := remPoison r r.addr r.len
  let s1 := onConf s fun k =>
    { k with reads := k.reads.filter (·.tag ≠ r.tag), rlatMax := max k.rlatMax (sat 32 ((s.now - r.since) * 5 / 4)) }
  match r.who with
  | .host req =>
    let s2 := (cplPieces s1 (remPoison r) r.addr r.len).foldl (fun s c => s.emit (.cpl req ((bs.drop (c.1 - r.addr)).take c.2) (remPoison r c.1 c.2))) s1
    let first := ((linesFrom r.addr r.len).find? fun l => let a := max r.addr (l * 256); remPoison r a (min (r.addr + r.len) (l * 256 + 256) - a)).getD 0
    if bad then poisonUsedAt (r.slot * 2 ^ 38 + first * 256) 1 0 s2 else s2
  | _ => s1.emit (.read 1 bs bad)
/-- `RD_CPL`. -/
def takeCpl (tag idx : Nat) (abort : Bool) (es : List LineEntry) (s : State) : State :=
  match s.conf.reads.find? (·.tag = tag) with
  | none => s
  | some r =>
    if abort then abortRemote r (onConf s fun k => { k with reads := k.reads.filter (·.tag ≠ tag) })
    else
      let r' := { r with got := r.got ++ (es.zipIdx.map fun q => (idx + q.2, q.1)) }
      if r'.got.length ≥ (linesFrom r.addr r.len).length then endRemote r' s
      else onConf s fun k => { k with reads := k.reads.map fun q => if q.tag = tag then r' else q }
def rdCpl (p : Fin 3) (h : LinkHdr) (tag : BitVec 16) (idx : Nat) (abort : Bool) (es : List LineEntry) (s : State) : State :=
  onConfFrame p h (.rdCpl tag.toNat idx (b2n abort) es) auPeer (fromMember p (takeCpl tag.toNat idx abort es)) s
def execRdCpl (p : Fin 3) (h : LinkHdr) (tag : BitVec 16) (idx : Nat) (abort : Bool) (es : List LineEntry) (s : State) :
    Host.Outcome State Fault Refusal := .next (rdCpl p h tag idx abort es s)
/-! ## Spanning contexts (R425–R427) -/
def setPrep (c : Fin 16) (f : Prep → Prep) (s : State) : State := onConf s fun k => { k with prep := vmod k.prep c f }
/-- What a member has deferred is taken: the home has gone on, and aging is made up for at once. -/
def takeDeferred (c : Fin 16) (s : State) : State :=
  if (s.ctxAt c).deferred.isSome then deferredCloseTaken c (forceAging c s) else s
/-- `PREPARE` on a member: writes of the context are held; PREPARED goes once the earlier ones are applied. -/
def takePrepare (c : Fin 16) (e : Nat) (s0 : State) : State :=
  let s := if (s0.ctxAt c).epoch < e then takeDeferred c s0 else s0
  if (s.ctxAt c).epoch ≠ e then s
  else tellPrepared (setPrep c (fun _ => ⟨1, s.now, e, 0, (s.ctxAt c).settled, none⟩) s)
def prepare (p : Fin 3) (h : LinkHdr) (c : Fin 16) (e : Nat) (s : State) : State :=
  onConfFrame p h (.prepare c e) auPeer (fromMember p (takePrepare c e)) s
def execPrepare (p : Fin 3) (h : LinkHdr) (c : Fin 16) (e : Nat) (s : State) : Host.Outcome State Fault Refusal := .next (prepare p h c e s)
/-- The home's close instant C; an abandon that came since D takes effect just after it. -/
def closeSpanning (c : Fin 16) (s : State) : State :=
  let k := s.conf.prep[c]
  let owners := otherOwners s c
  let s1 := onConf (setPrep c (fun _ => Prep.idle) s) fun x => { x with prepMax := max x.prepMax (sat 16 (s.now - k.since)) }
  let s2 := closeNow c (s.ctxAt c).closeFrom k.next s1
  let s3 := sendTo owners (.commit c k.epoch) s2
  let s4 := sendTo ((peers s3).filter fun j => !owners.contains j) (.ctxsync c (s3.ctxAt c).record) s3
  match k.abandonAfter with
  | some cause => askAbandon c cause none s4
  | none => s4
/-- `PREPARED` at the home. -/
def takePrepared (j : Nat) (c : Fin 16) (e : Nat) (s : State) : State :=
  let k := s.conf.prep[c]
  if k.phase = 0 ∨ k.epoch ≠ e ∨ !actsHome s c then s
  else
    let d := k.done ||| BitVec.ofNat 4 (2 ^ j)
    let s1 := setPrep c (fun k => { k with done := d }) s
    if (otherOwners s c).all (d.getLsbD ·) then closeSpanning c s1 else s1
def prepared (p : Fin 3) (h : LinkHdr) (c : Fin 16) (e : Nat) (s : State) : State :=
  onConfFrame p h (.prepared c e) auPeer (fromMember p fun s => settleWeir (takePrepared (slotAt s p) c e s)) s
def execPrepared (p : Fin 3) (h : LinkHdr) (c : Fin 16) (e : Nat) (s : State) : Host.Outcome State Fault Refusal := .next (prepared p h c e s)
/-- A member's close or abandon waits for aging as the home's does (R119). -/
def deferMember (c : Fin 16) (k : Deferred) (s : State) : State := s.onCtx c fun x => { x with deferred := some k, deferAt := s.now }
/-- A member closes epoch `e`. -/
def memberClose (c : Fin 16) (e : Nat) (s0 : State) : State :=
  let s := if (s0.ctxAt c).epoch < e then takeDeferred c s0 else s0
  if (s.ctxAt c).epoch ≠ e then s
  else if agingBlocks s c (e + 1) then deferMember c (.close false none) s
  else closeNow c (s.ctxAt c).settled (s.ctxAt c).settled (setPrep c (fun _ => Prep.idle) s)
/-- A deferred abandon of a save ends (R429): the open epoch goes with cause POWER, the state as R190 leaves it. -/
def resolved (c : Fin 16) (s : State) : State :=
  if s.conf.resolving.getLsbD c.val then
    abandonNow c 2 (s.ctxAt c).mode (forceAging c (onConf s fun k => { k with resolving := k.resolving &&& ~~~(BitVec.ofNat 16 (2 ^ c.val)) }))
  else s
/-- A member abandons epoch `e`; from T0 to Q, where it is the open one, the deferred abandon of the save is what happens (R429). -/
def memberAbandon (c : Fin 16) (cause e : Nat) (s0 : State) : State :=
  let s := if (s0.ctxAt c).epoch < e then takeDeferred c s0 else s0
  if (s.ctxAt c).epoch ≠ e then s
  else if s.slu.phase ≠ .idle ∧ s.conf.resolving.getLsbD c.val = true then resolved c (setPrep c (fun _ => Prep.idle) s)
  else if e < terminalEpoch ∧ agingBlocks s c (e + 1) then deferMember c (.abandon cause none) (setPrep c (fun _ => Prep.idle) s)
  else abandonNow c cause (afterAbandon (s.ctxAt c)) (setPrep c (fun _ => Prep.idle) s)
/-- `COMMIT`. -/
def takeCommit (c : Fin 16) (e : Nat) (s : State) : State :=
  if (s.ctxAt c).epoch ≤ e ∧ s.conf.prep[c].phase ≠ 0 then
    -- from T0 on nothing is deferred (R119)
    resolved c (memberClose c e (if s.conf.resolving.getLsbD c.val then forceAging c s else s))
  else s
def commit (p : Fin 3) (h : LinkHdr) (c : Fin 16) (e : Nat) (s : State) : State :=
  confFrame p h (.commit c e) auPeer (fromMember p fun s => settleWeir (takeCommit c e s)) s
def execCommit (p : Fin 3) (h : LinkHdr) (c : Fin 16) (e : Nat) (s : State) : Host.Outcome State Fault Refusal := .next (commit p h c e s)
/-- `ABANDON`. -/
def abandon (p : Fin 3) (h : LinkHdr) (c : Fin 16) (cause : BitVec 3) (e : Nat) (s : State) : State :=
  confFrame p h (.abandon c cause.toNat e) auPeer (fromMember p fun s => settleWeir (memberAbandon c cause.toNat e s)) s
def execAbandon (p : Fin 3) (h : LinkHdr) (c : Fin 16) (cause : BitVec 3) (e : Nat) (s : State) : Host.Outcome State Fault Refusal :=
  .next (abandon p h c cause e s)
/-- `RESOLVE`, for the contexts whose abandon a save deferred (R429). -/
def takeResolve (es : List (Fin 16 × Nat)) (s : State) : State :=
  es.foldl (fun s q =>
    if !s.conf.resolving.getLsbD q.1.val then s
    else if q.2 = (s.ctxAt q.1).epoch then resolved q.1 (memberClose q.1 q.2 (forceAging q.1 s))
    else if q.2 + 1 = (s.ctxAt q.1).epoch then resolved q.1 (setPrep q.1 (fun _ => Prep.idle) s)
    else s) s
def resolveFrame (p : Fin 3) (h : LinkHdr) (es : List (Fin 16 × Nat)) (s : State) : State :=
  confFrame p h (.resolve (es.map fun q => (q.1.val, q.2))) auPeer (fromMember p fun s => settleWeir (takeResolve es s)) s
def execResolveFrame (p : Fin 3) (h : LinkHdr) (es : List (Fin 16 × Nat)) (s : State) : Host.Outcome State Fault Refusal :=
  .next (resolveFrame p h es s)
/-- `RESOLVE_TIMEOUT`. -/
def resolveTimeout (s : State) : State :=
  (List.range 16).foldl (fun s i =>
    if s.conf.resolving.getLsbD i then resolved (fin16 i) (setPrep (fin16 i) (fun _ => Prep.idle) s) else s) s
def execResolveTimeout (s : State) : Host.Outcome State Fault Refusal := .next (settleWeir (resolveTimeout s))
/-- `CTXSYNC`: the copy takes the home's record, and a PRIMARY tells its partner of the change (R401). Epoch numbers of a context that owns lines here move with COMMIT and
ABANDON only. -/
def takeCtxsync (c : Fin 16) (r : CtxRec) (s : State) : State :=
  if actsHome s c then s
  else
    let own := ownsHere s c
    let s1 := s.onCtx c fun x =>
      { x with policy := r.policy, rank := r.rank, minPeriod := r.minPeriod, wdog := r.wdog, bankSeg := r.bankSeg, bankCount := r.bankCount,
               epoch := if own then x.epoch else r.opened, commit := if own then x.commit else r.commit,
               discard := if own then x.discard else 0 }
    dueContext c (drawOwners (toMode c r.mode s1))
def ctxsync (p : Fin 3) (h : LinkHdr) (c : Fin 16) (r : CtxRec) (s : State) : State :=
  onConfFrame p h (.ctxsync c r) auPeer (fromMember p (takeCtxsync c r)) s
def execCtxsync (p : Fin 3) (h : LinkHdr) (c : Fin 16) (r : CtxRec) (s : State) : Host.Outcome State Fault Refusal := .next (ctxsync p h c r s)
/-! ## Lost peers (R431–R433) -/
def isWr : LinkMsg → Bool
  | .wr _ _ _ _ => true
  | _ => false
/-- A context that a lost slot is home of, or owns segments of. -/
def spansSlot (s : State) (j : Nat) (c : Fin 16) : Bool :=
  spanning s c && (decide (homeSlot s c = j) || s.conf.owners[c].getLsbD j)
/-- Writes and reads to and from a lost slot end. -/
def cutLink (j : Nat) (s : State) : State :=
  match portTo s j with
  | .mir _ => s
  | .conf p =>
    let k := linkOf s (.conf p)
    let fp := fabricOf (.conf p)
    let n := (k.window.filter fun x => isWr x.2).length + (k.backlog.filter isWr).length + (k.hold.filter fun x => isWr x.2).length + (s.ret.held.filter fun x => x.fp = fp).length
      + (portPieces s fp).length
    let late := portPieces s fp
    let s1 := onRet (late.foldl (fun s p => dropPiece p s) s) fun r => { r with held := r.held.filter fun x => x.fp ≠ fp }
    let s2 := dropReads (·.fp = fp) s1
    let s3 := s.conf.reads.foldl (fun (s : State) (r : RemRead) => if r.slot = j then abortRemote r s else s) s2
    onConf (linkClear (.conf p) .down s3) fun k =>
      { k with dropped := sat 32 (k.dropped + n), reads := k.reads.filter (·.slot ≠ j) }
/-- This chip declares a slot lost. -/
def declareLost (j : Nat) (s : State) : State :=
  if j = s.slot ∨ !s.conf.members.getLsbD j ∨ s.conf.lost.getLsbD j then s
  else
    let cs := (List.range 16).filter fun i => spansSlot s j (fin16 i)
    let s1 := onConf s fun k => { k with lost := k.lost ||| BitVec.ofNat 4 (2 ^ j) }
    let s2 := cs.foldl (fun s i =>
      let c := fin16 i
      (askAbandon c 4 none (setPrep c (fun _ => Prep.idle) s)).onCtx c fun x => { x with released := false }) s1
    (cutLink j s2).raise 0x0E12 0 [(16, j), (18, maskOf cs)]
/-- `PEER_LOST`: declared, and told to the others. -/
def peerLost (j : Fin 4) (s : State) : State :=
  if j.val = s.slot ∨ !s.conf.members.getLsbD j.val ∨ s.conf.lost.getLsbD j.val then s
  else let s1 := declareLost j.val s; sendTo (peers s1) (.lost j.val) s1
def execPeerLost (j : Fin 4) (s : State) : Host.Outcome State Fault Refusal := .next (settleWeir (peerLost j s))
/-- `LOST`: a chip that is named itself declares every other member lost. -/
def takeLost (j : Fin 4) (s : State) : State :=
  if j.val = s.slot then (List.range 4).foldl (fun s k => declareLost k s) s else declareLost j.val s
def lostFrame (p : Fin 3) (h : LinkHdr) (j : Fin 4) (s : State) : State :=
  onConfFrame p h (.lost j) auPeer (fromMember p fun s => settleWeir (takeLost j s)) s
def execLostFrame (p : Fin 3) (h : LinkHdr) (j : Fin 4) (s : State) : Host.Outcome State Fault Refusal := .next (lostFrame p h j s)
/-- `LINK_TRAINED`: of a mirror port the packets start again, of a Confluence port the third failure loses the peer. -/
def linkTrained (l : LinkId) (ok : Bool) (s : State) : State :=
  let k := linkOf s l
  if k.link ≠ .training ∨ s.life[lifeOfLink l].life ≠ .running then s
  else if ok then
    match l with
    | .mir p => mirPortUp p s
    | .conf _ =>
      let s1 := onLink s l fun k => { k with link := .up, failed := 0 }
      pump l 64 (k.window.foldl (fun s w => emitFrame l w.1 w.2 s) s1)
  else if k.failed + 1 < 3 then onLink s l fun k => { k with failed := k.failed + 1, retrains := sat 8 (k.retrains + 1) }
  else
    let s1 := onLink s l fun k => { k with errs := k.errs ||| 8 }
    match l with
    | .mir p => mirPortDown p .down s1
    | .conf p =>
      let j : Fin 4 := Fin.ofNat 4 (slotAt s p)
      if s.conf.members.getLsbD j.val ∧ !s.conf.lost.getLsbD j.val then settleWeir (peerLost j s1) else linkClear l .down s1
def execLinkTrained (l : LinkId) (ok : Bool) (s : State) : Host.Outcome State Fault Refusal := .next (linkTrained l ok s)
/-- `ELASTIC_LIMIT`. -/
def elasticLimit (p : Fin 3) (s : State) : State := if isUp s (.conf p) then retrain (.conf p) 1 s else s
def execElasticLimit (p : Fin 3) (s : State) : Host.Outcome State Fault Refusal := .next (elasticLimit p s)
/-- `CONF_LINK_IDLE`. -/
def confLinkIdle (p : Fin 3) (s : State) : State := if isUp s (.conf p) then emitAck (.conf p) false s else s
def execConfLinkIdle (p : Fin 3) (s : State) : Host.Outcome State Fault Refusal := .next (confLinkIdle p s)
/-! ## After a restore (R430) -/
/-- A spanning context whose committed epochs differ stays ABANDONED and unreleased. -/
def splitCtx (c : Fin 16) (e : Nat) (s : State) : State :=
  let x := s.ctxAt c
  if !spanning s c ∨ s.conf.split.getLsbD c.val then s
  else
    let s1 := onConf s fun k => { k with split := k.split ||| BitVec.ofNat 16 (2 ^ c.val) }
    (toMode c .abandoned (s1.onCtx c fun x => { x with released := false })).raise 0x0E13 0
      [(16, c.val), (20, min x.commit e), (26, max x.commit e)]
/-- Compare the records of one other chip with this chip's, context by context; a context that the frame does not name has no record
there, for that chip's newest generation is unsealed. DEDUCED (log entry 163): its event carries this chip's epoch twice. -/
def comparePeer (es : List (Nat × Nat)) (s : State) : State :=
  (List.range 16).foldl (fun s i =>
    let x := s.ctxAt (fin16 i)
    if x.settled = .running then s
    else match es.find? (·.1 = i) with
      | some q => if x.commit = q.2 then s else splitCtx (fin16 i) q.2 s
      | none => splitCtx (fin16 i) x.commit s) s
/-- This chip's own records are read. -/
def recordsRead (s : State) : Bool := decide (s.glb.state ≠ 0) || s.slu.everRestored
/-- `EPOCHS`: kept until this chip's own records are read. -/
def takeEpochs (j : Nat) (es : List (Fin 16 × Nat)) (s : State) : State :=
  if recordsRead s then comparePeer (es.map fun q => (q.1.val, q.2)) s
  else onConf s fun k => { k with epochs := k.epochs ++ (j, 16, 0) :: es.map fun q => (j, q.1.val, q.2) }
def epochsFrame (p : Fin 3) (h : LinkHdr) (es : List (Fin 16 × Nat)) (s : State) : State :=
  onConfFrame p h (.epochs (es.map fun q => (q.1.val, q.2))) auPeer (fromMember p fun s => takeEpochs (slotAt s p) es s) s
def execEpochs (p : Fin 3) (h : LinkHdr) (es : List (Fin 16 × Nat)) (s : State) : Host.Outcome State Fault Refusal :=
  .next (epochsFrame p h es s)
/-- Send the epochs of this chip's records, none where its newest generation is unsealed, and compare those heard before. -/
def sendEpochs (s : State) : State :=
  if s.conf.chips = 1 then s else
  let own := if s.store.unsealed.isSome then [] else (List.range 16).map fun i => (i, (s.ctxAt (fin16 i)).commit)
  let s1 := onConf (sendTo (peers s) (.epochs own) s) fun k => { k with epochs := [] }
  let s2 := if own = [] then (List.range 16).foldl (fun s i => splitCtx (fin16 i) (s.ctxAt (fin16 i)).commit s) s1 else s1
  (List.range 4).foldl (fun t j =>
    let es := s.conf.epochs.filter (·.1 = j)
    if es = [] then t else comparePeer (es.map (·.2)) t) s2
/-! ## The role of a board (R434, R435) -/
def roleOf (n : Nat) : Role := if n = 1 then .primary else if n = 2 then .standby else .solo
/-- `ROLE`: slot 0 leads; a refusal or a loss from any chip leaves every chip SOLO. -/
def takeRoleFrame (j : Nat) (r : Role) (cause : Nat) (s : State) : State :=
  if r = .solo then
    (let s1 := takeRole .solo cause 0 (onMir s fun m => { m with boardRole := if cause = 4 then none else some .solo })
     -- a STANDBY board that lost its partner may still be forced to switch as a whole (R26, R414, R435)
     if cause = 4 ∧ s.mir.role = .standby then wasStandby s s1 else s1)
  else if j ≠ 0 then s
  else
    let s1 := onMir s fun m => { m with boardRole := some r }
    match s1.mir.partner with
    | none => s1
    | some m =>
      match refusal s1 m with
      | some k => refused k m s1
      | none => if s1.mir.role = .solo then takeRole r 1 m.pseq s1 else s1
def roleFrame (p : Fin 3) (h : LinkHdr) (r : Role) (cause : Nat) (s : State) : State :=
  onConfFrame p h (.role (Role.code r) cause) auPeer (fromMember p fun s => settleWeir (takeRoleFrame (slotAt s p) r cause s)) s
def execRoleFrame (p : Fin 3) (h : LinkHdr) (r : Role) (cause : Nat) (s : State) : Host.Outcome State Fault Refusal :=
  .next (roleFrame p h r cause s)
/-- `APPLY`. -/
def takeApply (c : Fin 16) (e : Nat) (s : State) : State :=
  onMir s fun m => { m with applyTo := (c.val, max e (appliedTo s c)) :: m.applyTo.filter (fun (x : Nat × Nat) => x.1 ≠ c.val) }
def applyEpoch (p : Fin 3) (h : LinkHdr) (c : Fin 16) (e : Nat) (s : State) : State :=
  onConfFrame p h (.apply c e) auPeer (fromMember p (takeApply c e)) s
def execApplyEpoch (p : Fin 3) (h : LinkHdr) (c : Fin 16) (e : Nat) (s : State) : Host.Outcome State Fault Refusal := .next (applyEpoch p h c e s)
/-- `HAVE`. -/
def haveEpoch (p : Fin 3) (h : LinkHdr) (c : Fin 16) (e : Nat) (s : State) : State :=
  onConfFrame p h (.have_ c e) auPeer (fromMember p fun s => noteHave (slotAt s p) c e s) s
def execHaveEpoch (p : Fin 3) (h : LinkHdr) (c : Fin 16) (e : Nat) (s : State) : Host.Outcome State Fault Refusal := .next (haveEpoch p h c e s)
/-- `SWITCH`: every chip of the board switches. DEDUCED (log entry 191): a PRIMARY hands over by it while its partner is STANDBY as last
heard; one whose own HANDOVER has just made it PRIMARY has switched already. -/
def takeSwitch (trigger : Nat) (s : State) : State :=
  let standsBy : Bool := match s.mir.partner with | some m => decide (m.role = 2) | none => false
  match s.mir.role with
  | .standby => switchover trigger false s
  | .primary => if trigger = 3 ∧ standsBy ∧ !s.mir.handing then askHandOver true s else s
  | .solo => if trigger = 4 ∧ s.mir.wasStandby then switchover 4 false s else s
def switchFrame (p : Fin 3) (h : LinkHdr) (trigger : Nat) (s : State) : State :=
  onConfFrame p h (.switch trigger) auPeer (fromMember p fun s => settleWeir (takeSwitch trigger s)) s
def execSwitchFrame (p : Fin 3) (h : LinkHdr) (trigger : Nat) (s : State) : Host.Outcome State Fault Refusal := .next (switchFrame p h trigger s)
/-! ## Frames held behind a WR (R422) -/
/-- The authority a frame needs (R417). -/
def confAuth : LinkMsg → Nat
  | .join _ => auObserve
  | _ => auPeer
/-- What a frame does, once it is received and permitted. -/
def confAct (p : Fin 3) (m : LinkMsg) (s : State) : State :=
  let mem (f : State → State) : State := fromMember p f s
  match m with
  | .join j => takeJoin p j s
  | .formed ms => if slotAt s p = 0 ∧ ms.getLsbD s.slot then takeMembers ms s else s
  | .wr a bs po _ => mem fun s => (offerWr p a bs po s).getD s
  | .rdReq t n a => mem (takeRdReq p t n a)
  | .rdCpl t i st es => mem (takeCpl t i (st != 0) es)
  | .prepare c e => mem (takePrepare (fin16 c) e)
  | .prepared c e => mem fun s => settleWeir (takePrepared (slotAt s p) (fin16 c) e s)
  | .commit c e => mem fun s => settleWeir (takeCommit (fin16 c) e s)
  | .abandon c k e => mem fun s => settleWeir (memberAbandon (fin16 c) k e s)
  | .resolve es => mem fun s => settleWeir (takeResolve (es.map fun q => (fin16 q.1, q.2)) s)
  | .ctxsync c r => mem (takeCtxsync (fin16 c) r)
  | .lost j => mem fun s => settleWeir (takeLost (Fin.ofNat 4 j) s)
  | .epochs es => mem fun s => takeEpochs (slotAt s p) (es.map fun q => (fin16 q.1, q.2)) s
  | .role r k => mem fun s => settleWeir (takeRoleFrame (slotAt s p) (roleOf r) k s)
  | .apply c e => mem (takeApply (fin16 c) e)
  | .have_ c e => mem fun s => noteHave (slotAt s p) (fin16 c) e s
  | .switch t => mem fun s => settleWeir (takeSwitch t s)
  | _ => s
/-- A held frame is received at last: acknowledged, checked for its authority, and acted on. -/
def releaseFrame (p : Fin 3) (f : BitVec 16) (m : LinkMsg) (s : State) : State :=
  let (ok, s1) := permitted (.conf p) (confAuth m) (onLink s (.conf p) fun k => { k with ackseq := f, hold := k.hold.drop 1 })
  if ok then confAct p m s1 else s1
/-- The frames a port holds, in order, up to a WR that the weir still does not admit. -/
def serveHold (p : Fin 3) : Nat → State → State
  | 0, s => s
  | n + 1, s =>
    match (linkOf s (.conf p)).hold with
    | [] => s
    | (f, m) :: _ =>
      let held : Bool := weirHeads s p || match m with | .wr a bs po _ => isMember s p && (offerWr p a bs po s).isNone | _ => false
      if held then s else serveHold p n (releaseFrame p f m s)
/-- At T0 the WRs that wait are not accepted, and of the frames behind them COMMIT, ABANDON and RESOLVE are taken (R192, R429). -/
def cutHolds (s : State) : State :=
  [(0 : Fin 3), 1, 2].foldl (fun s p =>
    (linkOf s (.conf p)).hold.foldl (fun s q => match q.2 with
      | .commit _ _ | .abandon _ _ _ | .resolve _ => releaseFrame p q.1 q.2 s
      | _ => onLink s (.conf p) fun k => { k with ackseq := q.1, hold := k.hold.drop 1 }) s) s
/-! ## Commands (R437) -/
def FormSt.code : FormSt → Nat
  | .forming => 0 | .formed => 1 | .failed => 2
def confStat (s : State) : Word :=
  packW [(0, s.conf.form.code), (2, s.slot), (4, s.conf.members.toNat), (8, s.conf.lost.toNat), (12, s.conf.reason)]
def confQueryInfo : CmdInfo := { op := 0x0E10, auth := auObserve }
def confQuery (d : Desc) (s : State) : State :=
  command confQueryInfo d true (fun _ s => finish d St.ok (pack [(0, (confStat s).toNat), (32, s.conf.home.toNat)]) s) s
def execConfQuery (d : Desc) (s : State) : Host.Outcome State Fault Refusal := .next (confQuery d s)
def confConfigInfo : CmdInfo := { op := 0x0E11, auth := auConfigure, used := [(16, 8), (18, 48)] }
def confConfigOk (d : Desc) : Bool := within 1 (d.p 16 1) 4 && within 100 (d.p 18 2) 60000
/-- `CONF_CONFIG`: in force from the next reset, which reads it from the ledger. -/
def confConfig (d : Desc) (s : State) : State :=
  command confConfigInfo d (confConfigOk d) (fun _ s => storing d 0x0E11 [setting 0x0E11 0xFF (paramBytes d)] 0 s) s
def execConfConfig (d : Desc) (s : State) : Host.Outcome State Fault Refusal := .next (confConfig d s)
def bootConfChipsInfo : CmdInfo := { op := 0x1220, auth := auMaintain, used := [(16, 8)] }
/-- The stored settings with another number of chips. -/
def withChips (n : Nat) (s : State) : List Byte :=
  let old := (stored s 0x0E11 0xFF).getD ([1, 0] ++ leBytes 2 1000 ++ rep 44 0)
  BitVec.ofNat 8 n :: old.drop 1
/-- `BOOT_CONF_CHIPS` (R419). -/
def bootConfChips (d : Desc) (s : State) : State :=
  command bootConfChipsInfo d (within 1 (d.p 16 1) 4) (fun _ s => storing d 0x1220 [setting 0x0E11 0xFF (withChips (d.p 16 1) s)] 0 s) s
def execBootConfChips (d : Desc) (s : State) : Host.Outcome State Fault Refusal := .next (bootConfChips d s)
end Sys2Proof.Machine
end

