-- ==== Sys2Proof/Machine/Power.lean ====
section
/-! DEFINITION. The power sequencer and the headwater (chapter 15): rails, start sequences, reactions, shutdown, reset outputs,
the hold-up bank, the rail table, and asking for a save. -/
namespace Sys2Proof.Machine
def onPwr (s : State) (f : Pwr → Pwr) : State := { s with pwr := f s.pwr }
def onRail (s : State) (r : Fin 16) (f : Rail → Rail) : State := onPwr s fun p => { p with rail := vmod p.rail r f }
def railAt (s : State) (r : Nat) : Rail := s.pwr.rail[Fin.ofNat 16 r]
def allRails : List Nat := List.range 16
def mapRails (f : Rail → Rail) (s : State) : State := onPwr s fun p => { p with rail := p.rail.map f }
/-! ## Events and records of the sequencer (R451, R461, R467) -/
/-- The core takes no event now: it is off, or between T0 and READY (R451). -/
def powerSpan (s : State) : Bool := !s.boot.coreOut || decide (s.glb.state = 3)
/-- Raise an event of the PWR class, at the next READY where the core takes none now. -/
def raisePwr (code : Nat) (data : List (Nat × Nat)) (s : State) : State :=
  if powerSpan s then onPwr s fun p => { p with heldEvents := p.heldEvents ++ [⟨BitVec.ofNat 16 code, 0, s.glb.time, evd data⟩] }
  else s.raise code 0 data
def raisePwrLim (code key : Nat) (data : List (Nat × Nat)) (s : State) : State :=
  if powerSpan s then (if s.mayRaise code key then raisePwr code data (s.noteRaised code key) else s) else s.raiseLim code key 0 data
/-- A power-event record that is due (R461): written by `EVENT_LOG_WRITE`. -/
def logDue (code rail value detail : Nat) (s : State) : State :=
  onPwr s fun p => { p with heldLog := p.heldLog ++ [leBytes 8 (copyNat s.bkd) ++ leBytes 1 code ++ leBytes 1 rail ++ leBytes 2 value ++ leBytes 4 detail] }
/-- `EVENT_LOG_WRITE`: firmware writes the oldest record that is due; none from T0 until READY (R462). -/
def eventLogWrite (s : State) : State :=
  match s.pwr.heldLog with
  | [] => s
  | b :: t =>
    if powerSpan s ∨ s.glb.fil = 0 then s
    else ldgEnqueue [(10, 0x04, 0, b, .event)] (onPwr s fun p => { p with heldLog := t })
def execEventLogWrite (s : State) : Host.Outcome State Fault Refusal := .next (eventLogWrite s)
def SeqSt.code : SeqSt → Nat
  | .off => 0 | .starting => 1 | .on => 2 | .shutting => 3 | .offWait => 4 | .latched => 5
def toSeq (x : SeqSt) (s : State) : State :=
  let old := s.pwr.seq
  if old = x then s
  else raisePwr 0x0F13 [(16, old.code), (17, x.code), (18, s.pwr.mode)] (onPwr s fun p => { p with seq := x })
/-! ## Conditions on rails -/
def RailMode.isGood : RailMode → Bool
  | .good | .out => true
  | _ => false
/-- A rail that is enabled or not yet below its fall threshold. -/
def Rail.alive (x : Rail) : Bool := x.enPin || x.mode = .falling
/-- Rails that depend, directly or through others, on a rail of the set; the set itself included. -/
def dependants (s : State) : Nat → List Nat → List Nat
  | 0, rs => rs
  | n + 1, rs =>
    let more := allRails.filter fun d => !rs.contains d && (railAt s d).cfg.en && rs.any fun r => (railAt s d).cfg.dep.getLsbD r
    if more = [] then rs else dependants s n (rs ++ more)
def withDependants (s : State) (rs : List Nat) : List Nat := dependants s 16 rs
def groupRails (s : State) (g : Nat) : List Nat := allRails.filter fun r => (railAt s r).cfg.en && decide ((railAt s r).cfg.group = g)
/-- The rails of a start sequence beside the power-up's: a group's, or, numbered 4, the shed rails of a resume (R444, R449). -/
def seqRails (s : State) (g : Nat) : List Nat :=
  if g = 4 then allRails.filter fun r => (railAt s r).cfg.en && (railAt s r).cfg.shed else groupRails s g
/-- Rails that are not GOOD are to be started, as a sequence of its own in NORMAL mode (R445). -/
def startRails (rs : List Nat) (s : State) : State :=
  rs.foldl (fun s r => if (railAt s r).mode.isGood then s else onRail s (Fin.ofNat 16 r) fun x => { x with start := true, attempts := 0 })
    (if s.pwr.seq = .on then onPwr s fun p => { p with mode := if p.mode = 3 ∧ p.groupSeqs.any (·.1 = 4) then 3 else 0 } else s)
def holdsRetain (s : State) (g : Nat) : Bool := (groupRails s g).any fun r => (railAt s r).cfg.retain
def goodMask (s : State) : Nat := maskOf (allRails.filter fun r => (railAt s r).mode.isGood)
/-! ## Reset outputs (R454) -/
/-- Assert the outputs whose sets contain a rail of the list; `whole` those with an empty set as well. -/
def assertRst (rs : List Nat) (whole : Bool) (s : State) : State :=
  let f (o : RstOut) : RstOut := if rs.any (fun r => o.rails.getLsbD r) || (whole && o.rails == 0) then { o with asserted := true } else o
  onPwr s fun p => { p with rst := p.rst.map f }
/-- `RSTOUT_STRETCH_END`. -/
def rstoutStretchEnd (k : Fin 6) (s : State) : State :=
  let o := s.pwr.rst[k]
  let free := s.pwr.seq = .starting || s.pwr.seq = .on
  if free && s.pwr.vddAon && allRails.all (fun r => !o.rails.getLsbD r || (railAt s r).mode.isGood) then
    onPwr s fun p => { p with rst := vmod p.rst k fun o => { o with asserted := false } }
  else s
def execRstoutStretchEnd (k : Fin 6) (s : State) : Host.Outcome State Fault Refusal := .next (rstoutStretchEnd k s)
/-! ## Shutting down (R452, R453) -/
/-- Rails of a shutdown: those enabled wait for their disable, those still to be started are started no more. -/
def shutRails (rs : List Nat) (s : State) : State :=
  rs.foldl (fun s r => onRail s (Fin.ofNat 16 r) fun x => { x with stop := x.enPin, start := false }) (assertRst rs false s)
def allOff (s : State) : Bool := allRails.all fun r => !(railAt s r).alive
/-- Every rail is below its fall threshold: the core's supplies are gone (R188, R207). -/
def nowOff (s : State) : State :=
  let s1 : State := { s with boot := { s.boot with coreOut := false }, glb := { s.glb with fil := 0, state := 0, resumed := false },
                             host := { s.host with mq := Vector.replicate 4 Mailbox.reset, stream := [], heldHost := false, dueSets := [],
                                                   svc := { s.host.svc with cmds := [], frames := [] } } }
  let s2 := onSlu s1 fun x => { x with phase := .idle, pfail := false, pending := none, held := none }
  -- records due from T0 on are lost with the shutdown, others wait for the next READY (R461, R462)
  let s3 := onPwr s2 fun p => { p with heldLog := if s.glb.state = 3 then [] else p.heldLog, minOffDone := false }
  if s.pwr.offThen = 3 then toSeq .latched (onPwr s3 fun p => { p with latch := p.failing, failing := none })
  else toSeq .offWait s3
/-- Shut every rail down; what follows is 1 the minimum off time, 2 the retry off time, 3 the latch. -/
def shutdownAll (next : Nat) (s : State) : State :=
  if s.pwr.seq = .shutting ∨ s.pwr.seq = .offWait ∨ s.pwr.seq = .latched then s
  else
    let s1 := assertRst allRails true (mapRails (fun x => { x with retrySeq := false }) s)
    let s2 := onPwr (shutRails allRails s1) fun p => { p with offThen := next, groupSeqs := [] }
    let s3 := toSeq .shutting s2
    if allOff s3 then nowOff s3 else s3
/-! ## Asking for a save (R186–R189, R207) -/
/-- A cause of R186, of two in the same cycle the lower code. Before a restore begins it asserts `PFAIL#`, which ends the outstanding
commands (R68), and sequences the rails off; from then on it starts a save; after S it is held until READY, and before S it changes
nothing. -/
def askSave (cause : Nat) (s : State) : State :=
  if s.glb.state = 3 then
    (if s.slu.phase ≠ .resuming then s
     else match s.slu.held with
       | none => onSlu s fun x => { x with held := some cause, heldAt := s.now }
       | some h => if s.slu.heldAt = s.now then onSlu s fun x => { x with held := some (min h cause) } else s)
  else if !s.boot.coreOut then (if s.pwr.seq = .starting ∨ s.pwr.seq = .on then shutdownAll 1 s else s)
  else if s.glb.state = 0 ∨ (s.glb.state = 4 ∧ !s.slu.everRestored ∧ s.slu.pending.isNone) then
    shutdownAll 1 (abortAll (onSlu s fun x => { x with pfail := true }))
  else
    let c := match s.slu.pending with
      | some p => if p = 6 ∨ p = 7 then cause else if s.slu.askedAt = s.now then min p cause else p
      | none => cause
    onSlu s fun x => { x with pending := some c, askedAt := if x.pending = some c then x.askedAt else s.now }
/-! ## Starting (R443–R446) -/
/-- The sequence, a group or a retried rail has ended well. -/
def settleStart (s : State) : State :=
  let s1 :=
    if s.pwr.seq = .starting ∧ allRails.all (fun r => !(railAt s r).cfg.en || (railAt s r).mode.isGood) then
      (let (v, s') := s.draw
       toSeq .on (onPwr s' fun p => { p with seqTime := bits v 0 16 }))
    else s
  let good (s : State) (g : Nat) : Bool := (seqRails s g).all fun r => (railAt s r).mode.isGood
  let done := s1.pwr.groupSeqs.filter fun q => good s1 q.1
  done.foldl (fun s q => wake (fun w => match w with | .group g true => if g = q.1 then .done St.ok none else .go | _ => .go) s)
    (onPwr s1 fun p => { p with groupSeqs := p.groupSeqs.filter fun q => !good s1 q.1 })
/-- What the end of a shutdown of some rails sets going: all off, a retried rail or group started again, a group's end. -/
def settleOff (s : State) : State :=
  if s.pwr.seq = .shutting then (if allOff s then nowOff s else s)
  else
    let again := allRails.filter fun r => (railAt s r).retrySeq && !(railAt s r).start && !(railAt s r).mode.isGood && (railAt s r).mode != .rising
    let s1 := if again ≠ [] ∧ again.all (fun r => !(railAt s r).alive) then startRails again s else s
    let down (g : Nat) : Bool := (seqRails s1 g).all fun r => !(railAt s1 r).alive && !(railAt s1 r).start
    let s2 := s1.pwr.groupSeqs.foldl (fun s q =>
      if !down q.1 then s
      else if q.2 ≤ s.pwr.retries then startRails (seqRails s q.1) (logDue 3 0xFF 0 0 s)
      else
        wake (fun w => match w with | .group g _ => if g = q.1 then .done St.ok none else .go | _ => .go)
          (onPwr s fun p => { p with groupSeqs := p.groupSeqs.filter fun k => k.1 ≠ q.1 })) s1
    let ended (g : Nat) : Bool := (groupRails s2 g).all fun r => !(railAt s2 r).alive
    wake (fun w => match w with
      | .group g on => if ended g && (!on || s2.pwr.groupSeqs.all (·.1 ≠ g)) then .done St.ok none else .go
      | _ => .go) s2
/-! ## Rail faults (R448–R451) -/
/-- GROUP_SHUTDOWN, also the escalation of RETRY_RAIL: the rails stay off, so what was restarting any of them gives up. -/
def groupShutdown (g : Nat) (s : State) : State :=
  let rs := withDependants s (groupRails s g)
  let s1 := rs.foldl (fun s r => onRail s (Fin.ofNat 16 r) fun x => { x with retrySeq := false }) (shutRails rs s)
  settleOff (onPwr s1 fun p => { p with groupSeqs := p.groupSeqs.filter fun q => !(rs.any fun r => (seqRails s q.1).contains r) })
/-- SYSTEM_RESET: a save with cause RAIL, or in BOOT a shutdown; the next sequence runs in RECOVERY mode. -/
def systemReset (s : State) : State := askSave 5 (onPwr s fun p => { p with nextMode := 3 })
/-- Apply the reaction of a rail's fault. A fault of a rail that is being taken down starts no rail again (R452). -/
def react (r : Fin 16) (s : State) : State :=
  let x := s.pwr.rail[r]
  if x.cfg.react = 0 then onRail s r fun x => { x with mode := .out }
  else
    let s1 := onRail s r fun x => { x with mode := .faulted }
    if x.cfg.react = 1 then
      if x.stop then s1 else
      (if x.retries < x.cfg.n then
        (let rs := withDependants s [r.val]
         let s2 := onRail s1 r fun x => { x with retries := x.retries + 1 }
         settleOff (shutRails rs (rs.foldl (fun s d => onRail s (Fin.ofNat 16 d) fun x => { x with retrySeq := true }) s2)))
       else if holdsRetain s x.cfg.group then systemReset s1 else groupShutdown x.cfg.group s1)
    else if x.cfg.react = 2 then groupShutdown x.cfg.g s1
    else systemReset s1
/-- No reaction is applied from T0 of a save until READY or the next power-up (R451). -/
def reacts (s : State) : Bool := decide (s.glb.state ≠ 3) && (s.pwr.seq = .on || s.pwr.seq = .starting)
/-- A rail fault of a GOOD rail. -/
def railFault (r : Fin 16) (code mv : Nat) (s : State) : State :=
  let x := s.pwr.rail[r]
  let s1 := onPwr (onRail s r fun x => { x with lastFault := code, inWin := decide (code = 3), mv := mv, pgPin := x.pgPin && decide (code ≠ 3) })
    fun p => { p with fault := p.fault ||| BitVec.ofNat 16 (2 ^ r.val) }
  let s2 := raisePwrLim 0x0F10 r.val [(16, r.val), (17, code), (18, x.cfg.react), (20, mv)] s1
  let s3 := logDue 1 r.val mv (pack [(0, code), (8, x.cfg.react)]) s2
  let s4 := if x.cfg.retain ∧ s.slu.phase ≠ .idle then onSlu s3 fun k => { k with railLeft := true } else s3
  -- a rail that goes OUT counts as good for the reset outputs (R448)
  if reacts s4 then react r (if x.cfg.react = 0 then s4 else assertRst [r.val] false s4) else onRail (assertRst [r.val] false s4) r fun x => { x with mode := .faulted }
/-- A start failure (R446): of a retried rail, of a group, or of the whole sequence. -/
def startFail (r : Fin 16) (code : Nat) (s : State) : State :=
  let x := s.pwr.rail[r]
  let grp := s.pwr.groupSeqs.find? fun q => (seqRails s q.1).contains r.val
  let n := match grp with | some q => q.2 | none => s.pwr.retry
  let s1 := onPwr (onRail s r fun x => { x with lastFault := code, start := false }) fun p => { p with fault := p.fault ||| BitVec.ofNat 16 (2 ^ r.val) }
  let s2 := raisePwr 0x0F11 [(16, r.val), (17, code), (18, s.pwr.mode), (19, n)] s1
  let s3 := logDue 2 r.val x.mv (pack [(0, code), (8, x.cfg.react)]) s2
  let latches (s : State) : State := shutdownAll 3 (onPwr s fun p => { p with failing := some ⟨r.val, code, s.pwr.mode⟩ })
  if x.retrySeq then (if reacts s3 then react r s3 else onRail s3 r fun x => { x with mode := .faulted, stop := x.enPin })
  else match grp with
    | some q =>
      -- the shed rails of a resume are retried as a power-up's are, and then latch the device
      if q.1 = 4 ∧ (s.pwr.mode ≠ 0 ∨ q.2 ≥ s.pwr.retries) then latches s3 else
      let s4 := onPwr s3 fun p => { p with groupSeqs := p.groupSeqs.map fun k => if k.1 = q.1 then (k.1, k.2 + 1) else k }
      settleOff (shutRails (seqRails s4 q.1) s4)
    | none =>
      if s.pwr.mode = 0 ∧ s.pwr.retry < s.pwr.retries then shutdownAll 2 s3
      else latches s3
/-! ## Rows of the rails -/
def badCode : RailBad → Nat
  | .uv => 1 | .ov => 2 | .pg => 3
/-- Readings while GOOD, since the extremes were last read: both are 0 until then (R465). -/
def widen (mv : Nat) (x : Rail) : Rail :=
  { x with minMv := if x.minMv = 0 ∧ x.maxMv = 0 then mv else min x.minMv mv, maxMv := max x.maxMv mv }
def noteMv (mv : Nat) (x : Rail) : Rail := if x.mode = .good then widen mv { x with mv := mv } else { x with mv := mv }
/-- `RAIL_EXCURSION`: a chatter of a rail that is rising, a fault of one that is GOOD. -/
def railExcursion (r : Fin 16) (kind : RailBad) (mv : Nat) (s0 : State) : State :=
  let s := onRail s0 r (noteMv mv)
  let x := s.pwr.rail[r]
  if !x.enPin ∨ !x.cfg.en ∨ (kind = .pg ∧ !x.cfg.pgEn) then s0
  else match x.mode with
    | .rising =>
      let s1 := onRail s r fun x => { x with attempts := min 3 (x.attempts + 1), inWin := decide (kind = .pg) }
      if x.attempts + 1 ≥ 3 ∧ !x.stop then startFail r 5 s1 else s1
    | .good => railFault r (badCode kind) mv s
    | _ => onRail s r fun x => { x with inWin := decide (kind = .pg) }
def execRailExcursion (r : Fin 16) (kind : RailBad) (mv : Nat) (s : State) : Host.Outcome State Fault Refusal := .next (railExcursion r kind mv s)
/-- `RAIL_GLITCH`. -/
def railGlitch (r : Fin 16) (s : State) : State :=
  if (s.pwr.rail[r]).enPin then onRail s r fun x => { x with glitch := sat 16 (x.glitch + 1) } else s
def execRailGlitch (r : Fin 16) (s : State) : Host.Outcome State Fault Refusal := .next (railGlitch r s)
/-- `RAIL_STABLE`. -/
def railStable (r : Fin 16) (s : State) : State :=
  let x := s.pwr.rail[r]
  if x.enPin ∧ (x.mode = .rising ∨ x.mode = .out) then
    -- the reading is the board's: some value of the window
    let (v, s1) := s.draw
    let mv := x.cfg.uv + bits v 0 12 % (x.cfg.ov - x.cfg.uv + 1)
    settleStart (onRail s1 r fun x =>
      widen mv { x with mv := mv, mode := .good, inWin := true, pgPin := x.pgPin || x.cfg.pgEn, start := false, retrySeq := false })
  else s
def execRailStable (r : Fin 16) (s : State) : Host.Outcome State Fault Refusal := .next (railStable r s)
/-- `RAIL_RISE_TIMEOUT`. -/
def railRiseTimeout (r : Fin 16) (s : State) : State :=
  let x := s.pwr.rail[r]
  if x.enPin ∧ x.mode = .rising ∧ !x.stop then startFail r 4 s else s
def execRailRiseTimeout (r : Fin 16) (s : State) : Host.Outcome State Fault Refusal := .next (railRiseTimeout r s)
/-- `RAIL_ENABLE`: every rail it depends on is GOOD. -/
def railEnable (r : Fin 16) (s : State) : State :=
  let x := s.pwr.rail[r]
  if x.start ∧ !x.enPin ∧ x.mode ≠ .falling ∧ allRails.all (fun d => !x.cfg.dep.getLsbD d || (railAt s d).mode.isGood) then
    onRail s r fun x => { x with enPin := true, mode := .rising, attempts := 0, inWin := false, pgPin := false }
  else s
def execRailEnable (r : Fin 16) (s : State) : Host.Outcome State Fault Refusal := .next (railEnable r s)
/-- `RAIL_DISABLE`: every enabled rail that depends on it has fallen. -/
def railDisable (r : Fin 16) (s : State) : State :=
  let x := s.pwr.rail[r]
  if x.stop ∧ x.enPin ∧ allRails.all (fun d => !(railAt s d).cfg.dep.getLsbD r.val || !(railAt s d).alive) then
    onRail s r fun x => { x with enPin := false, mode := .falling, stop := false, inWin := false }
  else s
def execRailDisable (r : Fin 16) (s : State) : Host.Outcome State Fault Refusal := .next (railDisable r s)
/-- A rail is off; its reading is some value below its FALL threshold. -/
def fallen (r : Fin 16) (s : State) : State :=
  let (v, s1) := s.draw
  settleOff (onRail s1 r fun x => { x with mode := .off, inWin := false, mv := bits v 0 12 % max 1 x.cfg.fall, pgPin := false })
/-- `RAIL_FALLEN`. -/
def railFallen (r : Fin 16) (s : State) : State := if (s.pwr.rail[r]).mode = .falling then fallen r s else s
def execRailFallen (r : Fin 16) (s : State) : Host.Outcome State Fault Refusal := .next (railFallen r s)
/-- `RAIL_FALL_SLOW`: taken as fallen. -/
def railFallSlow (r : Fin 16) (mv : Nat) (s : State) : State :=
  if (s.pwr.rail[r]).mode = .falling then
    fallen r (raisePwrLim 0x0F12 r.val [(16, r.val), (20, mv)]
      (onPwr (onRail s r fun x => { x with lastFault := 6, mv := mv }) fun p => { p with fault := p.fault ||| BitVec.ofNat 16 (2 ^ r.val) }))
  else s
def execRailFallSlow (r : Fin 16) (mv : Nat) (s : State) : Host.Outcome State Fault Refusal := .next (railFallSlow r mv s)
/-! ## The rail table (R463, R464) -/
def tableWord (b : List Byte) (off : Nat) : BitVec 32 := BitVec.ofNat 32 (field b off 4)
/-- The settings that a table's four words of a rail spell. -/
def railOf (b : List Byte) (r : Nat) : RailCfg :=
  let w (k : Nat) : BitVec 32 := tableWord b (8 + 16 * r + 4 * k)
  { en := (w 1).getLsbD 24, uv := bits (w 0) 0 12, ov := bits (w 0) 16 12, fall := bits (w 1) 0 12, filt := bits (w 1) 12 4,
    stable := bits (w 1) 16 8, pgEn := (w 1).getLsbD 25, retain := (w 1).getLsbD 26, shed := (w 1).getLsbD 27, group := bits (w 1) 28 2,
    dep := (w 2).extractLsb' 0 16, delay := bits (w 2) 16 8, riseTo := bits (w 2) 24 8, shutDelay := bits (w 3) 0 8, fallTo := bits (w 3) 8 8,
    react := bits (w 3) 16 2, n := bits (w 3) 20 3, g := bits (w 3) 24 2 }
def railWords (c : RailCfg) : List Byte :=
  leBytes 4 (pack [(0, c.uv), (16, c.ov)])
    ++ leBytes 4 (pack [(0, c.fall), (12, c.filt), (16, c.stable), (24, b2n c.en), (25, b2n c.pgEn), (26, b2n c.retain), (27, b2n c.shed), (28, c.group)])
    ++ leBytes 4 (pack [(0, c.dep.toNat), (16, c.delay), (24, c.riseTo)])
    ++ leBytes 4 (pack [(0, c.shutDelay), (8, c.fallTo), (16, c.react), (20, c.n), (24, c.g)])
def rstOf (b : List Byte) (k : Nat) : BitVec 16 × Nat := let w := tableWord b (264 + 8 * k); (w.extractLsb' 0 16, bits w 16 10)
def hubOf (b : List Byte) : HubCfg :=
  let a := tableWord b 312; let c := tableWord b 316; let e := tableWord b 320
  ⟨a.getLsbD 0, bits a 4 8, bits a 16 14, bits c 0 16, bits c 16 16, bits e 0 12, bits e 16 8, bits e 24 7⟩
def hubWords (h : HubCfg) : List Byte :=
  leBytes 4 (pack [(0, b2n h.cells4), (4, h.hyst), (16, h.target)]) ++ leBytes 4 (pack [(0, h.div), (16, h.rload)])
    ++ leBytes 4 (pack [(0, h.chgTo), (16, h.measH), (24, h.capEol)])
/-- Rails enabled once their dependencies are: what is left has a cycle or a dependency that is not enabled. -/
def placedRails (cs : List RailCfg) : Nat → List Nat → List Nat
  | 0, p => p
  | n + 1, p =>
    placedRails cs n (allRails.filter fun r =>
      let c := cs.getD r (RailCfg.rom false 0 0 false)
      c.en && allRails.all fun d => !c.dep.getLsbD d || p.contains d)
/-- One rail of a table that fails nothing of R464. -/
def railOk (b : List Byte) (cs : List RailCfg) (r : Nat) : Bool :=
  let c := railOf b r
  let w (k : Nat) : BitVec 32 := tableWord b (8 + 16 * r + 4 * k)
  let at_ (d : Nat) : RailCfg := cs.getD d c
  let std := RailCfg.romTable[Fin.ofNat 16 r]
  (w 0 &&& 0xF000F000) == 0 && (w 1 &&& 0xC0000000) == 0 && (w 3 &&& 0xFC8C0000) == 0
    && decide (c.filt ≤ 14) && decide (1 ≤ c.stable) && decide (1 ≤ c.riseTo) && decide (1 ≤ c.fallTo)
    && (if c.react = 1 then decide (1 ≤ c.n) else decide (c.n = 0)) && (c.react == 2 || c.g == 0)
    && (!c.en || (decide (c.fall < c.uv) && decide (c.uv < c.ov) && decide (c.ov ≤ 1200)
        && allRails.all (fun d => !c.dep.getLsbD d || (at_ d).en) && (placedRails cs 16 []).contains r))
    && (if r < 8 then c.en && c.dep == std.dep && c.retain == std.retain && !c.shed else !c.retain)
    && (!c.retain || c.react == 0 || c.react == 3)
    && (c.react != 2 || !(allRails.any fun d => (at_ d).retain && (at_ d).group == c.g))
    && (c.shed || !(allRails.any fun d => c.dep.getLsbD d && (at_ d).shed))
def hubOk (b : List Byte) : Bool :=
  let h := hubOf b
  (tableWord b 312 &&& 0xC000F00E) == 0 && (tableWord b 320 &&& 0x8000F000) == 0 && within 1 h.hyst 50 && within 2500 h.target 10800
    && decide (h.target ≤ 2700 * (if h.cells4 then 4 else 2)) && within 1000 h.div 12000 && within 100 h.rload 10000 && within 10 h.chgTo 4000
    && within 1 h.measH 168 && within 50 h.capEol 95
def seqOk (b : List Byte) : Bool := let w := tableWord b 324; (w &&& 0xC000FFF8) == 0 && within 500 (bits w 16 14) 10000
def rstOk (b : List Byte) (k : Nat) : Bool :=
  (tableWord b (264 + 8 * k) &&& 0xFC000000) == 0 && field b (268 + 8 * k) 4 == 0 && within 1 (rstOf b k).2 1000
/-- R464: none where the table is valid, else the first failing rail, or 0xFF. -/
def tableBad (b : List Byte) : Option Nat :=
  let cs := allRails.map (railOf b)
  match allRails.find? fun r => !railOk b cs r with
  | some r => some r
  | none =>
    if decide (b.length = 384) && field b 0 4 == 0x52414954 && field b 4 1 == 1 && zeros b 5 3 && zeros b 328 52
        && field b 380 4 == (crc32 (b.take 380)).toNat && (List.range 6).all (rstOk b) && hubOk b && seqOk b then none
    else some 0xFF
def withCrc (b : List Byte) : List Byte := b ++ leBytes 4 (crc32 b).toNat
/-- The table in force. -/
def tableNow (p : Pwr) : List Byte :=
  withCrc (leBytes 4 0x52414954 ++ [1, 0, 0, 0] ++ p.rail.toList.flatMap (fun x => railWords x.cfg)
    ++ p.rst.toList.flatMap (fun o => leBytes 4 (pack [(0, o.rails.toNat), (16, o.stretch)]) ++ rep 4 0) ++ hubWords p.hub
    ++ leBytes 4 (pack [(0, p.retries), (16, p.retryOff)]) ++ rep 52 0)
def storedTable (s : State) : Option (List Byte) := storedRec s 9 0x10 0
def romPwr (p : Pwr) : Pwr :=
  { p with rail := Vector.ofFn fun r : Fin 16 => { p.rail[r] with cfg := RailCfg.romTable[r] },
           rst := p.rst.map fun o => { o with rails := 0x00FF, stretch := 20 }, hub := HubCfg.rom, retries := 3, retryOff := 500, tableRom := true }
def tablePwr (b : List Byte) (p : Pwr) : Pwr :=
  { p with rail := Vector.ofFn fun r : Fin 16 => { p.rail[r] with cfg := railOf b r.val },
           rst := Vector.ofFn fun k : Fin 6 => { p.rst[k] with rails := (rstOf b k.val).1, stretch := (rstOf b k.val).2 },
           hub := hubOf b, retries := bits (tableWord b 324) 0 3, retryOff := bits (tableWord b 324) 16 14, tableRom := false }
/-- The rail table is read (R463): the ROM default where none is stored or its CRC fails. -/
def readTable (s : State) : State :=
  match storedTable s with
  | some b => if field b 380 4 = (crc32 (b.take 380)).toNat then onPwr s (tablePwr b) else onPwr s romPwr
  | none => onPwr s romPwr
/-! ## Sequences (R444–R447) -/
/-- Every rail that is used is to be started. -/
def startAll (s : State) : State :=
  mapRails (fun x => { x with start := x.cfg.en, stop := false, attempts := 0, retries := 0, retrySeq := false }) s
/-- `SEQUENCE_START` at a power-up: the table is read and the mode settled (R445); the headwater charges again (R456). -/
def sequenceStart (s : State) : State :=
  if s.pwr.seq ≠ .off ∨ !s.pwr.vddAon ∨ !s.slu.inputGood ∨ !s.pwr.minOffDone then s
  else
    let s1 := readTable s
    let mode := if s1.pwr.tableRom ∨ s1.pwr.tableNew then 1 else s1.pwr.nextMode
    let s2 := onPwr s1 fun p => { p with mode := mode, tableNew := false, nextMode := 0, retry := 0, capLow := false, reachedTarget := false,
                                         hubSt := .idle }
    toSeq .starting (startAll s2)
def execSequenceStart (s : State) : Host.Outcome State Fault Refusal := .next (sequenceStart s)
/-- `RETRY_OFF_EXPIRE`: the whole sequence again, in the same mode. -/
def retryOffExpire (s : State) : State :=
  if s.pwr.seq ≠ .offWait ∨ s.pwr.offThen ≠ 2 then s
  else toSeq .starting (startAll (logDue 3 0xFF 0 0 (onPwr s fun p => { p with retry := p.retry + 1, offThen := 0, minOffDone := true, hubSt := .idle })))
def execRetryOffExpire (s : State) : Host.Outcome State Fault Refusal := .next (retryOffExpire s)
/-- `MIN_OFF_EXPIRE`: a power-up follows once the input is good. -/
def minOffExpire (s : State) : State :=
  if s.pwr.seq ≠ .offWait ∨ s.pwr.offThen ≠ 1 then s
  else toSeq .off (onPwr s fun p => { p with minOffDone := true, offThen := 0 })
def execMinOffExpire (s : State) : Host.Outcome State Fault Refusal := .next (minOffExpire s)
/-! ## The hold-up bank (R455–R460) -/
/-- `HUB_CHG` and `HUB_BAL` from the bank voltage (R456). CHG_TIMEOUT clears at TARGET or where `HUB_CHG` rises anew (log entry 197). -/
def drivesHub (mv : Nat) (p : Pwr) : Pwr :=
  let t := p.hub.target
  let low := t - 10 * p.hub.hyst
  let held := p.overvolt && decide (t ≤ mv)
  let o := held || decide (mv * 100 > t * 105)
  let chg := if o then false else if mv < low then true else if t ≤ mv then false else p.chg
  { p with overvolt := o, chg := chg, bal := o || decide (low ≤ mv), reachedTarget := p.reachedTarget || decide (t ≤ mv),
           chgTimeout := p.chgTimeout && decide (mv < t) && (p.chg || !chg),
           hubSt := if o then .overvolt else if chg then .charging else if low ≤ mv then .full else .idle }
/-- BANK_READY (R460). -/
def bankReadyAt (s : State) : Bool :=
  let c := s.ret.weir.cal
  let cap := (capIn s).getD (c.cap * 70 / 100)
  match bankVolt s with
  | none => false
  | some v => decide (usableEnergy cap v c.vfloor c.eff ≥ psaveIn s * c.tfix * 100)
/-- e^(−num/den) in units of 10^−9, by its series. -/
def expNeg (num den : Nat) : Nat :=
  let one : Int := 1000000000000
  let x : Int := (num : Int) * one / (max 1 den : Nat)
  let r := (List.range 40).foldl (fun (acc : Int × Int) k => let t := -(acc.2 * x) / (one * (k + 1)); (acc.1 + t, t)) (one, one)
  (max 0 r.1).toNat / 1000
/-- The voltage at the end of a measurement, as R457 predicts it. -/
def endVoltage (s : State) : Nat :=
  let h := s.pwr.hub
  let r := 10 * h.rload + s.pwr.esr.getD s.ret.weir.cal.esr
  let c := s.pwr.cap.getD s.ret.weir.cal.cap
  max (h.target * 9 / 10) (s.pwr.vbank * expNeg 100000 (r * c) / 1000000000)
/-- R158: a measurement waits until the allowance at its end voltage is at least the count. -/
def measureAllowed (s : State) : Bool :=
  match capIn s with
  | none => decide (s.count = 0)
  | some c => decide (allowance s c (endVoltage s) / 256 ≥ s.count)
/-- Start a measurement that is due, or defer it. -/
def tryMeasure (s : State) : State :=
  if !(s.pwr.measDue || s.pwr.measCmd) ∨ s.glb.state ≠ 2 ∨ s.pwr.hubSt = .measuring ∨ s.pwr.hubSt = .saving then s
  else if !measureAllowed s then s.onWeir fun w => { w with measDefer := true }
  else
    (onPwr s fun p => { p with hubSt := .measuring, chg := false, bal := false, load := true, measDue := false, v0 := p.vbank }).onWeir fun w => { w with measDefer := false }
/-- `HUB_SAMPLE`. -/
def hubSample (mv : Nat) (s : State) : State :=
  let s1 := onPwr s fun p => { p with vbank := mv, samples := (mv :: p.samples).take 100 }
  let was := s.pwr.overvolt
  let s2 := if s.pwr.hubSt = .measuring ∨ s.pwr.hubSt = .saving then s1 else onPwr s1 (drivesHub mv)
  let s3 := if s2.pwr.overvolt ∧ !was then logDue 9 0xFF mv 0 (raisePwr 0x0F16 [(16, 1), (20, mv)] s2) else s2
  tryMeasure (onPwr s3 fun p => { p with bankReady := bankReadyAt s3 })
def execHubSample (mv : Nat) (s : State) : Host.Outcome State Fault Refusal := .next (hubSample mv s)
/-- `HUB_CHARGE_TIMEOUT`: charging continues. -/
def hubChargeTimeout (s : State) : State :=
  if !s.pwr.chg ∨ s.pwr.chgTimeout then s
  else logDue 9 0xFF s.pwr.vbank 0 (raisePwr 0x0F16 [(16, 2), (20, s.pwr.vbank)] (onPwr s fun p => { p with chgTimeout := true }))
def execHubChargeTimeout (s : State) : Host.Outcome State Fault Refusal := .next (hubChargeTimeout s)
/-- `HUB_MEAS_DUE`: READY and the bank has reached its target. -/
def hubMeasDue (s : State) : State :=
  if s.glb.state = 2 ∧ s.pwr.reachedTarget then tryMeasure (onPwr s fun p => { p with measDue := true }) else s
def execHubMeasDue (s : State) : Host.Outcome State Fault Refusal := .next (hubMeasDue s)
/-- ln(a/b) in units of 10^−9, for a ≥ b > 0, by the series of the area tangent. -/
def lnRatio (a b : Nat) : Nat :=
  let one := 1000000000000
  let z := (a - b) * one / max 1 (a + b)
  let r := (List.range 40).foldl (fun (acc : Nat × Nat) k => (acc.1 + acc.2 / (2 * k + 1), acc.2 * z / one * z / one)) (0, z)
  2 * r.1 / 1000
/-- ESR in 0.1 mΩ and C in 10 mF from a measurement (R458). -/
def esrOf (rload v0 v1 : Nat) : Nat := rload * 10 * (v0 - v1) / max 1 v1
def capOf (rload esr v1 v2 us : Nat) : Nat := us * 1000000000 / max 1 ((10 * rload + esr) * lnRatio v1 v2)
/-- The COUNTERS record of the bank (R492). -/
def bankRecord (s : State) : Nat × Nat × Nat × List Byte × LdgUse :=
  (8, 0x41, 0, leBytes 2 (s.pwr.cap.getD 0) ++ leBytes 2 (s.pwr.esr.getD 0) ++ leBytes 2 (s.pwr.psave.getD 0) ++ rep 2 0 ++ leBytes 8 s.pwr.measTime,
   .counters 0x41)
/-- `HUB_MEAS_END`. Where the bank did not fall, the formula gives no capacitance, and the value is free (log entry 55). -/
def hubMeasEnd (v0 v1 v2 us : Nat) (s : State) : State :=
  if s.pwr.hubSt ≠ .measuring then s
  else
    let rl := s.pwr.hub.rload
    let e := sat 16 (esrOf rl v0 v1)
    let (x, s0) := s.draw
    let c := if v1 ≤ v2 ∨ v2 = 0 then bits x 0 16 else sat 16 (capOf rl e v1 v2 us)
    let s1 := onPwr s0 fun p => { p with hubSt := .idle, load := false, cap := some c, esr := some e, measured := true, measAge := 0,
                                         measAt := s.now, measTime := copyNat s.bkd, v0 := v0, v1 := v1, measCmd := false, measRaise := true }
    let s2 := logDue 8 0xFF v0 (pack [(0, c), (16, e)]) s1
    let low := decide (c * 100 < s.pwr.hub.capEol * s.ret.weir.cal.cap)
    let s3 := if low ∧ !s.pwr.capLow then
        logDue 9 0xFF v0 0 (raisePwr 0x0F16 [(16, 3), (20, v0)] (onPwr s2 fun p => { p with capLow := true }))
      else s2
    ldgEnqueue [bankRecord s3] s3
def execHubMeasEnd (v0 v1 v2 us : Nat) (s : State) : Host.Outcome State Fault Refusal := .next (hubMeasEnd v0 v1 v2 us s)
/-- At T0 a measurement is abandoned, and the bank is left to the save where its cause is 1 to 5 (R456, R457). -/
def hubAtT0 (cause : Nat) (s : State) : State :=
  let meas := s.pwr.hubSt = .measuring
  let s1 := if s.pwr.measCmd ∨ meas then
      wake (fun w => match w with | .hubMeasure => .done St.aborted none | _ => .go) (onPwr s fun p => { p with measCmd := false, load := false })
    else s
  onPwr (s1.onWeir fun w => { w with measDefer := w.measDefer && s1.pwr.measDue }) fun p =>
    if cause ≤ 5 then { p with hubSt := .saving, chg := false, bal := false, load := false } else { p with hubSt := if meas then .idle else p.hubSt }
/-! ## Commands (R466) -/
def pwrStat (p : Pwr) (good : Nat) : Word :=
  packW [(0, p.seq.code), (4, p.mode), (8, min 7 p.retry), (11, b2n p.tableRom), (16, good)]
def pwrQueryInfo : CmdInfo := { op := 0x0F10, auth := auObserve }
def pwrQuery (d : Desc) (s : State) : State :=
  command pwrQueryInfo d true (fun _ s =>
    finish d St.ok (pack [(0, (pwrStat s.pwr (goodMask s)).toNat), (32, s.pwr.fault.toNat), (48, sat 16 s.pwr.vbank)]) s) s
def execPwrQuery (d : Desc) (s : State) : Host.Outcome State Fault Refusal := .next (pwrQuery d s)
def RailMode.code : RailMode → Nat
  | .off => 0 | .rising => 1 | .good => 2 | .out => 3 | .falling => 4 | .faulted => 5
def railStat (x : Rail) : Word :=
  packW [(0, x.mode.code), (3, b2n x.enPin), (4, b2n x.inWin), (5, b2n x.pgPin), (6, x.attempts), (8, min 7 x.retries), (12, x.lastFault)]
def pwrRailQueryInfo : CmdInfo := { op := 0x0F11, auth := auObserve, used := [(16, 8)] }
def pwrRailQuery (d : Desc) (s : State) : State :=
  command pwrRailQueryInfo d (decide (d.p 16 1 < 16)) (fun _ s =>
    let x := railAt s (d.p 16 1)
    finish d St.ok (pack [(0, (railStat x).toNat), (32, x.mv % 4096)]) s) s
def execPwrRailQuery (d : Desc) (s : State) : Host.Outcome State Fault Refusal := .next (pwrRailQuery d s)
def pwrTableWriteInfo : CmdInfo := { op := 0x0F12, auth := auMaintain, used := [(16, 96)], buf := some 16 }
/-- `PWR_TABLE_WRITE`: in force from the next power-up, in FIRST mode. -/
def pwrTableWrite (d : Desc) (given : List Byte) (s : State) : State :=
  let buf := bufferOf s d 0x0F12 given
  command pwrTableWriteInfo d (decide (d.p 24 4 = 384) && decide (buf.length = 384)) (fun _ s =>
    match tableBad buf with
    | some r => finish d St.pwrTable r s
    | none => storing d 0x0F12 [(9, 0x10, 0, buf, .railTable)] 0 s) s
def execPwrTableWrite (d : Desc) (buf : List Byte) (s : State) : Host.Outcome State Fault Refusal := .next (pwrTableWrite d buf s)
def pwrTableReadInfo : CmdInfo := { op := 0x0F13, auth := auObserve, used := [(16, 72)], buf := some 16 }
/-- `PWR_TABLE_READ`: with nothing stored, the stored table reads as the ROM default (log entry 56). -/
def pwrTableRead (d : Desc) (s : State) : State :=
  command pwrTableReadInfo d (decide (d.p 24 1 ≤ 1)) (fun _ s =>
    let b := if d.p 24 1 = 0 then tableNow s.pwr else (storedTable s).getD (tableNow (romPwr s.pwr))
    finishData d St.ok 0 (d.p 16 8) b s) s
def execPwrTableRead (d : Desc) (s : State) : Host.Outcome State Fault Refusal := .next (pwrTableRead d s)
def pwrGroupInfo : CmdInfo := { op := 0x0F14, auth := auConfigure, used := [(16, 16)] }
def pwrGroup (d : Desc) (s : State) : State :=
  let g := d.p 16 1
  let on := decide (d.p 17 1 = 1)
  command pwrGroupInfo d (decide (g < 4) && decide (d.p 17 1 ≤ 1)) (fun _ s =>
    let rs := groupRails s g
    if holdsRetain s g then finish d St.pwrRetain 0 s
    else if on then
      (if rs.any (fun r => allRails.any fun k => (railAt s r).cfg.dep.getLsbD k && !rs.contains k && !(railAt s k).mode.isGood) then
        finish d St.pwrDep 0 s
       else if rs.all (fun r => (railAt s r).mode.isGood) then finish d St.ok 0 s
       else
        (let s1 := rs.foldl (fun s r => if (railAt s r).mode.isGood then s else onRail s (Fin.ofNat 16 r) fun x => { x with retries := 0 })
            (startRails rs s)
         running d (.group g true) 0 (onPwr s1 fun p => { p with groupSeqs := (g, 0) :: p.groupSeqs.filter fun q => q.1 ≠ g })))
    else
      let s1 := onPwr (shutRails (withDependants s rs) s) fun p => { p with groupSeqs := p.groupSeqs.filter fun q => q.1 ≠ g }
      settleOff (running d (.group g false) 0 s1)) s
def execPwrGroup (d : Desc) (s : State) : Host.Outcome State Fault Refusal := .next (pwrGroup d s)
def pwrLatchClearInfo : CmdInfo := { op := 0x0F15, auth := auMaintain }
/-- `PWR_LATCH_CLEAR`: a sequence follows in RECOVERY mode once the input is good; the record is logged at READY. -/
def pwrLatchClear (d : Desc) (s : State) : State :=
  command pwrLatchClearInfo d true (fun _ s =>
    if s.pwr.seq ≠ .latched then finish d St.ok 0 s
    else finish d St.ok 0 (toSeq .off (onPwr s fun p => { p with latchDue := p.latch, latch := none, nextMode := 3, minOffDone := true }))) s
def execPwrLatchClear (d : Desc) (s : State) : Host.Outcome State Fault Refusal := .next (pwrLatchClear d s)
def pwrHubMeasureInfo : CmdInfo := { op := 0x0F16, auth := auConfigure }
def pwrHubMeasure (d : Desc) (s : State) : State :=
  command pwrHubMeasureInfo d true (fun _ s => tryMeasure (running d .hubMeasure 0 (onPwr s fun p => { p with measCmd := true }))) s
def execPwrHubMeasure (d : Desc) (s : State) : Host.Outcome State Fault Refusal := .next (pwrHubMeasure d s)
/-- `PWR_HUB_MEASURE_TIMEOUT`: deferred for more than 10 s. -/
def pwrHubMeasureTimeout (s : State) : State :=
  if !s.pwr.measCmd ∨ s.pwr.hubSt = .measuring then s
  else wake (fun w => match w with | .hubMeasure => .done St.timeout none | _ => .go)
    ((onPwr s fun p => { p with measCmd := false }).onWeir fun w => { w with measDefer := w.measDefer && s.pwr.measDue })
def execPwrHubMeasureTimeout (s : State) : Host.Outcome State Fault Refusal := .next (pwrHubMeasureTimeout s)
def pwrCycleInfo : CmdInfo := { op := 0x0F17, auth := auMaintain, used := [(16, 1)] }
/-- A save asked for by a command: its T0 follows the completion (R218). -/
def orderSave (cause : Nat) (d : Desc) (s : State) : State :=
  finish d St.ok 0 { s with boot := { s.boot with saveDue := some cause } }
def pwrCycle (d : Desc) (s : State) : State :=
  command pwrCycleInfo d true (fun _ s => orderSave 7 d (onPwr s fun p => { p with nextMode := if d.bit 16 0 then 2 else 0 })) s
def execPwrCycle (d : Desc) (s : State) : Host.Outcome State Fault Refusal := .next (pwrCycle d s)
/-- What the sequencer reports at READY (R447, R451). -/
def pwrAtReady (s : State) : State :=
  let s1 := s.pwr.heldEvents.foldl (fun s e => s.deliver e) (onPwr s fun p => { p with heldEvents := [] })
  match s.pwr.latchDue with
  | none => s1
  | some l =>
    let w := pack [(0, l.rail), (4, l.fault), (8, l.mode), (16, 1)]
    logDue 5 0xFF 0 0 (logDue 4 l.rail 0 0 ((onPwr s1 fun p => { p with latchDue := none }).raise 0x0F14 0 [(16, w)]))
end Sys2Proof.Machine
end

