-- ==== Sys2Proof/Machine/TribOps.lean ====
section
/-! DEFINITION. Tributary ports: the module table, arrival and departure, storing inputs, capturing outputs, and Nymzel
frames (chapter 11). A legacy port's sequencer uses the same operations. -/
namespace Sys2Proof.Machine
def tribAt (s : State) (n : Fin 12) : Trib := s.trib[n]
def modAt (s : State) (n : Fin 12) (a : Fin 255) : Mod := s.trib[n].mods[a]
def tribLife (s : State) (n : Fin 12) : Life := s.lifeOf .trib n.val
/-- RUNNING, and not stopped by a save, during which the port is still shown as RUNNING (R191). -/
def tribRuns (s : State) (n : Fin 12) : Bool := tribLife s n = .running && s.glb.state != 3
def tribAlive (s : State) (n : Fin 12) : Bool := (tribLife s n = .running || tribLife s n = .draining) && s.glb.state != 3
def listening (s : State) (n : Fin 12) : Bool := tribRuns s n && !(tribAt s n).token
/-- The pins of a port whose groups are both unused, or of a serial port that sends nothing (R19, R523): TXD high, DE low, the SGMII
lanes powered where `sg` says so. -/
def idlePins (n : Fin 12) (sg : Bool) (s : State) : State := onTrib s n fun t => { t with txd := true, de := false, sgOn := sg }
def tribErr (n : Fin 12) (m : BitVec 6) (s : State) : State := onTrib s n fun t => { t with errs := t.errs ||| m }
def isEth (t : Trib) : Bool := t.cfg.pers = 1
def isLegacy (t : Trib) : Bool := t.cfg.pers = 2
def addrOk (t : Trib) (a : Nat) : Bool := decide (1 ≤ a) && decide (a ≤ topAddr t)
def modAddrs : List (Fin 255) := (List.range 254).map fun i => Fin.ofNat 255 (i + 1)
/-! ## Identity records (R349, R356) -/
def identF (i : Ident) (off n : Nat) : Nat := (i.toNat >>> (8 * off)) % 2 ^ (8 * n)
def identUid (i : Ident) : BitVec 64 := BitVec.ofNat 64 (identF i 0 8)
def inLen (i : Ident) : Nat := identF i 22 2
def outLen (i : Ident) : Nat := identF i 24 2
def identPoints (i : Ident) : Nat := identF i 14 2 + identF i 16 2
def identWords (i : Ident) : Nat := identF i 18 2 + identF i 20 2
def safeCap (m : Mod) : Bool := match m.ident with | some i => i.getLsbD 224 | none => false
def uidOf (m : Mod) : Nat := match m.ident with | some i => (identUid i).toNat | none => 0
def ModSt.isIn (m : ModSt) : Bool := m = .active || m = .stale || m = .mismatch
def ModSt.isLive (m : ModSt) : Bool := m = .active || m = .stale
/-- Sum of `f` over the modules of a port that `p` selects, module `a` of port `n` apart. -/
def sumMods (s : State) (n : Fin 12) (p : ModSt → Bool) (f : Ident → Nat) (skip : Option (Fin 12 × Fin 255)) : Nat :=
  (modAddrs.map fun a =>
    let m := modAt s n a
    if p m.state && decide (skip ≠ some (n, a)) then f (m.ident.getD 0) else 0).sum
def sumAll (s : State) (p : ModSt → Bool) (f : Ident → Nat) (skip : Option (Fin 12 × Fin 255)) : Nat :=
  ((List.range 12).map fun n => sumMods s (Fin.ofNat 12 n) p f skip).sum
def expects (m : Mod) (i : Ident) : Bool :=
  (m.expVendor = 0 || decide (m.expVendor.toNat = identF i 8 2)) && (m.expProduct = 0 || decide (m.expProduct.toNat = identF i 10 2))
/-- The reason a record is not acceptable at an address, if any (R356, R372). -/
def unacceptable (s : State) (n : Fin 12) (a : Fin 255) (i : Ident) : Option Nat :=
  let t := tribAt s n
  let me := some (n, a)
  if !expects (modAt s n a) i then some 1
  else if 1 + (inLen i + 255) / 256 * 2 > t.cfg.inStride ∨ 1 + (outLen i + 255) / 256 > t.cfg.outStride then some 3
  else if sumAll s ModSt.isIn (fun _ => 1) me + 1 > 2048 ∨ sumAll s ModSt.isLive identPoints me + identPoints i > 1048576
      ∨ sumAll s ModSt.isLive identWords me + identWords i > 131072 ∨ sumMods s n ModSt.isLive outLen me + outLen i > 65536 then some 2
  else none
/-! ## Storing inputs (R358–R361) -/
/-- Slot `1 - CUR` is latched by a host read (R360). -/
def slotLatched (m : Mod) : Bool := match m.latched with | some (slot, _) => slot == !m.cur | none => false
def lineBytes (bs : List Byte) (i : Nat) : List Byte := let b := (bs.drop (256 * i)).take 256; b ++ rep (256 - b.length) 0
/-- Store the staged update: the slot's lines, then the header that names it (R359). -/
def storeStaged (n : Fin 12) (a : Fin 255) (s : State) : State :=
  let t := tribAt s n
  let m := modAt s n a
  match m.heldUp with
  | none => s
  | some u =>
    if slotLatched m then s else
    let w := !m.cur
    let base := inBlock t a + 1 + (if w then (t.cfg.inStride - 1) / 2 else 0)
    let s1 := (List.range ((u.bytes.length + 255) / 256)).foldl (fun s i => putLine (tribPort n) (base + i) (lineBytes u.bytes i) s) s
    let s2 := onMod s1 n a fun m =>
      { m with heldUp := none, cur := w, seq := m.seq + 1, hLen := u.len, mstat := u.mstat, time := u.time, outAck := u.ack,
               hStale := if u.zeroed then true else m.hStale && m.state ≠ .active,
               hZeroed := if u.zeroed then true else m.hZeroed && m.state ≠ .active }
    writeHeader n a s2
/-- Stage an update. One that waits behind a latch is replaced, and counted; one that waits for nothing is stored first (R360). -/
def stageInput (n : Fin 12) (a : Fin 255) (u : InUpdate) (s : State) : State :=
  let m := modAt s n a
  let s1 := if m.heldUp.isSome && slotLatched m then onTrib s n fun t => { t with overwrite := sat 32 (t.overwrite + 1) } else storeStaged n a s
  onMod s1 n a fun m => { m with heldUp := some u }
/-! ## Arrival and departure (R344, R356, R361) -/
/-- The STALE policy of a departing module. -/
def stalePolicy (n : Fin 12) (a : Fin 255) (s : State) : State :=
  let m := modAt s n a
  if m.inZero then
    let k := inLen (m.ident.getD 0)
    writeHeader n a (storeStaged n a (stageInput n a ⟨rep k 0, k, m.mstat, s.glb.time, m.outAck, true⟩ s))
  else writeHeader n a (onMod s n a fun m => { m with hStale := true })
def departEvent (n : Fin 12) (a : Fin 255) (cause : Nat) (s : State) : State :=
  s.raise 0x0B11 n [(16, a), (17, cause), (20, uidOf (modAt s n a))]
/-- An ACTIVE module departs. -/
def depart (n : Fin 12) (a : Fin 255) (cause : Nat) (s : State) : State :=
  if (modAt s n a).state = .active then
    stalePolicy n a (departEvent n a cause (onMod s n a fun m => { m with state := .stale }))
  else s
def departAll (n : Fin 12) (cause : Nat) (s : State) : State := modAddrs.foldl (fun s a => depart n a cause s) s
/-- A module arrives, or is found not acceptable. The answer says whether it is now ACTIVE. DEDUCED (log entry 164): a module of
another UID starts with no output image, for the image held has the other module's length. -/
def arrive (n : Fin 12) (a : Fin 255) (s : State) : Bool × State :=
  let m := modAt s n a
  let i := m.ident.getD 0
  match unacceptable s n a i with
  | some r =>
    (false, (onMod s n a fun m => { m with state := .mismatch, assigned := false, reason := r }).raise 0x0B12 n [(16, a), (17, r), (20, uidOf m)])
  | none =>
    let replaced := match m.prevUid with | some u => decide (u ≠ identUid i) | none => false
    let new (m : Mod) : Mod := if replaced then { m with image := none, outState := .none, ackSeq := none } else m
    (true, (onMod s n a fun m => { new m with state := .active, assigned := false, prevUid := some (identUid i) }).raise 0x0B10 n
      [(16, a), (17, b2n (m.state = .stale) + 2 * b2n replaced), (20, uidOf m), (28, identF i 8 2), (30, identF i 10 2)])
/-- A missing or discarded reply (R353). -/
def missed (n : Fin 12) (a : Fin 255) (s : State) : State :=
  let s1 := onTrib (onMod s n a fun m => { m with misses := min 7 (m.misses + 1) }) n fun t => { t with misses := sat 32 (t.misses + 1) }
  let m := modAt s1 n a
  if m.misses < (tribAt s n).cfg.missLimit then s1
  else match m.state with
    | .active => depart n a 1 s1
    | .mismatch => writeHeader n a (departEvent n a 1 (onMod s1 n a fun m => { m with state := .absent }))
    | .absent => onMod s1 n a fun m => { m with assigned := false }
    | _ => s1
/-! ## Output captures (R363–R365) -/
def toOut (n : Fin 12) (a : Fin 255) (st : OutSt) (cause : Nat) (s : State) : State :=
  let old := (modAt s n a).outState
  if old = st then s
  else writeHeader n a ((onMod s n a fun m => { m with outState := st }).raise 0x0B13 n [(16, a), (17, old.code), (18, st.code), (19, cause)])
/-- The lines that a capture reads: the header and OUT_LEN bytes of data. -/
def blockLines (s : State) (n : Fin 12) (a : Fin 255) : List Nat :=
  linesFrom (outBlock (tribAt s n) a * 256) (256 + outLen ((modAt s n a).ident.getD 0))
/-- Capture one published block: header bytes 0 to 7 and OUT_LEN bytes of data, as the close committed them. -/
def captureBlock (n : Fin 12) (a : Fin 255) (s0 : State) : State :=
  let t := tribAt s0 n
  let l := outBlock t a
  let k := outLen ((modAt s0 n a).ident.getD 0)
  let s := (blockLines s0 n a).foldl (fun s l => faultIn l s) s0
  let h := readBytes s (l * 256) 8
  let bad := readPoison s (l * 256) 8 || (decide (0 < k) && readPoison s ((l + 1) * 256) k)
  if bad then
    let s1 := tribErr n 0x10 (poisonUsed (firstPoisoned s (l * 256) (256 + k)) 5 n s)
    toOut n a (if (modAt s n a).poisonSafe then .safe else .hold) 1 s1
  else
    let s1 := onMod s n a fun m => { m with image := some ⟨BitVec.ofNat 32 (field h 0 4), readBytes s ((l + 1) * 256) k⟩ }
    if (h.getD 4 0).getLsbD 0 then toOut n a .safe 2 s1 else toOut n a .normal 3 s1
/-- The next block of the port's list is captured, and its DRAM reads are made (R86, R294). -/
def takeCapture (n : Fin 12) (s : State) : State :=
  match (tribAt s n).captures with
  | [] => s
  | c :: cs =>
    let a : Fin 255 := Fin.ofNat 255 c.addr
    let s1 := captureBlock n a (onTrib s n fun t => { t with captures := cs })
    (blockLines s1 n a).foldl (fun s l => requestValue (tribPort n) l s) s1
/-- A line of the block is not ready to be read: a write that the captured close commits is not applied yet (R86, R364), or its channel
neither takes new work nor has failed for good (R313, R315). -/
def captureStuck (s : State) (n : Fin 12) (c : Capture) : Bool :=
  let ls := blockLines s n (Fin.ofNat 255 c.addr)
  (ls.any fun l => !dchRunning s (channelOf s l) && !dchDead s (channelOf s l))
    || s.ret.writes.any fun p => ls.contains p.line && (match p.epoch with | some (x, k) => x = c.ctx && decide (k ≤ c.epoch) | none => false)
/-- `OUTPUT_CAPTURE`: it waits while the block cannot be read. -/
def outputCapture (n : Fin 12) (s : State) : State :=
  match (tribAt s n).captures with
  | [] => s
  | c :: _ => if captureStuck s n c then s else takeCapture n s
def execOutputCapture (n : Fin 12) (s : State) : Host.Outcome State Fault Refusal := .next (outputCapture n s)
/-! ## Frames (R345–R348) -/
def pduBytes (type dst src seq : Nat) (payload : List Byte) : List Byte :=
  [0x10, BitVec.ofNat 8 type, BitVec.ofNat 8 dst, BitVec.ofNat 8 src] ++ leBytes 2 seq ++ leBytes 2 payload.length ++ payload
/-- A frame on the line: on Ethernet the FCS is the MAC's; a Manchester frame begins with 16 preamble bits 1010…10, sent least
significant bit of a byte first (R340). -/
def frameOf (t : Trib) (dst : BitVec 48) (pdu : List Byte) : List Byte :=
  if isEth t then leBytes 6 dst.toNat ++ leBytes 6 t.cfg.mac.toNat ++ [0x88, 0xB5] ++ pdu ++ rep (46 - pdu.length) 0
  else (if t.cfg.coding then [0x55, 0x55] else []) ++ 0x7E :: pdu ++ leBytes 4 (crc32 pdu).toNat
/-- A frame leaves the port. A serial port drives its DE around it and compares the line with what it sends: whether they differ is
the line's, so that it is a free value (R340; log entry 68). -/
def sendTrib (n : Fin 12) (mac : BitVec 48) (type dst : Nat) (payload : List Byte) (s : State) : State :=
  let t := tribAt s n
  let f := Out.tribFrame n (frameOf t mac (pduBytes type dst 0 t.cycleSeq.toNat payload))
  if isEth t then s.emit f
  else
    let (v, s1) := (((s.emit (.tribDe n true)).emit f).emit (.tribDe n false)).draw
    if v.getLsbD 0 then tribErr n 2 s1 else s1
/-- The fields of a received PDU. -/
structure Pdu where
  ver  : Nat
  type : Nat
  dst  : Nat
  src  : Nat
  seq  : Nat
  len  : Nat
  body : List Byte
deriving DecidableEq, Repr
def pduOf (b : List Byte) : Pdu := ⟨field b 0 1, field b 1 1, field b 2 1, field b 3 1, field b 4 2, field b 6 2, (b.drop 8).take (field b 6 2)⟩
/-- The frame reaches the port at all: on Ethernet, untagged, of the EtherType, and sent to it (R347). -/
def heardBy (t : Trib) (f : RxFrame) : Bool := !isEth t || (f.plain && (f.dst = t.cfg.mac || f.dst = t.cfg.group))
/-- The checks of R350 on any frame. On Ethernet only padding to the minimum size of 46 payload bytes stands after a PDU (R347). -/
def frameOk (t : Trib) (f : RxFrame) : Bool :=
  let p := pduOf f.pdu
  f.good && decide (8 ≤ f.pdu.length) && p.ver == 0x10
    && (decide (8 + p.len = f.pdu.length) || (isEth t && decide (f.pdu.length = 46) && decide (8 + p.len ≤ 46)))
def badFrame (n : Fin 12) (s : State) : State :=
  onTrib s n fun t => { t with framesBad := sat 32 (t.framesBad + 1), errs := t.errs ||| 1 }
def goodFrame (n : Fin 12) (s : State) : State := onTrib s n fun t => { t with framesOk := sat 32 (t.framesOk + 1) }
/-- A cycle ends when every reply has arrived or timed out (R351). -/
def cycleCheck (n : Fin 12) (s : State) : State :=
  let t := tribAt s n
  if t.inCycle ∧ t.toPoll = [] ∧ t.awaiting = [] then
    let us := toUs (s.now - t.cycleStart)
    onTrib s n fun t => { t with inCycle := false, first := false, cycleLast := sat 24 us, cycleMax := sat 24 (max t.cycleMax us) }
  else s
/-- A reply is no longer awaited. -/
def answered (n : Fin 12) (a : Nat) (s : State) : State :=
  onTrib s n fun t => { t with awaiting := t.awaiting.filter (· ≠ a) }
/-- A discarded frame; a reply that it was counts as a miss (R350). -/
def discard (n : Fin 12) (src : Option Nat) (s : State) : State :=
  let t := tribAt s n
  let s1 := badFrame n s
  let a := if isEth t then src.bind fun x => if t.awaiting.contains x then some x else none else t.awaiting.head?
  match a with
  | some x => cycleCheck n (missed n (Fin.ofNat 255 x) (answered n x s1))
  | none => s1
end Sys2Proof.Machine
end

