-- ==== Sys2Proof/Machine/Trib.lean ====
section
/-! DEFINITION. Tributary ports (chapter 11): the poll cycle, discovery, LISTEN, MDIO, and the TRIB commands. -/
namespace Sys2Proof.Machine
/-! ## The poll cycle (R351–R353) -/
/-- Addresses that a cycle polls: ACTIVE, STALE and MISMATCH modules, and those just assigned (R355). -/
def pollList (t : Trib) : List Nat :=
  (modAddrs.filter fun a => let m := t.mods[a]; decide (a.val ≤ topAddr t) && (m.state.isIn || (m.state = .absent && m.assigned))).map (·.val)
/-- The port may transmit Nymzel frames. -/
def mayPoll (s : State) (n : Fin 12) : Bool := tribRuns s n && (tribAt s n).token && !isLegacy (tribAt s n)
/-- `POLL_CYCLE_START`. A roll-call that is due runs first, but for the first cycle after a start (R351, R368). -/
def pollCycleStart (n : Fin 12) (s : State) : State :=
  let t := tribAt s n
  if !mayPoll s n ∨ t.inCycle ∨ t.rollOpen ∨ (t.rollDue ∧ !t.first) then s else
  let late := !t.first && decide (t.cycleLast > t.cfg.cycle)
  let s1 := if late then onTrib s n fun t => { t with overruns := t.overruns + 1, errs := t.errs ||| 8 } else s
  let s2 := if late && s1.mayRaise 0x0B15 n then
      (onTrib (s1.raiseLim 0x0B15 n n [(16, t.cycleLast), (20, (tribAt s1 n).overruns)]) n fun t => { t with overruns := 0 })
    else s1
  cycleCheck n (onTrib s2 n fun t =>
    { t with inCycle := true, cycleSeq := t.cycleSeq + 1, cycleStart := s.now, toPoll := pollList t, awaiting := [] })
def execPollCycleStart (n : Fin 12) (s : State) : Host.Outcome State Fault Refusal := .next (pollCycleStart n s)
/-- What a POLL carries: SAFE, HOLD, or the last image (R352, R365). The OUT_SEQ of a POLL without data is not stated. -/
def pollPayload (s : State) (m : Mod) : List Byte × State :=
  let safe := m.state = .mismatch || m.outState = .safe
  match m.image, safe || m.outState = .hold || m.outState = .none with
  | some i, false =>
    (leBytes 4 i.pubSeq.toNat ++ leBytes 1 (if m.ackSeq = some i.pubSeq then 0 else 4) ++ rep 3 0 ++ i.bytes, s)
  | _, _ =>
    let (v, s1) := s.draw
    (leBytes 4 v.toNat ++ leBytes 1 (if safe && safeCap m then 2 else 1) ++ rep 3 0, s1)
/-- `POLL`: on serial one at a time, on Ethernet back to back. -/
def poll (n : Fin 12) (s : State) : State :=
  let t := tribAt s n
  match t.toPoll with
  | [] => s
  | a :: rest =>
    if !mayPoll s n ∨ !t.inCycle ∨ (!isEth t ∧ t.awaiting ≠ []) then s else
    let m := modAt s n (Fin.ofNat 255 a)
    let (pl, s1) := pollPayload s m
    sendTrib n m.mac 0x01 a pl (onTrib s1 n fun t => { t with toPoll := rest, awaiting := t.awaiting ++ [a] })
def execPoll (n : Fin 12) (s : State) : Host.Outcome State Fault Refusal := .next (poll n s)
/-- A good DATA frame of module `a` (R344, R353, R359). -/
def goodData (n : Fin 12) (a : Fin 255) (p : Pdu) (s : State) : State :=
  let ack : Word := BitVec.ofNat 32 (field p.body 0 4)
  let s1 := onMod (goodFrame n s) n a fun m => { m with misses := 0, ackSeq := some ack, heard := true }
  let m := modAt s1 n a
  let (live, s2) :=
    match m.state with
    | .absent => if m.assigned then arrive n a s1 else (false, s1)
    | .stale => arrive n a s1
    | .active => (true, s1)
    | _ => (false, s1)
  if live then
    stageInput n a ⟨p.body.drop 8, p.len - 8, p.body.getD 4 0, s.glb.time, ack, false⟩ s2
  else if (modAt s2 n a).state ≠ m.state then writeHeader n a s2 else s2
def knows (m : Mod) : Bool := m.state.isIn || (m.state = .absent && m.assigned)
/-- A POLL or an IDENTIFY of the other master, heard in LISTEN on a serial line, is ignored and not counted (R350). -/
def masterFrame (n : Fin 12) (f : RxFrame) (s : State) : Bool :=
  let t := tribAt s n
  let ty := (pduOf f.pdu).type
  listening s n && !isEth t && f.good && frameOk t f && (ty = 1 || ty = 3)
/-- `DATA`: a reply, or in LISTEN any module's reply to the other master (R350). -/
def dataReply (n : Fin 12) (f : RxFrame) (s : State) : State :=
  let t := tribAt s n
  if !tribAlive s n ∨ isLegacy t ∨ !heardBy t f ∨ masterFrame n f s then s else
  let p := pduOf f.pdu
  if !f.good then discard n none s
  else if !frameOk t f ∨ p.type ≠ 2 ∨ p.dst ≠ 0 ∨ p.src ≥ 255 ∨ p.len < 8 then discard n (some p.src) s
  else
    let a : Fin 255 := Fin.ofNat 255 p.src
    let m := modAt s n a
    let lenOk := match m.ident with | some i => decide (p.len = 8 + inLen i) | none => false
    if listening s n then (if knows m && lenOk then goodData n a p s else badFrame n s)
    else if !t.awaiting.contains p.src ∨ p.seq ≠ t.cycleSeq.toNat ∨ !lenOk then discard n (some p.src) s
    else cycleCheck n (goodData n a p (answered n p.src s))
def execDataReply (n : Fin 12) (f : RxFrame) (s : State) : Host.Outcome State Fault Refusal := .next (dataReply n f s)
/-- `REPLY_TIMEOUT`. -/
def replyTimeout (n : Fin 12) (a : Fin 255) (s : State) : State :=
  if (tribAt s n).awaiting.contains a.val then cycleCheck n (missed n a (answered n a.val s)) else s
def execReplyTimeout (n : Fin 12) (a : Fin 255) (s : State) : Host.Outcome State Fault Refusal := .next (replyTimeout n a s)
/-- `SERIAL_FRAME_IDLE`: the frame ends before its LEN (R346, R350). -/
def serialFrameIdle (n : Fin 12) (s : State) : State :=
  if tribAlive s n ∧ (tribAt s n).cfg.pers = 0 then
    (if listening s n then badFrame n s else discard n none s)
  else s
def execSerialFrameIdle (n : Fin 12) (s : State) : Host.Outcome State Fault Refusal := .next (serialFrameIdle n s)
/-! ## Discovery (R354, R355) -/
/-- `IDENTIFY`: between two cycles. -/
def identify (n : Fin 12) (s : State) : State :=
  let t := tribAt s n
  if !mayPoll s n ∨ t.inCycle ∨ t.rollOpen ∨ t.first ∨ (!t.rollDue ∧ t.cfg.period = 0) then s else
  let s1 := onTrib s n fun t => { t with roll := t.roll + 1, rollDue := false, rollOpen := true, claims := [], rollAssigned := 0 }
  sendTrib n t.cfg.group 0x03 0xFF (leBytes 2 (t.roll + 1).toNat ++ leBytes 1 t.cfg.slots ++ leBytes 1 t.cfg.slotUs ++ rep 4 0) s1
def execIdentify (n : Fin 12) (s : State) : Host.Outcome State Fault Refusal := .next (identify n s)
def claimIdent (p : Pdu) : Ident := BitVec.ofNat 256 (field p.body 4 32)
/-- `CLAIM`: kept until the window closes; in LISTEN until its ASSIGN is heard. -/
def claim (n : Fin 12) (f : RxFrame) (s : State) : State :=
  let t := tribAt s n
  if !tribRuns s n ∨ isLegacy t ∨ !heardBy t f ∨ masterFrame n f s then s else
  let p := pduOf f.pdu
  if !f.good ∨ !frameOk t f ∨ p.type ≠ 4 ∨ p.dst ≠ 0 ∨ p.len ≠ 36 then badFrame n s
  else
    let i := claimIdent p
    let s1 := goodFrame n s
    if t.token && !t.rollOpen then s1
    else onTrib s1 n fun t =>
      { t with claims := (if t.token then t.claims else t.claims.filter fun c => identUid c.2.2 ≠ identUid i) ++ [(f.src, field p.body 0 1, i)] }
def execClaim (n : Fin 12) (f : RxFrame) (s : State) : Host.Outcome State Fault Refusal := .next (claim n f s)
/-- Change an entry of the module table: a new state stands in the header of its input block at once (R358). -/
def changeMod (n : Fin 12) (a : Fin 255) (f : Mod → Mod) (s : State) : State :=
  let s1 := onMod s n a f
  if (modAt s1 n a).state = (modAt s n a).state then s1 else writeHeader n a s1
/-- Enter an assignment in the module table (R344): a STALE module of another UID gives way. -/
def enterMod (n : Fin 12) (a : Fin 255) (mac : BitVec 48) (i : Ident) (s : State) : State :=
  changeMod n a (fun m =>
    let other := m.ident.map identUid ≠ some (identUid i)
    { m with state := if m.state = .stale ∧ other then .absent else m.state, ident := some i, mac := mac, assigned := true, misses := 0 }) s
def grant (n : Fin 12) (a : Fin 255) (mac : BitVec 48) (i : Ident) (s : State) : State :=
  let s1 := onTrib (enterMod n a mac i s) n fun t => { t with rollAssigned := t.rollAssigned + 1 }
  sendTrib n s.trib[n].cfg.group 0x05 0xFF (leBytes 8 (identUid i).toNat ++ leBytes 1 a ++ rep 3 0) s1
/-- The address of a module of this UID that is ACTIVE or STALE. -/
def holder (t : Trib) (u : BitVec 64) : Option (Fin 255) :=
  modAddrs.find? fun a => let m := t.mods[a]; m.state.isLive && m.ident.map identUid = some u
/-- The address is enabled and held by no module of another UID. -/
def grantable (t : Trib) (u : BitVec 64) (a : Fin 255) : Bool :=
  let m := t.mods[a]
  m.state ≠ .disabled && (!m.state.isIn || m.ident.map identUid = some u)
/-- DEDUCED (log entry 189): `AUTO_ADDR` does not give one address to two modules of one roll-call: the window has a CLAIM of the module
that the entry is assigned to. -/
def justGranted (t : Trib) (u : BitVec 64) (a : Fin 255) : Bool :=
  let m := t.mods[a]
  m.assigned && m.ident.map identUid ≠ some u && t.claims.any fun c => m.ident.map identUid = some (identUid c.2.2)
/-- The lowest enabled ABSENT address whose expected identity matches. -/
def autoAddr (t : Trib) (i : Ident) : Option (Fin 255) :=
  if !t.cfg.autoAddr then none
  else modAddrs.find? fun a => let m := t.mods[a]; addrOk t a && m.state = .absent && expects m i && !justGranted t (identUid i) a
/-- One CLAIM in the order of R355. -/
def handleClaim (n : Fin 12) (c : BitVec 48 × Nat × Ident) (s : State) : State :=
  let (mac, want, i) := c
  let t := tribAt s n
  let u := identUid i
  match holder t u with
  | some a => grant n a mac i (depart n a 5 s)
  | none =>
    let w : Fin 255 := Fin.ofNat 255 want
    if want < 255 ∧ addrOk t want ∧ grantable t u w then grant n w mac i s
    else match autoAddr t i with
      | some a => grant n a mac i s
      | none => s.raise 0x0B12 n [(16, 0), (17, 4), (20, u.toNat)]
/-- What becomes of a `TRIB_ROLLCALL` when a port's roll-call ends: once every one has, the status and mask of R58. A port that
stands 12 higher waits for the roll-call after this one, and only one that is cut short ends it. -/
def rollWait (n assigned st : Nat) (w : Wait) : WaitEnd :=
  match w with
  | .rollcall left all fails k =>
    if left.contains n ∨ (st ≠ St.ok ∧ left.contains (n + 12)) then
      let left' := left.filter fun i => i ≠ n ∧ i ≠ n + 12
      let fails' := if st = St.ok then fails else fails ++ [(n, st)]
      if left' = [] then .done (statusOf all fails') (some (maskOf (passedOf all fails') + (k + assigned) * 2 ^ 32))
      else .goWith (.rollcall left' all fails' (k + assigned))
    else if left.contains (n + 12) then .goWith (.rollcall (left.map fun i => if i = n + 12 then n else i) all fails k)
    else .go
  | _ => .go
/-- A roll-call ends, with a status where it was cut short; one that was asked for while its window was open is due then (R354). -/
def endRoll (n : Fin 12) (st : Nat) (s : State) : State :=
  let k := (tribAt s n).rollAssigned
  wake (rollWait n k st) (onTrib s n fun t =>
    { t with rollOpen := false, rollDue := t.rollAgain && decide (st = St.ok), rollAgain := false, claims := [] })
/-- `ROLLCALL_WINDOW_CLOSE`. -/
def rollcallWindowClose (n : Fin 12) (s : State) : State :=
  let t := tribAt s n
  if !t.rollOpen then s
  else if !mayPoll s n then endRoll n St.aborted s
  else endRoll n St.ok (t.claims.foldl (fun (s : State) c => handleClaim n c s) s)
def execRollcallWindowClose (n : Fin 12) (s : State) : Host.Outcome State Fault Refusal := .next (rollcallWindowClose n s)
/-! ## Input blocks (R359, R360) -/
def inputStore (n : Fin 12) (a : Fin 255) (s : State) : State := if tribLife s n = .off then s else storeStaged n a s
def execInputStore (n : Fin 12) (a : Fin 255) (s : State) : Host.Outcome State Fault Refusal := .next (inputStore n a s)
/-- `INPUT_LATCH_EXPIRE`. -/
def inputLatchExpire (n : Fin 12) (a : Fin 255) (s : State) : State :=
  if (modAt s n a).latched.isNone ∨ tribLife s n = .off then s
  else
    let s1 := onTrib (onMod s n a fun m => { m with latched := none, expired := true }) n fun t => { t with latchExp := sat 32 (t.latchExp + 1) }
    storeStaged n a (writeHeader n a s1)
def execInputLatchExpire (n : Fin 12) (a : Fin 255) (s : State) : Host.Outcome State Fault Refusal := .next (inputLatchExpire n a s)
/-! ## LISTEN and TOKEN (R366, R367) -/
/-- `ASSIGN_RECEIVED`, in LISTEN. -/
def assignReceived (n : Fin 12) (f : RxFrame) (s : State) : State :=
  let t := tribAt s n
  if !tribRuns s n ∨ isLegacy t ∨ !heardBy t f ∨ masterFrame n f s then s else
  let p := pduOf f.pdu
  if !listening s n ∨ !f.good ∨ !frameOk t f ∨ p.type ≠ 5 ∨ p.dst ≠ 0xFF ∨ p.len ≠ 12 then badFrame n s
  else
    let s1 := goodFrame n s
    let u : BitVec 64 := BitVec.ofNat 64 (field p.body 0 8)
    let ad := field p.body 8 1
    if ad ≥ 255 ∨ !addrOk t ad ∨ (modAt s n (Fin.ofNat 255 ad)).state = .disabled then s1 else
    let a : Fin 255 := Fin.ofNat 255 ad
    match t.claims.find? fun c => identUid c.2.2 = u with
    | some c => onTrib (enterMod n a c.1 c.2.2 (depart n a 5 s1)) n fun t => { t with claims := t.claims.filter fun c => identUid c.2.2 ≠ u }
    | none =>
      -- no CLAIM of it was heard: its record is not known, so that no DATA of it is taken (R350)
      let s2 := depart n a 5 s1
      if (modAt s2 n a).ident.map identUid = some u then onMod s2 n a fun m => { m with assigned := true, misses := 0 }
      else changeMod n a (fun m => { m with state := .absent, assigned := true, misses := 0, ident := none }) s2
def execAssignReceived (n : Fin 12) (f : RxFrame) (s : State) : Host.Outcome State Fault Refusal := .next (assignReceived n f s)
/-- `LISTEN_MISS_WINDOW`. -/
def listenMissWindow (n : Fin 12) (s : State) : State :=
  if !listening s n ∨ isLegacy (tribAt s n) then s else
  (pollList (tribAt s n)).foldl (fun s a =>
    let i : Fin 255 := Fin.ofNat 255 a
    if (modAt s n i).heard then onMod s n i fun m => { m with heard := false } else missed n i s) s
def execListenMissWindow (n : Fin 12) (s : State) : Host.Outcome State Fault Refusal := .next (listenMissWindow n s)
/-! ## MDIO (R341) -/
def busOf (n : Fin 12) : Fin 2 := if n.val < 6 then 0 else 1
def queueMdio (n : Fin 12) (m : Mdio) (s : State) : State := { s with mdio := vmod s.mdio (busOf n) fun q => q ++ [m] }
/-- `PHY_STATUS_POLL`. -/
def phyStatusPoll (n : Fin 12) (s : State) : State :=
  if tribRuns s n ∧ isEth (tribAt s n) then queueMdio n ⟨n, false, 1, 0, none⟩ s else s
def execPhyStatusPoll (n : Fin 12) (s : State) : Host.Outcome State Fault Refusal := .next (phyStatusPoll n s)
/-- The link-status bit as read: a change is reported, and a link that goes down departs the ACTIVE modules (R341, R372).
The speed that SGMII negotiates in band is the PHY's. -/
def linkRead (n : Fin 12) (up : Bool) (s : State) : State :=
  let t := tribAt s n
  if t.phyLink = up then s else
  let (v, s1) := s.draw
  let fast := if t.cfg.ethMode then true else if t.cfg.speed100 then false else v.getLsbD 0
  let f := if up then fast else t.linkFast
  let s2 := (onTrib s1 n fun t => { t with phyLink := up, link := up, linkFast := f }).raise 0x0B14 n [(16, b2n up), (17, b2n f)]
  if up then s2 else departAll n 2 (tribErr n 4 s2)
/-- `MDIO_DONE`: the access at the head of the bus's queue. -/
def mdioDone (bus : Fin 2) (ok : Bool) (v : BitVec 16) (s : State) : State :=
  match s.mdio[bus] with
  | [] => s
  | m :: rest =>
    let n : Fin 12 := Fin.ofNat 12 m.port
    let s1 := ({ s with mdio := s.mdio.set bus rest } : State).emit (.mdio bus m.write (tribAt s n).cfg.phyAddr m.reg (if m.write then m.value else v))
    let dead := !ok && !m.write
    let s2 := if dead then tribErr n 0x20 s1 else s1
    match m.cmd with
    | some (p, tag) =>
      onCmds s2 p (endCmd (portAlive s2 p) tag fun c =>
        { c with phase := .finished, status := BitVec.ofNat 16 (if dead then St.tribMdio else St.ok),
                 result := if m.write || dead then 0 else v.zeroExtend 64 })
    | none => if dead ∨ !tribRuns s2 n then s2 else linkRead n (v.getLsbD 2) s2
def execMdioDone (bus : Fin 2) (answered : Bool) (value : BitVec 16) (s : State) : Host.Outcome State Fault Refusal :=
  .next (mdioDone bus answered value s)
/-! ## Commands (R370, R371) -/
def tribConfigInfo : CmdInfo :=
  { op := 0x0B10, auth := auConfigure, used := [(16, 8), (17, 4), (18, 136), (36, 224)], sel := .units .trib, enc := fun d => decide (d.p 16 1 < 3) }
/-- The settings that PARAM bytes 16 to 63 give. -/
def tribSettings (f : Nat → Nat → Nat) : TribCfg :=
  { pers := BitVec.ofNat 2 (f 16 1), coding := bitN (f 17 1) 0, ethMode := bitN (f 17 1) 1, speed100 := bitN (f 17 1) 2,
    autoAddr := bitN (f 17 1) 3, phyAddr := BitVec.ofNat 5 (f 18 1), missLimit := f 19 1, div := f 20 2, respTo := f 22 2, cycle := f 24 4,
    gap := f 28 1, latchMax := f 29 1, period := f 30 2, slots := f 32 1, inStride := f 33 1 % 16, outStride := f 33 1 / 16,
    slotUs := f 34 1, inBase := BitVec.ofNat 40 (f 36 8), outBase := BitVec.ofNat 40 (f 44 8), mac := BitVec.ofNat 48 (f 52 6),
    group := BitVec.ofNat 48 (f 58 6) }
def tribConfigOk (d : Desc) : Bool :=
  let c := tribSettings d.p
  decide (d.p 18 1 < 32) && within 1 c.missLimit 7 && within 50 c.div 41667 && decide (1 ≤ c.respTo) && within 50 c.cycle 1000000
    && decide (10 ≤ c.gap) && decide (1 ≤ c.latchMax) && within 1 c.slots 64 && within 3 c.inStride 9 && within 2 c.outStride 5
    && decide (1 ≤ c.slotUs) && d.p 36 8 % 256 == 0 && d.p 44 8 % 256 == 0 && decide (d.p 36 8 < 2 ^ 40) && decide (d.p 44 8 < 2 ^ 40)
def mustBeStopped (s : State) (cc : LClass) (i : Nat) : Option Nat := if s.lifeOf cc i = .stopped then none else some St.unitState
def tribConfig (d : Desc) (s : State) : State :=
  command tribConfigInfo d (tribConfigOk d) (fun ts s =>
    let chk := mustBeStopped s .trib
    let ok := passedOf ts (failing ts chk)
    storingAs (statusOf ts (failing ts chk)) d 0x0B10 ok (ok.map fun t => setting 0x0B10 t (paramBytes d)) (maskOf ok) s) s
/-- A port's configuration. DESIGN CHOICE (log entry 190): input blocks that move, or take another size, count their updates anew (R358). -/
def setTribCfg (n : Fin 12) (d : Desc) (s : State) : State :=
  onTrib s n fun x =>
    let c := tribSettings d.p
    let moved := c.inBase ≠ x.cfg.inBase ∨ c.inStride ≠ x.cfg.inStride
    { x with cfg := c, mods := if moved then x.mods.map fun m => { m with seq := 0 } else x.mods }
def tribConfigApply (d : Desc) (ts : List Nat) (s : State) : State :=
  ts.foldl (fun s t =>
    let n : Fin 12 := Fin.ofNat 12 t
    let s1 := setTribCfg n d s
    idlePins n (isEth (tribAt s1 n) && (tribAt s1 n).sgOn) s1) s
def execTribConfig (d : Desc) (s : State) : Host.Outcome State Fault Refusal := .next (tribConfig d s)
/-- The 5 bytes of a module entry's configuration (R492). -/
def modEntry (m : Mod) : List Byte :=
  leBytes 1 (pack [(0, b2n m.enable), (1, b2n m.inZero), (2, b2n m.poisonSafe)]) ++ leBytes 2 m.expVendor.toNat ++ leBytes 2 m.expProduct.toNat
def modEntries (t : Trib) : List Byte := modAddrs.flatMap fun a => modEntry t.mods[a]
def setEntry (f : Nat → Nat → Nat) (off : Nat) (m : Mod) : Mod :=
  let k := f off 1
  { m with enable := bitN k 0, inZero := bitN k 1, poisonSafe := bitN k 2, expVendor := BitVec.ofNat 16 (f (off + 1) 2),
           expProduct := BitVec.ofNat 16 (f (off + 3) 2),
           state := if !bitN k 0 then .disabled else if m.state = .disabled then .absent else m.state }
def tribModSetInfo : CmdInfo := { op := 0x0B11, auth := auConfigure, used := [(16, 8), (17, 3), (18, 32)], sel := .oneUnit .trib }
/-- The address that PARAM byte 16 names lies in the range of the port's personality. -/
def modAddrOk (d : Desc) (s : State) : Bool := decide (d.inst.toNat < 12) && addrOk s.trib[Fin.ofNat 12 d.inst.toNat] (d.p 16 1)
def tribModApply (d : Desc) (s : State) : State :=
  changeMod (Fin.ofNat 12 d.inst.toNat) (Fin.ofNat 255 (d.p 16 1)) (setEntry d.p 17) s
/-- A descriptor with stored PARAM bytes. -/
def recDesc (b : List Byte) : Desc := ⟨0, 0, 0, 0, 0, 0, 0, 0, BitVec.ofNat 384 (leNat b)⟩
def withStored (op inst : Nat) (f : Desc → State → State) (s : State) : State :=
  match stored s op inst with
  | none => s
  | some b => f (recDesc b) s
/-- A port's configuration and its module entries as the ledger has them (R370, R492). -/
def loadTrib (n : Fin 12) (s : State) : State :=
  let s1 := withStored 0x0B10 n (setTribCfg n) s
  match stored s1 0x0B11 n with
  | none => s1
  | some b => modAddrs.foldl (fun s a => onMod s n a (setEntry (field b) (5 * (a.val - 1)))) s1
/-- A port that is powered up takes them, and the headers of the entries that change follow (R358). -/
def reloadTrib (n : Fin 12) (s : State) : State :=
  let s1 := loadTrib n s
  modAddrs.foldl (fun x a => if (modAt s1 n a).state = (modAt s n a).state then x else writeHeader n a x) s1
def tribModSet (d : Desc) (s : State) : State :=
  command tribModSetInfo d (modAddrOk d s) (fun ts s =>
    let n : Fin 12 := Fin.ofNat 12 (ts.headD 0)
    match mustBeStopped s .trib n with
    | some e => finish d e 0 s
    | none =>
      storing d 0x0B11 [(9, 0x11, 0x0B, settingPayload 0x0B11 n (modEntries (tribModApply d s).trib[n]), .settings 0x0B)] 0 s) s
def execTribModSet (d : Desc) (s : State) : Host.Outcome State Fault Refusal := .next (tribModSet d s)
def tribModEnableInfo : CmdInfo := { op := 0x0B12, auth := auOperate, used := [(16, 8), (17, 1)], sel := .oneUnit .trib }
/-- Enable or disable an address (R344). -/
def enableMod (n : Fin 12) (a : Fin 255) (on : Bool) (s : State) : State :=
  let m := modAt s n a
  if on then
    (if m.state = .disabled then writeHeader n a (onMod s n a fun m => { m with enable := true, state := .absent, assigned := false, misses := 0 })
     else onMod s n a fun m => { m with enable := true })
  else if m.state = .disabled then onMod s n a fun m => { m with enable := false }
  else
    let s1 := if m.state = .active then departEvent n a 4 s else s
    let s2 := onMod s1 n a fun m => { m with enable := false, state := .disabled, assigned := false }
    onTrib (stalePolicy n a s2) n fun t => { t with toPoll := t.toPoll.filter (· ≠ a.val) }
def tribModEnable (d : Desc) (s : State) : State :=
  command tribModEnableInfo d (modAddrOk d s) (fun ts s =>
    let n : Fin 12 := Fin.ofNat 12 (ts.headD 0)
    if !tribRuns s n then finish d St.unitState 0 s
    else
      let a : Fin 255 := Fin.ofNat 255 (d.p 16 1)
      let s1 := enableMod n a (d.bit 17 0) s
      finish d St.ok (modAt s1 n a).state.code s1) s
def execTribModEnable (d : Desc) (s : State) : Host.Outcome State Fault Refusal := .next (tribModEnable d s)
def tribRollcallInfo : CmdInfo := { op := 0x0B13, auth := auOperate, sel := .units .trib }
def rollcallBad (s : State) (i : Nat) : Option Nat :=
  let n : Fin 12 := Fin.ofNat 12 i
  if !tribRuns s n then some St.unitState
  else if isLegacy (tribAt s n) then some St.tribPersonality
  else if listening s n then some St.tribListen else none
/-- `TRIB_ROLLCALL`: completes once the roll-call of every port has been handled. -/
def tribRollcall (d : Desc) (s : State) : State :=
  command tribRollcallInfo d true (fun ts s =>
    let fails := failing ts (rollcallBad s)
    let ok := passedOf ts fails
    if ok = [] then finish d (statusOf ts fails) 0 s
    else
      let open_ (t : Nat) : Bool := (tribAt s (Fin.ofNat 12 t)).rollOpen
      running d (.rollcall (ok.map fun t => if open_ t then t + 12 else t) ts fails 0) 0
        (ok.foldl (fun s t => onTrib s (Fin.ofNat 12 t) fun x => { x with rollDue := x.rollDue || !x.rollOpen, rollAgain := x.rollAgain || x.rollOpen }) s)) s
def execTribRollcall (d : Desc) (s : State) : Host.Outcome State Fault Refusal := .next (tribRollcall d s)
/-- `TRIB_MOD_a` (R370). -/
def modWord (t : Trib) (a : Nat) : Nat :=
  if a = 0 ∨ a > topAddr t then 0 else
  let m := t.mods[(Fin.ofNat 255 a)]
  pack [(0, m.state.code), (3, b2n m.enable), (4, b2n m.inZero), (5, b2n m.poisonSafe), (6, m.outState.code), (8, m.misses), (12, m.reason)]
def tribModQueryInfo : CmdInfo := { op := 0x0B14, auth := auObserve, used := [(16, 8)], sel := .oneUnit .trib }
def tribModQuery (d : Desc) (s : State) : State :=
  command tribModQueryInfo d true (fun ts s =>
    let t := s.trib[Fin.ofNat 12 (ts.headD 0)]
    let a := d.p 16 1
    let i := if addrOk t a then (t.mods[(Fin.ofNat 255 a)].ident).getD 0 else 0
    finish d St.ok (pack [(0, modWord t a), (32, identF i 8 2), (48, identF i 10 2)]) s) s
def execTribModQuery (d : Desc) (s : State) : Host.Outcome State Fault Refusal := .next (tribModQuery d s)
def tribMdioInfo : CmdInfo := { op := 0x0B15, auth := auConfigure, used := [(16, 1), (17, 8), (18, 16)], sel := .oneUnit .trib }
def tribMdio (d : Desc) (s : State) : State :=
  command tribMdioInfo d (decide (d.p 17 1 < 32)) (fun ts s =>
    let n : Fin 12 := Fin.ofNat 12 (ts.headD 0)
    if !isEth (tribAt s n) then finish d St.tribPersonality 0 s
    else queueMdio n ⟨n, d.bit 16 0, BitVec.ofNat 5 (d.p 17 1), BitVec.ofNat 16 (d.p 18 2), some (d.port, d.tag)⟩
      (running d (.mdio (busOf n)) 0 s)) s
def execTribMdio (d : Desc) (s : State) : Host.Outcome State Fault Refusal := .next (tribMdio d s)
/-! ## Starting and stopping (R368, R369) -/
/-- The reason a port may not start, if any (R369). -/
def blocksOf (t : Trib) : List (Nat × Nat) :=
  [(lineOf t.cfg.inBase.toNat, (topAddr t + 1) * t.cfg.inStride), (lineOf t.cfg.outBase.toNat, (topAddr t + 1) * t.cfg.outStride)]
def clash (x y : Nat × Nat) : Bool := decide (x.1 < y.1 + y.2) && decide (y.1 < x.1 + x.2)
def segsOf (s : State) (l n : Nat) : List Seg :=
  (List.range ((l + n - 1) / 8192 + 1 - l / 8192)).map fun i => s.seg (l / 8192 % 2 ^ 17 + i)
def isMulticast (m : BitVec 48) : Bool := m.getLsbD 0
def startReason (s : State) (n : Fin 12) : Nat :=
  let t := tribAt s n
  let bs := blocksOf t
  let inRange := bs.all fun b => decide (b.1 / 2 ^ 30 = s.slot) && s.segExists (segOf (b.1 % 2 ^ 30)) && s.segExists (segOf ((b.1 + b.2 - 1) % 2 ^ 30))
      && decide ((b.1 + b.2 - 1) / 2 ^ 30 = s.slot)
  let inSegs := match bs with | b :: _ => segsOf s b.1 b.2 | [] => []
  let outOk := (List.range (topAddr t + 1)).all fun a =>
    let l := lineOf t.cfg.outBase.toNat + a * t.cfg.outStride
    decide (segOf l = segOf (l + t.cfg.outStride - 1)) && decide ((s.lineSeg (l % 2 ^ 30)).cls = .epoch)
  let others := (List.range 12).any fun k =>
    decide (k ≠ n.val) && decide (s.lifeOf .trib k ≠ .off)
      && (blocksOf s.trib[Fin.ofNat 12 k]).any fun x => bs.any fun y => clash x y
  if !(inSegs.all fun g => g.cls = .volatile) then 1
  else if !outOk then 2 else if others then 3 else if !inRange then 4
  else if isEth t && (isMulticast t.cfg.mac || !isMulticast t.cfg.group) then 5 else 0
/-- A port starts: STALE modules are polled in the first cycle, and a roll-call follows it. -/
def tribBegin (n : Fin 12) (s : State) : State :=
  onTrib (idlePins n (isEth (tribAt s n)) s) n fun t =>
    { t with startReason := 0, link := !isEth t || t.phyLink, rollDue := !isLegacy t && t.token, rollAgain := false, rollOpen := false, claims := [], first := true,
             inCycle := false, toPoll := [], awaiting := [] }
/-- The updates that no latch holds are stored: their copies are under way (R359, R392). -/
def storeUnlatched (n : Fin 12) (s : State) : State :=
  modAddrs.foldl (fun s a => if (modAt s n a).heldUp.isSome then storeStaged n a s else s) s
/-- A port stops sending; with `cut`, what latches hold and what it awaited is dropped. -/
def tribQuiet (n : Fin 12) (cut : Bool) (s : State) : State :=
  let t := tribAt s n
  let s0 := if cut then storeUnlatched n s else s
  let s1 := if t.rollOpen ∨ t.rollDue then endRoll n St.aborted s0 else s0
  onTrib s1 n fun t =>
    { t with toPoll := [], awaiting := if cut then [] else t.awaiting, inCycle := t.inCycle && !cut, de := t.de && !cut, txd := t.txd || cut,
             mods := if cut then t.mods.map fun m => { m with heldUp := none } else t.mods }
/-- A port is STOPPED: every ACTIVE module departs with cause STOP. -/
def tribStopped (n : Fin 12) (s : State) : State :=
  onTrib (departAll n 3 (idlePins n (tribAt s n).sgOn s)) n fun t => { t with link := t.link && isEth t, inCycle := false, awaiting := [], toPoll := [] }
/-- No exchange is in flight and no input update is held. -/
def tribIdle (s : State) (n : Fin 12) : Bool := (tribAt s n).awaiting = [] && (modAddrs.all fun a => (modAt s n a).heldUp.isNone)
end Sys2Proof.Machine
end

