-- ==== Sys2Proof/Machine/Seq.lean ====
section
/-! DEFINITION. Dialect sequencers (chapter 12): fetching and decoding a sequencer instruction, one meaning for each, waits, traps,
the line engine, and the SEQ commands. -/
namespace Sys2Proof.Machine
def seqAt (s : State) (n : Fin 12) : Seqr := s.seqr[n]
def onSeqr (s : State) (n : Fin 12) (f : Seqr → Seqr) : State := { s with seqr := vmod s.seqr n f }
def seqLife (n : Fin 12) : Fin 50 := unitAt .seq n.val
/-! ## Registers and memories (R373, R374) -/
def wreg (q : Seqr) (r : BitVec 4) : Word := if r = 0 then 0 else q.regs[r.toFin]
/-- w0 ignores writes. -/
def setW (r : BitVec 4) (v : Word) (q : Seqr) : Seqr := if r = 0 then q else { q with regs := q.regs.set r.toFin v }
def imemAt (q : Seqr) (a : Nat) : Word := mget 0 q.imem a
def dmemAt (q : Seqr) (a : Nat) : Byte := mget 0 q.dmem a
def dmemWord (q : Seqr) (a : Nat) : Word := BitVec.ofNat 32 (leNat (mgets 0 q.dmem a 4))
/-! ## Instruction words (R377–R379) -/
/-- Formats. -/
inductive Fmt | a | i | b | j | x
deriving DecidableEq, Repr
/-- The format of an opcode; the others are illegal. -/
def fmtOf (op : Nat) : Option Fmt :=
  if (1 ≤ op ∧ op ≤ 7) ∨ op = 0x1E ∨ op = 0x17 ∨ (0x20 ≤ op ∧ op ≤ 0x23) ∨ op = 0x25 ∨ op = 0x29 ∨ op = 0x32 ∨ op = 0x33 ∨ op = 0x36
      ∨ op = 0x38 ∨ op = 0x3A ∨ op = 0x3E then some .a
  else if (9 ≤ op ∧ op ≤ 0x13) ∨ op = 0x1F ∨ op = 0x24 ∨ (0x26 ≤ op ∧ op ≤ 0x28) ∨ op = 0x30 ∨ op = 0x31 ∨ op = 0x34 ∨ op = 0x35
      ∨ op = 0x37 ∨ op = 0x39 ∨ op = 0x3C ∨ op = 0x3D then some .i
  else if 0x18 ≤ op ∧ op ≤ 0x1B then some .b
  else if op = 0x1C ∨ op = 0x1D then some .j
  else if op = 0x3F then some .x
  else none
def opOf (w : Word) : Nat := bits w 26 6
/-- Immediates that zero-extend (R378): ANDI, ORI, XORI, CHK and the J format. -/
def zeroExtends (op : Nat) : Bool := (0x0A ≤ op && op ≤ 0x0C) || op == 0x1F || op == 0x1C || op == 0x1D
/-- An instruction as fetched: its word, the address of the word, the address after it, its immediate, and the cycle that
an EXT adds. -/
structure SIns where
  word : Word
  at_  : Nat
  next : Nat
  imm  : Word
  ext  : Nat
deriving DecidableEq, Repr
def SIns.op (i : SIns) : Nat := opOf i.word
def SIns.rd (i : SIns) : BitVec 4 := i.word.extractLsb' 22 4
def SIns.rs (i : SIns) : BitVec 4 := i.word.extractLsb' 18 4
def SIns.rt (i : SIns) : BitVec 4 := i.word.extractLsb' 14 4
/-- What a fetch gives: an instruction, or a trap. -/
inductive Fetched
  | ins (i : SIns)
  | illegal (w : Word)
  | pcOut (a : Nat)
def imm18 (w : Word) : BitVec 18 := w.extractLsb' 0 18
def fetch (q : Seqr) : Fetched :=
  if q.pc > 4095 then .pcOut q.pc else
  let w := imemAt q q.pc
  match fmtOf (opOf w) with
  | none => .illegal w
  | some .x =>
    if bits w 14 12 ≠ 0 then .illegal w
    else if q.pc + 1 > 4095 then .pcOut (q.pc + 1)
    else
      let v := imemAt q (q.pc + 1)
      match fmtOf (opOf v) with
      | some .i | some .b | some .j => .ins ⟨v, q.pc + 1, q.pc + 2, BitVec.ofNat 32 (bits w 0 14 * 2 ^ 18 + (imm18 v).toNat), 1⟩
      | _ => .illegal w
  | some _ => .ins ⟨w, q.pc, q.pc + 1, if zeroExtends (opOf w) then (imm18 w).zeroExtend 32 else (imm18 w).signExtend 32, 0⟩
/-! ## Traps (R387) -/
/-- The level of a legacy line at rest: LCFG's INVERT makes it 0 (R380). -/
def idleLevel (q : Seqr) : Bool := !q.lcfg.getLsbD 11
/-- The level at which TXD rests: high on a port whose sequencer does not drive it (R19, R523). -/
def restLevel (s : State) (n : Fin 12) : Bool := idleLevel (seqAt s n) || !(tribAlive s n && isLegacy (tribAt s n))
/-- Nothing more is driven: the transmit queue is discarded, a character being sent is cut off, DE is released, TXD rests. -/
def releaseLine (n : Fin 12) (s : State) : State :=
  let rest := restLevel s n
  onTrib (onSeqr s n fun q => { q with txq := [], sending := none }) n fun t => { t with de := false, txd := rest }
def activeCount (s : State) (n : Fin 12) : Nat := (modAddrs.filter fun a => (modAt s n a).state = .active).length
/-- A trap: none of the instruction's effects take place. -/
def seqTrap (n : Fin 12) (code : Nat) (word arg : Word) (s : State) : State :=
  let q := seqAt s n
  let k := activeCount s n
  let s1 := onSeqr (releaseLine n s) n fun q =>
    { q with exec := .trapped, wait := none, trap := code, trapPc := q.pc, trapWord := word, trapArg := arg, sel := none }
  (unitFault (seqLife n) code (departAll n 6 s1)).raise 0x0C10 n
    [(16, code), (18, q.pc), (20, word.toNat), (24, arg.toNat), (28, k)]
/-! ## Running an instruction (R376) -/
/-- Move past an instruction: its cycles have passed. -/
def advance (n : Fin 12) (i : SIns) (cyc pc : Nat) (s : State) : State :=
  onSeqr s n fun q =>
    { q with pc := pc, exec := .executing, wait := none, time := q.time + BitVec.ofNat 64 (cyc + i.ext), worked := q.worked + cyc + i.ext }
/-- An instruction completes. -/
def complete (n : Fin 12) (i : SIns) (cyc : Nat) (f : Seqr → Seqr) (s : State) : State := advance n i cyc i.next (onSeqr s n f)
/-- An instruction waits. -/
def waitFor (n : Fin 12) (i : SIns) (cyc : Nat) (w : SWait) (s : State) : State :=
  onSeqr s n fun q =>
    { q with exec := .waiting, wait := some w, nextPc := i.next, time := q.time + BitVec.ofNat 64 (cyc + i.ext), worked := q.worked + cyc + i.ext }
/-- The instruction that sequencer `n` fetches next is run where it is the one of opcode `op`; a word that is no instruction
at all traps, whatever row lets it run. `zero`: bits that the row does not use. -/
def seqRow (op : Nat) (zero : Word) (n : Fin 12) (f : SIns → Seqr → State → State) (s : State) : State :=
  let q := seqAt s n
  if q.exec ≠ .executing then s else
  match fetch q with
  | .pcOut a => let (v, s1) := s.draw; seqTrap n 3 (v.truncate 32) (BitVec.ofNat 32 a) s1
  | .illegal w => seqTrap n 1 w w s
  | .ins i =>
    if i.op ≠ op then s
    else if i.word &&& zero ≠ 0 then seqTrap n 1 i.word i.word s
    else f i q s
/-- Fields that must be zero. -/
def zRd : Word := 0x03C00000
def zRs : Word := 0x003C0000
def zRt : Word := 0x0003C000
def zLow : Word := 0x00003FFF
/-- A register instruction of one cycle. -/
def regRow (op : Nat) (zero : Word) (n : Fin 12) (v : SIns → Seqr → Word) (s : State) : State :=
  seqRow op zero n (fun i q s => complete n i 1 (setW i.rd (v i q)) s) s
/-! ## Arithmetic (R379) -/
def aluA (op : Nat) (f : Word → Word → Word) (n : Fin 12) (s : State) : State :=
  regRow op zLow n (fun i q => f (wreg q i.rs) (wreg q i.rt)) s
def aluI (op : Nat) (zero : Word) (f : Word → Word → Word) (n : Fin 12) (s : State) : State :=
  regRow op zero n (fun i q => f (wreg q i.rs) i.imm) s
def execAdd (n : Fin 12) (s : State) : Host.Outcome State Fault Refusal := .next (aluA 0x01 (· + ·) n s)
def execSub (n : Fin 12) (s : State) : Host.Outcome State Fault Refusal := .next (aluA 0x02 (· - ·) n s)
def execAnd (n : Fin 12) (s : State) : Host.Outcome State Fault Refusal := .next (aluA 0x03 (· &&& ·) n s)
def execOr (n : Fin 12) (s : State) : Host.Outcome State Fault Refusal := .next (aluA 0x04 (· ||| ·) n s)
def execXor (n : Fin 12) (s : State) : Host.Outcome State Fault Refusal := .next (aluA 0x05 (· ^^^ ·) n s)
def shlW (x y : Word) : Word := x <<< (y.toNat % 32)
def shrW (x y : Word) : Word := x >>> (y.toNat % 32)
def execShl (n : Fin 12) (s : State) : Host.Outcome State Fault Refusal := .next (aluA 0x06 shlW n s)
def execShr (n : Fin 12) (s : State) : Host.Outcome State Fault Refusal := .next (aluA 0x07 shrW n s)
def execAddi (n : Fin 12) (s : State) : Host.Outcome State Fault Refusal := .next (aluI 0x09 0 (· + ·) n s)
def execAndi (n : Fin 12) (s : State) : Host.Outcome State Fault Refusal := .next (aluI 0x0A 0 (· &&& ·) n s)
def execOri (n : Fin 12) (s : State) : Host.Outcome State Fault Refusal := .next (aluI 0x0B 0 (· ||| ·) n s)
def execXori (n : Fin 12) (s : State) : Host.Outcome State Fault Refusal := .next (aluI 0x0C 0 (· ^^^ ·) n s)
/-- imm[17:5] of a shift is zero. -/
def zShift : Word := 0x0003FFE0
def execShli (n : Fin 12) (s : State) : Host.Outcome State Fault Refusal := .next (aluI 0x0D zShift shlW n s)
def execShri (n : Fin 12) (s : State) : Host.Outcome State Fault Refusal := .next (aluI 0x0E zShift shrW n s)
def execLi (n : Fin 12) (s : State) : Host.Outcome State Fault Refusal := .next (regRow 0x0F zRs n (fun i _ => i.imm) s)
/-! ## Data memory -/
/-- A data access: beyond 0x1FFF, or not aligned to its size, it traps DMEM. -/
def dataRow (op size : Nat) (n : Fin 12) (f : Nat → SIns → Seqr → Seqr) (s : State) : State :=
  seqRow op 0 n (fun i q s =>
    let a := wreg q i.rs + i.imm
    if a.toNat > 0x1FFF ∨ a.toNat % size ≠ 0 then seqTrap n 4 i.word a s
    else complete n i 1 (f a.toNat i) s) s
def execLdw (n : Fin 12) (s : State) : Host.Outcome State Fault Refusal := .next (dataRow 0x10 4 n (fun a i q => setW i.rd (dmemWord q a) q) s)
def execLdb (n : Fin 12) (s : State) : Host.Outcome State Fault Refusal :=
  .next (dataRow 0x11 1 n (fun a i q => setW i.rd ((dmemAt q a).zeroExtend 32) q) s)
def execStw (n : Fin 12) (s : State) : Host.Outcome State Fault Refusal :=
  .next (dataRow 0x12 4 n (fun a i q => { q with dmem := mputs 0 q.dmem a (leBytes 4 (wreg q i.rd).toNat) }) s)
def execStb (n : Fin 12) (s : State) : Host.Outcome State Fault Refusal :=
  .next (dataRow 0x13 1 n (fun a i q => { q with dmem := mset 0 q.dmem a ((wreg q i.rd).truncate 8) }) s)
/-! ## Branches and jumps -/
/-- Go to a target: beyond 4,095 it traps PC. -/
def goTo (n : Fin 12) (i : SIns) (t : Word) (f : Seqr → Seqr) (s : State) : State :=
  if t.toNat > 4095 then seqTrap n 3 i.word t s else advance n i 2 t.toNat (onSeqr s n f)
/-- A branch: rs and rt stand where rd and rs of format I do; the target counts from the branch word. -/
def branchRow (op : Nat) (c : Word → Word → Bool) (n : Fin 12) (s : State) : State :=
  seqRow op 0 n (fun i q s =>
    if c (wreg q i.rd) (wreg q i.rs) then goTo n i (BitVec.ofNat 32 i.at_ + i.imm) id s else complete n i 1 id s) s
def execBeq (n : Fin 12) (s : State) : Host.Outcome State Fault Refusal := .next (branchRow 0x18 (· == ·) n s)
def execBne (n : Fin 12) (s : State) : Host.Outcome State Fault Refusal := .next (branchRow 0x19 (· != ·) n s)
def execBltu (n : Fin 12) (s : State) : Host.Outcome State Fault Refusal := .next (branchRow 0x1A (fun a b => decide (a.toNat < b.toNat)) n s)
def execBgeu (n : Fin 12) (s : State) : Host.Outcome State Fault Refusal := .next (branchRow 0x1B (fun a b => decide (b.toNat ≤ a.toNat)) n s)
/-- Format J: bits [25:18] zero. -/
def zJ : Word := 0x03FC0000
def execJmp (n : Fin 12) (s : State) : Host.Outcome State Fault Refusal := .next (seqRow 0x1C zJ n (fun i _ s => goTo n i i.imm id s) s)
def execCall (n : Fin 12) (s : State) : Host.Outcome State Fault Refusal :=
  .next (seqRow 0x1D zJ n (fun i _ s => goTo n i i.imm (setW 15 (BitVec.ofNat 32 i.next)) s) s)
def execJr (n : Fin 12) (s : State) : Host.Outcome State Fault Refusal :=
  .next (seqRow 0x1E (zRd ||| zRt ||| zLow) n (fun i q s => goTo n i (wreg q i.rs) id s) s)
def checkRow (op : Nat) (zero : Word) (lim : SIns → Seqr → Word) (n : Fin 12) (s : State) : State :=
  seqRow op zero n (fun i q s =>
    if (lim i q).toNat ≤ (wreg q i.rs).toNat then seqTrap n 2 i.word (wreg q i.rs) s else complete n i 1 id s) s
def execChk (n : Fin 12) (s : State) : Host.Outcome State Fault Refusal := .next (checkRow 0x1F zRd (fun i _ => i.imm) n s)
def execChkr (n : Fin 12) (s : State) : Host.Outcome State Fault Refusal :=
  .next (checkRow 0x17 (zRd ||| zLow) (fun i q => wreg q i.rt) n s)
/-! ## The line engine (R380, R381) -/
def lcfgOk (v : Word) : Bool :=
  within 5 (bits v 0 4) 9 && decide (bits v 4 3 ≤ 4) && !v.getLsbD 7 && decide (bits v 8 2 ≤ 2) && decide (bits v 13 19 = 0)
/-- A framing or a rate takes effect at the next character boundary: at once where no character is being sent. -/
def setLine_ (w : SWait) (q : Seqr) : Seqr :=
  match w with
  | .lcfg v => { q with lcfg := v.truncate 13 }
  | .ldiv v => { q with bitTime := v.toNat }
  | _ => q
/-- Drive TXD: nothing happens at the pin in LISTEN (R382). -/
def setTxd (n : Fin 12) (v : Bool) (s : State) : State := if listening s n then s else onTrib s n fun t => { t with txd := v }
/-- TXD rests. -/
def restLine (n : Fin 12) (s : State) : State := setTxd n (restLevel s n) s
/-- After a new framing the line rests at its idle level; a new rate leaves the line as it is. -/
def restAfter (n : Fin 12) (w : SWait) (s : State) : State := match w with | .lcfg _ => restLine n s | _ => s
def lineRow (op : Nat) (ok : Word → Bool) (w : Word → SWait) (n : Fin 12) (s : State) : State :=
  seqRow op (zRd ||| zRt ||| zLow) n (fun i q s =>
    let v := wreg q i.rs
    if !ok v then seqTrap n 9 i.word v s
    else if q.sending.isSome then waitFor n i 1 (w v) s
    else restAfter n (w v) (complete n i 1 (setLine_ (w v)) s)) s
def execLcfg (n : Fin 12) (s : State) : Host.Outcome State Fault Refusal := .next (lineRow 0x20 lcfgOk .lcfg n s)
def execLdiv (n : Fin 12) (s : State) : Host.Outcome State Fault Refusal :=
  .next (lineRow 0x21 (fun v => within 100 v.toNat 1818182) .ldiv n s)
/-- Queue a character; the line takes it at once where it is idle. In LISTEN it goes nowhere (R382). -/
def queueChar (lst : Bool) (c : BitVec 9) (q : Seqr) : Seqr :=
  if lst then q else if q.sending.isNone then { q with sending := some c } else { q with txq := q.txq ++ [c] }
def txFull (q : Seqr) : Bool := decide (q.txq.length > Config.seqTxDepth)
def drained_ (q : Seqr) : Bool := q.txq == [] && q.sending.isNone
def execSend (n : Fin 12) (s : State) : Host.Outcome State Fault Refusal :=
  .next (seqRow 0x22 (zRd ||| zRt ||| zLow) n (fun i q s =>
    let c : BitVec 9 := (wreg q i.rs).truncate 9
    if txFull q && !listening s n then waitFor n i 1 (.send c) s else complete n i 1 (queueChar (listening s n) c) s) s)
def timedOut : Word := 0x80000000
def takeChar (rd : BitVec 4) (q : Seqr) : Seqr :=
  match q.rxq with
  | [] => setW rd timedOut q
  | c :: t => setW rd c { q with rxq := t }
def execRecv (n : Fin 12) (s : State) : Host.Outcome State Fault Refusal :=
  .next (seqRow 0x23 (zRt ||| zLow) n (fun i q s =>
    if q.rxq = [] ∧ wreg q i.rs ≠ 0 then waitFor n i 1 (.recv i.rd (wreg q i.rs)) s else complete n i 1 (takeChar i.rd) s) s)
/-- imm[17:1], rd and rs zero. -/
def zBit : Word := zRd ||| zRs ||| 0x0003FFFE
def execDe (n : Fin 12) (s : State) : Host.Outcome State Fault Refusal :=
  .next (seqRow 0x24 zBit n (fun i _ s => complete n i 1 id (onTrib s n fun t => { t with de := i.imm.getLsbD 0 && !listening s n })) s)
def execSeqDrain (n : Fin 12) (s : State) : Host.Outcome State Fault Refusal :=
  .next (seqRow 0x25 (zRd ||| zRs ||| zRt ||| zLow) n (fun i q s => if drained_ q then complete n i 1 id s else waitFor n i 1 .drain s) s)
def execWedge (n : Fin 12) (s : State) : Host.Outcome State Fault Refusal :=
  .next (seqRow 0x26 0 n (fun i q s =>
    if bits i.imm 0 2 = 0 then seqTrap n 9 i.word i.imm s
    else if wreg q i.rs = 0 then complete n i 1 (setW i.rd 0xFFFFFFFF) s
    else waitFor n i 1 (.wedge i.rd (i.imm.truncate 2) (wreg q i.rs)) s) s)
def execSeqWait (n : Fin 12) (s : State) : Host.Outcome State Fault Refusal :=
  .next (seqRow 0x27 zRd n (fun i q s =>
    let k := wreg q i.rs + i.imm
    if k = 0 then complete n i 1 id s else waitFor n i 1 (.cycles k) s) s)
def execTxl (n : Fin 12) (s : State) : Host.Outcome State Fault Refusal :=
  .next (seqRow 0x28 zBit n (fun i q s =>
    if drained_ q then complete n i 1 id (setTxd n (i.imm.getLsbD 0) s) else waitFor n i 1 (.txl (i.imm.getLsbD 0)) s) s)
def execRxl (n : Fin 12) (level : Bool) (s : State) : Host.Outcome State Fault Refusal :=
  .next (seqRow 0x29 (zRs ||| zRt ||| zLow) n (fun i _ s =>
    complete n i 1 (setW i.rd (BitVec.ofNat 32 (b2n level))) (onTrib s n fun t => { t with rxd := level })) s)
/-- `LINE_CHAR_RECEIVED`. -/
def lineCharReceived (n : Fin 12) (c : BitVec 9) (par frm brk whileDe : Bool) (s : State) : State :=
  let q := seqAt s n
  if q.exec ≠ .executing ∧ q.exec ≠ .waiting then s
  else if whileDe && !q.lcfg.getLsbD 12 then s
  else if q.rxq.length ≥ 16 then onSeqr s n fun q => { q with rxOverrun := sat 32 (q.rxOverrun + 1), rxLost := true }
  else
    let w := packW [(0, c.toNat % 2 ^ (bits q.lcfg 0 4)), (16, b2n par), (17, b2n frm), (18, b2n brk), (19, b2n q.rxLost)]
    onSeqr s n fun q => { q with rxq := q.rxq ++ [w], rxLost := false }
def execLineCharReceived (n : Fin 12) (c : BitVec 9) (parity framing brk whileDe : Bool) (s : State) : Host.Outcome State Fault Refusal :=
  .next (lineCharReceived n c parity framing brk whileDe s)
/-- The levels of a character on the line, in half bits: a start bit, DATA bits in the order that MSB gives, the parity bit, and
stop bits; INVERT turns every one round (R380). -/
def charBits (f : BitVec 13) (c : BitVec 9) : List Bool :=
  let k := bits f 0 4
  let data := (List.range k).map fun i => c.getLsbD i
  let odd := data.foldl xor false
  let parity : List Bool := match bits f 4 3 with | 1 => [odd] | 2 => [!odd] | 3 => [true] | 4 => [false] | _ => []
  let whole := false :: (if f.getLsbD 10 then data.reverse else data) ++ parity
  let halves := whole.flatMap (fun b => [b, b]) ++ List.replicate (2 + bits f 8 2) true
  halves.map fun b => xor b (f.getLsbD 11)
/-- `LINE_CHAR_SENT`: a character boundary. -/
def lineCharSent (n : Fin 12) (s : State) : State :=
  let q := seqAt s n
  match q.sending with
  | none => s
  | some c =>
    let s1 := onSeqr s n fun q =>
      match q.wait with
      | some w => { setLine_ w q with wait := match w with | .lcfg _ | .ldiv _ => some .done | _ => q.wait }
      | none => q
    let s2 := onSeqr s1 n fun q =>
      match q.txq with
      | [] => { q with sending := none }
      | d :: t => { q with sending := some d, txq := t }
    (if (seqAt s2 n).sending.isNone then restLine n s2 else s2).emit (.tribChar n (charBits q.lcfg c))
def execLineCharSent (n : Fin 12) (s : State) : Host.Outcome State Fault Refusal := .next (lineCharSent n s)
/-! ## Staging and images (R383, R384) -/
/-- Staging offsets: below 1,024, aligned to the size; otherwise IMAGE. -/
def stageRow (op size : Nat) (n : Fin 12) (v : SIns → Seqr → List Byte) (s : State) : State :=
  seqRow op 0 n (fun i q s =>
    let a := wreg q i.rs + i.imm
    if a.toNat + size > 1024 ∨ a.toNat % size ≠ 0 then seqTrap n 5 i.word a s
    else complete n i 2 (fun q => { q with staging := mputs 0 q.staging a.toNat (v i q) }) s) s
def execIstb (n : Fin 12) (s : State) : Host.Outcome State Fault Refusal := .next (stageRow 0x30 1 n (fun i q => leBytes 1 (wreg q i.rd).toNat) s)
def execIstw (n : Fin 12) (s : State) : Host.Outcome State Fault Refusal := .next (stageRow 0x31 4 n (fun i q => leBytes 4 (wreg q i.rd).toNat) s)
/-- A register that names a module on this port. -/
def modNo (v : Word) : Option (Fin 255) := if 1 ≤ v.toNat ∧ v.toNat ≤ 254 then some (Fin.ofNat 255 v.toNat) else none
def countIgnored (q : Seqr) : Seqr := { q with ignored := sat 32 (q.ignored + 1) }
def execIpub (n : Fin 12) (s : State) : Host.Outcome State Fault Refusal :=
  .next (seqRow 0x32 (zRd ||| zLow) n (fun i q s =>
    let k := (wreg q i.rt).toNat
    match modNo (wreg q i.rs) with
    | none => complete n i 2 countIgnored s
    | some a =>
      let m := modAt s n a
      if !m.state.isLive then complete n i 2 countIgnored s
      else if k > inLen (m.ident.getD 0) then seqTrap n 5 i.word (wreg q i.rt) s
      else complete n i 2 id (stageInput n a ⟨mgets 0 q.staging 0 k, k, 0, s.glb.time, m.ackSeq.getD 0, false⟩ s)) s)
def outStatus (m : Mod) : Nat :=
  m.outState.code + (match m.image with | some x => if m.ackSeq = some x.pubSeq then 0 else 16 | none => 0)
def execOsel (n : Fin 12) (s : State) : Host.Outcome State Fault Refusal :=
  .next (seqRow 0x33 (zRt ||| zLow) n (fun i q s =>
    match modNo (wreg q i.rs) with
    | none => complete n i 2 (fun q => setW i.rd 0 { q with sel := none }) s
    | some a =>
      let m := modAt s n a
      complete n i 2 (fun q =>
        setW i.rd (BitVec.ofNat 32 (outStatus m)) { q with sel := m.image.map fun x => (a.val, x, m.outState) }) s) s)
/-- A read of the selected image; bytes of a word past OUT_LEN are not stated. -/
def imageRow (op size : Nat) (n : Fin 12) (s : State) : State :=
  seqRow op 0 n (fun i q s =>
    let a := wreg q i.rs + i.imm
    match q.sel with
    | none => seqTrap n 5 i.word a s
    | some (_, x, st) =>
      if st = .none ∨ x.bytes.length ≤ a.toNat ∨ a.toNat % size ≠ 0 then seqTrap n 5 i.word a s
      else
        let (v, s1) := s.draw
        let bs := (x.bytes.drop a.toNat ++ leBytes 4 v.toNat).take size
        complete n i 2 (setW i.rd (BitVec.ofNat 32 (leNat bs))) s1) s
def execOldb (n : Fin 12) (s : State) : Host.Outcome State Fault Refusal := .next (imageRow 0x34 1 n s)
def execOldw (n : Fin 12) (s : State) : Host.Outcome State Fault Refusal := .next (imageRow 0x35 4 n s)
def execOack (n : Fin 12) (s : State) : Host.Outcome State Fault Refusal :=
  .next (seqRow 0x36 (zRd ||| zRs ||| zRt ||| zLow) n (fun i q s =>
    complete n i 2 id (match q.sel with
      | some (a, x, _) => onMod s n (Fin.ofNat 255 a) fun m => { m with ackSeq := some x.pubSeq }
      | none => s)) s)
/-! ## The parameter window (R386) -/
/-- The word, or a trap where its granule is poisoned; the read is made through the port's fabric port (R386). -/
def readWindow (n : Fin 12) (i : SIns) (rd : BitVec 4) (off : Nat) (cyc : Nat) (s : State) : State :=
  let a := localOf ((seqAt s n).paramBase.toNat + off)
  let s1 := requestValue (tribPort n) (a / 256) s
  if readPoison s1 a 4 then seqTrap n 6 i.word (BitVec.ofNat 32 off) (poisonUsed (a / 256) 6 n s1)
  else complete n i cyc (setW rd (BitVec.ofNat 32 (leNat (readBytes s1 a 4)))) s1
def waitsFault (s : State) (l : Nat) : Bool := s.unbuilt (segOf l) || (s.eff l).1 = .unrestored
/-- A line that cannot be read yet: it waits for a demand fault, or for its channel (R315). -/
def lineAway (s : State) (l : Nat) : Bool := waitsFault s l || (!dchRunning s (channelOf s l) && !dchDead s (channelOf s l))
/-- Begin the demand fault that a read of the line needs. -/
def askLine (l : Nat) (s : State) : State := if waitsFault s l then startFault l true s else s
def execMld (n : Fin 12) (s : State) : Host.Outcome State Fault Refusal :=
  .next (seqRow 0x37 0 n (fun i q s =>
    let a := wreg q i.rs + i.imm
    if q.paramLen * 256 ≤ a.toNat ∨ a.toNat % 4 ≠ 0 then seqTrap n 5 i.word a s
    else if lineAway s (windowLine q a.toNat) then askLine (windowLine q a.toNat) (waitFor n i 2 (.mld i.rd a) s)
    else readWindow n i i.rd a.toNat 2 s) s)
/-! ## The module table (R385) -/
/-- MARR's result, with the state it leaves. -/
def marrive (n : Fin 12) (a : Fin 255) (d : Ident) (s : State) : Word × State :=
  let m := modAt s n a
  let same := m.ident.map identUid = some (identUid d)
  let bad := unacceptable s n a d
  let set (st : ModSt) (s : State) : State := onMod s n a fun m => { m with ident := some d, state := st }
  match m.state with
  | .disabled => (4, s)
  | .mismatch => let (v, s1) := s.draw; (v.truncate 32, s1)
  | .active =>
    (match bad with
     | some r => (BitVec.ofNat 32 r, writeHeader n a (arrive n a (set .active s)).2)
     | none => if same then (0, s) else (0, writeHeader n a (arrive n a (set .absent (depart n a 6 s))).2))
  | st =>
    let s1 := writeHeader n a (arrive n a (set st s)).2
    (match bad with | some r => (BitVec.ofNat 32 r, s1) | none => (0, s1))
def execMarr (n : Fin 12) (s : State) : Host.Outcome State Fault Refusal :=
  .next (seqRow 0x38 zLow n (fun i q s =>
    let p := wreg q i.rt
    if p.toNat % 4 ≠ 0 ∨ p.toNat + 31 > 0x1FFF then seqTrap n 4 i.word p s
    else match modNo (wreg q i.rs) with
      | none => complete n i 2 (setW i.rd 4) s
      | some a =>
        let (v, s1) := marrive n a (BitVec.ofNat 256 (leNat (mgets 0 q.dmem p.toNat 32))) s
        complete n i 2 (setW i.rd v) s1) s)
/-- MDEP. -/
def mdepart (n : Fin 12) (a : Fin 255) (gone : Bool) (s : State) : State :=
  let m := modAt s n a
  if !gone then depart n a 6 s
  else if m.state.isIn then
    writeHeader n a (onMod (depart n a 6 s) n a fun m => { m with state := .absent, assigned := false })
  else s
def execMdep (n : Fin 12) (s : State) : Host.Outcome State Fault Refusal :=
  .next (seqRow 0x39 zRd n (fun i q s =>
    complete n i 2 id (match modNo (wreg q i.rs) with | some a => mdepart n a (i.imm.getLsbD 0) s | none => s)) s)
def execMqry (n : Fin 12) (s : State) : Host.Outcome State Fault Refusal :=
  .next (seqRow 0x3A (zRt ||| zLow) n (fun i q s =>
    let a := (wreg q i.rs).toNat
    complete n i 2 (setW i.rd (BitVec.ofNat 32 (if a ≤ 254 then modWord (tribAt s n) a else 0))) s) s)
/-! ## Special registers, HALT, NOP (R382, R388) -/
def special (s : State) (n : Fin 12) (q : Seqr) (k : Nat) : Option Word :=
  match k with
  | 0 => some (q.time.truncate 32)
  | 1 => some q.timeHi
  | 2 => some (BitVec.ofNat 32 (b2n q.stopreq))
  | 3 => some (BitVec.ofNat 32 (b2n (tribAt s n).token))
  | 4 => some (BitVec.ofNat 32 n)
  | 5 => some (BitVec.ofNat 32 q.rxq.length)
  | 6 => some (BitVec.ofNat 32 (tribAt s n).cfg.cycle)
  | 7 => some 254
  | _ => none
def execMfs (n : Fin 12) (s : State) : Host.Outcome State Fault Refusal :=
  .next (seqRow 0x3C zRs n (fun i q s =>
    match special s n q i.imm.toNat with
    | none => seqTrap n 1 i.word i.word s
    | some v => complete n i 1 (fun q => setW i.rd v { q with timeHi := if i.imm = 0 then (q.time >>> 32).truncate 32 else q.timeHi }) s) s)
/-- The port's drain ends with its program's clean stop (R388, R392). -/
def portStopped (n : Fin 12) (s : State) : State :=
  if tribLife s n = .draining then
    onSeqr (drained (unitAt .trib n.val) (tribStopped n s)) n fun q => { q with stopreq := false }
  else s
def execHalt (n : Fin 12) (s : State) : Host.Outcome State Fault Refusal :=
  .next (seqRow 0x3D (zRd ||| zRs) n (fun i q s =>
    if i.imm = 0 ∧ q.stopreq then
      portStopped n (onTrib (onSeqr s n fun q => { q with exec := .clean, sel := none, txq := [], sending := none, time := q.time + 1 }) n fun t => { t with de := false })
    else seqTrap n 8 i.word i.imm s) s)
def execNop (n : Fin 12) (s : State) : Host.Outcome State Fault Refusal :=
  .next (seqRow 0x3E (zRd ||| zRs ||| zRt ||| zLow) n (fun i _ s => complete n i 1 id s) s)
/-! ## Waits (R376) -/
/-- The wait ends: the instruction completes after `cyc` more cycles. -/
def endWait (n : Fin 12) (cyc : Nat) (f : Seqr → Seqr) (s : State) : State :=
  onSeqr s n fun q => let q1 := f q; { q1 with exec := .executing, wait := none, pc := q.nextPc, time := q.time + BitVec.ofNat 64 cyc }
/-- The waiting instruction, as it was fetched. -/
def waitingIns (q : Seqr) : SIns := match fetch q with | .ins i => { i with ext := 0 } | _ => ⟨0, q.pc, q.nextPc, 0, 0⟩
/-- `SEQ_WAIT_END`: nothing happens where the condition is not met. -/
def seqWaitEnd (n : Fin 12) (timeout : Bool) (cycles : Word) (s : State) : State :=
  let q := seqAt s n
  let c := cycles.toNat
  if q.exec ≠ .waiting then s else
  match q.wait with
  | none => s
  | some (.send ch) => if txFull q && !listening s n then s else endWait n c (queueChar (listening s n) ch) s
  | some (.recv rd lim) =>
    if timeout then (if q.rxq = [] then endWait n lim.toNat (setW rd timedOut) s else s)
    else if q.rxq = [] then s else endWait n c (takeChar rd) s
  | some .drain => if drained_ q then endWait n c id s else s
  | some (.txl v) => if drained_ q then endWait n c id (setTxd n v s) else s
  | some (.wedge rd _ lim) => if timeout then endWait n lim.toNat (setW rd 0xFFFFFFFF) s else endWait n c (setW rd cycles) s
  | some (.cycles k) => endWait n k.toNat id s
  | some (.mld rd off) =>
    if lineAway s (windowLine q off.toNat) then askLine (windowLine q off.toNat) s else
    let s1 := onSeqr s n fun q => { q with time := q.time + BitVec.ofNat 64 c }
    readWindow n (waitingIns q) rd off.toNat 0 s1
  | some (.lcfg v) => if q.sending.isSome then s else restLine n (endWait n c (setLine_ (.lcfg v)) s)
  | some (.ldiv v) => if q.sending.isSome then s else endWait n c (setLine_ (.ldiv v)) s
  | some .done => endWait n c id s
def execSeqWaitEnd (n : Fin 12) (timeout : Bool) (cycles : Word) (s : State) : Host.Outcome State Fault Refusal :=
  .next (seqWaitEnd n timeout cycles s)
/-! ## Beginning, stopping and loading (R375, R389–R392) -/
/-- Execution may begin: the sequencer is RUNNING, and its legacy port RUNNING, or DRAINING until a clean stop (R392). -/
def mayRun (s : State) (n : Fin 12) : Bool := s.isRunning .seq n && tribAlive s n && isLegacy (tribAt s n)
/-- `SEQ_EXEC_BEGIN`. -/
def seqExecBegin (n : Fin 12) (s : State) : State :=
  if !mayRun s n ∨ (seqAt s n).exec ≠ .off then s else
  setTxd n true <| onSeqr s n fun q =>
    { q with exec := .executing, pc := q.entry, regs := Vector.replicate 16 0, staging := [], wait := none, sel := none, time := 0, timeHi := 0,
             lcfg := 8, bitTime := 2000 }
def execSeqExecBegin (n : Fin 12) (s : State) : Host.Outcome State Fault Refusal := .next (seqExecBegin n s)
/-- Execution is to begin again: the port started, or its TOKEN changed. -/
def seqAgain (n : Fin 12) (s : State) : State :=
  onSeqr s n fun q => if q.exec = .trapped then q else { q with exec := .off, wait := none, sel := none }
/-- The port stops by ABORT, or power fails: execution stops at once. -/
def seqAbort (n : Fin 12) (s : State) : State :=
  onSeqr (idlePins n (tribAt s n).sgOn (releaseLine n s)) n fun q =>
    { q with exec := if q.exec = .trapped ∨ q.exec = .clean then q.exec else .off, wait := none, sel := none, stopreq := false }
/-- `TOKEN_CHANGE`: TOKEN follows the mirror role (R366); a legacy port's program begins again (R392). -/
def tokenChange (n : Fin 12) (token : Bool) (s : State) : State :=
  let t := tribAt s n
  if token ≠ decide (s.mir.role ≠ .standby ∧ !s.mir.handing) ∨ t.token = token then s
  else
    let s1 := if t.rollOpen ∨ t.rollDue then endRoll n St.tribListen s else s
    let s2 := onTrib s1 n fun t =>
      { t with token := token, toPoll := [], awaiting := [], inCycle := false, claims := [], first := true, de := false, txd := true }
    if isLegacy t then seqAgain n (releaseLine n s2) else s2
def execTokenChange (n : Fin 12) (token : Bool) (s : State) : Host.Outcome State Fault Refusal := .next (tokenChange n token s)
/-- A dialect image's header and its parts (R389). -/
structure Dialect where
  words : Nat
  data  : Nat
  entry : Nat
  crc   : Nat
  reason : Nat
deriving DecidableEq, Repr
def windowOk (s : State) (q : Seqr) : Bool :=
  let a := q.paramBase.toNat
  q.paramLen == 0 || (decide (a / 2 ^ 38 = s.slot) && decide ((a + q.paramLen * 256 - 1) / 2 ^ 38 = s.slot)
    && s.segExists (segOf (localOf (a + q.paramLen * 256 - 1) / 256)))
/-- Read the image that `SEQ_IMAGE` names: how much of it is loaded, and REASON as R390 numbers it, 0 where it is good. DEDUCED (log
entry 164): poison comes before what it stands in is looked at, for R330 has the consumer use no poisoned granule; an image that is
none is loaded as far as its header says and the memories reach. -/
def readDialect (s : State) (q : Seqr) : Dialect :=
  let g := q.image
  let e := s.seg g
  let wrong := e.cls ≠ .constant || !e.sealed
  if !s.segExists g then ⟨0, 0, 0, 0, 1⟩
  else if bankPoison s g 0 64 then ⟨0, 0, 0, 0, if wrong then 1 else 5⟩
  else
    let h := bankBytes s g 0 64
    let w := field h 8 2
    let d := field h 10 2
    let en := field h 12 2
    let c := field h 60 4
    let r := if wrong then 1
      else if field h 0 4 ≠ 0x444C4354 ∨ field h 4 1 ≠ 1 ∨ field h 5 1 ≠ 1 ∨ !zeros h 6 2 ∨ !zeros h 14 2 ∨ !zeros h 52 8 then 2
      else if w = 0 ∨ w > 4096 ∨ d > 8192 ∨ d % 4 ≠ 0 ∨ en ≥ w ∨ 64 + 4 * w + d > 2097152 then 3
      else if bankPoison s g 64 (4 * w + d) then 5
      else if (crc32 (h.take 60 ++ bankBytes s g 64 (4 * w + d))).toNat ≠ c then 4
      else if !windowOk s q then 6 else 0
    ⟨min w 4096, min d 8192, en, c, r⟩
def wordsOf (bs : List Byte) (n : Nat) : List Word := (List.range n).map fun i => BitVec.ofNat 32 (field bs (4 * i) 4)
/-- `UNIT_START` of a sequencer: the image is loaded, then checked as a whole. -/
def loadDialect (n : Fin 12) (s0 : State) : Nat × State :=
  let q0 := seqAt s0 n
  let s := if s0.segExists q0.image then (linesFrom (segLine q0.image * 256) 28736).foldl (fun s l => faultIn l s) s0 else s0
  let k := readDialect s q0
  let s1 := if k.reason = 5 then notePoisonRead n q0.image 0 (64 + 4 * k.words + k.data) s else s
  let loaded (q : Seqr) : Seqr :=
    let body := if k.words + k.data = 0 then [] else bankBytes s q.image 64 (4 * k.words + k.data)
    { q with imem := mputs 0 [] 0 (wordsOf body k.words), dmem := mputs 0 [] 0 (body.drop (4 * k.words)) }
  let s2 := onSeqr s1 n fun q =>
    let q1 := loaded q
    { q1 with imageReason := k.reason, id := if k.reason = 0 then BitVec.ofNat 32 k.crc else q.id, entry := if k.reason = 0 then k.entry else q.entry }
  if k.reason = 0 then
    (0, onSeqr s2 n fun q => { q with exec := .off, wait := none, trap := 0, trapPc := 0, trapWord := 0, trapArg := 0 })
  else (k.reason, s2)
/-! ## Commands (R393, R394) -/
def seqConfigInfo : CmdInfo := { op := 0x0C10, auth := auConfigure, used := [(16, 32), (24, 64), (32, 16)], sel := .units .seq }
def seqSettings (f : Nat → Nat → Nat) (q : Seqr) : Seqr := { q with image := f 16 4, paramBase := BitVec.ofNat 40 (f 24 8), paramLen := f 32 2 }
def seqConfigOk (d : Desc) : Bool :=
  decide (d.p 16 4 < 2 ^ 17) && d.p 24 8 % 256 == 0 && decide (d.p 24 8 < 2 ^ 40) && decide (d.p 32 2 ≤ 8192)
def seqConfig (d : Desc) (s : State) : State :=
  command seqConfigInfo d (seqConfigOk d) (fun ts s =>
    let chk := mustBeStopped s .seq
    let ok := passedOf ts (failing ts chk)
    storingAs (statusOf ts (failing ts chk)) d 0x0C10 ok (ok.map fun t => setting 0x0C10 t (paramBytes d)) (maskOf ok) s) s
def seqConfigApply (d : Desc) (ts : List Nat) (s : State) : State := ts.foldl (fun s t => onSeqr s (Fin.ofNat 12 t) (seqSettings d.p)) s
def execSeqConfig (d : Desc) (s : State) : Host.Outcome State Fault Refusal := .next (seqConfig d s)
def SExec.code : SExec → Nat
  | .off => 0 | .executing => 1 | .waiting => 2 | .clean => 3 | .trapped => 4
/-- `SEQ_STAT` (R393). -/
def seqStat (s : State) (n : Fin 12) : Nat :=
  let q := seqAt s n
  pack [(0, q.exec.code), (4, b2n q.stopreq), (5, b2n (listening s n)), (8, q.imageReason), (16, q.pc % 4096)]
def seqQueryInfo : CmdInfo := { op := 0x0C11, auth := auObserve, sel := .units .seq }
def seqQuery (d : Desc) (s : State) : State :=
  command seqQueryInfo d true (fun ts s =>
    let n : Fin 12 := Fin.ofNat 12 (ts.headD 0)
    finish d St.ok (queryResult d ts (pack [(0, seqStat s n), (32, (seqAt s n).id.toNat)])) s) s
def execSeqQuery (d : Desc) (s : State) : Host.Outcome State Fault Refusal := .next (seqQuery d s)
end Sys2Proof.Machine
end

