-- ==== Sys2Proof/Machine/Lifecycle.lean ====
section
/-! DEFINITION. The lifecycle commands that every unit class has (R59–R61), with the effects that each unit's chapter gives a
start, a stop and a fault; and the deletion of a mailbox (R67). -/
namespace Sys2Proof.Machine
def LClass.opcode (cc : LClass) (k : Nat) : Nat := cc.code * 256 + k
def unitQueryInfo (cc : LClass) : CmdInfo := { op := LClass.opcode cc 1, auth := auObserve, sel := .units cc }
/-- The nibble of R61 for instance `i`. -/
def lifeNibble (s : State) (cc : LClass) (ts : List Nat) (i : Nat) : Nat :=
  if ts.contains i && s.installed cc i then (s.lifeOf cc i).code else 0xF
/-- `UNIT_QUERY`: 16 nibbles, those beyond the class reading 0xF. -/
def unitQuery (cc : LClass) (d : Desc) (s : State) : State :=
  command (unitQueryInfo cc) d true (fun ts s =>
    finish d St.ok (pack ((List.range 16).map fun i => (4 * i, if i < cc.size then lifeNibble s cc ts i else 0xF))) s) s
def execUnitQuery (cc : LClass) (d : Desc) (s : State) : Host.Outcome State Fault Refusal := .next (unitQuery cc d s)
/-! ## Starting (R59, R253, R282, R313, R368, R390, R396) -/
def toState (cc : LClass) (i : Nat) (l : Life) (s : State) : State := s.toLife (unitAt cc i) l
/-- Take target `i` in turn: the check's status, if any, and the state after. -/
abbrev Turn := Nat → State → Option Nat × State
/-- Targets in ascending order, each on the state that the ones before leave: those that failed with their statuses, and the
state. -/
def inTurn (f : Turn) : List Nat → State → List (Nat × Nat) × State
  | [], s => ([], s)
  | i :: t, s =>
    let r := f i s
    let (fails, s') := inTurn f t r.2
    match r.1 with
    | none => (fails, s')
    | some st => ((i, st) :: fails, s')
/-- A command on targets in turn, with the status and mask of R58. -/
def turns (d : Desc) (ts : List Nat) (f : Turn) (s : State) : State :=
  let (fails, s') := inTurn f ts s
  finish d (statusOf ts fails) (maskOf (passedOf ts fails)) s'
/-- The state must be `l`. -/
def needLife (cc : LClass) (l : Life) (act : Turn) : Turn := fun i s => if s.lifeOf cc i = l then act i s else (some St.unitState, s)
/-- LUNs of a channel that are present and have not been retired (R244, R253). -/
def lunsBack (s : State) (c : Fin 16) : BitVec 8 :=
  let keep := (List.range 8).filter fun i =>
    let lun := lunKey c (i / 2) (i % 2)
    s.store.ch[c].cePresent.getLsbD (i / 2)
      && (match s.store.formatGood.find? (·.1 = lun) with | some g => decide (goodBlocks s.store lun * 10 ≥ g.2 * 9) | none => s.store.ch[c].lunSvc.getLsbD i)
  BitVec.ofNat 8 (maskOf keep)
/-- The refresh mode that a fixed REF_MODE gives; with 0 it is left to the temperature (R306). -/
def refreshMode (d : Dch) : Dch := { d with ref2x := if d.refMode = 0 then d.ref2x else d.refMode == 2 }
/-- A DRAM channel leaves self-refresh with the settings that are in force now, and its waiting requests go on (R313). -/
def dchBegin (c : Fin 4) (s : State) : State :=
  serveReads (admitWaiting c 192 (onDch s c fun d => { refreshMode d with selfRef := false }))
def legacyHere (s : State) (n : Nat) : Bool := isLegacy (tribAt s (Fin.ofNat 12 n))
/-- `UNIT_START` of one STOPPED instance. -/
def startUnit (cc : LClass) : Turn := fun i s =>
  let run (s : State) : State := toState cc i .running s
  match cc with
  | .nst =>
    let c : Fin 16 := Fin.ofNat 16 i
    let s1 := onStore s fun st => { st with ch := vmod st.ch c fun x => { x with lunSvc := lunsBack s c }, evacuating := st.evacuating &&& ~~~(BitVec.ofNat 16 (2 ^ i)) }
    (none, issueAll (checkCapacity (run s1)))
  | .scan => (none, (List.range 16).foldl (fun s c => resyncAll (Fin.ofNat 16 c) s) (run s))
  | .dch => (none, dchBegin (Fin.ofNat 4 i) (run s))
  | .trib =>
    let n : Fin 12 := Fin.ofNat 12 i
    let r := startReason s n
    if r ≠ 0 then (some St.badParam, onTrib s n fun t => { t with startReason := r })
    else if isLegacy (tribAt s n) ∧ !s.isRunning .seq i then (some St.tribNoDialect, s)
    else
      let s1 := tribBegin n (run s)
      (none, if isLegacy (tribAt s n) then onSeqr (seqAgain n s1) n (fun q => { q with stopreq := false }) else s1)
  | .seq =>
    let (r, s1) := loadDialect (Fin.ofNat 12 i) s
    if r ≠ 0 then (some St.badParam, s1) else (none, run s1)
  | .mir => (none, linkClear (.mir (Fin.ofNat 2 i)) .training (run s))
  | .conf => (none, linkClear (.conf (Fin.ofNat 3 i)) .training (run s))
def unitPowerUpInfo (cc : LClass) : CmdInfo := { op := LClass.opcode cc 2, auth := auConfigure, sel := .units cc }
/-- `UNIT_POWER_UP`: a tributary port's configuration and entries are read from the ledger (R370); what it loads of the others is what
`State` holds for the instance, for nothing changes it but their stored commands (R492). A Confluence port with no partner in the
cluster stays OFF (R416; its status is a DESIGN CHOICE, log entry 191). -/
def unitPowerUp (cc : LClass) (d : Desc) (s : State) : State :=
  command (unitPowerUpInfo cc) d true (fun ts s => turns d ts (needLife cc .off fun i s =>
    if cc = .conf ∧ !(wired s).contains (Fin.ofNat 3 i) then (some St.unitState, s) else
    (none, toState cc i .stopped (if cc = .trib then reloadTrib (Fin.ofNat 12 i) s else s))) s) s
def execUnitPowerUp (cc : LClass) (d : Desc) (s : State) : Host.Outcome State Fault Refusal := .next (unitPowerUp cc d s)
def unitStartInfo (cc : LClass) : CmdInfo := { op := LClass.opcode cc 3, auth := auConfigure, sel := .units cc }
def unitStart (cc : LClass) (d : Desc) (s : State) : State :=
  command (unitStartInfo cc) d true (fun ts s => settleWeir (turns d ts (needLife cc .stopped (startUnit cc)) s)) s
def execUnitStart (cc : LClass) (d : Desc) (s : State) : Host.Outcome State Fault Refusal := .next (unitStart cc d s)
/-! ## Stopping -/
/-- RESTORE or READY, during which some units may not stop. -/
def serving (s : State) : Bool := s.glb.state == 1 || s.glb.state == 2
/-- Why a unit in a state that allows the stop must not be stopped (R253, R313, R391, R437). -/
def stopBad (s : State) (cc : LClass) (i : Nat) : Option Nat :=
  match cc with
  | .nst => if serving s && holdsLive s.store i then some St.nstLive else none
  | .dch => if s.dch[Fin.ofNat 4 i].mig.isSome then some St.dchMigrating else none
  | .seq => if (tribLife s (Fin.ofNat 12 i) = .running ∨ tribLife s (Fin.ofNat 12 i) = .draining) ∧ legacyHere s i then some St.seqPort else none
  | .conf => if serving s && s.conf.members.getLsbD (slotAt s (Fin.ofNat 3 i)) then some St.confMember else none
  | _ => none
/-- What must be over before a DRAINING instance is STOPPED (R253, R282, R313, R368, R392, R414). -/
def unitIdle (s : State) (cc : LClass) (i : Nat) : Bool :=
  match cc with
  | .nst => !(s.store.ops.any (·.ch = Fin.ofNat 16 i))
  | .scan => (passes s).isEmpty
  | .dch => s.dch[Fin.ofNat 4 i].reqs.isEmpty && s.dch[Fin.ofNat 4 i].wq.isEmpty
  | .trib =>
    let n : Fin 12 := Fin.ofNat 12 i
    tribIdle s n && (!legacyHere s i || (seqAt s n).exec = .clean)
  | .seq => true
  | .mir => let k := linkOf s (.mir (Fin.ofNat 2 i)); k.window.isEmpty && k.backlog.isEmpty
  | .conf => let k := linkOf s (.conf (Fin.ofNat 3 i)); k.window.isEmpty && k.backlog.isEmpty
/-- What a drain leaves when it ends. -/
def drainFinish (cc : LClass) (i : Nat) (s : State) : State :=
  match cc with
  | .dch => onDch s (Fin.ofNat 4 i) fun d => { d with selfRef := true, rows := [] }
  | .trib =>
    let n : Fin 12 := Fin.ofNat 12 i
    onSeqr (tribStopped n s) n fun q => { q with stopreq := false }
  | .mir => mirPortDown (Fin.ofNat 2 i) .down s
  | .conf => linkClear (.conf (Fin.ofNat 3 i)) .down s
  | _ => s
/-- A drain begins: new work is refused from here on (R59). -/
def drainBegin (cc : LClass) (i ms : Nat) (s : State) : State :=
  let u := unitAt cc i
  let s1 := { s.toLife u .draining with life := vmod (s.toLife u .draining).life u fun x => { x with drainMs := ms } }
  match cc with
  | .trib =>
    let n : Fin 12 := Fin.ofNat 12 i
    let s2 := if legacyHere s i then onSeqr s1 n fun q => { q with stopreq := true } else s1
    tribQuiet n false s2
  | _ => s1
/-- Programs of a channel are cut off: their pages are never read, their blocks take no further programs, and what they held is
written elsewhere; erases are repeated (R253). -/
def nstAbort (c : Fin 16) (s : State) : State :=
  let progs := s.store.ops.filter fun o => o.ch = c ∧ o.kind = .program
  let (ops, s1) := takeOps c (fun o => o.kind ≠ .erase) (s.toLife (nstLife c) .stopped)
  let s2 := progs.foldl (fun s o => setBlk (blockOf o.ppa) (fun b => { b with cut := true }) s) s1
  let s3 := if openStripeOn s2.store c.val then closeStripe s2 else s2
  issueAll (moveOps ops s3)
/-- Reads not issued go back and wait; reads issued complete, and every write queued is written (R313). -/
def dchAbort (c : Fin 4) (s0 : State) : State :=
  let done := s0.dch[c].reqs.filter fun r => r.issued && !r.write && !r.merge
  let s := s0.dch[c].wq.foldl (fun s w => plant w.burst s) (done.foldl (fun s r => flightDone r.id (fun _ x => x) (noteLatency r s)) s0)
  onDch s c fun d =>
    { d with waiting := (d.reqs.filter fun r => !r.write && !r.merge && !r.issued).map (fun r => { r with raw := false }) ++ d.waiting,
             reqs := [], wq := [], draining := false, selfRef := true, rows := [] }
/-- Captures under way are completed (R368). -/
def finishCaptures (n : Fin 12) : Nat → State → State
  | 0, s => s
  | k + 1, s => if (tribAt s n).captures = [] then s else finishCaptures n k (takeCapture n s)
/-- The port's MDIO accesses that a command asked for. -/
def dropMdio (n : Nat) (s : State) : State :=
  let hit (a : Mdio) : Bool := decide (a.port = n) && a.cmd.isSome
  let gone := (s.mdio[0] ++ s.mdio[1]).filter hit
  let s1 := { s with mdio := s.mdio.map fun q => q.filter fun a => !hit a }
  gone.foldl (fun s a => match a.cmd with
    | some (p, tag) => onCmds s p (endCmd (portAlive s p) tag fun c => { c with phase := .finished, status := BitVec.ofNat 16 St.aborted })
    | none => s) s1
/-- The effects of ABORT on an instance's work in flight (R253, R282, R313, R368, R392, R414). -/
def abortUnit (cc : LClass) (i : Nat) (s : State) : State :=
  match cc with
  | .nst => nstAbort (Fin.ofNat 16 i) s
  | .scan =>
    let s1 := abortPasses s
    let ps := s1.ret.writes.filter fun p => p.wait = .visit
    let s2 := ps.foldl (fun s p => setPiece p .served s) s1
    serveReads (ps.foldl (fun s p => applyServed p.fp 64 s) s2)
  | .dch => dchAbort (Fin.ofNat 4 i) s
  | .trib =>
    let n : Fin 12 := Fin.ofNat 12 i
    let s1 := dropMdio i (finishCaptures n 1024 (tribQuiet n true s))
    tribStopped n (if legacyHere s i then seqAbort n s1 else s1)
  | .seq => seqAbort (Fin.ofNat 12 i) s
  | .mir => mirPortDown (Fin.ofNat 2 i) .down s
  | .conf => linkClear (.conf (Fin.ofNat 3 i)) .down s
/-- A stopped channel's LUNs are out of service, and the capacity is taken anew (R225, R253). -/
def stoppedNow (cc : LClass) (s : State) : State := if cc = .nst then checkCapacity s else s
/-- ABORT of an instance that is RUNNING, or DRAINING: an earlier STOP then ends with `st` (R59). -/
def abortTo (cc : LClass) (i st : Nat) (s : State) : State :=
  drainEnds (unitAt cc i) st (stoppedNow cc (toState cc i .stopped (abortUnit cc i s)))
def stopInfo (cc : LClass) : CmdInfo :=
  { op := LClass.opcode cc 4, auth := auConfigure, used := [(16, 8), (20, 32)], sel := .units cc, enc := fun d => decide (d.p 16 1 ≤ 1) }
/-- `UNIT_STOP` with MODE DRAIN. -/
def unitStopDrain (cc : LClass) (d : Desc) (s : State) : State :=
  if d.p 16 1 ≠ 0 then s else
  command (stopInfo cc) d true (fun ts s =>
    let (fails, s') := inTurn (fun i s =>
      if s.lifeOf cc i = .draining then (some St.busy, s)
      else if s.lifeOf cc i ≠ .running then (some St.unitState, s)
      else match stopBad s cc i with
        | some st => (some st, s)
        | none => (none, drainBegin cc i (d.p 20 4) s)) ts s
    let ok := passedOf ts fails
    if ok = [] then finish d (statusOf ts fails) 0 s'
    else running d (.drain (ok.map fun i => cc.base + i) ts fails) (maskOf ok) s') s
def execUnitStopDrain (cc : LClass) (d : Desc) (s : State) : Host.Outcome State Fault Refusal := .next (unitStopDrain cc d s)
/-- `UNIT_STOP` with MODE ABORT; a MODE that is reserved is refused here. -/
def unitStopAbort (cc : LClass) (d : Desc) (s : State) : State :=
  if d.p 16 1 = 0 then s else
  command (stopInfo cc) d true (fun ts s => settleWeir (turns d ts (fun i s =>
    if s.lifeOf cc i = .draining then (none, abortTo cc i St.aborted s)
    else if s.lifeOf cc i ≠ .running then (some St.unitState, s)
    else match stopBad s cc i with
      | some st => (some st, s)
      | none => (none, abortTo cc i St.aborted s)) s)) s
def execUnitStopAbort (cc : LClass) (d : Desc) (s : State) : Host.Outcome State Fault Refusal := .next (unitStopAbort cc d s)
/-! ## Clearing a fault and powering down -/
def unitClearFaultInfo (cc : LClass) : CmdInfo := { op := LClass.opcode cc 5, auth := auConfigure, sel := .units cc }
/-- The fault record goes; a DRAM channel whose restarts were tried has lost what its ranks held (R315). -/
def clearUnit (cc : LClass) (i : Nat) (s : State) : State :=
  let s1 := toState cc i .stopped (setFault (unitAt cc i) 0 s)
  match cc with
  | .dch =>
    let c : Fin 4 := Fin.ofNat 4 i
    let s2 := if s1.dch[c].restarts > 0 then loseChannel c s1 else s1
    onDch s2 c fun d => { d with dead := false, restarts := 0, selfRef := true }
  | .nst => onStore s1 fun st => { st with ch := vmod st.ch (Fin.ofNat 16 i) fun x => { x with restarts := 0 } }
  | _ => s1
def unitClearFault (cc : LClass) (d : Desc) (s : State) : State :=
  command (unitClearFaultInfo cc) d true (fun ts s => settleWeir (turns d ts (needLife cc .faulted fun i s => (none, clearUnit cc i s)) s)) s
def execUnitClearFault (cc : LClass) (d : Desc) (s : State) : Host.Outcome State Fault Refusal := .next (unitClearFault cc d s)
def unitPowerDownInfo (cc : LClass) : CmdInfo := { op := LClass.opcode cc 6, auth := auConfigure, sel := .units cc }
/-- Why a STOPPED unit must not be powered down (R313, R391, R437). -/
def downBad (s : State) (cc : LClass) (i : Nat) : Option Nat :=
  match cc with
  | .dch => if serving s then some St.dchLive else none
  | .seq | .conf => stopBad s cc i
  | _ => none
def unitPowerDown (cc : LClass) (d : Desc) (s : State) : State :=
  command (unitPowerDownInfo cc) d true (fun ts s => turns d ts (needLife cc .stopped fun i s =>
    match downBad s cc i with
    | some st => (some st, s)
    | none => (none, toState cc i .off (if cc = .trib then idlePins (Fin.ofNat 12 i) false s else s))) s) s
def execUnitPowerDown (cc : LClass) (d : Desc) (s : State) : Host.Outcome State Fault Refusal := .next (unitPowerDown cc d s)
/-! ## Ends -/
/-- `DRAIN_COMPLETE`: nothing happens while work is still in flight. -/
def drainComplete (u : Fin 50) (s : State) : State :=
  let (cc, i) := classOf u
  if s.life[u].life = .draining ∧ unitIdle s cc i then drainEnds u St.ok (stoppedNow cc ((drainFinish cc i s).toLife u .stopped)) else s
def execDrainComplete (i : Fin 50) (s : State) : Host.Outcome State Fault Refusal := .next (settleWeir (drainComplete i s))
/-- `DRAIN_TIMEOUT`, of a drain that has a time-out. -/
def drainTimeout (u : Fin 50) (s : State) : State :=
  let (cc, i) := classOf u
  if s.life[u].life = .draining ∧ s.life[u].drainMs ≠ 0 then abortTo cc i St.timeout s else s
def execDrainTimeout (i : Fin 50) (s : State) : Host.Outcome State Fault Refusal := .next (settleWeir (drainTimeout i s))
/-- `UNIT_INTERNAL_FAULT`: the requests of a DRAM channel wait at their ports, NAND operations are kept for a restart; work
in flight of the other classes ends as by ABORT (R59, R254, R315). -/
def unitInternalFault (u : Fin 50) (code : Word) (s : State) : State :=
  let (cc, i) := classOf u
  if s.life[u].life ≠ .running ∧ s.life[u].life ≠ .draining then s
  else match cc with
    | .dch => dchFault (Fin.ofNat 4 i) code.toNat s
    | .nst => saveLoses (Fin.ofNat 16 i) (unitFault u code.toNat (onNch s (Fin.ofNat 16 i) fun x => { x with restarts := 0, errs := x.errs ||| 0x10 }))
    | .seq =>
      -- an uncorrectable word of sequencer memory is the trap ECC (R320, R387); its address is not given
      if code = 7 then
        let (v, s1) := s.draw
        seqTrap (Fin.ofNat 12 i) 7 (imemAt (seqAt s (Fin.ofNat 12 i)) (seqAt s (Fin.ofNat 12 i)).pc) (v.truncate 32) (sramUncorrectable 4 0x0C s1)
      else unitFault u code.toNat (abortUnit cc i s)
    | _ => unitFault u code.toNat (abortUnit cc i s)
def execUnitInternalFault (i : Fin 50) (code : Word) (s : State) : Host.Outcome State Fault Refusal := .next (settleWeir (unitInternalFault i code s))
/-! ## Deleting a mailbox (R67) -/
def mbxQueueDeleteInfo : CmdInfo := { op := 0x0202, auth := auConfigure, used := [(16, 1)], sel := .otherMailbox }
/-- A command that a lifecycle unit is carrying out ends with what the unit's ABORT does to it. DESIGN CHOICE (log entry 150): an
`NST_EVACUATE` is no such work, and runs to its own end. -/
def cutWork (p : Fin 12) (c : Cmd) (s : State) : State :=
  match c.phase with
  | .running (.drain left _ _) =>
    left.foldl (fun s j => let u : Fin 50 := Fin.ofNat 50 j
                           if s.life[u].life = .draining then abortTo (classOf u).1 (classOf u).2 St.aborted s else s) s
  | .running (.rollcall left _ _ _) => left.foldl (fun s n => endRoll (Fin.ofNat 12 (n % 12)) St.aborted s) s
  | .running (.mdio _) => { s with mdio := s.mdio.map fun q => q.filter fun a => a.cmd ≠ some (p, c.tag) }
  | _ => s
/-- Every other command runs to its own end; no completion of the mailbox is written any more. -/
def deleteMq (q : Fin 4) (s : State) : State :=
  let p : Fin 12 := Fin.ofNat 12 q
  let s1 := (cmdsOf s p).foldl (fun s c => if c.orphan then s else cutWork p c s) s
  let mdio (c : Cmd) : Bool := match c.phase with | .running (.mdio _) => true | _ => false
  let s2 := onMq s1 q fun m => { m with cmds := ((m.cmds.filter fun c => !c.phase.isFinished && !mdio c).map fun c => { c with orphan := true }) }
  narrowNow (fun x _ => x = p) (onMq s2 q fun m => { Mailbox.reset with cmds := m.cmds, dbRange := m.dbRange, dmaFail := m.dmaFail, eqOver := m.eqOver, eqLost := m.eqLost })
/-- `MBX_QUEUE_DELETE` (R67). DESIGN CHOICE (log entry 151): on a mailbox that is ABSENT it completes with `ST_UNIT_STATE`. -/
def mbxQueueDelete (d : Desc) (s : State) : State :=
  command mbxQueueDeleteInfo d true (fun ts s =>
    let q : Fin 4 := Fin.ofNat 4 (ts.headD 0)
    let busy := s.host.mq[q].cmds.any fun c => !c.orphan
    if s.host.mq[q].state = .absent then finish d St.unitState 0 s
    else if busy ∧ !d.bit 16 0 then finish d St.busy 0 s
    else finish d St.ok 0 (deleteMq q s)) s
def execMbxQueueDelete (d : Desc) (s : State) : Host.Outcome State Fault Refusal := .next (settleWeir (mbxQueueDelete d s))
end Sys2Proof.Machine
end

