-- ==== Sys2Proof/Machine/Save.lean ====
section
/-! DEFINITION. The power-fail save (chapter 06): its causes, T0, the quiesce, the sluice's programs, the seal, and a resume
without restore. -/
namespace Sys2Proof.Machine
/-! ## Causes (R186–R189) -/
/-- `VIN_TRIP`: `VIN_SENSE` below TRIP for VIN_FILT. -/
def vinTrip (mv : Nat) (s : State) : State :=
  let s1 := onSlu s fun x => { x with vin := sat 12 mv, inputGood := x.inputGood && decide (mv ≥ x.good) && decide (mv ≥ x.trip) }
  if mv < s.slu.trip then askSave 1 s1 else s1
def execVinTrip (mv : Nat) (s : State) : Host.Outcome State Fault Refusal := .next (vinTrip mv s)
/-- `PFAIL_IN_ASSERT`: `PFAIL_IN#` low for PIN_FILT. -/
def pfailInAssert (s : State) : State := askSave 2 (onSlu s fun x => { x with inputGood := false })
def execPfailInAssert (s : State) : Host.Outcome State Fault Refusal := .next (pfailInAssert s)
/-- `PFAIL_EXTERNAL`: another device holds `PFAIL#` low while this chip does not drive it. -/
def pfailExternal (s : State) : State := if s.slu.pfail then s else askSave 3 s
def execPfailExternal (s : State) : Host.Outcome State Fault Refusal := .next (pfailExternal s)
/-- `REFCLK_LOSS` (R32): CCLK goes on in holdover. -/
def refclkLoss (s : State) : State := askSave 4 (onPwr s fun p => { p with refclk := false, holdover := s.boot.coreOut })
def execRefclkLoss (s : State) : Host.Outcome State Fault Refusal := .next (refclkLoss s)
/-- `INTERNAL_UE` (R320): firmware stops; a save under way runs on (R189). From RESTORE and READY the save follows HALTED;
before, the rails go off (R188); after S it is held for READY (R207). -/
def internalUe (staging : Bool) (s0 : State) : State :=
  -- mailbox staging and firmware memories are arrays of the management cores (R320, R338; log entry 166)
  let s := if s0.boot.coreOut then sramUncorrectable 3 (if staging then 0x02 else 0x01) s0 else s0
  let stop (s : State) : State := { s.toDev 4 with boot := { (s.toDev 4).boot with haltCause := 3, stage := 15 } }
  if !s.boot.coreOut then s
  else if s.glb.state = 3 then askSave 8 s
  else if s.glb.state = 1 ∨ s.glb.state = 2 then stop (askSave 8 s)
  else askSave 8 (stop s)
def execInternalUe (staging : Bool) (s : State) : Host.Outcome State Fault Refusal := .next (internalUe staging s)
/-- `INPUT_GOOD` (R204). -/
def inputGood (s : State) : State := onSlu s fun x => { x with inputGood := true }
def execInputGood (s : State) : Host.Outcome State Fault Refusal := .next (inputGood s)
/-! ## T0 (R190–R192) -/
/-- The abandon of every context in one cycle. A member that has sent PREPARED defers its own (R429); one that has not, and a home
whose close has not come, abandon the epoch at once. -/
def abandonAll (s : State) : State :=
  (List.range 16).foldl (fun s i =>
    let c := fin16 i
    let e := (s.ctxAt c).epoch
    if s.conf.prep[c].phase = 2 ∧ !actsHome s c then
      onConf s fun k => { k with resolving := k.resolving ||| BitVec.ofNat 16 (2 ^ i) }
    else tellAbandoned c e 2 (abandonEpoch c 2 (forceAging c (setPrep c (fun _ => Prep.idle) s)))) s
/-- A piece that waits, or has to wait, for the NAND value of its line or of its segment (R214): not a partial write behind an
accepted full one of the line, which brings the line in. -/
def needsFault (s : State) (p : Piece) : Bool :=
  p.wait = .fault || s.unbuilt (segOf p.line)
    || (decide ((s.eff p.line).1 = .unrestored) && !isFull p.bytes
      && !(s.ret.writes.any fun q => q.line = p.line && q.order < p.order && isFull q.bytes))
/-- Writes that are not applied at T0: LATEST ones that wait for a fault are discarded and counted (R192). -/
def cutWrites (s : State) : State :=
  let gone := s.ret.writes.filter fun p => (s.lineSeg p.line).cls = .latest && needsFault s p
  let s1 := onRet s fun r => { r with writes := r.writes.filter fun p => !gone.contains p, held := [] }
  onSlu s1 fun x => { x with dropped := sat 32 (x.dropped + gone.length) }
/-- Reads that are not answered, and host reads of remote lines, end with Completer Abort; host TLPs not taken are discarded (R191). -/
def cutReads (s : State) : State :=
  let s1 := (openReads s).foldl (fun s r => match r.who with | .host req => gaveCa req s | _ => s) s
  let s2 := s1.host.stream.foldl (fun s t => dropTlp t s) s1
  let s3 := dropReads (fun _ => true) (s2.conf.reads.foldl (fun s r => abortRemote r s) s2)
  { s3 with host := { s3.host with stream := [], heldHost := false }, conf := { s3.conf with reads := [] } }
/-- EVENT ring writes from T0 on: the page in progress is torn at a save of causes 1 to 5, records not begun are held on-die
(R462). -/
def cutEventLog (cause : Nat) (s : State) : State :=
  let torn := match s.ldg.pages with | pw :: _ => decide (pw.use = .event ∧ cause ≤ 5) | [] => false
  let s1 := if torn then ldgCut s else s
  let rest := if torn then s1.ldg.jobs.drop 1 else s1.ldg.jobs
  let isEvent (j : LdgJob) : Bool := decide (j.use = .event)
  let busy := !torn && !s1.ldg.pages.isEmpty
  let (now, later) := if busy then (rest.take 1, rest.drop 1) else ([], rest)
  let back := (later.filter isEvent).map (·.payload)
  let s2 : State := { s1 with ldg := { s1.ldg with jobs := now ++ later.filter fun j => !isEvent j }, pwr := { s1.pwr with heldLog := back ++ s1.pwr.heldLog } }
  if busy then s2 else ldgKick s2
/-- Rails that are shed on power failure go off (R190). -/
def shedRails (s : State) : State :=
  let rs := allRails.filter fun r => (railAt s r).cfg.shed && (railAt s r).enPin
  rs.foldl (fun s r => onRail s (Fin.ofNat 16 r) fun x => { x with enPin := false, mode := .falling, start := false, stop := false, retrySeq := false })
    (assertRst rs false s)
/-- A rail of the retention set is out of its window (R204). -/
def retainOut (s : State) : Bool := allRails.any fun r => (railAt s r).cfg.en && (railAt s r).cfg.retain && (railAt s r).mode ≠ .good
/-- The mirror stops: a PRIMARY says DYING first, on each port at once and ahead of what waits there, with the highest PSEQ sent complete
(R405, R410). -/
def mirrorAtT0 (cause : Nat) (s : State) : State :=
  let s1 := if s.mir.role = .primary then
      (mirLinks.filter (mirCarries auMirror s)).foldl (fun x l => emitFrame l (linkOf s l).fseq (.dying (sentComplete s) cause) x) s
    else s
  onMir (linkClear (.mir 1) .down (linkClear (.mir 0) .down s1)) fun m => { clearStream m with sealAck := [], switching := false }
/-- RESOLVE to the members, with the committed epochs of the spanning contexts homed here (R429). -/
def sendResolve (s : State) : State :=
  let cs := (List.range 16).filter fun i => actsHome s (fin16 i) && spanning s (fin16 i)
  let es := cs.map fun i => (i, (s.ctxAt (fin16 i)).commit)
  if s.conf.chips = 1 ∨ es = [] then s else sendTo (peers s) (.resolve es) s
/-- Segments whose seal is under way (R97). -/
def sealsOut (s : State) : List Nat :=
  ([(0 : Fin 12), 1, 2, 3, 5].flatMap (cmdsOf s)).filterMap (fun c => match c.phase with
    | .running (.sealing g _ _) => some g
    | _ => none) ++ s.mir.sealAck.map (·.2.1)
/-- Cleaning and merge programs are abandoned, and reads with them: pages not durable are gone, and with them their cleans. Markers
stay to be written with the seal, but for those of seals that end unfinished (R85, R97, R191). -/
def cutStore (s : State) : State :=
  let kept (x : Slot) : Bool := match x with | .marker m => !(m.entry.sealed && s.slu.sealCut.contains m.first) | .line _ _ => false
  let ims := s.store.images.filter fun im => !imageDone s.store im
  let gone (o : NOp) : Bool := match o.kind, o.use with
    | .read, _ => true
    | .program, .journal _ => true
    | .program, _ => ims.any fun im => (im.map :: im.pages).contains o.ppa
    | .erase, _ => false
  let s1 := onStore s fun st =>
    let lost := (st.journal.filter fun p => !p.durable).flatMap (·.slots)
    { st with ops := st.ops.filter (fun o => !gone o), waitq := st.waitq.filter (fun o => !gone o), journal := st.journal.filter (·.durable),
              images := st.images.filter (fun im => !ims.contains im), filling := (lost ++ st.filling).filter kept,
              cleaning := false, emergency := false, merging := false }
  freeBlocks ((ims.flatMap fun im => im.map :: im.pages).map blockOf).dedup s1
/-- Units that stop as by ABORT and go on being shown as they were (R191). -/
def stopPorts (s : State) : State :=
  (List.range 12).foldl (fun s i =>
    let u := s.life[unitAt .trib i].life
    if u = .running ∨ u = .draining then abortUnit .trib i s else s) s
/-- DRAM channels that are DRAINING or STOPPED are started (R314). -/
def startDch (s : State) : State :=
  (List.range 4).foldl (fun s i =>
    let u := s.lifeOf .dch i
    if u = .draining ∨ u = .stopped then dchBegin (Fin.ofNat 4 i) (toState .dch i .running s) else s) s
def unitsIn (s : State) (l : Life) : List Nat := (List.range 50).filter fun i => s.life[Fin.ofNat 50 i].life = l
/-- What the save records of T0. -/
def noteT0 (cause : Nat) (s : State) : State :=
  onSlu s fun x =>
    { x with phase := .quiesce, streaming := false, pending := none, held := none, pfail := true, reportDue := true, saves := sat 32 (x.saves + 1),
             sealCut := sealsOut s, cause := cause, t0 := s.now, vT0 := s.pwr.vbank, overAtT0 := decide (s.ret.weir.level = 4), chFault := false,
             railLeft := retainOut s, dramPoison := false, records := 0, metaLeft := 0, sealLeft := 0, sealTried := 0,
             noArea := s.store.ready.isNone, sealAt := 0, vSeal := 0,
             ctxT0 := (List.range 16).map fun i => { (s.ctxAt (fin16 i)).record with mode := (s.ctxAt (fin16 i)).mode },
             segT0 := s.ret.segs.map fun p => (p.1, { p.2 with loading := false }),
             runAtT0 := unitsIn s .running, drainAtT0 := unitsIn s .draining, rtcT0 := BitVec.ofNat 64 (copyNat s.bkd) }
/-- `SAVE_T0`. -/
def saveT0 (s : State) : State :=
  match s.slu.pending with
  | none => s
  | some cause =>
    if s.slu.phase ≠ .idle ∨ s.glb.state = 0 ∨ s.glb.state = 3 then s else
    let s1 := (abortAll (cutHolds (noteT0 cause s))).toDev 3
    let s2 := cutReads { s1 with boot := { s1.boot with saveDue := none } }
    let s3 := abortPasses (abandonAll s2)
    let s4 := onScan s3 fun x => { x with ctx := x.ctx.map fun k => { k with swap := none, rebase := true, rebaseIn := none } }
    let s5 := cutWrites s4
    let s6 := endHold s5
    let s7 := mirrorAtT0 cause (stopPorts s6)
    let s8 := onSlu (sendResolve (startDch (cutStore s7))) fun x => { x with faults := [] }
    let s9 := if cause = 6 then s8 else shedRails s8
    hubAtT0 cause (cutEventLog cause s9)
def execSaveT0 (s : State) : Host.Outcome State Fault Refusal := .next (settleWeir (saveT0 s))
/-! ## Q and the programs (R192–R201) -/
/-- An accepted write is applied, its line brought in by the sluice where it is needed (R192, R315). -/
def finishPiece (p : Piece) (s : State) : State :=
  let s1 := dropPiece p s
  if dchDead s1 (channelOf s1 p.line) then onDch s1 (channelOf s1 p.line) fun d => { d with dropped := sat 32 (d.dropped + 1) }
  else
    let s2 := buildSegment (segOf p.line) s1
    let s3 := if (s2.eff p.line).1 = .unrestored ∧ !isFull p.bytes then fillLine true p.line false s2 else s2
    applyPiece { p with wait := .ready } s3
/-- The seal's fields (R199). -/
def sealOf (s : State) : Seal :=
  let x := s.slu
  { cause := x.cause, isOver := x.overAtT0, chFault := x.chFault, railLeft := x.railLeft, dramPoison := x.dramPoison,
    empty := decide (x.records = 0), slot := s.slot, chips := s.conf.chips,
    prevGen := (s.store.sealed.map (·.stripe.gen)).foldl max 0, records := x.records,
    metaLen := 0, tSeal := toUs (x.sealAt - x.t0), vT0 := x.vT0, vSeal := x.vSeal, rtc := x.rtcT0, uid := s.glb.uid }
/-- The outcome of R205: 1 RESUME_WARM, 2 SHUTDOWN. -/
def saveOutcome (s : State) : Nat :=
  if s.slu.cause = 6 then 1
  else if s.slu.cause = 7 ∨ s.slu.cause = 8 then 2
  else if s.slu.inputGood ∧ !s.slu.railLeft then 1 else 2
/-- What follows S. -/
def afterSave (s : State) : State :=
  let o := saveOutcome s
  let s1 := onSlu s fun x => { x with lastOutcome := o }
  if o = 1 then
    let rs := allRails.filter fun r => (railAt s1 r).cfg.en && (railAt s1 r).cfg.shed
    -- in RECOVERY mode after a SYSTEM_RESET reaction (R445, R449)
    let s2 := onPwr s1 fun p => { p with hubSt := if p.hubSt = .saving then .idle else p.hubSt, mode := if p.nextMode = 3 then 3 else p.mode,
                                         nextMode := if p.nextMode = 3 then 0 else p.nextMode,
                                         groupSeqs := if s1.slu.cause = 6 ∨ rs = [] then p.groupSeqs else (4, 0) :: p.groupSeqs }
    let s3 := if s1.slu.cause = 6 ∨ rs = [] then s2 else startRails rs s2
    onSlu s3 fun x => { x with phase := .resuming }
  else shutdownAll 1 (onSlu s1 fun x => { x with phase := .shutdown })
/-- The report of the save (R217). The rate that the log reached is measured, and the manual does not say over what. -/
def reportSave (s : State) : State :=
  let (v, s0) := s.draw
  onSlu s0 fun x =>
    { x with lastCause := x.cause, lastOver := x.overAtT0, lastChFault := x.chFault, lastRailLeft := x.railLeft, lastDramPoison := x.dramPoison,
             lastEmpty := decide (x.records = 0), lastRecords := x.records, lastTseal := toUs (x.sealAt - x.t0), lastVT0 := x.vT0,
             lastVSeal := x.vSeal, lastRate := if x.records = 0 then 0 else bits v 0 16 }
/-- The power of a save of causes 1 to 5 (R203, R459); over no time at all the formula gives none, and the value is free. -/
def savePower (s : State) : State :=
  if s.slu.cause > 5 then s else
  let t := toUs (s.slu.sealAt - s.slu.t0)
  let e := usableEnergy (s.pwr.cap.getD s.ret.weir.cal.cap) s.slu.vT0 s.slu.vSeal s.ret.weir.cal.eff
  let (v, s1) := s.draw
  let s2 := onPwr s1 fun p => { p with psave := some (if t = 0 then bits v 0 16 else sat 16 (10 * e / t)) }
  ldgEnqueue [bankRecord s2] s2
/-- The seal instant S: the area is sealed, and what its metadata holds is durable (R199, R205). -/
def sealInstant (s : State) : State :=
  match s.store.ready with
  | none => s
  | some a =>
    let sl : Seal := { sealOf s with metaLen := metaUnits s ((a.log.map fun r => segOf r.line).dedup.length) }
    let isM (x : Slot) : Bool := (slotMarker x).isSome
    let marks := s.store.filling.filter isM
    let s1 := onStore s fun st =>
      { st with ready := none, sealed := st.sealed ++ [{ a with sealRec := some sl }],
                journal := if marks = [] then st.journal
                           else st.journal ++ [⟨st.jseq, st.placed - marks.length, a.stripe.gen, 0, marks, true⟩],
                filling := st.filling.filter (fun x => !isM x), jseq := if marks = [] then st.jseq else st.jseq + 1 }
    let s2 := if (s.slu.sealTried / 4) % 4 = 3 then s1 else onSlu s1 fun x => { x with chFault := true }
    afterSave (ldgEnqueue [switchRecord s2] (savePower (reportSave s2)))
/-- A save that ends without a seal: the generation is unsealed (R201). -/
def saveUnsealed (s : State) : State :=
  let s1 := onStore s fun st => { st with unsealed := st.ready.or st.unsealed, ready := none }
  let s2 := onSlu s1 fun x =>
    { x with phase := .shutdown, lastCause := 0, lastOutcome := 3, lastOver := false, lastChFault := false, lastRailLeft := false,
             lastDramPoison := false, lastEmpty := false, lastRecords := 0, lastTseal := 0, lastVT0 := 0, lastVSeal := 0, lastRate := 0 }
  shutdownAll 1 s2
/-- Records of the save set not yet programmed, ascending (R194). -/
def toWrite (s : State) : List Nat := (s.counted.map (·.1)).filter fun l => !s.slu.covered.contains l
/-- Read the lines of the next log page (R194). -/
def readNext (s : State) : State := ((toWrite s).take 60).foldl (fun s l => requestValue 19 l s) s
/-- The phase follows what is left to program; the first seal program marks the end of the metadata (R194, R199). -/
def advanceSave (s : State) : State :=
  if s.slu.phase = .log ∧ toWrite s = [] then
    (if s.slu.metaLeft = 0 then onSlu s fun x => { x with phase := .sealing, sealAt := s.now, vSeal := s.pwr.vbank }
     else onSlu s fun x => { x with phase := .metadata })
  else if s.slu.phase = .metadata ∧ s.slu.metaLeft = 0 then onSlu s fun x => { x with phase := .sealing, sealAt := s.now, vSeal := s.pwr.vbank }
  else s
/-- `QUIESCE_DONE`: Q, at which the save set is fixed. A save that found no area has no seal: `SLU_LAST_TSEAL` counts to Q, AT_SEAL is the
bank at Q, and EMPTY reads 1 (DESIGN CHOICE, log entry 187: the manual gives them no value). -/
def quiesceDone (s : State) : State :=
  if s.slu.phase ≠ .quiesce then s else
  let s1 := resolveTimeout s
  let s2 := s1.ret.writes.foldl (fun s p => finishPiece p s) s1
  let s3 := [(0 : Fin 3), 1, 2].foldl (fun s p => linkClear (.conf p) .down s) s2
  let s4 := s3.onCopy fun k => { k with queue := [], active := [], cancelled := sat 32 (k.cancelled + k.queue.length) }
  let fresh := (List.range 16).map fun i =>
    let r := (s4.ctxAt (fin16 i)).record
    match s4.slu.ctxT0[i]? with | some o => { r with mode := o.mode } | none => r
  if s4.store.ready.isNone then
    afterSave (ldgEnqueue [switchRecord s4] (reportSave (onSlu s4 fun x => { x with ctxT0 := fresh, records := 0, sealAt := s4.now, vSeal := s4.pwr.vbank })))
  else
    let segs := (s4.counted.map fun p => segOf p.1).dedup.length
    advanceSave (readNext (onSlu s4 fun x =>
      { x with ctxT0 := fresh, phase := .log, covered := [], records := s4.counted.length, metaLeft := (metaUnits s4 segs + 3) / 4, sealLeft := 3 }))
def execQuiesceDone (s : State) : Host.Outcome State Fault Refusal := .next (settleWeir (quiesceDone s))
/-- The record of a line: a channel that serves nothing leaves all four POISON bits (R196, R314). -/
def recordLine (l : Nat) (s : State) : Rec × State :=
  let ty := if (s.lineSeg l).cls = .latest then 2 else 1
  if dchRunning s (channelOf s l) then
    let (v, p) := s.lineValue l
    (⟨ty, l, p, v⟩, s)
  else
    let s1 := poisonMade l 7 15 (onSlu ({ s with free := s.free + 1 }) fun x => { x with dramPoison := true })
    (⟨ty, l, 15, rawBytes s⟩, s1)
/-- A line whose record is programmed is CLEAN, or, with FLIP, covered by the seal (R194). -/
def lineSaved (l : Nat) (s : State) : State :=
  match s.eff l with
  | (.committed, true) => onSlu s fun x => { x with covered := x.covered ++ [l] }
  | _ => s.setLine l { s.lineAt l with state := .clean, flip := false, baseZero := false, stamp := 0, charge := none }
def onReady (s : State) (f : Area → Area) : State := onStore s fun st => { st with ready := st.ready.map f }
/-! ### Pages of the area (R194, R198, R201, R235) -/
/-- A page that takes programs: its block is good and its channel has not been dropped. -/
def takesPage (st : Store) (a : Area) (p : Nat) : Bool := !isBad st (blockOf p) && !a.dropped.contains (ppaChan p)
/-- Give out a spare page. -/
def takeSpare (s : State) (f : Nat → Area → Area) : State :=
  match s.store.ready with
  | none => s
  | some a =>
    match freeSpare s.store.ncfg (takesPage s.store a) a with
    | none => s
    | some (p, k) => onReady s fun a => f p { a with spareUsed := k }
/-- Page `n` of the area is programmed where it can be: a page whose place fails, or whose channel is dropped, goes to a spare page
and keeps its header (R201, R235). -/
def placePage (n : Nat) (s : State) : State :=
  match s.store.ready with
  | none => s
  | some a => if takesPage s.store a (areaPage s.store.ncfg a n) then s else takeSpare s fun p a => { a with moved := a.moved.filter (·.1 ≠ n) ++ [(n, p)] }
/-- The place of page `n`. -/
def pageAt (s : State) (n : Nat) : Nat := match s.store.ready with | some a => areaPage s.store.ncfg a n | none => 0
/-- Log pages that are still to be programmed, and all log pages of the save. -/
def logLeft (s : State) : Nat := ((toWrite s).length + 59) / 60
def logPages (s : State) : Nat := (s.slu.records + 59) / 60
/-- The records of the save set by line: those written and those to come. -/
def saveSet (s : State) : List Rec := (s.store.ready.map (·.log)).getD [] ++ (toWrite s).map fun l => ⟨1, l, 0, []⟩
def metaPages (s : State) : Nat := (metaUnits s ((saveSet s).map fun r => segOf r.line).dedup.length + 3) / 4
/-- Pages of the save in flight: on each LUN up to two programs on every plane, up to 1,024 in all (R222). -/
def savePages (s : State) : List Nat :=
  let nc := s.store.ncfg
  match s.store.ready with
  | none => []
  | some a =>
    let most := min 1024 (2 * nc.planes * a.stripe.order.length)
    match s.slu.phase with
    | .log | .metadata =>
      let log := (List.range (logLeft s)).map (a.log.length / 60 + ·)
      let delta := (List.range s.slu.metaLeft).map fun i => logPages s + metaPages s - s.slu.metaLeft + i
      ((log ++ delta).take most).map (areaPage nc a)
    | .sealing => (if s.slu.sealLeft.testBit 0 then [a.sealA] else []) ++ if s.slu.sealLeft.testBit 1 then [a.sealB] else []
    | _ => []
/-- A program of the sluice: the page and its spare area are given to its channel, its bytes are counted, and its time is measured (R221,
R223, R242, R256). -/
def sluiceProgram (ppa us : Nat) (ok : Bool) (bytes : List Byte) (s : State) : State :=
  let c : Fin 16 := Fin.ofNat 16 (ppaChan ppa)
  let nc := s.store.ncfg
  let cmd (b : Byte) : List Byte := if b = 0 then [] else [b]
  let s1 := s.emit (.nand .program (cmd nc.progCmd) (cmd nc.exitCmd) ppa (bytes ++ spareBytes bytes))
  onNch (onStore s1 fun st => { st with wrSave := st.wrSave + pageBytes }) c fun x =>
    { noteTime .program ppa us x with errs := x.errs ||| (if ok then 0 else 1) }
/-- One log page of up to 60 records. A program that fails retires its block, and is made again in a spare page (R201). -/
def logDone (us : Nat) (ok : Bool) (s : State) : State :=
  let n := match s.store.ready with | some a => a.log.length / 60 | none => 0
  let s0 := placePage n s
  let p := pageAt s0 n
  let (rs, s1) := ((toWrite s0).take 60).foldl (fun (acc : List Rec × State) l => let (r, s') := recordLine l acc.2; (acc.1 ++ [r], s')) ([], s0)
  let s2 := sluiceProgram p us ok (recordPage 1 s.slot s.store.gen n (rs.map fun r => .line r none)) s1
  if !ok then retireBlock (blockOf p) 2 s2
  else readNext (rs.foldl (fun s r => lineSaved r.line (onReady s fun a => { a with log := a.log ++ [r] })) s2)
/-- One metadata page; with the last, the delta stands (R198). -/
def metaDone (us : Nat) (ok : Bool) (s : State) : State :=
  if s.slu.metaLeft = 0 then s
  else
    let k := metaPages s - s.slu.metaLeft
    let n := logPages s + k
    let s0 := placePage n s
    let p := pageAt s0 n
    let delta := metaBytes s.store.gen s.usable s.slu.ctxT0 s.slu.segT0 (saveSet s)
    let s1 := sluiceProgram p us ok (metaPage s.store.gen n ((delta.drop (pageBytes * k)).take pageBytes)) s0
    if !ok then retireBlock (blockOf p) 2 s1
    else
      let s2 := onSlu s1 fun x => { x with metaLeft := x.metaLeft - 1 }
      if s2.slu.metaLeft = 0 then onReady s2 fun a => { a with metaCtx := s.slu.ctxT0, metaSeg := s.slu.segT0 } else s2
/-- The seal of the save, as the copies hold it (R199). -/
def sealNowOf (s : State) : Seal := { sealOf s with metaLen := metaUnits s ((saveSet s).map fun r => segOf r.line).dedup.length }
/-- A seal copy goes to a spare page where its own takes no program. -/
def placeSeal (b : Nat) (s : State) : State :=
  match s.store.ready with
  | none => s
  | some a =>
    if takesPage s.store a (if b = 0 then a.sealA else a.sealB) then s
    else takeSpare s fun p a => if b = 0 then { a with sealA := p } else { a with sealB := p }
/-- One seal copy, bit `b` of the masks: a copy that fails is rewritten once, in a spare page (R199, R201). -/
def sealDone (b us : Nat) (ok : Bool) (s : State) : State :=
  if !s.slu.sealLeft.testBit b then s
  else
    let s0 := placeSeal b s
    let p := match s0.store.ready with | some a => if b = 0 then a.sealA else a.sealB | none => 0
    let crc := (crc32 (metaBytes s.store.gen s.usable s.slu.ctxT0 s.slu.segT0 (saveSet s))).toNat
    let s1 := sluiceProgram p us ok (padTo pageBytes (sealBytes s.store.gen (sealNowOf s) crc)) s0
    if ok then onSlu s1 fun x => { x with sealLeft := x.sealLeft - 2 ^ b, sealTried := x.sealTried ||| 2 ^ (b + 2) }
    else
      let s2 := retireBlock (blockOf p) 2 s1
      if s.slu.sealTried.testBit b then onSlu s2 fun x => { x with sealLeft := x.sealLeft - 2 ^ b, chFault := true }
      else onSlu s2 fun x => { x with sealTried := x.sealTried ||| 2 ^ b }
/-- `SAVE_PROGRAM_DONE`: nothing happens for a program that the phase does not have. -/
def saveProgramDone (part : SavePart) (ok : Bool) (s : State) : State :=
  let sealEnd (b us : Nat) : State :=
    if s.slu.phase ≠ .sealing then s
    else
      let s1 := sealDone b us ok s
      if s1.slu.sealLeft ≠ 0 then s1 else if s1.slu.sealTried / 4 = 0 then saveUnsealed s1 else sealInstant s1
  match part with
  | .log us => if s.slu.phase = .log ∧ toWrite s ≠ [] then advanceSave (logDone us ok s) else s
  | .metadata us => if s.slu.phase = .log ∨ s.slu.phase = .metadata then advanceSave (metaDone us ok s) else s
  | .sealA us => sealEnd 0 us
  | .sealB us => sealEnd 1 us
def execSaveProgramDone (part : SavePart) (ok : Bool) (s : State) : Host.Outcome State Fault Refusal :=
  .next (settleWeir (saveProgramDone part ok s))
/-- `SAVE_BANK_FLOOR`, before S. -/
def saveBankFloor (s : State) : State :=
  match s.slu.phase with
  | .quiesce | .log | .metadata | .sealing => saveUnsealed s
  | _ => s
def execSaveBankFloor (s : State) : Host.Outcome State Fault Refusal := .next (settleWeir (saveBankFloor s))
/-! ## READY (R206, R219) -/
/-- `SLU_LAST` (R217). -/
def sluLast (x : Slu) : Nat :=
  pack [(0, x.lastCause), (4, x.lastOutcome), (8, b2n x.lastOver), (9, b2n x.lastChFault), (10, b2n x.lastRailLeft), (11, b2n x.lastDramPoison),
    (12, b2n x.lastEmpty)]
/-- READY is reached: what was held for it is reported. -/
def enterReady (s : State) : State :=
  let s1 := bkdAtReady (pwrAtReady (s.toDev 2))
  let s2 : State := { s1 with host := { s1.host with tele := { s1.host.tele with ready := true } } }
  if !s2.slu.reportDue then s2
  else
    let x := s2.slu
    let s3 := (onSlu s2 fun x => { x with reportDue := false }).raise 0x0610 0 [(16, sluLast x), (20, x.lastRecords), (24, x.lastTseal), (28, x.lastVSeal)]
    logDue 7 0xFF x.lastOutcome 0 (logDue 6 0xFF x.lastCause 0 s3)
/-- A unit that was RUNNING at T0 starts again (R206). -/
def restartUnit (i : Nat) (s : State) : State :=
  let u : Fin 50 := Fin.ofNat 50 i
  if s.life[u].life ≠ .running then s else
  let (cc, k) := classOf u
  let s1 := (s.setLife u .stopped).toLife u .running
  match cc with
  | .nst => s1
  | .scan => (List.range 16).foldl (fun s c => resyncAll (fin16 c) s) s1
  | .dch => s1
  | .trib => tribBegin (Fin.ofNat 12 k) s1
  | .seq => seqAgain (Fin.ofNat 12 k) s1
  | .mir => linkClear (.mir (Fin.ofNat 2 k)) .training s1
  | .conf => linkClear (.conf (Fin.ofNat 3 k)) .training s1
/-- WARM_PENDING is set at the context's release (R271). -/
def settingsDue (c : Fin 16) (s : State) : State := onScanCtx s c fun k => { k with warm := k.warm || k.warmDue, warmDue := false }
/-- Contexts after a failure: one that was IDLE at T0 stays IDLE, every other is ABANDONED with cause POWER; RELEASED, and with it the
settings that a release makes due (R114, R140, R271). -/
def contextsBack (s : State) : State :=
  (List.range 16).foldl (fun s i =>
    let c := fin16 i
    let m : CtxMode := if ((s.slu.ctxT0[i]?).map (·.mode)).getD (s.ctxAt c).mode = .idle then .idle else .abandoned
    let rel := !s.conf.split.getLsbD i
    let s1 := toMode c m (s.onCtx c fun x =>
      { x with cause := if m = .idle ∧ x.epoch ≥ terminalEpoch then x.cause else 2, released := rel })
    if rel then settingsDue c s1 else s1) s
/-- What the save left for the store to do: the root that names the sealed area, the bad-block table, operations that waited
(R230, R244). -/
def storeBack (s : State) : State :=
  let s1 := if s.slu.noArea ∨ s.store.root.isNone then s else writeRoot s
  let s2 := if s1.store.tableDue then tableChanged s1 else s1
  issueAll (if s2.store.ring.a ≠ 0 ∧ (isBad s2.store s2.store.ring.a ∨ isBad s2.store s2.store.ring.b) then rotateRings s2 else s2)
/-- `RESUME_READY`. DESIGN CHOICE (log entry 156): a save that found no area sealed no generation, and no `SLU_RESUMED` names
one. -/
def resumeReady (s : State) : State :=
  if s.slu.phase ≠ .resuming then s else
  let sealedGen := if s.slu.noArea then none else some s.store.gen
  let s1 := onSlu s fun x => { x with phase := .idle, pfail := false, streaming := !x.restoreDone && !x.todo.isEmpty }
  let s2 := enterReady { s1 with glb := { s1.glb with resumed := true } }
  let s3 := contextsBack s2
  let s4 := [(0 : Fin 4), 1, 2, 3].foldl (fun s q => haltMq q s) s3
  let s5 := s4.slu.runAtT0.foldl (fun s i => restartUnit i s) s4
  let s6 := s5.slu.drainAtT0.foldl (fun (s : State) (i : Nat) =>
    let u : Fin 50 := Fin.ofNat 50 i
    let l := s.life[u].life
    if l = .faulted ∨ l = .off then s else s.toLife u .stopped) s5
  let s7 := mapRails (fun x => { x with mode := if x.mode = .faulted ∧ x.enPin then .out else x.mode }) s6
  let s8 := match sealedGen with | some g => s7.raise 0x0611 0 [(16, g)] | none => s7
  storeBack (onSlu s8 fun x => { x with pending := x.held, askedAt := s.now, held := none, runAtT0 := [], drainAtT0 := [] })
def execResumeReady (s : State) : Host.Outcome State Fault Refusal := .next (settleWeir (resumeReady s))
end Sys2Proof.Machine
end

