-- ==== Sys2Proof/Machine/Restore.lean ====
section
/-! DEFINITION. Restore (chapter 06, R207–R219; R94, R142, R241, R507): what the anchor vote finds, the restart policies, the stream,
and the SLU commands. -/
namespace Sys2Proof.Machine
/-! ## The root and the newest generation (R208, R230, R241) -/
/-- The root that a ring block holds: of those whose page reads in one of the two rings, the one with the highest ROOT_SEQ (R229,
R230). -/
def rootIn (st : Store) (a b : Nat) (roots : List (Nat × Root)) : Option Root :=
  (roots.filter fun x => headReads st (a + 2 ^ 8 * x.1) || headReads st (b + 2 ^ 8 * x.1)).foldl
    (fun m x => match m with | none => some x.2 | some r => if r.seq < x.2.seq then some x.2 else some r) none
/-- The rings that the voted anchor names are in force, those before a rotation among them (R228, R231). -/
def ringsNamed (a : Nat) (st : Store) : Option Store :=
  if a = 0 then none
  else if st.ring.a = a then some st
  else match st.ring.prior with
    | some p =>
      if p.a = a then some { mapDescs (lookNat p.descs) st with ring := ⟨p.a, p.b, p.index, p.epoch, p.roots, none, 0, false⟩ } else none
    | none => none
/-- What the anchor vote finds: the store under the rings that it names, with their root; or why the store counts as unformatted:
1 the vote yields NONE, 2 no ring that the anchor names holds a valid root (R507). -/
def foundStore (s : State) : Store ⊕ Nat :=
  match voted s 0 with
  | none => .inr 1
  | some b =>
    match ringsNamed (field b 0 4) s.store with
    | none => .inr 2
    | some st => match rootIn st st.ring.a st.ring.b st.ring.roots with
      | none => .inr 2
      | some r => .inl { st with root := some r }
/-- An unformatted store holds nothing that a root finds. -/
def forgetStore (st : Store) : Store :=
  { Store.new with
    ncfg := st.ncfg, ch := st.ch, ageMin := st.ageMin, mergeFrac := st.mergeFrac, auditH := st.auditH, refreshBits := st.refreshBits,
    mergeRate := st.mergeRate, jrnMax := st.jrnMax, formatGood := st.formatGood, ring := { Store.new.ring with epoch := st.ring.epoch },
    badWords := st.badWords,
    blocks := (st.blocks.map fun p => if isBoot p.1 then p else (p.1, { p.2 with held := false })).filter (·.2 ≠ Blk.fresh),
    wiped := st.wiped }
/-- A seal copy and the metadata that its META_CRC covers read (R199). -/
def sealReads (st : Store) (a : Area) : Bool :=
  match a.sealRec with
  | none => false
  | some q =>
    let n := (a.log.length + 59) / 60
    (wordsRead st a.sealA 1 || wordsRead st a.sealB 1) && (List.range ((q.metaLen + 3) / 4)).all fun i => pageReads st (areaPage st.ncfg a (n + i))
/-- Checkpoints were written and none reads (R241). -/
def ckptsLost (st : Store) : Bool := st.ckpts ≠ [] && !(st.ckpts.any (ckptGood st))
/-- Relocated pages whose headers decode: those that do not are not known to have moved (R235, R241). -/
def headersRead (st : Store) (a : Area) : Area := { a with moved := a.moved.filter fun m => wordsRead st m.2 1 }
/-- The area that a root may name as ready or as next: one whose readying had begun is either, by the root that was programmed (R236). -/
def readyCands (st : Store) : List Area := st.ready.toList ++ st.readying.toList.map (·.1)
def nextCands (st : Store) : List Area :=
  st.nextArea.toList ++ st.readying.toList.map fun x => { x.1 with stripe := { x.1.stripe with desc := x.2, gen := 0 } }
def namedArea (desc : Nat) (l : List Area) : Option Area := if desc = 0 then none else l.find? fun a => a.stripe.desc == desc
/-- The structures that the root reaches: the checkpoint that reads and the images that it names, the journal from its tail to the
newest stripe, the areas listed and the one named as ready (R230, R241). A journal page whose header does not decode, and an image
whose map page does not, are none of them (R237, R241, R242; log entry 192). -/
def underRoot (r : Root) (st : Store) : Store :=
  let cks := st.ckpts.filter fun k => k.header = r.ckptNew || k.header = r.ckptOld
  let used := cks.dropWhile fun k => !ckptGood st k
  let named (im : Image) : Bool := pageReads st im.map && (used.head?).any fun k => k.images.contains (im.seg, im.map)
  let head := ((st.stripe.toList ++ st.oldStripes).find? (·.desc = r.jrnHead)).map (·.base)
  let reached (x : Stripe) : Bool := head.any fun b => decide (x.base ≤ b)
  let listed (a : Area) : Bool := (r.areas.any fun x => x.2 == a.stripe.desc) || a.stripe.desc == r.ready
  let newest := (st.sealed.map (·.stripe.gen)).foldl max 0
  { st with
    ckpts := if used = [] then cks else used, images := if used = [] then [] else st.images.filter named,
    jt := match used.head? with | some k => k.jt | none => 0,
    stripe := if st.stripe.any reached then st.stripe else none, oldStripes := st.oldStripes.filter reached,
    journal := st.journal.filter fun p => wordsRead st p.ppa 1,
    nextArea := namedArea r.next (nextCands st), ready := namedArea r.ready (readyCands st), readying := none,
    sealed := (st.sealed.filter fun a => listed a && sealReads st a).map (headersRead st),
    unsealed := st.unsealed.or (st.sealed.find? fun a => listed a && !sealReads st a && a.stripe.gen == newest) }
/-- Every block that a structure of the store lies in. -/
def blocksUsed (st : Store) : List Nat :=
  let rows (x : Stripe) : List Nat := stripeBlocks st.ncfg.planes x
  let areas := readyCands st ++ st.nextArea.toList ++ st.sealed ++ st.unsealed.toList
  [st.ring.a, st.ring.b] ++ areas.flatMap (fun a => rows a.stripe) ++ (st.stripe.toList ++ st.oldStripes).flatMap rows
    ++ st.images.flatMap (fun im => (im.map :: im.pages).map blockOf) ++ st.ckpts.flatMap fun k => (k.header :: k.tables).map blockOf
/-- Blocks that were held and that nothing reaches any longer are erased (R250). -/
def sweep (s : State) : State :=
  let used := blocksUsed s.store
  freeBlocks ((s.store.blocks.filter fun p => p.2.held && !p.2.bad && !isBoot p.1 && !used.contains p.1).map (·.1)) s
/-- The area found ready: one that a save has programmed into is the newest generation, unsealed; one never written is the
pre-erased next area again. Of pre-erased blocks, those that fail the blank check are erased again before use (R208, R236). -/
def findReady (s : State) : State :=
  let s1 := match s.store.ready with
    | none => s
    | some a =>
      if a.log ≠ [] ∨ a.metaCtx ≠ [] ∨ a.spareUsed ≠ 0 ∨ a.dropped ≠ [] then onStore s fun st => { st with ready := none, unsealed := some a }
      else onStore s fun st => { st with ready := none, nextArea := some a }
  let ks := (s1.store.nextArea.map fun a => stripeBlocks s1.store.ncfg.planes a.stripe).getD []
  (ks.filter fun k => (blkAt s1.store k).cut && !isBad s1.store k).foldl (fun s k => nandOp .erase .boot k [] s) (sweep s1)
/-! ## What restarts (R114, R115, R209–R211) -/
/-- The registers of the save's report (R217): they come from the seal, which holds no rate. -/
def reportSealed (s : State) : State :=
  if s.store.unsealed.isSome then
    onSlu s fun x => { x with lastCause := 0, lastOutcome := 3, lastOver := false, lastChFault := false, lastRailLeft := false,
                              lastDramPoison := false, lastEmpty := false, lastRecords := 0, lastTseal := 0, lastVT0 := 0, lastVSeal := 0,
                              lastRate := 0 }
  else match (newestSealed s.store).bind (·.sealRec) with
    | none => s
    | some q =>
      let (v, s1) := s.draw
      onSlu s1 fun x => { x with lastCause := q.cause, lastOutcome := 2, lastOver := q.isOver, lastChFault := q.chFault, lastRailLeft := q.railLeft,
                                 lastDramPoison := q.dramPoison, lastEmpty := q.empty, lastRecords := q.records, lastTseal := q.tSeal,
                                 lastVT0 := q.vT0, lastVSeal := q.vSeal, lastRate := if q.records = 0 then 0 else bits v 0 16 }
/-- `SLU_SAVE_LOST`. -/
def tellLost (s : State) : State :=
  match s.store.unsealed with
  | some a => s.raise 0x0613 0 [(16, a.stripe.gen), (24, b2n s.slu.lostPolicy)]
  | none => s
/-- A context comes up from its record: IDLE stays IDLE, every other is ABANDONED; the save's abandon, of cause POWER, reached all of
them (R114, R140, R145, R190). -/
def ctxBack (c : Fin 16) (r : CtxRec) (s : State) : State :=
  let m : CtxMode := if r.mode = .idle then .idle else .abandoned
  toMode c m (s.onCtx c fun _ =>
    { Ctx.new with mode := r.mode, epoch := r.opened, commit := r.commit, policy := r.policy, rank := r.rank, minPeriod := r.minPeriod,
                   wdog := r.wdog, bankSeg := r.bankSeg, bankCount := r.bankCount, cause := 2 })
def recordsBack (s : State) : State :=
  match newestSealed s.store with
  | none => s
  | some a => a.metaCtx.zipIdx.foldl (fun s q => if q.2 < 16 then ctxBack (fin16 q.2) q.1 s else s) s
/-- How the data restart: everything COLD, by the policies, or as it is (KEEP). -/
inductive Restart | cold | policy | keep
deriving DecidableEq, Repr
def restartOf (s : State) : Restart :=
  if ckptsLost s.store then .cold
  else if s.store.unsealed.isSome then (if s.slu.lostPolicy then .keep else .cold) else .policy
/-- The policy that governs a segment: 0 NATIVE, 1 WARM, 2 COLD. -/
def policyFor (s : State) (k : Restart) (e : Seg) : Nat :=
  match k with
  | .cold => 2
  | .keep => 0
  | .policy => if e.cls = .epoch then (s.ctxAt e.owner).policy.toNat else s.slu.gpolicy.toNat
def inBankOf (s : State) (c : Fin 16) (g : Nat) : Bool := let x := s.ctxAt c; decide (x.bankSeg ≤ g) && decide (g < x.bankSeg + x.bankCount)
def inAnyBank (s : State) (g : Nat) : Bool := (List.range 16).any fun i => inBankOf s (fin16 i) g
/-- A segment that the restart empties (R211). -/
def restartEmpties (s : State) (k : Restart) (g : Nat) (e : Seg) : Bool :=
  (e.cls = .epoch || e.cls = .latest) && !inAnyBank s g
    && (policyFor s k e == 2 || (policyFor s k e == 1 && !e.retentive))
/-- An unsealed CONSTANT segment is emptied, with LOAD_LOST (R95, R210). -/
def loadLost (e : Seg) : Bool := e.cls = .constant && !e.sealed
def dropLoads (s : State) : State :=
  let gs := (s.ret.segs.filter fun p => loadLost p.2).map (·.1)
  let s1 := gs.foldl (fun s g => placeMarker g 1 true (s.setSeg g { s.seg g with loading := false, loadLost := true })) s
  if gs = [] then s1 else s1.raise 0x0312 0 [(16, gs.length)]
/-- Markers of the segments that the restart empties (R248). -/
def dropEmptied (k : Restart) (s : State) : List Nat × State :=
  let gs := (s.ret.segs.filter fun p => restartEmpties s k p.1 p.2).map (·.1)
  (gs, gs.foldl (fun s g => placeMarker g 1 true s) s)
/-- The priority restore sets (R142, R143), in the order of the stream; 16 is the global set. -/
def ctxOrder (s : State) : List Nat :=
  sortBy (fun a b => decide ((s.ctxAt (fin16 a)).rank.toNat * 16 + a ≤ (s.ctxAt (fin16 b)).rank.toNat * 16 + b)) (List.range 16)
def prioritySets (s : State) (kept : List Nat) : List (Nat × Nat) :=
  let glob := kept.filter fun g => (s.seg g).prio && ((s.seg g).cls = .latest || (s.seg g).cls = .constant)
  let own (i : Nat) (g : Nat) : Bool :=
    ((s.seg g).prio && (s.seg g).cls = .epoch && decide ((s.seg g).owner = fin16 i)) || inBankOf s (fin16 i) g
  glob.map (fun g => (16, g)) ++ (ctxOrder s).flatMap fun i => (kept.filter (own i)).map fun g => (i, g)
/-- The bounds that firmware checks at start-up (R78, R94). -/
def checkPool (s : State) : State :=
  let short := decide (s.largest > s.poolBytes)
  let s1 : State := { s with ret := { s.ret with sum := { s.ret.sum with shadowShort := short } } }
  if short then s1.raise 0x0310 0 [(16, s.largest / 2 ^ 20), (20, s.poolBytes / 2 ^ 20)] else s1
/-- Every context counts its time anew from its release (R269). -/
def rebaseAll (s : State) : State :=
  onScan s fun x => { x with ctx := x.ctx.map fun k => { k with rebase := true, rebaseIn := none, warm := false, warmIn := none, warmDue := false } }
/-- The store is unformatted (R507): nothing to restore, and READY follows. -/
def startUnformatted (cause : Nat) (s : State) : State :=
  let s1 := (onStore s forgetStore).raise 0x1211 0 [(16, cause)]
  let s2 := onSlu s1 fun x => { x with restoreDone := true, rstStart := s.now }
  let s3 : State := { s2 with ret := { s2.ret with segs := [], ctx := Vector.replicate 16 { Ctx.new with released := true } },
                              boot := { s2.boot with stage := 10 } }
  enterReady (checkPool (checkCapacity s3))
/-- Restore starts (R209 steps 1 to 3). -/
def startRestore (s : State) : State :=
  let k := restartOf s
  let s1 := onSlu s fun x => { x with everRestored := true, rstStart := s.now, rstEager := x.mode }
  let s2 := reportSealed (tellLost s1)
  let s3 := recordsBack { s2 with ret := { s2.ret with segs := tableFound s2 }, boot := { s2.boot with stage := 9 } }
  let (gone, s4) := dropEmptied k (dropLoads s3)
  let kept := (s4.ret.segs.filter fun p => p.2.cls ≠ .volatile ∧ !loadLost p.2 ∧ !gone.contains p.1).map (·.1)
  let s5 := onSlu s4 fun x => { x with unbuilt := kept, todo := kept, sets := prioritySets s4 kept, prefetch := [], rstDone := 0, rstTotal := kept.length }
  let s6 := rebaseAll s5
  let warm (c : ScanCtx) (i : Nat) : ScanCtx := { c with warmDue := k = .policy && (s6.ctxAt (fin16 i)).policy = 1 }
  let s7 := onScan s6 fun x => { x with ctx := Vector.ofFn fun i : Fin 16 => warm x.ctx[i] i.val }
  sendEpochs (checkPool (checkCapacity s7))
/-- `ANCHOR_VOTE_DONE`. -/
def anchorVoteDone (s : State) : State :=
  if !s.boot.coreOut ∨ s.glb.state ≠ 0 ∨ s.boot.stage ≠ 8 ∨ s.conf.form ≠ .formed then s
  else
    let s1 := castVote 0 s
    match foundStore s1 with
    | .inr c => startUnformatted c s1
    | .inl st => startRestore (findReady (match st.root with | some r => { s1 with store := underRoot r st } | none => s1))
def execAnchorVoteDone (s : State) : Host.Outcome State Fault Refusal := .next (settleWeir (anchorVoteDone s))
/-! ## Releases, READY and the end (R143, R212) -/
/-- A set has no segment left to bring in. -/
def setIn (s : State) (k : Nat) : Bool := !(s.slu.sets.any fun q => q.1 = k && s.slu.todo.contains q.2)
/-- A context is released: its layout becomes active where it is not IDLE (R261). -/
def release (c : Fin 16) (s : State) : State :=
  let x := s.ctxAt c
  if x.released ∨ s.conf.split.getLsbD c.val then s else
  let s1 := (s.onCtx c fun x => { x with released := true }).raise 0x0414 c.val [(16, toUs (s.now - s.slu.rstStart))]
  let s2 := settingsDue c s1
  if x.mode = .idle then s2 else activateLayout c s2
/-- LAZY: READY with the global set, then each context with its own. -/
def releaseLazy (s : State) : State :=
  if !setIn s 16 then s else
  let s1 := if s.glb.state = 1 then enterReady { s with boot := { s.boot with stage := 10 } } else s
  (ctxOrder s1).foldl (fun s i => if setIn s i then release (fin16 i) s else s) s1
/-- EAGER: every context, then READY, with the last segment. An IDLE context is released without an event. -/
def releaseEager (s : State) : State :=
  if s.slu.todo ≠ [] then s else
  let s1 := (ctxOrder s).foldl (fun s i =>
    let c := fin16 i
    if (s.ctxAt c).mode = .idle then settingsDue c (s.onCtx c fun x => { x with released := true }) else release c s) s
  if s1.glb.state = 1 then enterReady { s1 with boot := { s1.boot with stage := 10 } } else s1
/-- Every retained segment is in. -/
def restoreEnd (s : State) : State :=
  if s.slu.todo ≠ [] ∨ s.slu.restoreDone then s else
  let t := s.now - s.slu.rstStart
  (onSlu s fun x => { x with restoreDone := true, streaming := false, unbuilt := [], sets := [], prefetch := [], rstTime := sat 32 (toUs t) }).raise
    0x0612 0 [(16, t / cyclesMs), (20, s.slu.rstDone)]
/-- Commands that wait for a run of segments. -/
def wakePrefetch (s : State) : State :=
  wake (fun w => match w with
    | .prefetch first n => if s.slu.todo.any (fun g => first ≤ g ∧ g < first + n) then .go else .done St.ok none
    | _ => .go) s
/-- The segment that the stream brings in next. -/
def nextIn (s : State) : Option Nat := (s.slu.sets.map (·.2) ++ s.slu.prefetch ++ s.slu.todo).find? s.slu.todo.contains
/-- The stream reads the pages of its next segment (R213). -/
def streamReads (s : State) : State :=
  match nextIn s with
  | none => s
  | some g =>
    if !s.slu.streaming then s
    else (((presentLines s.store g).filterMap fun l => (durableOf s.store l).map (·.ppa)).dedup).foldl (fun s p => nandRead (.stream g) p s) s
def afterIn (s : State) : State :=
  streamReads (wakePrefetch (restoreEnd (if s.slu.rstEager then releaseEager s else releaseLazy s)))
/-- Every marker is durable: those that restore writes precede the next area (R248). -/
def markersDurable (st : Store) : Bool :=
  let isM (x : Slot) : Bool := (slotMarker x).isSome
  !(st.filling.any isM) && st.journal.all fun p => p.durable || !(p.slots.any isM)
/-- `RESTORE_AREA_READY`: step 4 of R209, gated by BANK_READY (R460). The area is ready once its descriptor and the root that names it are
programmed (R236); until then the readying goes on. -/
def restoreAreaReady (s : State) : State :=
  if s.glb.state ≠ 0 ∨ s.boot.stage ≠ 9 ∨ !s.pwr.bankReady ∨ !markersDurable s.store then s else
  let s0 := areaReadied s
  let s1 := if s0.store.ready.isSome then s0 else readyArea s0
  if s1.store.ready.isNone then s1 else
  let old := (s1.store.unsealed.map fun a => stripeBlocks s1.store.ncfg.planes a.stripe).getD []
  let s2 := freeBlocks old (onStore s1 fun st => { st with unsealed := none })
  afterIn (onSlu (s2.toDev 1) fun x => { x with streaming := true })
def execRestoreAreaReady (s : State) : Host.Outcome State Fault Refusal := .next (settleWeir (restoreAreaReady s))
/-! ## The stream (R210, R213) -/
/-- `SEGMENT_BUILD`. -/
def execSegmentBuild (seg : Nat) (s : State) : Host.Outcome State Fault Refusal := .next (settleWeir (serveReads (buildSegment seg s)))
/-- Bring a segment in: its lines that hold a durable value and have not been brought in. Waiting accesses go on. -/
def bringSegment (g : Nat) (s : State) : State :=
  let s1 := buildSegment g (readsOver (· == .stream g) s)
  let ls := (presentLines s1.store g).filter fun l => decide ((s1.eff l).1 = .unrestored) && !(s1.slu.faults.any fun f => f.line = l)
  let s2 := ls.foldl (fun s l => fillLine false l false s) s1
  serveReads (onSlu s2 fun x => { x with todo := x.todo.filter (· ≠ g), prefetch := x.prefetch.filter (· ≠ g), rstDone := x.rstDone + 1 })
/-- `RESTORE_SEGMENT_IN`. Where the segments that were left have been emptied meanwhile, it ends the stream. -/
def restoreSegmentIn (g : Nat) (s : State) : State :=
  if !s.slu.streaming ∨ (s.glb.state ≠ 1 ∧ s.glb.state ≠ 2) then s else
  match nextIn s with
  | none => afterIn s
  | some n => if n = g then afterIn (bringSegment g s) else s
def execRestoreSegmentIn (seg : Nat) (s : State) : Host.Outcome State Fault Refusal := .next (settleWeir (restoreSegmentIn seg s))
/-! ## Commands (R218) -/
def sPhaseCode : SPhase → Nat
  | .idle => 0 | .quiesce => 1 | .log => 2 | .metadata => 3 | .sealing => 4 | .shutdown => 5 | .resuming => 6
/-- `SLU_STAT`. -/
def sluStat (s : State) : Nat :=
  let x := s.slu
  pack [(0, sPhaseCode x.phase), (3, b2n x.streaming), (4, b2n x.restoreDone), (5, b2n s.store.ready.isSome), (6, b2n x.inputGood)]
def sluQueryInfo : CmdInfo := { op := 0x0610, auth := auObserve }
def sluQuery (d : Desc) (s : State) : State :=
  command sluQueryInfo d true (fun _ s => finish d St.ok (pack [(0, sluLast s.slu), (32, sluStat s)]) s) s
def execSluQuery (d : Desc) (s : State) : Host.Outcome State Fault Refusal := .next (sluQuery d s)
/-- Settings of `SLU_CONFIG` from its PARAM bytes. -/
def sluSettings (f : Nat → Nat → Nat) (x : Slu) : Slu :=
  { x with mode := bitN (f 16 1) 0, gpolicy := BitVec.ofNat 2 (f 17 1), lostPolicy := bitN (f 18 1) 0 }
def sluConfigInfo : CmdInfo := { op := 0x0611, auth := auConfigure, used := [(16, 24)] }
def sluConfig (d : Desc) (s : State) : State :=
  command sluConfigInfo d (decide (d.p 16 1 ≤ 1) && decide (d.p 17 1 ≤ 2) && decide (d.p 18 1 ≤ 1)) (fun _ s =>
    storing d 0x0611 [setting 0x0611 0xFF (paramBytes d)] 0 s) s
def execSluConfig (d : Desc) (s : State) : Host.Outcome State Fault Refusal := .next (sluConfig d s)
/-- Detection settings from the PARAM bytes of `SLU_DETECT_SET`. -/
def detectSettings (f : Nat → Nat → Nat) (x : Slu) : Slu :=
  { x with trip := f 16 2, good := f 18 2, vinFilt := f 20 1, pinFilt := f 21 1, resumeFilt := f 22 2 }
def detectOk (d : Desc) : Bool :=
  decide (100 ≤ d.p 16 2) && decide (d.p 16 2 + 20 ≤ d.p 18 2) && decide (d.p 18 2 ≤ 1200) && within 1 (d.p 20 1) 15 && within 0 (d.p 21 1) 15
    && within 1 (d.p 22 2) 1000
def sluDetectSetInfo : CmdInfo := { op := 0x0612, auth := auMaintain, used := [(16, 64)] }
def sluDetectSet (d : Desc) (s : State) : State :=
  command sluDetectSetInfo d (detectOk d) (fun _ s =>
    storing d 0x0612 [setting 0x0612 0xFF (paramBytes d)] 0 s) s
def execSluDetectSet (d : Desc) (s : State) : Host.Outcome State Fault Refusal := .next (sluDetectSet d s)
def sluSaveTestInfo : CmdInfo := { op := 0x0613, auth := auMaintain }
def sluSaveTest (d : Desc) (s : State) : State :=
  command sluSaveTestInfo d true (fun _ s => if s.slu.streaming then finish d St.sluStreaming 0 s else orderSave 6 d s) s
def execSluSaveTest (d : Desc) (s : State) : Host.Outcome State Fault Refusal := .next (sluSaveTest d s)
def sluShutdownInfo : CmdInfo := { op := 0x0614, auth := auConfigure }
def sluShutdown (d : Desc) (s : State) : State :=
  command sluShutdownInfo d true (fun _ s => if s.slu.streaming then finish d St.sluStreaming 0 s else orderSave 7 d s) s
def execSluShutdown (d : Desc) (s : State) : Host.Outcome State Fault Refusal := .next (sluShutdown d s)
def sluPrefetchInfo : CmdInfo := { op := 0x0615, auth := auOperate, used := [(16, 64)] }
/-- `SLU_PREFETCH`: the segments of the run that are still to come are queued before the rest. -/
def sluPrefetch (d : Desc) (s : State) : State :=
  let run := runOf (d.p 16 4) (d.p 20 4)
  command sluPrefetchInfo d (within 1 (d.p 20 4) 65536) (fun _ s =>
    if !run.all s.segExists then finish d St.badTarget 0 s
    else if s.slu.restoreDone then finish d St.sluIdle 0 s
    else
      let q := run.filter fun g => s.slu.todo.contains g
      let s1 := onSlu s fun x => { x with prefetch := x.prefetch ++ q.filter fun g => !x.prefetch.contains g }
      if q = [] then finish d St.ok 0 s1 else running d (.prefetch (d.p 16 4) (d.p 20 4)) q.length s1) s
def execSluPrefetch (d : Desc) (s : State) : Host.Outcome State Fault Refusal := .next (sluPrefetch d s)
/-! ## `GLB_DEVICE_RESET` (R510) -/
def glbDeviceResetInfo : CmdInfo := { op := 0x0120, auth := auMaintain, used := [(16, 8)], enc := fun d => d.p 16 1 = 0 }
def glbDeviceReset (d : Desc) (s : State) : State :=
  command glbDeviceResetInfo d true (fun _ s =>
    let s1 := weirLedgerRecord s
    let s2 := if s1.store.root.isSome then wakeEvacuate (writeCheckpoint s1) else s1
    orderSave 7 d (onPwr s2 fun p => { p with nextMode := 0 })) s
def execGlbDeviceReset (d : Desc) (s : State) : Host.Outcome State Fault Refusal := .next (glbDeviceReset d s)
end Sys2Proof.Machine
end

