-- ==== Sys2Proof/Machine/Settings.lean ====
section
/-! DEFINITION. Settings that their commands stored in the ledger, as they take effect once those commands complete (R182, R218, R257,
R318, R337 and the like; log entry 60), and the end of a ledger page write. -/
namespace Sys2Proof.Machine
/-- The configured calibration is brought back within the pool's bound (R22, R78). -/
def calApply (d : Desc) (s : State) : State :=
  let s1 := s.onWeir fun w => { w with cal := calBytes d.p }
  onRet s1 fun r => { r with sum := { r.sum with shadowShort := r.sum.shadowShort && decide (s1.largest > s1.poolBytes) } }
/-- The effect of one setting, by the opcode that stored it. What is in force from the next reset or power-up only is read from
the ledger then. -/
def settingApply (u : DueSet) (s : State) : State :=
  let d := u.desc
  match u.op with
  | 0x0316 => onRet s fun r => { r with sum := { r.sum with shadowNext := d.p 16 1 } }
  | 0x0511 => settleWeir (s.onWeir (weirSettings d.p))
  | 0x0512 => calApply d s
  | 0x0513 => s.onWeir fun w => { w with debt := 0, debtHigh := false, debtRecorded := 0 }
  | 0x0611 => onSlu s (sluSettings d.p)
  | 0x0612 => onSlu s (detectSettings d.p)
  | 0x0720 => onStore s (seepApply d)
  | 0x0810 => scanConfigApply d s
  | 0x0911 => dchConfigApply d u.ts s
  | 0x0915 => fabPortApply d s
  | 0x0A11 => errConfigApply d s
  | 0x0B10 => tribConfigApply d u.ts s
  | 0x0B11 => tribModApply d s
  | 0x0C10 => seqConfigApply d u.ts s
  | 0x0D10 => onMir s (mirSettings d.p)
  | 0x0F12 => onPwr s fun p => { p with tableNew := true }
  | _ => s
/-- Settings whose records are durable take effect, in the order of their commands. -/
def applyReady (s : State) : State :=
  let (go, stay) := s.host.dueSets.partition (·.ready)
  go.foldl (fun s u => settingApply u s) { s with host := { s.host with dueSets := stay } }
/-- Groups of the ledger that were read corrected: each counts in LDG_CORR and in bucket 28 (R334, R482). -/
def groupsCorrected (n : Nat) (s : State) : State :=
  bucketAddN 28 n { s with ldg := { s.ldg with corr := sat 32 (s.ldg.corr + n) } }
/-- `LEDGER_PAGE_WRITE_DONE` (R480, R489), with the groups that the read-back corrected: at most the eight of the page. -/
def ledgerPageWriteDone (ok : Bool) (corrected : Nat) (s : State) : State :=
  applyReady (pageWriteDone ok (groupsCorrected (if s.ldg.pages = [] then 0 else min 8 corrected) s))
def execLedgerPageWriteDone (result : ReadBack) (s : State) : Host.Outcome State Fault Refusal :=
  .next (ledgerPageWriteDone result.ok result.corrected s)
end Sys2Proof.Machine
end

