-- ==== Sys2Proof/Machine/Boot.lean ====
section
/-! DEFINITION. Start-up and resets (chapter 17): the always-on and core resets, the boot ROM and its images, what firmware reads from
the ledger, the end of training, and a link reset. -/
namespace Sys2Proof.Machine
def onBoot (s : State) (f : Boot → Boot) : State := { s with boot := f s.boot }
/-! ## Core reset (R497, R498, R508) -/
/-- NAND work under way is lost with the core: pages whose programs have not ended are never read, and erasures that had begun are
repeated (R253); one that waited behind a root is not made, and the sweep of the next start finds its block (R250). -/
def cutNand (s : State) : State :=
  let all := s.store.ops ++ s.store.waitq
  let lost := (all.filter (·.kind = .program)).map (·.ppa)
  let s1 := (s.store.ops.filter (·.kind = .program)).foldl (fun s o => setBlk (blockOf o.ppa) (fun b => { b with cut := true }) s) s
  let cutStripe := s.store.ops.any fun o => o.kind = .program && match o.use with | .journal _ => true | _ => false
  onStore s1 fun st =>
    { st with ops := [], waitq := st.ops.filter (·.kind = .erase), journal := st.journal.filter (·.durable), filling := [],
              badWords := st.badWords ++ lost.flatMap (fun p => (List.range 16).map fun w => (p, w)),
              stripe := if cutStripe then none else st.stripe,
              oldStripes := if cutStripe then st.oldStripes ++ st.stripe.toList else st.oldStripes,
              ch := st.ch.map fun x => { Nch.reset with installed := x.installed, ids := x.ids },
              cleaning := false, emergency := false, merging := false, auditing := false, auditLine := 0, auditPage := 0,
              auditProgress := 0, auditEnd := 0, auditStart := 0, auditFixed := 0, auditRefreshed := 0, dramFixed := 0, refresh := 0,
              lost := 0, evacuating := 0, ckptDue := false, ckptAt := 0, mergeAt := 0, walk := 0, spaceLow := false,
              ageMin := Store.new.ageMin, mergeFrac := Store.new.mergeFrac, auditH := Store.new.auditH,
              refreshBits := Store.new.refreshBits, mergeRate := Store.new.mergeRate, jrnMax := Store.new.jrnMax }
/-- The ledger keeps its bytes; what was queued is lost, and what was being written is indeterminate (R481). -/
def cutLedger (s : State) : State :=
  let s1 := ldgCut s
  { s1 with ldg := { s1.ldg with jobs := [], pages := [], retryAt := none, failed := [], conflict := false, conflictArea := 0,
                                 writeFail := false, pageWrites := 0, corr := 0, bad := 0, abandoned := 0, settled := [] } }
/-- The core after its reset: everything outside the always-on domain, the backup domain, the ledger and NAND is as new. -/
def coreReset (chipid bootsrc : BitVec 2) (testEn : Bool) (s : State) : State :=
  let s1 := cutLedger (cutNand s)
  { s1 with
    glb := { Glb.reset with uid := s.glb.uid, chipid := chipid, bootsrc := bootsrc },
    host := { HostIf.reset with svc := { Svc.reset with en := s.host.svc.en } },
    ret := Ret.reset,
    slu := { Slu.reset with inputGood := s.slu.inputGood, vin := s.slu.vin, saves := s.slu.saves, reportDue := s.slu.reportDue,
                            trip := s.slu.trip, good := s.slu.good, vinFilt := s.slu.vinFilt, pinFilt := s.slu.pinFilt,
                            resumeFilt := s.slu.resumeFilt },
    scan := Scan.reset, dch := Vector.replicate 4 Dch.reset, fab := Fab.reset, err := Err.reset,
    trib := Vector.ofFn fun n : Fin 12 => { Trib.reset s.glb.uid n with installed := s.trib[n].installed },
    mdio := Vector.replicate 2 [], seqr := Vector.replicate 12 Seqr.reset, mir := Mir.reset, conf := Conf.reset,
    pwr := { s1.pwr with refclk := true, holdover := false, measured := false, measDue := false, measCmd := false, measRaise := false, samples := [],
                         groupSeqs := [] },
    bkd := { s1.bkd with snap := Vector.replicate 3 Cal8.zero, transit := [], setCmd := false },
    boot := { Boot.reset with revoked := s.boot.revoked, copies := s.boot.copies, coreOut := true, testEn := testEn },
    life := Vector.replicate 50 ⟨.off, 0, 0⟩ }
/-- `CORE_RESET_RELEASE`: step 4 of R498 with the rails on, or the core reset that `BOOT_RESET` asked for. The release says that
`REFCLK` is present. -/
def coreResetRelease (chipid bootsrc : BitVec 2) (testEn : Bool) (s : State) : State :=
  if !s.pwr.vddAon ∨ s.pwr.seq ≠ .on ∨ (s.boot.coreOut ∧ s.boot.resetDue = 0) then s else coreReset chipid bootsrc testEn s
def execCoreResetRelease (chipid bootsrc : BitVec 2) (testEn : Bool) (s : State) : Host.Outcome State Fault Refusal :=
  .next (coreResetRelease chipid bootsrc testEn s)
/-- `VDD_AON_POR` (R441, R454, R481, R508): below the threshold everything but the backup domain, the ledger, NAND and the fuses is
lost, the latch with it; above it the rail table is read. A save whose report is due is reported all the same (R219; log entry
162). -/
def vddAonPor (rising : Bool) (s : State) : State :=
  if rising = s.pwr.vddAon then s
  else if rising then readTable (onPwr s fun p => { p with vddAon := true })
  else
    let s1 := cutLedger (cutNand s)
    { State.reset with
      glb := { Glb.reset with uid := s.glb.uid }, host := { HostIf.reset with svc := { Svc.reset with en := s.host.svc.en } },
      store := s1.store, ldg := s1.ldg, bkd := { s1.bkd with snap := Vector.replicate 3 Cal8.zero, transit := [], setCmd := false },
      trib := Vector.ofFn fun n : Fin 12 => { Trib.reset s.glb.uid n with installed := s.trib[n].installed },
      pwr := { Pwr.reset with vddAon := false, tableNew := s.pwr.tableNew, vbank := s.pwr.vbank },
      boot := { Boot.reset with revoked := s.boot.revoked, copies := s.boot.copies },
      slu := { Slu.reset with reportDue := s.slu.reportDue },
      free := s1.free, out := s1.out, pending := s1.pending }
def execVddAonPor (rising : Bool) (s : State) : Host.Outcome State Fault Refusal := .next (vddAonPor rising s)
/-! ## Images (R500, R501) -/
/-- An image as its bytes spell it: a header of 4 KiB, then the code. -/
def parseImage (b : List Byte) : FwImage :=
  let n := field b 24 4
  { keyIndex := field b 5 1, seq := field b 8 8, fil := BitVec.ofNat 16 (field b 16 2), build := BitVec.ofNat 32 (field b 20 4),
    codeLen := n, entry := field b 28 4, hash := BitVec.ofNat 384 (field b 32 48), key := (b.drop 80).take 97, sig := (b.drop 192).take 96,
    headerOk := field b 0 4 == 0x46574D55 && field b 4 1 == 1 && zeros b 6 2 && zeros b 18 2 && zeros b 177 15 && zeros b 288 3808
      && n % 4096 == 0 && decide (4096 ≤ n) && decide (n ≤ 2 ^ 23) && field b 28 4 % 4 == 0 && decide (field b 28 4 < n)
      && decide (b.length = 4096 + n),
    code := some ((b.drop 4096).take n) }
/-- R501 reasons 2 to 5; 0 where all pass. -/
def headReason (revoked : BitVec 4) (x : FwImage) : Nat :=
  if !x.headerOk then 2
  else if x.keyIndex > 3 ∨ Config.sha384 x.key ≠ Config.keyHash x.keyIndex then 3
  else if revoked.getLsbD x.keyIndex then 4
  else if !Config.ecdsaOk x.key x.sig (Config.sha384 (headBytes x)) then 5
  else 0
/-- Reason 6. -/
def codeReason (x : FwImage) : Nat :=
  match x.code with
  | none => 6
  | some c => if Config.sha384 c = x.hash then 0 else 6
def imageReason (revoked : BitVec 4) (x : FwImage) : Nat :=
  let r := headReason revoked x
  if r ≠ 0 then r else codeReason x
/-- What the boot ROM reads of a copy: an NCFG in page 0 of a good block, the header, and the code where every page of it decodes
(R499, R501). -/
def copyRead (s : State) (i : Fin 2) : Option Ncfg × Option FwImage :=
  let c := s.boot.copies[i]
  let nc := if (ncfgPages s.store i).any (headReads s.store) then c.1 else none
  let im := match c.2 with
    | none => none
    | some x =>
      let ps := fwPages s.store i x.codeLen
      if !headReads s.store (ps.headD 0) then none
      else if ps.all (pageReads s.store) then some x else some { x with code := none }
  (nc, im)
/-- The boot state with the copies as they read. -/
def bootNow (s : State) : Boot := { s.boot with copies := #v[copyRead s 0, copyRead s 1] }
/-- Reasons 1 to 5 of a boot-region copy. A copy with no header has a wrong MAGIC. -/
def copyHead (b : Boot) (i : Fin 2) : Nat :=
  match b.copies[i] with
  | (none, _) => 1
  | (some _, none) => 2
  | (some _, some x) => headReason b.revoked x
/-- All the checks of a copy. -/
def copyReason (b : Boot) (i : Fin 2) : Nat :=
  let r := copyHead b i
  if r ≠ 0 then r else match b.copies[i].2 with | some x => codeReason x | none => 2
def copySeq (b : Boot) (i : Fin 2) : Nat := match b.copies[i].2 with | some x => x.seq | none => 0
/-- The copy to run, and the reasons recorded for both: the higher SEQ of those passing 1 to 5, NCH0 on a tie, is read first, the other
only where it fails. -/
def chooseCopy (b : Boot) : Option (Fin 2) × Nat × Nat :=
  let a0 := copyHead b 0
  let b0 := copyHead b 1
  let first : Fin 2 := if a0 = 0 ∧ (b0 ≠ 0 ∨ copySeq b 1 ≤ copySeq b 0) then 0 else 1
  let fr := copyReason b first
  if fr = 0 then (some first, a0, b0)
  else
    let second : Fin 2 := 1 - first
    let sr := copyReason b second
    (if sr = 0 then some second else none, if first = 0 then fr else sr, if first = 0 then sr else fr)
/-- The boot ROM starts an image at its entry. -/
def startImage (copy : Nat) (x : FwImage) (s : State) : State :=
  let s1 := onBoot s fun b => { b with stage := 4, copy := copy, fwSeq := x.seq % 2 ^ 32 }
  { s1 with glb := { s1.glb with fwbuild := x.build } }
/-- No image: the service port, or HALTED, as `BOOTSRC` directs. -/
def noImage (s : State) : State :=
  if s.glb.bootsrc = 0 ∨ s.glb.bootsrc = 1 then onBoot s fun b => { b with stage := 3 }
  else (onBoot s fun b => { b with stage := 15, haltCause := 1 }).toDev 4
def copyBad (copy reason : Nat) (s : State) : State := if reason = 0 then s else s.raise 0x1210 0 [(16, copy), (17, reason)]
/-- `IMAGE_VERIFIED`: the boot ROM's checks end. `TEST_EN` holds the ROM (R534). -/
def imageVerified (s : State) : State :=
  if !s.boot.coreOut ∨ s.boot.testEn ∨ s.boot.stage ≠ 0 ∨ s.glb.fil ≠ 0 ∨ s.glb.state ≠ 0 then s
  else if s.glb.bootsrc = 3 then noImage (onBoot s fun b => { b with reasonA := 9 })
  else if s.glb.bootsrc = 1 then noImage s
  else
    let (c, ra, rb) := chooseCopy (bootNow s)
    let s1 := copyBad 2 rb (copyBad 1 ra (onBoot s fun b => { b with reasonA := ra, reasonB := rb }))
    match c with
    | none => noImage s1
    | some i => match s.boot.copies[i].2 with | some x => startImage (i.val + 1) x s1 | none => s1
def execImageVerified (s : State) : Host.Outcome State Fault Refusal := .next (imageVerified s)
/-! ## BOOT commands (R502, R503, R512) -/
/-- The boot ROM serves commands (R502). -/
def romServes (s : State) : Bool := s.glb.fil == 0 && s.boot.stage == 3
def bootLoadInfo : CmdInfo := { op := 0x1210, auth := auMaintain, used := [(16, 32), (20, 16), (24, 64)], buf := some 24 }
def bootLoad (d : Desc) (given : List Byte) (s : State) : State :=
  let buf := bufferOf s d 0x1210 given
  command bootLoadInfo d (d.p 16 4 % 4096 == 0 && bufOk buf (d.p 20 2) 1 4096) (fun _ s =>
    if !romServes s then finish d St.unitState 0 s
    else finish d St.ok 0 (onBoot s fun b => { b with loaded := mputs 0 b.loaded (d.p 16 4) buf })) s
def execBootLoad (d : Desc) (buf : List Byte) (s : State) : Host.Outcome State Fault Refusal := .next (bootLoad d buf s)
/-- The image that `BOOT_LOAD` has put together. -/
def loadedImage (m : AMap Byte) : FwImage := parseImage (mgets 0 m 0 (4096 + field (mgets 0 m 0 32) 24 4 % 2 ^ 24))
def bootRunInfo : CmdInfo := { op := 0x1211, auth := auMaintain }
def bootRun (d : Desc) (s : State) : State :=
  command bootRunInfo d true (fun _ s =>
    if !romServes s then finish d St.unitState 0 s
    else
      let x := loadedImage s.boot.loaded
      let r := imageReason s.boot.revoked x
      if r ≠ 0 then finish d St.bootImage r s else finish d St.ok 0 (startImage 3 x s)) s
def execBootRun (d : Desc) (s : State) : Host.Outcome State Fault Refusal := .next (bootRun d s)
/-- The copy to write first: an invalid one, the lower SEQ, NCH8 on a tie. -/
def lowerCopy (b : Boot) : Fin 2 :=
  let v0 := copyReason b 0 = 0
  let v1 := copyReason b 1 = 0
  if v0 ∧ v1 then (if copySeq b 0 < copySeq b 1 then 0 else 1) else if v1 then 0 else 1
def highestSeq (b : Boot) : Nat :=
  max (if copyReason b 0 = 0 then copySeq b 0 else 0) (if copyReason b 1 = 0 then copySeq b 1 else 0)
def bootFwUpdateInfo : CmdInfo := { op := 0x1212, auth := auMaintain, used := [(16, 96)], buf := some 16 }
/-- `BOOT_FW_UPDATE`. The signature covers SEQ, and SEQ is written as one above the highest: the copy read back has to verify as it
stands (log entry 57). -/
def bootFwUpdate (d : Desc) (given : List Byte) (s : State) : State :=
  let buf := bufferOf s d 0x1212 given
  command bootFwUpdateInfo d (decide (1 ≤ d.p 24 4) && decide (buf.length = d.p 24 4)) (fun _ s =>
    if s.glb.state ≠ 2 then finish d St.unitState 0 s
    else
      let x := parseImage buf
      let r := imageReason s.boot.revoked x
      if r ≠ 0 then finish d St.bootImage r s
      else
        let y : FwImage := { x with seq := highestSeq (bootNow s) + 1 }
        let i := lowerCopy (bootNow s)
        let back := imageReason s.boot.revoked y
        let s1 := programCopy i (some y) s
        if back ≠ 0 then finish d St.bootImage back s1 else finish d St.ok y.seq (programCopy (1 - i) (some y) s1)) s
def execBootFwUpdate (d : Desc) (buf : List Byte) (s : State) : Host.Outcome State Fault Refusal := .next (bootFwUpdate d buf s)
/-- `GLB_BOOT_STAT`. -/
def bootStat (b : Boot) : Word := packW [(0, b.stage), (4, b.copy), (8, b.reasonA), (12, b.reasonB), (16, b.haltCause)]
def bootFwQueryInfo : CmdInfo := { op := 0x1213, auth := auObserve }
def bootFwQuery (d : Desc) (s : State) : State :=
  command bootFwQueryInfo d true (fun _ s => finish d St.ok (pack [(0, (bootStat s.boot).toNat), (32, s.boot.fwSeq)]) s) s
def execBootFwQuery (d : Desc) (s : State) : Host.Outcome State Fault Refusal := .next (bootFwQuery d s)
/-- Every valid copy is signed with the key of a slot. -/
def signsAll (b : Boot) (k : Nat) : Bool :=
  [(0 : Fin 2), 1].all fun i => copyReason b i != 0 || (match b.copies[i].2 with | some x => x.keyIndex == k | none => true)
def bootKeyRevokeInfo : CmdInfo := { op := 0x1214, auth := auMaintain, used := [(16, 8)] }
def bootKeyRevoke (d : Desc) (s : State) : State :=
  let k := d.p 16 1
  command bootKeyRevokeInfo d (decide (k ≤ 3)) (fun _ s =>
    let after := s.boot.revoked ||| BitVec.ofNat 4 (2 ^ k)
    if signsAll (bootNow s) k ∨ (after = 0xF ∧ !s.boot.revoked.getLsbD k) then finish d St.bootKey 0 s
    else finish d St.ok after.toNat (onBoot s fun b => { b with revoked := after })) s
def execBootKeyRevoke (d : Desc) (s : State) : Host.Outcome State Fault Refusal := .next (bootKeyRevoke d s)
def bootResetInfo : CmdInfo := { op := 0x1215, auth := auMaintain }
/-- `BOOT_RESET`: `CORE_RESET_RELEASE` follows. -/
def bootReset (d : Desc) (s : State) : State :=
  command bootResetInfo d true (fun _ s =>
    if s.glb.state ≠ 0 ∧ s.glb.state ≠ 4 then finish d St.unitState 0 s
    else finish d St.ok 0 (onBoot s fun b => { b with resetDue := 1 })) s
def execBootReset (d : Desc) (s : State) : Host.Outcome State Fault Refusal := .next (bootReset d s)
/-! ## What firmware reads from the ledger (R65, R76, R175, R181, R311, R492) -/
/-- The voted policy, or the defaults. -/
def loadPolicy (s : State) : State :=
  match voted s 1 with
  | none => s
  | some b =>
    let m (p : Nat) : BitVec 6 := BitVec.ofNat 6 (field b p 1)
    { s with host := { s.host with auth := Vector.ofFn fun p : Fin 12 =>
        if p.val = 11 then ⟨0, 0⟩ else ⟨m p &&& ceiling p, m p &&& ceiling p⟩ } }
def loadCal (s : State) : State :=
  match voted s 2 with
  | none => s
  | some b => s.onWeir fun w => { w with cal := calBytes fun off n => field b (off - 16) n }
/-- A channel of a population, with the ranks that migrations have moved. -/
def popDch (d : Desc) (moved : Option (List Byte)) (x : Dch) : Dch :=
  let n := d.p 16 1
  let sp := d.bit 18 0 && decide (2 ≤ n)
  let base (r : Nat) : RankSt := if n ≤ r then .absent else if sp && r == d.p 19 1 then .spare else .inService
  let now (r : Nat) : RankSt := match moved with
    | some b => if field b 2 1 = 0 then base r else if r = field b 0 1 then .retired else if r = field b 1 1 then .inService else base r
    | none => base r
  -- the new value of tRFC follows DENSITY (R317)
  { x with ranks := n, density := decide (d.p 17 1 = 1), spareEn := d.bit 18 0, spare := d.p 19 1, rank := #v[now 0, now 1, now 2],
           tim := if d.p 17 1 = 1 then x.tim.set 2 0x03708CC4 else x.tim }
/-- Installed memory of a population, in segments (R290). -/
def popSegs (x : Dch) : Nat :=
  4 * (x.ranks - (if x.spareEn && decide (2 ≤ x.ranks) then 1 else 0)) * (if x.density then 16 else 8) * 512
def loadDch (s : State) : State :=
  let s1 := withStored 0x0912 0xFF (fun d s =>
    { s with dch := Vector.ofFn fun c : Fin 4 => popDch d (storedRec s 8 0x43 c.val) s.dch[c] }) s
  let s2 := (List.range 4).foldl (fun s c => withStored 0x0911 c (fun d s => onDch s (Fin.ofNat 4 c) (dchApply d)) s) s1
  let s3 := withStored 0x0913 0xFF (fun d s =>
    { s with fab := { s.fab with chmap0 := BitVec.ofNat 28 (d.p 16 4), chmap1 := BitVec.ofNat 28 (d.p 20 4) },
             dch := s.dch.map fun x => { x with bg0 := BitVec.ofNat 21 (d.p 24 4), bg1 := BitVec.ofNat 21 (d.p 28 4),
                                                ba0 := BitVec.ofNat 21 (d.p 32 4), ba1 := BitVec.ofNat 21 (d.p 36 4) } }) s2
  let s4 := (List.range 23).foldl (fun s p => withStored 0x0915 p (fun d s => onFab s fun f =>
    { f with port := vmod f.port (Fin.ofNat 23 p) fun x =>
        if isRealTime (Fin.ofNat 23 p) then { x with target := d.p 18 2, panicHi := d.p 20 1, panicLo := d.p 21 1 }
        else { x with target := d.p 18 2 } }) s) s3
  onRet s4 fun r => { r with sum := { r.sum with installed := popSegs s4.dch[0] } }
/-- Bucket and debt (R174, R175): the bucket starts empty. -/
def loadDebt (s : State) : State :=
  let d := match storedRec s 8 0x40 0 with | some b => field b 4 4 * 2 ^ 20 | none => 0
  let hi := decide (0 < d) && decide (s.ret.weir.debtLimit * 2 ^ 30 ≤ d)
  let s1 := s.onWeir fun w => { w with bucket := 0, debt := d, debtRecorded := d, debtHigh := hi }
  if hi then s1.raise 0x0516 0 [(16, d / 2 ^ 20), (20, s1.ret.weir.debtLimit)] else s1
/-- Days from 2000-01-01 to a date. -/
def dayNumber (c : Cal8) : Nat :=
  let y := yearOf c
  365 * y + (y + 3) / 4 - (if y > 100 then 1 else 0)
    + ((List.range (bcdVal c.month - 1)).map fun m => monthDays y (m + 1)).sum + bcdVal c.date
def secondsOf (c : Cal8) : Nat := dayNumber c * 86400 + todOf c
/-- Hours since the last measurement (R465), saturating; free where the clock cannot tell. -/
def ageNow (t : Nat) (s : State) : Nat × State :=
  if t = 0 then (0xFFFF, s)
  else if s.bkd.copyLost ∨ t.testBit 13 ∨ secondsOf s.bkd.copy < secondsOf (calOf t) then
    (let (v, s1) := s.draw
     (bits v 0 16, s1))
  else (min 0xFFFF ((secondsOf s.bkd.copy - secondsOf (calOf t)) / 3600), s)
/-- The last measurement; a value of 0 stands for none. -/
def loadBank (s : State) : State :=
  let f (b : List Byte) (off : Nat) : Option Nat := if field b off 2 = 0 then none else some (field b off 2)
  match storedRec s 8 0x41 0 with
  | none => onPwr s fun p => { p with cap := none, esr := none, psave := none, measTime := 0, measAge := 0xFFFF, measAt := s.now }
  | some b =>
    let (h, s1) := ageNow (field b 8 8) s
    onPwr s1 fun p => { p with cap := f b 0, esr := f b 2, psave := f b 4, measTime := field b 8 8, measAge := h, measAt := s.now }
def loadCounts (s : State) : State :=
  match storedRec s 8 0x42 0 with
  | none => s
  | some b => onMir (onSlu s fun x => { x with saves := field b 0 4 }) fun m => { m with switches := field b 4 4 }
/-- The settings of the units that have one record each. -/
def loadUnits (s : State) : State :=
  let s1 := withStored 0x0316 0xFF (fun d s => onRet s fun r => { r with sum := { r.sum with shadow := d.p 16 1 * 512, shadowNext := d.p 16 1 } }) s
  let s2 := withStored 0x0511 0xFF (fun d s => s.onWeir (weirSettings d.p)) s1
  let s3 := withStored 0x0612 0xFF (fun d s => onSlu s (detectSettings d.p)) (withStored 0x0611 0xFF (fun d s => onSlu s (sluSettings d.p)) s2)
  let s4 := withStored 0x0720 0xFF (fun d s => onStore s (seepApply d)) s3
  let s5 := withStored 0x0810 0xFF (fun d s => onScan s fun x => { x with timerEn := BitVec.ofNat 16 (d.p 16 2), edgeEn := BitVec.ofNat 16 (d.p 18 2) }) s4
  let s6 := withStored 0x0A11 0xFF (fun d s => { s with err := { s.err with interval := d.p 16 1, thresh := d.p 17 1, retire := d.p 18 1 } }) s5
  let s7 := (List.range 12).foldl (fun s n =>
    withStored 0x0C10 n (fun d s => onSeqr s (Fin.ofNat 12 n) (seqSettings d.p)) (loadTrib (Fin.ofNat 12 n) s)) s6
  let s8 := withStored 0x0D10 0xFF (fun d s => onMir s (mirSettings d.p)) s7
  withStored 0x0E11 0xFF (fun d s => onConf s fun k => { k with chips := d.p 16 1, formMs := d.p 18 2, home := BitVec.ofNat 32 (d.p 20 4) }) s8
/-- The image that runs. -/
def runningImage (b : Boot) : Option FwImage :=
  if b.copy = 1 then b.copies[0].2 else if b.copy = 2 then b.copies[1].2 else if b.copy = 3 then some (loadedImage b.loaded) else none
/-- `FIRMWARE_READY`: `GLB_FIL` shows the interface level, and the settings are those of the ledger. -/
def firmwareReady (s : State) : State :=
  if !s.boot.coreOut ∨ s.boot.stage ≠ 4 then s
  else match runningImage s.boot with
    | none => s
    | some x =>
      let s1 : State := { s with glb := { s.glb with fil := x.fil.zeroExtend 32, fwbuild := x.build }, boot := { s.boot with stage := 5 } }
      let s2 := castVote 2 (castVote 1 ((s1.searched 9).2.searched 8).2)
      loadCounts (loadBank (loadDebt (loadUnits (loadDch (loadCal (loadPolicy s2))))))
def execFirmwareReady (s : State) : Host.Outcome State Fault Refusal := .next (firmwareReady s)
/-! ## Training (R307, R506) -/
/-- Firmware brings an instance up. -/
def bringUp (cc : LClass) (i : Nat) (s : State) : State := toState cc i .running (toState cc i .stopped s)
/-- An instance whose restarts at start-up failed. -/
def failUp (cc : LClass) (i code : Nat) (s : State) : State :=
  let u := unitAt cc i
  ((toState cc i .faulted (setFault u code (toState cc i .stopped s))).blame cc.code).raise (cc.code * 256 + 2) i [(16, code)]
def trainDch (c : Fin 4) (ok : Bool) (s : State) : State :=
  if ok then onDch (bringUp .dch c s) c fun d => { refreshMode d with trained := true }
  else
    let (v, s1) := s.draw
    let s2 := failUp .dch c (bits v 16 32) (onDch s1 c fun d => { d with dead := true, restarts := 3, errs := d.errs ||| 0x30 })
    s2.raise 0x0912 c.val [(16, bits v 0 8 % max 1 s.dch[c].ranks), (17, 1 + bits v 8 8 % 6)]
/-- A NAND channel is trained: the targets that answer with JEDEC_ID serve (R221). One that does not train is FAULTED, and its three
restart attempts have failed (R254, R506). -/
def trainNch (c : Fin 16) (ok : Bool) (s : State) : State :=
  let nc := s.store.ncfg
  if ok then
    let ces := (List.range nc.ceCount).filter fun e => decide (s.store.ch[c].ids[Fin.ofNat 4 e] = nc.jedec)
    let s1 := onNch s c fun x =>
      { x with trained := true, cePresent := BitVec.ofNat 4 (maskOf ces), lunSvc := BitVec.ofNat 8 (maskOf (ces.flatMap fun e => [2 * e, 2 * e + 1])) }
    bringUp .nst c (onNch s1 c fun x => { x with lunSvc := lunsBack s1 c })
  else
    let s1 := failUp .nst c 3 (onNch s c fun x => { x with restarts := 3, errs := x.errs ||| 0x10 })
    [1, 2, 3].foldl (fun s n => s.raise 0x0710 c.val [(16, n), (17, 0), (18, 3)]) s1
/-- Firmware takes the NCFG of the copy that it finds (R221, R499). -/
def takeNcfg (s : State) : State :=
  match (copyRead s 0).1.or (copyRead s 1).1 with
  | some nc => onStore s fun st => { st with ncfg := nc }
  | none => s
/-- `TRAINING_DONE`: bit by bit the channels that trained. A DRAM channel that did not halts start-up. -/
def trainingDone (dram : BitVec 4) (nand : BitVec 16) (s : State) : State :=
  if !s.boot.coreOut ∨ s.boot.stage ≠ 5 ∨ s.glb.state ≠ 0 then s
  else
    let s1 := (List.range 4).foldl (fun s i => trainDch (Fin.ofNat 4 i) (dram.getLsbD i) s) s
    if dram ≠ 0xF then (onBoot s1 fun b => { b with stage := 15, haltCause := 2 }).toDev 4
    else
      let s2 := issueAll ((s1.instances .nst).foldl (fun s i => trainNch (Fin.ofNat 16 i) (nand.getLsbD i) s) (takeNcfg s1))
      let s3 := onBoot s2 fun b => { b with stage := 7, trainedDram := true, trainedNand := true }
      let s4 := (wired s3).foldl (fun s p => linkClear (.conf p) .training (bringUp .conf p s)) s3
      if s4.conf.chips = 1 then takeMembers (BitVec.ofNat 4 (2 ^ s4.slot)) s4 else s4
def execTrainingDone (dram : BitVec 4) (nand : BitVec 16) (s : State) : Host.Outcome State Fault Refusal := .next (trainingDone dram nand s)
/-! ## Link reset (R509) -/
/-- `PERST`: the endpoint alone. What the host had sent and was not taken is lost. -/
def perst (s : State) : State :=
  if !s.boot.coreOut then s else
  let hosts : Reader → Bool | .host _ => true | _ => false
  let s0 := dropReads (hosts ·.who) s
  let s1 : State := { s0 with
    host := { s.host with msix := HostIf.reset.msix, cfg := CfgSpace.reset, stream := [], heldHost := false },
    ret := { s.ret with held := s.ret.held.filter fun h => h.fp ≠ 0 },
    conf := { s.conf with reads := s.conf.reads.filter fun r => !hosts r.who },
    boot := { s.boot with perstAt := s.now } }
  let s2 := endHold s1
  let s3 := if s2.host.setupBusy then setupFails 6 s2 else s2
  [(0 : Fin 4), 1, 2, 3].foldl (fun s q => haltMq q s) s3
def execPerst (s : State) : Host.Outcome State Fault Refusal := .next (settleWeir (perst s))
end Sys2Proof.Machine
end

