-- ==== Sys2Proof/Machine/Regs.lean ====
section
/-! DEFINITION. The registers of BAR0 (R8–R14, R35–R38 and the register tables of every chapter): what each reads as, what a
read latches or clears, what a write does. Offsets count from the base of BAR0. -/
namespace Sys2Proof.Machine
/-- The register at an offset, among (offset, value). -/
def look (off : Nat) : List (Nat × Nat) → Nat
  | [] => 0
  | (o, v) :: t => if o = off then v else look off t
def lo32 (n : Nat) : Nat := n % 2 ^ 32
def hi32 (n : Nat) : Nat := n / 2 ^ 32 % 2 ^ 32
/-- The registers of an array of `n` sets of `size` bytes from `base` on. -/
def inArray (off base size n : Nat) : Bool := decide (base ≤ off) && decide (off < base + size * n)
/-! ## Values by block -/
/-- `GLB_AUTH_PORTp` (R66). -/
def authWord (s : State) (p : Nat) : Nat :=
  if p ≥ 12 then 0
  else pack [(0, (s.liveAuth (Fin.ofNat 12 p)).toNat), (8, s.host.auth[(Fin.ofNat 12 p)].stored.toNat), (16, (ceiling p).toNat)]
def winWord (w : Window) (o : Nat) : Nat :=
  look o [(0, lo32 w.base.toNat), (4, hi32 w.base.toNat), (8, w.len), (12, pack [(0, w.access.toNat), (4, w.classes.toNat), (16, w.ctxMask.toNat)])]
/-- GLB (R38, R107, R511). -/
def glbVal (s : State) (o : Nat) : Nat :=
  let g := s.glb
  if inArray o 0x100 4 12 then (if o % 4 = 0 then authWord s ((o - 0x100) / 4) else 0)
  else if inArray o 0x1000 32 64 then winWord (s.ret.windows[(Fin.ofNat 64 ((o - 0x1000) / 32))]) (o % 32)
  else look o
    [(0x00, 0x81601E63), (0x04, 0xB1), (0x08, g.fil.toNat), (0x0C, g.fwbuild.toNat), (0x10, pack [(0, g.state.toNat), (3, b2n g.resumed)]),
     (0x14, pack [(0, g.chipid.toNat), (2, g.bootsrc.toNat), (4, b2n s.host.svc.en)]), (0x18, pack [(0, b2n g.aliasDiff), (4, g.aliasOff.toNat)]),
     (0x20, lo32 g.uid.toNat), (0x24, hi32 g.uid.toNat), (0x28, lo32 g.time.toNat), (0x2C, hi32 g.time.toNat), (0x30, g.authRefused),
     (0x38, (bootStat s.boot).toNat), (0x3C, lo32 s.boot.fwSeq),
     (0x40, pack [(0, b2n g.trapValid), (1, g.trapReason.toNat), (4, b2n g.trapWrite), (8, g.trapSlot.toNat)]),
     (0x44, lo32 g.trapAddr.toNat), (0x48, hi32 g.trapAddr.toNat), (0x4C, g.trapReq.toNat), (0x50, g.trapCount), (0x54, s.boot.revoked.toNat)]
/-- Commands of a mailbox that are outstanding (R46); those a deleted mailbox left behind are not. -/
def outstanding (m : Mailbox) : Nat := (m.cmds.filter fun c => !c.orphan).length
def MqState.code : MqState → Nat
  | .absent => 0 | .active => 1 | .halted => 2
/-- MBX (R46). -/
def mbxVal (s : State) (o : Nat) : Nat :=
  if o < 0x400 then
    let m := s.host.mq[(Fin.ofNat 4 (o / 0x100))]
    look (o % 0x100)
      [(0x0C, pack [(0, m.fetch), (16, outstanding m), (28, m.state.code)]),
       (0x10, pack [(0, b2n m.dbRange), (1, b2n m.dmaFail), (2, b2n m.eqOver)]), (0x14, m.eqLost)]
  else if o = 0x808 then pack [(0, s.host.bootStat), (8, s.host.bootReason)] else 0
/-- CTXD (R144). -/
def ctxdVal (s : State) (o : Nat) : Nat :=
  if o ≥ 0x400 then 0 else
  let x := s.ctxAt (Fin.ofNat 16 (o / 64))
  look (o % 64)
    [(0x08, lo32 x.commit), (0x0C, hi32 x.commit), (0x10, pack [(0, x.mode.code), (3, x.lastReject.toNat), (8, x.closes % 256)])]
/-- EVT (R55): the MSI-X table and the pending-bit array. -/
def evtVal (s : State) (o : Nat) : Nat :=
  if o < 0x400 then (if o % 4 = 0 then (s.host.msix.table[(Fin.ofNat 256 (o / 4))]).toNat else 0)
  else look o [(0x1000, lo32 s.host.msix.pba.toNat), (0x1004, hi32 s.host.msix.pba.toNat)]
/-- FAB (R316). -/
def fabVal (s : State) (o : Nat) : Nat :=
  if inArray o 0x100 8 23 then
    let p : Fin 23 := Fin.ofNat 23 ((o - 0x100) / 8)
    look (o % 8) [(0, fabPortCfg p s.fab.port[p]), (4, s.fab.port[p].lat)]
  else look o
    [(0x00, s.fab.chmap0.toNat), (0x04, s.fab.chmap1.toNat), (0x08, ((List.range 4).map fun c => (s.dch[(Fin.ofNat 4 c)]).reqs.length).sum),
     (0x0C, maskOf ((List.range 23).filter fun p => s.fab.port[(Fin.ofNat 23 p)].panic)), (0x10, s.fab.panicCount)]
/-- ERR (R336). -/
def errVal (s : State) (o : Nat) : Nat :=
  let e := s.err
  if inArray o 0x100 4 37 then (if o % 4 = 0 then (errBkt e.bkt[(Fin.ofNat 37 ((o - 0x100) / 4))]).toNat else 0)
  else look o
    [(0x00, e.summary.toNat), (0x04, e.made), (0x08, e.used), (0x0C, e.cleared),
     (0x10, pack [(0, b2n e.madeValid), (1, e.madeSource), (4, e.madeGran.toNat)]), (0x14, lo32 e.madeAddr.toNat), (0x18, hi32 e.madeAddr.toNat),
     (0x20, pack [(0, b2n e.usedValid), (1, e.usedConsumer), (8, e.usedInst % 256)]), (0x24, lo32 e.usedAddr.toNat), (0x28, hi32 e.usedAddr.toNat),
     (0x30, e.metaLost), (0x34, e.repaired), (0x38, e.sramCe), (0x3C, e.sramUe), (0x40, (errVote e).toNat),
     (0x44, pack [(0, e.interval), (8, e.thresh), (16, e.retire)])]
/-- Hours since the last measurement (R465). -/
def measAgeNow (s : State) : Nat := sat 16 (s.pwr.measAge + (s.now - s.pwr.measAt) / (3600000 * cyclesMs))
def latchRec (l : Option Latch) : Nat := match l with | none => 0 | some x => pack [(0, x.rail), (4, x.fault), (8, x.mode), (16, 1)]
def HubSt.code : HubSt → Nat
  | .idle => 0 | .charging => 1 | .full => 2 | .measuring => 3 | .saving => 4 | .overvolt => 5
/-- Rail registers: the table's four words, then the state (R465). -/
def railVal (x : Rail) (o : Nat) : Nat :=
  if o < 0x10 then (if o % 4 = 0 then field (railWords x.cfg) o 4 else 0)
  else look o [(0x10, (railStat x).toNat), (0x14, x.mv), (0x18, pack [(0, x.minMv), (16, x.maxMv)]), (0x1C, x.glitch)]
/-- PWR (R465). -/
def pwrVal (s : State) (o : Nat) : Nat :=
  let p := s.pwr
  if inArray o 0x100 32 16 then railVal (railAt s ((o - 0x100) / 32)) (o % 32)
  else if inArray o 0x40 8 6 then
    let r := p.rst[(Fin.ofNat 6 ((o - 0x40) / 8))]
    look (o % 8) [(0, pack [(0, r.rails.toNat), (16, r.stretch)]), (4, b2n r.asserted)]
  else if inArray o 0x80 4 3 then (if o % 4 = 0 then field (hubWords p.hub) (o - 0x80) 4 else 0)
  else look o
    [(0x00, (pwrStat p (goodMask s)).toNat), (0x04, p.fault.toNat), (0x08, latchRec p.latch), (0x0C, pack [(0, p.retries), (16, p.retryOff)]),
     (0x10, sat 16 p.seqTime),
     (0x8C, pack [(0, p.hubSt.code), (3, b2n p.chg), (4, b2n p.bal), (5, b2n p.load), (6, b2n p.bankReady), (7, b2n p.chgTimeout), (8, b2n p.capLow)]),
     (0x90, sat 16 p.vbank), (0x94, p.cap.getD 0), (0x98, p.esr.getD 0), (0x9C, p.psave.getD 0), (0xA0, measAgeNow s)]
def monthWord (c : Cal8) : Nat := pack [(0, c.month.toNat), (7, b2n c.century)]
/-- BKD (R493): the time fields read from the requester's snapshot, the seconds from the copy that the read latches (R474). -/
def bkdVal (who : Requester) (s : State) (o : Nat) : Nat :=
  let b := s.bkd
  let c := b.snap[Requester.idx who]
  let a := b.alarm
  look o
    [(0x00, b.copy.sec.toNat), (0x04, c.min.toNat), (0x08, c.hour.toNat), (0x0C, c.day.toNat), (0x10, c.date.toNat), (0x14, monthWord c),
     (0x18, c.year.toNat), (0x1C, c.sub.toNat),
     (0x20, pack [(0, b2n b.halt), (1, b2n b.wrRej), (2, b2n b.timeLost), (3, b2n b.oscStop), (4, b2n b.yearWrap)]),
     (0x30, a.sec.toNat), (0x34, a.min.toNat), (0x38, a.hour.toNat), (0x3C, a.date.toNat), (0x40, monthWord a), (0x44, a.year.toNat),
     (0x48, (almCtrl b).toNat), (0x50, lo32 b.swo.toNat), (0x54, hi32 b.swo.toNat),
     (0x58, pack [(0, b2n b.swoValid), (1, b2n b.onVbat), (2, b2n b.vbatLow), (3, b2n (b.transit ≠ [])), (8, b.swoCount % 256)]), (0x5C, b.vbat)]
/-- Pages that the current records of an area cover (R494). -/
def livePagesOf (s : State) (a : Nat) : Nat := ((currents (searchArea s.ldg s.free a).1).map fun r => recPages r.payload.length).sum
/-- LDG (R494): settings are area 9, counters area 8 (R484). -/
def ldgVal (s : State) (o : Nat) : Nat :=
  let l := s.ldg
  look o
    [(0x00, (ldgStat l).toNat), (0x04, l.pageWrites), (0x08, l.corr), (0x0C, l.bad), (0x10, ldgEvents s),
     (0x14, pack [(0, livePagesOf s 9), (16, livePagesOf s 8)]), (0x18, l.abandoned)]
/-- DCH (R317). -/
def dchVal (s : State) (n o : Nat) : Nat :=
  let d := s.dch[(Fin.ofNat 4 n)]
  if inArray o 0x40 8 3 then
    let r : Fin 3 := Fin.ofNat 3 ((o - 0x40) / 8)
    look (o % 8) [(0, d.ce[r]), (4, d.ue[r])]
  else if inArray o 0x10 4 4 then (if o % 4 = 0 then (d.tim[(Fin.ofNat 4 (o / 4))]).toNat else 0)
  else look o
    [(0x00, dchStat d), (0x04, pack [(0, d.ranks), (2, b2n d.density), (3, b2n d.spareEn), (4, d.spare), (6, b2n d.wcrc), (7, b2n d.dbi),
      (8, d.refMode), (16, d.migRate)]), (0x08, dchRankReg d), (0x0C, dchMigPtr d), (0x20, d.bg0.toNat), (0x24, d.bg1.toNat),
     (0x28, d.ba0.toNat), (0x2C, d.ba1.toNat), (0x60, d.caparRetry), (0x64, d.wcrcRetry), (0x68, d.fwd), (0x6C, d.rawWait), (0x70, d.postMax),
     (0x74, d.dropped), (0x78, d.errs.toNat)]
/-- Existing segments of a class. -/
def segCount (s : State) (f : Seg → Bool) : Nat := (s.ret.segs.filter fun p => f p.2 && decide (p.1 < s.usable)).length
/-- SEG (R106). -/
def segVal (s : State) (o : Nat) : Nat :=
  let m := s.ret.sum
  let e := segCount s fun e => e.cls = .epoch
  let l := segCount s fun e => e.cls = .latest
  let c := segCount s fun e => e.cls = .constant
  look o
    [(0x00, m.installed), (0x04, s.segReserve), (0x08, m.shadow), (0x0C, m.shadowNext), (0x10, s.usable), (0x14, s.usable - e - l - c), (0x18, e),
     (0x1C, l), (0x20, c), (0x24, pslcNeed (gibUp s.retainedSegs)), (0x28, m.pslcHave), (0x2C, pack [(0, b2n m.shadowShort), (1, b2n m.capacityLow)]),
     (0x30, m.constDropped)]
/-- Segments of a context's priority set (R142), and of the global one. -/
def prioCount (s : State) (c : Fin 16) : Nat :=
  ((List.range s.usable).filter fun g =>
    let e := s.seg g
    (e.prio && decide (e.cls = .epoch) && decide (e.owner = c)) || inBankOf s c g).length
def prioGlobal (s : State) : Nat := segCount s fun e => e.prio && (e.cls = .latest || e.cls = .constant)
/-- CTX (R145). -/
def ctxVal (s : State) (o : Nat) : Nat :=
  if o < 0x400 then
    let c : Fin 16 := Fin.ofNat 16 (o / 64)
    let x := s.ctxAt c
    look (o % 64)
      [(0x00, pack [(0, x.mode.code), (3, b2n x.released), (4, x.cause.toNat), (8, x.policy.toNat), (10, b2n (x.deferred.isSome || (s.mir.switchAsked.isSome && x.settled = .running && agingBlocks s c (x.epoch + 1)))),
        (11, b2n (spanning s c)), (12, x.rank.toNat), (16, x.epoch % 256)]), (0x04, lo32 x.epoch), (0x08, hi32 x.epoch), (0x0C, lo32 x.commit),
       (0x10, hi32 x.commit), (0x14, x.minPeriod), (0x18, x.wdog), (0x1C, x.lastPeriod), (0x20, x.closeLat), (0x24, x.closeMax), (0x28, x.rejects),
       (0x2C, x.dropped), (0x30, segCount s fun e => e.cls = .epoch && e.owner = c), (0x34, prioCount s c),
       (0x38, pack [(0, x.bankSeg), (20, x.bankCount)]), (0x3C, s.openLines c)]
  else look o
    [(0x400, prioGlobal s),
     (0x404, pack [(0, maskOf ((List.range 16).filter fun i => (s.ctxAt (fin16 i)).released)),
       (16, maskOf ((List.range 16).filter fun i => (s.ctxAt (fin16 i)).mode = .running))])]
/-- Lines of all contexts in an effective state. -/
def allAccounts (s : State) (e : LState) : Nat := ((List.range 16).map fun i => s.account (fin16 i) e).sum
/-- WEIR (R183). -/
def weirVal (s : State) (o : Nat) : Nat :=
  let w := s.ret.weir
  let c := w.cal
  if inArray o 0x80 4 5 then (if o % 4 = 0 then w.res[(Fin.ofNat 5 ((o - 0x80) / 4))] else 0)
  else if inArray o 0xA0 4 5 then (if o % 4 = 0 then (PClass.all.map s.use).getD ((o - 0xA0) / 4) 0 else 0)
  else if inArray o 0x200 16 16 then
    let i := fin16 ((o - 0x200) / 16)
    look (o % 16) [(0, s.account i .opened), (4, s.account i .openOver), (8, s.account i .committed)]
  else look o
    [(0x00, w.millpond), (0x04, s.count),
     (0x08, pack [(0, w.level.toNat), (3, b2n (softActive s)), (4, b2n (classHeld s .host)), (5, b2n (classHeld s .conf)), (6, b2n (classHeld s .mirror)),
       (7, b2n (classHeld s .scan)), (8, b2n (isDry s)), (9, b2n w.noBank), (10, b2n w.poolLimited), (11, b2n w.debtHigh), (12, b2n w.measDefer),
       (16, fillPermille s.count w.millpond)]),
     (0x0C, w.allow / 2 ^ 20), (0x10, s.largest / 2 ^ 20), (0x14, s.shared), (0x18, s.sharedUsed), (0x1C, sat 16 (s.provisional.length + s.mirHeld)),
     (0x20, allAccounts s .opened + allAccounts s .openOver), (0x24, allAccounts s .committed),
     (0x28, (s.ret.lines.filter fun p => (s.lineSeg p.1).cls = .latest && (s.eff p.1).1 = .dirty).length), (0x2C, (pinnedLines s).length),
     (0x30, w.inCap), (0x34, w.inEsr), (0x38, w.inVbank), (0x3C, w.inPsave), (0x40, w.inRate), (0x44, w.inKesr), (0x60, w.holdMax),
     (0x64, w.holdCount), (0x68, w.mgmtRefused), (0xC0, c.cap), (0xC4, c.esr), (0xC8, c.vfloor), (0xCC, pack [(0, c.eff), (8, c.tfix), (16, c.guardPct)]),
     (0xD0, c.psave), (0xD4, c.rate), (0xE0, w.soft), (0xE4, pack [(0, w.mirLagMax), (8, w.epochWarn)]), (0x100, w.bucket / 2 ^ 20),
     (0x104, pack [(0, w.bktRate), (16, w.bktDepth)]), (0x108, w.debt / 2 ^ 20), (0x10C, w.debtLimit), (0x110, w.cleanRate), (0x114, w.emerg / 2 ^ 20)]
/-- COPY (R146). -/
def copyVal (s : State) (o : Nat) : Nat :=
  let k := s.ret.copy
  look o
    [(0x00, pack [(0, k.batch), (16, k.stallLimit)]), (0x04, s.shadowUsed), (0x08, s.settleList.length), (0x0C, sat 16 (k.queue.length + k.active.length)),
     (0x10, k.stallMax), (0x14, k.cancelled), (0x18, lo32 k.copies.toNat), (0x1C, hi32 k.copies.toNat), (0x20, lo32 k.full.toNat),
     (0x24, hi32 k.full.toNat)]
/-- SLU (R217). -/
def sluVal (s : State) (o : Nat) : Nat :=
  let x := s.slu
  look o
    [(0x00, sluStat s), (0x04, pack [(0, b2n x.mode), (2, x.gpolicy.toNat), (4, b2n x.lostPolicy)]), (0x08, pack [(0, x.trip), (16, x.good)]),
     (0x0C, pack [(0, x.vinFilt), (8, x.pinFilt), (16, x.resumeFilt)]), (0x10, x.vin), (0x14, lo32 s.store.gen), (0x18, hi32 s.store.gen),
     (0x20, sluLast x), (0x24, x.lastRecords), (0x28, x.lastTseal), (0x2C, pack [(0, x.lastVT0), (16, x.lastVSeal)]), (0x30, x.lastRate), (0x34, x.saves),
     (0x40, x.rstDone), (0x44, x.rstTotal), (0x48, if x.everRestored ∧ !x.restoreDone then sat 32 (toUs (s.now - x.rstStart)) else x.rstTime), (0x4C, x.faultCount),
     (0x50, x.faultMax), (0x54, x.faults.length), (0x58, x.dropped)]
/-- SEEP (R256). -/
def seepVal (s : State) (o : Nat) : Nat :=
  let t := s.store
  let gib (n : Nat) : Nat := n / 2 ^ 30
  look o
    [(0x00, pack [(0, b2n t.cleaning), (1, b2n t.emergency), (2, b2n t.merging), (3, b2n t.auditing), (4, b2n (spaceLow s)), (5, b2n t.nextArea.isSome)]),
     (0x04, pack [(0, t.ageMin), (8, t.mergeFrac), (16, t.auditH), (24, t.refreshBits)]), (0x08, pack [(0, t.mergeRate), (16, t.jrnMax)]),
     (0x0C, lo32 t.jseq), (0x10, hi32 t.jseq), (0x14, sat 16 (spanMiB t)), (0x18, sat 16 (freeBytes s / 2 ^ 30)), (0x1C, t.sealed.length),
     (0x20, pack [(0, t.auditProgress), (16, sat 16 ((s.now - t.auditEnd) / (3600000 * cyclesMs)))]), (0x24, t.dramFixed), (0x28, t.refresh),
     (0x2C, t.lost), (0x30, gib t.wrClean), (0x34, gib t.wrSave), (0x38, gib t.wrMerge), (0x3C, gib t.wrOther),
     (0x40, pack [(0, sat 16 (((List.range 16).map (nchMaxErase s)).foldl max 0)), (16, t.ncfg.cycles)])]
/-- RET (R89). -/
def retVal (s : State) (o : Nat) : Nat :=
  if o < 0x1000 then segVal s o else if o < 0x2000 then ctxVal s (o - 0x1000) else if o < 0x3000 then weirVal s (o - 0x2000)
  else if o < 0x4000 then copyVal s (o - 0x3000) else if o < 0x5000 then sluVal s (o - 0x4000) else if o < 0x6000 then seepVal s (o - 0x5000)
  else if o < 0x80000 then 0
  else
    let g := (o - 0x80000) / 4
    if o % 4 = 0 ∧ s.segExists g then (s.seg g).word.toNat else 0
/-- NCH (R255). -/
def nchVal (s : State) (n o : Nat) : Nat :=
  let c := fin16 n
  let x := s.store.ch[c]
  let tp := (x.progs.take 1000).map (·.2)
  look o
    [(0x00, nchStat s c), (0x04, sat 11 ((s.store.ops.filter fun p => p.ch = c).length + (savePages s).countP fun p => ppaChan p = n)), (0x08, pack [(0, sat 16 (meanOf tp)), (16, sat 16 (tp.foldl max 0))]),
     (0x0C, pack [(0, sat 16 (meanOf x.readTimes)), (16, sat 16 (x.readTimes.foldl max 0))]), (0x10, sat 16 (nchRate s c)), (0x14, x.corr),
     (0x18, x.uncorr), (0x1C, x.retry), (0x20, sat 16 (nchBad s n)), (0x24, pack [(0, sat 16 (nchAvgErase s n)), (16, sat 16 (nchMaxErase s n))]),
     (0x28, x.errs.toNat)]
/-- TRIB (R370). -/
def tribVal (s : State) (n : Nat) (o : Nat) : Nat :=
  let i : Fin 12 := Fin.ofNat 12 n
  let t := tribAt s i
  let c := t.cfg
  if inArray o 0x100 4 255 then (if o % 4 = 0 then modWord t ((o - 0x100) / 4) else 0)
  else look o
    [(0x00, pack [(0, b2n (t.link && (isEth t || tribRuns s i))), (1, b2n t.token), (2, b2n (listening s i)), (3, b2n t.rollOpen), (4, b2n (portPanic s (tribPort i))),
      (8, t.startReason), (16, activeCount s i)]),
     (0x04, pack [(0, c.pers.toNat), (2, b2n c.coding), (3, b2n c.ethMode), (4, b2n c.speed100), (5, b2n c.autoAddr), (8, c.phyAddr.toNat), (16, c.missLimit)]),
     (0x08, c.div), (0x0C, c.cycle), (0x10, pack [(0, c.respTo), (16, c.gap), (24, c.latchMax)]), (0x14, pack [(0, c.period), (16, c.slots), (24, c.slotUs)]),
     (0x18, lo32 c.inBase.toNat), (0x1C, hi32 c.inBase.toNat), (0x20, lo32 c.outBase.toNat), (0x24, hi32 c.outBase.toNat),
     (0x28, pack [(0, c.inStride), (8, c.outStride)]), (0x2C, lo32 c.mac.toNat), (0x30, hi32 c.mac.toNat), (0x34, lo32 c.group.toNat),
     (0x38, hi32 c.group.toNat), (0x40, sat 24 t.cycleLast), (0x44, sat 24 t.cycleMax), (0x48, t.framesOk), (0x4C, t.framesBad), (0x50, t.misses),
     (0x54, t.latchExp), (0x58, t.overwrite), (0x5C, sumMods s i ModSt.isLive outLen none), (0x60, t.errs.toNat),
     (0x70, sumAll s ModSt.isIn (fun _ => 1) none), (0x74, sumAll s ModSt.isLive identPoints none), (0x78, sumAll s ModSt.isLive identWords none)]
/-- SEQ (R393). -/
def seqVal (s : State) (o : Nat) : Nat :=
  let i : Fin 12 := Fin.ofNat 12 (o / 0x8000)
  let q := seqAt s i
  let r := o % 0x8000
  if o ≥ 0x60000 ∨ r % 4 ≠ 0 then 0
  else if 0x4000 ≤ r then (imemAt q ((r - 0x4000) / 4)).toNat
  else if 0x2000 ≤ r then (dmemWord q (r - 0x2000)).toNat
  else if inArray r 0x40 4 16 then (wreg q (BitVec.ofNat 4 ((r - 0x40) / 4))).toNat
  else look r
    [(0x00, seqStat s i), (0x04, q.image), (0x08, lo32 q.paramBase.toNat), (0x0C, hi32 q.paramBase.toNat), (0x10, q.paramLen),
     (0x14, pack [(0, q.trap), (16, q.trapPc % 4096)]), (0x18, q.trapWord.toNat), (0x1C, q.trapArg.toNat), (0x20, q.busy), (0x24, q.ignored),
     (0x28, q.rxOverrun), (0x2C, q.id.toNat)]
def LinkSt.code : LinkSt → Nat
  | .down => 0 | .training => 1 | .up => 2
/-- The four registers of a mirror or Confluence port (R413, R436). -/
def portVal (p : LinkPort) (peer o : Nat) : Nat :=
  look o [(0x0, pack [(0, p.link.code), (4, peer), (8, sat 8 p.retrains)]), (0x4, p.replayed), (0x8, pack [(0, p.tx), (16, p.rx)]), (0xC, p.errs.toNat)]
/-- MIR (R413). -/
def mirVal (s : State) (o : Nat) : Nat :=
  let m := s.mir
  if inArray o 0x40 0x20 2 then portVal m.port[(Fin.ofNat 2 (o / 0x20))] 0 (o % 0x20)
  else if inArray o 0x100 4 16 then
    (if o % 4 = 0 then
      let c := (o - 0x100) / 4
      pack [(0, b2n (m.ctxSynced.getLsbD c)), (8, sat 8 (m.unacked.filter fun p => p.due.ctx = c).length)]
     else 0)
  else
    let uid := match m.partner with | some h => h.uid.toNat | none => 0
    look o
      [(0x00, (mirStat s).toNat), (0x04, pack [(0, m.priority), (8, b2n m.pair), (9, b2n m.autoSilent), (16, m.deadMs)]), (0x08, m.resyncRate),
       (0x0C, lo32 m.pseq), (0x10, hi32 m.pseq), (0x14, sat 16 m.unacked.length),
       (0x18, if m.sliceTotal = 0 then 0 else (m.sliceTotal - m.slices.length) * 1000 / m.sliceTotal), (0x1C, m.wrDropped), (0x20, lo32 uid),
       (0x24, hi32 uid), (0x28, m.switches)]
/-- CONF (R436). -/
def confVal (s : State) (o : Nat) : Nat :=
  let k := s.conf
  if inArray o 0x40 0x20 3 then
    let p : Fin 3 := Fin.ofNat 3 ((o - 0x40) / 0x20)
    portVal k.port[p] (slotAt s p) (o % 0x20)
  else if inArray o 0x100 4 16 then
    (if o % 4 = 0 then
      let c := fin16 ((o - 0x100) / 4)
      pack [(0, (otherOwners s c).foldl (fun a j => a ||| 2 ^ j) (b2n (ownsHere s c) * 2 ^ s.slot)), (4, k.prep[c].phase.toNat)]
     else 0)
  else look o
    [(0x00, (confStat s).toNat), (0x04, pack [(0, k.chips), (16, k.formMs)]), (0x08, k.home.toNat), (0x0C, k.dropped), (0x10, sat 16 k.prepMax),
     (0x14, k.rlatMax)]
/-- Planes of the active layouts, numbered in context order (R283). -/
def activePlanes (s : State) : List (Nat × Plane × Bool) :=
  (activeLayouts s).flatMap fun y => y.2.planes.zipIdx.map fun p => (y.1, p.1, match (s.scan.ctx[(fin16 y.1)]).planes[p.2]? with | some k => k.resync | none => false)
def passOf (s : State) (c : Nat) : Bool := (passes s).any fun p => p.ctx.val == c
/-- One context's registers of SCAN. -/
def scanCtxVal (s : State) (i o : Nat) : Nat :=
  let x := s.scan.ctx[(fin16 i)]
  let n := match x.layout with | some y => y.planes.length | none => 0
  look o
    [(0x0, pack [(0, b2n x.layout.isSome), (1, b2n x.suspended), (2, b2n x.rebase), (3, b2n (x.planes.any (·.resync))),
      (4, b2n (match x.swap with | some w => w.epoch.isNone | none => false)), (5, b2n (match x.swap with | some w => w.epoch.isSome | none => false)),
      (6, b2n (passOf s i)), (7, b2n x.warm), (8, n), (16, x.reason)]),
     (0x4, match x.layout with | some y => y.timerCount | none => 0), (0x8, sat 32 x.last), (0xC, pack [(0, x.shelf.1), (20, x.shelf.2)])]
/-- SCAN (R283). -/
def scanVal (s : State) (o : Nat) : Nat :=
  let x := s.scan
  if inArray o 0x100 16 16 then scanCtxVal s ((o - 0x100) / 16) (o % 16)
  else if inArray o 0x400 4 64 then
    (if o % 4 ≠ 0 then 0 else
      match (activePlanes s)[((o - 0x400) / 4)]? with
      | some (c, p, r) => pack [(0, c), (4, 1), (5, b2n r), (8, p.lines)]
      | none => 0)
  else look o
    [(0x00, pack [(0, match x.running with | some p => p.ctx.val | none => 0), (4, b2n x.running.isSome), (8, x.queue.length)]),
     (0x04, pack [(0, x.timerEn.toNat), (16, x.edgeEn.toNat)]), (0x08, lo32 s.tick), (0x0C, hi32 s.tick), (0x10, scanCells s), (0x14, scanPlanes s),
     (0x18, sat 32 x.passMax), (0x1C, sat 32 x.waitMax), (0x20, x.overruns), (0x24, x.poisonSkips)]
/-- What the register at an offset holds, aliases apart. -/
def regVal (who : Requester) (off : Nat) (s : State) : Nat :=
  let o := off % 0x10000
  match off / 0x10000 with
  | 0x00 => glbVal s o | 0x01 => mbxVal s o | 0x02 => ctxdVal s o | 0x03 => evtVal s o | 0x04 => fabVal s o | 0x05 => errVal s o
  | 0x06 => pwrVal s o | 0x07 => bkdVal who s o | 0x08 => ldgVal s o
  | 0x10 => if o < 0x4000 then dchVal s (o / 0x1000) (o % 0x1000) else 0
  | 0x30 => nchVal s (o / 0x1000) (o % 0x1000)
  | 0x40 => if o < 0xC000 then tribVal s (o / 0x1000) (o % 0x1000) else 0
  | 0x60 => mirVal s o | 0x68 => confVal s o | 0x70 => scanVal s o
  | b => if 0x20 ≤ b ∧ b < 0x30 then retVal s (off - 0x200000) else if 0x50 ≤ b ∧ b < 0x58 then seqVal s (off - 0x500000) else 0
/-! ## Halves (R14) -/
/-- Offsets of `_LO` registers; each `_HI` stands 4 bytes on. Backup-domain registers follow their own rule. -/
def isLo (off : Nat) : Bool :=
  [0x20, 0x28, 0x44, 0x203018, 0x203020, 0x204014, 0x20500C, 0x700008, 0x50014, 0x50024, 0x60000C, 0x600020].contains off
    || (inArray off 0x1000 32 64 && off % 32 == 0) || (inArray off 0x20000 64 16 && off % 64 == 8)
    || (inArray off 0x201000 64 16 && (off % 64 == 0x04 || off % 64 == 0x0C))
    || (inArray off 0x400000 0x1000 12 && [0x18, 0x20, 0x2C, 0x34].contains (off % 0x1000))
    || (inArray off 0x500000 0x8000 12 && off % 0x8000 == 0x08)
/-! ## Registers that a read clears (R8, R11) -/
def clearDch (n o : Nat) (s : State) : State :=
  let c : Fin 4 := Fin.ofNat 4 n
  if inArray o 0x40 8 3 then
    let r : Fin 3 := Fin.ofNat 3 ((o - 0x40) / 8)
    if o % 8 = 0 then onDch s c fun d => { d with ce := d.ce.set r 0 }
    else if o % 8 = 4 then onDch s c fun d => { d with ue := d.ue.set r 0 } else s
  else onDch s c fun d =>
    match o with
    | 0x60 => { d with caparRetry := 0 } | 0x64 => { d with wcrcRetry := 0 } | 0x68 => { d with fwd := 0 } | 0x6C => { d with rawWait := 0 }
    | 0x70 => { d with postMax := 0 } | 0x74 => { d with dropped := 0 } | _ => d
def clearNch (n o : Nat) (s : State) : State :=
  onNch s (fin16 n) fun x =>
    match o with
    | 0x14 => { x with corr := 0 } | 0x18 => { x with uncorr := 0 } | 0x1C => { x with retry := 0 } | _ => x
def clearTrib (n o : Nat) (s : State) : State :=
  onTrib s (Fin.ofNat 12 n) fun t =>
    match o with
    | 0x44 => { t with cycleMax := 0 } | 0x48 => { t with framesOk := 0 } | 0x4C => { t with framesBad := 0 } | 0x50 => { t with misses := 0 }
    | 0x54 => { t with latchExp := 0 } | 0x58 => { t with overwrite := 0 } | _ => t
def clearPort (l : LinkId) (o : Nat) (s : State) : State := if o = 4 then onLink s l fun p => { p with replayed := 0 } else s
def clearErr (o : Nat) (s : State) : State :=
  if inArray o 0x100 4 37 then
    (if o % 4 = 0 then onBucket s (Fin.ofNat 37 ((o - 0x100) / 4)) fun b => { b with peak := 0 } else s)
  else
    let e := s.err
    { s with err := match o with
      | 0x04 => { e with made := 0 } | 0x08 => { e with used := 0 } | 0x0C => { e with cleared := 0 } | 0x30 => { e with metaLost := 0 }
      | 0x34 => { e with repaired := 0 } | 0x38 => { e with sramCe := 0 } | 0x3C => { e with sramUe := 0 } | _ => e }
def clearRet (o : Nat) (s : State) : State :=
  if o = 0x30 then onRet s fun r => { r with sum := { r.sum with constDropped := 0 } }
  else if inArray o 0x1000 64 16 then
    s.onCtx (fin16 ((o - 0x1000) / 64)) fun x =>
      match o % 64 with
      | 0x24 => { x with closeMax := 0 } | 0x28 => { x with rejects := 0 } | 0x2C => { x with dropped := 0 } | _ => x
  else match o with
    | 0x2060 => s.onWeir fun w => { w with holdMax := 0 }
    | 0x2064 => s.onWeir fun w => { w with holdCount := 0 }
    | 0x2068 => s.onWeir fun w => { w with mgmtRefused := 0 }
    | 0x3010 => s.onCopy fun k => { k with stallMax := 0 }
    | 0x3014 => s.onCopy fun k => { k with cancelled := 0 }
    | 0x404C => onSlu s fun x => { x with faultCount := 0 }
    | 0x4050 => onSlu s fun x => { x with faultMax := 0 }
    | 0x4058 => onSlu s fun x => { x with dropped := 0 }
    | 0x5024 => onStore s fun t => { t with dramFixed := 0 }
    | 0x5028 => onStore s fun t => { t with refresh := 0 }
    | 0x502C => onStore s fun t => { t with lost := 0 }
    | _ => s
/-- The register at an offset after a read of it: RC fields are cleared. -/
def clearRc (off : Nat) (s : State) : State :=
  let o := off % 0x10000
  match off / 0x10000 with
  | 0x00 => { s with glb := match o with | 0x30 => { s.glb with authRefused := 0 } | 0x50 => { s.glb with trapCount := 0 } | _ => s.glb }
  | 0x01 => if o < 0x400 ∧ o % 0x100 = 0x14 then onMq s (Fin.ofNat 4 (o / 0x100)) fun m => { m with eqLost := 0 } else s
  | 0x04 =>
    if o = 0x10 then onFab s fun f => { f with panicCount := 0 }
    else if inArray o 0x100 8 23 ∧ o % 8 = 4 then
      onFab s fun f => { f with port := vmod f.port (Fin.ofNat 23 ((o - 0x100) / 8)) fun p => { p with lat := 0 } }
    else s
  | 0x05 => clearErr o s
  | 0x06 =>
    if inArray o 0x100 32 16 then
      onRail s (fin16 ((o - 0x100) / 32)) fun x =>
        match o % 32 with | 0x18 => { x with minMv := 0, maxMv := 0 } | 0x1C => { x with glitch := 0 } | _ => x
    else s
  | 0x08 =>
    { s with ldg := match o with
      | 0x04 => { s.ldg with pageWrites := 0 } | 0x08 => { s.ldg with corr := 0 } | 0x0C => { s.ldg with bad := 0 }
      | 0x18 => { s.ldg with abandoned := 0 } | _ => s.ldg }
  | 0x10 => if o < 0x4000 then clearDch (o / 0x1000) (o % 0x1000) s else s
  | 0x20 => clearRet o s
  | 0x30 => clearNch (o / 0x1000) (o % 0x1000) s
  | 0x40 => if o < 0xC000 then clearTrib (o / 0x1000) (o % 0x1000) s else s
  | 0x60 =>
    if o = 0x1C then onMir s fun m => { m with wrDropped := 0 }
    else if inArray o 0x40 0x20 2 then clearPort (.mir (Fin.ofNat 2 (o / 0x20))) (o % 0x20) s else s
  | 0x68 =>
    if inArray o 0x40 0x20 3 then clearPort (.conf (Fin.ofNat 3 ((o - 0x40) / 0x20))) (o % 0x20) s
    else onConf s fun k =>
      match o with | 0x0C => { k with dropped := 0 } | 0x10 => { k with prepMax := 0 } | 0x14 => { k with rlatMax := 0 } | _ => k
  | 0x70 =>
    onScan s fun x =>
      match o with
      | 0x18 => { x with passMax := 0 } | 0x1C => { x with waitMax := 0 } | 0x20 => { x with overruns := 0 } | 0x24 => { x with poisonSkips := 0 } | _ => x
  | b =>
    if 0x50 ≤ b ∧ b < 0x56 then
      onSeqr s (Fin.ofNat 12 ((off - 0x500000) / 0x8000)) fun q =>
        match off % 0x8000 with | 0x24 => { q with ignored := 0 } | 0x28 => { q with rxOverrun := 0 } | _ => q
    else s
/-! ## Reads -/
def latchOf (s : State) (who : Requester) (off : Nat) : Option Word :=
  (s.glb.latches.find? fun l => l.1 = who ∧ l.2.1 = off).map (·.2.2)
def dropLatch (who : Requester) (off : Nat) (s : State) : State :=
  { s with glb := { s.glb with latches := s.glb.latches.filter fun l => !(l.1 = who ∧ l.2.1 = off) } }
/-- A read of `_LO` latches the matching `_HI` for its requester. -/
def setLatch (who : Requester) (off : Nat) (v : Word) (s : State) : State :=
  let s1 := dropLatch who off s
  { s1 with glb := { s1.glb with latches := (who, off, v) :: s1.glb.latches } }
/-- `RTC_SEC` is read: the copy is latched whole for the requester (R474). -/
def latchTime (who : Requester) (s : State) : State :=
  { s with bkd := { s.bkd with snap := s.bkd.snap.set (Requester.idx who) s.bkd.copy } }
/-- One read of one register of its own block: what it returns, and what it leaves. -/
def readOne (who : Requester) (off : Nat) (s : State) : Word × State :=
  let v := BitVec.ofNat 32 (regVal who off s)
  if off = 0x70000 then (v, latchTime who s)
  else if isLo off then (v, setLatch who (off + 4) (BitVec.ofNat 32 (regVal who (off + 4) s)) s)
  else match latchOf s who off with
    | some w => (w, dropLatch who off s)
    | none => (v, clearRc off s)
/-- The members of the alias an offset lies in, as the offsets of their own registers (R36, R37). -/
def aliasOf (s : State) (off : Nat) : Option (List Nat) :=
  let r := off % 0x1000
  let members (base : Nat) (ns : List Nat) : Option (List Nat) := some (ns.map fun n => base + 0x1000 * n + r)
  let group (cc : LClass) (base g : Nat) : Option (List Nat) :=
    if g < 4 then members base ((groupOf cc g).filter (s.installed cc)) else if g = 15 then members base (s.instances cc) else none
  if off / 0x1000 = 0x10F then members 0x100000 (List.range 4)
  else if off / 0x10000 = 0x31 then group .nst 0x300000 (off / 0x1000 % 16)
  else if off / 0x10000 = 0x41 then group .trib 0x400000 (off / 0x1000 % 16)
  else none
/-- A read through an alias: the lowest member's value; a difference is recorded (R37). -/
def aliasRead_ (who : Requester) (off : Nat) (ms : List Nat) (s : State) : Word × State :=
  match ms with
  | [] => (0, s)
  | m :: rest =>
    let (v, s1) := readOne who m s
    if rest.any fun k => regVal who k s ≠ regVal who m s then
      (v, { s1 with glb := { s1.glb with aliasDiff := true, aliasOff := BitVec.ofNat 20 (off / 16) } })
    else (v, s1)
/-- A read at a BAR0 offset. While `GLB_FIL` is zero the host finds only GLB (R504). -/
def readReg (who : Requester) (off : Nat) (s : State) : Word × State :=
  if who = .host ∧ s.glb.fil = 0 ∧ off ≥ 0x10000 then (0, s)
  else match aliasOf s off with
    | some ms => aliasRead_ who off ms s
    | none => readOne who off s
/-- Who may read now: the host, while the core runs; firmware; and the service port holding MAINTAIN (R9, R72). -/
def mayRead (s : State) (who : Requester) : Bool :=
  s.boot.coreOut && (match who with | .host => true | .firmware => true | .service => mayWrite s .service)
def regRead (who : Requester) (off : Nat) (s : State) : State :=
  if !mayRead s who then s
  else let r := readReg who off s
    r.2.emit (.reg who r.1)
/-- A read by the host waits behind what is held of its stream (R102, R165). -/
def readRow (who : Requester) (off : Nat) (s : State) : State :=
  match who with
  | .host => inStream (.regRead off) (regRead .host off) s
  | w => regRead w off s
/-- `RC_READ`. -/
def rcRead (who : Requester) (off : BitVec 24) (s : State) : State := readRow who off.toNat s
def execRcRead (who : Requester) (off : BitVec 24) (s : State) : Host.Outcome State Fault Refusal := .next (rcRead who off s)
/-- `LO_HALF_READ`. -/
def loHalfRead (who : Requester) (off : BitVec 24) (s : State) : State := readRow who off.toNat s
def execLoHalfRead (who : Requester) (off : BitVec 24) (s : State) : Host.Outcome State Fault Refusal := .next (loHalfRead who off s)
/-- `ALIAS_READ`. -/
def aliasRead (who : Requester) (off : BitVec 24) (s : State) : State := readRow who off.toNat s
def execAliasRead (who : Requester) (off : BitVec 24) (s : State) : Host.Outcome State Fault Refusal := .next (aliasRead who off s)
/-- `RTC_SEC_READ`. -/
def rtcSecRead (who : Requester) (s : State) : State := readRow who 0x70000 s
def execRtcSecRead (who : Requester) (s : State) : Host.Outcome State Fault Refusal := .next (rtcSecRead who s)
/-! ## Writes -/
/-- The bits of `x` that a write of ones leaves (R8). -/
def w1c {n : Nat} (x : BitVec n) (v : Word) (lo : Nat) : BitVec n := x &&& ~~~(BitVec.ofNat n (v.toNat >>> lo))
/-- Fields marked W1C, backup domain apart. -/
def clearW1c (off : Nat) (v : Word) (s : State) : State :=
  let o := off % 0x10000
  match off / 0x10000 with
  | 0x00 =>
    (match o with
     | 0x18 => { s with glb := { s.glb with aliasDiff := s.glb.aliasDiff && !v.getLsbD 0 } }
     | 0x40 => { s with glb := { s.glb with trapValid := s.glb.trapValid && !v.getLsbD 0 } }
     | _ => s)
  | 0x01 =>
    if o < 0x400 ∧ o % 0x100 = 0x10 then
      onMq s (Fin.ofNat 4 (o / 0x100)) fun m =>
        { m with dbRange := m.dbRange && !v.getLsbD 0, dmaFail := m.dmaFail && !v.getLsbD 1, eqOver := m.eqOver && !v.getLsbD 2 }
    else s
  | 0x05 =>
    { s with err := match o with
      | 0x00 => { s.err with summary := w1c s.err.summary v 0 }
      | 0x10 => { s.err with madeValid := s.err.madeValid && !v.getLsbD 0 }
      | 0x20 => { s.err with usedValid := s.err.usedValid && !v.getLsbD 0 }
      | _ => s.err }
  | 0x06 => if o = 0x04 then onPwr s fun p => { p with fault := w1c p.fault v 0 } else s
  | 0x08 =>
    if o = 0x00 then { s with ldg := { s.ldg with conflict := s.ldg.conflict && !v.getLsbD 1, writeFail := s.ldg.writeFail && !v.getLsbD 3 } }
    else s
  | 0x10 => if o < 0x4000 ∧ o % 0x1000 = 0x78 then onDch s (Fin.ofNat 4 (o / 0x1000)) fun d => { d with errs := w1c d.errs v 0 } else s
  | 0x30 => if o % 0x1000 = 0x28 then onNch s (fin16 (o / 0x1000)) fun x => { x with errs := w1c x.errs v 0 } else s
  | 0x40 => if o < 0xC000 ∧ o % 0x1000 = 0x60 then onTrib s (Fin.ofNat 12 (o / 0x1000)) fun t => { t with errs := w1c t.errs v 0 } else s
  | 0x60 =>
    if inArray o 0x40 0x20 2 ∧ o % 0x20 = 0xC then onLink s (.mir (Fin.ofNat 2 (o / 0x20))) fun p => { p with errs := w1c p.errs v 0 } else s
  | 0x68 =>
    if inArray o 0x40 0x20 3 ∧ o % 0x20 = 0xC then onLink s (.conf (Fin.ofNat 3 ((o - 0x40) / 0x20))) fun p => { p with errs := w1c p.errs v 0 } else s
  | _ => s
/-- Backup-domain writes: W1C bits by anyone, the other fields by firmware and the service port (R9, R473). -/
def bkdWrite (who : Requester) (o : Nat) (v : Word) (s : State) : State :=
  let clears : Word := if o = 0x20 then 0x1A else if o = 0x48 then 0x400 else if o = 0x58 then 1 else 0
  let s1 := if v &&& clears = 0 then s else send (.w1c o v) s
  if !mayWrite s who then s1
  else if o ≤ 0x18 ∧ o % 4 = 0 then send (.field o v) s1
  else if o = 0x20 then send (.halt (v.getLsbD 0)) s1
  else if 0x30 ≤ o ∧ o ≤ 0x44 ∧ o % 4 = 0 then send (.alarm o v) s1
  else if o = 0x48 then send (.alarmCtrl (v.extractLsb' 0 6) (v.getLsbD 8) (v.getLsbD 11)) s1
  else s1
/-- Firmware and MAINTAIN write the memories of a sequencer that is STOPPED (R393). -/
def seqMemWrite (who : Requester) (off : Nat) (v : Word) (s : State) : State :=
  let n : Fin 12 := Fin.ofNat 12 (off / 0x8000)
  let r := off % 0x8000
  if !mayWrite s who ∨ off ≥ 0x60000 ∨ r % 4 ≠ 0 ∨ s.lifeOf .seq n ≠ .stopped then s
  else if 0x4000 ≤ r then onSeqr s n fun q => { q with imem := mset 0 q.imem ((r - 0x4000) / 4) v }
  else if 0x2000 ≤ r then onSeqr s n fun q => { q with dmem := mputs 0 q.dmem (r - 0x2000) (leBytes 4 v.toNat) }
  else s
/-- A write to one register: a doorbell, a memory of a sequencer, the MSI-X table, the backup domain, or W1C bits; anything else is ignored (R8, R9,
R12). -/
def writeOne (who : Requester) (off : Nat) (v : Word) (s : State) : State :=
  let o := off % 0x10000
  if off / 0x10000 = 0x07 then bkdWrite who o v s
  else if 0x500000 ≤ off ∧ off < 0x560000 then seqMemWrite who (off - 0x500000) v s
  else if off / 0x10000 = 0x03 then (if o < 0x400 ∧ o % 4 = 0 then msixTableWrite (BitVec.ofNat 10 o) v s else s)
  else if off / 0x10000 = 0x02 then (if o < 0x400 ∧ o % 64 = 0 then ringAll [(fin16 (o / 64), v)] s else s)
  else if off = 0x10800 then mbxBootAddrLo v s
  else if off = 0x10804 then mbxBootAddrHi v s
  else if off / 0x10000 = 0x01 ∧ o < 0x400 ∧ o % 0x100 < 0xC then
    let q : Fin 4 := Fin.ofNat 4 (o / 0x100)
    match o % 0x100 with
    | 0x0 => mqSqTail q v s | 0x4 => mqCqHead q v s | 0x8 => mqEqHead q v s | _ => s
  else clearW1c off v s
/-- A write at a BAR0 offset; through an alias it reaches every member (R37). -/
def writeReg (who : Requester) (off : Nat) (v : Word) (s : State) : State :=
  match aliasOf s off with
  | some ms => ms.foldl (fun s m => writeOne who m v s) s
  | none => writeOne who off v s
/-- Writes reach the device while the core runs: the host's only once `GLB_FIL` is set (R504). -/
def regWrite (who : Requester) (off : Nat) (v : Word) (s : State) : State :=
  if !s.boot.coreOut then s
  else match who with
    | .host => if deaf s then s else writeReg .host off v s
    | w => if mayWrite s w then writeReg w off v s else s
/-- `REGISTER_WRITE`. -/
def registerWrite (who : RegWriter) (off : BitVec 24) (v : Word) (s : State) : State :=
  match who with
  -- a poisoned write TLP to BAR0 is dropped and logged; a doorbell in it has no effect (R328)
  | .host true => if s.boot.coreOut then gotPoison s else s
  | .host false => inStream (.reg off.toNat v) (regWrite .host off.toNat v) s
  | .firmware => regWrite .firmware off.toNat v s
  | .service => regWrite .service off.toNat v s
def execRegisterWrite (who : RegWriter) (off : BitVec 24) (v : Word) (s : State) : Host.Outcome State Fault Refusal :=
  .next (registerWrite who off v s)
end Sys2Proof.Machine
end

