-- ==== Sys2Proof/Machine/Stream.lean ====
section
/-! DEFINITION. What arrives from outside (chapters 02, 03 and 05): descriptors fetched, service frames, context doorbells, BAR2
accesses through the windows, and the weir's admission of the writes that wait. -/
namespace Sys2Proof.Machine
/-! ## The opcodes of FIL 3.2 -/
def hostInfos : List CmdInfo :=
  [glbIdentifyInfo, glbDeviceResetInfo, authNarrowInfo, authPolicyWriteInfo, svcBaudInfo, winSetInfo, winQueryInfo, mbxQueueCreateInfo,
   mbxQueueDeleteInfo, mbxEventMaskInfo]
def memoryInfos : List CmdInfo :=
  [segQueryInfo, segSetClassInfo, segSetFlagsInfo, segLoadBeginInfo, segLoadInfo, segSealInfo, segShadowSetInfo, ctxQueryInfo, ctxConfigInfo,
   ctxStartInfo, ctxCloseInfo, ctxPauseInfo, ctxResumeInfo, ctxAbandonInfo, ctxStopInfo, ctxLineQueryInfo, ctxSwapInfo, copyConfigInfo,
   weirQueryInfo, weirConfigInfo, weirCalibrateInfo, weirDebtClearInfo]
def storeInfos : List CmdInfo :=
  [sluQueryInfo, sluConfigInfo, sluDetectSetInfo, sluSaveTestInfo, sluShutdownInfo, sluPrefetchInfo, nstQueryInfo, nstEvacuateInfo,
   nstFormatInfo, seepConfigInfo, seepAuditStartInfo, scanConfigInfo, scanQueryInfo, scanLayoutCheckInfo]
def chipInfos : List CmdInfo :=
  [dchQueryInfo, dchConfigInfo, dchPopSetInfo, dchMapSetInfo, dchRankRetireInfo, fabPortSetInfo, fabQueryInfo, errQueryInfo, errConfigInfo,
   errInjectInfo, errBktResetInfo, tribConfigInfo, tribModSetInfo, tribModEnableInfo, tribRollcallInfo, tribModQueryInfo, tribMdioInfo,
   seqConfigInfo, seqQueryInfo, mirConfigInfo, mirQueryInfo, mirSwitchInfo, mirResyncInfo, confQueryInfo, confConfigInfo]
def baseInfos : List CmdInfo :=
  [pwrQueryInfo, pwrRailQueryInfo, pwrTableWriteInfo, pwrTableReadInfo, pwrGroupInfo, pwrLatchClearInfo, pwrHubMeasureInfo, pwrCycleInfo,
   bkdTimeGetInfo, bkdTimeSetInfo, bkdAlarmSetInfo, bkdAlarmAckInfo, bkdSwoClearInfo, ldgQueryInfo, ldgTagWriteInfo, ldgTagReadInfo,
   ldgEventReadInfo, ldgUserAppendInfo, ldgUserReadInfo, ldgRawReadInfo, ldgRawWriteInfo, bootLoadInfo, bootRunInfo, bootFwUpdateInfo,
   bootFwQueryInfo, bootKeyRevokeInfo, bootResetInfo, bootConfChipsInfo]
def lifeInfos : List CmdInfo :=
  LClass.all.flatMap fun cc =>
    [unitQueryInfo cc, unitPowerUpInfo cc, unitStartInfo cc, stopInfo cc, unitClearFaultInfo cc, unitPowerDownInfo cc]
def allInfos : List CmdInfo := hostInfos ++ memoryInfos ++ storeInfos ++ chipInfos ++ baseInfos ++ lifeInfos
/-- What the tables say of an opcode; none where FIL 3.2 does not define it. -/
def infoOf (op : Nat) : Option CmdInfo := allInfos.find? (·.op = op)
/-! ## Descriptors (R41, R44, R47, R51, R57) -/
/-- A descriptor as its 64 bytes spell it, the first byte in bits [7:0]. -/
def rawDesc (port : Fin 12) (sqi : BitVec 16) (raw : BitVec 512) : Desc :=
  ⟨port, sqi, raw.extractLsb' 16 16, raw.extractLsb' 32 8, raw.extractLsb' 40 8, raw.extractLsb' 48 16, raw.extractLsb' 64 32,
   raw.extractLsb' 96 32, raw.extractLsb' 128 384⟩
def opcodeOf (raw : BitVec 512) : Nat := bits raw 0 16
/-- Steps 1 to 3 of R57: the command is accepted, or completes with the status of the check that fails. -/
def takeDesc (d : Desc) (op : Nat) (inl : List Byte) (s : State) : State :=
  match infoOf op with
  | none => recordRefused op d St.badParam s
  | some i => match firstRefusal i d s with
    | some st => recordRefused op d st s
    | none => accept i d inl s
/-- The device fetches for a mailbox: descriptors are pending (R44), fewer than 256 commands are outstanding, and firmware
runs; none while `PFAIL#` is driven (R41, R68, R504). -/
def mayFetch (s : State) (q : Fin 4) : Bool :=
  let m := s.host.mq[q]
  s.boot.coreOut && s.glb.fil != 0 && !s.slu.pfail && decide (m.state = .active) && decide (m.fetch ≠ m.tail) && decide (outstanding m < 256)
/-- `DESCRIPTOR_FETCH`: the next descriptor in ring order. The command's own row then gives its effect. -/
def descriptorFetch (q : Fin 4) (raw : BitVec 512) (s : State) : State :=
  if !mayFetch s q then s
  else
    let f := s.host.mq[q].fetch
    let s1 := onMq s q fun m => { m with fetch := (f + 1) % 2 ^ m.sqLog2 }
    takeDesc (rawDesc ⟨q.val, by omega⟩ (BitVec.ofNat 16 f) raw) (opcodeOf raw) [] s1
def execDescriptorFetch (mq : Fin 4) (raw : BitVec 512) (s : State) : Host.Outcome State Fault Refusal := .next (descriptorFetch mq raw s)
/-! ## Service frames (R71, R72) -/
/-- The reason a whole frame is refused, if any, in the order of R72; the type, the payload length, and what the payload
names decide. -/
def payloadFits (type len : Nat) : Bool :=
  (type == 1 && decide (64 ≤ len) && decide (len ≤ 4160)) || (type == 4 && len == 4) || (type == 5 && len == 8)
/-- A frame that whoever answers now serves: the boot ROM (R502), or firmware, with MAINTAIN for a register frame. -/
def svcServed (s : State) (type op : Nat) : Bool :=
  if latchedOff s then true
  else if s.glb.fil = 0 then romServes s && s.host.svc.en && type == 1 && (op == 0x0130 || op == 0x1210 || op == 0x1211)
  else type == 1 || s.holds 5 auMaintain
def svcRefusal (s : State) (f : List Byte) : Option Nat :=
  let type := field f 1 1
  let len := field f 2 2
  let op := field f 4 2
  if f.head? ≠ some 0xA5 then some 7
  else if len > 4160 then some 2
  else if f.length < 6 + len then some 1
  else if field f (4 + len) 2 ≠ (crc16 ((f.drop 1).take (3 + len))).toNat then some 3
  else if type ≠ 1 ∧ type ≠ 4 ∧ type ≠ 5 then some 8
  else if !payloadFits type len then some 2
  else if latchedOff s ∧ !(type = 1 ∧ (op = 0x0F10 ∨ op = 0x0F15)) then some 6
  else if !svcServed s type op then some 5
  else if type = 1 ∧ (cmdsOf s 5).length ≥ 16 then some 4
  else none
/-- A frame that passes: a command is taken, a register read answered, a register written. While a save runs nothing is
served (R68). -/
def svcTake (f : List Byte) (s : State) : State :=
  let off := field f 4 4
  if s.glb.state = 3 ∧ !latchedOff s then s
  else if field f 1 1 = 1 then
    let raw := BitVec.ofNat 512 (field f 4 64)
    takeDesc (rawDesc 5 0 raw) (opcodeOf raw) ((f.drop 68).take (field f 2 2 - 64)) s
  else if field f 1 1 = 4 then
    let r := readReg .service off s
    r.2.emit (.svc (svcFrame 0x06 (leBytes 4 off ++ leBytes 4 r.1.toNat)))
  else regWrite .service off (BitVec.ofNat 32 (field f 8 4)) s
/-- `SVC_FRAME`. -/
def svcFrame_ (f : List Byte) (s : State) : State :=
  if !svcAlive s then s
  else match svcRefusal s f with
    | some r => svcError r s
    | none => svcTake f s
def execSvcFrame (frame : List Byte) (s : State) : Host.Outcome State Fault Refusal := .next (svcFrame_ frame s)
/-! ## Context doorbells (R134, R136) -/
/-- Doorbells reach the contexts while firmware runs; writes are ignored before (R504). -/
def ringDoorbells (ws : List (Fin 16 × Word)) (s : State) : State := if deaf s then s else ringAll ws s
/-- `CTXD_CLOSE`: the doorbells of one write TLP. -/
def ctxdClose (ws : List (Fin 16 × Word)) (s : State) : State := inStream (.doorbell ws) (ringDoorbells ws) s
def execCtxdClose (ws : List (Fin 16 × Word)) (s : State) : Host.Outcome State Fault Refusal := .next (ctxdClose ws s)
/-! ## Windows (R99–R101) -/
/-- A member slot whose link is UP or TRAINING (R421); this chip's own memory is reached where the segment exists. -/
def isReachable (s : State) (a : Nat) : Bool :=
  let j := a / 2 ^ 38
  if j = s.slot then s.here a
  else decide (j < 4) && s.conf.members.getLsbD j && !s.conf.lost.getLsbD j && decide ((linkOf s (portTo s j)).link ≠ .down)
/-- The segment entry of an address (R100). One chip does not hold the entries of another chip's segments: of a remote one the
entry is a free value (log entry 152). -/
def entryAt (s : State) (a : Nat) : Seg :=
  if a / 2 ^ 38 = s.slot then s.lineSeg (lineOf (localOf a)) else Seg.ofWord ((Config.fresh s.free).extractLsb' 0 32) 0
/-- The first check of R100 that fails. -/
def windowBad (s : State) (off : BitVec 36) (write : Bool) : Option Nat :=
  let d := windowAt s off
  let a := windowAddr s off
  let e := entryAt s a
  if s.glb.fil = 0 ∨ d.access = 0 then some 1
  else if off.toNat % 2 ^ 30 ≥ d.len then some 2
  else if !d.classes.getLsbD e.cls.code then some 3
  else if write && decide (d.access = 1) then some 4
  else if write && decide (e.cls = .constant) then some 5
  else if write && decide (e.cls = .epoch) && !d.ctxMask.getLsbD e.owner.val then some 6
  else if !isReachable s a then some 7
  else none
/-- A trapped access is recorded where no record stands, counted, and reported once per slot per 1 ms (R101). -/
def windowTrap (r : Nat) (write : Bool) (off : BitVec 36) (req : BitVec 16) (s : State) : State :=
  let slot := off.toNat / 2 ^ 30
  let g := s.glb
  let g1 := if g.trapValid then g
    else { g with trapValid := true, trapReason := BitVec.ofNat 3 r, trapWrite := write, trapSlot := BitVec.ofNat 6 slot, trapAddr := off, trapReq := req }
  let s1 : State := { s with glb := { g1 with trapCount := sat 32 (g.trapCount + 1) } }
  s1.raiseLim 0x0110 slot 0 [(16, off.toNat), (24, slot), (25, r), (26, b2n write), (28, req.toNat)]
/-! ## BAR2 (R100, R105, R328, R408, R421–R424) -/
/-- The runs of enabled bytes of a write: a WR frame carries no byte enables (R417). -/
def byteRuns : Nat → List WByte → List (Nat × List Byte)
  | _, [] => []
  | a, none :: t => byteRuns (a + 1) t
  | a, some b :: t =>
    match byteRuns (a + 1) t with
    | (k, bs) :: rs => if k = a + 1 then (a, b :: bs) :: rs else (a, [b]) :: (k, bs) :: rs
    | [] => [(a, [b])]
/-- A run cut at 1 KiB-aligned addresses (R422). -/
def cutKib (addr : Nat) (bytes : List Byte) : List (Nat × List Byte) :=
  (List.range ((addr % 1024 + bytes.length + 1023) / 1024)).map fun i =>
    let a := max addr ((addr / 1024 + i) * 1024)
    let stop := min (addr + bytes.length) ((addr / 1024 + i + 1) * 1024)
    (a, (bytes.drop (a - addr)).take (stop - a))
/-- A poisoned TLP poisons what it writes from source 3 of R327 (R328). -/
def tlpPoison (poison : Bool) : Option Nat := if poison then some 3 else none
/-- A write to another chip's slot goes as WR frames on the link to it (R422). -/
def sendWrites (a : Nat) (bytes : List WByte) (poison mgmt : Bool) (s : State) : State :=
  ((byteRuns a bytes).flatMap fun r => cutKib r.1 r.2).foldl (fun s p => sendOn (portTo s (a / 2 ^ 38)) (.wr p.1 p.2 poison mgmt) s) s
/-- A BAR2 write presented for acceptance: translated and checked by what is in force now, then trapped, forwarded, dropped,
taken or held (R92, R98, R100, R105, R150). -/
def bar2Offer (off : BitVec 36) (req : BitVec 16) (bytes : List WByte) (poison : Bool) (s0 : State) : Taken :=
  let s : State := { s0 with free := s0.free + 1 }
  match windowBad s0 off true with
  | some r => .dropped (windowTrap r true off req s)
  | none =>
    let a := windowAddr s off
    if a / 2 ^ 38 ≠ s.slot then
      (if linkFull s (a / 2 ^ 38) then .held false
       else .accepted (sendWrites a bytes poison false s))
    else if standbyDrops s (lineOf (localOf a)) then .dropped (countDropped s)
    else takeWrite 0 (localOf a) bytes (tlpPoison poison) false s
/-- A BAR2 write as it is taken from the host stream; one that is not taken waits at FP0. -/
def bar2WriteNow (off : BitVec 36) (req : BitVec 16) (bytes : List WByte) (poison : Bool) (s : State) : State :=
  match bar2Offer off req bytes poison s with
  | .accepted s' => s'
  | .dropped s' => s'
  | .held weir => holdWrite ⟨0, localOf (windowAddr s off), bytes, tlpPoison poison, s.now, s.ret.order, none, some (off, req)⟩ weir s
/-- `BAR2_WRITE`. -/
def bar2Write (off : BitVec 36) (req : BitVec 16) (bytes : List WByte) (poison : Bool) (s : State) : State :=
  if !s.boot.coreOut then s
  else inStream (.write off req bytes poison) (fun s => settleWeir (bar2WriteNow off req bytes poison s)) (if poison then gotPoison s else s)
def execBar2Write (off : BitVec 36) (req : BitVec 16) (bytes : List WByte) (poison : Bool) (s : State) : Host.Outcome State Fault Refusal :=
  .next (bar2Write off req bytes poison s)
/-- A remote read: one request for its lines (R424). -/
def remoteRead (a len : Nat) (who : Reader) (s : State) : State :=
  let j := a / 2 ^ 38
  let l := localOf a
  let t := s.conf.nextTag % 2 ^ 16
  sendOn (portTo s j) (.rdReq t (linesFrom l len).length (a / 256 * 256))
    (onConf s fun k => { k with nextTag := t + 1, reads := k.reads ++ [⟨t, j, l, len, s.now, who, []⟩] })
/-- A BAR2 read as it is taken from the host stream. -/
def bar2ReadNow (off : BitVec 36) (req : BitVec 16) (len : Nat) (s0 : State) : State :=
  let s : State := { s0 with free := s0.free + 1 }
  match windowBad s0 off false with
  | some r => gaveUr req (windowTrap r false off req s)
  | none =>
    let a := windowAddr s off
    if a / 2 ^ 38 ≠ s.slot then remoteRead a len (.host req) s else takeRead (.host req) 0 (localOf a) len s
/-- `BAR2_READ`. -/
def bar2Read (off : BitVec 36) (req : BitVec 16) (len : Nat) (s : State) : State :=
  if !s.boot.coreOut then s else inStream (.read off req len) (fun s => settleWeir (bar2ReadNow off req len s)) s
def execBar2Read (off : BitVec 36) (req : BitVec 16) (len : Nat) (s : State) : Host.Outcome State Fault Refusal := .next (bar2Read off req len s)
/-! ## Accesses on the fabric (R125, R150, R421) -/
/-- Firmware reaches an address of another chip (R421). -/
def goesOut (s : State) (a : Nat) : Bool := decide (a / 2 ^ 38 ≠ s.slot) && isReachable s a
/-- `FABRIC_WRITE_ACCEPT`: firmware's writes to another chip's slot leave as WR frames of class MGMT (R417, R421, R422). At an address that
its port does not reach no access is made (log entry 4). -/
def fabricWrite (who : Writer) (a : Nat) (bytes : List WByte) (buf : BufRead) (s : State) : State :=
  if s.here a then fabricWriteAccept who (localOf a) bytes buf s
  else
    let byFirmware : Bool := match who with | .firmware _ _ => true | .port fp => fp == 1
    if byFirmware && goesOut s a && decide (s.slu.phase = .idle) then sendWrites a bytes buf.bad true (bufferErrors buf s) else s
def execFabricWriteAccept (who : Writer) (addr : BitVec 40) (bytes : List WByte) (buf : BufRead) (s : State) :
    Host.Outcome State Fault Refusal := .next (fabricWrite who addr.toNat bytes buf s)
/-- `FABRIC_READ`: firmware's reads of another chip's slot leave as RD_REQ (R421, R424). At an address that its port does not reach no
access is made (log entry 4). -/
def fabricReads (fp : Fin 23) (a len : Nat) (words : MetaRead) (ue : BitVec 512) (s : State) : State :=
  if s.here a then fabricRead fp (localOf a) len words ue s
  else if fp = 1 ∧ goesOut s a ∧ s.slu.phase = .idle then remoteRead a len .fabric s else s
def execFabricRead (fp : Fin 23) (addr : BitVec 40) (len : Nat) (words : MetaRead) (ue : BitVec 512) (s : State) :
    Host.Outcome State Fault Refusal := .next (fabricReads fp addr.toNat len words ue s)
/-! ## Admission of waiting writes (R161, R163, R165) -/
def dropHeld (fp : Fin 23) : List Held → List Held
  | [] => []
  | h :: t => if h.fp = fp then t else h :: dropHeld fp t
/-- Present a held write again: a BAR2 write is translated, checked and charged afresh (R150). -/
def offerHeld (h : Held) (s : State) : Taken :=
  match h.bar with
  | some (off, req) => bar2Offer off req h.bytes h.poison.isSome s
  | none => takeWrite h.fp h.addr h.bytes h.poison false s
/-- The waiting writes of one port, in order, up to the first that is not taken. A firmware write is never held by the weir: the command
that it is made for ends, as it does where the write reaches a CONSTANT segment (R164, R536). -/
def admitPort (fp : Fin 23) : Nat → State → State
  | 0, s => s
  | n + 1, s =>
    match s.ret.held.find? (·.fp = fp) with
    | none => s
    | some h =>
      let gone (s : State) : State := admitPort fp n (settleWeir (onRet s fun r => { r with held := dropHeld fp r.held }))
      match offerHeld h s with
      | .accepted s' => gone s'
      | .dropped s' => gone (droppedWrite h.cmd (decide ((s.lineSeg (lineOf h.addr)).cls = .constant)) s')
      | .held weir => if weir ∧ fp = 1 then gone (endFirmware h.cmd St.weirHeld (refuseMgmt s)) else s
def admitAll (fp : Fin 23) (s : State) : State := admitPort fp s.ret.held.length s
/-- The host's head write: once it is taken its hold ends; a weir hold begins with the first cycle in which it is not
admitted (R165). -/
def admitHost (s : State) : State :=
  let s1 := admitAll 0 s
  match s1.ret.held.find? (·.fp = 0) with
  | none => endHold { s1 with host := { s1.host with heldHost := false } }
  | some h =>
    if s1.ret.weir.holdSince.isNone ∧ !admits s1 0 (chargeOf s1 (heldAddr s1 h) h.bytes.length) then
      s1.onWeir fun w => { w with holdSince := some s1.now, holdCount := sat 32 (w.holdCount + 1), dryRaised := false }
    else s1
/-- One TLP of the host stream as it is taken. -/
def takeTlp (t : HostTlp) (s : State) : State :=
  match t with
  | .write off req bytes poison => settleWeir (bar2WriteNow off req bytes poison s)
  | .read off req len => settleWeir (bar2ReadNow off req len s)
  | .reg off v => regWrite .host off v s
  | .regRead off => regRead .host off s
  | .doorbell ws => ringDoorbells ws s
/-- What waited behind a hold goes on, in the order of arrival, up to the next hold (R102, R165). -/
def drainStream : Nat → State → State
  | 0, s => s
  | n + 1, s =>
    match s.host.stream with
    | [] => s
    | t :: rest => if streamHeld s ∨ tlpWaits s t then s else drainStream n (takeTlp t { s with host := { s.host with stream := rest } })
/-- A mirror port's writes and the entries of the packets that came in on it (R178). -/
def admitMirror (p : Fin 23) (s : State) : State := settleWeir (admitRxOf [p] (admitAll p s))
/-- A Confluence port's writes, and the frames it holds (R422). -/
def admitConf (p : Fin 3) (s : State) : State := serveHold p 64 (admitAll (fabricOf (.conf p)) s)
/-- The writes of a scan pass that wait at FP21 (R162). -/
def admitScan (s : State) : State :=
  let s1 := admitAll 21 s
  match s1.scan.running with
  | some p => if p.pend.isSome then settleWeir (scanLineVisit s1) else s1
  | none => s1
/-- The ports in the release order of R163, those of no class, which only wait for copies, first. -/
def admitPorts (s : State) : State :=
  let panicking := [(14 : Fin 23), 15].filter fun p => portPanic s p
  let calm := [(14 : Fin 23), 15].filter fun p => !portPanic s p
  let s0 := [(1 : Fin 23), 2, 3, 4, 5, 6, 7, 8, 9, 10, 11, 12, 13].foldl (fun s p => admitAll p s) s
  let s1 := calm.foldl (fun s p => admitMirror p s) (admitScan (panicking.foldl (fun s p => admitMirror p s) s0))
  admitHost ([(0 : Fin 3), 1, 2].foldl (fun s p => admitConf p s) s1)
/-- `WEIR_ADMIT`. Nothing is admitted after T0 (R192). -/
def weirAdmit (s : State) : State :=
  if s.slu.phase ≠ .idle then s
  else
    let s1 := admitPorts s
    settleWeir (drainStream s1.host.stream.length s1)
def execWeirAdmit (s : State) : Host.Outcome State Fault Refusal := .next (weirAdmit s)
end Sys2Proof.Machine
end

