-- ==== Sys2Proof/Machine/Ticks.lean ====
section
/-! DEFINITION. What passes while no command waits: one cycle of CCLK, the next event frame of the service port, and the
acknowledgements that mirror ports owe. -/
namespace Sys2Proof.Machine
/-- Send the oldest event frame that waits on the service port; the first one after a drop carries LOST (R71, R72). -/
def sendFrame (s : State) : State :=
  match s.host.svc.frames with
  | [] => s
  | e :: t =>
    ({ s with host := { s.host with svc := { s.host.svc with frames := t, gap := false } } } : State).emit
      (.svc (svcFrame 0x03 (eventBytes e (2 * b2n s.host.svc.gap))))
/-- A mirror port that no other frame acknowledged on sends a LINK frame (R397, R398). A Confluence port has a row for it. -/
def sendAcks (s : State) : State :=
  mirLinks.foldl (fun s l => if isUp s l && (linkOf s l).owes then emitAck l false s else s) s
/-- One tick (DESIGN CHOICE, log entry 2): `GLB_TIME` counts on while the core is out of reset (R31), an event frame that
waits is sent, and so are the acknowledgements owed. -/
def tick (s : State) : State :=
  if s.boot.coreOut then sendAcks (sendFrame { s with glb := { s.glb with time := s.glb.time + 1 } }) else s
end Sys2Proof.Machine
end

