-- ==== Sys2Proof/Machine/Dispatch.lean ====
section
/-! DEFINITION. One arm for each command: a direct call of its meaning. -/
namespace Sys2Proof.Machine
/-- The effect of a command on everything but the queue of waiting commands. -/
def exec (i : Instr) (s : State) : Host.Outcome State Fault Refusal :=
  match i with
  | .glbIdentify d => Sys2Proof.Machine.execGlbIdentify d s
  | .authNarrow d => Sys2Proof.Machine.execAuthNarrow d s
  | .authPolicyWrite d => Sys2Proof.Machine.execAuthPolicyWrite d s
  | .glbDeviceReset d => Sys2Proof.Machine.execGlbDeviceReset d s
  | .mbxQueueCreate d => Sys2Proof.Machine.execMbxQueueCreate d s
  | .mbxQueueDelete d => Sys2Proof.Machine.execMbxQueueDelete d s
  | .mbxEventMask d => Sys2Proof.Machine.execMbxEventMask d s
  | .svcBaud d => Sys2Proof.Machine.execSvcBaud d s
  | .unitQuery cc d => Sys2Proof.Machine.execUnitQuery cc d s
  | .unitPowerUp cc d => Sys2Proof.Machine.execUnitPowerUp cc d s
  | .unitStart cc d => Sys2Proof.Machine.execUnitStart cc d s
  | .unitStopDrain cc d => Sys2Proof.Machine.execUnitStopDrain cc d s
  | .unitStopAbort cc d => Sys2Proof.Machine.execUnitStopAbort cc d s
  | .unitClearFault cc d => Sys2Proof.Machine.execUnitClearFault cc d s
  | .unitPowerDown cc d => Sys2Proof.Machine.execUnitPowerDown cc d s
  | .drainComplete u => Sys2Proof.Machine.execDrainComplete u s
  | .drainTimeout u => Sys2Proof.Machine.execDrainTimeout u s
  | .unitInternalFault u code => Sys2Proof.Machine.execUnitInternalFault u code s
  | .segQuery d => Sys2Proof.Machine.execSegQuery d s
  | .segSetClass d => Sys2Proof.Machine.execSegSetClass d s
  | .segSetFlags d => Sys2Proof.Machine.execSegSetFlags d s
  | .segLoadBegin d => Sys2Proof.Machine.execSegLoadBegin d s
  | .segLoad d buf bad => Sys2Proof.Machine.execSegLoad d buf bad s
  | .segSeal d => Sys2Proof.Machine.execSegSeal d s
  | .segShadowSet d => Sys2Proof.Machine.execSegShadowSet d s
  | .winSet d => Sys2Proof.Machine.execWinSet d s
  | .winQuery d => Sys2Proof.Machine.execWinQuery d s
  | .ctxQuery d => Sys2Proof.Machine.execCtxQuery d s
  | .ctxConfig d => Sys2Proof.Machine.execCtxConfig d s
  | .ctxStart d => Sys2Proof.Machine.execCtxStart d s
  | .ctxClose d => Sys2Proof.Machine.execCtxClose d s
  | .ctxPause d => Sys2Proof.Machine.execCtxPause d s
  | .ctxResume d => Sys2Proof.Machine.execCtxResume d s
  | .ctxAbandon d => Sys2Proof.Machine.execCtxAbandon d s
  | .ctxStop d => Sys2Proof.Machine.execCtxStop d s
  | .ctxLineQuery d => Sys2Proof.Machine.execCtxLineQuery d s
  | .copyConfig d => Sys2Proof.Machine.execCopyConfig d s
  | .ctxSwap d => Sys2Proof.Machine.execCtxSwap d s
  | .ctxSwapTimeout c => Sys2Proof.Machine.execCtxSwapTimeout c s
  | .weirQuery d => Sys2Proof.Machine.execWeirQuery d s
  | .weirConfig d => Sys2Proof.Machine.execWeirConfig d s
  | .weirCalibrate d => Sys2Proof.Machine.execWeirCalibrate d s
  | .weirDebtClear d => Sys2Proof.Machine.execWeirDebtClear d s
  | .sluQuery d => Sys2Proof.Machine.execSluQuery d s
  | .sluConfig d => Sys2Proof.Machine.execSluConfig d s
  | .sluDetectSet d => Sys2Proof.Machine.execSluDetectSet d s
  | .sluSaveTest d => Sys2Proof.Machine.execSluSaveTest d s
  | .sluShutdown d => Sys2Proof.Machine.execSluShutdown d s
  | .sluPrefetch d => Sys2Proof.Machine.execSluPrefetch d s
  | .nstQuery d => Sys2Proof.Machine.execNstQuery d s
  | .nstEvacuate d => Sys2Proof.Machine.execNstEvacuate d s
  | .seepConfig d => Sys2Proof.Machine.execSeepConfig d s
  | .seepAuditStart d => Sys2Proof.Machine.execSeepAuditStart d s
  | .nstFormat d => Sys2Proof.Machine.execNstFormat d s
  | .scanConfig d => Sys2Proof.Machine.execScanConfig d s
  | .scanQuery d => Sys2Proof.Machine.execScanQuery d s
  | .scanLayoutCheck d => Sys2Proof.Machine.execScanLayoutCheck d s
  | .dchQuery d => Sys2Proof.Machine.execDchQuery d s
  | .dchConfig d => Sys2Proof.Machine.execDchConfig d s
  | .dchPopSet d => Sys2Proof.Machine.execDchPopSet d s
  | .dchMapSet d => Sys2Proof.Machine.execDchMapSet d s
  | .dchRankRetire d => Sys2Proof.Machine.execDchRankRetire d s
  | .fabPortSet d => Sys2Proof.Machine.execFabPortSet d s
  | .fabQuery d => Sys2Proof.Machine.execFabQuery d s
  | .errQuery d => Sys2Proof.Machine.execErrQuery d s
  | .errConfig d => Sys2Proof.Machine.execErrConfig d s
  | .errInject d => Sys2Proof.Machine.execErrInject d s
  | .errBktReset d => Sys2Proof.Machine.execErrBktReset d s
  | .tribConfig d => Sys2Proof.Machine.execTribConfig d s
  | .tribModSet d => Sys2Proof.Machine.execTribModSet d s
  | .tribModEnable d => Sys2Proof.Machine.execTribModEnable d s
  | .tribRollcall d => Sys2Proof.Machine.execTribRollcall d s
  | .tribModQuery d => Sys2Proof.Machine.execTribModQuery d s
  | .tribMdio d => Sys2Proof.Machine.execTribMdio d s
  | .seqConfig d => Sys2Proof.Machine.execSeqConfig d s
  | .seqQuery d => Sys2Proof.Machine.execSeqQuery d s
  | .mirConfig d => Sys2Proof.Machine.execMirConfig d s
  | .mirQuery d => Sys2Proof.Machine.execMirQuery d s
  | .mirSwitch d => Sys2Proof.Machine.execMirSwitch d s
  | .mirResync d => Sys2Proof.Machine.execMirResync d s
  | .confQuery d => Sys2Proof.Machine.execConfQuery d s
  | .confConfig d => Sys2Proof.Machine.execConfConfig d s
  | .bootConfChips d => Sys2Proof.Machine.execBootConfChips d s
  | .pwrQuery d => Sys2Proof.Machine.execPwrQuery d s
  | .pwrRailQuery d => Sys2Proof.Machine.execPwrRailQuery d s
  | .pwrTableWrite d buf => Sys2Proof.Machine.execPwrTableWrite d buf s
  | .pwrTableRead d => Sys2Proof.Machine.execPwrTableRead d s
  | .pwrGroup d => Sys2Proof.Machine.execPwrGroup d s
  | .pwrLatchClear d => Sys2Proof.Machine.execPwrLatchClear d s
  | .pwrHubMeasure d => Sys2Proof.Machine.execPwrHubMeasure d s
  | .pwrCycle d => Sys2Proof.Machine.execPwrCycle d s
  | .bkdTimeGet d => Sys2Proof.Machine.execBkdTimeGet d s
  | .bkdTimeSet d => Sys2Proof.Machine.execBkdTimeSet d s
  | .bkdAlarmSet d => Sys2Proof.Machine.execBkdAlarmSet d s
  | .bkdAlarmAck d => Sys2Proof.Machine.execBkdAlarmAck d s
  | .bkdSwoClear d => Sys2Proof.Machine.execBkdSwoClear d s
  | .ldgQuery d => Sys2Proof.Machine.execLdgQuery d s
  | .ldgTagWrite d buf => Sys2Proof.Machine.execLdgTagWrite d buf s
  | .ldgTagRead d => Sys2Proof.Machine.execLdgTagRead d s
  | .ldgEventRead d => Sys2Proof.Machine.execLdgEventRead d s
  | .ldgUserAppend d buf => Sys2Proof.Machine.execLdgUserAppend d buf s
  | .ldgUserRead d => Sys2Proof.Machine.execLdgUserRead d s
  | .ldgRawRead d => Sys2Proof.Machine.execLdgRawRead d s
  | .ldgRawWrite d buf => Sys2Proof.Machine.execLdgRawWrite d buf s
  | .bootLoad d buf => Sys2Proof.Machine.execBootLoad d buf s
  | .bootRun d => Sys2Proof.Machine.execBootRun d s
  | .bootFwUpdate d buf => Sys2Proof.Machine.execBootFwUpdate d buf s
  | .bootFwQuery d => Sys2Proof.Machine.execBootFwQuery d s
  | .bootKeyRevoke d => Sys2Proof.Machine.execBootKeyRevoke d s
  | .bootReset d => Sys2Proof.Machine.execBootReset d s
  | .add n => Sys2Proof.Machine.execAdd n s
  | .sub n => Sys2Proof.Machine.execSub n s
  | .and n => Sys2Proof.Machine.execAnd n s
  | .or n => Sys2Proof.Machine.execOr n s
  | .xor n => Sys2Proof.Machine.execXor n s
  | .shl n => Sys2Proof.Machine.execShl n s
  | .shr n => Sys2Proof.Machine.execShr n s
  | .addi n => Sys2Proof.Machine.execAddi n s
  | .andi n => Sys2Proof.Machine.execAndi n s
  | .ori n => Sys2Proof.Machine.execOri n s
  | .xori n => Sys2Proof.Machine.execXori n s
  | .shli n => Sys2Proof.Machine.execShli n s
  | .shri n => Sys2Proof.Machine.execShri n s
  | .li n => Sys2Proof.Machine.execLi n s
  | .ldw n => Sys2Proof.Machine.execLdw n s
  | .ldb n => Sys2Proof.Machine.execLdb n s
  | .stw n => Sys2Proof.Machine.execStw n s
  | .stb n => Sys2Proof.Machine.execStb n s
  | .beq n => Sys2Proof.Machine.execBeq n s
  | .bne n => Sys2Proof.Machine.execBne n s
  | .bltu n => Sys2Proof.Machine.execBltu n s
  | .bgeu n => Sys2Proof.Machine.execBgeu n s
  | .jmp n => Sys2Proof.Machine.execJmp n s
  | .call n => Sys2Proof.Machine.execCall n s
  | .jr n => Sys2Proof.Machine.execJr n s
  | .chk n => Sys2Proof.Machine.execChk n s
  | .chkr n => Sys2Proof.Machine.execChkr n s
  | .lcfg n => Sys2Proof.Machine.execLcfg n s
  | .ldiv n => Sys2Proof.Machine.execLdiv n s
  | .send n => Sys2Proof.Machine.execSend n s
  | .recv n => Sys2Proof.Machine.execRecv n s
  | .de n => Sys2Proof.Machine.execDe n s
  | .seqDrain n => Sys2Proof.Machine.execSeqDrain n s
  | .wedge n => Sys2Proof.Machine.execWedge n s
  | .seqWait n => Sys2Proof.Machine.execSeqWait n s
  | .txl n => Sys2Proof.Machine.execTxl n s
  | .rxl n level => Sys2Proof.Machine.execRxl n level s
  | .istb n => Sys2Proof.Machine.execIstb n s
  | .istw n => Sys2Proof.Machine.execIstw n s
  | .ipub n => Sys2Proof.Machine.execIpub n s
  | .osel n => Sys2Proof.Machine.execOsel n s
  | .oldb n => Sys2Proof.Machine.execOldb n s
  | .oldw n => Sys2Proof.Machine.execOldw n s
  | .oack n => Sys2Proof.Machine.execOack n s
  | .mld n => Sys2Proof.Machine.execMld n s
  | .marr n => Sys2Proof.Machine.execMarr n s
  | .mdep n => Sys2Proof.Machine.execMdep n s
  | .mqry n => Sys2Proof.Machine.execMqry n s
  | .mfs n => Sys2Proof.Machine.execMfs n s
  | .halt n => Sys2Proof.Machine.execHalt n s
  | .nop n => Sys2Proof.Machine.execNop n s
  | .seqWaitEnd n timeout cycles => Sys2Proof.Machine.execSeqWaitEnd n timeout cycles s
  | .seqExecBegin n => Sys2Proof.Machine.execSeqExecBegin n s
  | .lineCharReceived n c parity framing brk whileDe => Sys2Proof.Machine.execLineCharReceived n c parity framing brk whileDe s
  | .lineCharSent n => Sys2Proof.Machine.execLineCharSent n s
  | .mqSqTail mq v => Sys2Proof.Machine.execMqSqTail mq v s
  | .mqCqHead mq v => Sys2Proof.Machine.execMqCqHead mq v s
  | .mqEqHead mq v => Sys2Proof.Machine.execMqEqHead mq v s
  | .mbxBootAddrLo v => Sys2Proof.Machine.execMbxBootAddrLo v s
  | .mbxBootAddrHi v => Sys2Proof.Machine.execMbxBootAddrHi v s
  | .mbxSetupReadDone block => Sys2Proof.Machine.execMbxSetupReadDone block s
  | .descriptorFetch mq raw => Sys2Proof.Machine.execDescriptorFetch mq raw s
  | .completionWrite mb tag => Sys2Proof.Machine.execCompletionWrite mb tag s
  | .mqDmaFail mq => Sys2Proof.Machine.execMqDmaFail mq s
  | .ctxdClose ws => Sys2Proof.Machine.execCtxdClose ws s
  | .msixTableWrite off v => Sys2Proof.Machine.execMsixTableWrite off v s
  | .rcRead who off => Sys2Proof.Machine.execRcRead who off s
  | .loHalfRead who off => Sys2Proof.Machine.execLoHalfRead who off s
  | .aliasRead who off => Sys2Proof.Machine.execAliasRead who off s
  | .registerWrite who off v => Sys2Proof.Machine.execRegisterWrite who off v s
  | .rtcSecRead who => Sys2Proof.Machine.execRtcSecRead who s
  | .rtcHaltWrite who halt => Sys2Proof.Machine.execRtcHaltWrite who halt s
  | .alarmArmWrite who arm => Sys2Proof.Machine.execAlarmArmWrite who arm s
  | .svcFrame frame => Sys2Proof.Machine.execSvcFrame frame s
  | .svcFrameTimeout => Sys2Proof.Machine.execSvcFrameTimeout s
  | .svcEnChange level => Sys2Proof.Machine.execSvcEnChange level s
  | .smbusReadWord x => Sys2Proof.Machine.execSmbusReadWord x s
  | .telemetryRefresh junction power => Sys2Proof.Machine.execTelemetryRefresh junction power s
  | .bar2Write off req bytes poison => Sys2Proof.Machine.execBar2Write off req bytes poison s
  | .bar2Read off req len => Sys2Proof.Machine.execBar2Read off req len s
  | .configRequest r => Sys2Proof.Machine.execConfigRequest r s
  | .fabricWriteAccept who addr bytes buf => Sys2Proof.Machine.execFabricWriteAccept who addr bytes buf s
  | .lineWriteApply fp => Sys2Proof.Machine.execLineWriteApply fp s
  | .fabricRead fp addr len words ue => Sys2Proof.Machine.execFabricRead fp addr len words ue s
  | .weirAdmit => Sys2Proof.Machine.execWeirAdmit s
  | .weirRecompute => Sys2Proof.Machine.execWeirRecompute s
  | .softBucketRefill us => Sys2Proof.Machine.execSoftBucketRefill us s
  | .cleanBucketRefill us => Sys2Proof.Machine.execCleanBucketRefill us s
  | .weirDryHold => Sys2Proof.Machine.execWeirDryHold s
  | .weirLedgerRecord => Sys2Proof.Machine.execWeirLedgerRecord s
  | .copyBatch => Sys2Proof.Machine.execCopyBatch s
  | .copyDone line => Sys2Proof.Machine.execCopyDone line s
  | .settle line => Sys2Proof.Machine.execSettle line s
  | .copyStallLong fp => Sys2Proof.Machine.execCopyStallLong fp s
  | .closingEnd c => Sys2Proof.Machine.execClosingEnd c s
  | .deferredCloseTaken c => Sys2Proof.Machine.execDeferredCloseTaken c s
  | .agingVisit c line => Sys2Proof.Machine.execAgingVisit c line s
  | .agingDone c => Sys2Proof.Machine.execAgingDone c s
  | .ctxWatchdogExpire c => Sys2Proof.Machine.execCtxWatchdogExpire c s
  | .vinTrip mv => Sys2Proof.Machine.execVinTrip mv s
  | .pfailInAssert => Sys2Proof.Machine.execPfailInAssert s
  | .pfailExternal => Sys2Proof.Machine.execPfailExternal s
  | .refclkLoss => Sys2Proof.Machine.execRefclkLoss s
  | .internalUe staging => Sys2Proof.Machine.execInternalUe staging s
  | .saveT0 => Sys2Proof.Machine.execSaveT0 s
  | .quiesceDone => Sys2Proof.Machine.execQuiesceDone s
  | .saveProgramDone part ok => Sys2Proof.Machine.execSaveProgramDone part ok s
  | .saveBankFloor => Sys2Proof.Machine.execSaveBankFloor s
  | .inputGood => Sys2Proof.Machine.execInputGood s
  | .resumeReady => Sys2Proof.Machine.execResumeReady s
  | .anchorVoteDone => Sys2Proof.Machine.execAnchorVoteDone s
  | .restoreAreaReady => Sys2Proof.Machine.execRestoreAreaReady s
  | .segmentBuild seg => Sys2Proof.Machine.execSegmentBuild seg s
  | .restoreSegmentIn seg => Sys2Proof.Machine.execRestoreSegmentIn seg s
  | .demandFaultDone line bad => Sys2Proof.Machine.execDemandFaultDone line bad s
  | .nandOpDone ch ok us errors retries => Sys2Proof.Machine.execNandOpDone ch ok us errors retries s
  | .nandOpTimeout ch => Sys2Proof.Machine.execNandOpTimeout ch s
  | .nstChannelRestart ch ok => Sys2Proof.Machine.execNstChannelRestart ch ok s
  | .journalPageIssue => Sys2Proof.Machine.execJournalPageIssue s
  | .seepMerge seg => Sys2Proof.Machine.execSeepMerge seg s
  | .checkpointWrite => Sys2Proof.Machine.execCheckpointWrite s
  | .areaReady => Sys2Proof.Machine.execAreaReady s
  | .ringRotate => Sys2Proof.Machine.execRingRotate s
  | .staticSpread lun => Sys2Proof.Machine.execStaticSpread lun s
  | .auditLine fixed bad => Sys2Proof.Machine.execAuditLine fixed bad s
  | .auditPage errors retries => Sys2Proof.Machine.execAuditPage errors retries s
  | .scanPassStart => Sys2Proof.Machine.execScanPassStart s
  | .scanLineVisit => Sys2Proof.Machine.execScanLineVisit s
  | .outputCapture n => Sys2Proof.Machine.execOutputCapture n s
  | .dchCommandSlot ch => Sys2Proof.Machine.execDchCommandSlot ch s
  | .dramRequestDone ch id corrected uncorrectable => Sys2Proof.Machine.execDramRequestDone ch id corrected uncorrectable s
  | .refreshDue ch rank => Sys2Proof.Machine.execRefreshDue ch rank s
  | .dramTempRead ch reported hot => Sys2Proof.Machine.execDramTempRead ch reported hot s
  | .zqcsDue ch => Sys2Proof.Machine.execZqcsDue ch s
  | .dqsRecentre ch => Sys2Proof.Machine.execDqsRecentre ch s
  | .alertN ch event => Sys2Proof.Machine.execAlertN ch event s
  | .dchResponseTimeout ch => Sys2Proof.Machine.execDchResponseTimeout ch s
  | .dchRestartAttempt ch ok => Sys2Proof.Machine.execDchRestartAttempt ch ok s
  | .migrationLine ch unreadable => Sys2Proof.Machine.execMigrationLine ch unreadable s
  | .fabPanic fp fill => Sys2Proof.Machine.execFabPanic fp fill s
  | .bucketTick => Sys2Proof.Machine.execBucketTick s
  | .voteRepair => Sys2Proof.Machine.execVoteRepair s
  | .pollCycleStart n => Sys2Proof.Machine.execPollCycleStart n s
  | .poll n => Sys2Proof.Machine.execPoll n s
  | .dataReply n f => Sys2Proof.Machine.execDataReply n f s
  | .replyTimeout n a => Sys2Proof.Machine.execReplyTimeout n a s
  | .identify n => Sys2Proof.Machine.execIdentify n s
  | .claim n f => Sys2Proof.Machine.execClaim n f s
  | .rollcallWindowClose n => Sys2Proof.Machine.execRollcallWindowClose n s
  | .inputStore n a => Sys2Proof.Machine.execInputStore n a s
  | .inputLatchExpire n a => Sys2Proof.Machine.execInputLatchExpire n a s
  | .phyStatusPoll n => Sys2Proof.Machine.execPhyStatusPoll n s
  | .listenMissWindow n => Sys2Proof.Machine.execListenMissWindow n s
  | .tokenChange n token => Sys2Proof.Machine.execTokenChange n token s
  | .mdioDone bus answered value => Sys2Proof.Machine.execMdioDone bus answered value s
  | .mirLinkRetrain l => Sys2Proof.Machine.execMirLinkRetrain l s
  | .linkTrained l ok => Sys2Proof.Machine.execLinkTrained l ok s
  | .replayTimeout l => Sys2Proof.Machine.execReplayTimeout l s
  | .linkFrame l h => Sys2Proof.Machine.execLinkFrame l h s
  | .frameCrcBad l => Sys2Proof.Machine.execFrameCrcBad l s
  | .helloSend => Sys2Proof.Machine.execHelloSend s
  | .helloFrame p h m => Sys2Proof.Machine.execHelloFrame p h m s
  | .packetBegin => Sys2Proof.Machine.execPacketBegin s
  | .latestPacketDue => Sys2Proof.Machine.execLatestPacketDue s
  | .linesFrame p h pseq fidx es => Sys2Proof.Machine.execLinesFrame p h pseq fidx es s
  | .epochEnd p h e => Sys2Proof.Machine.execEpochEnd p h e s
  | .packetApply => Sys2Proof.Machine.execPacketApply s
  | .restartFrame p h pseq reread => Sys2Proof.Machine.execRestartFrame p h pseq reread s
  | .ackFrame p h applied synced => Sys2Proof.Machine.execAckFrame p h applied synced s
  | .handover p h last => Sys2Proof.Machine.execHandover p h last s
  | .dying p h last cause => Sys2Proof.Machine.execDying p h last cause s
  | .mirDeadTimeout => Sys2Proof.Machine.execMirDeadTimeout s
  | .joinSend => Sys2Proof.Machine.execJoinSend s
  | .joinFrame p h j => Sys2Proof.Machine.execJoinFrame p h j s
  | .formed p h members => Sys2Proof.Machine.execFormed p h members s
  | .confFormTimeout => Sys2Proof.Machine.execConfFormTimeout s
  | .confFormRetry => Sys2Proof.Machine.execConfFormRetry s
  | .wr p h addr bytes poison mgmt => Sys2Proof.Machine.execWr p h addr bytes poison mgmt s
  | .rdReq p h tag lines addr => Sys2Proof.Machine.execRdReq p h tag lines addr s
  | .rdCpl p h tag idx abort es => Sys2Proof.Machine.execRdCpl p h tag idx abort es s
  | .prepare p h c epoch => Sys2Proof.Machine.execPrepare p h c epoch s
  | .prepared p h c epoch => Sys2Proof.Machine.execPrepared p h c epoch s
  | .commit p h c epoch => Sys2Proof.Machine.execCommit p h c epoch s
  | .abandon p h c cause epoch => Sys2Proof.Machine.execAbandon p h c cause epoch s
  | .resolveFrame p h es => Sys2Proof.Machine.execResolveFrame p h es s
  | .resolveTimeout => Sys2Proof.Machine.execResolveTimeout s
  | .ctxsync p h c r => Sys2Proof.Machine.execCtxsync p h c r s
  | .lostFrame p h slot => Sys2Proof.Machine.execLostFrame p h slot s
  | .peerLost slot => Sys2Proof.Machine.execPeerLost slot s
  | .epochs p h es => Sys2Proof.Machine.execEpochs p h es s
  | .roleFrame p h role cause => Sys2Proof.Machine.execRoleFrame p h role cause s
  | .applyEpoch p h c epoch => Sys2Proof.Machine.execApplyEpoch p h c epoch s
  | .haveEpoch p h c epoch => Sys2Proof.Machine.execHaveEpoch p h c epoch s
  | .switchFrame p h trigger => Sys2Proof.Machine.execSwitchFrame p h trigger s
  | .confLinkIdle p => Sys2Proof.Machine.execConfLinkIdle p s
  | .elasticLimit p => Sys2Proof.Machine.execElasticLimit p s
  | .railExcursion r kind mv => Sys2Proof.Machine.execRailExcursion r kind mv s
  | .railStable r => Sys2Proof.Machine.execRailStable r s
  | .railRiseTimeout r => Sys2Proof.Machine.execRailRiseTimeout r s
  | .railEnable r => Sys2Proof.Machine.execRailEnable r s
  | .sequenceStart => Sys2Proof.Machine.execSequenceStart s
  | .railDisable r => Sys2Proof.Machine.execRailDisable r s
  | .railFallen r => Sys2Proof.Machine.execRailFallen r s
  | .railFallSlow r mv => Sys2Proof.Machine.execRailFallSlow r mv s
  | .retryOffExpire => Sys2Proof.Machine.execRetryOffExpire s
  | .minOffExpire => Sys2Proof.Machine.execMinOffExpire s
  | .rstoutStretchEnd k => Sys2Proof.Machine.execRstoutStretchEnd k s
  | .vddAonPor rising => Sys2Proof.Machine.execVddAonPor rising s
  | .hubSample mv => Sys2Proof.Machine.execHubSample mv s
  | .hubChargeTimeout => Sys2Proof.Machine.execHubChargeTimeout s
  | .hubMeasDue => Sys2Proof.Machine.execHubMeasDue s
  | .hubMeasEnd v0 v1 v2 us => Sys2Proof.Machine.execHubMeasEnd v0 v1 v2 us s
  | .subsecTick => Sys2Proof.Machine.execSubsecTick s
  | .vbatSwitch toVbat => Sys2Proof.Machine.execVbatSwitch toVbat s
  | .vbatMeasure mv => Sys2Proof.Machine.execVbatMeasure mv s
  | .oscStop => Sys2Proof.Machine.execOscStop s
  | .bkdDomainReset => Sys2Proof.Machine.execBkdDomainReset s
  | .bkdWriteArrive => Sys2Proof.Machine.execBkdWriteArrive s
  | .ledgerPageWriteDone result => Sys2Proof.Machine.execLedgerPageWriteDone result s
  | .eventLogWrite => Sys2Proof.Machine.execEventLogWrite s
  | .coreResetRelease chipid bootsrc testEn => Sys2Proof.Machine.execCoreResetRelease chipid bootsrc testEn s
  | .imageVerified => Sys2Proof.Machine.execImageVerified s
  | .firmwareReady => Sys2Proof.Machine.execFirmwareReady s
  | .trainingDone dram nand => Sys2Proof.Machine.execTrainingDone dram nand s
  | .perst => Sys2Proof.Machine.execPerst s
  | .assignReceived n f => Sys2Proof.Machine.execAssignReceived n f s
  | .serialFrameIdle n => Sys2Proof.Machine.execSerialFrameIdle n s
  | .seepClean => Sys2Proof.Machine.execSeepClean s
  | .mirSwitchTimeout => Sys2Proof.Machine.execMirSwitchTimeout s
  | .railGlitch r => Sys2Proof.Machine.execRailGlitch r s
  | .svcSyncError => Sys2Proof.Machine.execSvcSyncError s
  | .svcLengthError len => Sys2Proof.Machine.execSvcLengthError len s
  | .bkdResetRelease => Sys2Proof.Machine.execBkdResetRelease s
  | .pwrHubMeasureTimeout => Sys2Proof.Machine.execPwrHubMeasureTimeout s
end Sys2Proof.Machine
end

