-- ==== Sys2Proof/Safety.lean ====
section
/-! DEFINITION. What a safe run of the block is, in the terms that the statements use: the host's stream is open, a command is
served, and the sparse stores keep their one form. -/
namespace Sys2Proof.Machine
/-- The host reaches the device: the core runs, firmware is ready, no save runs, and nothing of the host stream is held
(R102, R119, R165, R191, R504). -/
def HostOpen (s : State) : Prop :=
  s.boot.coreOut = true ∧ s.glb.fil ≠ 0 ∧ s.glb.state ≠ 3 ∧ streamHeld s = false ∧ s.host.stream = []
/-- The command of descriptor `d` was fetched and is past steps 1 to 3 of R57, no FENCE holds it, and steps 4 and 5 pass
with the targets `ts`; and no command accepted earlier on one of its units is still to take effect (R49, R50, R56, R57). -/
def Served (i : CmdInfo) (d : Desc) (ts : List Nat) (s : State) : Prop :=
  isAccepted s d i.op = true ∧ fenced (cmdsOf s d.port) d.tag = false ∧ readyFor s i = true ∧ targets s i.sel d = some ts
    ∧ mustFollow s i.op d = false
/-- Sequencer `n` executes and fetches instruction `i` of opcode `op`, whose unused bits `zero` are zero (R376, R377). -/
def Fetches (n : Fin 12) (op : Nat) (zero : Word) (i : SIns) (s : State) : Prop :=
  (seqAt s n).exec = .executing ∧ fetch (seqAt s n) = .ins i ∧ i.op = op ∧ i.word &&& zero = 0
/-- Frame `m` on link `l` is good and next in order, its port holds the authority it needs, and no write of the port is held by the weir;
`t` is the state once its acknowledgement is taken (R397, R398, R417, R422). -/
def Arrives (l : LinkId) (h : LinkHdr) (m : LinkMsg) (au : Nat) (s t : State) : Prop :=
  receive l h m s = (true, t) ∧ t.holds (arrivalOf l) au = true ∧ ∀ p, l = .conf p → weirHeads s p = false
/-- Port `p` is wired to a member that is not lost, and no save has begun (R421, R429). -/
def OfMember (p : Fin 3) (s : State) : Prop :=
  s.slu.phase = .idle ∧ s.conf.members.getLsbD (slotAt s p) = true ∧ s.conf.lost.getLsbD (slotAt s p) = false
/-- A replay window holds at most 64 frames, whose numbers are the newest in order (R397). -/
def Numbered (k : LinkPort) : Prop :=
  k.window.length ≤ 64 ∧ k.window.map (·.1) = (List.range k.window.length).map fun i => k.fseq - BitVec.ofNat 16 (k.window.length - i)
/-- The sparse stores of the block are in their canonical form: keys rise, and no entry holds what an unlisted key reads
as. Equal contents are then equal data. -/
def State.MemOk (s : State) : Prop :=
  mwf 0 s.ret.dram = true ∧ mwf 0 s.ret.shadow = true ∧ mwf Line.never s.ret.lines = true ∧
  mwf Seg.new s.ret.segs = true
end Sys2Proof.Machine
end

