-- ==== Sys2Proof/Certificates/Slice0/Obligations.lean ====
section
/-! DEFINITION. The statements about the model, each a numbered rule of the manual or a property of the whole machine. A
clause that gives a command's result holds under conditions on the state and the operands alone, and its equation also
says what the command leaves as it was. -/
open Sys2Proof Sys2Proof.Machine
/-- For every command c and every state, a step with c at the front of the queue is exec of c on the state with the rest of
the queue. With an empty queue a step is one tick of the block (the model's choice, log entry 2). No command stops the block: for
every command and every state exec answers a next state, which the other statements describe. -/
def Obligations.StepTakesFront : Prop :=
  (∀ (c : Instr) (rest : List Instr) (s : State), step { s with pending := c :: rest } = exec c { s with pending := rest }) ∧
  (∀ s : State, s.pending = [] → step s = .next (tick s)) ∧
  (∀ (c : Instr) (s : State), ∃ t, exec c s = .next t)
/-- With the host stream open: the two setup doorbells keep the address and the second one starts setup of an MQ0 that is not
ACTIVE; an in-range tail, completion head or event head of an ACTIVE mailbox is taken as it stands, a head that leaves no
entry re-arming its ring; with no message pending, a word of the MSI-X table is stored, its reserved bits dropped. Nothing else
changes. -/
def Obligations.HostDoorbells : Prop :=
  (∀ (v : Word) (s : State), HostOpen s →
    exec (.mbxBootAddrLo v) s = .next { s with host := { s.host with
      bootAddr := BitVec.ofNat 64 (s.host.bootAddr.toNat / 2 ^ 32 * 2 ^ 32 + v.toNat) } }) ∧
  (∀ (v : Word) (s : State), HostOpen s → s.host.mq[0].state ≠ .active → s.host.setupBusy = false →
    s.host.bootAddr.toNat % 64 = 0 →
    exec (.mbxBootAddrHi v) s = .next { s with host := { s.host with
      bootAddr := BitVec.ofNat 64 (s.host.bootAddr.toNat % 2 ^ 32 + v.toNat * 2 ^ 32), bootStat := 1, bootReason := 0,
      setupBusy := true } }) ∧
  (∀ (q : Fin 4) (v : Word) (s : State), HostOpen s → s.host.mq[q].state = .active →
    exec (.mqSqTail q v) s = .next (onMq s q fun m =>
      if bits v 0 10 < 2 ^ m.sqLog2 then { m with tail := bits v 0 10 } else { m with dbRange := true })) ∧
  (∀ (q : Fin 4) (v : Word) (s : State), HostOpen s → s.host.mq[q].state = .active →
    bits v 0 10 < 2 ^ s.host.mq[q].cqLog2 →
    s.host.mq[q].cqUsed ≤ (bits v 0 10 + 2 ^ s.host.mq[q].cqLog2 - s.host.mq[q].cqHead) % 2 ^ s.host.mq[q].cqLog2 →
    exec (.mqCqHead q v) s = .next (onMq s q fun m => { m with cqHead := bits v 0 10, cqUsed := 0, cqArmed := true })) ∧
  (∀ (q : Fin 4) (v : Word) (s : State), HostOpen s → s.host.mq[q].state = .active →
    bits v 0 10 < 2 ^ s.host.mq[q].eqLog2 →
    s.host.mq[q].eqUsed ≤ (bits v 0 10 + 2 ^ s.host.mq[q].eqLog2 - s.host.mq[q].eqHead) % 2 ^ s.host.mq[q].eqLog2 →
    exec (.mqEqHead q v) s = .next (onMq s q fun m => { m with eqHead := bits v 0 10, eqUsed := 0, eqArmed := true })) ∧
  (∀ (off : BitVec 10) (v : Word) (s : State), HostOpen s → s.host.msix.pba = 0 →
    exec (.msixTableWrite off v) s = .next (onMsix s fun m => { m with
      table := vmod m.table (Fin.ofNat 256 (off.toNat / 4)) fun _ =>
        if off.toNat / 4 % 4 = 3 then v &&& 1 else if off.toNat / 4 % 4 = 0 then v &&& 0xFFFFFFFC else v }))
/-- A good setup block makes MQ0 ACTIVE and MBX_BOOT_STAT DONE. A fetch that may be made takes the next descriptor in ring
order and makes steps 1 to 3 of R57 on it. A completion with a free slot leaves the list of outstanding commands, by DMA of
its 16 bytes to the slot at the completion tail, and on the service port by a completion frame. A failed DMA access halts an
ACTIVE mailbox, records it, and raises MQ_HALTED. -/
def Obligations.MailboxWork : Prop :=
  (∀ (v : BitVec 512) (s : State), s.host.setupBusy = true → queueBad ((leBytes 64 v.toNat).take 32) = none →
    zeros (leBytes 64 v.toNat) 32 32 = true →
    exec (.mbxSetupReadDone (some v)) s = .next (activate 0 (leBytes 64 v.toNat)
      { s with host := { s.host with bootStat := 2, bootReason := 0, setupBusy := false } })) ∧
  (∀ (q : Fin 4) (raw : BitVec 512) (s : State), mayFetch s q = true →
    exec (.descriptorFetch q raw) s = .next (takeDesc
      (rawDesc ⟨q.val, by omega⟩ (BitVec.ofNat 16 s.host.mq[q].fetch) raw) (opcodeOf raw) []
      (onMq s q fun m => { m with fetch := (s.host.mq[q].fetch + 1) % 2 ^ m.sqLog2 }))) ∧
  (∀ (q : Fin 4) (tag : BitVec 16) (c : Cmd) (s : State),
    s.host.mq[q].cmds.find? (fun c => c.tag = tag ∧ c.phase.isFinished) = some c → s.host.mq[q].state = .active →
    s.host.mq[q].cqUsed < 2 ^ s.host.mq[q].cqLog2 → s.host.mq[q].cqArmed = false →
    exec (.completionWrite ⟨q.val, by omega⟩ tag) s = .next (afterCompletion ⟨q.val, by omega⟩ c ((onMq s q fun m =>
      { m with cmds := dropCmd tag m.cmds, cqTail := (m.cqTail + 1) % 2 ^ m.cqLog2, cqUsed := m.cqUsed + 1,
               cqPhase := if (m.cqTail + 1) % 2 ^ m.cqLog2 = 0 then !m.cqPhase else m.cqPhase,
               cqArmed := false }).emit
        (.dma (s.host.mq[q].cqBase + BitVec.ofNat 64 (16 * s.host.mq[q].cqTail))
          (completionBytes c c.sqi s.host.mq[q].cqPhase) 0)))) ∧
  (∀ (tag : BitVec 16) (c : Cmd) (s : State),
    s.host.svc.cmds.find? (fun c => c.tag = tag ∧ c.phase.isFinished) = some c →
    exec (.completionWrite 4 tag) s = .next (afterCompletion 5 c ((onCmds s 5 (dropCmd tag)).emit
      (.svc (svcFrame 0x02 (completionBytes c 0 false ++ c.data)))))) ∧
  (∀ (q : Fin 4) (s : State), s.host.mq[q].state = .active →
    exec (.mqDmaFail q) s = .next ((onMq (haltMq q s) q fun m => { m with dmaFail := true }).raise 0x0201 q [(16, q)]))
/-- A requester that may read gets the value of the register, or of the lowest member of an alias, with the effects that the
read has (a clear, a latched half, a snapshot of the backup domain's time, a recorded difference of an alias): firmware and the
service port at once, the host where its stream is not held. A write reaches the register, or every member of an alias; one of
the host to a place that is no doorbell, table entry or W1C field changes nothing, and a poisoned one is dropped wherever it
goes, and logged. For each requester: a read of the RC register GLB_AUTH_REFUSED returns its count and leaves it zero, and nothing
else changes; a read of GLB_TIME_LO returns the low half and latches the high half for that requester; a read of RTC_SEC returns the
copy's seconds and latches the whole copy as that requester's snapshot; a read of DCH_STAT through the alias of the four channels
returns the first channel's, and where the channels differ records so with the offset. A firmware or service write of an alarm field
goes on its way into the backup domain, and a host write of ones clears the bits of PWR_FAULT that it names; neither changes anything
else. -/
def Obligations.RegisterAccess : Prop :=
  (∀ (who : Requester) (off : BitVec 24) (s : State), who ≠ .host → mayRead s who = true →
    exec (.rcRead who off) s = .next ((readReg who off.toNat s).2.emit (.reg who (readReg who off.toNat s).1)) ∧
    exec (.loHalfRead who off) s = .next ((readReg who off.toNat s).2.emit (.reg who (readReg who off.toNat s).1)) ∧
    exec (.aliasRead who off) s = .next ((readReg who off.toNat s).2.emit (.reg who (readReg who off.toNat s).1)) ∧
    exec (.rtcSecRead who) s = .next ((readReg who 0x70000 s).2.emit (.reg who (readReg who 0x70000 s).1))) ∧
  (∀ (off : BitVec 24) (s : State), HostOpen s →
    exec (.rcRead .host off) s = .next ((readReg .host off.toNat s).2.emit (.reg .host (readReg .host off.toNat s).1)) ∧
    exec (.loHalfRead .host off) s = .next ((readReg .host off.toNat s).2.emit (.reg .host (readReg .host off.toNat s).1)) ∧
    exec (.aliasRead .host off) s = .next ((readReg .host off.toNat s).2.emit (.reg .host (readReg .host off.toNat s).1)) ∧
    exec (.rtcSecRead .host) s = .next ((readReg .host 0x70000 s).2.emit (.reg .host (readReg .host 0x70000 s).1))) ∧
  (∀ (off : BitVec 24) (v : Word) (s : State), s.boot.coreOut = true → s.glb.fil ≠ 0 →
    exec (.registerWrite .firmware off v) s = .next (writeReg .firmware off.toNat v s)) ∧
  (∀ (off : BitVec 24) (v : Word) (s : State), s.boot.coreOut = true → mayWrite s .service = true →
    exec (.registerWrite .service off v) s = .next (writeReg .service off.toNat v s)) ∧
  (∀ (off : BitVec 24) (v : Word) (s : State), HostOpen s →
    exec (.registerWrite (.host false) off v) s = .next (writeReg .host off.toNat v s)) ∧
  (∀ (v : Word) (s : State), HostOpen s → exec (.registerWrite (.host false) 0x10 v) s = .next s) ∧
  (∀ (off : BitVec 24) (v : Word) (s : State), s.boot.coreOut = true →
    exec (.registerWrite (.host true) off v) s = .next (gotPoison s)) ∧
  (∀ (who : Requester) (s : State), mayRead s who = true → (who = .host → HostOpen s) → latchOf s who 0x30 = none →
    exec (.rcRead who 0x30) s = .next (({ s with glb := { s.glb with authRefused := 0 } }).emit
      (.reg who (BitVec.ofNat 32 s.glb.authRefused)))) ∧
  (∀ (who : Requester) (s : State), mayRead s who = true → (who = .host → HostOpen s) →
    ∃ t, exec (.loHalfRead who 0x28) s = .next t ∧ t.out = .reg who (s.glb.time.extractLsb' 0 32) :: s.out ∧
      latchOf t who 0x2C = some (s.glb.time.extractLsb' 32 32) ∧ t.ret = s.ret ∧ t.host = s.host ∧ t.glb.time = s.glb.time) ∧
  (∀ (who : Requester) (s : State), mayRead s who = true → (who = .host → HostOpen s) →
    exec (.rtcSecRead who) s = .next (({ s with bkd := { s.bkd with snap := s.bkd.snap.set (Requester.idx who) s.bkd.copy } }).emit
      (.reg who (s.bkd.copy.sec.zeroExtend 32)))) ∧
  (∀ (who : Requester) (s : State), mayRead s who = true → (who = .host → HostOpen s) → latchOf s who 0x100000 = none →
    ∃ t, exec (.aliasRead who 0x10F000) s = .next t ∧ t.out = .reg who (BitVec.ofNat 32 (dchVal s 0 0)) :: s.out ∧ t.dch = s.dch ∧
      t.glb.aliasDiff = (s.glb.aliasDiff || [1, 2, 3].any fun n => decide (dchVal s n 0 ≠ dchVal s 0 0))) ∧
  (∀ (off : BitVec 24) (v : Word) (s : State), s.boot.coreOut = true → s.glb.fil ≠ 0 →
    off ∈ [0x70030, 0x70034, 0x70038, 0x7003C, 0x70040, 0x70044] →
    exec (.registerWrite .firmware off v) s = .next { s with bkd := { s.bkd with transit := s.bkd.transit ++ [.alarm (off.toNat % 65536) v] } } ∧
    (s.holds 5 auMaintain = true →
      exec (.registerWrite .service off v) s = .next { s with bkd := { s.bkd with transit := s.bkd.transit ++ [.alarm (off.toNat % 65536) v] } })) ∧
  (∀ (v : Word) (s : State), HostOpen s → exec (.registerWrite (.host false) 0x60004 v) s =
    .next { s with pwr := { s.pwr with fault := s.pwr.fault &&& ~~~(v.truncate 16) } })
/-- A frame that fails a check of R72 draws the error frame of its reason, and one that passes is taken; a gap within a frame
draws reason 1, a byte run without SYNC reason 7 and an over-long LENGTH reason 2, while the port is alive. SVC_EN is the
filtered level of its pin. A telemetry refresh stores the ten words; a Read Word at the target's own address answers one of
them whole, low byte first, with its PEC where the host clocks one, and an unlisted code is not acknowledged. A configuration
request is answered with retry status until firmware is ready or the time of R504 has passed; then a read returns its dword of
the configuration space. -/
def Obligations.SidebandAnswers : Prop :=
  (∀ (f : List Byte) (s : State), svcAlive s = true → svcRefusal s f = none → exec (.svcFrame f) s = .next (svcTake f s)) ∧
  (∀ (f : List Byte) (r : Nat) (s : State), svcAlive s = true → svcRefusal s f = some r →
    exec (.svcFrame f) s = .next (s.emit (.svc (svcFrame 0x07 [BitVec.ofNat 8 r])))) ∧
  (∀ s : State, svcAlive s = true →
    exec .svcFrameTimeout s = .next (s.emit (.svc (svcFrame 0x07 [1]))) ∧
    exec .svcSyncError s = .next (s.emit (.svc (svcFrame 0x07 [7]))) ∧
    ∀ len : BitVec 16, len.toNat > 4160 → exec (.svcLengthError len) s = .next (s.emit (.svc (svcFrame 0x07 [2])))) ∧
  (∀ (l : Bool) (s : State), exec (.svcEnChange l) s = .next { s with host := { s.host with svc := { s.host.svc with en := l } } }) ∧
  (∀ (j p : BitVec 16) (s : State),
    exec (.telemetryRefresh j p) s = .next { s with host := { s.host with tele := { s.host.tele with words := teleWords j p s } } }) ∧
  (∀ (code : Byte) (pec : Bool) (s : State) (h : code.toNat < 10), s.boot.coreOut = true → s.pwr.rail[7].inWin = true →
    s.host.tele.ready = true → code.toNat ≠ 0 →
    exec (.smbusReadWord ⟨smbAddr s, code, true, pec⟩) s = .next (s.emit (.smb true true
      (leBytes 2 s.host.tele.words[code.toNat].toNat ++ if pec then [smbPec (smbAddr s) code s.host.tele.words[code.toNat]] else [])))) ∧
  (∀ (code : Byte) (pec : Bool) (s : State), s.boot.coreOut = true → s.pwr.rail[7].inWin = true → 10 ≤ code.toNat →
    exec (.smbusReadWord ⟨smbAddr s, code, true, pec⟩) s = .next (s.emit (.smb true false []))) ∧
  (∀ (req : BitVec 16) (dw : BitVec 10) (s : State), s.boot.coreOut = true →
    exec (.configRequest ⟨req, dw, none⟩) s = .next (s.emit (if s.glb.fil ≠ 0 ∨ s.now ≥ max s.boot.relAt s.boot.perstAt + 800000000
      then .cfgOk req (cfgDword s.host.cfg dw.toNat) else .crs req))) ∧
  (∀ (req : BitVec 16) (dw : BitVec 10) (be : BitVec 4) (v : Word) (s : State), s.boot.coreOut = true → s.glb.fil ≠ 0 →
    exec (.configRequest ⟨req, dw, some (be, v)⟩) s = .next ((cfgWrite ⟨req, dw, some (be, v)⟩ be v s).emit (.cfgOk req 0)))
/-- Served commands: GLB_IDENTIFY answers the identity; AUTH_NARROW answers the live mask it will leave and takes effect once
its completion is written; AUTH_POLICY_WRITE stores the three copies of the policy record and leaves the live policy; a good
MBX_QUEUE_CREATE of an ABSENT mailbox makes it ACTIVE; MBX_QUEUE_DELETE of a mailbox with nothing outstanding, or with ABORT,
deletes it; MBX_EVENT_MASK answers the old mask of the arrival mailbox and sets the new one; SVC_BAUD keeps the rate that
takes effect once its completion is sent. -/
def Obligations.HostCommands : Prop :=
  (∀ (d : Desc) (s : State), Served glbIdentifyInfo d [0] s →
    exec (.glbIdentify d) s = .next (finish d St.ok
      (pack [(0, 0x81601E63), (32, 0xB1), (40, s.glb.fil.toNat % 2 ^ 16), (56, s.glb.chipid.toNat)]) s)) ∧
  (∀ (d : Desc) (s : State), Served authNarrowInfo d [0] s → d.p 16 1 ≤ 11 → portAlive s d.port = true →
    exec (.authNarrow d) s = .next (finish d St.ok
      (s.liveAuth (Fin.ofNat 12 (d.p 16 1)) &&& ~~~(BitVec.ofNat 6 (d.p 17 1))).toNat
      { s with host := { s.host with
        narrow := s.host.narrow ++ [(d.port, d.tag, Fin.ofNat 12 (d.p 16 1), BitVec.ofNat 6 (d.p 17 1))] } })) ∧
  (∀ (d : Desc) (s : State), Served authPolicyWriteInfo d [0] s →
    exec (.authPolicyWrite d) s = .next (storing d 0x0111 (triple 5 0x02 0 ((paramBytes d).take 11 ++ [0]) .policy) 0 s)) ∧
  (∀ (d : Desc) (q : Fin 4) (s : State), Served mbxQueueCreateInfo d [q.val] s →
    queueBad ((paramBytes d).take 32) = none → s.host.mq[q].state = .absent →
    exec (.mbxQueueCreate d) s = .next (finish d St.ok 0 (activate q ((paramBytes d).take 32) s))) ∧
  (∀ (d : Desc) (q : Fin 4) (s : State), Served mbxQueueDeleteInfo d [q.val] s → s.host.mq[q].state ≠ .absent →
    (d.bit 16 0 = true ∨ s.host.mq[q].cmds.any (fun c => !c.orphan) = false) →
    exec (.mbxQueueDelete d) s = .next (settleWeir (finish d St.ok 0 (deleteMq q s)))) ∧
  (∀ (d : Desc) (q : Fin 4) (s : State), Served mbxEventMaskInfo d [0] s → d.port.val = q.val →
    exec (.mbxEventMask d) s = .next (finish d St.ok s.host.mq[q].mask.toNat
      (onMq s q fun m => { m with mask := BitVec.ofNat 32 (d.p 16 4) &&& 0x7FFFE }))) ∧
  (∀ (d : Desc) (s : State), Served svcBaudInfo d [0] s → d.p 16 1 ≤ 2 →
    exec (.svcBaud d) s = .next (finish d St.ok 0
      { s with host := { s.host with svc := { s.host.svc with baudNext := some (d.p 16 1) } } }))
/-- For every class and one named instance: UNIT_QUERY answers the nibbles of R61; UNIT_POWER_UP takes OFF to STOPPED, a
tributary port taking its stored configuration, where the instance is no Confluence port without a partner;
UNIT_START of a STOPPED instance whose configuration checks starts it; UNIT_STOP drains or aborts a RUNNING instance that its
chapter lets stop; UNIT_CLEAR_FAULT takes FAULTED to STOPPED; UNIT_POWER_DOWN takes STOPPED to OFF. A drain ends STOPPED with
the work in flight or with its time-out, and an internal fault ends work in flight and leaves the instance FAULTED. -/
def Obligations.LifecycleMoves : Prop :=
  (∀ (cc : LClass) (ts : List Nat) (d : Desc) (s : State), Served (unitQueryInfo cc) d ts s →
    exec (.unitQuery cc d) s = .next (finish d St.ok
      (pack ((List.range 16).map fun i => (4 * i, if i < cc.size then lifeNibble s cc ts i else 0xF))) s)) ∧
  (∀ (cc : LClass) (i : Nat) (d : Desc) (s : State), Served (unitPowerUpInfo cc) d [i] s → s.lifeOf cc i = .off →
    (cc = .conf → (wired s).contains (Fin.ofNat 3 i) = true) →
    exec (.unitPowerUp cc d) s = .next (finish d St.ok (maskOf [i])
      ((if cc = .trib then reloadTrib (Fin.ofNat 12 i) s else s).toLife (unitAt cc i) .stopped))) ∧
  (∀ (cc : LClass) (i : Nat) (d : Desc) (s : State), Served (unitStartInfo cc) d [i] s → s.lifeOf cc i = .stopped →
    (startUnit cc i s).1 = none →
    exec (.unitStart cc d) s = .next (settleWeir (finish d St.ok (maskOf [i]) (startUnit cc i s).2))) ∧
  (∀ (cc : LClass) (i : Nat) (d : Desc) (s : State), Served (stopInfo cc) d [i] s → d.p 16 1 = 0 →
    s.lifeOf cc i = .running → stopBad s cc i = none →
    exec (.unitStopDrain cc d) s = .next (running d
      (.drain [cc.base + i] [i] []) (maskOf [i])
      (drainBegin cc i (d.p 20 4) s))) ∧
  (∀ (cc : LClass) (i : Nat) (d : Desc) (s : State), Served (stopInfo cc) d [i] s → d.p 16 1 = 1 →
    s.lifeOf cc i = .running → stopBad s cc i = none →
    exec (.unitStopAbort cc d) s = .next (settleWeir (finish d St.ok (maskOf [i]) (abortTo cc i St.aborted s)))) ∧
  (∀ (cc : LClass) (i : Nat) (d : Desc) (s : State), Served (unitClearFaultInfo cc) d [i] s → s.lifeOf cc i = .faulted →
    exec (.unitClearFault cc d) s = .next (settleWeir (finish d St.ok (maskOf [i]) (clearUnit cc i s)))) ∧
  (∀ (cc : LClass) (i : Nat) (d : Desc) (s : State), Served (unitPowerDownInfo cc) d [i] s → s.lifeOf cc i = .stopped →
    downBad s cc i = none →
    exec (.unitPowerDown cc d) s = .next (finish d St.ok (maskOf [i])
      ((if cc = .trib then idlePins (Fin.ofNat 12 i) false s else s).toLife (unitAt cc i) .off))) ∧
  (∀ (u : Fin 50) (s : State), s.life[u].life = .draining → unitIdle s (classOf u).1 (classOf u).2 = true →
    exec (.drainComplete u) s = .next (settleWeir (drainEnds u St.ok
      (stoppedNow (classOf u).1 ((drainFinish (classOf u).1 (classOf u).2 s).toLife u .stopped))))) ∧
  (∀ (u : Fin 50) (s : State), s.life[u].life = .draining → s.life[u].drainMs ≠ 0 →
    exec (.drainTimeout u) s = .next (settleWeir (abortTo (classOf u).1 (classOf u).2 St.timeout s))) ∧
  (∀ (u : Fin 50) (code : Word) (s : State), s.life[u].life = .running →
    (classOf u).1 ≠ .dch → (classOf u).1 ≠ .nst → ((classOf u).1 ≠ .seq ∨ code ≠ 7) →
    exec (.unitInternalFault u code) s = .next (settleWeir (unitFault u code.toNat (abortUnit (classOf u).1 (classOf u).2 s))))
/-- A command that no accepted entry of its mailbox stands for, on a port where it can arrive: a form error ends it with
ST_BAD_PARAM, else an outstanding TAG with ST_CONFLICT, else want of authority with ST_AUTHORITY, each as a finished command
of its port with RESULT 0, a refusal for authority being counted and reported besides; and nothing of the retention state, the
store, the units or the lifecycle states changes. -/
def Obligations.FirstFailingCheckDecides : Prop :=
  ∀ (i : CmdInfo) (d : Desc) (rng : Bool) (f : List Nat → State → State) (s : State),
    isAccepted s d i.op = false → canArrive s i.op d.port = true →
    (formOk i d = false → command i d rng f s = recordRefused i.op d St.badParam s) ∧
    (formOk i d = true → tagOutstanding s d = true → command i d rng f s = recordRefused i.op d St.conflict s) ∧
    (formOk i d = true → tagOutstanding s d = false → s.holds d.port i.auth = false →
      command i d rng f s = recordRefused i.op d St.authority s) ∧
    ∀ st, (recordRefused i.op d st s).ret = s.ret ∧ (recordRefused i.op d st s).store = s.store ∧
      (recordRefused i.op d st s).slu = s.slu ∧ (recordRefused i.op d st s).life = s.life ∧
      (recordRefused i.op d st s).dch = s.dch ∧ (recordRefused i.op d st s).trib = s.trib ∧
      (recordRefused i.op d st s).seqr = s.seqr ∧ (recordRefused i.op d st s).pwr = s.pwr ∧
      (recordRefused i.op d st s).bkd = s.bkd ∧ (recordRefused i.op d st s).ldg = s.ldg
/-- A served UNIT_POWER_UP of distinct instances: its RESULT mask names exactly the instances that were OFF and, of Confluence
ports, have a partner (log entry 191); its status is ST_OK where all are such, ST_PARTIAL where some are, and ST_UNIT_STATE where
none is; every such instance is STOPPED afterwards, and every other lifecycle instance keeps its state. -/
def Obligations.MultiTargetPowerUp : Prop :=
  ∀ (cc : LClass) (ts : List Nat) (d : Desc) (s : State), Served (unitPowerUpInfo cc) d ts s → ts.Nodup →
    (∀ i ∈ ts, i < cc.size) → ts ≠ [] →
    let ok := ts.filter fun i => s.lifeOf cc i = .off ∧ (cc = .conf → (wired s).contains (Fin.ofNat 3 i) = true)
    let t := ok.foldl (fun s i => (if cc = .trib then reloadTrib (Fin.ofNat 12 i) s else s).toLife (unitAt cc i) .stopped) s
    exec (.unitPowerUp cc d) s = .next (finish d
      (if ok.length = ts.length then St.ok else if ok = [] then St.unitState else St.partialDone) (maskOf ok) t) ∧
    ∀ u : Fin 50, t.life[u].life =
      if u ∈ ok.map (unitAt cc) then .stopped else s.life[u].life
/-- A descriptor fetched or received whose form is good and whose TAG is outstanding on its own mailbox is recorded as a
finished command with that TAG and ST_CONFLICT, and nothing else of the state changes; a TAG outstanding on another mailbox
only is no conflict, and the command is accepted, next in the order of acceptance. -/
def Obligations.DuplicateTagConflicts : Prop :=
  ∀ (i : CmdInfo) (d : Desc) (op : Nat) (inl : List Byte) (s : State), infoOf op = some i → formOk i d = true →
    ((cmdsOf s d.port).any (fun c => c.tag = d.tag ∧ !c.orphan) = true → portAlive s d.port = true →
      takeDesc d op inl s = onCmds s d.port fun cs => cs ++
        [{ newCmd d op s.host.accepts [] with phase := .finished, status := 0x010B }]) ∧
    ((cmdsOf s d.port).any (fun c => c.tag = d.tag ∧ !c.orphan) = false → s.holds d.port i.auth = true →
      takeDesc d op inl s = onCmds { s with host := { s.host with accepts := s.host.accepts + 1 } } d.port fun cs => cs ++
        [newCmd d i.op s.host.accepts inl])
/-- Served commands of a chip that is not STANDBY. SEG_QUERY answers the entry. SEG_SET_CLASS of a run that passes every check
empties each segment and gives it the new entry, and waits for its marker to be durable; SEG_SET_FLAGS changes RETENTIVE and
PRIO only. SEG_LOAD_BEGIN opens an EMPTY segment; SEG_LOAD on an OPEN one hands its bytes up to the first poisoned one to FP1 and
runs until they are applied; SEG_SEAL of unpoisoned lines places a record for each WRITTEN line and runs until those are durable, the marker not yet placed;
SEG_SHADOW_SET stores the next pool size. -/
def Obligations.SegmentCommands : Prop :=
  (∀ (d : Desc) (g : Nat) (s : State), Served segQueryInfo d [g] s →
    exec (.segQuery d) s = .next (finish d St.ok
      (pack [(0, (s.seg g).word.toNat), (32, if (s.seg g).sealed then (s.seg g).crc.toNat else 0)]) s)) ∧
  (∀ (d : Desc) (g : Nat) (s : State), Served segSetClassInfo d [g] s → s.mir.role ≠ .standby → countOk d = true →
    firstBad (classBad s (ownerFits d) (newEntry d)) (runOf g (d.p 16 4)) = none →
    capacityBad s (newEntry d) (runOf g (d.p 16 4)) = none →
    exec (.segSetClass d) s = .next (settleWeir (untilDurable d 0 (dueClass g (runOf g (d.p 16 4)) (newEntry d) (fun k => s.seg k)
      (serveReads (checkCapacity (placeMarker g (runOf g (d.p 16 4)).length true
        ((runOf g (d.p 16 4)).foldl (fun s k => (emptySegment k s).setSeg k (newEntry d)) s)))))))) ∧
  (∀ (d : Desc) (g : Nat) (s : State), Served segSetFlagsInfo d [g] s → s.mir.role ≠ .standby → countOk d = true →
    firstBad (fun k => if s.segExists k then none else some St.badTarget) (runOf g (d.p 16 4)) = none →
    ∃ t n, t = (runOf g (d.p 16 4)).foldl (fun s k => s.setSeg k { s.seg k with retentive := d.bit 22 0, prio := d.bit 22 1 }) s ∧
      n = (runOf g (d.p 16 4)).length ∧
      exec (.segSetFlags d) s = .next (untilDurable d 0
        (((runsOf t g n).filter fun r => !(runOf r.1 r.2.1).all fun k => sameEntry (s.seg k) (t.seg k)).foldl
          (fun s r => dueSegment r.1 r.2.1 false s) (placeRuns g n t)))) ∧
  (∀ (d : Desc) (g : Nat) (s : State), Served segLoadBeginInfo d [g] s → s.mir.role ≠ .standby →
    (s.seg g).cls = .constant → (s.seg g).sealed = false → (s.seg g).loading = false → d.bit 16 0 = false →
    exec (.segLoadBegin d) s = .next (settleWeir (finish d St.ok 0
      (s.setSeg g { s.seg g with loading := true, loadLost := false })))) ∧
  (∀ (d : Desc) (buf : List Byte) (g : Nat) (s : State), Served segLoadInfo d [g] s → s.mir.role ≠ .standby →
    1 ≤ d.p 28 4 → d.p 28 4 ≤ 1048576 → d.p 24 4 + d.p 28 4 ≤ segBytes → (bufferOf s d 0x0314 buf).length = d.p 28 4 →
    (s.seg g).cls = .constant → (s.seg g).loading = true →
    (∀ t, takeWrite 1 (g * segBytes + d.p 24 4) ((bufferOf s d 0x0314 buf).map some) none true s = .accepted t →
      exec (.segLoad d buf none) s = .next (running d (.load s.ret.order t.ret.order St.ok) (d.p 28 4) t)) ∧
    ∀ k t, 1 ≤ k → k < d.p 28 4 →
      takeWrite 1 (g * segBytes + d.p 24 4) (((bufferOf s d 0x0314 buf).take k).map some) none true s = .accepted t →
      exec (.segLoad d buf (some k)) s = .next (running d (.load s.ret.order t.ret.order St.poisoned) k t)) ∧
  (∀ (a : Nat) (bytes : List WByte) (s : State), (s.lineSeg (lineOf a)).cls = .constant → waitingOn s 1 < 32 → admits s 1 0 = true →
    takeWrite 1 a bytes none true s = .accepted (addPieces 1 none none none true (splitWrite a bytes) s)) ∧
  (∀ (d : Desc) (g : Nat) (s : State), Served segSealInfo d [g] s → s.mir.role ≠ .standby →
    (s.seg g).cls = .constant → (s.seg g).loading = true → loadsOut s g = false →
    segPoisoned s g = false → (d.bit 16 0 = true → d.p 20 4 = (segCrc s g).toNat) →
    ∃ u, exec (.segSeal d) s = .next (running d (.sealing g u.store.placed false) (segCrc s g).toNat u) ∧
      u = ((s.ret.lines.filter fun p => segOf p.1 = g ∧ p.2.state = .written).map (·.1)).foldl (fun s l =>
          placeSlot (.line ⟨3, l, (s.lineValue l).2, (s.lineValue l).1⟩ (some (s.lineAt l).serial)) s)
        (s.setSeg g { s.seg g with crc := segCrc s g })) ∧
  (∀ (d : Desc) (s : State), Served segShadowSetInfo d [0] s → s.mir.role ≠ .standby → 1 ≤ d.p 16 1 → d.p 16 1 ≤ 32 →
    shadowFits s (d.p 16 1) = true →
    exec (.segShadowSet d) s = .next (storing d 0x0316 [setting 0x0316 0xFF (paramBytes d)] 0 s))
/-- WIN_SET of a good descriptor on a live port waits for its completion to be written; WIN_QUERY answers a descriptor. With
the host stream open, a BAR2 access that fails a check of R100 traps with its reason, a read with Unsupported Request, and one
that passes and lies on this chip is taken as a write of FP0, dropped or held, or taken as a read of the host. A poisoned write
is logged and then treated alike. -/
def Obligations.WindowsAndBar2 : Prop :=
  (∀ (d : Desc) (s : State), Served winSetInfo d [0] s → winOk s d = true → portAlive s d.port = true →
    exec (.winSet d) s = .next (finish d St.ok 0 { s with host := { s.host with
      winDue := s.host.winDue ++ [(d.port, d.tag, Fin.ofNat 64 (d.p 16 1), windowOf d)] } })) ∧
  (∀ (d : Desc) (s : State), Served winQueryInfo d [0] s → d.p 16 1 < 64 →
    exec (.winQuery d) s = .next (finish d St.ok (pack [(0, (s.ret.windows[Fin.ofNat 64 (d.p 16 1)]).base.toNat),
      (40, (s.ret.windows[Fin.ofNat 64 (d.p 16 1)]).access.toNat), (44, (s.ret.windows[Fin.ofNat 64 (d.p 16 1)]).classes.toNat),
      (48, (s.ret.windows[Fin.ofNat 64 (d.p 16 1)]).ctxMask.toNat)]) s)) ∧
  (∀ (off : BitVec 36) (req : BitVec 16) (bytes : List WByte) (po : Bool) (r s : State), r.boot.coreOut = true →
    s = (if po then gotPoison r else r) → HostOpen s →
    windowBad s off true = none → windowAddr s off / 2 ^ 38 = s.slot →
    standbyDrops s (lineOf (localOf (windowAddr s off))) = false →
    exec (.bar2Write off req bytes po) r = .next (settleWeir
      (match takeWrite 0 (localOf (windowAddr s off)) bytes (tlpPoison po) false { s with free := s.free + 1 } with
       | .accepted t => t
       | .dropped t => t
       | .held w => holdWrite ⟨0, localOf (windowAddr s off), bytes, tlpPoison po, s.now, s.ret.order, none, some (off, req)⟩ w s))) ∧
  (∀ (off : BitVec 36) (req : BitVec 16) (len : Nat) (s : State), HostOpen s → windowBad s off false = none →
    windowAddr s off / 2 ^ 38 = s.slot →
    exec (.bar2Read off req len) s = .next (settleWeir
      (takeRead (.host req) 0 (localOf (windowAddr s off)) len { s with free := s.free + 1 }))) ∧
  (∀ (off : BitVec 36) (req : BitVec 16) (bytes : List WByte) (len r : Nat) (s : State), HostOpen s →
    (windowBad s off true = some r → tlpWaits s (.write off req bytes false) = false →
      exec (.bar2Write off req bytes false) s = .next (settleWeir (windowTrap r true off req { s with free := s.free + 1 }))) ∧
    (windowBad s off false = some r → tlpWaits s (.read off req len) = false →
      exec (.bar2Read off req len) s = .next (settleWeir (gaveUr req (windowTrap r false off req { s with free := s.free + 1 })))))
/-- A write of a port that may write there, at an address of this chip that exists and outside a save, is offered to the
retention engine, a write of firmware on FP1 likewise for its command, poisoned where the buffer that holds its data does not
correct, and a read is taken after the errors it meets. At an address its port does not reach no access is made; firmware's access
to another chip's slot that is reachable leaves on the link to it. A port's oldest piece with nothing in its way is applied, and a
load whose pieces are then all applied completes. -/
def Obligations.FabricAccess : Prop :=
  (∀ (fp : Fin 23) (a : BitVec 40) (bytes : List WByte) (buf : BufRead) (s : State), s.here a.toNat = true →
    s.slu.phase = .idle → portMayWrite s fp (localOf a.toNat) = true →
    exec (.fabricWriteAccept (.port fp) a bytes buf) s = .next (settleWeir (offerWrite fp (localOf a.toNat) bytes
      (if buf.bad then some 5 else none) (bufferErrors buf s)))) ∧
  (∀ (p : Fin 12) (tag : BitVec 16) (a : BitVec 40) (bytes : List WByte) (buf : BufRead) (s : State), s.here a.toNat = true →
    s.slu.phase = .idle →
    exec (.fabricWriteAccept (.firmware p tag) a bytes buf) s = .next (settleWeir (firmwareWrite p tag (localOf a.toNat) bytes
      (if buf.bad then some 5 else none) (bufferErrors buf s)))) ∧
  (∀ (fp : Fin 23) (a : BitVec 40) (len : Nat) (s : State), s.here a.toNat = true →
    exec (.fabricRead fp a len ⟨0, 0, 0, 0⟩ 0) s = .next (settleWeir (takeRead .fabric fp (localOf a.toNat) len s))) ∧
  (∀ (fp : Fin 23) (a : BitVec 40) (bytes : List WByte) (buf : BufRead) (len : Nat) (words : MetaRead) (ue : BitVec 512)
    (s : State), s.here a.toNat = false → fp ≠ 1 ∨ goesOut s a.toNat = false →
    exec (.fabricWriteAccept (.port fp) a bytes buf) s = .next s ∧
    exec (.fabricRead fp a len words ue) s = .next s) ∧
  (∀ (p : Fin 12) (tag : BitVec 16) (a : BitVec 40) (bytes : List WByte) (buf : BufRead) (len : Nat) (words : MetaRead)
    (ue : BitVec 512) (s : State), s.here a.toNat = false → goesOut s a.toNat = true → s.slu.phase = .idle →
    exec (.fabricWriteAccept (.firmware p tag) a bytes buf) s = .next (sendWrites a.toNat bytes buf.bad true (bufferErrors buf s)) ∧
    exec (.fabricRead 1 a len words ue) s = .next (remoteRead a.toNat len .fabric s)) ∧
  (∀ (fp : Fin 23) (p : Piece) (rest : List Piece) (s : State), portPieces s fp = p :: rest → p.wait = .ready →
    behindOther s p = false → dchDead s (channelOf s p.line) = false → dchRunning s (channelOf s p.line) = true →
    obstacle s p = .ready →
    exec (.lineWriteApply fp) s = .next (settleWeir
      (if fp = 1 then wakeLoads (applyPiece p (dropPiece p s)) else applyPiece p (dropPiece p s))))
/-- Whatever the condition of a CONSTANT segment of this chip, a BAR2 write that reaches it through an enabled slot within its
length traps: with reason 3 where CLASSES excludes CONSTANT, else with reason 4 where the window is read-only, else with
reason 5, and changes no line and no byte of working memory. A read through a window that admits CONSTANT does not trap. -/
def Obligations.ConstantSegmentsTakeNoBar2Write : Prop :=
  ∀ (off : BitVec 36) (req : BitVec 16) (bytes : List WByte) (po : Bool) (s : State), HostOpen s →
    (windowAt s off).access ≠ 0 → off.toNat % 2 ^ 30 < (windowAt s off).len →
    windowAddr s off / 2 ^ 38 = s.slot → s.here (windowAddr s off) = true →
    (s.lineSeg (lineOf (localOf (windowAddr s off)))).cls = .constant →
    (windowBad s off true = some (if (windowAt s off).classes.getLsbD 3 = false then 3
      else if (windowAt s off).access = 1 then 4 else 5)) ∧
    (∃ t, exec (.bar2Write off req bytes po) s = .next t ∧ t.ret.lines = s.ret.lines ∧ t.ret.dram = s.ret.dram ∧
      t.ret.shadow = s.ret.shadow ∧ t.ret.writes = s.ret.writes ∧ t.ret.held = s.ret.held) ∧
    ((windowAt s off).classes.getLsbD 3 = true → windowBad s off false = none)
/-- A segment exists exactly when its number is below SEG_USABLE, and a segment command whose INSTANCE names no segment has no
target, so that it completes with ST_BAD_TARGET once it is past the checks before. -/
def Obligations.SegmentsBelowUsable : Prop :=
  (∀ (g : Nat) (s : State), s.segExists g = true ↔ g < s.usable) ∧
  (∀ (i : CmdInfo) (d : Desc) (rng : Bool) (f : List Nat → State → State) (s : State), i.sel = .segment →
    isAccepted s d i.op = true → fenced (cmdsOf s d.port) d.tag = false → readyFor s i = true → d.sel = 0 →
    s.usable ≤ d.inst.toNat → command i d rng f s = finish d St.badTarget 0 s) ∧
  (∀ i ∈ [segQueryInfo, segSetClassInfo, segSetFlagsInfo, segLoadBeginInfo, segLoadInfo, segSealInfo], i.sel = .segment)
/-- Emptying a segment leaves every line of it NEVER and no accepted write to it, and leaves every line and every home byte
outside it, and every accepted write outside it, as they were. -/
def Obligations.EmptyingASegment : Prop :=
  ∀ (g l : Nat) (s : State), mwf Line.never s.ret.lines = true → mwf 0 s.ret.dram = true →
    (segOf l = g → (emptySegment g s).lineAt l = Line.never ∧ (emptySegment g s).homeBytes l = List.replicate 256 0 ∧
      ∀ p ∈ (emptySegment g s).ret.writes, p.line ≠ l) ∧
    (segOf l ≠ g → (emptySegment g s).lineAt l = s.lineAt l ∧ (emptySegment g s).homeBytes l = s.homeBytes l ∧
      ∀ p ∈ s.ret.writes, p.line = l → p ∈ (emptySegment g s).ret.writes)
/-- Served commands with one target, on the context's home, on a chip that is not STANDBY, the context not CLOSING. CTX_QUERY,
CTX_LINE_QUERY and COPY_CONFIG answer or store; CTX_CONFIG of an IDLE context stores the settings and clears the cause;
CTX_START of an IDLE and CTX_RESUME of a released context arm the watchdog and activate the layout; CTX_CLOSE and CTX_PAUSE
CLOSE ask for a close, CTX_PAUSE DISCARD and CTX_ABANDON for an abandon of cause COMMAND; CTX_STOP returns a PAUSED or
ABANDONED context to IDLE with no layout. -/
def Obligations.ContextCommands : Prop :=
  (∀ (d : Desc) (n : Nat) (s : State), Served ctxQueryInfo d [n] s →
    exec (.ctxQuery d) s = .next (finish d St.ok (pack [(0, (s.ctxAt (fin16 n)).epoch), (48, (s.ctxAt (fin16 n)).mode.code),
      (56, (s.ctxAt (fin16 n)).cause.toNat), (60, b2n (s.ctxAt (fin16 n)).released)]) s)) ∧
  (∀ (d : Desc) (s : State), Served ctxLineQueryInfo d [0] s → s.here (d.p 16 8) = true →
    hostBehind s (lineOf (localOf (d.p 16 8))) = false → s.unbuilt (segOf (lineOf (localOf (d.p 16 8)))) = false →
    exec (.ctxLineQuery d) s = .next (finish d St.ok (pack [(0, (metaWord (s.lineAt (lineOf (localOf (d.p 16 8))))).toNat),
      (32, (s.eff (lineOf (localOf (d.p 16 8)))).1.code), (40, b2n (s.eff (lineOf (localOf (d.p 16 8)))).2)]) s)) ∧
  (∀ (d : Desc) (s : State), Served copyConfigInfo d [0] s → 1 ≤ d.p 16 1 → d.p 16 1 ≤ 16 →
    exec (.copyConfig d) s = .next (finish d St.ok 0
      (s.onCopy fun k => { k with batch := d.p 16 1, stallLimit := d.p 18 2 }))) ∧
  (∀ (d : Desc) (n : Nat) (s : State), Served ctxConfigInfo d [n] s → ctxConfigOk d = true → s.mir.role ≠ .standby →
    actsHome s (fin16 n) = true → (s.ctxAt (fin16 n)).mode = .idle → s.scan.ctx[fin16 n].swap = none →
    exec (.ctxConfig d) s = .next (finish d St.ok (maskOf [n]) (ctxChanged (fin16 n) (s.onCtx (fin16 n) fun x =>
      { x with policy := BitVec.ofNat 2 (d.p 16 1), rank := BitVec.ofNat 4 (d.p 17 1), minPeriod := d.p 18 2, wdog := d.p 20 3,
               bankSeg := d.p 24 4, bankCount := d.p 28 2, cause := 0 })))) ∧
  (∀ (d : Desc) (n : Nat) (s : State), Served ctxStartInfo d [n] s → s.mir.role ≠ .standby → actsHome s (fin16 n) = true →
    (s.ctxAt (fin16 n)).mode = .idle → (s.ctxAt (fin16 n)).epoch < terminalEpoch → bankOk s (fin16 n) = true →
    exec (.ctxStart d) s = .next (settleWeir (finish d St.ok (maskOf [n]) (activateLayout (fin16 n) (ctxChanged (fin16 n)
      (toMode (fin16 n) .running (s.onCtx (fin16 n) fun x => { x with armed := s.now }))))))) ∧
  (∀ (d : Desc) (n : Nat) (s : State), Served ctxResumeInfo d [n] s → s.mir.role ≠ .standby → actsHome s (fin16 n) = true →
    ((s.ctxAt (fin16 n)).mode = .paused ∨ (s.ctxAt (fin16 n)).mode = .abandoned) → (s.ctxAt (fin16 n)).released = true →
    (s.ctxAt (fin16 n)).epoch < terminalEpoch → bankOk s (fin16 n) = true →
    exec (.ctxResume d) s = .next (settleWeir (finish d St.ok (maskOf [n]) (activateLayout (fin16 n) (ctxChanged (fin16 n)
      (toMode (fin16 n) .running (s.onCtx (fin16 n) fun x => { x with armed := s.now }))))))) ∧
  (∀ (d : Desc) (n : Nat) (s : State), Served ctxCloseInfo d [n] s → s.mir.role ≠ .standby → actsHome s (fin16 n) = true →
    (s.ctxAt (fin16 n)).mode ≠ .closing → (s.ctxAt (fin16 n)).mode ≠ .abandoned → atLimit s (fin16 n) = false →
    ((s.ctxAt (fin16 n)).mode = .running → tooSoon s (fin16 n) = false ∧
      (d.bit 18 0 = true → d.p 16 2 = (s.ctxAt (fin16 n)).epoch % 2 ^ 16)) →
    exec (.ctxClose d) s = .next (settleWeir (finish d St.ok (pack [(0, maskOf [n]), (32, (s.ctxAt (fin16 n)).epoch % 2 ^ 32)])
      (askClose (fin16 n) false none s)))) ∧
  (∀ (d : Desc) (n : Nat) (s : State), Served ctxPauseInfo d [n] s → s.mir.role ≠ .standby → actsHome s (fin16 n) = true →
    (s.ctxAt (fin16 n)).mode = .running → atLimit s (fin16 n) = false →
    (d.p 16 1 = 0 → tooSoon s (fin16 n) = false →
      exec (.ctxPause d) s = .next (settleWeir (finish d St.ok (maskOf [n]) (askClose (fin16 n) false (some .paused) s)))) ∧
    (d.p 16 1 = 1 →
      exec (.ctxPause d) s = .next (settleWeir (finish d St.ok (maskOf [n]) (askAbandon (fin16 n) 1 (some .paused) s))))) ∧
  (∀ (d : Desc) (n : Nat) (s : State), Served ctxAbandonInfo d [n] s → s.mir.role ≠ .standby → actsHome s (fin16 n) = true →
    atLimit s (fin16 n) = false → (s.ctxAt (fin16 n)).mode ≠ .closing → (s.ctxAt (fin16 n)).mode ≠ .abandoned →
    exec (.ctxAbandon d) s = .next (settleWeir (finish d St.ok (maskOf [n]) (askAbandon (fin16 n) 1 none s)))) ∧
  (∀ (d : Desc) (n : Nat) (s : State), Served ctxStopInfo d [n] s → s.mir.role ≠ .standby → actsHome s (fin16 n) = true →
    ((s.ctxAt (fin16 n)).mode = .paused ∨ (s.ctxAt (fin16 n)).mode = .abandoned) →
    exec (.ctxStop d) s = .next (finish d St.ok (maskOf [n]) (deactivate (fin16 n) (ctxChanged (fin16 n)
      (toMode (fin16 n) .idle s)))))
/-- With the host stream open, a CTXD write rings its doorbells, each closing its context when every check of R134 passes.
CLOSING ends once no write of a closed epoch waits. Aging gives a line of the oldest stamp its effective state, and ends with
the discard bit of the stamp clear; a switchover that a SWITCH frame asked for and aging held goes on then. A deferred close is taken when aging has ended, and CTX_AGE_WAIT is raised. The watchdog of
a RUNNING context abandons it with cause WATCHDOG. A swap that is not taken in time ends with ST_TIMEOUT. -/
def Obligations.ContextWork : Prop :=
  (∀ (ws : List (Fin 16 × Word)) (s : State), HostOpen s →
    exec (.ctxdClose ws) s = .next (settleWeir (ws.foldl (fun s p => doorbell p.1 p.2 s) s))) ∧
  (∀ (c : Fin 16) (w : Word) (s : State), (doorbellBad s c w = none → doorbell c w s = askClose c true none s) ∧
    ∀ r, doorbellBad s c w = some r →
      doorbell c w s = rejectClose c r true (if r = 4 then s.refuseAuth 4 c.val 0 else s)) ∧
  (∀ (c : Fin 16) (s : State), (s.ctxAt c).mode = .closing → s.conf.prep[c].phase = 0 →
    (∀ p ∈ s.ret.writes, ∀ e, p.epoch = some (c, e) → (s.ctxAt c).epoch ≤ e) → (s.ctxAt c).closeFrom = (s.ctxAt c).closeTo →
    exec (.closingEnd c) s = .next (s.onCtx c fun x => { x with
      mode := x.closeTo,
      closeLat := sat 16 (s.now - x.closeAt),
      closeMax := max x.closeMax (sat 16 (s.now - x.closeAt)) })) ∧
  (∀ (c : Fin 16) (line : Nat) (t : BitVec 8) (rest : List (BitVec 8)) (s : State), (s.ctxAt c).aging = t :: rest →
    stampOfEpoch (s.ctxAt c).epoch ≠ t → (s.lineSeg line).cls = .epoch → (s.lineSeg line).owner = c →
    (s.lineAt line).state = .openOver → (s.lineAt line).stamp = t →
    exec (.agingVisit c line) s = .next (settleWeir (s.setLine line { s.lineAt line with
      state := .committed, flip := (s.eff line).2, baseZero := false, stamp := 0 }))) ∧
  (∀ (c : Fin 16) (t : BitVec 8) (rest : List (BitVec 8)) (s : State), (s.ctxAt c).aging = t :: rest →
    (∀ p ∈ s.ret.lines, (s.lineSeg p.1).cls = .epoch → (s.lineSeg p.1).owner = c →
      (p.2.state = .opened ∨ p.2.state = .openOver) → p.2.stamp ≠ t) →
    s.mir.switchAsked ≠ some true → exec (.agingDone c) s = .next (s.onCtx c fun x => { x with
      aging := rest,
      discard := x.discard &&& ~~~(1#256 <<< t.toNat) })) ∧
  (∀ (c : Fin 16) (s : State), (agingDone c s).mir.switchAsked = some true → (agingDone c s).mir.role = .primary →
    switchWaits (agingDone c s) = false → exec (.agingDone c) s = .next (settleWeir (handOver (agingDone c s)))) ∧
  (∀ (c : Fin 16) (b : Bool) (next : Option CtxMode) (s : State), (s.ctxAt c).deferred = some (.close b next) →
    agingBlocks s c ((s.ctxAt c).epoch + 1) = false → actsHome s c = true →
    exec (.deferredCloseTaken c) s = .next (settleWeir ((beginClose c (next.getD (s.ctxAt c).mode) (s.onCtx c fun x => { x with deferred := none })).raise
      0x0413 c.val [(16, toUs (s.now - (s.ctxAt c).deferAt))]))) ∧
  (∀ (c : Fin 16) (s : State), s.glb.state ≠ 3 → (s.ctxAt c).mode = .running → (s.ctxAt c).wdog ≠ 0 →
    s.mir.role ≠ .standby → actsHome s c = true →
    exec (.ctxWatchdogExpire c) s = .next (settleWeir (askAbandon c 3 none s))) ∧
  (∀ (c : Fin 16) (w : Swap) (s : State), s.scan.ctx[c].swap = some w → w.epoch = none → w.timeout ≠ 0 →
    exec (.ctxSwapTimeout c) s = .next (wake (fun k => match k with
      | .swap n => if n = c.val then .done St.timeout none else .go
      | _ => .go) (onScanCtx s c fun k => { k with swap := none })))
/-- COPY_BATCH takes up to BATCH copies of the next context in turn. COPY_DONE of a copy whose write waits counts it and lets
the write be applied. SETTLE of a COMMITTED (FLIP) line, with no copy queued and no save under way, moves its value and poison
home and frees its shadow line. A write that waits past the limit is reported. When the demand fault of a line ends within
a millisecond, the fault is gone, its time counts in SLU_FAULT_MAX, and reads of NAND for it are over. In a segment already built,
with a read or a partial write waiting for its value and the line UNRESTORED, the line is filled, what waited on the fault is served,
and waiting reads and writes go on, in that order; with the line no longer UNRESTORED the same happens without a fill. A row for a
line without a fault changes nothing. -/
def Obligations.CopierWork : Prop :=
  (∀ (k : Nat) (s : State), s.ret.copy.active = [] → k < 16 →
    (List.range 16).find? (fun n => s.ret.copy.queue.any fun q => q.1.val = (s.ret.copy.last.val + 1 + n) % 16) = some k →
    ∃ mine, mine = (s.ret.copy.queue.filter fun q => q.1.val = (s.ret.copy.last.val + 1 + k) % 16).take s.ret.copy.batch ∧
      exec .copyBatch s = .next (s.onCopy fun q => { q with
        last := Fin.ofNat 16 (s.ret.copy.last.val + 1 + k),
        active := mine,
        queue := q.queue.filter fun x => !mine.contains x })) ∧
  (∀ (line : Nat) (p : Piece) (s : State), s.ret.copy.active.any (fun q => q.2 = line) = true → channelTakes s line = true →
    s.ret.writes.find? (fun p => p.line = line ∧ p.wait = .copy) = some p →
    exec (.copyDone line) s = .next (settleWeir (serveReads (applyServed p.fp 64 (setPiece p .served (s.onCopy fun k =>
      { k with active := k.active.filter (fun q => q.2 ≠ line), copies := k.copies + 1,
               stallMax := max k.stallMax (sat 16 (s.now - p.since)) })))))) ∧
  (∀ (line : Nat) (s : State), s.ret.copy.queue = [] → s.ret.copy.active = [] → s.slu.phase = .idle →
    s.eff line = (.committed, true) → s.slu.covered.contains line = false → channelTakes s line = true → ∃ u,
    exec (.settle line) s = .next (settleWeir u) ∧
      u.lineAt line = { s.lineAt line with
        state := .committed, flip := false, stamp := 0, poison := (s.lineAt line).shPoison, valid := 15 } ∧
      u.ret.dram = mputs 0 s.ret.dram (line * 256) (s.shadowBytes line) ∧
      u.ret.shadow = mdrop s.ret.shadow (line * 256) (line * 256 + 256)) ∧
  (∀ (fp : Fin 23) (p : Piece) (s : State), s.mayRaise 0x0415 fp.val = true →
    s.ret.writes.find? (fun p => p.fp = fp ∧ p.wait = .copy ∧ s.now - p.since > s.ret.copy.stallLimit) = some p →
    exec (.copyStallLong fp) s = .next (s.raiseLim 0x0415 fp.val fp.val
      [(16, (s.lineSeg p.line).owner.val), (18, sat 16 (s.now - p.since))])) ∧
  (∀ (line : Nat) (bad : Bool) (f : FaultOp) (s s1 : State), s.slu.faults.find? (·.line = line) = some f →
    toUs (s.now - f.since) ≤ 1000 → s1 = readsOver (· == .fault line) (onSlu s fun x => { x with
      faults := x.faults.filter (fun g => g.line ≠ line), faultMax := sat 16 (max x.faultMax (toUs (s.now - f.since))) }) →
    s1.unbuilt (segOf line) = false → (s1.eff line).1 = .unrestored →
    (s1.slu.reads.any (fun r => (linesFrom r.addr r.len).contains line) || s1.ret.writes.any (fun p => p.line = line && !isFull p.bytes)) = true →
    exec (.demandFaultDone line bad) s = .next (settleWeir (serveReads
      (((fillLine true line bad s1).ret.writes.filter fun p => p.line = line ∧ p.wait = .fault).foldl (fun s p => applyServed p.fp 64 s)
        (serveReads (((fillLine true line bad s1).ret.writes.filter fun p => p.line = line ∧ p.wait = .fault).foldl
          (fun s p => setPiece p .served s) (fillLine true line bad s1))))))) ∧
  (∀ (line : Nat) (bad : Bool) (f : FaultOp) (s s1 : State), s.slu.faults.find? (·.line = line) = some f →
    toUs (s.now - f.since) ≤ 1000 → s1 = readsOver (· == .fault line) (onSlu s fun x => { x with
      faults := x.faults.filter (fun g => g.line ≠ line), faultMax := sat 16 (max x.faultMax (toUs (s.now - f.since))) }) →
    s1.unbuilt (segOf line) = false → (s1.eff line).1 ≠ .unrestored →
    exec (.demandFaultDone line bad) s = .next (settleWeir (serveReads
      ((s1.ret.writes.filter fun p => p.line = line ∧ p.wait = .fault).foldl (fun s p => applyServed p.fp 64 s)
        (serveReads ((s1.ret.writes.filter fun p => p.line = line ∧ p.wait = .fault).foldl (fun s p => setPiece p .served s) s1)))))) ∧
  (∀ (line : Nat) (bad : Bool) (s : State), s.slu.faults.find? (·.line = line) = none →
    exec (.demandFaultDone line bad) s = .next (settleWeir s))
/-- The effective state of a line of a context is that of the spec's computation, with the 8-bit difference of the open stamp
and the line's stamp; the line table after a close instant is the one before it, but for lines that the check of a swap the close takes brings in to
read the new bank (R261, R275); and the line table after an abandon instant is the one before it. -/
def Obligations.EffectiveStateOfALine : Prop :=
  (∀ (x : Ctx) (l : Line), effective x l =
    if l.state ≠ .opened ∧ l.state ≠ .openOver then (l.state, l.flip)
    else if BitVec.ofNat 8 x.epoch - l.stamp = 0 then (l.state, l.flip)
    else if x.discard.getLsbD l.stamp.toNat = true then
      (if l.state = .opened then (if l.baseZero = true then (.never, false) else (.unrestored, false))
       else (.committed, !l.flip))
    else (.committed, l.flip)) ∧
  (∀ (c : Fin 16) (src next : CtxMode) (s : State), 
    (closeNow c src next s).ret.lines = (swapTake c (s.ctxAt c).epoch (scanCommit c (s.ctxAt c).epoch s)).2.ret.lines) ∧
  (∀ (c : Fin 16) (src next : CtxMode) (s : State), (∀ w, s.scan.ctx[c].swap = some w → w.epoch.isSome = true) →
    (closeNow c src next s).ret.lines = s.ret.lines) ∧
  (∀ (c : Fin 16) (cause : Nat) (next : CtxMode) (s : State), (abandonNow c cause next s).ret.lines = s.ret.lines)
/-- A doorbell that passes every check, of a context that spans no other chip, for which no swap waits, and whose next stamp is
not under aging: the
context's committed epoch becomes the open one, the next epoch opens, the context is CLOSING and will be RUNNING; every EPOCH
line of it written in the open epoch is now COMMITTED where it was, every line of it of another stamp than the one that opens
keeps its effective state, and every line of another context or class keeps its own. -/
def Obligations.DoorbellCommitsTheOpenEpoch : Prop :=
  ∀ (c : Fin 16) (w : Word) (s : State), doorbellBad s c w = none → spanning s c = false →
    agingBlocks s c ((s.ctxAt c).epoch + 1) = false → (∀ p, s.scan.ctx[c].swap = some p → p.epoch.isSome = true) →
    ∃ t, doorbell c w s = t ∧
    (t.ctxAt c).commit = (s.ctxAt c).epoch ∧ (t.ctxAt c).epoch = (s.ctxAt c).epoch + 1 ∧ (t.ctxAt c).mode = .closing ∧
    (t.ctxAt c).closeTo = .running ∧ t.ret.dram = s.ret.dram ∧
    (∀ l, (s.lineSeg l).cls = .epoch → (s.lineSeg l).owner = c →
      ((s.lineAt l).state = .opened ∨ (s.lineAt l).state = .openOver) →
      (s.lineAt l).stamp = stampOfEpoch (s.ctxAt c).epoch →
      (s.ctxAt c).discard.getLsbD (s.lineAt l).stamp.toNat = false → t.eff l = (.committed, (s.lineAt l).flip)) ∧
    (∀ l, (s.lineSeg l).cls = .epoch → (s.lineSeg l).owner = c → (s.lineAt l).stamp ≠ stampOfEpoch (s.ctxAt c).epoch →
      (s.lineAt l).stamp ≠ stampOfEpoch ((s.ctxAt c).epoch + 1) → t.eff l = s.eff l) ∧
    (∀ l, ((s.lineSeg l).cls ≠ .epoch ∨ (s.lineSeg l).owner ≠ c) → t.eff l = s.eff l)
/-- The abandon instant of an epoch before the terminal one: the committed epoch stays, the next epoch opens, and the cause is
recorded; every EPOCH line of the context written in the open epoch has the value it had at the last close (an OPEN line is
NEVER or UNRESTORED, an OPEN_OVER_COMMITTED line COMMITTED in its other copy); lines of other stamps than that and the one that
opens, and of other contexts and classes, keep their effective states; and no home byte changes. -/
def Obligations.AbandonDiscardsTheOpenEpoch : Prop :=
  ∀ (c : Fin 16) (cause : Nat) (next : CtxMode) (s : State), (s.ctxAt c).epoch < terminalEpoch → ∃ t,
    abandonNow c cause next s = t ∧
    (t.ctxAt c).commit = (s.ctxAt c).commit ∧ (t.ctxAt c).epoch = (s.ctxAt c).epoch + 1 ∧ (t.ctxAt c).mode = next ∧
    (t.ctxAt c).cause = BitVec.ofNat 3 cause ∧ t.ret.dram = s.ret.dram ∧
    (∀ l, (s.lineSeg l).cls = .epoch → (s.lineSeg l).owner = c → (s.lineAt l).stamp = stampOfEpoch (s.ctxAt c).epoch →
      ((s.lineAt l).state = .opened → t.eff l = (if (s.lineAt l).baseZero = true then .never else .unrestored, false)) ∧
      ((s.lineAt l).state = .openOver → t.eff l = (.committed, !(s.lineAt l).flip))) ∧
    (∀ l, (s.lineSeg l).cls = .epoch → (s.lineSeg l).owner = c → (s.lineAt l).stamp ≠ stampOfEpoch (s.ctxAt c).epoch →
      (s.lineAt l).stamp ≠ stampOfEpoch ((s.ctxAt c).epoch + 1) → t.eff l = s.eff l) ∧
    (∀ l, ((s.lineSeg l).cls ≠ .epoch ∨ (s.lineSeg l).owner ≠ c) → t.eff l = s.eff l)
/-- WEIR_RECOMPUTE takes a smaller millpond at once; the soft bucket fills at its rate up to 64 KiB, the cleaning bucket after
the debt is repaid; the ledger record takes the bucket and the debt; a dry hold is reported once; WEIR_ADMIT offers what
waits in the release order and lets the host stream go on. Served commands: WEIR_QUERY answers the millpond, fill and level;
WEIR_CONFIG, WEIR_CALIBRATE within the bounds and WEIR_DEBT_CLEAR store their values, which come into force once the record is
durable. -/
def Obligations.WeirRows : Prop :=
  (∀ s : State, pondNow s ≤ s.ret.weir.millpond → ∃ t, exec .weirRecompute s = .next (settleWeir (noteBank t)) ∧
    t.ret.weir.millpond = pondNow s ∧ t.ret.weir.allow = allowNow s ∧ t.ret.weir.rising = [] ∧ t.ret.lines = s.ret.lines) ∧
  (∀ (us : Nat) (s : State), exec (.softBucketRefill us) s = .next (s.onWeir fun w =>
    { w with softTokens := min 65536 (w.softTokens + w.soft * us) })) ∧
  (∀ (us : Nat) (s : State), exec (.cleanBucketRefill us) s = .next (s.onWeir fun w => { w with
    debt := w.debt - w.bktRate * us,
    bucket := min (w.bktDepth * 2 ^ 30) (w.bucket + (w.bktRate * us - w.debt)),
    debtHigh := w.debtHigh && decide (w.debtLimit * 2 ^ 30 ≤ 2 * (w.debt - w.bktRate * us)) })) ∧
  (∀ s : State, exec .weirLedgerRecord s = .next (ldgEnqueue [bucketRecord s.ret.weir]
    (s.onWeir fun w => { w with debtRecorded := w.debt }))) ∧
  (∀ (x : Short) (a b : Nat) (s : State), dryPart s = some (a, b) → heldShort s = some x → s.ret.weir.dryRaised = false →
    exec .weirDryHold s = .next ((s.onWeir fun w => { w with dryRaised := true }).raise 0x0512 0
      [(16, x.max), (20, b), (24, largestOpen s)])) ∧
  (∀ s : State, s.slu.phase = .idle → exec .weirAdmit s = .next (settleWeir
    (drainStream (admitPorts s).host.stream.length (admitPorts s)))) ∧
  (∀ (d : Desc) (s : State), Served weirQueryInfo d [0] s →
    exec (.weirQuery d) s = .next (finish d St.ok (pack [(0, s.ret.weir.millpond / 4096),
      (32, fillPermille s.count s.ret.weir.millpond), (48, s.ret.weir.level.toNat), (56, b2n (isDry s)),
      (57, b2n s.ret.weir.noBank), (58, b2n s.ret.weir.debtHigh)]) s)) ∧
  (∀ (d : Desc) (s : State), Served weirConfigInfo d [0] s → weirConfigOk d = true →
    exec (.weirConfig d) s = .next (storing d 0x0511 [setting 0x0511 0xFF (paramBytes d)] 0 s)) ∧
  (∀ (u : DueSet) (s : State), u.op = 0x0511 → settingApply u s = settleWeir (s.onWeir (weirSettings u.desc.p))) ∧
  (∀ (d : Desc) (s : State), Served weirCalibrateInfo d [0] s → calOk (calBytes d.p) = true →
    (calBytes d.p).vfloor < s.pwr.hub.target → largestAllow (calBytes d.p) s.pwr.hub.target ≤ s.poolBytes →
    exec (.weirCalibrate d) s = .next (storing d 0x0512 (triple 5 0x03 0 ((paramBytes d).take 13 ++ [0, 0, 0]) .cal)
      (largestAllow (calBytes d.p) s.pwr.hub.target / 2 ^ 20) s)) ∧
  (∀ (u : DueSet) (s : State), u.op = 0x0512 → ∃ b, (settingApply u s).ret.weir = { s.ret.weir with cal := calBytes u.desc.p } ∧
    (settingApply u s).ret.sum.shadowShort = b ∧
    (b = true ↔ s.ret.sum.shadowShort = true ∧ largestAllow (calBytes u.desc.p) s.pwr.hub.target > s.poolBytes)) ∧
  (∀ (d : Desc) (s : State), Served weirDebtClearInfo d [0] s →
    exec (.weirDebtClear d) s = .next (storing d 0x0513 [bucketRecord { s.ret.weir with debt := 0 }] (s.ret.weir.debt / 2 ^ 20) s)) ∧
  (∀ (u : DueSet) (s : State), u.op = 0x0513 →
    settingApply u s = s.onWeir fun w => { w with debt := 0, debtHigh := false, debtRecorded := 0 })
/-- Where a write of n charged lines is admitted on a port of a class, either n is 0 or the count with those n lines stays
within the millpond; and a draw on the shared pool stays within the class cap and within the pool. -/
def Obligations.AdmittedWritesStayWithinTheMillpond : Prop :=
  ∀ (fp : Fin 23) (k : PClass) (n : Nat) (s : State), portClass fp = some k → admits s fp n = true →
    (n = 0 ∨ s.count + n ≤ s.ret.weir.millpond) ∧
    (extraOf (s.use k) (s.resLines k) n = 0 ∨ (s.count + n ≤ capLines s k (portPanic s fp) ∧
      s.sharedUsed + extraOf (s.use k) (s.resLines k) n ≤ s.shared))
/-- A level is never 4 unless the count exceeds the millpond; from level 0 it is 3 at 95 percent and above, 2 from 75 to below
95, 1 from 50 to below 75, and 0 below 50; and from any of 1, 2 and 3 it holds while the fill is at or above 45, 70 and 90
percent. -/
def Obligations.WeirLevels : Prop :=
  ∀ (count pond : Nat), 0 < pond →
    (∀ cur, levelOf count pond cur = 4 ↔ count > pond) ∧
    (count ≤ pond → levelOf count pond 0 = if count * 100 ≥ 95 * pond then 3 else if count * 100 ≥ 75 * pond then 2
      else if count * 100 ≥ 50 * pond then 1 else 0) ∧
    (count ≤ pond → (90 * pond ≤ count * 100 → levelOf count pond 3 = 3) ∧
      (70 * pond ≤ count * 100 → 2 ≤ levelOf count pond 2) ∧ (45 * pond ≤ count * 100 → 1 ≤ levelOf count pond 1))
/-- On a chip that runs, in RESTORE or READY with no cause waiting, each detection leaves its code to start a save, and an
uncorrectable error in a firmware memory halts firmware besides. SAVE_T0 enters SAVING and the quiesce. QUIESCE_DONE with
a ready area and nothing to apply fixes the save set: as many records as lines count. A good log page takes up to 60 lines more
into the log; the last good seal copy seals the area, and the outcome is that of R205; at the bank's floor the generation stays
unsealed. RESUME_READY ends SAVING in READY with every mailbox off and every context IDLE, as it was at T0, or ABANDONED. -/
def Obligations.SaveWork : Prop :=
  (∀ (s : State), s.boot.coreOut = true → (s.glb.state = 1 ∨ s.glb.state = 2) → s.slu.pending = none →
    (∀ mv, mv < s.slu.trip → exec (.vinTrip mv) s = .next (onSlu s fun x => { x with
      vin := sat 12 mv, inputGood := false, pending := some 1, askedAt := s.now })) ∧
    exec .pfailInAssert s = .next (onSlu s fun x => { x with inputGood := false, pending := some 2, askedAt := s.now }) ∧
    (s.slu.pfail = false → exec .pfailExternal s = .next (onSlu s fun x => { x with pending := some 3, askedAt := s.now })) ∧
    exec .refclkLoss s = .next (onSlu (onPwr s fun p => { p with refclk := false, holdover := true })
      fun x => { x with pending := some 4, askedAt := s.now }) ∧
    ∀ b, ∃ t, exec (.internalUe b) s = .next t ∧ t.glb.state = 4 ∧ t.boot.haltCause = 3 ∧ t.slu.pending = some 8) ∧
  (∀ s : State, exec .inputGood s = .next (onSlu s fun x => { x with inputGood := true })) ∧
  (∀ (c : Nat) (s : State), s.slu.pending = some c → s.slu.phase = .idle → s.glb.state ≠ 0 → s.glb.state ≠ 3 →
    ∃ t, exec .saveT0 s = .next t ∧ t.glb.state = 3 ∧ t.slu.phase = .quiesce ∧ t.slu.cause = c ∧ t.slu.pending = none ∧
      t.slu.pfail = true ∧ t.host.stream = [] ∧ t.slu.reads = [] ∧ t.slu.faults = [] ∧ t.ret.held = []) ∧
  (∀ (a : Area) (s : State), s.slu.phase = .quiesce → s.ret.writes = [] → s.conf.resolving = 0 → s.store.ready = some a →
    ∃ t, exec .quiesceDone s = .next t ∧ t.slu.records = s.counted.length ∧ t.slu.covered = [] ∧ t.slu.sealLeft = 3 ∧
      t.slu.phase = (if s.counted = [] then .metadata else .log) ∧ t.ret.lines = s.ret.lines ∧ t.ret.copy.queue = []) ∧
  (∀ (a : Area) (us : Nat) (s : State), s.slu.phase = .log → s.store.ready = some a →
    ∃ t b, exec (.saveProgramDone (.log us) true) s = .next t ∧ t.store.ready = some b ∧
      b.log.map (·.line) = a.log.map (·.line) ++ (toWrite s).take 60 ∧ t.ret.dram = s.ret.dram) ∧
  (∀ (a : Area) (us : Nat) (s : State), s.slu.phase = .sealing → s.slu.sealLeft = 2 → s.store.ready = some a →
    ∃ t b, exec (.saveProgramDone (.sealB us) true) s = .next t ∧ t.store.ready = none ∧ t.store.sealed = s.store.sealed ++ [b] ∧
      b.stripe = a.stripe ∧ b.log = a.log ∧ b.sealRec.isSome = true ∧
      t.slu.lastOutcome = saveOutcome s ∧ (t.slu.phase = .resuming ↔ saveOutcome s = 1)) ∧
  (∀ (s : State), s.slu.phase = .quiesce ∨ s.slu.phase = .log ∨ s.slu.phase = .metadata ∨ s.slu.phase = .sealing →
    ∃ t, exec .saveBankFloor s = .next t ∧ t.store.ready = none ∧ t.store.unsealed = s.store.ready.or s.store.unsealed ∧
      t.store.sealed = s.store.sealed ∧ t.slu.lastOutcome = 3) ∧
  (∀ (s : State), s.slu.phase = .resuming → ∃ t, exec .resumeReady s = .next t ∧ t.glb.state = 2 ∧ t.slu.phase = .idle ∧
    t.slu.pfail = false ∧ (∀ q : Fin 4, t.host.mq[q].state ≠ .active) ∧ t.ret.segs = s.ret.segs ∧
    (s.host.winDue = [] → t.ret.windows = s.ret.windows) ∧ ∀ c : Fin 16, (t.ctxAt c).epoch = (s.ctxAt c).epoch ∧
      (t.ctxAt c).mode = (if ((s.slu.ctxT0[c.val]?).map (·.mode)).getD (s.ctxAt c).mode = .idle then .idle else .abandoned))
/-- ANCHOR_VOTE_DONE in step 8 starts a restore of what the voted anchor's rings and their root reach, or, where the store counts as unformatted, READY with nothing to restore.
RESTORE_AREA_READY enters RESTORE once the next area is ready, and frees an unsealed one. A segment is built from its presence maps: its lines with
a durable value become UNRESTORED. RESTORE_SEGMENT_IN brings in the segment that is next, and releases what is complete. -/
def Obligations.RestoreWork : Prop :=
  (∀ (s : State), s.boot.coreOut = true → s.glb.state = 0 → s.boot.stage = 8 → s.conf.form = .formed →
    (∀ k, foundStore (castVote 0 s) = .inr k →
      exec .anchorVoteDone s = .next (settleWeir (startUnformatted k (castVote 0 s)))) ∧
    ∀ st r, foundStore (castVote 0 s) = .inl st → st.root = some r →
      exec .anchorVoteDone s = .next (settleWeir (startRestore (findReady { castVote 0 s with store := underRoot r st })))) ∧
  (∀ (s : State), s.glb.state = 0 → s.boot.stage = 9 → s.pwr.bankReady = true → markersDurable s.store = true →
    ∀ u, u = (if (areaReadied s).store.ready.isSome then areaReadied s else readyArea (areaReadied s)) → u.store.ready.isSome = true →
    ∀ old, old = ((u.store.unsealed.map fun a => stripeBlocks u.store.ncfg.planes a.stripe).getD []) →
    exec .restoreAreaReady s = .next (settleWeir (afterIn (onSlu
      ((freeBlocks old (onStore u fun st => { st with unsealed := none })).toDev 1)
      fun x => { x with streaming := true })))) ∧
  (∀ (g : Nat) (s : State), s.unbuilt g = true → mwf Line.never s.ret.lines = true →
    exec (.segmentBuild g) s = .next (settleWeir (serveReads (buildSegment g s))) ∧ (buildSegment g s).unbuilt g = false ∧
    (∀ l ∈ presentLines s.store g, (buildSegment g s).lineAt l = { Line.never with state := .unrestored }) ∧
    ∀ l, l ∉ presentLines s.store g → (buildSegment g s).lineAt l = s.lineAt l) ∧
  (∀ (g : Nat) (s : State), s.slu.streaming = true → (s.glb.state = 1 ∨ s.glb.state = 2) → nextIn s = some g →
    exec (.restoreSegmentIn g) s = .next (settleWeir (afterIn (bringSegment g s))))
/-- Served commands. SLU_QUERY answers SLU_LAST and SLU_STAT. SLU_CONFIG and SLU_DETECT_SET of values in range store them, and they
come into force once the record is durable. SLU_SAVE_TEST, SLU_SHUTDOWN and GLB_DEVICE_RESET, with no restore streaming, complete with ST_OK and leave a save to
follow their completion. SLU_PREFETCH of existing segments, before the restore is done, queues those still to come. -/
def Obligations.SaveAndRestoreCommands : Prop :=
  (∀ (d : Desc) (s : State), Served sluQueryInfo d [0] s →
    exec (.sluQuery d) s = .next (finish d St.ok (pack [(0, sluLast s.slu), (32, sluStat s)]) s)) ∧
  (∀ (d : Desc) (s : State), Served sluConfigInfo d [0] s → d.p 16 1 ≤ 1 → d.p 17 1 ≤ 2 → d.p 18 1 ≤ 1 →
    exec (.sluConfig d) s = .next (storing d 0x0611 [setting 0x0611 0xFF (paramBytes d)] 0 s)) ∧
  (∀ (u : DueSet) (s : State), u.op = 0x0611 → settingApply u s = onSlu s fun x => { x with
      mode := bitN (u.desc.p 16 1) 0,
      gpolicy := BitVec.ofNat 2 (u.desc.p 17 1),
      lostPolicy := bitN (u.desc.p 18 1) 0 }) ∧
  (∀ (d : Desc) (s : State), Served sluDetectSetInfo d [0] s → 100 ≤ d.p 16 2 → d.p 16 2 + 20 ≤ d.p 18 2 → d.p 18 2 ≤ 1200 →
    1 ≤ d.p 20 1 → d.p 20 1 ≤ 15 → d.p 21 1 ≤ 15 → 1 ≤ d.p 22 2 → d.p 22 2 ≤ 1000 →
    exec (.sluDetectSet d) s = .next (storing d 0x0612 [setting 0x0612 0xFF (paramBytes d)] 0 s)) ∧
  (∀ (u : DueSet) (s : State), u.op = 0x0612 → settingApply u s = onSlu s fun x => { x with
      trip := u.desc.p 16 2, good := u.desc.p 18 2, vinFilt := u.desc.p 20 1, pinFilt := u.desc.p 21 1,
      resumeFilt := u.desc.p 22 2 }) ∧
  (∀ (d : Desc) (s : State), Served sluSaveTestInfo d [0] s → s.slu.streaming = false →
    exec (.sluSaveTest d) s = .next (finish d St.ok 0 { s with boot := { s.boot with saveDue := some 6 } })) ∧
  (∀ (d : Desc) (s : State), Served sluShutdownInfo d [0] s → s.slu.streaming = false →
    exec (.sluShutdown d) s = .next (finish d St.ok 0 { s with boot := { s.boot with saveDue := some 7 } })) ∧
  (∀ (d : Desc) (s : State), Served sluPrefetchInfo d [0] s → 1 ≤ d.p 20 4 → d.p 20 4 ≤ 65536 →
    (runOf (d.p 16 4) (d.p 20 4)).all s.segExists = true → s.slu.restoreDone = false → ∀ q,
    q = (runOf (d.p 16 4) (d.p 20 4)).filter (fun g => s.slu.todo.contains g) → q ≠ [] →
    exec (.sluPrefetch d) s = .next (running d (.prefetch (d.p 16 4) (d.p 20 4)) q.length
      (onSlu s fun x => { x with prefetch := x.prefetch ++ q.filter fun g => !x.prefetch.contains g }))) ∧
  (∀ (d : Desc) (s : State), Served glbDeviceResetInfo d [0] s → ∃ t,
    exec (.glbDeviceReset d) s = .next (finish d St.ok 0 t) ∧ t.boot.saveDue = some 7 ∧ t.pwr.nextMode = 0 ∧
    (s.store.root = none →
      t.ret.weir.debtRecorded = s.ret.weir.debt ∧ t.ret.lines = s.ret.lines ∧ t.store = s.store))
/-- On a chip that stands alone and holds no frame of another, the step of SAVE_T0 with a cause waiting: every context before its terminal epoch opens the
next epoch with cause POWER, and in the terminal epoch nothing of it changes; its committed epoch and its state stay, every accepted write of an abandoned epoch is void, and
the segment table stays. -/
def Obligations.T0AbandonsEveryOpenEpoch : Prop :=
  ∀ (k : Nat) (s : State), s.conf.chips = 1 → (∀ p, (linkOf s (.conf p)).hold = []) → s.slu.pending = some k → s.slu.phase = .idle → s.glb.state ≠ 0 →
    s.glb.state ≠ 3 → ∃ t, exec .saveT0 s = .next t ∧ t.ret.segs = s.ret.segs ∧
    (∀ c : Fin 16, (t.ctxAt c).mode = (s.ctxAt c).mode ∧ (t.ctxAt c).commit = (s.ctxAt c).commit ∧
      (t.ctxAt c).cause = (if (s.ctxAt c).epoch < terminalEpoch then 2 else (s.ctxAt c).cause) ∧
      (t.ctxAt c).epoch = (if (s.ctxAt c).epoch < terminalEpoch then (s.ctxAt c).epoch + 1 else (s.ctxAt c).epoch)) ∧
    ∀ p ∈ t.ret.writes, ∀ c, p.epoch = some (c, (s.ctxAt c).epoch) → terminalEpoch ≤ (s.ctxAt c).epoch
/-- A save of cause TEST ends in a resume, of ORDERLY or INTERNAL in a shutdown, and of any other cause in a resume
exactly where the input is good and no retention rail was left. After a restore that found the newest generation sealed, an
EPOCH segment outside every program bank is emptied exactly where its context's policy is COLD, or WARM and it is not
RETENTIVE; no other class but LATEST is emptied; and after a lost save, exactly as LOST_POLICY says. -/
def Obligations.OutcomesAndPolicies : Prop :=
  (∀ s : State, (s.slu.cause = 6 → saveOutcome s = 1) ∧
    (s.slu.cause = 7 ∨ s.slu.cause = 8 → saveOutcome s = 2) ∧
    (s.slu.cause = 1 ∨ s.slu.cause = 2 ∨ s.slu.cause = 3 ∨ s.slu.cause = 4 ∨ s.slu.cause = 5 →
      (saveOutcome s = 1 ↔ s.slu.inputGood = true ∧ s.slu.railLeft = false) ∧ (saveOutcome s ≠ 1 → saveOutcome s = 2))) ∧
  (∀ (g : Nat) (e : Seg) (s : State), ckptsLost s.store = false → s.store.unsealed = none → inAnyBank s g = false →
    (e.cls = .epoch → (restartEmpties s (restartOf s) g e = true ↔
      (s.ctxAt e.owner).policy = 2 ∨ ((s.ctxAt e.owner).policy = 1 ∧ e.retentive = false))) ∧
    (e.cls = .latest → (restartEmpties s (restartOf s) g e = true ↔
      s.slu.gpolicy = 2 ∨ (s.slu.gpolicy = 1 ∧ e.retentive = false)))) ∧
  (∀ (g : Nat) (e : Seg) (s : State), (e.cls = .constant ∨ e.cls = .volatile ∨ inAnyBank s g = true →
      restartEmpties s (restartOf s) g e = false) ∧
    (s.store.unsealed.isSome = true → ckptsLost s.store = false → inAnyBank s g = false →
      (e.cls = .epoch ∨ e.cls = .latest) → (restartEmpties s (restartOf s) g e = true ↔ s.slu.lostPolicy = false)))
/-- An erasure that ends well frees its block with one erasure more, while it has erasures left; a journal program that ends well
makes its page durable; an
operation past its time faults its channel, and a restart that succeeds runs it again. With slots waiting, a page is issued
under the next JSEQ. The seep cleans the line it picks within its tokens, merges a segment that is due, writes a checkpoint that
is due, readies an area under the next generation number, rotates full rings, spreads wear, and audits line by line and page by
page, counting the bits that it corrects. -/
def Obligations.StoreWork : Prop :=
  (∀ (c : Fin 16) (us n : Nat) (es : List Nat) (op : NOp) (s : State), s.glb.state ≠ 3 → s.life[nstLife c].life = .running →
    nextOp (s.store.ops.filter (·.ch = c)) = some op → op.kind = .erase → op.use ≠ .boot → mwf Blk.fresh s.store.blocks = true →
    blkErases s.store op.ppa (blkAt s.store op.ppa) + 1 < 2 * s.store.ncfg.cycles →
    ∃ u, exec (.nandOpDone c true us es n) s = .next (settleWeir (nchDrained c (storeMoves u))) ∧ u.store.ops = s.store.ops.erase op ∧
      (blkAt u.store op.ppa).held = false ∧ (blkAt u.store op.ppa).erases = (blkAt s.store op.ppa).erases + 1) ∧
  (∀ (c : Fin 16) (us n j : Nat) (es : List Nat) (op : NOp) (s : State), s.glb.state ≠ 3 →
    s.life[nstLife c].life = .running → nextOp (s.store.ops.filter (·.ch = c)) = some op → op.kind = .program →
    op.use = .journal j →
    ∃ u, exec (.nandOpDone c true us es n) s = .next (settleWeir (nchDrained c (storeMoves u))) ∧
      ∀ p ∈ u.store.journal, p.jseq = j → p.durable = true) ∧
  (∀ (c : Fin 16) (s : State), s.glb.state ≠ 3 → s.store.ops.any (·.ch = c) = true →
    exec (.nandOpTimeout c) s = .next (unitFault (nstLife c) 1 (onStore s fun st => { st with
      ch := vmod (vmod st.ch c fun x => { x with errs := x.errs ||| 0x18 }) c fun x => { x with restarts := 0 } }))) ∧
  (∀ (c : Fin 16) (s : State), s.glb.state ≠ 3 → s.life[nstLife c].life = .faulted → s.store.ch[c].restarts < 3 →
    ∃ t, exec (.nstChannelRestart c true) s = .next (settleWeir t) ∧ t.life[nstLife c].life = .running ∧ t.store.ch[c].restarts = 0 ∧
      t.store.ch[c].trained = true ∧ t.ret = s.ret) ∧
  (∀ s : State, nandOpen s = true → s.store.filling ≠ [] → canJournal s = true → ∃ t, exec .journalPageIssue s = .next t ∧
    t.store.jseq = s.store.jseq + 1 ∧ t.ret.lines = s.ret.lines ∧ ∃ p ∈ t.store.journal, p.jseq = s.store.jseq ∧ p.slots ≠ [] ∧
      p.durable = false ∧ p.slots ++ t.store.filling = s.store.filling) ∧
  (∀ (l : Nat) (s : State), seepRuns s = true → pickClean s = some l → (emergency s = true ∨ 272 ≤ s.ret.weir.bucket) →
    exec .seepClean s = .next (onStore (placeSlot (.line ⟨if (s.lineSeg l).cls = .latest then 2 else 1, l, (s.committedValue l).2,
      (s.committedValue l).1⟩ (some (if (s.eff l).1 = .openOver then (s.lineAt l).base else (s.lineAt l).serial)))
      (drawTokens (emergency s) s)) fun st => { st with
        walk := l + 1, cleaning := true, emergency := emergency s })) ∧
  (∀ (g : Nat) (s : State), seepRuns s = true → mergeDue s g = true →
    exec (.seepMerge g) s = .next (checkSpace (freeAreas (onStore (writeImage g s) fun st => { st with
      merging := true,
      mergeAt := s.now + ((writeImage g s).store.wrMerge - s.store.wrMerge) * 800 / max 1 s.store.mergeRate })))) ∧
  (∀ s : State, seepRuns s = true → checkpointDue s = true →
    exec .checkpointWrite s = .next (wakeEvacuate (writeCheckpoint s))) ∧
  (∀ s : State, seepRuns s = true → s.store.ready = none → s.store.readying = none → s.store.sealed.length < 16 →
    s.store.nextArea.isSome = true → ∃ t a, exec .areaReady s = .next (settleWeir t) ∧ a.stripe.gen = s.store.gen + 1 ∧
      (t.store.ready = some a ∨ ∃ w, t.store.readying = some (a, w)) ∧ t.ret = s.ret) ∧
  (∀ s : State, nandOpen s = true → (s.store.root.isSome = true → s.store.ncfg.ppb ≤ s.store.ring.index →
      exec .ringRotate s = .next (rotateRings s)) ∧
    (s.store.ring.index < s.store.ncfg.ppb → exec .ringRotate s = .next (dropOldRing (kickAnchor s)))) ∧
  (∀ (lun : Nat) (im : Image) (s : State), seepRuns s = true → imageOf s.store im.seg = some im → ∀ hi lo,
    hi = ((lunBlocks s.store lun).map fun k => (blkAt s.store k).erases).foldl max 0 →
    lo = ((lunBlocks s.store lun).map fun k => (blkAt s.store k).erases).foldl min hi → 2000 < hi - lo →
    s.store.images.find? (fun im => (im.map :: im.pages).any fun p =>
      decide ((blkAt s.store (blockOf p)).erases = lo) && decide (p % 128 = lun)) = some im →
    exec (.staticSpread lun) s = .next (writeImage im.seg s)) ∧
  (∀ (l : Nat) (s : State), seepRuns s = true → s.store.auditing = true →
    (auditable s).find? (s.store.auditLine ≤ ·) = some l →
    exec (.auditLine 0 0) s = .next (settleWeir (auditCheck (countBeats (channelOf s (s.placeOf l)) (rankAt s (s.placeOf l)).1 0 0
      (requestValue 20 l (onStore s fun st => { st with auditLine := l + 1, dramFixed := sat 32 st.dramFixed })))))) ∧
  (∀ (p n : Nat) (es : List Nat) (s : State), seepRuns s = true → s.store.auditing = true →
    (auditPages s).find? (s.store.auditPage ≤ ·) = some p → (∀ e ∈ es, e ≤ 60 ∧ e < s.store.refreshBits) →
    exec (.auditPage es n) s = .next (settleWeir (auditCheck (onNch (retryLevels p n (onStore s fun st => { st with auditPage := p + 1 }))
      (Fin.ofNat 16 (ppaChan p)) fun x => { x with
        corr := sat 32 (x.corr + es.sum), uncorr := sat 32 x.uncorr, retry := sat 32 (x.retry + n) }))))
/-- Served commands. NST_QUERY answers a channel's state. NST_EVACUATE of a RUNNING channel with capacity enough without it moves
what is movable and completes once nothing movable is left. SEEP_CONFIG of values in range stores them,
SEEP_AUDIT_START begins a pass anew, and NST_FORMAT with no retained segment leaves a store with a bad-block table, a root and
no record, and waits for its anchors. -/
def Obligations.StoreCommands : Prop :=
  (∀ (d : Desc) (n : Nat) (s : State), Served nstQueryInfo d [n] s →
    exec (.nstQuery d) s = .next (finish d St.ok (queryResult d [n] (pack [(0, nchStat s (Fin.ofNat 16 n) % 2 ^ 12),
      (16, sat 16 (nchBad s (Fin.ofNat 16 n).val)), (32, sat 16 (nchMaxErase s (Fin.ofNat 16 n).val)),
      (48, sat 16 (nchRate s (Fin.ofNat 16 n)))])) s)) ∧
  (∀ (d : Desc) (n : Nat) (s : State), Served nstEvacuateInfo d [n] s → s.lifeOf .nst n = .running →
    need s ≤ bytesWithout s [n] / 2 ^ 30 →
    exec (.nstEvacuate d) s = .next (settleWeir (if holdsMovable (evacuate n s).store n = true
      then running d (.evacuate (maskOf [n]) St.ok) (maskOf [n]) (evacuate n s)
      else finish d St.ok (maskOf [n]) (evacuate n s)))) ∧
  (∀ (d : Desc) (s : State), Served seepConfigInfo d [0] s → seepOk d = true →
    exec (.seepConfig d) s = .next (storing d 0x0720 [setting 0x0720 0xFF (paramBytes d)] 0 s)) ∧
  (∀ (u : DueSet) (s : State), u.op = 0x0720 → settingApply u s = onStore s fun st => { st with
      ageMin := u.desc.p 16 1, mergeFrac := u.desc.p 17 1, auditH := u.desc.p 18 1, refreshBits := u.desc.p 19 1,
      mergeRate := u.desc.p 20 2, jrnMax := u.desc.p 22 2 }) ∧
  (∀ (d : Desc) (s : State), Served seepAuditStartInfo d [0] s → ∃ t, exec (.seepAuditStart d) s = .next (finish d St.ok 0 t) ∧
    t.store.auditing = true ∧ t.store.auditLine = 0 ∧ t.store.auditPage = 0 ∧ t.ret = s.ret) ∧
  (∀ (d : Desc) (s : State), Served nstFormatInfo d [0] s → s.retainedSegs = 0 → ∀ s1 s3 t,
    s1 = formatWear (onStore s (formatted (tableReads s))) →
    s3 = checkCapacity (onStore s1 fun st => { st with formatGood := (allLuns s1).map fun l => (l, goodBlocks st l) }) →
    t = readyArea (writeRootWith (some (ringPages (bbtContent s3) s3).1) (ringPages (bbtContent s3) s3).2) → t.store.ring.a ≠ 0 →
    exec (.nstFormat d) s = .next (settleWeir (running d (.anchor St.ok) (pslcHave t) t)))
/-- Where a line has a durable value, that is a record of the line among those of images, durable journal pages and sealed areas
that no marker voids, and none of the others of the line has a newer key; and a line has none exactly where no such record
exists. -/
def Obligations.NewestDurableValue : Prop :=
  ∀ (st : Store) (line : Nat),
    (∀ y, durableOf st line = some y → y ∈ liveRecords st (segOf line) ∧ y.record.line = line ∧
      ∀ x ∈ liveRecords st (segOf line), x.record.line = line → keyLt y.key x.key = false) ∧
    (durableOf st line = none ↔ ∀ x ∈ liveRecords st (segOf line), x.record.line ≠ line)
/-- When the record of a line becomes durable: a COMMITTED line without FLIP, or a DIRTY LATEST line, becomes CLEAN exactly where
no write has been applied to it since its value was read, and is otherwise as it was; an OPEN_OVER_COMMITTED line without FLIP
becomes OPEN and its shadow line is freed exactly where the value read is its shadow value; every other line of the table, and
home memory, stay as they are. -/
def Obligations.CleansCompleteOnlyForTheValueRead : Prop :=
  ∀ (r : Rec) (n : Nat) (s : State), mwf Line.never s.ret.lines = true →
    ((s.lineSeg r.line).cls = .epoch → s.eff r.line = (.committed, false) → (s.lineAt r.line).serial ≠ n →
      cleanDone r n s = s) ∧
    ((s.lineSeg r.line).cls = .epoch → s.eff r.line = (.committed, false) → (s.lineAt r.line).serial = n →
      (cleanDone r n s).eff r.line = (.clean, false)) ∧
    ((s.lineSeg r.line).cls = .latest → (s.lineAt r.line).state = .dirty → (s.lineAt r.line).serial = n →
      ((cleanDone r n s).eff r.line).1 = .clean) ∧
    ((s.lineSeg r.line).cls = .latest → (s.lineAt r.line).state = .dirty → (s.lineAt r.line).serial ≠ n →
      cleanDone r n s = s) ∧
    ((s.lineSeg r.line).cls = .epoch → s.eff r.line = (.openOver, false) → (s.lineAt r.line).base = n →
      (cleanDone r n s).eff r.line = (.opened, false) ∧ ((cleanDone r n s).lineAt r.line).baseZero = false) ∧
    ((s.lineSeg r.line).cls = .epoch → s.eff r.line = (.openOver, false) → (s.lineAt r.line).base ≠ n →
      cleanDone r n s = s) ∧
    (cleanDone r n s).ret.dram = s.ret.dram ∧ ∀ l, l ≠ r.line → (cleanDone r n s).lineAt l = s.lineAt l
/-- Served commands. SCAN_CONFIG of STOPPED scan services stores the contexts served; SCAN_QUERY answers what is active;
SCAN_LAYOUT_CHECK of a bank with no sealed segment ends with reason 1, of an invalid one with its reason, and of a valid one
with ST_OK; CTX_SWAP to a valid bank,
its checks passed and its lines in, is armed and runs on. The oldest queued pass starts when none runs; a visit of the running
pass goes to the line with accesses waiting first, and one whose writes wait goes on with them; with nothing left to visit the pass ends. -/
def Obligations.ScanServices : Prop :=
  (∀ (d : Desc) (s : State), Served scanConfigInfo d [0] s → s.lifeOf .scan 0 = .stopped →
    exec (.scanConfig d) s = .next (storing d 0x0810 [setting 0x0810 0xFF (paramBytes d)] 0 s)) ∧
  (∀ (u : DueSet) (s : State), u.op = 0x0810 → settingApply u s = onScan s fun x => { x with
      timerEn := BitVec.ofNat 16 (u.desc.p 16 2), edgeEn := BitVec.ofNat 16 (u.desc.p 18 2) }) ∧
  (∀ (d : Desc) (s : State), Served scanQueryInfo d [0] s →
    exec (.scanQuery d) s = .next (finish d St.ok (pack [(0, scanCells s), (32, scanPlanes s), (40, s.scan.queue.length)]) s)) ∧
  (∀ (d : Desc) (s : State), Served scanLayoutCheckInfo d [0] s → d.p 22 1 < 16 → d.p 20 2 ≤ 4095 →
    (sealedBank s (d.p 16 4) (d.p 20 2) = false → exec (.scanLayoutCheck d) s = .next (finish d St.scanLayout 1 s)) ∧
    (∀ r t, layoutReason (fin16 (d.p 22 1)) (d.p 16 4) (d.p 20 2) (d.bit 23 0) s = (some r, t) →
      exec (.scanLayoutCheck d) s = .next (finish d St.scanLayout r t)) ∧
    (∀ t, layoutReason (fin16 (d.p 22 1)) (d.p 16 4) (d.p 20 2) (d.bit 23 0) s = (none, t) →
      exec (.scanLayoutCheck d) s = .next (finish d St.ok 0 t))) ∧
  (∀ (d : Desc) (n : Nat) (y : Layout) (cs : List Carry) (s : State), Served ctxSwapInfo d [n] s → 1 ≤ d.p 20 2 →
    d.p 20 2 ≤ 4095 → d.p 16 4 < 2 ^ 17 → s.mir.role ≠ .standby → actsHome s (fin16 n) = true →
    (s.ctxAt (fin16 n)).mode ≠ .closing → (s.ctxAt (fin16 n)).mode ≠ .abandoned → scanRunning s = true →
    sealedBank s (d.p 16 4) (d.p 20 2) = true → s.scan.ctx[fin16 n].swap = none → ∀ t u, t = bankIn (d.p 16 4) 0 4096 s →
    readLayout t (fin16 n) (d.p 16 4) (d.p 20 2) = .inl y →
    u = bankIn (d.p 16 4) y.tinitOff (16 * y.timerCount) (bankIn (d.p 16 4) y.carryOff (16 * y.carryCount) t) →
    swapCarry u u.scan.ctx[fin16 n] y = .inl cs → ∃ v,
    exec (.ctxSwap d) s = .next (running d (.swap (fin16 n)) 0 v) ∧ v.ret = u.ret ∧
      v.scan.ctx[fin16 n].swap = some ⟨d.p 16 4, d.p 20 2, d.bit 22 0, d.p 24 4, s.now, none, (s.ctxAt (fin16 n)).bankSeg,
        (s.ctxAt (fin16 n)).bankCount, u.scan.ctx[fin16 n].layout, y, cs, u.scan.ctx[fin16 n].shelf,
        u.scan.ctx[fin16 n].suspended⟩) ∧
  (∀ (p : Pass) (rest : List Pass) (s : State), s.scan.running = none → s.scan.queue = p :: rest → p.todo ≠ [] →
    exec .scanPassStart s = .next { s with scan := { s.scan with
      running := some { p with started := s.now },
      queue := rest } }) ∧
  (∀ (p : Pass) (v : Visit) (s : State), s.scan.running = some p → p.pend = none →
    pickVisit s p.layout p.todo = some v → exec .scanLineVisit s = .next (settleWeir (visit p v s))) ∧
  (∀ (p : Pass) (v : Visit) (ls : List NewLine) (s : State), s.scan.running = some p → p.pend = some (v, ls) →
    exec .scanLineVisit s = .next (settleWeir (visitWrites v ls s))) ∧
  (∀ (p : Pass) (s : State), s.scan.running = some p → p.pend = none → p.todo = [] →
    exec .scanLineVisit s = .next (settleWeir (passEnd p s)))
/-- In a pass that takes no swap, a visit of line i of a plane computes three lines, RISE, FALL and PREV of that index: PREV is
the committed source S; bit k of RISE is that of S and not of the previous image P, bit k of FALL that of P and not of S; and
where S equals P both are zero, so that a change shows for one scan only. -/
def Obligations.EdgePlanesMarkChanges : Prop :=
  ∀ (p : Pass) (j k : Nat) (pl : Plane) (n : Nat) (src prev : List Byte) (dirt : BitVec 4) (s : State), p.swap = none →
    passValue s (localLine pl.src n) = (src, dirt) → (s.lineValue (localLine pl.prev n)).1 = prev → src.length = 256 →
    prev.length = 256 →
    ∃ rise fall poison, (edgeVisit s p j pl n).lines = [(localLine pl.rise n, rise, poison), (localLine pl.fall n, fall, poison),
      (localLine pl.prev n, src, dirt)] ∧
    rise.length = 256 ∧ fall.length = 256 ∧
    (rise.getD (k / 8) 0).getLsbD (k % 8) = ((src.getD (k / 8) 0).getLsbD (k % 8) && !(prev.getD (k / 8) 0).getLsbD (k % 8)) ∧
    (fall.getD (k / 8) 0).getLsbD (k % 8) = ((prev.getD (k / 8) 0).getLsbD (k % 8) && !(src.getD (k / 8) 0).getLsbD (k % 8)) ∧
    (src = prev → rise = rep 256 0 ∧ fall = rep 256 0)
/-- One update of n ticks. An ON_DELAY cell with IN clear has ACC 0, DN, TT and Q clear; with IN set now and at the update before
it accumulates to at most PRESET, and DN is set exactly when ACC is PRESET; with IN set for the first time ACC stays. An OFF_DELAY
cell with IN set has Q set and ACC 0, and with IN just cleared begins to time from 0. A RETENTIVE cell keeps ACC while IN is
clear, and RESET clears it. A PULSE cell ignores IN while it times. PRESET, TYPE and the inputs never change. -/
def Obligations.TimerCells : Prop :=
  ∀ (n : Nat) (c : Cell),
    ((runCell n c).preset = c.preset ∧ (runCell n c).type = c.type ∧ (runCell n c).inp = c.inp ∧ (runCell n c).reset = c.reset) ∧
    (c.type = 1 → c.inp = false → (runCell n c).acc = 0 ∧ (runCell n c).dn = false ∧ (runCell n c).tt = false ∧
      (runCell n c).q = false) ∧
    (c.type = 1 → c.inp = true → (runCell n c).acc = (if c.last then min c.preset (c.acc + n) else c.acc) ∧
      ((runCell n c).dn = true ↔ (runCell n c).acc = c.preset) ∧ (runCell n c).tt = !(runCell n c).dn ∧
      (runCell n c).q = (runCell n c).dn) ∧
    (c.type = 2 → c.inp = true → (runCell n c).acc = 0 ∧ (runCell n c).q = true ∧ (runCell n c).tt = false ∧
      (runCell n c).dn = false) ∧
    (c.type = 2 → c.inp = false → c.last = true → (runCell n c).acc = 0 ∧
      ((runCell n c).tt = true ↔ c.preset ≠ 0) ∧ ((runCell n c).q = true ↔ c.preset ≠ 0)) ∧
    (c.type = 3 → c.reset = true → (runCell n c).acc = 0) ∧
    (c.type = 3 → c.reset = false → (c.inp = false ∨ c.last = false) → (runCell n c).acc = c.acc) ∧
    (c.type = 4 → c.tt = true → (runCell n c).acc = min c.preset (c.acc + n) ∧
      ((runCell n c).tt = true ↔ min c.preset (c.acc + n) ≠ c.preset) ∧ (runCell n c).q = (runCell n c).tt) ∧
    (c.acc ≤ c.preset → (runCell n c).acc ≤ c.preset)
/-- Served commands, with PARAM in range. DCH_QUERY and FAB_QUERY answer, the latter clearing the latency it read. DCH_CONFIG of a
STOPPED channel stores its settings, which come into force once the record is durable; DCH_POP_SET and DCH_MAP_SET store theirs
for the next reset and change nothing now; FAB_PORT_SET gives TARGET, and the panic bytes for a real-time port only. DCH_RANK_RETIRE of a rank in service, on a RUNNING
channel with a spare and no migration, begins one and completes. -/
def Obligations.DramCommands : Prop :=
  (∀ (d : Desc) (n : Nat) (s : State), Served dchQueryInfo d [n] s →
    exec (.dchQuery d) s = .next (finish d St.ok (queryResult d [n] (pack [(0, dchRankReg s.dch[Fin.ofNat 4 n]),
      (16, dchMigPtr s.dch[Fin.ofNat 4 n]), (48, dchStat s.dch[Fin.ofNat 4 n] % 2 ^ 16)])) s)) ∧
  (∀ (d : Desc) (n : Nat) (s : State), Served dchConfigInfo d [n] s → s.lifeOf .dch n = .stopped → 100 ≤ d.p 18 2 →
    d.p 18 2 ≤ 8000 → timOk d s.dch[0].density = true →
    exec (.dchConfig d) s = .next (storingAs St.ok d 0x0911 [n] [setting 0x0911 n (paramBytes d)] (maskOf [n]) s)) ∧
  (∀ (u : DueSet) (n : Nat) (s : State), u.op = 0x0911 → u.ts = [n] →
    settingApply u s = onDch s (Fin.ofNat 4 n) (dchApply u.desc)) ∧
  (∀ (u : DueSet) (s : State), u.op = 0x0912 ∨ u.op = 0x0913 → settingApply u s = s) ∧
  (∀ (d : Desc) (s : State), Served dchPopSetInfo d [0] s → 1 ≤ d.p 16 1 → d.p 16 1 ≤ 3 → d.p 19 1 < d.p 16 1 →
    (d.bit 18 0 = true → d.p 16 1 ≠ 1) →
    exec (.dchPopSet d) s = .next (storing d 0x0912 [setting 0x0912 0xFF (paramBytes d)] 0 s)) ∧
  (∀ (d : Desc) (s : State), Served dchMapSetInfo d [0] s → ∀ rows, rows = (if s.dch[0].density then 17 else 16) →
    bankMaskOk (d.p 24 4) 0 rows = true → bankMaskOk (d.p 28 4) 1 rows = true → bankMaskOk (d.p 32 4) 2 rows = true →
    bankMaskOk (d.p 36 4) 3 rows = true →
    exec (.dchMapSet d) s = .next (storing d 0x0913 [setting 0x0913 0xFF (paramBytes d)] 0 s)) ∧
  (∀ (d : Desc) (n sp : Nat) (s : State), Served dchRankRetireInfo d [n] s → d.p 16 1 < s.dch[0].ranks →
    s.lifeOf .dch n = .running → s.dch[Fin.ofNat 4 n].mig = none → spareOf s.dch[Fin.ofNat 4 n] = some sp →
    s.dch[Fin.ofNat 4 n].rank[Fin.ofNat 3 (d.p 16 1)] = .inService →
    exec (.dchRankRetire d) s = .next (finish d St.ok (maskOf [n]) (startMigration (Fin.ofNat 4 n) (d.p 16 1) sp 3 s))) ∧
  (∀ (d : Desc) (s : State), Served fabPortSetInfo d [0] s → d.p 16 1 ≤ 22 → 100 ≤ d.p 18 2 →
    (isRealTime (Fin.ofNat 23 (d.p 16 1)) = true → d.p 21 1 < d.p 20 1 ∧ d.p 20 1 ≤ 100) →
    exec (.fabPortSet d) s = .next (storing d 0x0915 [setting 0x0915 (d.p 16 1) (paramBytes d)] 0 s)) ∧
  (∀ (u : DueSet) (p : Fin 23) (s : State), u.op = 0x0915 → u.desc.p 16 1 = p.val → settingApply u s = onFab s fun f => { f with
      port := vmod f.port p fun x =>
        if isRealTime p then { x with target := u.desc.p 18 2, panicHi := u.desc.p 20 1, panicLo := u.desc.p 21 1 }
        else { x with target := u.desc.p 18 2 } }) ∧
  (∀ (d : Desc) (s : State), Served fabQueryInfo d [0] s → d.p 16 1 ≤ 22 →
    exec (.fabQuery d) s = .next (finish d St.ok
      (pack [(0, fabPortCfg (Fin.ofNat 23 (d.p 16 1)) s.fab.port[Fin.ofNat 23 (d.p 16 1)]), (32, s.fab.port[Fin.ofNat 23 (d.p 16 1)].lat)])
      (onFab s fun f => { f with port := vmod f.port (Fin.ofNat 23 (d.p 16 1)) fun x => { x with lat := 0 } })))
/-- In a command slot of a channel that serves the refresh of a rank with eight postponed comes first, else the request of the
greatest key is served, and with none to serve and none postponed the command is a NOP. A done request leaves the channel, an
issued read with its beats counted. A due refresh is postponed while its rank has requests, eight at most, and is else issued. A
temperature read sets the refresh mode with REF_MODE 0. Three retries of one event of an ALERT_n are counted, one for a write's CRC only
where that is enabled, and the fourth is a channel fault of a code that the manual does not give, as a response time-out is. A restart that fails is counted up to three; one that succeeds loses the channel's lines and
runs it again. Migration passes over a line that holds nothing. A real-time port panics at PANIC_HI. -/
def Obligations.DramWork : Prop :=
  (∀ (c : Fin 4) (s : State), dchServing s c = true →
    (∀ r, [0, 1, 2].find? (fun r => s.dch[c].postponed[Fin.ofNat 3 r] ≥ 8) = some r →
      exec (.dchCommandSlot c) s = .next (refreshRank c r s)) ∧
    (∀ r, [0, 1, 2].find? (fun r => s.dch[c].postponed[Fin.ofNat 3 r] ≥ 8) = none →
      best (slotKey s c) (candidates s c) none = some r → (s.dch[c].hitStreak < 16 ∨ rowHit s c r = false) →
      exec (.dchCommandSlot c) s = .next (serveSlot c r s)) ∧
    ([0, 1, 2].find? (fun r => s.dch[c].postponed[Fin.ofNat 3 r] > 0 ∧ rankIdle s c r) = none → candidates s c = [] →
      [0, 1, 2].find? (fun r => s.dch[c].postponed[Fin.ofNat 3 r] ≥ 8) = none →
      exec (.dchCommandSlot c) s = .next (onDch s c fun d => { d with lastCmd := .nop }))) ∧
  (∀ (c : Fin 4) (id n : Nat) (ue : BitVec 8) (r : DReq) (s1 s2 s3 s : State),
    s.dch[c].reqs.find? (fun r => r.id = id ∧ r.issued) = some r →
    s1 = onDch s c (fun d => { d with retries := d.retries.filter (·.1 ≠ id) }) →
    s2 = (if r.write then writeDone c r s1 else readDone c r n ue s1) →
    s3 = (if r.write ∨ r.merge ∨ r.rank.isSome then s2 else noteLatency r s2) →
    exec (.dramRequestDone c id n ue) s = .next (settleWeir (dchDrained c (pullIn c (rowOf s r).rank
      (admitWaiting c 192 (onDch s3 c fun d => { d with draining := drains d })))))) ∧
  (∀ (c : Fin 4) (r : Fin 3) (s : State), s.dch[c].rank[r] ≠ .absent → s.dch[c].selfRef = false → s.dch[c].trained = true →
    exec (.refreshDue c r) s = .next (onDch s c fun d =>
      if rankIdle s c r.val = false then
        { d with postponed := vmod d.postponed r fun _ => min 8 (s.dch[c].postponed[r] + 1),
                 postMax := max d.postMax (min 8 (s.dch[c].postponed[r] + 1)) }
      else { d with rows := d.rows.filter (fun x => x.rank ≠ r.val), lastCmd := .refresh r.val })) ∧
  (∀ (c : Fin 4) (b hot : Bool) (s : State), dchServing s c = true →
    (s.dch[c].refMode = 0 → exec (.dramTempRead c b hot) s = .next (onDch s c fun d => { d with
      ref2x := !b || hot, lastCmd := .mpr })) ∧
    exec (.zqcsDue c) s = .next (onDch s c fun d => { d with lastCmd := .zqcs (d.ranks - 1) }) ∧
    exec (.dqsRecentre c) s = .next (onDch s c fun d => { d with lastCmd := .mpr })) ∧
  (∀ (c : Fin 4) (id : Nat) (w : Bool) (s : State), dchServing s c = true →
    (w = true → s.dch[c].wcrc = false → exec (.alertN c ⟨id, w⟩) s = .next s) ∧
    ((w = true → s.dch[c].wcrc = true) → retriesOf s.dch[c] id w < 3 → exec (.alertN c ⟨id, w⟩) s = .next (onDch s c fun d => { d with
      errs := d.errs ||| (if w then 8 else 4),
      retries := (id, w, retriesOf s.dch[c] id w + 1) :: d.retries.filter (fun x => !(x.1 == id && x.2.1 == w)),
      reqs := d.reqs.map (fun q => if w ∧ q.id = id then { q with issued := false } else q),
      caparRetry := if w then d.caparRetry else sat 32 (d.caparRetry + 1),
      wcrcRetry := if w then sat 32 (d.wcrcRetry + 1) else d.wcrcRetry })) ∧
    ((w = true → s.dch[c].wcrc = true) → 3 ≤ retriesOf s.dch[c] id w → exec (.alertN c ⟨id, w⟩) s = .next (dchFaultFree c (onDch s c fun d =>
      { d with errs := d.errs ||| (if w then 8 else 4) }))) ∧
    ∃ t, exec (.dchResponseTimeout c) s = .next t ∧ t.life[dchLife c].life = .faulted ∧ t.dch[c].reqs = [] ∧ t.dch[c].wq = [] ∧
      t.ret = s.ret ∧ t.dch[c].waiting = backToPort s.dch[c] ++ s.dch[c].waiting) ∧
  (∀ (c : Fin 4) (s : State), s.life[dchLife c].life = .faulted → s.dch[c].dead = false →
    (s.dch[c].restarts < 2 → exec (.dchRestartAttempt c false) s = .next (settleWeir (onDch s c fun d => { d with
      restarts := d.restarts + 1, errs := d.errs ||| 0x10 }))) ∧
    (s.dch[c].restarts < 3 → ∀ t, t = ((setFault (dchLife c) 0 (loseChannel c (unflight (flightIn s.dch[c])
        (onDch s c fun d => { d with restarts := d.restarts + 1 })))).toLife (dchLife c) .stopped).toLife (dchLife c) .running →
      exec (.dchRestartAttempt c true) s = .next (settleWeir (serveReads (admitWaiting c 192 (onDch t c fun d => { d with
        selfRef := false,
        waiting := d.waiting.filter fun r =>
          !((s.fab.flights.filter (flightIn s.dch[c])).flatMap fun f => f.ids.map (·.1)).contains r.id })))))) ∧
  (∀ (c : Fin 4) (b : BitVec 4) (m : Migration) (l : Nat) (s : State), s.dch[c].mig = some m → s.slu.phase = .idle →
    dchRunning s c = true → s.ldg.jobs.any (·.id = m.job) = false → migStalled s.dch[c] l = false → m.ptr + 1 < rankLines s.dch[c] →
    (m.ptr + 1) % (rankLines s.dch[c] / 4) ≠ 0 →
    l = lineAtPlace s c ((rankOrder s.dch[c]).idxOf m.rank * rankLines s.dch[c] + m.ptr) → l < reserveFirst s → l < segLine s.usable →
    (s.eff l).1 = .never ∨ (s.eff l).1 = .unrestored →
    exec (.migrationLine c b) s = .next (settleWeir (onMig s c fun g => { g with ptr := g.ptr + 1 }))) ∧
  (∀ (p : Fin 23) (n : Nat) (s : State), isRealTime p = true → s.fab.port[p].panic = false → s.fab.port[p].panicHi ≤ n →
    ∃ t, exec (.fabPanic p n) s = .next t ∧ t.ret = s.ret ∧ t.dch = s.dch ∧ t.fab = { s.fab with
      port := vmod s.fab.port p fun x => { x with panic := true },
      panicCount := sat 32 (s.fab.panicCount + 1) })
/-- A line is a[37:8]. CH0 of its channel is a[8] XOR the parity of a[37:10] AND FAB_CHMAP0, and CH1 is a[9] XOR the parity of
a[37:10] AND FAB_CHMAP1; its place in the channel is a[37:10]. For every pair of masks, the line that has a given place in a given
channel exists and is the only one. -/
def Obligations.ChannelMapping : Prop :=
  ∀ s : State,
    (∀ line : Nat, inChannel line = line / 4 ∧
      (channelOf s line).val.testBit 0 = (line.testBit 0 ^^ decide (parity (line / 4 &&& s.fab.chmap0.toNat) = 1)) ∧
      (channelOf s line).val.testBit 1 = (line.testBit 1 ^^ decide (parity (line / 4 &&& s.fab.chmap1.toNat) = 1))) ∧
    (∀ (c : Fin 4) (k : Nat), ∃ line, channelOf s line = c ∧ inChannel line = k ∧
      ∀ l, channelOf s l = c → inChannel l = k → l = line)
/-- Served commands, with PARAM in range. TRIB_CONFIG and TRIB_MOD_SET of a STOPPED port store their settings, which come into force
once the record is durable.
TRIB_MOD_ENABLE of a RUNNING port moves its entry and answers the new state. TRIB_ROLLCALL of a RUNNING Nymzel port that holds its
token makes a roll-call due, after the one that runs where its window is open, and waits for its end. TRIB_MOD_QUERY answers the entry. TRIB_MDIO of an Ethernet port queues an
access on its bus, and waits for it. -/
def Obligations.TribCommands : Prop :=
  (∀ (d : Desc) (n : Nat) (s : State), Served tribConfigInfo d [n] s → tribConfigOk d = true → s.lifeOf .trib n = .stopped →
    exec (.tribConfig d) s = .next (storingAs St.ok d 0x0B10 [n] [setting 0x0B10 n (paramBytes d)] (maskOf [n]) s)) ∧
  (∀ (u : DueSet) (n : Nat) (s t : State), u.op = 0x0B10 → u.ts = [n] →
    t = onTrib s (Fin.ofNat 12 n) (fun x => { x with
      cfg := tribSettings u.desc.p,
      mods := if (tribSettings u.desc.p).inBase ≠ x.cfg.inBase ∨ (tribSettings u.desc.p).inStride ≠ x.cfg.inStride
        then x.mods.map (fun m => { m with seq := 0 }) else x.mods }) →
    settingApply u s = onTrib t (Fin.ofNat 12 n) fun x => { x with
      txd := true, de := false, sgOn := isEth (tribAt t (Fin.ofNat 12 n)) && (tribAt t (Fin.ofNat 12 n)).sgOn }) ∧
  (∀ (d : Desc) (n : Nat) (s : State), Served tribModSetInfo d [n] s → modAddrOk d s = true →
    s.lifeOf .trib (Fin.ofNat 12 n).val = .stopped →
    exec (.tribModSet d) s = .next (storing d 0x0B11 [(9, 0x11, 0x0B, settingPayload 0x0B11 (Fin.ofNat 12 n)
        (modEntries (tribModApply d s).trib[Fin.ofNat 12 n]), .settings 0x0B)] 0
      s)) ∧
  (∀ (u : DueSet) (s : State), u.op = 0x0B11 → settingApply u s =
    changeMod (Fin.ofNat 12 u.desc.inst.toNat) (Fin.ofNat 255 (u.desc.p 16 1)) (setEntry u.desc.p 17) s) ∧
  (∀ (d : Desc) (n : Nat) (s : State), Served tribModEnableInfo d [n] s → modAddrOk d s = true →
    tribRuns s (Fin.ofNat 12 n) = true → ∀ t, t = enableMod (Fin.ofNat 12 n) (Fin.ofNat 255 (d.p 16 1)) (d.bit 17 0) s →
    exec (.tribModEnable d) s = .next (finish d St.ok (modAt t (Fin.ofNat 12 n) (Fin.ofNat 255 (d.p 16 1))).state.code t)) ∧
  (∀ (d : Desc) (n : Nat) (s : State), Served tribRollcallInfo d [n] s → tribRuns s (Fin.ofNat 12 n) = true →
    isLegacy (tribAt s (Fin.ofNat 12 n)) = false → (tribAt s (Fin.ofNat 12 n)).token = true →
    ((tribAt s (Fin.ofNat 12 n)).rollOpen = false → exec (.tribRollcall d) s = .next (running d (.rollcall [n] [n] [] 0) 0
      (onTrib s (Fin.ofNat 12 n) fun x => { x with rollDue := true }))) ∧
    ((tribAt s (Fin.ofNat 12 n)).rollOpen = true → exec (.tribRollcall d) s = .next (running d (.rollcall [n + 12] [n] [] 0) 0
      (onTrib s (Fin.ofNat 12 n) fun x => { x with rollAgain := true })))) ∧
  (∀ (d : Desc) (n : Nat) (s : State), Served tribModQueryInfo d [n] s → addrOk s.trib[Fin.ofNat 12 n] (d.p 16 1) = true →
    ∀ i, i = (s.trib[Fin.ofNat 12 n].mods[Fin.ofNat 255 (d.p 16 1)].ident).getD 0 →
    exec (.tribModQuery d) s = .next (finish d St.ok (pack [(0, modWord s.trib[Fin.ofNat 12 n] (d.p 16 1)), (32, identF i 8 2),
      (48, identF i 10 2)]) s)) ∧
  (∀ (d : Desc) (n : Nat) (s : State), Served tribMdioInfo d [n] s → d.p 17 1 < 32 → isEth (tribAt s (Fin.ofNat 12 n)) = true →
    exec (.tribMdio d) s = .next (queueMdio (Fin.ofNat 12 n) ⟨(Fin.ofNat 12 n).val, d.bit 16 0, BitVec.ofNat 5 (d.p 17 1),
      BitVec.ofNat 16 (d.p 18 2), some (d.port, d.tag)⟩ (running d (.mdio (busOf (Fin.ofNat 12 n))) 0 s)))
/-- A port that may poll begins a cycle over its module table, sends the POLL of the next module with its last image, and stores a
good reply of a polled ACTIVE module for the slot. A reply that does not come is a miss. A due roll-call sends IDENTIFY and
opens a window, in which CLAIMs are kept in order, and its close handles them and ends the roll-call. A capture takes the next
block, unless one of its lines lies in a channel that neither runs nor has failed for good, or a write that the close committed is not
applied to it yet. An expired latch is released and counted. In LISTEN a good ASSIGN enters a claimed module, and modules not heard miss. The
PHY status is read through the bus's queue, whose head an answer ends. A changed token turns a port between master and LISTEN. -/
def Obligations.TribWork : Prop :=
  (∀ (n : Fin 12) (s : State), mayPoll s n = true → (tribAt s n).inCycle = false → (tribAt s n).rollOpen = false →
    (tribAt s n).rollDue = false → (tribAt s n).cycleLast ≤ (tribAt s n).cfg.cycle →
    exec (.pollCycleStart n) s = .next (cycleCheck n (onTrib s n fun t => { t with
      inCycle := true, cycleSeq := t.cycleSeq + 1, cycleStart := s.now, toPoll := pollList (tribAt s n), awaiting := [] }))) ∧
  (∀ (n : Fin 12) (a : Nat) (rest : List Nat) (i : OutImage) (s : State), mayPoll s n = true → (tribAt s n).inCycle = true →
    (tribAt s n).toPoll = a :: rest → (isEth (tribAt s n) = true ∨ (tribAt s n).awaiting = []) →
    (modAt s n (Fin.ofNat 255 a)).state = .active → (modAt s n (Fin.ofNat 255 a)).outState = .normal →
    (modAt s n (Fin.ofNat 255 a)).image = some i →
    exec (.poll n) s = .next (sendTrib n (modAt s n (Fin.ofNat 255 a)).mac 0x01 a (leBytes 4 i.pubSeq.toNat ++
      leBytes 1 (if (modAt s n (Fin.ofNat 255 a)).ackSeq = some i.pubSeq then 0 else 4) ++ rep 3 0 ++ i.bytes)
      (onTrib s n fun t => { t with toPoll := rest, awaiting := t.awaiting ++ [a] }))) ∧
  (∀ (n : Fin 12) (f : RxFrame) (p : Pdu) (a : Fin 255) (i : Ident) (s : State), tribAlive s n = true →
    isLegacy (tribAt s n) = false → heardBy (tribAt s n) f = true → frameOk (tribAt s n) f = true → p = pduOf f.pdu →
    p.type = 2 → p.dst = 0 → p.src = a.val → listening s n = false → (tribAt s n).awaiting.contains p.src = true →
    p.seq = (tribAt s n).cycleSeq.toNat → (modAt s n a).ident = some i → p.len = 8 + inLen i → (modAt s n a).state = .active →
    exec (.dataReply n f) s = .next (cycleCheck n (stageInput n a ⟨p.body.drop 8, inLen i, p.body.getD 4 0, s.glb.time,
      BitVec.ofNat 32 (field p.body 0 4), false⟩ (onMod (goodFrame n (answered n a.val s)) n a fun m => { m with
        misses := 0, ackSeq := some (BitVec.ofNat 32 (field p.body 0 4)), heard := true })))) ∧
  (∀ (n : Fin 12) (a : Fin 255) (s : State), (tribAt s n).awaiting.contains a.val = true →
    exec (.replyTimeout n a) s = .next (cycleCheck n (missed n a (answered n a.val s)))) ∧
  (∀ (n : Fin 12) (s : State), tribAlive s n = true → (tribAt s n).cfg.pers = 0 → listening s n = false →
    exec (.serialFrameIdle n) s = .next (discard n none s)) ∧
  (∀ (n : Fin 12) (s : State), mayPoll s n = true → (tribAt s n).inCycle = false → (tribAt s n).rollOpen = false →
    (tribAt s n).first = false → (tribAt s n).rollDue = true →
    exec (.identify n) s = .next (sendTrib n (tribAt s n).cfg.group 0x03 0xFF (leBytes 2 ((tribAt s n).roll + 1).toNat ++
      leBytes 1 (tribAt s n).cfg.slots ++ leBytes 1 (tribAt s n).cfg.slotUs ++ rep 4 0) (onTrib s n fun t => { t with
        roll := t.roll + 1, rollDue := false, rollOpen := true, claims := [], rollAssigned := 0 }))) ∧
  (∀ (n : Fin 12) (f : RxFrame) (s : State), tribRuns s n = true → isLegacy (tribAt s n) = false → heardBy (tribAt s n) f = true →
    frameOk (tribAt s n) f = true → (pduOf f.pdu).type = 4 → (pduOf f.pdu).dst = 0 → (pduOf f.pdu).len = 36 →
    (tribAt s n).token = true → (tribAt s n).rollOpen = true →
    exec (.claim n f) s = .next (onTrib (goodFrame n s) n fun t => { t with
      claims := t.claims ++ [(f.src, field (pduOf f.pdu).body 0 1, claimIdent (pduOf f.pdu))] })) ∧
  (∀ (n : Fin 12) (s : State), (tribAt s n).rollOpen = true → mayPoll s n = true →
    exec (.rollcallWindowClose n) s = .next (endRoll n St.ok ((tribAt s n).claims.foldl (fun (s : State) c => handleClaim n c s) s))) ∧
  (∀ (n : Fin 12) (a : Fin 255) (s : State), tribLife s n ≠ .off → exec (.inputStore n a) s = .next (storeStaged n a s) ∧
    ((modAt s n a).latched.isSome = true → exec (.inputLatchExpire n a) s = .next (storeStaged n a (writeHeader n a
      (onTrib (onMod s n a fun m => { m with latched := none, expired := true }) n fun t => { t with
        latchExp := sat 32 (t.latchExp + 1) }))))) ∧
  (∀ (n : Fin 12) (c : Capture) (cs : List Capture) (s t : State), (tribAt s n).captures = c :: cs →
    ((∃ l ∈ blockLines s n (Fin.ofNat 255 c.addr), dchRunning s (channelOf s l) = false ∧ dchDead s (channelOf s l) = false) →
      exec (.outputCapture n) s = .next s) ∧
    ((∃ w ∈ s.ret.writes, ∃ k ≤ c.epoch, w.line ∈ blockLines s n (Fin.ofNat 255 c.addr) ∧ w.epoch = some (c.ctx, k)) →
      exec (.outputCapture n) s = .next s) ∧
    (captureStuck s n c = false →
      t = captureBlock n (Fin.ofNat 255 c.addr) (onTrib s n fun t => { t with captures := cs }) →
      exec (.outputCapture n) s = .next ((blockLines t n (Fin.ofNat 255 c.addr)).foldl
        (fun s l => requestValue (tribPort n) l s) t))) ∧
  (∀ (n : Fin 12) (f : RxFrame) (a : Fin 255) (c : BitVec 48 × Nat × Ident) (s : State), listening s n = true →
    isLegacy (tribAt s n) = false → heardBy (tribAt s n) f = true → frameOk (tribAt s n) f = true → (pduOf f.pdu).type = 5 →
    (pduOf f.pdu).dst = 0xFF → (pduOf f.pdu).len = 12 → field (pduOf f.pdu).body 8 1 = a.val → addrOk (tribAt s n) a.val = true →
    (modAt s n a).state = .absent →
    (tribAt s n).claims.find? (fun c => identUid c.2.2 = BitVec.ofNat 64 (field (pduOf f.pdu).body 0 8)) = some c →
    exec (.assignReceived n f) s = .next (onTrib (enterMod n a c.1 c.2.2 (goodFrame n s)) n fun t => { t with
      claims := t.claims.filter fun c => identUid c.2.2 ≠ BitVec.ofNat 64 (field (pduOf f.pdu).body 0 8) })) ∧
  (∀ (n : Fin 12) (s : State), listening s n = true → isLegacy (tribAt s n) = false →
    exec (.listenMissWindow n) s = .next ((pollList (tribAt s n)).foldl (fun s a =>
      if (modAt s n (Fin.ofNat 255 a)).heard then onMod s n (Fin.ofNat 255 a) fun m => { m with heard := false }
      else missed n (Fin.ofNat 255 a) s) s)) ∧
  (∀ (n : Fin 12) (s : State), tribRuns s n = true → isEth (tribAt s n) = true →
    exec (.phyStatusPoll n) s = .next { s with mdio := vmod s.mdio (busOf n) fun q => q ++ [⟨n, false, 1, 0, none⟩] }) ∧
  (∀ (b : Fin 2) (v : BitVec 16) (m : Mdio) (p : Fin 12) (tag : BitVec 16) (rest : List Mdio) (s : State), s.mdio[b] = m :: rest →
    m.write = false → m.cmd = some (p, tag) →
    exec (.mdioDone b true v) s = .next (onCmds (({ s with mdio := s.mdio.set b rest } : State).emit
      (.mdio b false (tribAt s (Fin.ofNat 12 m.port)).cfg.phyAddr m.reg v)) p (endCmd (portAlive s p) tag fun c => { c with
        phase := .finished, status := BitVec.ofNat 16 St.ok, result := v.zeroExtend 64 }))) ∧
  (∀ (n : Fin 12) (b : Bool) (s : State), b = decide (s.mir.role ≠ .standby ∧ !s.mir.handing) → (tribAt s n).token ≠ b →
    (tribAt s n).rollOpen = false → (tribAt s n).rollDue = false → isLegacy (tribAt s n) = false →
    exec (.tokenChange n b) s = .next (onTrib s n fun t => { t with
      token := b, toPoll := [], awaiting := [], inCycle := false, claims := [], first := true, de := false, txd := true }))
/-- Where a module's slot is latched, storing a staged update that fits a slot leaves every line of the latched slot with the value
and poison it had; where the update would go to that slot it stays staged, and nothing changes at all. The blocks lie in VOLATILE
segments, as a port's start has checked. -/
def Obligations.LatchedSlotIsKept : Prop :=
  ∀ (n : Fin 12) (a : Fin 255) (u : InUpdate) (slot : Bool) (at_ i : Nat) (s : State),
    (modAt s n a).heldUp = some u → (modAt s n a).latched = some (slot, at_) → 3 ≤ (tribAt s n).cfg.inStride →
    (u.bytes.length + 255) / 256 ≤ ((tribAt s n).cfg.inStride - 1) / 2 →
    (∀ k < (tribAt s n).cfg.inStride, (s.lineSeg (inBlock (tribAt s n) a + k)).cls = .volatile) →
    i < ((tribAt s n).cfg.inStride - 1) / 2 →
    (storeStaged n a s).lineValue (inBlock (tribAt s n) a + 1 + (if slot then ((tribAt s n).cfg.inStride - 1) / 2 else 0) + i) =
      s.lineValue (inBlock (tribAt s n) a + 1 + (if slot then ((tribAt s n).cfg.inStride - 1) / 2 else 0) + i) ∧
    (slot = !(modAt s n a).cur → storeStaged n a s = s) ∧
    (slot = (modAt s n a).cur → (modAt (storeStaged n a s) n a).cur = !slot ∧
      (modAt (storeStaged n a s) n a).seq = (modAt s n a).seq + 1 ∧ (modAt (storeStaged n a s) n a).heldUp = none)
/-- Sequencer n executes and fetches instruction i, whose unused fields are zero. An arithmetic instruction, LI and a load write rd
alone, a store writes data memory alone, at rs + imm, in range and aligned; an address out of range or not aligned traps DMEM. A
branch compares rs and rt and goes to the branch word's address plus its offset, or on; JMP, CALL and JR go to their targets, CALL
with the address of the next word in w15, and JR beyond 4,095 traps PC. CHK and CHKR go on below their limit and trap BOUND at or
above it. An instruction that completes advances the PC past its word, with its EXT word, and TIME by its cycles. -/
def Obligations.SeqArithmetic : Prop :=
  (∀ (n : Fin 12) (i : SIns) (s : State), Fetches n 0x01 zLow i s →
    exec (.add n) s = .next (complete n i 1 (setW i.rd (wreg (seqAt s n) i.rs + wreg (seqAt s n) i.rt)) s)) ∧
  (∀ (n : Fin 12) (i : SIns) (s : State), Fetches n 0x02 zLow i s →
    exec (.sub n) s = .next (complete n i 1 (setW i.rd (wreg (seqAt s n) i.rs - wreg (seqAt s n) i.rt)) s)) ∧
  (∀ (n : Fin 12) (i : SIns) (s : State), Fetches n 0x03 zLow i s →
    exec (.and n) s = .next (complete n i 1 (setW i.rd (wreg (seqAt s n) i.rs &&& wreg (seqAt s n) i.rt)) s)) ∧
  (∀ (n : Fin 12) (i : SIns) (s : State), Fetches n 0x04 zLow i s →
    exec (.or n) s = .next (complete n i 1 (setW i.rd (wreg (seqAt s n) i.rs ||| wreg (seqAt s n) i.rt)) s)) ∧
  (∀ (n : Fin 12) (i : SIns) (s : State), Fetches n 0x05 zLow i s →
    exec (.xor n) s = .next (complete n i 1 (setW i.rd (wreg (seqAt s n) i.rs ^^^ wreg (seqAt s n) i.rt)) s)) ∧
  (∀ (n : Fin 12) (i : SIns) (s : State), Fetches n 0x06 zLow i s →
    exec (.shl n) s = .next (complete n i 1 (setW i.rd (wreg (seqAt s n) i.rs <<< ((wreg (seqAt s n) i.rt).toNat % 32))) s)) ∧
  (∀ (n : Fin 12) (i : SIns) (s : State), Fetches n 0x07 zLow i s →
    exec (.shr n) s = .next (complete n i 1 (setW i.rd (wreg (seqAt s n) i.rs >>> ((wreg (seqAt s n) i.rt).toNat % 32))) s)) ∧
  (∀ (n : Fin 12) (i : SIns) (s : State), Fetches n 0x09 0 i s →
    exec (.addi n) s = .next (complete n i 1 (setW i.rd (wreg (seqAt s n) i.rs + i.imm)) s)) ∧
  (∀ (n : Fin 12) (i : SIns) (s : State), Fetches n 0x0A 0 i s →
    exec (.andi n) s = .next (complete n i 1 (setW i.rd (wreg (seqAt s n) i.rs &&& i.imm)) s)) ∧
  (∀ (n : Fin 12) (i : SIns) (s : State), Fetches n 0x0B 0 i s →
    exec (.ori n) s = .next (complete n i 1 (setW i.rd (wreg (seqAt s n) i.rs ||| i.imm)) s)) ∧
  (∀ (n : Fin 12) (i : SIns) (s : State), Fetches n 0x0C 0 i s →
    exec (.xori n) s = .next (complete n i 1 (setW i.rd (wreg (seqAt s n) i.rs ^^^ i.imm)) s)) ∧
  (∀ (n : Fin 12) (i : SIns) (s : State), Fetches n 0x0D zShift i s →
    exec (.shli n) s = .next (complete n i 1 (setW i.rd (wreg (seqAt s n) i.rs <<< (i.imm.toNat % 32))) s)) ∧
  (∀ (n : Fin 12) (i : SIns) (s : State), Fetches n 0x0E zShift i s →
    exec (.shri n) s = .next (complete n i 1 (setW i.rd (wreg (seqAt s n) i.rs >>> (i.imm.toNat % 32))) s)) ∧
  (∀ (n : Fin 12) (i : SIns) (s : State), Fetches n 0x0F zRs i s →
    exec (.li n) s = .next (complete n i 1 (setW i.rd i.imm) s)) ∧
  (∀ (n : Fin 12) (i : SIns) (s : State), Fetches n 0x10 0 i s → (wreg (seqAt s n) i.rs + i.imm).toNat ≤ 0x1FFF → (wreg (seqAt s n)
    i.rs + i.imm).toNat % 4 = 0 →
    exec (.ldw n) s = .next (complete n i 1 (fun q => setW i.rd (dmemWord q (wreg (seqAt s n) i.rs + i.imm).toNat) q) s)) ∧
  (∀ (n : Fin 12) (i : SIns) (s : State), Fetches n 0x11 0 i s → (wreg (seqAt s n) i.rs + i.imm).toNat ≤ 0x1FFF →
    exec (.ldb n) s = .next (complete n i 1 (fun q => setW i.rd ((dmemAt q (wreg (seqAt s n) i.rs + i.imm).toNat).zeroExtend 32) q) s)) ∧
  (∀ (n : Fin 12) (i : SIns) (s : State), Fetches n 0x12 0 i s → (wreg (seqAt s n) i.rs + i.imm).toNat ≤ 0x1FFF → (wreg (seqAt s n)
    i.rs + i.imm).toNat % 4 = 0 →
    exec (.stw n) s = .next (complete n i 1 (fun q => { q with
      dmem := mputs 0 q.dmem (wreg (seqAt s n) i.rs + i.imm).toNat (leBytes 4 (wreg q i.rd).toNat) }) s)) ∧
  (∀ (n : Fin 12) (i : SIns) (s : State), Fetches n 0x13 0 i s → (wreg (seqAt s n) i.rs + i.imm).toNat ≤ 0x1FFF →
    exec (.stb n) s = .next (complete n i 1 (fun q => { q with
      dmem := mset 0 q.dmem (wreg (seqAt s n) i.rs + i.imm).toNat ((wreg q i.rd).truncate 8) }) s)) ∧
  (∀ (n : Fin 12) (i : SIns) (s : State), Fetches n 0x10 0 i s → (0x1FFF < (wreg (seqAt s n) i.rs + i.imm).toNat ∨ (wreg (seqAt s n)
    i.rs + i.imm).toNat % 4 ≠ 0) →
    exec (.ldw n) s = .next (seqTrap n 4 i.word (wreg (seqAt s n) i.rs + i.imm) s)) ∧
  (∀ (n : Fin 12) (i : SIns) (s : State), Fetches n 0x18 0 i s →
    (wreg (seqAt s n) i.rd = wreg (seqAt s n) i.rs → (BitVec.ofNat 32 i.at_ + i.imm).toNat ≤ 4095 →
      exec (.beq n) s = .next (advance n i 2 (BitVec.ofNat 32 i.at_ + i.imm).toNat s)) ∧
    (wreg (seqAt s n) i.rd ≠ wreg (seqAt s n) i.rs → exec (.beq n) s = .next (complete n i 1 id s))) ∧
  (∀ (n : Fin 12) (i : SIns) (s : State), Fetches n 0x19 0 i s →
    (wreg (seqAt s n) i.rd ≠ wreg (seqAt s n) i.rs → (BitVec.ofNat 32 i.at_ + i.imm).toNat ≤ 4095 →
      exec (.bne n) s = .next (advance n i 2 (BitVec.ofNat 32 i.at_ + i.imm).toNat s)) ∧
    (wreg (seqAt s n) i.rd = wreg (seqAt s n) i.rs → exec (.bne n) s = .next (complete n i 1 id s))) ∧
  (∀ (n : Fin 12) (i : SIns) (s : State), Fetches n 0x1A 0 i s →
    ((wreg (seqAt s n) i.rd).toNat < (wreg (seqAt s n) i.rs).toNat → (BitVec.ofNat 32 i.at_ + i.imm).toNat ≤ 4095 →
      exec (.bltu n) s = .next (advance n i 2 (BitVec.ofNat 32 i.at_ + i.imm).toNat s)) ∧
    ((wreg (seqAt s n) i.rs).toNat ≤ (wreg (seqAt s n) i.rd).toNat → exec (.bltu n) s = .next (complete n i 1 id s))) ∧
  (∀ (n : Fin 12) (i : SIns) (s : State), Fetches n 0x1B 0 i s →
    ((wreg (seqAt s n) i.rs).toNat ≤ (wreg (seqAt s n) i.rd).toNat → (BitVec.ofNat 32 i.at_ + i.imm).toNat ≤ 4095 →
      exec (.bgeu n) s = .next (advance n i 2 (BitVec.ofNat 32 i.at_ + i.imm).toNat s)) ∧
    ((wreg (seqAt s n) i.rd).toNat < (wreg (seqAt s n) i.rs).toNat → exec (.bgeu n) s = .next (complete n i 1 id s))) ∧
  (∀ (n : Fin 12) (i : SIns) (s : State), Fetches n 0x1C zJ i s → i.imm.toNat ≤ 4095 →
    exec (.jmp n) s = .next (advance n i 2 i.imm.toNat s)) ∧
  (∀ (n : Fin 12) (i : SIns) (s : State), Fetches n 0x1D zJ i s → i.imm.toNat ≤ 4095 →
    exec (.call n) s = .next (advance n i 2 i.imm.toNat (onSeqr s n (setW 15 (BitVec.ofNat 32 i.next))))) ∧
  (∀ (n : Fin 12) (i : SIns) (s : State), Fetches n 0x1E (zRd ||| zRt ||| zLow) i s →
    ((wreg (seqAt s n) i.rs).toNat ≤ 4095 → exec (.jr n) s = .next (advance n i 2 (wreg (seqAt s n) i.rs).toNat s)) ∧
    (4095 < (wreg (seqAt s n) i.rs).toNat → exec (.jr n) s = .next (seqTrap n 3 i.word (wreg (seqAt s n) i.rs) s))) ∧
  (∀ (n : Fin 12) (i : SIns) (s : State), Fetches n 0x1F zRd i s →
    ((wreg (seqAt s n) i.rs).toNat < (i.imm).toNat → exec (.chk n) s = .next (complete n i 1 id s)) ∧
    ((i.imm).toNat ≤ (wreg (seqAt s n) i.rs).toNat → exec (.chk n) s = .next (seqTrap n 2 i.word (wreg (seqAt s n) i.rs) s))) ∧
  (∀ (n : Fin 12) (i : SIns) (s : State), Fetches n 0x17 (zRd ||| zLow) i s →
    ((wreg (seqAt s n) i.rs).toNat < (wreg (seqAt s n) i.rt).toNat → exec (.chkr n) s = .next (complete n i 1 id s)) ∧
    ((wreg (seqAt s n) i.rt).toNat ≤ (wreg (seqAt s n) i.rs).toNat → exec (.chkr n) s = .next (seqTrap n 2 i.word (wreg (seqAt s n)
      i.rs) s))) ∧
  (∀ (n : Fin 12) (i : SIns) (s : State), Fetches n 0x3E (zRd ||| zRs ||| zRt ||| zLow) i s → exec (.nop n) s = .next (complete n i 1
    id s))
/-- Sequencer n executes and fetches instruction i, whose unused fields are zero and whose operands are in range. Framing and rate
take effect where no character is being sent. SEND queues, RECV takes the oldest character or waits, DE, TXL and RXL reach the pins,
DRAIN, WAIT and WEDGE wait for what they name. Staging, IPUB, OSEL, OLDB, OLDW, OACK, MLD, MARR, MDEP, MQRY and MFS do as their rows say,
and HALT 0 with STOPREQ is a clean stop, every other HALT a trap USER. A wait that is met ends. Execution begins at ENTRY with
every register zero. A received character joins the receiver, and a sent one gives way to the next. SEQ_CONFIG and SEQ_QUERY of one
sequencer store and answer. -/
def Obligations.SeqLineAndModules : Prop :=
  (∀ (n : Fin 12) (i : SIns) (s : State), Fetches n 0x20 (zRd ||| zRt ||| zLow) i s → lcfgOk (wreg (seqAt s n) i.rs) = true → (seqAt s
    n).sending = none →
    exec (.lcfg n) s = .next (restLine n (complete n i 1 (setLine_ (.lcfg (wreg (seqAt s n) i.rs))) s))) ∧
  (∀ (n : Fin 12) (i : SIns) (s : State), Fetches n 0x21 (zRd ||| zRt ||| zLow) i s → 100 ≤ (wreg (seqAt s n) i.rs).toNat → (wreg
    (seqAt s n) i.rs).toNat ≤ 1818182 →
    (seqAt s n).sending = none → exec (.ldiv n) s = .next (complete n i 1 (fun q => { q with bitTime := (wreg (seqAt s n) i.rs).toNat
      }) s)) ∧
  (∀ (n : Fin 12) (i : SIns) (s : State), Fetches n 0x22 (zRd ||| zRt ||| zLow) i s → (txFull (seqAt s n) = false ∨ listening s n =
    true) →
    exec (.send n) s = .next (complete n i 1 (queueChar (listening s n) ((wreg (seqAt s n) i.rs).truncate 9)) s)) ∧
  (∀ (n : Fin 12) (i : SIns) (c : Word) (t : List Word) (s : State), Fetches n 0x23 (zRt ||| zLow) i s → (seqAt s n).rxq = c :: t →
    exec (.recv n) s = .next (complete n i 1 (takeChar i.rd) s)) ∧
  (∀ (n : Fin 12) (i : SIns) (s : State), Fetches n 0x23 (zRt ||| zLow) i s → (seqAt s n).rxq = [] →
    (wreg (seqAt s n) i.rs = 0 → exec (.recv n) s = .next (complete n i 1 (takeChar i.rd) s)) ∧
    (wreg (seqAt s n) i.rs ≠ 0 → exec (.recv n) s = .next (waitFor n i 1 (.recv i.rd (wreg (seqAt s n) i.rs)) s))) ∧
  (∀ (n : Fin 12) (i : SIns) (s : State), Fetches n 0x24 zBit i s →
    exec (.de n) s = .next (complete n i 1 id (onTrib s n fun t => { t with de := i.imm.getLsbD 0 && !listening s n }))) ∧
  (∀ (n : Fin 12) (i : SIns) (s : State), Fetches n 0x25 (zRd ||| zRs ||| zRt ||| zLow) i s →
    (drained_ (seqAt s n) = true → exec (.seqDrain n) s = .next (complete n i 1 id s)) ∧
    (drained_ (seqAt s n) = false → exec (.seqDrain n) s = .next (waitFor n i 1 .drain s))) ∧
  (∀ (n : Fin 12) (i : SIns) (s : State), Fetches n 0x26 0 i s → bits i.imm 0 2 ≠ 0 → wreg (seqAt s n) i.rs ≠ 0 →
    exec (.wedge n) s = .next (waitFor n i 1 (.wedge i.rd (i.imm.truncate 2) (wreg (seqAt s n) i.rs)) s)) ∧
  (∀ (n : Fin 12) (i : SIns) (s : State), Fetches n 0x27 zRd i s →
    (wreg (seqAt s n) i.rs + i.imm = 0 → exec (.seqWait n) s = .next (complete n i 1 id s)) ∧
    (wreg (seqAt s n) i.rs + i.imm ≠ 0 → exec (.seqWait n) s = .next (waitFor n i 1 (.cycles (wreg (seqAt s n) i.rs + i.imm)) s))) ∧
  (∀ (n : Fin 12) (i : SIns) (s : State), Fetches n 0x28 zBit i s → drained_ (seqAt s n) = true →
    exec (.txl n) s = .next (complete n i 1 id (setTxd n (i.imm.getLsbD 0) s))) ∧
  (∀ (n : Fin 12) (i : SIns) (b : Bool) (s : State), Fetches n 0x29 (zRs ||| zRt ||| zLow) i s →
    exec (.rxl n b) s = .next (complete n i 1 (setW i.rd (BitVec.ofNat 32 (b2n b))) (onTrib s n fun t => { t with rxd := b }))) ∧
  (∀ (n : Fin 12) (i : SIns) (s : State), Fetches n 0x30 0 i s → (wreg (seqAt s n) i.rs + i.imm).toNat + 1 ≤ 1024 →
    exec (.istb n) s = .next (complete n i 2 (fun q => { q with
      staging := mputs 0 q.staging (wreg (seqAt s n) i.rs + i.imm).toNat (leBytes 1 (wreg (seqAt s n) i.rd).toNat) }) s)) ∧
  (∀ (n : Fin 12) (i : SIns) (s : State), Fetches n 0x31 0 i s → (wreg (seqAt s n) i.rs + i.imm).toNat + 4 ≤ 1024 → (wreg (seqAt s n)
    i.rs + i.imm).toNat % 4 = 0 →
    exec (.istw n) s = .next (complete n i 2 (fun q => { q with
      staging := mputs 0 q.staging (wreg (seqAt s n) i.rs + i.imm).toNat (leBytes 4 (wreg (seqAt s n) i.rd).toNat) }) s)) ∧
  (∀ (n : Fin 12) (i : SIns) (a : Fin 255) (s : State), Fetches n 0x32 (zRd ||| zLow) i s → modNo (wreg (seqAt s n) i.rs) = some a →
    (modAt s n a).state.isLive = true → (wreg (seqAt s n) i.rt).toNat ≤ inLen ((modAt s n a).ident.getD 0) →
    exec (.ipub n) s = .next (complete n i 2 id (stageInput n a ⟨mgets 0 (seqAt s n).staging 0 (wreg (seqAt s n) i.rt).toNat,
      (wreg (seqAt s n) i.rt).toNat, 0, s.glb.time, (modAt s n a).ackSeq.getD 0, false⟩ s))) ∧
  (∀ (n : Fin 12) (i : SIns) (a : Fin 255) (s : State), Fetches n 0x33 (zRt ||| zLow) i s → modNo (wreg (seqAt s n) i.rs) = some a →
    exec (.osel n) s = .next (complete n i 2 (fun q => setW i.rd (BitVec.ofNat 32 (outStatus (modAt s n a))) { q with
      sel := (modAt s n a).image.map fun x => (a.val, x, (modAt s n a).outState) }) s)) ∧
  (∀ (n : Fin 12) (i : SIns) (k : Nat) (x : OutImage) (st : OutSt) (s : State), Fetches n 0x34 0 i s → (seqAt s n).sel = some (k, x,
    st) → st ≠ .none →
    (wreg (seqAt s n) i.rs + i.imm).toNat + 1 ≤ x.bytes.length →
    exec (.oldb n) s = .next (complete n i 2 (setW i.rd ((x.bytes.getD (wreg (seqAt s n) i.rs + i.imm).toNat 0).zeroExtend 32))
      s.draw.2)) ∧
  (∀ (n : Fin 12) (i : SIns) (k : Nat) (x : OutImage) (st : OutSt) (s : State), Fetches n 0x35 0 i s → (seqAt s n).sel = some (k, x,
    st) → st ≠ .none →
    (wreg (seqAt s n) i.rs + i.imm).toNat + 4 ≤ x.bytes.length → (wreg (seqAt s n) i.rs + i.imm).toNat % 4 = 0 →
    exec (.oldw n) s = .next (complete n i 2 (setW i.rd (BitVec.ofNat 32 (leNat ((x.bytes.drop (wreg (seqAt s n) i.rs +
      i.imm).toNat).take 4)))) s.draw.2)) ∧
  (∀ (n : Fin 12) (i : SIns) (k : Nat) (x : OutImage) (st : OutSt) (s : State), Fetches n 0x36 (zRd ||| zRs ||| zRt ||| zLow) i s →
    (seqAt s n).sel = some (k, x, st) →
    exec (.oack n) s = .next (complete n i 2 id (onMod s n (Fin.ofNat 255 k) fun m => { m with ackSeq := some x.pubSeq }))) ∧
  (∀ (n : Fin 12) (i : SIns) (s : State), Fetches n 0x37 0 i s → (wreg (seqAt s n) i.rs + i.imm).toNat < (seqAt s n).paramLen * 256 →
    (wreg (seqAt s n) i.rs + i.imm).toNat % 4 = 0 →
    ∀ l, l = windowLine (seqAt s n) (wreg (seqAt s n) i.rs + i.imm).toNat →
    (lineAway s l = false → exec (.mld n) s = .next (readWindow n i i.rd (wreg (seqAt s n) i.rs + i.imm).toNat 2 s)) ∧
    (lineAway s l = true →
      exec (.mld n) s = .next (askLine l (waitFor n i 2 (.mld i.rd (wreg (seqAt s n) i.rs + i.imm)) s)))) ∧
  (∀ (n : Fin 12) (i : SIns) (a : Fin 255) (s : State), Fetches n 0x38 zLow i s → (wreg (seqAt s n) i.rt).toNat % 4 = 0 → (wreg (seqAt
    s n) i.rt).toNat + 31 ≤ 0x1FFF →
    modNo (wreg (seqAt s n) i.rs) = some a →
    ∀ r, r = marrive n a (BitVec.ofNat 256 (leNat (mgets 0 (seqAt s n).dmem (wreg (seqAt s n) i.rt).toNat 32))) s →
    exec (.marr n) s = .next (complete n i 2 (setW i.rd r.1) r.2)) ∧
  (∀ (n : Fin 12) (i : SIns) (a : Fin 255) (s : State), Fetches n 0x39 zRd i s → modNo (wreg (seqAt s n) i.rs) = some a →
    exec (.mdep n) s = .next (complete n i 2 id (mdepart n a (i.imm.getLsbD 0) s))) ∧
  (∀ (n : Fin 12) (i : SIns) (s : State), Fetches n 0x3A (zRt ||| zLow) i s → (wreg (seqAt s n) i.rs).toNat ≤ 254 →
    exec (.mqry n) s = .next (complete n i 2 (setW i.rd (BitVec.ofNat 32 (modWord (tribAt s n) (wreg (seqAt s n) i.rs).toNat))) s)) ∧
  (∀ (n : Fin 12) (i : SIns) (v : Word) (s : State), Fetches n 0x3C zRs i s → special s n (seqAt s n) i.imm.toNat = some v → i.imm ≠ 0 →
    exec (.mfs n) s = .next (complete n i 1 (setW i.rd v) s)) ∧
  (∀ (n : Fin 12) (i : SIns) (s : State), Fetches n 0x3C zRs i s → i.imm = 0 →
    exec (.mfs n) s = .next (complete n i 1 (fun q => setW i.rd ((seqAt s n).time.truncate 32)
      { q with timeHi := ((seqAt s n).time >>> 32).truncate 32 }) s)) ∧
  (∀ (n : Fin 12) (i : SIns) (s : State), Fetches n 0x3D (zRd ||| zRs) i s →
    (i.imm = 0 → (seqAt s n).stopreq = true → exec (.halt n) s = .next (portStopped n (onTrib (onSeqr s n fun q => { q with
      exec := .clean, sel := none, txq := [], sending := none, time := q.time + 1 }) n fun t => { t with de := false }))) ∧
    ((i.imm ≠ 0 ∨ (seqAt s n).stopreq = false) → exec (.halt n) s = .next (seqTrap n 8 i.word i.imm s))) ∧
  (∀ (n : Fin 12) (b : Bool) (c k : Word) (s : State), (seqAt s n).exec = .waiting → (seqAt s n).wait = some (.cycles k) →
    exec (.seqWaitEnd n b c) s = .next (endWait n k.toNat id s)) ∧
  (∀ (n : Fin 12) (s : State), mayRun s n = true → (seqAt s n).exec = .off →
    exec (.seqExecBegin n) s = .next (setTxd n true (onSeqr s n fun q => { q with
      exec := .executing, pc := q.entry, regs := Vector.replicate 16 0, staging := [], wait := none, sel := none, time := 0,
      timeHi := 0, lcfg := 8, bitTime := 2000 }))) ∧
  (∀ (n : Fin 12) (c : BitVec 9) (p f b : Bool) (s : State), (seqAt s n).exec = .executing → (seqAt s n).rxq.length < 16 →
    exec (.lineCharReceived n c p f b false) s = .next (onSeqr s n fun q => { q with
      rxq := q.rxq ++ [packW [(0, c.toNat % 2 ^ (bits (seqAt s n).lcfg 0 4)), (16, b2n p), (17, b2n f), (18, b2n b),
        (19, b2n (seqAt s n).rxLost)]], rxLost := false })) ∧
  (∀ (n : Fin 12) (c d : BitVec 9) (t : List (BitVec 9)) (s : State), (seqAt s n).sending = some c → (seqAt s n).txq = d :: t →
    (seqAt s n).wait = none →
    ∃ u, exec (.lineCharSent n) s = .next u ∧ u.out = .tribChar n (charBits (seqAt s n).lcfg c) :: s.out ∧ (seqAt u n).sending = some d ∧
      (seqAt u n).txq = t ∧ u.ret = s.ret) ∧
  (∀ (d : Desc) (n : Nat) (s : State), Served seqConfigInfo d [n] s → seqConfigOk d = true → s.lifeOf .seq n = .stopped →
    exec (.seqConfig d) s = .next (storingAs St.ok d 0x0C10 [n] [setting 0x0C10 n (paramBytes d)] (maskOf [n]) s)) ∧
  (∀ (u : DueSet) (n : Nat) (s : State), u.op = 0x0C10 → u.ts = [n] →
    settingApply u s = onSeqr s (Fin.ofNat 12 n) (seqSettings u.desc.p)) ∧
  (∀ (d : Desc) (n : Nat) (s : State), Served seqQueryInfo d [n] s →
    exec (.seqQuery d) s = .next (finish d St.ok (queryResult d [n] (pack [(0, seqStat s (Fin.ofNat 12 n)),
      (32, (seqAt s (Fin.ofNat 12 n)).id.toNat)])) s))
/-- A frame that is next in order on an UP link is taken. LINK frames acknowledge, a bad CRC is answered with NAK, and a replay
time-out replays. A DOWN port retrains; training that fails for the third time leaves a mirror port DOWN. On the PRIMARY a
packet takes the next PSEQ and is read and sent as soon as it can be, written LATEST lines are due as one packet, and an ACK acknowledges every packet up to its
PSEQ. On the STANDBY wanted LINES and EPOCH_END frames are kept, RESTART drops a packet, and the next complete packet is applied and
acknowledged; HANDOVER and DYING switch over. Silence leaves a PRIMARY SOLO. -/
def Obligations.MirrorFrames : Prop :=
  (∀ (l : LinkId) (h : LinkHdr) (m : LinkMsg) (s : State), isUp s l = true → h.nak = false → (linkOf s l).window = [] →
    (linkOf s l).backlog = [] → (linkOf s l).hold = [] → h.fseq = (linkOf s l).ackseq + 1 → (∀ x ∈ s.mir.unacked, x.ended = true) → ∃ t, receive l h m s = (true, t) ∧
      linkOf t l = { linkOf s l with got := (linkOf s l).got + 12 + msgLen m, ackseq := h.fseq, owes := true } ∧ t.ret = s.ret ∧ t.out = s.out) ∧
  (∀ (l : LinkId) (h : LinkHdr) (s : State), isUp s l = true →
    exec (.linkFrame l h) s = .next (takeAck l h (onLink s l fun p => { p with got := p.got + 12 })) ∧
    exec (.frameCrcBad l) s = .next (emitAck l true (onLink s l fun p => { p with errs := p.errs ||| 1 })) ∧
    ((linkOf s l).window ≠ [] → exec (.replayTimeout l) s = .next (replay l (match l with
      | .mir _ => onLink s l fun p => { p with errs := p.errs ||| 2 }
      | .conf _ => s)))) ∧
  (∀ (l : LinkId) (s : State), s.life[lifeOfLink l].life = .running → s.glb.state ≠ 3 → (linkOf s l).link = .down →
    exec (.mirLinkRetrain l) s = .next (onLink s l fun k => { k with
      link := .training, retrains := sat 8 (k.retrains + 1), failed := 2 })) ∧
  (∀ (p : Fin 2) (s : State), s.life[lifeOfLink (.mir p)].life = .running → (linkOf s (.mir p)).link = .training →
    exec (.linkTrained (.mir p) true) s = .next (mirPortUp p s) ∧
    ((linkOf s (.mir p)).failed = 2 → exec (.linkTrained (.mir p) false) s =
      .next (mirPortDown p .down (onLink s (.mir p) fun k => { k with errs := k.errs ||| 8 })))) ∧
  (∀ s : State, exec .helloSend s = .next (sendMir (.hello (helloOf s)) s)) ∧
  (∀ (p : Fin 2) (h : LinkHdr) (m : Hello) (s t : State), Arrives (.mir p) h (.hello m) auObserve s t →
    exec (.helloFrame p h m) s = .next (finishHandOver (hearHello m t))) ∧
  (∀ (q : PktDue) (m : Mir) (s : State), s.mir.role = .primary → anyMirUp s = true → (∀ x ∈ s.mir.unacked, x.read = true) →
    nextPacket s = some (some q, m) →
    exec .packetBegin s = .next (finishHandOver (readBegun 1 (onMir s fun _ => { m with
      pseq := m.pseq + 1, unacked := m.unacked ++ [⟨m.pseq + 1, q, false, [], false, 0, false⟩] })))) ∧
  (∀ s : State, s.mir.role = .primary → s.mir.latest ≠ [] →
    exec .latestPacketDue s = .next (onMir s fun m => { m with
      due := m.due ++ [⟨3, 0xFF, 0, 0, s.mir.latest, false, .none⟩], latest := [] })) ∧
  (∀ (p : Fin 2) (h : LinkHdr) (q i : Nat) (es : List LineEntry) (s t : State), Arrives (.mir p) h (.lines q i es) auMirror s t →
    wanted q t = true → (rxOf q t).frames.any (·.1 = i) = false →
    exec (.linesFrame p h q i es) s = .next (settleWeir (reportHave q (admitRx (setRx { rxOf q t with
      frames := (rxOf q t).frames ++ [(i, es)],
      waiting := (rxOf q t).waiting ++ es.map ((fabricOf (.mir p), ·)) } t))))) ∧
  (∀ (p : Fin 2) (h : LinkHdr) (e : EpochEnd) (s t : State), Arrives (.mir p) h (.epochEnd e) auMirror s t → wanted e.pseq t = true →
    (rxOf e.pseq t).fin = none →
    exec (.epochEnd p h e) s = .next (reportHave e.pseq (setRx { rxOf e.pseq t with fin := some e } t))) ∧
  (∀ (p : Fin 2) (h : LinkHdr) (q : Nat) (s t : State), Arrives (.mir p) h (.restart q true) auMirror s t → wanted q t = true →
    t.mir.restarted.contains (q, 1 - p.val) = false →
    exec (.restartFrame p h q true) s = .next (settleWeir (onMir t fun m => { m with
      rx := m.rx.filter (·.pseq ≠ q), restarted := (q, p.val) :: m.restarted.filter (· ≠ (q, p.val)) }))) ∧
  (∀ (p : Fin 2) (h : LinkHdr) (a : Nat) (b : Bool) (s t : State), Arrives (.mir p) h (.ack a b) auMirror s t → t.mir.role = .primary →
    exec (.ackFrame p h a b) s = .next (settleWeir (finishHandOver ((t.mir.unacked.filter fun x => x.pseq ≤ a).foldl
      (fun s x => if x.due.sliceLast then noteSynced x.due.ctx s else s)
      (onMir t fun m => { m with unacked := m.unacked.filter fun x => a < x.pseq }))))) ∧
  (∀ (q : PktRx) (e : EpochEnd) (s : State), s.mir.role = .standby → applicable s = some (q, e) →
    exec .packetApply s = .next (settleWeir (admitRx (sendMir (.ack (ackable (applyPacket q e s)) (applyPacket q e s).mir.synced)
      (applyPacket q e s))))) ∧
  (∀ (p : Fin 2) (h : LinkHdr) (n c : Nat) (s t : State), t.mir.role = .standby →
    (Arrives (.mir p) h (.handover n) auMirror s t → exec (.handover p h n) s = .next (settleWeir (switchover 3 true t))) ∧
    (Arrives (.mir p) h (.dying n c) auMirror s t → exec (.dying p h n c) s = .next (settleWeir (switchover 1 true t)))) ∧
  (∀ s : State, s.glb.state ≠ 3 →
    (s.mir.role = .primary → exec .mirDeadTimeout s = .next (settleWeir (goSolo 4 (partnerLost s)))) ∧
    (s.mir.role = .standby → s.mir.autoSilent = true → exec .mirDeadTimeout s = .next (settleWeir (switchover 2 true (partnerLost s)))))
/-- Sending a frame, and taking an acknowledgement with or without NAK, keep the replay window of every port at 64 frames or fewer,
its frames numbered without a gap up to the newest. -/
def Obligations.ReplayWindowIsNumbered : Prop :=
  ∀ (l k : LinkId) (m : LinkMsg) (h : LinkHdr) (s : State), Numbered (linkOf s k) →
    Numbered (linkOf (sendOn l m s) k) ∧ Numbered (linkOf (takeAck l h s) k)
/-- A carried entry of a built segment that exists, home memory being in its canonical form: a line of an EPOCH segment becomes COMMITTED with STAMP 0, one of a LATEST segment
DIRTY, one of a CONSTANT segment WRITTEN, each with the carried value and poison; one of a VOLATILE segment stays as it is. Every other
line keeps its state, value and poison, and no segment and no context changes. -/
def Obligations.CarriedLineTakesItsValue : Prop :=
  ∀ (e : LineEntry) (l k : Nat) (s : State), l = e.line.toNat % 2 ^ 30 → s.segExists (segOf l) = true → s.unbuilt (segOf l) = false →
    e.value.length = 256 → mwf 0 s.ret.dram = true → k ≠ l →
    ((s.lineSeg l).cls = .epoch → (storeEntry e s).eff l = (.committed, false) ∧ ((storeEntry e s).lineAt l).stamp = 0) ∧
    ((s.lineSeg l).cls = .latest → ((storeEntry e s).eff l).1 = .dirty) ∧
    ((s.lineSeg l).cls = .constant → ((storeEntry e s).eff l).1 = .written) ∧
    ((s.lineSeg l).cls ≠ .volatile → (storeEntry e s).lineValue l = (e.value, e.poison)) ∧
    ((s.lineSeg l).cls = .volatile → storeEntry e s = s) ∧
    (storeEntry e s).lineAt k = s.lineAt k ∧ (storeEntry e s).lineValue k = s.lineValue k ∧
    (storeEntry e s).ret.segs = s.ret.segs ∧ (storeEntry e s).ret.ctx = s.ret.ctx
/-- A forming chip sends JOIN on its wired ports, and keeps those it hears; slot 0's FORMED gives membership; a chip that does not form
in time has failed, and tries again. A frame of a member that is not lost is acted on: WR offers its write to the retention engine, or
waits unacknowledged in its port where the weir does not admit it, RD_REQ starts a read, RD_CPL of the last lines ends one, PREPARE holds the context and PREPARED from the last owner closes it, COMMIT
and ABANDON move a member's copy, RESOLVE and its time-out end deferred abandons, CTXSYNC, EPOCHS, ROLE, APPLY, HAVE and SWITCH tell what they
carry. A lost peer is declared and told. An idle link acknowledges, and an elastic buffer at its limit retrains. -/
def Obligations.ConfluenceFrames : Prop :=
  (∀ s : State, s.conf.form = .forming → s.conf.chips ≠ 1 →
    exec .joinSend s = .next ((wired s).foldl (fun s p => sendOn (.conf p) (.join (joinOf s p)) s)
      (onConf s fun k => { k with firstJoin := k.firstJoin.or (some s.now) }))) ∧
  (∀ (p : Fin 3) (h : LinkHdr) (j : Join) (s t : State), Arrives (.conf p) h (.join j) auObserve s t → t.slu.phase = .idle →
    t.conf.form ≠ .formed → exec (.joinFrame p h j) s = .next (tryForm (onConf t fun k => { k with
      joins := k.joins.set p (some j), firstJoin := k.firstJoin.or (some t.now) }))) ∧
  (∀ (p : Fin 3) (h : LinkHdr) (m : BitVec 4) (s t : State), Arrives (.conf p) h (.formed m) auPeer s t → t.slu.phase = .idle →
    slotAt t p = 0 → m.getLsbD t.slot = true → t.conf.form ≠ .formed →
    ∃ u, exec (.formed p h m) s = .next u ∧ u.conf.form = .formed ∧ u.conf.members = m ∧ u.conf.lost = 0 ∧ u.ret = t.ret) ∧
  (∀ s : State, s.conf.form = .forming → s.conf.firstJoin.isSome = true →
    ∃ u, exec .confFormTimeout s = .next u ∧ u.conf.form = .failed ∧ u.ret = s.ret ∧
      (∀ r j, formFault s = some (r, j) → u.conf.reason = r) ∧
      (formFault s = none → s.slot ≠ 0 ∨ s.conf.chips ≤ 2 → u.conf.reason = 1)) ∧
  (∀ s : State, s.conf.form = .failed → exec .confFormRetry s = .next (onConf s fun k => { k with
    form := .forming, joins := Vector.replicate 3 none, firstJoin := none })) ∧
  (∀ (p : Fin 3) (h : LinkHdr) (a : BitVec 40) (bs : List Byte) (po mg : Bool) (s t : State),
    Arrives (.conf p) h (.wr a.toNat bs po mg) auPeer s t → OfMember p t → (offerWr p a.toNat bs po s).isSome = true →
    (∀ u, offerWr p a.toNat bs po t = some u → exec (.wr p h a bs po mg) s = .next u) ∧
    (∀ u, t.here a.toNat = true → standbyDrops t (lineOf (localOf a.toNat)) = false →
      (t.ret.held.any (·.fp = fabricOf (.conf p))) = false →
      takeWrite (fabricOf (.conf p)) (localOf a.toNat) (bs.map some) (tlpPoison po) false t = .accepted u →
      exec (.wr p h a bs po mg) s = .next (settleWeir u))) ∧
  (∀ (p : Fin 3) (h : LinkHdr) (a : BitVec 40) (bs : List Byte) (po mg : Bool) (s : State), isUp s (.conf p) = true →
    (linkOf s (.conf p)).hold = [] → h.fseq = (linkOf s (.conf p)).ackseq + 1 → s.holds (arrivalOf (.conf p)) auPeer = true →
    OfMember p s → offerWr p a.toNat bs po s = none →
    exec (.wr p h a bs po mg) s = .next (onLink (takeAck (.conf p) h s) (.conf p) fun k => { k with
      hold := [(h.fseq, .wr a.toNat bs po mg)], got := k.got + 12 + msgLen (.wr a.toNat bs po mg) })) ∧
  (∀ (p : Fin 3) (h : LinkHdr) (g : BitVec 16) (n : Nat) (a : BitVec 40) (s t : State),
    Arrives (.conf p) h (.rdReq g.toNat n a.toNat) auPeer s t → OfMember p t → t.here a.toNat = true →
    t.here (a.toNat + 256 * n - 1) = true → 1 ≤ n →
    exec (.rdReq p h g n a) s = .next (takeRead (.peer g.toNat) (fabricOf (.conf p)) (localOf a.toNat / 256 * 256) (256 * n) t)) ∧
  (∀ (p : Fin 3) (h : LinkHdr) (g : BitVec 16) (i : Nat) (es : List LineEntry) (r : RemRead) (s t : State),
    Arrives (.conf p) h (.rdCpl g.toNat i 0 es) auPeer s t → OfMember p t → t.conf.reads.find? (·.tag = g.toNat) = some r →
    (linesFrom r.addr r.len).length ≤ r.got.length + es.length →
    exec (.rdCpl p h g i false es) s = .next (endRemote { r with got := r.got ++ (es.zipIdx.map fun q => (i + q.2, q.1)) } t)) ∧
  (∀ (p : Fin 3) (h : LinkHdr) (c : Fin 16) (e : Nat) (s t : State), OfMember p t → (t.ctxAt c).epoch = e →
    (Arrives (.conf p) h (.prepare c e) auPeer s t → exec (.prepare p h c e) s =
      .next (tellPrepared (setPrep c (fun _ => ⟨1, t.now, e, 0, (t.ctxAt c).settled, none⟩) t))) ∧
    (Arrives (.conf p) h (.prepared c e) auPeer s t → t.conf.prep[c].phase ≠ 0 → t.conf.prep[c].epoch = e → actsHome t c = true →
      (∀ j ∈ otherOwners t c, (t.conf.prep[c].done ||| BitVec.ofNat 4 (2 ^ slotAt t p)).getLsbD j = true) →
      exec (.prepared p h c e) s = .next (settleWeir (closeSpanning c (setPrep c (fun k => { k with
        done := t.conf.prep[c].done ||| BitVec.ofNat 4 (2 ^ slotAt t p) }) t)))) ∧
    (Arrives (.conf p) h (.commit c e) auPeer s t → t.conf.prep[c].phase ≠ 0 →
      exec (.commit p h c e) s = .next (settleWeir (resolved c
        (memberClose c e (if t.conf.resolving.getLsbD c.val then forceAging c t else t))))) ∧
    (∀ k : BitVec 3, Arrives (.conf p) h (.abandon c k.toNat e) auPeer s t →
      (e < terminalEpoch → agingBlocks t c (e + 1) = false) →
      exec (.abandon p h c k e) s = .next (settleWeir (abandonNow c k.toNat (afterAbandon (t.ctxAt c)) (setPrep c (fun _ => Prep.idle) t))))) ∧
  (∀ (p : Fin 3) (h : LinkHdr) (es : List (Fin 16 × Nat)) (s t : State),
    Arrives (.conf p) h (.resolve (es.map fun q => (q.1.val, q.2))) auPeer s t → OfMember p t →
    exec (.resolveFrame p h es) s = .next (settleWeir (takeResolve es t))) ∧
  (∀ (c : Fin 16) (s : State), s.conf.resolving = BitVec.ofNat 16 (2 ^ c.val) →
    exec .resolveTimeout s = .next (settleWeir (resolved c (setPrep c (fun _ => Prep.idle) s)))) ∧
  (∀ (p : Fin 3) (h : LinkHdr) (c : Fin 16) (r : CtxRec) (e : Nat) (es : List (Fin 16 × Nat)) (s t : State), OfMember p t →
    (Arrives (.conf p) h (.ctxsync c r) auPeer s t → exec (.ctxsync p h c r) s = .next (takeCtxsync c r t)) ∧
    (Arrives (.conf p) h (.epochs (es.map fun q => (q.1.val, q.2))) auPeer s t →
      exec (.epochs p h es) s = .next (takeEpochs (slotAt t p) es t)) ∧
    (Arrives (.conf p) h (.apply c e) auPeer s t → exec (.applyEpoch p h c e) s = .next (onMir t fun m => { m with
      applyTo := (c.val, max e (appliedTo t c)) :: m.applyTo.filter (fun (x : Nat × Nat) => x.1 ≠ c.val) })) ∧
    (Arrives (.conf p) h (.have_ c e) auPeer s t → exec (.haveEpoch p h c e) s = .next (noteHave (slotAt t p) c e t))) ∧
  (∀ (p : Fin 3) (h : LinkHdr) (r : Role) (k : Nat) (j : Fin 4) (s t : State), OfMember p t →
    (Arrives (.conf p) h (.role (Role.code r) k) auPeer s t →
      exec (.roleFrame p h r k) s = .next (settleWeir (takeRoleFrame (slotAt t p) r k t))) ∧
    (Arrives (.conf p) h (.switch k) auPeer s t → t.mir.role = .standby →
      exec (.switchFrame p h k) s = .next (settleWeir (switchover k false t))) ∧
    (Arrives (.conf p) h (.switch 3) auPeer s t → t.mir.role = .primary → switchWaits t = false → t.mir.handing = false →
      (∃ m, t.mir.partner = some m ∧ m.role = 2) →
      exec (.switchFrame p h 3) s = .next (settleWeir (handOver t))) ∧
    (Arrives (.conf p) h (.lost j) auPeer s t → j.val ≠ t.slot →
      exec (.lostFrame p h j) s = .next (settleWeir (declareLost j.val t)))) ∧
  (∀ (j : Fin 4) (s : State), j.val ≠ s.slot → s.conf.members.getLsbD j.val = true → s.conf.lost.getLsbD j.val = false →
    exec (.peerLost j) s = .next (settleWeir (sendTo (peers (declareLost j.val s)) (.lost j.val) (declareLost j.val s)))) ∧
  (∀ (p : Fin 3) (s : State), isUp s (.conf p) = true → exec (.confLinkIdle p) s = .next (emitAck (.conf p) false s) ∧
    exec (.elasticLimit p) s = .next (retrain (.conf p) 1 s))
/-- Served commands. MIR_CONFIG with both ports OFF or STOPPED stores its settings, which take
effect once they are durable. MIR_QUERY answers. MIR_SWITCH on a PRIMARY
with a synced partner hands over and waits for its HELLO, or for the time-out, which leaves the chip SOLO; with FORCE a chip that was
STANDBY switches over. MIR_RESYNC on a PRIMARY with a partner starts a resynchronisation. CONF_QUERY answers CONF_STAT and CONF_HOME.
CONF_CONFIG and BOOT_CONF_CHIPS, with PARAM in range, store settings for the next reset, the latter with the stored ones but for CHIPS,
and change nothing now. -/
def Obligations.LinkCommands : Prop :=
  (∀ (d : Desc) (s : State), Served mirConfigInfo d [0] s → mirConfigOk d = true → portIdle (s.lifeOf .mir 0) = true →
    portIdle (s.lifeOf .mir 1) = true →
    exec (.mirConfig d) s = .next (storing d 0x0D10 [setting 0x0D10 0xFF (paramBytes d)] 0 s)) ∧
  (∀ (u : DueSet) (s : State), u.op = 0x0D10 → settingApply u s = onMir s (mirSettings u.desc.p)) ∧
  (∀ (d : Desc) (s : State), Served mirQueryInfo d [0] s →
    exec (.mirQuery d) s = .next (finish d St.ok (pack [(0, (mirStat s).toNat), (32, s.mir.pseq % 2 ^ 32)]) s)) ∧
  (∀ (d : Desc) (s : State), Served mirSwitchInfo d [0] s →
    (d.bit 16 0 = true → s.mir.role = .solo → s.mir.wasStandby = true →
      exec (.mirSwitch d) s = .next (settleWeir (finish d St.ok (switchover 4 true s).mir.pseq (switchover 4 true s)))) ∧
    (d.bit 16 0 = false → s.mir.role = .primary → s.mir.synced = true → switchWaits s = false →
      ∀ t, t = handOver (allPeers (.switch 3) s) →
      exec (.mirSwitch d) s = .next (settleWeir (running d .mirSwitch t.mir.pseq t)))) ∧
  (∀ (d : Desc) (s : State), Served mirResyncInfo d [0] s → s.mir.partner.isSome = true → s.mir.role = .primary →
    exec (.mirResync d) s = .next (settleWeir (finish d St.ok 0 (resync s)))) ∧
  (∀ s : State, s.mir.switching = true → ∃ t, exec .mirSwitchTimeout s = .next t ∧ t.mir.switching = false ∧ t.mir.role = .solo ∧
    t.ret.lines = s.ret.lines ∧ (s.mir.role ≠ .primary → t.mir.ctxSynced = s.mir.ctxSynced)) ∧
  (∀ (d : Desc) (s : State), Served confQueryInfo d [0] s →
    exec (.confQuery d) s = .next (finish d St.ok (pack [(0, (confStat s).toNat), (32, s.conf.home.toNat)]) s)) ∧
  (∀ (d : Desc) (s : State), Served confConfigInfo d [0] s → confConfigOk d = true →
    exec (.confConfig d) s = .next (storing d 0x0E11 [setting 0x0E11 0xFF (paramBytes d)] 0 s)) ∧
  (∀ (d : Desc) (s : State), Served bootConfChipsInfo d [0] s → 1 ≤ d.p 16 1 → d.p 16 1 ≤ 4 →
    exec (.bootConfChips d) s = .next (storing d 0x1220 [setting 0x0E11 0xFF (withChips (d.p 16 1) s)] 0 s)) ∧
  (∀ (u : DueSet) (s : State), u.op = 0x0E11 ∨ u.op = 0x1220 → settingApply u s = s)
/-- When a chip declares a member lost: every context that the lost slot is home of or owns segments of keeps its committed epoch and is no
longer RELEASED. Unless the terminal epoch was open, which no abandon changes, it is ABANDONED where it was RUNNING, or stays in its
state, and opens the next epoch; where aging holds the stamp of that epoch back, the abandon is deferred and the epoch stays open until
then. Every other context is exactly as it was. -/
def Obligations.PeerLoss : Prop :=
  ∀ (j : Nat) (c : Fin 16) (s : State), j ≠ s.slot → s.conf.members.getLsbD j = true → s.conf.lost.getLsbD j = false →
    (declareLost j s).conf.lost.getLsbD j = true ∧
    (spansSlot s j c = true → ((declareLost j s).ctxAt c).commit = (s.ctxAt c).commit ∧
      ((declareLost j s).ctxAt c).released = false ∧
      (terminalEpoch ≤ (s.ctxAt c).epoch → ((declareLost j s).ctxAt c).epoch = (s.ctxAt c).epoch ∧
        ((declareLost j s).ctxAt c).mode = (s.ctxAt c).mode) ∧
      ((s.ctxAt c).epoch < terminalEpoch → agingBlocks s c ((s.ctxAt c).epoch + 1) = false →
        ((declareLost j s).ctxAt c).mode = afterAbandon (s.ctxAt c) ∧ ((declareLost j s).ctxAt c).epoch = (s.ctxAt c).epoch + 1) ∧
      ((s.ctxAt c).epoch < terminalEpoch → agingBlocks s c ((s.ctxAt c).epoch + 1) = true → ((declareLost j s).ctxAt c).epoch = (s.ctxAt c).epoch ∧
        ((declareLost j s).ctxAt c).deferred = some (.abandon 4 none))) ∧
    (spansSlot s j c = false → (declareLost j s).ctxAt c = s.ctxAt c)
/-- A rail whose dependencies are good is enabled; in its window for the stable time it is GOOD at a reading in the window; the third chatter and a rise time-out
are start failures, and one in NORMAL mode with a retry left shuts everything down for the retry off time, any other for the latch. A
fault of a GOOD rail that ignores faults leaves it enabled in OUT. A rail to stop is disabled once its dependants have fallen, and a
slow fall counts as fallen, a fallen rail reading less than its FALL threshold. A reset output is released when its rails are good. SEQUENCE_START takes the table and starts every used
rail; the off times end in a new sequence or in OFF. A measurement starts when due, and its end records ESR and C; a charge time-out is
reported once. Served PWR commands answer the registers, store a valid table, start or stop a group, clear the latch, ask for a
measurement, and order a save. -/
def Obligations.PowerRows : Prop :=
  (∀ (r : Fin 16) (s : State), (s.pwr.rail[r]).start = true → (s.pwr.rail[r]).enPin = false → (s.pwr.rail[r]).mode ≠ .falling →
    (∀ d < 16, (s.pwr.rail[r]).cfg.dep.getLsbD d = true → (railAt s d).mode.isGood = true) →
    exec (.railEnable r) s = .next (onRail s r fun x => { x with enPin := true, mode := .rising, attempts := 0, inWin := false, pgPin := false })) ∧
  (∀ (r : Fin 16) (s : State), (s.pwr.rail[r]).enPin = true → ((s.pwr.rail[r]).mode = .rising ∨ (s.pwr.rail[r]).mode = .out) →
    ∃ mv, (s.pwr.rail[r]).cfg.uv ≤ mv ∧ ((s.pwr.rail[r]).cfg.uv ≤ (s.pwr.rail[r]).cfg.ov → mv ≤ (s.pwr.rail[r]).cfg.ov) ∧
      exec (.railStable r) s = .next (settleStart (onRail s.draw.2 r fun x => widen mv { x with
        mv := mv, mode := .good, inWin := true, pgPin := x.pgPin || x.cfg.pgEn, start := false, retrySeq := false }))) ∧
  (∀ (r : Fin 16) (k : RailBad) (v : Nat) (s : State), (s.pwr.rail[r]).enPin = true → (s.pwr.rail[r]).cfg.en = true →
    (k = .pg → (s.pwr.rail[r]).cfg.pgEn = true) →
    ((s.pwr.rail[r]).mode = .rising → (s.pwr.rail[r]).attempts < 2 → exec (.railExcursion r k v) s =
      .next (onRail s r fun x => { x with mv := v, attempts := x.attempts + 1, inWin := decide (k = .pg) })) ∧
    ((s.pwr.rail[r]).mode = .good → (s.pwr.rail[r]).cfg.react = 0 → reacts s = true → (s.pwr.rail[r]).cfg.retain = false →
      ∃ t, exec (.railExcursion r k v) s = .next t ∧ (t.pwr.rail[r]).mode = .out ∧ (t.pwr.rail[r]).enPin = true ∧
        (t.pwr.rail[r]).lastFault = badCode k ∧ t.pwr.fault = s.pwr.fault ||| BitVec.ofNat 16 (2 ^ r.val) ∧ t.ret = s.ret)) ∧
  (∀ (r : Fin 16) (s : State), (s.pwr.rail[r]).enPin = true → (s.pwr.rail[r]).mode = .rising → (s.pwr.rail[r]).stop = false →
    exec (.railRiseTimeout r) s = .next (startFail r 4 s)) ∧
  (∀ (r : Fin 16) (s : State), (s.pwr.rail[r]).stop = true → (s.pwr.rail[r]).enPin = true →
    (∀ d < 16, (railAt s d).cfg.dep.getLsbD r.val = true → (railAt s d).alive = false) →
    exec (.railDisable r) s = .next (onRail s r fun x => { x with enPin := false, mode := .falling, stop := false, inWin := false })) ∧
  (∀ (r : Fin 16) (v : Nat) (s : State), (s.pwr.rail[r]).mode = .falling →
    (∃ mv, mv < max 1 (s.pwr.rail[r]).cfg.fall ∧ exec (.railFallen r) s = .next (settleOff (onRail s.draw.2 r fun x => { x with
      mode := .off, inWin := false, mv := mv, pgPin := false }))) ∧
    exec (.railFallSlow r v) s = .next (fallen r (raisePwrLim 0x0F12 r.val [(16, r.val), (20, v)] (onPwr (onRail s r fun x => { x with
      lastFault := 6, mv := v }) fun p => { p with fault := p.fault ||| BitVec.ofNat 16 (2 ^ r.val) })))) ∧
  (∀ (r : Fin 16) (s : State), (s.pwr.rail[r]).enPin = true →
    exec (.railGlitch r) s = .next (onRail s r fun x => { x with glitch := sat 16 (x.glitch + 1) })) ∧
  (∀ (k : Fin 6) (s : State), s.pwr.seq = .on → s.pwr.vddAon = true →
    (∀ r < 16, (s.pwr.rst[k]).rails.getLsbD r = true → (railAt s r).mode.isGood = true) →
    exec (.rstoutStretchEnd k) s = .next (onPwr s fun p => { p with rst := vmod p.rst k fun o => { o with asserted := false } })) ∧
  (∀ s : State, s.pwr.seq = .off → s.pwr.vddAon = true → s.slu.inputGood = true → s.pwr.minOffDone = true →
    ∃ t, exec .sequenceStart s = .next t ∧ t.pwr.seq = .starting ∧ t.pwr.tableNew = false ∧ t.pwr.retry = 0 ∧ t.ret = s.ret ∧
      t.pwr.mode = (if (readTable s).pwr.tableRom ∨ s.pwr.tableNew then 1 else s.pwr.nextMode) ∧
      ∀ r : Fin 16, (t.pwr.rail[r]).start = ((readTable s).pwr.rail[r]).cfg.en) ∧
  (∀ s : State, s.pwr.seq = .offWait →
    (s.pwr.offThen = 2 → ∃ t, exec .retryOffExpire s = .next t ∧ t.pwr.seq = .starting ∧ t.pwr.mode = s.pwr.mode ∧
      t.pwr.retry = s.pwr.retry + 1 ∧ t.ret = s.ret) ∧
    (s.pwr.offThen = 1 → ∃ t, exec .minOffExpire s = .next t ∧ t.pwr.seq = .off ∧ t.pwr.minOffDone = true ∧ t.ret = s.ret)) ∧
  (∀ s : State, s.pwr.vddAon = false → exec (.vddAonPor true) s = .next (readTable (onPwr s fun p => { p with vddAon := true }))) ∧
  (∀ s : State, s.pwr.vddAon = true → ∃ t, exec (.vddAonPor false) s = .next t ∧ t.pwr.latch = none ∧ t.pwr.seq = .off ∧
    t.boot.coreOut = false ∧ t.store.blocks = (cutNand s).store.blocks ∧ t.bkd.time = s.bkd.time) ∧
  (∀ (v : Nat) (s : State), s.pwr.hubSt ≠ .measuring → s.pwr.hubSt ≠ .saving → s.pwr.hub.target ≤ v → v * 100 ≤ s.pwr.hub.target * 105 →
    s.pwr.overvolt = false → s.pwr.measDue = false → s.pwr.measCmd = false →
    ∃ t, exec (.hubSample v) s = .next t ∧ t.pwr.vbank = v ∧ t.pwr.chg = false ∧ t.pwr.bal = true ∧ t.pwr.hubSt = .full ∧
      t.pwr.reachedTarget = true ∧ t.ret = s.ret) ∧
  (∀ s : State, s.pwr.chg = true → s.pwr.chgTimeout = false → exec .hubChargeTimeout s =
    .next (logDue 9 0xFF s.pwr.vbank 0 (raisePwr 0x0F16 [(16, 2), (20, s.pwr.vbank)] (onPwr s fun p => { p with chgTimeout := true })))) ∧
  (∀ s : State, s.glb.state = 2 → s.pwr.reachedTarget = true →
    exec .hubMeasDue s = .next (tryMeasure (onPwr s fun p => { p with measDue := true }))) ∧
  (∀ (v0 v1 v2 us : Nat) (s : State), s.pwr.hubSt = .measuring → v2 < v1 → v2 ≠ 0 →
    ∃ t, exec (.hubMeasEnd v0 v1 v2 us) s = .next t ∧ t.pwr.esr = some (sat 16 (esrOf s.pwr.hub.rload v0 v1)) ∧
      t.pwr.cap = some (sat 16 (capOf s.pwr.hub.rload (sat 16 (esrOf s.pwr.hub.rload v0 v1)) v1 v2 us)) ∧ t.pwr.hubSt = .idle ∧
      t.pwr.load = false ∧ t.pwr.measured = true) ∧
  (∀ (b : List Byte) (rest : List (List Byte)) (s : State), s.pwr.heldLog = b :: rest → powerSpan s = false → s.glb.fil ≠ 0 →
    exec .eventLogWrite s = .next (ldgEnqueue [(10, 0x04, 0, b, .event)] (onPwr s fun p => { p with heldLog := rest }))) ∧
  (∀ (d : Desc) (s : State), Served pwrQueryInfo d [0] s → exec (.pwrQuery d) s =
    .next (finish d St.ok (pack [(0, (pwrStat s.pwr (goodMask s)).toNat), (32, s.pwr.fault.toNat), (48, sat 16 s.pwr.vbank)]) s)) ∧
  (∀ (d : Desc) (s : State), Served pwrRailQueryInfo d [0] s → d.p 16 1 < 16 → exec (.pwrRailQuery d) s =
    .next (finish d St.ok (pack [(0, (railStat (railAt s (d.p 16 1))).toNat), (32, (railAt s (d.p 16 1)).mv % 4096)]) s)) ∧
  (∀ (d : Desc) (g b : List Byte) (s : State), Served pwrTableWriteInfo d [0] s → d.p 24 4 = 384 → b = bufferOf s d 0x0F12 g →
    b.length = 384 → tableBad b = none →
    exec (.pwrTableWrite d g) s = .next (storing d 0x0F12 [(9, 0x10, 0, b, .railTable)] 0 s)) ∧
  (∀ (u : DueSet) (s : State), u.op = 0x0F12 → settingApply u s = onPwr s fun p => { p with tableNew := true }) ∧
  (∀ (d : Desc) (s : State), Served pwrTableReadInfo d [0] s → d.p 24 1 = 0 →
    exec (.pwrTableRead d) s = .next (finishData d St.ok 0 (d.p 16 8) (tableNow s.pwr) s)) ∧
  (∀ (d : Desc) (g : Nat) (s : State), Served pwrGroupInfo d [0] s → d.p 16 1 = g → g < 4 → d.p 17 1 = 0 → holdsRetain s g = false →
    exec (.pwrGroup d) s = .next (settleOff (running d (.group g false) 0 (onPwr (shutRails (withDependants s (groupRails s g)) s)
      fun p => { p with groupSeqs := p.groupSeqs.filter fun q => q.1 ≠ g })))) ∧
  (∀ (d : Desc) (g : Nat) (s : State), Served pwrGroupInfo d [0] s → d.p 16 1 = g → g < 4 → d.p 17 1 = 1 → holdsRetain s g = false →
    (∀ r ∈ groupRails s g, ∀ k < 16, (railAt s r).cfg.dep.getLsbD k = true → (railAt s k).mode.isGood = true) →
    (groupRails s g).all (fun r => (railAt s r).mode.isGood) = false →
    exec (.pwrGroup d) s = .next (running d (.group g true) 0 (onPwr
      ((groupRails s g).foldl (fun s r => if (railAt s r).mode.isGood then s else onRail s (Fin.ofNat 16 r) fun x => { x with retries := 0 })
        (startRails (groupRails s g) s))
      fun p => { p with groupSeqs := (g, 0) :: p.groupSeqs.filter fun q => q.1 ≠ g }))) ∧
  (∀ (d : Desc) (s : State), Served pwrLatchClearInfo d [0] s → s.pwr.seq = .latched →
    exec (.pwrLatchClear d) s = .next (finish d St.ok 0 (toSeq .off (onPwr s fun p => { p with
      latchDue := p.latch, latch := none, nextMode := 3, minOffDone := true })))) ∧
  (∀ (d : Desc) (s : State), Served pwrHubMeasureInfo d [0] s → exec (.pwrHubMeasure d) s =
    .next (tryMeasure (running d .hubMeasure 0 (onPwr s fun p => { p with measCmd := true })))) ∧
  (∀ s : State, s.pwr.measCmd = true → s.pwr.hubSt ≠ .measuring → exec .pwrHubMeasureTimeout s =
    .next (wake (fun w => match w with | .hubMeasure => .done St.timeout none | _ => .go) ((onPwr s fun p =>
      { p with measCmd := false }).onWeir fun w => { w with measDefer := w.measDefer && s.pwr.measDue }))) ∧
  (∀ (d : Desc) (s : State), Served pwrCycleInfo d [0] s → exec (.pwrCycle d) s =
    .next (orderSave 7 d (onPwr s fun p => { p with nextMode := if d.bit 16 0 then 2 else 0 })))
/-- Of a backup domain out of reset: a sub-second tick while HALT is 0 counts one, and carries into the calendar's next second
after 1,023; a first switch to VBAT is counted and stamped, and the switch back is not; VBAT is measured with the limits of
R471; a stop of the crystal is recorded; a domain reset leaves the values of R469, keeping what lies on the CCLK side; and the
oldest write in transit takes effect first. A firmware write to HALT or ARMED goes in transit. -/
def Obligations.BackupDomainWork : Prop :=
  (∀ s : State, s.bkd.inReset = false → s.bkd.halt = false → s.bkd.time.sub ≠ 1023 →
    exec .subsecTick s = .next { s with bkd := refreshCopy { s.bkd with
      time := { s.bkd.time with sub := s.bkd.time.sub + 1 } } }) ∧
  (∀ s : State, s.bkd.inReset = false → s.bkd.halt = false → s.bkd.time.sub = 1023 → s.bkd.armed = false →
    s.glb.state ≠ 2 →
    exec .subsecTick s = .next { s with bkd := refreshCopy { s.bkd with
      time := (nextSecond { s.bkd.time with sub := 0 }).1,
      yearWrap := s.bkd.yearWrap || (nextSecond { s.bkd.time with sub := 0 }).2 } }) ∧
  (∀ s : State, s.bkd.onVbat = false → s.bkd.swoValid = false →
    exec (.vbatSwitch true) s = .next { s with bkd := { s.bkd with
      onVbat := true, swoCount := min 255 (s.bkd.swoCount + 1),
      swoValid := true, swo := BitVec.ofNat 64 (calNat s.bkd.time s.bkd.timeLost s.bkd.halt) } }) ∧
  (∀ s : State, s.bkd.onVbat = true → exec (.vbatSwitch false) s = .next { s with bkd := { s.bkd with onVbat := false } }) ∧
  (∀ (mv : Nat) (s : State), s.pwr.vddAon = true → mv > 2300 →
    exec (.vbatMeasure mv) s = .next { s with bkd := { s.bkd with vbat := min 4095 mv, vbatLow := false } }) ∧
  (∀ (mv : Nat) (s : State), s.pwr.vddAon = true → mv < 2200 →
    ∃ t, exec (.vbatMeasure mv) s = .next t ∧ t.bkd = { s.bkd with vbat := min 4095 mv, vbatLow := true } ∧ t.ret = s.ret) ∧
  (∀ s : State, s.glb.state ≠ 2 →
    exec .oscStop s = .next { s with bkd := { s.bkd with oscStop := true, oscEvent := true } }) ∧
  (∀ s : State, ∃ t, exec .bkdDomainReset s = .next t ∧ t = { s with bkd := t.bkd } ∧ t.bkd.time = Cal8.por ∧ t.bkd.halt = true ∧
    t.bkd.timeLost = true ∧ t.bkd.armed = false ∧ t.bkd.mask = 0 ∧ t.bkd.pwron = false ∧ t.bkd.swoValid = false ∧
    t.bkd.snap = s.bkd.snap ∧ t.bkd.transit = s.bkd.transit ∧ t.bkd.inReset = true) ∧
  (∀ s : State, exec .bkdResetRelease s = .next { s with bkd := { s.bkd with inReset := false } }) ∧
  (∀ (w : BkdWrite) (rest : List BkdWrite) (s : State), s.bkd.transit = w :: rest → s.bkd.inReset = false →
    w ≠ .setEnd →
    exec .bkdWriteArrive s = .next (applyWrite w { s with bkd := { s.bkd with transit := rest } })) ∧
  (∀ (h : Bool) (s : State), s.glb.fil ≠ 0 → exec (.rtcHaltWrite .firmware h) s = .next
    { s with bkd := { s.bkd with transit := s.bkd.transit ++ [.halt h] } }) ∧
  (∀ (a : Bool) (s : State), s.glb.fil ≠ 0 → exec (.alarmArmWrite .firmware a) s = .next
    { s with bkd := { s.bkd with transit := s.bkd.transit ++ [.alarmArm a] } })
/-- Each of the nine commands answers a next state once it is served and its operands are as R495, R337 and R334 ask. BKD_TIME_GET
answers the copy. BKD_TIME_SET of valid fields puts its nine writes in transit and waits for them. BKD_ALARM_SET, BKD_ALARM_ACK and
BKD_SWO_CLEAR put theirs in transit and complete with the values before. ERR_QUERY answers a bucket and the votes. ERR_CONFIG stores its
settings, which the next bucket tick after they are durable takes. ERR_INJECT, with no earlier host write of the line outstanding, of kind 3
on a granule that holds data poisons it as source 5, and of kinds 1 and 2 waits for the next write of the granule. ERR_BKT_RESET clears one
bucket, or all. A bucket tick takes the settings that wait, lowers every non-zero counter by one and clears OVER at half of THRESH. -/
def Obligations.BackupAndIntegrityCommands : Prop :=
  (∀ (d : Desc) (s : State), Served bkdTimeGetInfo d [0] s →
    exec (.bkdTimeGet d) s = .next (finish d St.ok (copyNat s.bkd) s)) ∧
  (∀ (d : Desc) (s : State), Served bkdTimeSetInfo d [0] s → fieldsOk (calOf (d.p 16 8)) = true → s.bkd.setCmd = false →
    exec (.bkdTimeSet d) s = .next (running d .bkd 0 { s with bkd := { s.bkd with
      transit := s.bkd.transit ++ timeWrites (calOf (d.p 16 8)), setCmd := true } })) ∧
  (∀ (d : Desc) (s : State), Served bkdAlarmSetInfo d [0] s → (d.bit 25 0 = true → fieldsOk (calOf (d.p 18 6 * 2 ^ 16 + 2 ^ 10)) = true) →
    exec (.bkdAlarmSet d) s = .next (finish d St.ok 0 { s with bkd := { s.bkd with
      transit := s.bkd.transit ++ [.alarmSet (calOf (d.p 18 6 * 2 ^ 16 + 2 ^ 10)) (BitVec.ofNat 6 (d.p 24 1))
        (d.bit 25 0) (d.bit 25 1)] } })) ∧
  (∀ (d : Desc) (s : State), Served bkdAlarmAckInfo d [0] s →
    exec (.bkdAlarmAck d) s = .next (finish d St.ok (bits (almCtrl s.bkd) 0 16)
      { s with bkd := { s.bkd with transit := s.bkd.transit ++ [.alarmAck] } })) ∧
  (∀ (d : Desc) (s : State), Served bkdSwoClearInfo d [0] s →
    exec (.bkdSwoClear d) s = .next (finish d St.ok (if s.bkd.swoValid then s.bkd.swo.toNat else 0)
      { s with bkd := { s.bkd with transit := s.bkd.transit ++ [.w1c 0x58 1] } })) ∧
  (∀ (d : Desc) (s : State), Served errQueryInfo d [0] s → d.p 16 1 ≤ 36 →
    exec (.errQuery d) s = .next (finish d St.ok (pack [(0, (errBkt s.err.bkt[Fin.ofNat 37 (d.p 16 1)]).toNat),
      (32, bits (errVote s.err) 0 16)]) s)) ∧
  (∀ (d : Desc) (s : State), Served errConfigInfo d [0] s → 1 ≤ d.p 16 1 → 2 ≤ d.p 17 1 → d.p 17 1 ≤ 254 →
    d.p 17 1 < d.p 18 1 →
    exec (.errConfig d) s = .next (storing d 0x0A11 [setting 0x0A11 0xFF (paramBytes d)] 0 s)) ∧
  (∀ (u : DueSet) (s : State), u.op = 0x0A11 → settingApply u s =
    { s with err := { s.err with cfgNext := some (u.desc.p 16 1, u.desc.p 17 1, u.desc.p 18 1) } }) ∧
  (∀ (d : Desc) (l g : Nat) (s : State), Served errInjectInfo d [0] s → g ≤ 3 → d.p 32 1 = g → hostBehind s l = false →
    d.p 24 8 / 2 ^ 38 = s.slot → l = d.p 24 8 % 2 ^ 38 / 256 → s.segExists (segOf l) = true →
    (s.eff l).1 ≠ .never → (s.eff l).1 ≠ .unrestored → (d.p 16 1 = 3 → (s.lineAt l).valid.getLsbD g = true) →
    exec (.errInject d) s = .next (if d.p 16 1 = 3 then finish d St.ok 0 (poisonHome l 5 (BitVec.ofNat 4 (2 ^ g)) s)
      else finish d St.ok 0 { s with err := { s.err with inject := s.err.inject ++ [(d.p 16 1, l * 4 + g)] } })) ∧
  (∀ (d : Desc) (s : State), Served errBktResetInfo d [0] s → d.p 16 1 ≤ 36 →
    exec (.errBktReset d) s = .next (finish d St.ok 0 (onBucket s (Fin.ofNat 37 (d.p 16 1)) fun b =>
      { b with count := 0, isOver := false }))) ∧
  (∀ (d : Desc) (s : State), Served errBktResetInfo d [0] s → d.p 16 1 = 0xFF →
    exec (.errBktReset d) s = .next (finish d St.ok 0 { s with err := { s.err with bkt := s.err.bkt.map fun b =>
      { b with count := 0, isOver := false } } })) ∧
  (∀ s : State, s.err.cfgNext = none → exec .bucketTick s = .next { s with err := { s.err with bkt := s.err.bkt.map fun b =>
    { b with count := b.count - 1, isOver := b.isOver && decide (b.count - 1 > s.err.thresh / 2) } } }) ∧
  (∀ (i t r : Nat) (s : State), s.err.cfgNext = some (i, t, r) → exec .bucketTick s = .next { s with err := { s.err with
    interval := i, thresh := t, retire := r, cfgNext := none, bkt := s.err.bkt.map fun b =>
      { b with count := b.count - 1, isOver := b.isOver && decide (b.count - 1 > t / 2) } } })
/-- Each of the eight commands answers a next state once it is served and its operands are as R495 asks. LDG_QUERY, LDG_TAG_READ,
LDG_EVENT_READ and LDG_USER_READ answer from a search of the area. LDG_RAW_READ answers the bytes. LDG_TAG_WRITE and LDG_USER_APPEND
queue one record, LDG_RAW_WRITE one page outside a locked FACTORY, each of the bytes of its buffer, and end when it is durable. A page write that is not the last of its record and reads back right puts its 64 bytes in the array. -/
def Obligations.LedgerCommands : Prop :=
  (∀ (d : Desc) (s : State), Served ldgQueryInfo d [0] s →
    exec (.ldgQuery d) s = .next (finish d St.ok
      (pack [(0, (ldgStat ((s.searched 10).2.searched 1).2.ldg).toNat), (32, min 4095 (s.searched 10).1.length),
        (48, b2n (current ((s.searched 10).2.searched 1).1 (0x20, 0, [])).isSome)]) ((s.searched 10).2.searched 1).2)) ∧
  (∀ (d : Desc) (g buf : List Byte) (s : State), Served ldgTagWriteInfo d [0] s → buf = bufferOf s d 0x1111 g →
    bufOk buf (d.p 24 2) 1 496 = true →
    exec (.ldgTagWrite d g) s = .next (storing d 0x1111 [(1, 0x20, 0, buf, .tag)] 0 s)) ∧
  (∀ (d : Desc) (r : LRec) (s : State), Served ldgTagReadInfo d [0] s → current (s.searched 1).1 (0x20, 0, []) = some r →
    exec (.ldgTagRead d) s = .next (finishData d St.ok (pack [(0, r.payload.length), (32, r.seq)]) (d.p 16 8) r.payload
      (s.searched 1).2)) ∧
  (∀ (d : Desc) (s : State), Served ldgEventReadInfo d [0] s → 1 ≤ d.p 28 2 → d.p 28 2 ≤ 256 →
    ((newestFirst (s.searched 10).1).drop (d.p 24 4)).take (d.p 28 2) ≠ [] →
    exec (.ldgEventRead d) s = .next (finishData d St.ok
      (((newestFirst (s.searched 10).1).drop (d.p 24 4)).take (d.p 28 2)).length (d.p 16 8)
      ((((newestFirst (s.searched 10).1).drop (d.p 24 4)).take (d.p 28 2)).flatMap fun r => r.raw.take 32) (s.searched 10).2)) ∧
  (∀ (d : Desc) (g buf : List Byte) (s : State), Served ldgUserAppendInfo d [0] s → d.p 16 1 ≤ 1 → buf = bufferOf s d 0x1114 g →
    bufOk buf (d.p 32 2) 1 496 = true →
    exec (.ldgUserAppend d g) s = .next (storing d 0x1114 [(11 + d.p 16 1, 0x30, d.p 17 1, buf, .user (d.p 16 1))] 0 s)) ∧
  (∀ (d : Desc) (r : LRec) (s : State), Served ldgUserReadInfo d [0] s → d.p 16 1 ≤ 1 →
    (newestFirst (s.searched (11 + d.p 16 1)).1)[d.p 20 4]? = some r →
    exec (.ldgUserRead d) s = .next (finishData d St.ok (pack [(0, r.payload.length), (16, r.inst), (32, r.seq)]) (d.p 24 8)
      r.payload (s.searched (11 + d.p 16 1)).2)) ∧
  (∀ (d : Desc) (s : State), Served ldgRawReadInfo d [0] s → 1 ≤ d.p 20 2 → d.p 20 2 ≤ 4096 →
    d.p 16 4 + d.p 20 2 ≤ 0x40000 →
    exec (.ldgRawRead d) s = .next (finishData d St.ok 0 (d.p 24 8) (ldgBytes s.ldg s.free (d.p 16 4) (d.p 20 2))
      { s with free := s.free + 1 })) ∧
  (∀ (d : Desc) (g buf : List Byte) (s : State), Served ldgRawWriteInfo d [0] s → buf = bufferOf s d 0x1117 g →
    bufOk buf (d.p 20 1) 1 64 = true → d.p 16 4 < 0x40000 → (s.ldg.locked = false ∨ 0x2000 ≤ d.p 16 4) →
    exec (.ldgRawWrite d g) s = .next (ldgEnqueue [(d.p 16 4 / 64, 0, d.p 16 4 % 64, buf, .raw)]
      (running d (.ledger s.ldg.nextJob St.ok) 0 s))) ∧
  (∀ (pw q : PageWrite) (rest : List PageWrite) (j : LdgJob) (js : List LdgJob) (n : Nat) (s : State),
    s.ldg.pages = pw :: q :: rest → s.ldg.jobs = j :: js → (∀ u ∈ s.host.dueSets, u.ready = false) →
    ∃ t, exec (.ledgerPageWriteDone ⟨true, n⟩) s = .next t ∧ t.ldg.mem = mputs 0xFF s.ldg.mem (pw.page * 64) pw.data ∧
      t.ldg.pages = q :: rest ∧ t.ldg.jobs = s.ldg.jobs ∧ t = { groupsCorrected (min 8 n) s with ldg := t.ldg }) ∧
  (∀ s : State, s.glb.state = 2 → s.err.repairPending = true → s.err.voteAnchor ≠ 3 → repairing s.ldg = false →
    exec .voteRepair s = .next (repairGroup (repairGroup (repairGroup s 0) 1) 2))
/-- With the FACTORY_LOCK fuse blown, a served LDG_RAW_WRITE whose first byte lies in FACTORY completes with ST_LDG_LOCKED and
changes nothing but the entry of the command. -/
def Obligations.LockedFactoryRefusesRawWrites : Prop :=
  ∀ (d : Desc) (g : List Byte) (s : State), Served ldgRawWriteInfo d [0] s → bufOk (bufferOf s d 0x1117 g) (d.p 20 1) 1 64 = true →
    d.p 16 4 < 0x2000 → s.ldg.locked = true →
    exec (.ldgRawWrite d g) s = .next (finish d 0x0202 0 s)
/-- After a page write that read back right, while no part of the array was cut and no stored setting is due to take effect: a byte of that page reads as the data
written, and a byte of any other page reads as before. -/
def Obligations.LedgerPageReadsBack : Prop :=
  ∀ (pw : PageWrite) (rest : List PageWrite) (j : LdgJob) (js : List LdgJob) (n : Nat) (s : State) (k : Nat),
    s.ldg.pages = pw :: rest → rest ≠ [] → s.ldg.jobs = j :: js → (∀ u ∈ s.host.dueSets, u.ready = false) → s.ldg.cut = [] → pw.data.length = 64 →
    mwf 0xFF s.ldg.mem = true →
    ∃ t, exec (.ledgerPageWriteDone ⟨true, n⟩) s = .next t ∧
      (∀ i < 64, ldgByte t.ldg k (pw.page * 64 + i) = pw.data.getD i 0) ∧
      (∀ a, a / 64 ≠ pw.page → ldgByte t.ldg k a = ldgByte s.ldg k a)
/-- A core reset with the sequence ON samples the straps and starts at the ROM, keeping NAND, the ledger and the backup domain. The ROM
runs the copy that, as its pages read, passes every check of R501 with the higher SEQ; with none it waits on the service port or halts, as BOOTSRC directs.
Firmware shows its interface level. A DRAM channel that does not train halts start-up. Served BOOT commands load, check and run an image,
write both copies of a new one, answer, revoke a key, and ask for a core reset. PERST# changes no line, no segment, nothing in NAND and no rail. -/
def Obligations.StartUp : Prop :=
  (∀ (c b : BitVec 2) (e : Bool) (s : State), s.pwr.vddAon = true → s.pwr.seq = .on → s.boot.coreOut = false →
    ∃ t, exec (.coreResetRelease c b e) s = .next t ∧ t.boot.coreOut = true ∧ t.boot.stage = 0 ∧ t.boot.testEn = e ∧ t.glb.chipid = c ∧
      t.glb.bootsrc = b ∧ t.glb.fil = 0 ∧ t.glb.state = 0 ∧ t.ret = Ret.reset ∧ t.bkd.time = s.bkd.time ∧ t.boot.copies = s.boot.copies ∧
      t.pwr.rail = s.pwr.rail ∧ t.store.blocks = (cutNand s).store.blocks) ∧
  (∀ (i : Fin 2) (x : FwImage) (ra rb : Nat) (s : State), s.boot.coreOut = true → s.boot.testEn = false → s.boot.stage = 0 → s.glb.fil = 0 →
    s.glb.state = 0 → (s.glb.bootsrc = 0 ∨ s.glb.bootsrc = 2) → chooseCopy (bootNow s) = (some i, ra, rb) → s.boot.copies[i].2 = some x →
    exec .imageVerified s = .next (startImage (i.val + 1) x (copyBad 2 rb (copyBad 1 ra
      (onBoot s fun b => { b with reasonA := ra, reasonB := rb }))))) ∧
  (∀ (ra rb : Nat) (s : State), s.boot.coreOut = true → s.boot.testEn = false → s.boot.stage = 0 → s.glb.fil = 0 →
    s.glb.state = 0 → s.glb.bootsrc = 0 → chooseCopy (bootNow s) = (none, ra, rb) →
    ∃ t, exec .imageVerified s = .next t ∧ t.boot.stage = 3 ∧ t.boot.reasonA = ra ∧ t.boot.reasonB = rb ∧ t.ret = s.ret) ∧
  (∀ (x : FwImage) (s : State), s.boot.coreOut = true → s.boot.stage = 4 → runningImage s.boot = some x →
    ∃ t, exec .firmwareReady s = .next t ∧ t.glb.fil = x.fil.zeroExtend 32 ∧ t.glb.fwbuild = x.build ∧ t.boot.stage = 5 ∧
      t.glb.state = s.glb.state) ∧
  (∀ (a : BitVec 4) (n : BitVec 16) (s : State), s.boot.coreOut = true → s.boot.stage = 5 → s.glb.state = 0 → a ≠ 0xF →
    ∃ t, exec (.trainingDone a n) s = .next t ∧ t.boot.stage = 15 ∧ t.boot.haltCause = 2 ∧ t.glb.state = 4 ∧
      t.store.blocks = s.store.blocks ∧ t.pwr.rail = s.pwr.rail) ∧
  (∀ (d : Desc) (g b : List Byte) (s : State), Served bootLoadInfo d [0] s → b = bufferOf s d 0x1210 g → d.p 16 4 % 4096 = 0 →
    bufOk b (d.p 20 2) 1 4096 = true →
    (romServes s = true → exec (.bootLoad d g) s = .next (finish d St.ok 0 (onBoot s fun k => { k with
      loaded := mputs 0 k.loaded (d.p 16 4) b }))) ∧
    (romServes s = false → exec (.bootLoad d g) s = .next (finish d St.unitState 0 s))) ∧
  (∀ (d : Desc) (s : State), Served bootRunInfo d [0] s → romServes s = true →
    (imageReason s.boot.revoked (loadedImage s.boot.loaded) = 0 →
      exec (.bootRun d) s = .next (finish d St.ok 0 (startImage 3 (loadedImage s.boot.loaded) s))) ∧
    (imageReason s.boot.revoked (loadedImage s.boot.loaded) ≠ 0 →
      exec (.bootRun d) s = .next (finish d St.bootImage (imageReason s.boot.revoked (loadedImage s.boot.loaded)) s))) ∧
  (∀ (d : Desc) (g b : List Byte) (x y : FwImage) (s : State), Served bootFwUpdateInfo d [0] s → b = bufferOf s d 0x1212 g →
    1 ≤ d.p 24 4 → b.length = d.p 24 4 → s.glb.state = 2 → x = parseImage b → imageReason s.boot.revoked x = 0 →
    y = { x with seq := highestSeq (bootNow s) + 1 } → imageReason s.boot.revoked y = 0 →
    exec (.bootFwUpdate d g) s = .next (finish d St.ok y.seq
      (programCopy (1 - lowerCopy (bootNow s)) (some y) (programCopy (lowerCopy (bootNow s)) (some y) s)))) ∧
  (∀ (d : Desc) (s : State), Served bootFwQueryInfo d [0] s →
    exec (.bootFwQuery d) s = .next (finish d St.ok (pack [(0, (bootStat s.boot).toNat), (32, s.boot.fwSeq)]) s)) ∧
  (∀ (d : Desc) (k : Nat) (s : State), Served bootKeyRevokeInfo d [0] s → d.p 16 1 = k → k ≤ 3 →
    (signsAll (bootNow s) k = true → exec (.bootKeyRevoke d) s = .next (finish d St.bootKey 0 s)) ∧
    (signsAll (bootNow s) k = false → s.boot.revoked ||| BitVec.ofNat 4 (2 ^ k) ≠ 0xF → exec (.bootKeyRevoke d) s =
      .next (finish d St.ok (s.boot.revoked ||| BitVec.ofNat 4 (2 ^ k)).toNat (onBoot s fun b => { b with
        revoked := s.boot.revoked ||| BitVec.ofNat 4 (2 ^ k) })))) ∧
  (∀ (d : Desc) (s : State), Served bootResetInfo d [0] s →
    ((s.glb.state = 0 ∨ s.glb.state = 4) → exec (.bootReset d) s = .next (finish d St.ok 0 (onBoot s fun b => { b with resetDue := 1 }))) ∧
    (s.glb.state ≠ 0 → s.glb.state ≠ 4 → exec (.bootReset d) s = .next (finish d St.unitState 0 s))) ∧
  (∀ s : State, s.boot.coreOut = true → ∃ t, exec .perst s = .next t ∧ t.ret.lines = s.ret.lines ∧ t.ret.segs = s.ret.segs ∧
    t.store.blocks = s.store.blocks ∧ t.pwr.rail = s.pwr.rail)
/-- At reset the sparse stores are in canonical form, the queue is empty, the core is held in reset, every rail is off, no segment has a
class, and not every key slot is revoked. That no slot is revoked is the model's value for a fused field (log entry 119). -/
def Obligations.ResetState : Prop :=
  State.reset.MemOk ∧ State.reset.pending = [] ∧ State.reset.boot.coreOut = false ∧ State.reset.glb.fil = 0 ∧
  (∀ r : Fin 16, (State.reset.pwr.rail[r]).mode = .off ∧ (State.reset.pwr.rail[r]).enPin = false) ∧
  (∀ g, (State.reset.seg g).cls = .volatile) ∧ State.reset.boot.revoked ≠ 0xF
/-- For every state and every command at the front of its queue, or none: where the lines, the segment table, DRAM contents and shadow
contents are in their canonical form before a step, they are after it, so that equal contents are equal data; and where some key slot
is not revoked before it, some slot is not revoked after it, so that an image can still be signed. -/
def Obligations.EveryStepKeepsInvariants : Prop :=
  ∀ s t : State, step s = .next t → (s.MemOk → t.MemOk) ∧ (s.boot.revoked ≠ 0xF → t.boot.revoked ≠ 0xF)
end

