-- ==== Sys2Proof/Laws/State.lean ====
section
/-! SUPPORT. What each named update of the state changes and what it leaves, one lemma per field, each true by `rfl`, so
that no proof unfolds a record update. -/
namespace Sys2Proof.Machine
@[simp] theorem State.setSeg_glb (s : State) (g : Nat) (e : Seg) : (s.setSeg g e).glb = s.glb := rfl
@[simp] theorem State.setSeg_host (s : State) (g : Nat) (e : Seg) : (s.setSeg g e).host = s.host := rfl
@[simp] theorem State.setSeg_slu (s : State) (g : Nat) (e : Seg) : (s.setSeg g e).slu = s.slu := rfl
@[simp] theorem State.setSeg_store (s : State) (g : Nat) (e : Seg) : (s.setSeg g e).store = s.store := rfl
@[simp] theorem State.setSeg_scan (s : State) (g : Nat) (e : Seg) : (s.setSeg g e).scan = s.scan := rfl
@[simp] theorem State.setSeg_dch (s : State) (g : Nat) (e : Seg) : (s.setSeg g e).dch = s.dch := rfl
@[simp] theorem State.setSeg_fab (s : State) (g : Nat) (e : Seg) : (s.setSeg g e).fab = s.fab := rfl
@[simp] theorem State.setSeg_err (s : State) (g : Nat) (e : Seg) : (s.setSeg g e).err = s.err := rfl
@[simp] theorem State.setSeg_trib (s : State) (g : Nat) (e : Seg) : (s.setSeg g e).trib = s.trib := rfl
@[simp] theorem State.setSeg_mdio (s : State) (g : Nat) (e : Seg) : (s.setSeg g e).mdio = s.mdio := rfl
@[simp] theorem State.setSeg_seqr (s : State) (g : Nat) (e : Seg) : (s.setSeg g e).seqr = s.seqr := rfl
@[simp] theorem State.setSeg_mir (s : State) (g : Nat) (e : Seg) : (s.setSeg g e).mir = s.mir := rfl
@[simp] theorem State.setSeg_conf (s : State) (g : Nat) (e : Seg) : (s.setSeg g e).conf = s.conf := rfl
@[simp] theorem State.setSeg_pwr (s : State) (g : Nat) (e : Seg) : (s.setSeg g e).pwr = s.pwr := rfl
@[simp] theorem State.setSeg_bkd (s : State) (g : Nat) (e : Seg) : (s.setSeg g e).bkd = s.bkd := rfl
@[simp] theorem State.setSeg_ldg (s : State) (g : Nat) (e : Seg) : (s.setSeg g e).ldg = s.ldg := rfl
@[simp] theorem State.setSeg_boot (s : State) (g : Nat) (e : Seg) : (s.setSeg g e).boot = s.boot := rfl
@[simp] theorem State.setSeg_tap (s : State) (g : Nat) (e : Seg) : (s.setSeg g e).tap = s.tap := rfl
@[simp] theorem State.setSeg_life (s : State) (g : Nat) (e : Seg) : (s.setSeg g e).life = s.life := rfl
@[simp] theorem State.setSeg_free (s : State) (g : Nat) (e : Seg) : (s.setSeg g e).free = s.free := rfl
@[simp] theorem State.setSeg_out (s : State) (g : Nat) (e : Seg) : (s.setSeg g e).out = s.out := rfl
@[simp] theorem State.setSeg_pending (s : State) (g : Nat) (e : Seg) : (s.setSeg g e).pending = s.pending := rfl
@[simp] theorem State.setLine_glb (s : State) (l : Nat) (x : Line) : (s.setLine l x).glb = s.glb := rfl
@[simp] theorem State.setLine_host (s : State) (l : Nat) (x : Line) : (s.setLine l x).host = s.host := rfl
@[simp] theorem State.setLine_slu (s : State) (l : Nat) (x : Line) : (s.setLine l x).slu = s.slu := rfl
@[simp] theorem State.setLine_store (s : State) (l : Nat) (x : Line) : (s.setLine l x).store = s.store := rfl
@[simp] theorem State.setLine_scan (s : State) (l : Nat) (x : Line) : (s.setLine l x).scan = s.scan := rfl
@[simp] theorem State.setLine_dch (s : State) (l : Nat) (x : Line) : (s.setLine l x).dch = s.dch := rfl
@[simp] theorem State.setLine_fab (s : State) (l : Nat) (x : Line) : (s.setLine l x).fab = s.fab := rfl
@[simp] theorem State.setLine_err (s : State) (l : Nat) (x : Line) : (s.setLine l x).err = s.err := rfl
@[simp] theorem State.setLine_trib (s : State) (l : Nat) (x : Line) : (s.setLine l x).trib = s.trib := rfl
@[simp] theorem State.setLine_mdio (s : State) (l : Nat) (x : Line) : (s.setLine l x).mdio = s.mdio := rfl
@[simp] theorem State.setLine_seqr (s : State) (l : Nat) (x : Line) : (s.setLine l x).seqr = s.seqr := rfl
@[simp] theorem State.setLine_mir (s : State) (l : Nat) (x : Line) : (s.setLine l x).mir = s.mir := rfl
@[simp] theorem State.setLine_conf (s : State) (l : Nat) (x : Line) : (s.setLine l x).conf = s.conf := rfl
@[simp] theorem State.setLine_pwr (s : State) (l : Nat) (x : Line) : (s.setLine l x).pwr = s.pwr := rfl
@[simp] theorem State.setLine_bkd (s : State) (l : Nat) (x : Line) : (s.setLine l x).bkd = s.bkd := rfl
@[simp] theorem State.setLine_ldg (s : State) (l : Nat) (x : Line) : (s.setLine l x).ldg = s.ldg := rfl
@[simp] theorem State.setLine_boot (s : State) (l : Nat) (x : Line) : (s.setLine l x).boot = s.boot := rfl
@[simp] theorem State.setLine_tap (s : State) (l : Nat) (x : Line) : (s.setLine l x).tap = s.tap := rfl
@[simp] theorem State.setLine_life (s : State) (l : Nat) (x : Line) : (s.setLine l x).life = s.life := rfl
@[simp] theorem State.setLine_free (s : State) (l : Nat) (x : Line) : (s.setLine l x).free = s.free := rfl
@[simp] theorem State.setLine_out (s : State) (l : Nat) (x : Line) : (s.setLine l x).out = s.out := rfl
@[simp] theorem State.setLine_pending (s : State) (l : Nat) (x : Line) : (s.setLine l x).pending = s.pending := rfl
@[simp] theorem State.onCtx_own (s : State) (c : Fin 16) (f : Ctx → Ctx) : (s.onCtx c f).ret = { s.ret with ctx := vmod s.ret.ctx c f } := rfl
@[simp] theorem State.onCtx_glb (s : State) (c : Fin 16) (f : Ctx → Ctx) : (s.onCtx c f).glb = s.glb := rfl
@[simp] theorem State.onCtx_host (s : State) (c : Fin 16) (f : Ctx → Ctx) : (s.onCtx c f).host = s.host := rfl
@[simp] theorem State.onCtx_slu (s : State) (c : Fin 16) (f : Ctx → Ctx) : (s.onCtx c f).slu = s.slu := rfl
@[simp] theorem State.onCtx_store (s : State) (c : Fin 16) (f : Ctx → Ctx) : (s.onCtx c f).store = s.store := rfl
@[simp] theorem State.onCtx_scan (s : State) (c : Fin 16) (f : Ctx → Ctx) : (s.onCtx c f).scan = s.scan := rfl
@[simp] theorem State.onCtx_dch (s : State) (c : Fin 16) (f : Ctx → Ctx) : (s.onCtx c f).dch = s.dch := rfl
@[simp] theorem State.onCtx_fab (s : State) (c : Fin 16) (f : Ctx → Ctx) : (s.onCtx c f).fab = s.fab := rfl
@[simp] theorem State.onCtx_err (s : State) (c : Fin 16) (f : Ctx → Ctx) : (s.onCtx c f).err = s.err := rfl
@[simp] theorem State.onCtx_trib (s : State) (c : Fin 16) (f : Ctx → Ctx) : (s.onCtx c f).trib = s.trib := rfl
@[simp] theorem State.onCtx_mdio (s : State) (c : Fin 16) (f : Ctx → Ctx) : (s.onCtx c f).mdio = s.mdio := rfl
@[simp] theorem State.onCtx_seqr (s : State) (c : Fin 16) (f : Ctx → Ctx) : (s.onCtx c f).seqr = s.seqr := rfl
@[simp] theorem State.onCtx_mir (s : State) (c : Fin 16) (f : Ctx → Ctx) : (s.onCtx c f).mir = s.mir := rfl
@[simp] theorem State.onCtx_conf (s : State) (c : Fin 16) (f : Ctx → Ctx) : (s.onCtx c f).conf = s.conf := rfl
@[simp] theorem State.onCtx_pwr (s : State) (c : Fin 16) (f : Ctx → Ctx) : (s.onCtx c f).pwr = s.pwr := rfl
@[simp] theorem State.onCtx_bkd (s : State) (c : Fin 16) (f : Ctx → Ctx) : (s.onCtx c f).bkd = s.bkd := rfl
@[simp] theorem State.onCtx_ldg (s : State) (c : Fin 16) (f : Ctx → Ctx) : (s.onCtx c f).ldg = s.ldg := rfl
@[simp] theorem State.onCtx_boot (s : State) (c : Fin 16) (f : Ctx → Ctx) : (s.onCtx c f).boot = s.boot := rfl
@[simp] theorem State.onCtx_tap (s : State) (c : Fin 16) (f : Ctx → Ctx) : (s.onCtx c f).tap = s.tap := rfl
@[simp] theorem State.onCtx_life (s : State) (c : Fin 16) (f : Ctx → Ctx) : (s.onCtx c f).life = s.life := rfl
@[simp] theorem State.onCtx_free (s : State) (c : Fin 16) (f : Ctx → Ctx) : (s.onCtx c f).free = s.free := rfl
@[simp] theorem State.onCtx_out (s : State) (c : Fin 16) (f : Ctx → Ctx) : (s.onCtx c f).out = s.out := rfl
@[simp] theorem State.onCtx_pending (s : State) (c : Fin 16) (f : Ctx → Ctx) : (s.onCtx c f).pending = s.pending := rfl
@[simp] theorem State.onWeir_own (s : State) (f : Weir → Weir) : (s.onWeir f).ret = { s.ret with weir := f s.ret.weir } := rfl
@[simp] theorem State.onWeir_glb (s : State) (f : Weir → Weir) : (s.onWeir f).glb = s.glb := rfl
@[simp] theorem State.onWeir_host (s : State) (f : Weir → Weir) : (s.onWeir f).host = s.host := rfl
@[simp] theorem State.onWeir_slu (s : State) (f : Weir → Weir) : (s.onWeir f).slu = s.slu := rfl
@[simp] theorem State.onWeir_store (s : State) (f : Weir → Weir) : (s.onWeir f).store = s.store := rfl
@[simp] theorem State.onWeir_scan (s : State) (f : Weir → Weir) : (s.onWeir f).scan = s.scan := rfl
@[simp] theorem State.onWeir_dch (s : State) (f : Weir → Weir) : (s.onWeir f).dch = s.dch := rfl
@[simp] theorem State.onWeir_fab (s : State) (f : Weir → Weir) : (s.onWeir f).fab = s.fab := rfl
@[simp] theorem State.onWeir_err (s : State) (f : Weir → Weir) : (s.onWeir f).err = s.err := rfl
@[simp] theorem State.onWeir_trib (s : State) (f : Weir → Weir) : (s.onWeir f).trib = s.trib := rfl
@[simp] theorem State.onWeir_mdio (s : State) (f : Weir → Weir) : (s.onWeir f).mdio = s.mdio := rfl
@[simp] theorem State.onWeir_seqr (s : State) (f : Weir → Weir) : (s.onWeir f).seqr = s.seqr := rfl
@[simp] theorem State.onWeir_mir (s : State) (f : Weir → Weir) : (s.onWeir f).mir = s.mir := rfl
@[simp] theorem State.onWeir_conf (s : State) (f : Weir → Weir) : (s.onWeir f).conf = s.conf := rfl
@[simp] theorem State.onWeir_pwr (s : State) (f : Weir → Weir) : (s.onWeir f).pwr = s.pwr := rfl
@[simp] theorem State.onWeir_bkd (s : State) (f : Weir → Weir) : (s.onWeir f).bkd = s.bkd := rfl
@[simp] theorem State.onWeir_ldg (s : State) (f : Weir → Weir) : (s.onWeir f).ldg = s.ldg := rfl
@[simp] theorem State.onWeir_boot (s : State) (f : Weir → Weir) : (s.onWeir f).boot = s.boot := rfl
@[simp] theorem State.onWeir_tap (s : State) (f : Weir → Weir) : (s.onWeir f).tap = s.tap := rfl
@[simp] theorem State.onWeir_life (s : State) (f : Weir → Weir) : (s.onWeir f).life = s.life := rfl
@[simp] theorem State.onWeir_free (s : State) (f : Weir → Weir) : (s.onWeir f).free = s.free := rfl
@[simp] theorem State.onWeir_out (s : State) (f : Weir → Weir) : (s.onWeir f).out = s.out := rfl
@[simp] theorem State.onWeir_pending (s : State) (f : Weir → Weir) : (s.onWeir f).pending = s.pending := rfl
@[simp] theorem State.onCopy_glb (s : State) (f : Copier → Copier) : (s.onCopy f).glb = s.glb := rfl
@[simp] theorem State.onCopy_host (s : State) (f : Copier → Copier) : (s.onCopy f).host = s.host := rfl
@[simp] theorem State.onCopy_slu (s : State) (f : Copier → Copier) : (s.onCopy f).slu = s.slu := rfl
@[simp] theorem State.onCopy_store (s : State) (f : Copier → Copier) : (s.onCopy f).store = s.store := rfl
@[simp] theorem State.onCopy_scan (s : State) (f : Copier → Copier) : (s.onCopy f).scan = s.scan := rfl
@[simp] theorem State.onCopy_dch (s : State) (f : Copier → Copier) : (s.onCopy f).dch = s.dch := rfl
@[simp] theorem State.onCopy_fab (s : State) (f : Copier → Copier) : (s.onCopy f).fab = s.fab := rfl
@[simp] theorem State.onCopy_err (s : State) (f : Copier → Copier) : (s.onCopy f).err = s.err := rfl
@[simp] theorem State.onCopy_trib (s : State) (f : Copier → Copier) : (s.onCopy f).trib = s.trib := rfl
@[simp] theorem State.onCopy_mdio (s : State) (f : Copier → Copier) : (s.onCopy f).mdio = s.mdio := rfl
@[simp] theorem State.onCopy_seqr (s : State) (f : Copier → Copier) : (s.onCopy f).seqr = s.seqr := rfl
@[simp] theorem State.onCopy_mir (s : State) (f : Copier → Copier) : (s.onCopy f).mir = s.mir := rfl
@[simp] theorem State.onCopy_conf (s : State) (f : Copier → Copier) : (s.onCopy f).conf = s.conf := rfl
@[simp] theorem State.onCopy_pwr (s : State) (f : Copier → Copier) : (s.onCopy f).pwr = s.pwr := rfl
@[simp] theorem State.onCopy_bkd (s : State) (f : Copier → Copier) : (s.onCopy f).bkd = s.bkd := rfl
@[simp] theorem State.onCopy_ldg (s : State) (f : Copier → Copier) : (s.onCopy f).ldg = s.ldg := rfl
@[simp] theorem State.onCopy_boot (s : State) (f : Copier → Copier) : (s.onCopy f).boot = s.boot := rfl
@[simp] theorem State.onCopy_tap (s : State) (f : Copier → Copier) : (s.onCopy f).tap = s.tap := rfl
@[simp] theorem State.onCopy_life (s : State) (f : Copier → Copier) : (s.onCopy f).life = s.life := rfl
@[simp] theorem State.onCopy_free (s : State) (f : Copier → Copier) : (s.onCopy f).free = s.free := rfl
@[simp] theorem State.onCopy_out (s : State) (f : Copier → Copier) : (s.onCopy f).out = s.out := rfl
@[simp] theorem State.onCopy_pending (s : State) (f : Copier → Copier) : (s.onCopy f).pending = s.pending := rfl
@[simp] theorem State.setHome_glb (s : State) (l : Nat) (b : List Byte) : (s.setHome l b).glb = s.glb := rfl
@[simp] theorem State.setHome_host (s : State) (l : Nat) (b : List Byte) : (s.setHome l b).host = s.host := rfl
@[simp] theorem State.setHome_slu (s : State) (l : Nat) (b : List Byte) : (s.setHome l b).slu = s.slu := rfl
@[simp] theorem State.setHome_store (s : State) (l : Nat) (b : List Byte) : (s.setHome l b).store = s.store := rfl
@[simp] theorem State.setHome_scan (s : State) (l : Nat) (b : List Byte) : (s.setHome l b).scan = s.scan := rfl
@[simp] theorem State.setHome_dch (s : State) (l : Nat) (b : List Byte) : (s.setHome l b).dch = s.dch := rfl
@[simp] theorem State.setHome_fab (s : State) (l : Nat) (b : List Byte) : (s.setHome l b).fab = s.fab := rfl
@[simp] theorem State.setHome_err (s : State) (l : Nat) (b : List Byte) : (s.setHome l b).err = s.err := rfl
@[simp] theorem State.setHome_trib (s : State) (l : Nat) (b : List Byte) : (s.setHome l b).trib = s.trib := rfl
@[simp] theorem State.setHome_mdio (s : State) (l : Nat) (b : List Byte) : (s.setHome l b).mdio = s.mdio := rfl
@[simp] theorem State.setHome_seqr (s : State) (l : Nat) (b : List Byte) : (s.setHome l b).seqr = s.seqr := rfl
@[simp] theorem State.setHome_mir (s : State) (l : Nat) (b : List Byte) : (s.setHome l b).mir = s.mir := rfl
@[simp] theorem State.setHome_conf (s : State) (l : Nat) (b : List Byte) : (s.setHome l b).conf = s.conf := rfl
@[simp] theorem State.setHome_pwr (s : State) (l : Nat) (b : List Byte) : (s.setHome l b).pwr = s.pwr := rfl
@[simp] theorem State.setHome_bkd (s : State) (l : Nat) (b : List Byte) : (s.setHome l b).bkd = s.bkd := rfl
@[simp] theorem State.setHome_ldg (s : State) (l : Nat) (b : List Byte) : (s.setHome l b).ldg = s.ldg := rfl
@[simp] theorem State.setHome_boot (s : State) (l : Nat) (b : List Byte) : (s.setHome l b).boot = s.boot := rfl
@[simp] theorem State.setHome_tap (s : State) (l : Nat) (b : List Byte) : (s.setHome l b).tap = s.tap := rfl
@[simp] theorem State.setHome_life (s : State) (l : Nat) (b : List Byte) : (s.setHome l b).life = s.life := rfl
@[simp] theorem State.setHome_free (s : State) (l : Nat) (b : List Byte) : (s.setHome l b).free = s.free := rfl
@[simp] theorem State.setHome_out (s : State) (l : Nat) (b : List Byte) : (s.setHome l b).out = s.out := rfl
@[simp] theorem State.setHome_pending (s : State) (l : Nat) (b : List Byte) : (s.setHome l b).pending = s.pending := rfl
@[simp] theorem State.setShadow_glb (s : State) (l : Nat) (b : List Byte) : (s.setShadow l b).glb = s.glb := rfl
@[simp] theorem State.setShadow_host (s : State) (l : Nat) (b : List Byte) : (s.setShadow l b).host = s.host := rfl
@[simp] theorem State.setShadow_slu (s : State) (l : Nat) (b : List Byte) : (s.setShadow l b).slu = s.slu := rfl
@[simp] theorem State.setShadow_store (s : State) (l : Nat) (b : List Byte) : (s.setShadow l b).store = s.store := rfl
@[simp] theorem State.setShadow_scan (s : State) (l : Nat) (b : List Byte) : (s.setShadow l b).scan = s.scan := rfl
@[simp] theorem State.setShadow_dch (s : State) (l : Nat) (b : List Byte) : (s.setShadow l b).dch = s.dch := rfl
@[simp] theorem State.setShadow_fab (s : State) (l : Nat) (b : List Byte) : (s.setShadow l b).fab = s.fab := rfl
@[simp] theorem State.setShadow_err (s : State) (l : Nat) (b : List Byte) : (s.setShadow l b).err = s.err := rfl
@[simp] theorem State.setShadow_trib (s : State) (l : Nat) (b : List Byte) : (s.setShadow l b).trib = s.trib := rfl
@[simp] theorem State.setShadow_mdio (s : State) (l : Nat) (b : List Byte) : (s.setShadow l b).mdio = s.mdio := rfl
@[simp] theorem State.setShadow_seqr (s : State) (l : Nat) (b : List Byte) : (s.setShadow l b).seqr = s.seqr := rfl
@[simp] theorem State.setShadow_mir (s : State) (l : Nat) (b : List Byte) : (s.setShadow l b).mir = s.mir := rfl
@[simp] theorem State.setShadow_conf (s : State) (l : Nat) (b : List Byte) : (s.setShadow l b).conf = s.conf := rfl
@[simp] theorem State.setShadow_pwr (s : State) (l : Nat) (b : List Byte) : (s.setShadow l b).pwr = s.pwr := rfl
@[simp] theorem State.setShadow_bkd (s : State) (l : Nat) (b : List Byte) : (s.setShadow l b).bkd = s.bkd := rfl
@[simp] theorem State.setShadow_ldg (s : State) (l : Nat) (b : List Byte) : (s.setShadow l b).ldg = s.ldg := rfl
@[simp] theorem State.setShadow_boot (s : State) (l : Nat) (b : List Byte) : (s.setShadow l b).boot = s.boot := rfl
@[simp] theorem State.setShadow_tap (s : State) (l : Nat) (b : List Byte) : (s.setShadow l b).tap = s.tap := rfl
@[simp] theorem State.setShadow_life (s : State) (l : Nat) (b : List Byte) : (s.setShadow l b).life = s.life := rfl
@[simp] theorem State.setShadow_free (s : State) (l : Nat) (b : List Byte) : (s.setShadow l b).free = s.free := rfl
@[simp] theorem State.setShadow_out (s : State) (l : Nat) (b : List Byte) : (s.setShadow l b).out = s.out := rfl
@[simp] theorem State.setShadow_pending (s : State) (l : Nat) (b : List Byte) : (s.setShadow l b).pending = s.pending := rfl
@[simp] theorem State.freeShadow_glb (s : State) (l : Nat) : (s.freeShadow l).glb = s.glb := rfl
@[simp] theorem State.freeShadow_host (s : State) (l : Nat) : (s.freeShadow l).host = s.host := rfl
@[simp] theorem State.freeShadow_slu (s : State) (l : Nat) : (s.freeShadow l).slu = s.slu := rfl
@[simp] theorem State.freeShadow_store (s : State) (l : Nat) : (s.freeShadow l).store = s.store := rfl
@[simp] theorem State.freeShadow_scan (s : State) (l : Nat) : (s.freeShadow l).scan = s.scan := rfl
@[simp] theorem State.freeShadow_dch (s : State) (l : Nat) : (s.freeShadow l).dch = s.dch := rfl
@[simp] theorem State.freeShadow_fab (s : State) (l : Nat) : (s.freeShadow l).fab = s.fab := rfl
@[simp] theorem State.freeShadow_err (s : State) (l : Nat) : (s.freeShadow l).err = s.err := rfl
@[simp] theorem State.freeShadow_trib (s : State) (l : Nat) : (s.freeShadow l).trib = s.trib := rfl
@[simp] theorem State.freeShadow_mdio (s : State) (l : Nat) : (s.freeShadow l).mdio = s.mdio := rfl
@[simp] theorem State.freeShadow_seqr (s : State) (l : Nat) : (s.freeShadow l).seqr = s.seqr := rfl
@[simp] theorem State.freeShadow_mir (s : State) (l : Nat) : (s.freeShadow l).mir = s.mir := rfl
@[simp] theorem State.freeShadow_conf (s : State) (l : Nat) : (s.freeShadow l).conf = s.conf := rfl
@[simp] theorem State.freeShadow_pwr (s : State) (l : Nat) : (s.freeShadow l).pwr = s.pwr := rfl
@[simp] theorem State.freeShadow_bkd (s : State) (l : Nat) : (s.freeShadow l).bkd = s.bkd := rfl
@[simp] theorem State.freeShadow_ldg (s : State) (l : Nat) : (s.freeShadow l).ldg = s.ldg := rfl
@[simp] theorem State.freeShadow_boot (s : State) (l : Nat) : (s.freeShadow l).boot = s.boot := rfl
@[simp] theorem State.freeShadow_tap (s : State) (l : Nat) : (s.freeShadow l).tap = s.tap := rfl
@[simp] theorem State.freeShadow_life (s : State) (l : Nat) : (s.freeShadow l).life = s.life := rfl
@[simp] theorem State.freeShadow_free (s : State) (l : Nat) : (s.freeShadow l).free = s.free := rfl
@[simp] theorem State.freeShadow_out (s : State) (l : Nat) : (s.freeShadow l).out = s.out := rfl
@[simp] theorem State.freeShadow_pending (s : State) (l : Nat) : (s.freeShadow l).pending = s.pending := rfl
@[simp] theorem State.dropHome_glb (s : State) (l : Nat) : (s.dropHome l).glb = s.glb := rfl
@[simp] theorem State.dropHome_host (s : State) (l : Nat) : (s.dropHome l).host = s.host := rfl
@[simp] theorem State.dropHome_slu (s : State) (l : Nat) : (s.dropHome l).slu = s.slu := rfl
@[simp] theorem State.dropHome_store (s : State) (l : Nat) : (s.dropHome l).store = s.store := rfl
@[simp] theorem State.dropHome_scan (s : State) (l : Nat) : (s.dropHome l).scan = s.scan := rfl
@[simp] theorem State.dropHome_dch (s : State) (l : Nat) : (s.dropHome l).dch = s.dch := rfl
@[simp] theorem State.dropHome_fab (s : State) (l : Nat) : (s.dropHome l).fab = s.fab := rfl
@[simp] theorem State.dropHome_err (s : State) (l : Nat) : (s.dropHome l).err = s.err := rfl
@[simp] theorem State.dropHome_trib (s : State) (l : Nat) : (s.dropHome l).trib = s.trib := rfl
@[simp] theorem State.dropHome_mdio (s : State) (l : Nat) : (s.dropHome l).mdio = s.mdio := rfl
@[simp] theorem State.dropHome_seqr (s : State) (l : Nat) : (s.dropHome l).seqr = s.seqr := rfl
@[simp] theorem State.dropHome_mir (s : State) (l : Nat) : (s.dropHome l).mir = s.mir := rfl
@[simp] theorem State.dropHome_conf (s : State) (l : Nat) : (s.dropHome l).conf = s.conf := rfl
@[simp] theorem State.dropHome_pwr (s : State) (l : Nat) : (s.dropHome l).pwr = s.pwr := rfl
@[simp] theorem State.dropHome_bkd (s : State) (l : Nat) : (s.dropHome l).bkd = s.bkd := rfl
@[simp] theorem State.dropHome_ldg (s : State) (l : Nat) : (s.dropHome l).ldg = s.ldg := rfl
@[simp] theorem State.dropHome_boot (s : State) (l : Nat) : (s.dropHome l).boot = s.boot := rfl
@[simp] theorem State.dropHome_tap (s : State) (l : Nat) : (s.dropHome l).tap = s.tap := rfl
@[simp] theorem State.dropHome_life (s : State) (l : Nat) : (s.dropHome l).life = s.life := rfl
@[simp] theorem State.dropHome_free (s : State) (l : Nat) : (s.dropHome l).free = s.free := rfl
@[simp] theorem State.dropHome_out (s : State) (l : Nat) : (s.dropHome l).out = s.out := rfl
@[simp] theorem State.dropHome_pending (s : State) (l : Nat) : (s.dropHome l).pending = s.pending := rfl
@[simp] theorem onRet_own (s : State) (f : Ret → Ret) : (onRet s f).ret = f s.ret := rfl
@[simp] theorem onRet_glb (s : State) (f : Ret → Ret) : (onRet s f).glb = s.glb := rfl
@[simp] theorem onRet_host (s : State) (f : Ret → Ret) : (onRet s f).host = s.host := rfl
@[simp] theorem onRet_slu (s : State) (f : Ret → Ret) : (onRet s f).slu = s.slu := rfl
@[simp] theorem onRet_store (s : State) (f : Ret → Ret) : (onRet s f).store = s.store := rfl
@[simp] theorem onRet_scan (s : State) (f : Ret → Ret) : (onRet s f).scan = s.scan := rfl
@[simp] theorem onRet_dch (s : State) (f : Ret → Ret) : (onRet s f).dch = s.dch := rfl
@[simp] theorem onRet_fab (s : State) (f : Ret → Ret) : (onRet s f).fab = s.fab := rfl
@[simp] theorem onRet_err (s : State) (f : Ret → Ret) : (onRet s f).err = s.err := rfl
@[simp] theorem onRet_trib (s : State) (f : Ret → Ret) : (onRet s f).trib = s.trib := rfl
@[simp] theorem onRet_mdio (s : State) (f : Ret → Ret) : (onRet s f).mdio = s.mdio := rfl
@[simp] theorem onRet_seqr (s : State) (f : Ret → Ret) : (onRet s f).seqr = s.seqr := rfl
@[simp] theorem onRet_mir (s : State) (f : Ret → Ret) : (onRet s f).mir = s.mir := rfl
@[simp] theorem onRet_conf (s : State) (f : Ret → Ret) : (onRet s f).conf = s.conf := rfl
@[simp] theorem onRet_pwr (s : State) (f : Ret → Ret) : (onRet s f).pwr = s.pwr := rfl
@[simp] theorem onRet_bkd (s : State) (f : Ret → Ret) : (onRet s f).bkd = s.bkd := rfl
@[simp] theorem onRet_ldg (s : State) (f : Ret → Ret) : (onRet s f).ldg = s.ldg := rfl
@[simp] theorem onRet_boot (s : State) (f : Ret → Ret) : (onRet s f).boot = s.boot := rfl
@[simp] theorem onRet_tap (s : State) (f : Ret → Ret) : (onRet s f).tap = s.tap := rfl
@[simp] theorem onRet_life (s : State) (f : Ret → Ret) : (onRet s f).life = s.life := rfl
@[simp] theorem onRet_free (s : State) (f : Ret → Ret) : (onRet s f).free = s.free := rfl
@[simp] theorem onRet_out (s : State) (f : Ret → Ret) : (onRet s f).out = s.out := rfl
@[simp] theorem onRet_pending (s : State) (f : Ret → Ret) : (onRet s f).pending = s.pending := rfl
@[simp] theorem State.setLife_glb (s : State) (i : Fin 50) (l : Life) : (s.setLife i l).glb = s.glb := rfl
@[simp] theorem State.setLife_host (s : State) (i : Fin 50) (l : Life) : (s.setLife i l).host = s.host := rfl
@[simp] theorem State.setLife_ret (s : State) (i : Fin 50) (l : Life) : (s.setLife i l).ret = s.ret := rfl
@[simp] theorem State.setLife_slu (s : State) (i : Fin 50) (l : Life) : (s.setLife i l).slu = s.slu := rfl
@[simp] theorem State.setLife_store (s : State) (i : Fin 50) (l : Life) : (s.setLife i l).store = s.store := rfl
@[simp] theorem State.setLife_scan (s : State) (i : Fin 50) (l : Life) : (s.setLife i l).scan = s.scan := rfl
@[simp] theorem State.setLife_dch (s : State) (i : Fin 50) (l : Life) : (s.setLife i l).dch = s.dch := rfl
@[simp] theorem State.setLife_fab (s : State) (i : Fin 50) (l : Life) : (s.setLife i l).fab = s.fab := rfl
@[simp] theorem State.setLife_err (s : State) (i : Fin 50) (l : Life) : (s.setLife i l).err = s.err := rfl
@[simp] theorem State.setLife_trib (s : State) (i : Fin 50) (l : Life) : (s.setLife i l).trib = s.trib := rfl
@[simp] theorem State.setLife_mdio (s : State) (i : Fin 50) (l : Life) : (s.setLife i l).mdio = s.mdio := rfl
@[simp] theorem State.setLife_seqr (s : State) (i : Fin 50) (l : Life) : (s.setLife i l).seqr = s.seqr := rfl
@[simp] theorem State.setLife_mir (s : State) (i : Fin 50) (l : Life) : (s.setLife i l).mir = s.mir := rfl
@[simp] theorem State.setLife_conf (s : State) (i : Fin 50) (l : Life) : (s.setLife i l).conf = s.conf := rfl
@[simp] theorem State.setLife_pwr (s : State) (i : Fin 50) (l : Life) : (s.setLife i l).pwr = s.pwr := rfl
@[simp] theorem State.setLife_bkd (s : State) (i : Fin 50) (l : Life) : (s.setLife i l).bkd = s.bkd := rfl
@[simp] theorem State.setLife_ldg (s : State) (i : Fin 50) (l : Life) : (s.setLife i l).ldg = s.ldg := rfl
@[simp] theorem State.setLife_boot (s : State) (i : Fin 50) (l : Life) : (s.setLife i l).boot = s.boot := rfl
@[simp] theorem State.setLife_tap (s : State) (i : Fin 50) (l : Life) : (s.setLife i l).tap = s.tap := rfl
@[simp] theorem State.setLife_free (s : State) (i : Fin 50) (l : Life) : (s.setLife i l).free = s.free := rfl
@[simp] theorem State.setLife_out (s : State) (i : Fin 50) (l : Life) : (s.setLife i l).out = s.out := rfl
@[simp] theorem State.setLife_pending (s : State) (i : Fin 50) (l : Life) : (s.setLife i l).pending = s.pending := rfl
@[simp] theorem State.emit_own (s : State) (o : Out) : (s.emit o).out = o :: s.out := rfl
@[simp] theorem State.emit_glb (s : State) (o : Out) : (s.emit o).glb = s.glb := rfl
@[simp] theorem State.emit_host (s : State) (o : Out) : (s.emit o).host = s.host := rfl
@[simp] theorem State.emit_ret (s : State) (o : Out) : (s.emit o).ret = s.ret := rfl
@[simp] theorem State.emit_slu (s : State) (o : Out) : (s.emit o).slu = s.slu := rfl
@[simp] theorem State.emit_store (s : State) (o : Out) : (s.emit o).store = s.store := rfl
@[simp] theorem State.emit_scan (s : State) (o : Out) : (s.emit o).scan = s.scan := rfl
@[simp] theorem State.emit_dch (s : State) (o : Out) : (s.emit o).dch = s.dch := rfl
@[simp] theorem State.emit_fab (s : State) (o : Out) : (s.emit o).fab = s.fab := rfl
@[simp] theorem State.emit_err (s : State) (o : Out) : (s.emit o).err = s.err := rfl
@[simp] theorem State.emit_trib (s : State) (o : Out) : (s.emit o).trib = s.trib := rfl
@[simp] theorem State.emit_mdio (s : State) (o : Out) : (s.emit o).mdio = s.mdio := rfl
@[simp] theorem State.emit_seqr (s : State) (o : Out) : (s.emit o).seqr = s.seqr := rfl
@[simp] theorem State.emit_mir (s : State) (o : Out) : (s.emit o).mir = s.mir := rfl
@[simp] theorem State.emit_conf (s : State) (o : Out) : (s.emit o).conf = s.conf := rfl
@[simp] theorem State.emit_pwr (s : State) (o : Out) : (s.emit o).pwr = s.pwr := rfl
@[simp] theorem State.emit_bkd (s : State) (o : Out) : (s.emit o).bkd = s.bkd := rfl
@[simp] theorem State.emit_ldg (s : State) (o : Out) : (s.emit o).ldg = s.ldg := rfl
@[simp] theorem State.emit_boot (s : State) (o : Out) : (s.emit o).boot = s.boot := rfl
@[simp] theorem State.emit_tap (s : State) (o : Out) : (s.emit o).tap = s.tap := rfl
@[simp] theorem State.emit_life (s : State) (o : Out) : (s.emit o).life = s.life := rfl
@[simp] theorem State.emit_free (s : State) (o : Out) : (s.emit o).free = s.free := rfl
@[simp] theorem State.emit_pending (s : State) (o : Out) : (s.emit o).pending = s.pending := rfl
@[simp] theorem onTrib_own (s : State) (n : Fin 12) (f : Trib → Trib) : (onTrib s n f).trib = vmod s.trib n f := rfl
@[simp] theorem onTrib_glb (s : State) (n : Fin 12) (f : Trib → Trib) : (onTrib s n f).glb = s.glb := rfl
@[simp] theorem onTrib_host (s : State) (n : Fin 12) (f : Trib → Trib) : (onTrib s n f).host = s.host := rfl
@[simp] theorem onTrib_ret (s : State) (n : Fin 12) (f : Trib → Trib) : (onTrib s n f).ret = s.ret := rfl
@[simp] theorem onTrib_slu (s : State) (n : Fin 12) (f : Trib → Trib) : (onTrib s n f).slu = s.slu := rfl
@[simp] theorem onTrib_store (s : State) (n : Fin 12) (f : Trib → Trib) : (onTrib s n f).store = s.store := rfl
@[simp] theorem onTrib_scan (s : State) (n : Fin 12) (f : Trib → Trib) : (onTrib s n f).scan = s.scan := rfl
@[simp] theorem onTrib_dch (s : State) (n : Fin 12) (f : Trib → Trib) : (onTrib s n f).dch = s.dch := rfl
@[simp] theorem onTrib_fab (s : State) (n : Fin 12) (f : Trib → Trib) : (onTrib s n f).fab = s.fab := rfl
@[simp] theorem onTrib_err (s : State) (n : Fin 12) (f : Trib → Trib) : (onTrib s n f).err = s.err := rfl
@[simp] theorem onTrib_mdio (s : State) (n : Fin 12) (f : Trib → Trib) : (onTrib s n f).mdio = s.mdio := rfl
@[simp] theorem onTrib_seqr (s : State) (n : Fin 12) (f : Trib → Trib) : (onTrib s n f).seqr = s.seqr := rfl
@[simp] theorem onTrib_mir (s : State) (n : Fin 12) (f : Trib → Trib) : (onTrib s n f).mir = s.mir := rfl
@[simp] theorem onTrib_conf (s : State) (n : Fin 12) (f : Trib → Trib) : (onTrib s n f).conf = s.conf := rfl
@[simp] theorem onTrib_pwr (s : State) (n : Fin 12) (f : Trib → Trib) : (onTrib s n f).pwr = s.pwr := rfl
@[simp] theorem onTrib_bkd (s : State) (n : Fin 12) (f : Trib → Trib) : (onTrib s n f).bkd = s.bkd := rfl
@[simp] theorem onTrib_ldg (s : State) (n : Fin 12) (f : Trib → Trib) : (onTrib s n f).ldg = s.ldg := rfl
@[simp] theorem onTrib_boot (s : State) (n : Fin 12) (f : Trib → Trib) : (onTrib s n f).boot = s.boot := rfl
@[simp] theorem onTrib_tap (s : State) (n : Fin 12) (f : Trib → Trib) : (onTrib s n f).tap = s.tap := rfl
@[simp] theorem onTrib_life (s : State) (n : Fin 12) (f : Trib → Trib) : (onTrib s n f).life = s.life := rfl
@[simp] theorem onTrib_free (s : State) (n : Fin 12) (f : Trib → Trib) : (onTrib s n f).free = s.free := rfl
@[simp] theorem onTrib_out (s : State) (n : Fin 12) (f : Trib → Trib) : (onTrib s n f).out = s.out := rfl
@[simp] theorem onTrib_pending (s : State) (n : Fin 12) (f : Trib → Trib) : (onTrib s n f).pending = s.pending := rfl
@[simp] theorem onDch_own (s : State) (c : Fin 4) (f : Dch → Dch) : (onDch s c f).dch = vmod s.dch c f := rfl
@[simp] theorem onDch_glb (s : State) (c : Fin 4) (f : Dch → Dch) : (onDch s c f).glb = s.glb := rfl
@[simp] theorem onDch_host (s : State) (c : Fin 4) (f : Dch → Dch) : (onDch s c f).host = s.host := rfl
@[simp] theorem onDch_ret (s : State) (c : Fin 4) (f : Dch → Dch) : (onDch s c f).ret = s.ret := rfl
@[simp] theorem onDch_slu (s : State) (c : Fin 4) (f : Dch → Dch) : (onDch s c f).slu = s.slu := rfl
@[simp] theorem onDch_store (s : State) (c : Fin 4) (f : Dch → Dch) : (onDch s c f).store = s.store := rfl
@[simp] theorem onDch_scan (s : State) (c : Fin 4) (f : Dch → Dch) : (onDch s c f).scan = s.scan := rfl
@[simp] theorem onDch_fab (s : State) (c : Fin 4) (f : Dch → Dch) : (onDch s c f).fab = s.fab := rfl
@[simp] theorem onDch_err (s : State) (c : Fin 4) (f : Dch → Dch) : (onDch s c f).err = s.err := rfl
@[simp] theorem onDch_trib (s : State) (c : Fin 4) (f : Dch → Dch) : (onDch s c f).trib = s.trib := rfl
@[simp] theorem onDch_mdio (s : State) (c : Fin 4) (f : Dch → Dch) : (onDch s c f).mdio = s.mdio := rfl
@[simp] theorem onDch_seqr (s : State) (c : Fin 4) (f : Dch → Dch) : (onDch s c f).seqr = s.seqr := rfl
@[simp] theorem onDch_mir (s : State) (c : Fin 4) (f : Dch → Dch) : (onDch s c f).mir = s.mir := rfl
@[simp] theorem onDch_conf (s : State) (c : Fin 4) (f : Dch → Dch) : (onDch s c f).conf = s.conf := rfl
@[simp] theorem onDch_pwr (s : State) (c : Fin 4) (f : Dch → Dch) : (onDch s c f).pwr = s.pwr := rfl
@[simp] theorem onDch_bkd (s : State) (c : Fin 4) (f : Dch → Dch) : (onDch s c f).bkd = s.bkd := rfl
@[simp] theorem onDch_ldg (s : State) (c : Fin 4) (f : Dch → Dch) : (onDch s c f).ldg = s.ldg := rfl
@[simp] theorem onDch_boot (s : State) (c : Fin 4) (f : Dch → Dch) : (onDch s c f).boot = s.boot := rfl
@[simp] theorem onDch_tap (s : State) (c : Fin 4) (f : Dch → Dch) : (onDch s c f).tap = s.tap := rfl
@[simp] theorem onDch_life (s : State) (c : Fin 4) (f : Dch → Dch) : (onDch s c f).life = s.life := rfl
@[simp] theorem onDch_free (s : State) (c : Fin 4) (f : Dch → Dch) : (onDch s c f).free = s.free := rfl
@[simp] theorem onDch_out (s : State) (c : Fin 4) (f : Dch → Dch) : (onDch s c f).out = s.out := rfl
@[simp] theorem onDch_pending (s : State) (c : Fin 4) (f : Dch → Dch) : (onDch s c f).pending = s.pending := rfl
@[simp] theorem onFab_own (s : State) (f : Fab → Fab) : (onFab s f).fab = f s.fab := rfl
@[simp] theorem onFab_glb (s : State) (f : Fab → Fab) : (onFab s f).glb = s.glb := rfl
@[simp] theorem onFab_host (s : State) (f : Fab → Fab) : (onFab s f).host = s.host := rfl
@[simp] theorem onFab_ret (s : State) (f : Fab → Fab) : (onFab s f).ret = s.ret := rfl
@[simp] theorem onFab_slu (s : State) (f : Fab → Fab) : (onFab s f).slu = s.slu := rfl
@[simp] theorem onFab_store (s : State) (f : Fab → Fab) : (onFab s f).store = s.store := rfl
@[simp] theorem onFab_scan (s : State) (f : Fab → Fab) : (onFab s f).scan = s.scan := rfl
@[simp] theorem onFab_dch (s : State) (f : Fab → Fab) : (onFab s f).dch = s.dch := rfl
@[simp] theorem onFab_err (s : State) (f : Fab → Fab) : (onFab s f).err = s.err := rfl
@[simp] theorem onFab_trib (s : State) (f : Fab → Fab) : (onFab s f).trib = s.trib := rfl
@[simp] theorem onFab_mdio (s : State) (f : Fab → Fab) : (onFab s f).mdio = s.mdio := rfl
@[simp] theorem onFab_seqr (s : State) (f : Fab → Fab) : (onFab s f).seqr = s.seqr := rfl
@[simp] theorem onFab_mir (s : State) (f : Fab → Fab) : (onFab s f).mir = s.mir := rfl
@[simp] theorem onFab_conf (s : State) (f : Fab → Fab) : (onFab s f).conf = s.conf := rfl
@[simp] theorem onFab_pwr (s : State) (f : Fab → Fab) : (onFab s f).pwr = s.pwr := rfl
@[simp] theorem onFab_bkd (s : State) (f : Fab → Fab) : (onFab s f).bkd = s.bkd := rfl
@[simp] theorem onFab_ldg (s : State) (f : Fab → Fab) : (onFab s f).ldg = s.ldg := rfl
@[simp] theorem onFab_boot (s : State) (f : Fab → Fab) : (onFab s f).boot = s.boot := rfl
@[simp] theorem onFab_tap (s : State) (f : Fab → Fab) : (onFab s f).tap = s.tap := rfl
@[simp] theorem onFab_life (s : State) (f : Fab → Fab) : (onFab s f).life = s.life := rfl
@[simp] theorem onFab_free (s : State) (f : Fab → Fab) : (onFab s f).free = s.free := rfl
@[simp] theorem onFab_out (s : State) (f : Fab → Fab) : (onFab s f).out = s.out := rfl
@[simp] theorem onFab_pending (s : State) (f : Fab → Fab) : (onFab s f).pending = s.pending := rfl
@[simp] theorem onBucket_glb (s : State) (i : Fin 37) (f : Bucket → Bucket) : (onBucket s i f).glb = s.glb := rfl
@[simp] theorem onBucket_host (s : State) (i : Fin 37) (f : Bucket → Bucket) : (onBucket s i f).host = s.host := rfl
@[simp] theorem onBucket_ret (s : State) (i : Fin 37) (f : Bucket → Bucket) : (onBucket s i f).ret = s.ret := rfl
@[simp] theorem onBucket_slu (s : State) (i : Fin 37) (f : Bucket → Bucket) : (onBucket s i f).slu = s.slu := rfl
@[simp] theorem onBucket_store (s : State) (i : Fin 37) (f : Bucket → Bucket) : (onBucket s i f).store = s.store := rfl
@[simp] theorem onBucket_scan (s : State) (i : Fin 37) (f : Bucket → Bucket) : (onBucket s i f).scan = s.scan := rfl
@[simp] theorem onBucket_dch (s : State) (i : Fin 37) (f : Bucket → Bucket) : (onBucket s i f).dch = s.dch := rfl
@[simp] theorem onBucket_fab (s : State) (i : Fin 37) (f : Bucket → Bucket) : (onBucket s i f).fab = s.fab := rfl
@[simp] theorem onBucket_trib (s : State) (i : Fin 37) (f : Bucket → Bucket) : (onBucket s i f).trib = s.trib := rfl
@[simp] theorem onBucket_mdio (s : State) (i : Fin 37) (f : Bucket → Bucket) : (onBucket s i f).mdio = s.mdio := rfl
@[simp] theorem onBucket_seqr (s : State) (i : Fin 37) (f : Bucket → Bucket) : (onBucket s i f).seqr = s.seqr := rfl
@[simp] theorem onBucket_mir (s : State) (i : Fin 37) (f : Bucket → Bucket) : (onBucket s i f).mir = s.mir := rfl
@[simp] theorem onBucket_conf (s : State) (i : Fin 37) (f : Bucket → Bucket) : (onBucket s i f).conf = s.conf := rfl
@[simp] theorem onBucket_pwr (s : State) (i : Fin 37) (f : Bucket → Bucket) : (onBucket s i f).pwr = s.pwr := rfl
@[simp] theorem onBucket_bkd (s : State) (i : Fin 37) (f : Bucket → Bucket) : (onBucket s i f).bkd = s.bkd := rfl
@[simp] theorem onBucket_ldg (s : State) (i : Fin 37) (f : Bucket → Bucket) : (onBucket s i f).ldg = s.ldg := rfl
@[simp] theorem onBucket_boot (s : State) (i : Fin 37) (f : Bucket → Bucket) : (onBucket s i f).boot = s.boot := rfl
@[simp] theorem onBucket_tap (s : State) (i : Fin 37) (f : Bucket → Bucket) : (onBucket s i f).tap = s.tap := rfl
@[simp] theorem onBucket_life (s : State) (i : Fin 37) (f : Bucket → Bucket) : (onBucket s i f).life = s.life := rfl
@[simp] theorem onBucket_free (s : State) (i : Fin 37) (f : Bucket → Bucket) : (onBucket s i f).free = s.free := rfl
@[simp] theorem onBucket_out (s : State) (i : Fin 37) (f : Bucket → Bucket) : (onBucket s i f).out = s.out := rfl
@[simp] theorem onBucket_pending (s : State) (i : Fin 37) (f : Bucket → Bucket) : (onBucket s i f).pending = s.pending := rfl
@[simp] theorem onInject_glb (s : State) (f : List (Nat × Nat) → List (Nat × Nat)) : (onInject s f).glb = s.glb := rfl
@[simp] theorem onInject_host (s : State) (f : List (Nat × Nat) → List (Nat × Nat)) : (onInject s f).host = s.host := rfl
@[simp] theorem onInject_ret (s : State) (f : List (Nat × Nat) → List (Nat × Nat)) : (onInject s f).ret = s.ret := rfl
@[simp] theorem onInject_slu (s : State) (f : List (Nat × Nat) → List (Nat × Nat)) : (onInject s f).slu = s.slu := rfl
@[simp] theorem onInject_store (s : State) (f : List (Nat × Nat) → List (Nat × Nat)) : (onInject s f).store = s.store := rfl
@[simp] theorem onInject_scan (s : State) (f : List (Nat × Nat) → List (Nat × Nat)) : (onInject s f).scan = s.scan := rfl
@[simp] theorem onInject_dch (s : State) (f : List (Nat × Nat) → List (Nat × Nat)) : (onInject s f).dch = s.dch := rfl
@[simp] theorem onInject_fab (s : State) (f : List (Nat × Nat) → List (Nat × Nat)) : (onInject s f).fab = s.fab := rfl
@[simp] theorem onInject_trib (s : State) (f : List (Nat × Nat) → List (Nat × Nat)) : (onInject s f).trib = s.trib := rfl
@[simp] theorem onInject_mdio (s : State) (f : List (Nat × Nat) → List (Nat × Nat)) : (onInject s f).mdio = s.mdio := rfl
@[simp] theorem onInject_seqr (s : State) (f : List (Nat × Nat) → List (Nat × Nat)) : (onInject s f).seqr = s.seqr := rfl
@[simp] theorem onInject_mir (s : State) (f : List (Nat × Nat) → List (Nat × Nat)) : (onInject s f).mir = s.mir := rfl
@[simp] theorem onInject_conf (s : State) (f : List (Nat × Nat) → List (Nat × Nat)) : (onInject s f).conf = s.conf := rfl
@[simp] theorem onInject_pwr (s : State) (f : List (Nat × Nat) → List (Nat × Nat)) : (onInject s f).pwr = s.pwr := rfl
@[simp] theorem onInject_bkd (s : State) (f : List (Nat × Nat) → List (Nat × Nat)) : (onInject s f).bkd = s.bkd := rfl
@[simp] theorem onInject_ldg (s : State) (f : List (Nat × Nat) → List (Nat × Nat)) : (onInject s f).ldg = s.ldg := rfl
@[simp] theorem onInject_boot (s : State) (f : List (Nat × Nat) → List (Nat × Nat)) : (onInject s f).boot = s.boot := rfl
@[simp] theorem onInject_tap (s : State) (f : List (Nat × Nat) → List (Nat × Nat)) : (onInject s f).tap = s.tap := rfl
@[simp] theorem onInject_life (s : State) (f : List (Nat × Nat) → List (Nat × Nat)) : (onInject s f).life = s.life := rfl
@[simp] theorem onInject_free (s : State) (f : List (Nat × Nat) → List (Nat × Nat)) : (onInject s f).free = s.free := rfl
@[simp] theorem onInject_out (s : State) (f : List (Nat × Nat) → List (Nat × Nat)) : (onInject s f).out = s.out := rfl
@[simp] theorem onInject_pending (s : State) (f : List (Nat × Nat) → List (Nat × Nat)) : (onInject s f).pending = s.pending := rfl
@[simp] theorem onMq_glb (s : State) (q : Fin 4) (f : Mailbox → Mailbox) : (onMq s q f).glb = s.glb := rfl
@[simp] theorem onMq_ret (s : State) (q : Fin 4) (f : Mailbox → Mailbox) : (onMq s q f).ret = s.ret := rfl
@[simp] theorem onMq_slu (s : State) (q : Fin 4) (f : Mailbox → Mailbox) : (onMq s q f).slu = s.slu := rfl
@[simp] theorem onMq_store (s : State) (q : Fin 4) (f : Mailbox → Mailbox) : (onMq s q f).store = s.store := rfl
@[simp] theorem onMq_scan (s : State) (q : Fin 4) (f : Mailbox → Mailbox) : (onMq s q f).scan = s.scan := rfl
@[simp] theorem onMq_dch (s : State) (q : Fin 4) (f : Mailbox → Mailbox) : (onMq s q f).dch = s.dch := rfl
@[simp] theorem onMq_fab (s : State) (q : Fin 4) (f : Mailbox → Mailbox) : (onMq s q f).fab = s.fab := rfl
@[simp] theorem onMq_err (s : State) (q : Fin 4) (f : Mailbox → Mailbox) : (onMq s q f).err = s.err := rfl
@[simp] theorem onMq_trib (s : State) (q : Fin 4) (f : Mailbox → Mailbox) : (onMq s q f).trib = s.trib := rfl
@[simp] theorem onMq_mdio (s : State) (q : Fin 4) (f : Mailbox → Mailbox) : (onMq s q f).mdio = s.mdio := rfl
@[simp] theorem onMq_seqr (s : State) (q : Fin 4) (f : Mailbox → Mailbox) : (onMq s q f).seqr = s.seqr := rfl
@[simp] theorem onMq_mir (s : State) (q : Fin 4) (f : Mailbox → Mailbox) : (onMq s q f).mir = s.mir := rfl
@[simp] theorem onMq_conf (s : State) (q : Fin 4) (f : Mailbox → Mailbox) : (onMq s q f).conf = s.conf := rfl
@[simp] theorem onMq_pwr (s : State) (q : Fin 4) (f : Mailbox → Mailbox) : (onMq s q f).pwr = s.pwr := rfl
@[simp] theorem onMq_bkd (s : State) (q : Fin 4) (f : Mailbox → Mailbox) : (onMq s q f).bkd = s.bkd := rfl
@[simp] theorem onMq_ldg (s : State) (q : Fin 4) (f : Mailbox → Mailbox) : (onMq s q f).ldg = s.ldg := rfl
@[simp] theorem onMq_boot (s : State) (q : Fin 4) (f : Mailbox → Mailbox) : (onMq s q f).boot = s.boot := rfl
@[simp] theorem onMq_tap (s : State) (q : Fin 4) (f : Mailbox → Mailbox) : (onMq s q f).tap = s.tap := rfl
@[simp] theorem onMq_life (s : State) (q : Fin 4) (f : Mailbox → Mailbox) : (onMq s q f).life = s.life := rfl
@[simp] theorem onMq_free (s : State) (q : Fin 4) (f : Mailbox → Mailbox) : (onMq s q f).free = s.free := rfl
@[simp] theorem onMq_out (s : State) (q : Fin 4) (f : Mailbox → Mailbox) : (onMq s q f).out = s.out := rfl
@[simp] theorem onMq_pending (s : State) (q : Fin 4) (f : Mailbox → Mailbox) : (onMq s q f).pending = s.pending := rfl
@[simp] theorem onMsix_glb (s : State) (f : Msix → Msix) : (onMsix s f).glb = s.glb := rfl
@[simp] theorem onMsix_ret (s : State) (f : Msix → Msix) : (onMsix s f).ret = s.ret := rfl
@[simp] theorem onMsix_slu (s : State) (f : Msix → Msix) : (onMsix s f).slu = s.slu := rfl
@[simp] theorem onMsix_store (s : State) (f : Msix → Msix) : (onMsix s f).store = s.store := rfl
@[simp] theorem onMsix_scan (s : State) (f : Msix → Msix) : (onMsix s f).scan = s.scan := rfl
@[simp] theorem onMsix_dch (s : State) (f : Msix → Msix) : (onMsix s f).dch = s.dch := rfl
@[simp] theorem onMsix_fab (s : State) (f : Msix → Msix) : (onMsix s f).fab = s.fab := rfl
@[simp] theorem onMsix_err (s : State) (f : Msix → Msix) : (onMsix s f).err = s.err := rfl
@[simp] theorem onMsix_trib (s : State) (f : Msix → Msix) : (onMsix s f).trib = s.trib := rfl
@[simp] theorem onMsix_mdio (s : State) (f : Msix → Msix) : (onMsix s f).mdio = s.mdio := rfl
@[simp] theorem onMsix_seqr (s : State) (f : Msix → Msix) : (onMsix s f).seqr = s.seqr := rfl
@[simp] theorem onMsix_mir (s : State) (f : Msix → Msix) : (onMsix s f).mir = s.mir := rfl
@[simp] theorem onMsix_conf (s : State) (f : Msix → Msix) : (onMsix s f).conf = s.conf := rfl
@[simp] theorem onMsix_pwr (s : State) (f : Msix → Msix) : (onMsix s f).pwr = s.pwr := rfl
@[simp] theorem onMsix_bkd (s : State) (f : Msix → Msix) : (onMsix s f).bkd = s.bkd := rfl
@[simp] theorem onMsix_ldg (s : State) (f : Msix → Msix) : (onMsix s f).ldg = s.ldg := rfl
@[simp] theorem onMsix_boot (s : State) (f : Msix → Msix) : (onMsix s f).boot = s.boot := rfl
@[simp] theorem onMsix_tap (s : State) (f : Msix → Msix) : (onMsix s f).tap = s.tap := rfl
@[simp] theorem onMsix_life (s : State) (f : Msix → Msix) : (onMsix s f).life = s.life := rfl
@[simp] theorem onMsix_free (s : State) (f : Msix → Msix) : (onMsix s f).free = s.free := rfl
@[simp] theorem onMsix_out (s : State) (f : Msix → Msix) : (onMsix s f).out = s.out := rfl
@[simp] theorem onMsix_pending (s : State) (f : Msix → Msix) : (onMsix s f).pending = s.pending := rfl
@[simp] theorem onSlu_own (s : State) (f : Slu → Slu) : (onSlu s f).slu = f s.slu := rfl
@[simp] theorem onSlu_glb (s : State) (f : Slu → Slu) : (onSlu s f).glb = s.glb := rfl
@[simp] theorem onSlu_host (s : State) (f : Slu → Slu) : (onSlu s f).host = s.host := rfl
@[simp] theorem onSlu_ret (s : State) (f : Slu → Slu) : (onSlu s f).ret = s.ret := rfl
@[simp] theorem onSlu_store (s : State) (f : Slu → Slu) : (onSlu s f).store = s.store := rfl
@[simp] theorem onSlu_scan (s : State) (f : Slu → Slu) : (onSlu s f).scan = s.scan := rfl
@[simp] theorem onSlu_dch (s : State) (f : Slu → Slu) : (onSlu s f).dch = s.dch := rfl
@[simp] theorem onSlu_fab (s : State) (f : Slu → Slu) : (onSlu s f).fab = s.fab := rfl
@[simp] theorem onSlu_err (s : State) (f : Slu → Slu) : (onSlu s f).err = s.err := rfl
@[simp] theorem onSlu_trib (s : State) (f : Slu → Slu) : (onSlu s f).trib = s.trib := rfl
@[simp] theorem onSlu_mdio (s : State) (f : Slu → Slu) : (onSlu s f).mdio = s.mdio := rfl
@[simp] theorem onSlu_seqr (s : State) (f : Slu → Slu) : (onSlu s f).seqr = s.seqr := rfl
@[simp] theorem onSlu_mir (s : State) (f : Slu → Slu) : (onSlu s f).mir = s.mir := rfl
@[simp] theorem onSlu_conf (s : State) (f : Slu → Slu) : (onSlu s f).conf = s.conf := rfl
@[simp] theorem onSlu_pwr (s : State) (f : Slu → Slu) : (onSlu s f).pwr = s.pwr := rfl
@[simp] theorem onSlu_bkd (s : State) (f : Slu → Slu) : (onSlu s f).bkd = s.bkd := rfl
@[simp] theorem onSlu_ldg (s : State) (f : Slu → Slu) : (onSlu s f).ldg = s.ldg := rfl
@[simp] theorem onSlu_boot (s : State) (f : Slu → Slu) : (onSlu s f).boot = s.boot := rfl
@[simp] theorem onSlu_tap (s : State) (f : Slu → Slu) : (onSlu s f).tap = s.tap := rfl
@[simp] theorem onSlu_life (s : State) (f : Slu → Slu) : (onSlu s f).life = s.life := rfl
@[simp] theorem onSlu_free (s : State) (f : Slu → Slu) : (onSlu s f).free = s.free := rfl
@[simp] theorem onSlu_out (s : State) (f : Slu → Slu) : (onSlu s f).out = s.out := rfl
@[simp] theorem onSlu_pending (s : State) (f : Slu → Slu) : (onSlu s f).pending = s.pending := rfl
@[simp] theorem onStore_own (s : State) (f : Store → Store) : (onStore s f).store = f s.store := rfl
@[simp] theorem onStore_glb (s : State) (f : Store → Store) : (onStore s f).glb = s.glb := rfl
@[simp] theorem onStore_host (s : State) (f : Store → Store) : (onStore s f).host = s.host := rfl
@[simp] theorem onStore_ret (s : State) (f : Store → Store) : (onStore s f).ret = s.ret := rfl
@[simp] theorem onStore_slu (s : State) (f : Store → Store) : (onStore s f).slu = s.slu := rfl
@[simp] theorem onStore_scan (s : State) (f : Store → Store) : (onStore s f).scan = s.scan := rfl
@[simp] theorem onStore_dch (s : State) (f : Store → Store) : (onStore s f).dch = s.dch := rfl
@[simp] theorem onStore_fab (s : State) (f : Store → Store) : (onStore s f).fab = s.fab := rfl
@[simp] theorem onStore_err (s : State) (f : Store → Store) : (onStore s f).err = s.err := rfl
@[simp] theorem onStore_trib (s : State) (f : Store → Store) : (onStore s f).trib = s.trib := rfl
@[simp] theorem onStore_mdio (s : State) (f : Store → Store) : (onStore s f).mdio = s.mdio := rfl
@[simp] theorem onStore_seqr (s : State) (f : Store → Store) : (onStore s f).seqr = s.seqr := rfl
@[simp] theorem onStore_mir (s : State) (f : Store → Store) : (onStore s f).mir = s.mir := rfl
@[simp] theorem onStore_conf (s : State) (f : Store → Store) : (onStore s f).conf = s.conf := rfl
@[simp] theorem onStore_pwr (s : State) (f : Store → Store) : (onStore s f).pwr = s.pwr := rfl
@[simp] theorem onStore_bkd (s : State) (f : Store → Store) : (onStore s f).bkd = s.bkd := rfl
@[simp] theorem onStore_ldg (s : State) (f : Store → Store) : (onStore s f).ldg = s.ldg := rfl
@[simp] theorem onStore_boot (s : State) (f : Store → Store) : (onStore s f).boot = s.boot := rfl
@[simp] theorem onStore_tap (s : State) (f : Store → Store) : (onStore s f).tap = s.tap := rfl
@[simp] theorem onStore_life (s : State) (f : Store → Store) : (onStore s f).life = s.life := rfl
@[simp] theorem onStore_free (s : State) (f : Store → Store) : (onStore s f).free = s.free := rfl
@[simp] theorem onStore_out (s : State) (f : Store → Store) : (onStore s f).out = s.out := rfl
@[simp] theorem onStore_pending (s : State) (f : Store → Store) : (onStore s f).pending = s.pending := rfl
@[simp] theorem onNch_glb (s : State) (c : Fin 16) (f : Nch → Nch) : (onNch s c f).glb = s.glb := rfl
@[simp] theorem onNch_host (s : State) (c : Fin 16) (f : Nch → Nch) : (onNch s c f).host = s.host := rfl
@[simp] theorem onNch_ret (s : State) (c : Fin 16) (f : Nch → Nch) : (onNch s c f).ret = s.ret := rfl
@[simp] theorem onNch_slu (s : State) (c : Fin 16) (f : Nch → Nch) : (onNch s c f).slu = s.slu := rfl
@[simp] theorem onNch_scan (s : State) (c : Fin 16) (f : Nch → Nch) : (onNch s c f).scan = s.scan := rfl
@[simp] theorem onNch_dch (s : State) (c : Fin 16) (f : Nch → Nch) : (onNch s c f).dch = s.dch := rfl
@[simp] theorem onNch_fab (s : State) (c : Fin 16) (f : Nch → Nch) : (onNch s c f).fab = s.fab := rfl
@[simp] theorem onNch_err (s : State) (c : Fin 16) (f : Nch → Nch) : (onNch s c f).err = s.err := rfl
@[simp] theorem onNch_trib (s : State) (c : Fin 16) (f : Nch → Nch) : (onNch s c f).trib = s.trib := rfl
@[simp] theorem onNch_mdio (s : State) (c : Fin 16) (f : Nch → Nch) : (onNch s c f).mdio = s.mdio := rfl
@[simp] theorem onNch_seqr (s : State) (c : Fin 16) (f : Nch → Nch) : (onNch s c f).seqr = s.seqr := rfl
@[simp] theorem onNch_mir (s : State) (c : Fin 16) (f : Nch → Nch) : (onNch s c f).mir = s.mir := rfl
@[simp] theorem onNch_conf (s : State) (c : Fin 16) (f : Nch → Nch) : (onNch s c f).conf = s.conf := rfl
@[simp] theorem onNch_pwr (s : State) (c : Fin 16) (f : Nch → Nch) : (onNch s c f).pwr = s.pwr := rfl
@[simp] theorem onNch_bkd (s : State) (c : Fin 16) (f : Nch → Nch) : (onNch s c f).bkd = s.bkd := rfl
@[simp] theorem onNch_ldg (s : State) (c : Fin 16) (f : Nch → Nch) : (onNch s c f).ldg = s.ldg := rfl
@[simp] theorem onNch_boot (s : State) (c : Fin 16) (f : Nch → Nch) : (onNch s c f).boot = s.boot := rfl
@[simp] theorem onNch_tap (s : State) (c : Fin 16) (f : Nch → Nch) : (onNch s c f).tap = s.tap := rfl
@[simp] theorem onNch_life (s : State) (c : Fin 16) (f : Nch → Nch) : (onNch s c f).life = s.life := rfl
@[simp] theorem onNch_free (s : State) (c : Fin 16) (f : Nch → Nch) : (onNch s c f).free = s.free := rfl
@[simp] theorem onNch_out (s : State) (c : Fin 16) (f : Nch → Nch) : (onNch s c f).out = s.out := rfl
@[simp] theorem onNch_pending (s : State) (c : Fin 16) (f : Nch → Nch) : (onNch s c f).pending = s.pending := rfl
@[simp] theorem setBlk_glb (k : Nat) (f : Blk → Blk) (s : State) : (setBlk k f s).glb = s.glb := rfl
@[simp] theorem setBlk_host (k : Nat) (f : Blk → Blk) (s : State) : (setBlk k f s).host = s.host := rfl
@[simp] theorem setBlk_ret (k : Nat) (f : Blk → Blk) (s : State) : (setBlk k f s).ret = s.ret := rfl
@[simp] theorem setBlk_slu (k : Nat) (f : Blk → Blk) (s : State) : (setBlk k f s).slu = s.slu := rfl
@[simp] theorem setBlk_scan (k : Nat) (f : Blk → Blk) (s : State) : (setBlk k f s).scan = s.scan := rfl
@[simp] theorem setBlk_dch (k : Nat) (f : Blk → Blk) (s : State) : (setBlk k f s).dch = s.dch := rfl
@[simp] theorem setBlk_fab (k : Nat) (f : Blk → Blk) (s : State) : (setBlk k f s).fab = s.fab := rfl
@[simp] theorem setBlk_err (k : Nat) (f : Blk → Blk) (s : State) : (setBlk k f s).err = s.err := rfl
@[simp] theorem setBlk_trib (k : Nat) (f : Blk → Blk) (s : State) : (setBlk k f s).trib = s.trib := rfl
@[simp] theorem setBlk_mdio (k : Nat) (f : Blk → Blk) (s : State) : (setBlk k f s).mdio = s.mdio := rfl
@[simp] theorem setBlk_seqr (k : Nat) (f : Blk → Blk) (s : State) : (setBlk k f s).seqr = s.seqr := rfl
@[simp] theorem setBlk_mir (k : Nat) (f : Blk → Blk) (s : State) : (setBlk k f s).mir = s.mir := rfl
@[simp] theorem setBlk_conf (k : Nat) (f : Blk → Blk) (s : State) : (setBlk k f s).conf = s.conf := rfl
@[simp] theorem setBlk_pwr (k : Nat) (f : Blk → Blk) (s : State) : (setBlk k f s).pwr = s.pwr := rfl
@[simp] theorem setBlk_bkd (k : Nat) (f : Blk → Blk) (s : State) : (setBlk k f s).bkd = s.bkd := rfl
@[simp] theorem setBlk_ldg (k : Nat) (f : Blk → Blk) (s : State) : (setBlk k f s).ldg = s.ldg := rfl
@[simp] theorem setBlk_boot (k : Nat) (f : Blk → Blk) (s : State) : (setBlk k f s).boot = s.boot := rfl
@[simp] theorem setBlk_tap (k : Nat) (f : Blk → Blk) (s : State) : (setBlk k f s).tap = s.tap := rfl
@[simp] theorem setBlk_life (k : Nat) (f : Blk → Blk) (s : State) : (setBlk k f s).life = s.life := rfl
@[simp] theorem setBlk_free (k : Nat) (f : Blk → Blk) (s : State) : (setBlk k f s).free = s.free := rfl
@[simp] theorem setBlk_out (k : Nat) (f : Blk → Blk) (s : State) : (setBlk k f s).out = s.out := rfl
@[simp] theorem setBlk_pending (k : Nat) (f : Blk → Blk) (s : State) : (setBlk k f s).pending = s.pending := rfl
@[simp] theorem onScan_own (s : State) (f : Scan → Scan) : (onScan s f).scan = f s.scan := rfl
@[simp] theorem onScan_glb (s : State) (f : Scan → Scan) : (onScan s f).glb = s.glb := rfl
@[simp] theorem onScan_host (s : State) (f : Scan → Scan) : (onScan s f).host = s.host := rfl
@[simp] theorem onScan_ret (s : State) (f : Scan → Scan) : (onScan s f).ret = s.ret := rfl
@[simp] theorem onScan_slu (s : State) (f : Scan → Scan) : (onScan s f).slu = s.slu := rfl
@[simp] theorem onScan_store (s : State) (f : Scan → Scan) : (onScan s f).store = s.store := rfl
@[simp] theorem onScan_dch (s : State) (f : Scan → Scan) : (onScan s f).dch = s.dch := rfl
@[simp] theorem onScan_fab (s : State) (f : Scan → Scan) : (onScan s f).fab = s.fab := rfl
@[simp] theorem onScan_err (s : State) (f : Scan → Scan) : (onScan s f).err = s.err := rfl
@[simp] theorem onScan_trib (s : State) (f : Scan → Scan) : (onScan s f).trib = s.trib := rfl
@[simp] theorem onScan_mdio (s : State) (f : Scan → Scan) : (onScan s f).mdio = s.mdio := rfl
@[simp] theorem onScan_seqr (s : State) (f : Scan → Scan) : (onScan s f).seqr = s.seqr := rfl
@[simp] theorem onScan_mir (s : State) (f : Scan → Scan) : (onScan s f).mir = s.mir := rfl
@[simp] theorem onScan_conf (s : State) (f : Scan → Scan) : (onScan s f).conf = s.conf := rfl
@[simp] theorem onScan_pwr (s : State) (f : Scan → Scan) : (onScan s f).pwr = s.pwr := rfl
@[simp] theorem onScan_bkd (s : State) (f : Scan → Scan) : (onScan s f).bkd = s.bkd := rfl
@[simp] theorem onScan_ldg (s : State) (f : Scan → Scan) : (onScan s f).ldg = s.ldg := rfl
@[simp] theorem onScan_boot (s : State) (f : Scan → Scan) : (onScan s f).boot = s.boot := rfl
@[simp] theorem onScan_tap (s : State) (f : Scan → Scan) : (onScan s f).tap = s.tap := rfl
@[simp] theorem onScan_life (s : State) (f : Scan → Scan) : (onScan s f).life = s.life := rfl
@[simp] theorem onScan_free (s : State) (f : Scan → Scan) : (onScan s f).free = s.free := rfl
@[simp] theorem onScan_out (s : State) (f : Scan → Scan) : (onScan s f).out = s.out := rfl
@[simp] theorem onScan_pending (s : State) (f : Scan → Scan) : (onScan s f).pending = s.pending := rfl
@[simp] theorem onScanCtx_glb (s : State) (c : Fin 16) (f : ScanCtx → ScanCtx) : (onScanCtx s c f).glb = s.glb := rfl
@[simp] theorem onScanCtx_host (s : State) (c : Fin 16) (f : ScanCtx → ScanCtx) : (onScanCtx s c f).host = s.host := rfl
@[simp] theorem onScanCtx_ret (s : State) (c : Fin 16) (f : ScanCtx → ScanCtx) : (onScanCtx s c f).ret = s.ret := rfl
@[simp] theorem onScanCtx_slu (s : State) (c : Fin 16) (f : ScanCtx → ScanCtx) : (onScanCtx s c f).slu = s.slu := rfl
@[simp] theorem onScanCtx_store (s : State) (c : Fin 16) (f : ScanCtx → ScanCtx) : (onScanCtx s c f).store = s.store := rfl
@[simp] theorem onScanCtx_dch (s : State) (c : Fin 16) (f : ScanCtx → ScanCtx) : (onScanCtx s c f).dch = s.dch := rfl
@[simp] theorem onScanCtx_fab (s : State) (c : Fin 16) (f : ScanCtx → ScanCtx) : (onScanCtx s c f).fab = s.fab := rfl
@[simp] theorem onScanCtx_err (s : State) (c : Fin 16) (f : ScanCtx → ScanCtx) : (onScanCtx s c f).err = s.err := rfl
@[simp] theorem onScanCtx_trib (s : State) (c : Fin 16) (f : ScanCtx → ScanCtx) : (onScanCtx s c f).trib = s.trib := rfl
@[simp] theorem onScanCtx_mdio (s : State) (c : Fin 16) (f : ScanCtx → ScanCtx) : (onScanCtx s c f).mdio = s.mdio := rfl
@[simp] theorem onScanCtx_seqr (s : State) (c : Fin 16) (f : ScanCtx → ScanCtx) : (onScanCtx s c f).seqr = s.seqr := rfl
@[simp] theorem onScanCtx_mir (s : State) (c : Fin 16) (f : ScanCtx → ScanCtx) : (onScanCtx s c f).mir = s.mir := rfl
@[simp] theorem onScanCtx_conf (s : State) (c : Fin 16) (f : ScanCtx → ScanCtx) : (onScanCtx s c f).conf = s.conf := rfl
@[simp] theorem onScanCtx_pwr (s : State) (c : Fin 16) (f : ScanCtx → ScanCtx) : (onScanCtx s c f).pwr = s.pwr := rfl
@[simp] theorem onScanCtx_bkd (s : State) (c : Fin 16) (f : ScanCtx → ScanCtx) : (onScanCtx s c f).bkd = s.bkd := rfl
@[simp] theorem onScanCtx_ldg (s : State) (c : Fin 16) (f : ScanCtx → ScanCtx) : (onScanCtx s c f).ldg = s.ldg := rfl
@[simp] theorem onScanCtx_boot (s : State) (c : Fin 16) (f : ScanCtx → ScanCtx) : (onScanCtx s c f).boot = s.boot := rfl
@[simp] theorem onScanCtx_tap (s : State) (c : Fin 16) (f : ScanCtx → ScanCtx) : (onScanCtx s c f).tap = s.tap := rfl
@[simp] theorem onScanCtx_life (s : State) (c : Fin 16) (f : ScanCtx → ScanCtx) : (onScanCtx s c f).life = s.life := rfl
@[simp] theorem onScanCtx_free (s : State) (c : Fin 16) (f : ScanCtx → ScanCtx) : (onScanCtx s c f).free = s.free := rfl
@[simp] theorem onScanCtx_out (s : State) (c : Fin 16) (f : ScanCtx → ScanCtx) : (onScanCtx s c f).out = s.out := rfl
@[simp] theorem onScanCtx_pending (s : State) (c : Fin 16) (f : ScanCtx → ScanCtx) : (onScanCtx s c f).pending = s.pending := rfl
@[simp] theorem onSeqr_own (s : State) (n : Fin 12) (f : Seqr → Seqr) : (onSeqr s n f).seqr = vmod s.seqr n f := rfl
@[simp] theorem onSeqr_glb (s : State) (n : Fin 12) (f : Seqr → Seqr) : (onSeqr s n f).glb = s.glb := rfl
@[simp] theorem onSeqr_host (s : State) (n : Fin 12) (f : Seqr → Seqr) : (onSeqr s n f).host = s.host := rfl
@[simp] theorem onSeqr_ret (s : State) (n : Fin 12) (f : Seqr → Seqr) : (onSeqr s n f).ret = s.ret := rfl
@[simp] theorem onSeqr_slu (s : State) (n : Fin 12) (f : Seqr → Seqr) : (onSeqr s n f).slu = s.slu := rfl
@[simp] theorem onSeqr_store (s : State) (n : Fin 12) (f : Seqr → Seqr) : (onSeqr s n f).store = s.store := rfl
@[simp] theorem onSeqr_scan (s : State) (n : Fin 12) (f : Seqr → Seqr) : (onSeqr s n f).scan = s.scan := rfl
@[simp] theorem onSeqr_dch (s : State) (n : Fin 12) (f : Seqr → Seqr) : (onSeqr s n f).dch = s.dch := rfl
@[simp] theorem onSeqr_fab (s : State) (n : Fin 12) (f : Seqr → Seqr) : (onSeqr s n f).fab = s.fab := rfl
@[simp] theorem onSeqr_err (s : State) (n : Fin 12) (f : Seqr → Seqr) : (onSeqr s n f).err = s.err := rfl
@[simp] theorem onSeqr_trib (s : State) (n : Fin 12) (f : Seqr → Seqr) : (onSeqr s n f).trib = s.trib := rfl
@[simp] theorem onSeqr_mdio (s : State) (n : Fin 12) (f : Seqr → Seqr) : (onSeqr s n f).mdio = s.mdio := rfl
@[simp] theorem onSeqr_mir (s : State) (n : Fin 12) (f : Seqr → Seqr) : (onSeqr s n f).mir = s.mir := rfl
@[simp] theorem onSeqr_conf (s : State) (n : Fin 12) (f : Seqr → Seqr) : (onSeqr s n f).conf = s.conf := rfl
@[simp] theorem onSeqr_pwr (s : State) (n : Fin 12) (f : Seqr → Seqr) : (onSeqr s n f).pwr = s.pwr := rfl
@[simp] theorem onSeqr_bkd (s : State) (n : Fin 12) (f : Seqr → Seqr) : (onSeqr s n f).bkd = s.bkd := rfl
@[simp] theorem onSeqr_ldg (s : State) (n : Fin 12) (f : Seqr → Seqr) : (onSeqr s n f).ldg = s.ldg := rfl
@[simp] theorem onSeqr_boot (s : State) (n : Fin 12) (f : Seqr → Seqr) : (onSeqr s n f).boot = s.boot := rfl
@[simp] theorem onSeqr_tap (s : State) (n : Fin 12) (f : Seqr → Seqr) : (onSeqr s n f).tap = s.tap := rfl
@[simp] theorem onSeqr_life (s : State) (n : Fin 12) (f : Seqr → Seqr) : (onSeqr s n f).life = s.life := rfl
@[simp] theorem onSeqr_free (s : State) (n : Fin 12) (f : Seqr → Seqr) : (onSeqr s n f).free = s.free := rfl
@[simp] theorem onSeqr_out (s : State) (n : Fin 12) (f : Seqr → Seqr) : (onSeqr s n f).out = s.out := rfl
@[simp] theorem onSeqr_pending (s : State) (n : Fin 12) (f : Seqr → Seqr) : (onSeqr s n f).pending = s.pending := rfl
@[simp] theorem onMir_own (s : State) (f : Mir → Mir) : (onMir s f).mir = f s.mir := rfl
@[simp] theorem onMir_glb (s : State) (f : Mir → Mir) : (onMir s f).glb = s.glb := rfl
@[simp] theorem onMir_host (s : State) (f : Mir → Mir) : (onMir s f).host = s.host := rfl
@[simp] theorem onMir_ret (s : State) (f : Mir → Mir) : (onMir s f).ret = s.ret := rfl
@[simp] theorem onMir_slu (s : State) (f : Mir → Mir) : (onMir s f).slu = s.slu := rfl
@[simp] theorem onMir_store (s : State) (f : Mir → Mir) : (onMir s f).store = s.store := rfl
@[simp] theorem onMir_scan (s : State) (f : Mir → Mir) : (onMir s f).scan = s.scan := rfl
@[simp] theorem onMir_dch (s : State) (f : Mir → Mir) : (onMir s f).dch = s.dch := rfl
@[simp] theorem onMir_fab (s : State) (f : Mir → Mir) : (onMir s f).fab = s.fab := rfl
@[simp] theorem onMir_err (s : State) (f : Mir → Mir) : (onMir s f).err = s.err := rfl
@[simp] theorem onMir_trib (s : State) (f : Mir → Mir) : (onMir s f).trib = s.trib := rfl
@[simp] theorem onMir_mdio (s : State) (f : Mir → Mir) : (onMir s f).mdio = s.mdio := rfl
@[simp] theorem onMir_seqr (s : State) (f : Mir → Mir) : (onMir s f).seqr = s.seqr := rfl
@[simp] theorem onMir_conf (s : State) (f : Mir → Mir) : (onMir s f).conf = s.conf := rfl
@[simp] theorem onMir_pwr (s : State) (f : Mir → Mir) : (onMir s f).pwr = s.pwr := rfl
@[simp] theorem onMir_bkd (s : State) (f : Mir → Mir) : (onMir s f).bkd = s.bkd := rfl
@[simp] theorem onMir_ldg (s : State) (f : Mir → Mir) : (onMir s f).ldg = s.ldg := rfl
@[simp] theorem onMir_boot (s : State) (f : Mir → Mir) : (onMir s f).boot = s.boot := rfl
@[simp] theorem onMir_tap (s : State) (f : Mir → Mir) : (onMir s f).tap = s.tap := rfl
@[simp] theorem onMir_life (s : State) (f : Mir → Mir) : (onMir s f).life = s.life := rfl
@[simp] theorem onMir_free (s : State) (f : Mir → Mir) : (onMir s f).free = s.free := rfl
@[simp] theorem onMir_out (s : State) (f : Mir → Mir) : (onMir s f).out = s.out := rfl
@[simp] theorem onMir_pending (s : State) (f : Mir → Mir) : (onMir s f).pending = s.pending := rfl
@[simp] theorem onConf_own (s : State) (f : Conf → Conf) : (onConf s f).conf = f s.conf := rfl
@[simp] theorem onConf_glb (s : State) (f : Conf → Conf) : (onConf s f).glb = s.glb := rfl
@[simp] theorem onConf_host (s : State) (f : Conf → Conf) : (onConf s f).host = s.host := rfl
@[simp] theorem onConf_ret (s : State) (f : Conf → Conf) : (onConf s f).ret = s.ret := rfl
@[simp] theorem onConf_slu (s : State) (f : Conf → Conf) : (onConf s f).slu = s.slu := rfl
@[simp] theorem onConf_store (s : State) (f : Conf → Conf) : (onConf s f).store = s.store := rfl
@[simp] theorem onConf_scan (s : State) (f : Conf → Conf) : (onConf s f).scan = s.scan := rfl
@[simp] theorem onConf_dch (s : State) (f : Conf → Conf) : (onConf s f).dch = s.dch := rfl
@[simp] theorem onConf_fab (s : State) (f : Conf → Conf) : (onConf s f).fab = s.fab := rfl
@[simp] theorem onConf_err (s : State) (f : Conf → Conf) : (onConf s f).err = s.err := rfl
@[simp] theorem onConf_trib (s : State) (f : Conf → Conf) : (onConf s f).trib = s.trib := rfl
@[simp] theorem onConf_mdio (s : State) (f : Conf → Conf) : (onConf s f).mdio = s.mdio := rfl
@[simp] theorem onConf_seqr (s : State) (f : Conf → Conf) : (onConf s f).seqr = s.seqr := rfl
@[simp] theorem onConf_mir (s : State) (f : Conf → Conf) : (onConf s f).mir = s.mir := rfl
@[simp] theorem onConf_pwr (s : State) (f : Conf → Conf) : (onConf s f).pwr = s.pwr := rfl
@[simp] theorem onConf_bkd (s : State) (f : Conf → Conf) : (onConf s f).bkd = s.bkd := rfl
@[simp] theorem onConf_ldg (s : State) (f : Conf → Conf) : (onConf s f).ldg = s.ldg := rfl
@[simp] theorem onConf_boot (s : State) (f : Conf → Conf) : (onConf s f).boot = s.boot := rfl
@[simp] theorem onConf_tap (s : State) (f : Conf → Conf) : (onConf s f).tap = s.tap := rfl
@[simp] theorem onConf_life (s : State) (f : Conf → Conf) : (onConf s f).life = s.life := rfl
@[simp] theorem onConf_free (s : State) (f : Conf → Conf) : (onConf s f).free = s.free := rfl
@[simp] theorem onConf_out (s : State) (f : Conf → Conf) : (onConf s f).out = s.out := rfl
@[simp] theorem onConf_pending (s : State) (f : Conf → Conf) : (onConf s f).pending = s.pending := rfl
@[simp] theorem onPwr_own (s : State) (f : Pwr → Pwr) : (onPwr s f).pwr = f s.pwr := rfl
@[simp] theorem onPwr_glb (s : State) (f : Pwr → Pwr) : (onPwr s f).glb = s.glb := rfl
@[simp] theorem onPwr_host (s : State) (f : Pwr → Pwr) : (onPwr s f).host = s.host := rfl
@[simp] theorem onPwr_ret (s : State) (f : Pwr → Pwr) : (onPwr s f).ret = s.ret := rfl
@[simp] theorem onPwr_slu (s : State) (f : Pwr → Pwr) : (onPwr s f).slu = s.slu := rfl
@[simp] theorem onPwr_store (s : State) (f : Pwr → Pwr) : (onPwr s f).store = s.store := rfl
@[simp] theorem onPwr_scan (s : State) (f : Pwr → Pwr) : (onPwr s f).scan = s.scan := rfl
@[simp] theorem onPwr_dch (s : State) (f : Pwr → Pwr) : (onPwr s f).dch = s.dch := rfl
@[simp] theorem onPwr_fab (s : State) (f : Pwr → Pwr) : (onPwr s f).fab = s.fab := rfl
@[simp] theorem onPwr_err (s : State) (f : Pwr → Pwr) : (onPwr s f).err = s.err := rfl
@[simp] theorem onPwr_trib (s : State) (f : Pwr → Pwr) : (onPwr s f).trib = s.trib := rfl
@[simp] theorem onPwr_mdio (s : State) (f : Pwr → Pwr) : (onPwr s f).mdio = s.mdio := rfl
@[simp] theorem onPwr_seqr (s : State) (f : Pwr → Pwr) : (onPwr s f).seqr = s.seqr := rfl
@[simp] theorem onPwr_mir (s : State) (f : Pwr → Pwr) : (onPwr s f).mir = s.mir := rfl
@[simp] theorem onPwr_conf (s : State) (f : Pwr → Pwr) : (onPwr s f).conf = s.conf := rfl
@[simp] theorem onPwr_bkd (s : State) (f : Pwr → Pwr) : (onPwr s f).bkd = s.bkd := rfl
@[simp] theorem onPwr_ldg (s : State) (f : Pwr → Pwr) : (onPwr s f).ldg = s.ldg := rfl
@[simp] theorem onPwr_boot (s : State) (f : Pwr → Pwr) : (onPwr s f).boot = s.boot := rfl
@[simp] theorem onPwr_tap (s : State) (f : Pwr → Pwr) : (onPwr s f).tap = s.tap := rfl
@[simp] theorem onPwr_life (s : State) (f : Pwr → Pwr) : (onPwr s f).life = s.life := rfl
@[simp] theorem onPwr_free (s : State) (f : Pwr → Pwr) : (onPwr s f).free = s.free := rfl
@[simp] theorem onPwr_out (s : State) (f : Pwr → Pwr) : (onPwr s f).out = s.out := rfl
@[simp] theorem onPwr_pending (s : State) (f : Pwr → Pwr) : (onPwr s f).pending = s.pending := rfl
@[simp] theorem onRail_glb (s : State) (r : Fin 16) (f : Rail → Rail) : (onRail s r f).glb = s.glb := rfl
@[simp] theorem onRail_host (s : State) (r : Fin 16) (f : Rail → Rail) : (onRail s r f).host = s.host := rfl
@[simp] theorem onRail_ret (s : State) (r : Fin 16) (f : Rail → Rail) : (onRail s r f).ret = s.ret := rfl
@[simp] theorem onRail_slu (s : State) (r : Fin 16) (f : Rail → Rail) : (onRail s r f).slu = s.slu := rfl
@[simp] theorem onRail_store (s : State) (r : Fin 16) (f : Rail → Rail) : (onRail s r f).store = s.store := rfl
@[simp] theorem onRail_scan (s : State) (r : Fin 16) (f : Rail → Rail) : (onRail s r f).scan = s.scan := rfl
@[simp] theorem onRail_dch (s : State) (r : Fin 16) (f : Rail → Rail) : (onRail s r f).dch = s.dch := rfl
@[simp] theorem onRail_fab (s : State) (r : Fin 16) (f : Rail → Rail) : (onRail s r f).fab = s.fab := rfl
@[simp] theorem onRail_err (s : State) (r : Fin 16) (f : Rail → Rail) : (onRail s r f).err = s.err := rfl
@[simp] theorem onRail_trib (s : State) (r : Fin 16) (f : Rail → Rail) : (onRail s r f).trib = s.trib := rfl
@[simp] theorem onRail_mdio (s : State) (r : Fin 16) (f : Rail → Rail) : (onRail s r f).mdio = s.mdio := rfl
@[simp] theorem onRail_seqr (s : State) (r : Fin 16) (f : Rail → Rail) : (onRail s r f).seqr = s.seqr := rfl
@[simp] theorem onRail_mir (s : State) (r : Fin 16) (f : Rail → Rail) : (onRail s r f).mir = s.mir := rfl
@[simp] theorem onRail_conf (s : State) (r : Fin 16) (f : Rail → Rail) : (onRail s r f).conf = s.conf := rfl
@[simp] theorem onRail_bkd (s : State) (r : Fin 16) (f : Rail → Rail) : (onRail s r f).bkd = s.bkd := rfl
@[simp] theorem onRail_ldg (s : State) (r : Fin 16) (f : Rail → Rail) : (onRail s r f).ldg = s.ldg := rfl
@[simp] theorem onRail_boot (s : State) (r : Fin 16) (f : Rail → Rail) : (onRail s r f).boot = s.boot := rfl
@[simp] theorem onRail_tap (s : State) (r : Fin 16) (f : Rail → Rail) : (onRail s r f).tap = s.tap := rfl
@[simp] theorem onRail_life (s : State) (r : Fin 16) (f : Rail → Rail) : (onRail s r f).life = s.life := rfl
@[simp] theorem onRail_free (s : State) (r : Fin 16) (f : Rail → Rail) : (onRail s r f).free = s.free := rfl
@[simp] theorem onRail_out (s : State) (r : Fin 16) (f : Rail → Rail) : (onRail s r f).out = s.out := rfl
@[simp] theorem onRail_pending (s : State) (r : Fin 16) (f : Rail → Rail) : (onRail s r f).pending = s.pending := rfl
@[simp] theorem onBoot_own (s : State) (f : Boot → Boot) : (onBoot s f).boot = f s.boot := rfl
@[simp] theorem onBoot_glb (s : State) (f : Boot → Boot) : (onBoot s f).glb = s.glb := rfl
@[simp] theorem onBoot_host (s : State) (f : Boot → Boot) : (onBoot s f).host = s.host := rfl
@[simp] theorem onBoot_ret (s : State) (f : Boot → Boot) : (onBoot s f).ret = s.ret := rfl
@[simp] theorem onBoot_slu (s : State) (f : Boot → Boot) : (onBoot s f).slu = s.slu := rfl
@[simp] theorem onBoot_store (s : State) (f : Boot → Boot) : (onBoot s f).store = s.store := rfl
@[simp] theorem onBoot_scan (s : State) (f : Boot → Boot) : (onBoot s f).scan = s.scan := rfl
@[simp] theorem onBoot_dch (s : State) (f : Boot → Boot) : (onBoot s f).dch = s.dch := rfl
@[simp] theorem onBoot_fab (s : State) (f : Boot → Boot) : (onBoot s f).fab = s.fab := rfl
@[simp] theorem onBoot_err (s : State) (f : Boot → Boot) : (onBoot s f).err = s.err := rfl
@[simp] theorem onBoot_trib (s : State) (f : Boot → Boot) : (onBoot s f).trib = s.trib := rfl
@[simp] theorem onBoot_mdio (s : State) (f : Boot → Boot) : (onBoot s f).mdio = s.mdio := rfl
@[simp] theorem onBoot_seqr (s : State) (f : Boot → Boot) : (onBoot s f).seqr = s.seqr := rfl
@[simp] theorem onBoot_mir (s : State) (f : Boot → Boot) : (onBoot s f).mir = s.mir := rfl
@[simp] theorem onBoot_conf (s : State) (f : Boot → Boot) : (onBoot s f).conf = s.conf := rfl
@[simp] theorem onBoot_pwr (s : State) (f : Boot → Boot) : (onBoot s f).pwr = s.pwr := rfl
@[simp] theorem onBoot_bkd (s : State) (f : Boot → Boot) : (onBoot s f).bkd = s.bkd := rfl
@[simp] theorem onBoot_ldg (s : State) (f : Boot → Boot) : (onBoot s f).ldg = s.ldg := rfl
@[simp] theorem onBoot_tap (s : State) (f : Boot → Boot) : (onBoot s f).tap = s.tap := rfl
@[simp] theorem onBoot_life (s : State) (f : Boot → Boot) : (onBoot s f).life = s.life := rfl
@[simp] theorem onBoot_free (s : State) (f : Boot → Boot) : (onBoot s f).free = s.free := rfl
@[simp] theorem onBoot_out (s : State) (f : Boot → Boot) : (onBoot s f).out = s.out := rfl
@[simp] theorem onBoot_pending (s : State) (f : Boot → Boot) : (onBoot s f).pending = s.pending := rfl
end Sys2Proof.Machine
end

