-- ==== Sys2Proof/Laws/Ops.lean ====
section
/-! SUPPORT. The sparse stores read back what is written and keep their canonical form; vectors changed at one entry; and
what the shared operations of a command do. -/
namespace Sys2Proof.Machine
/-! ## Sparse stores -/
section sparse
variable {α : Type} [DecidableEq α] (d : α)
omit [DecidableEq α] in
@[simp] theorem mget_nil (k : Nat) : mget d [] k = d := rfl
theorem mwf_cons (k : Nat) (v : α) (t : AMap α) :
    mwf d ((k, v) :: t) = true ↔ v ≠ d ∧ (∀ p ∈ t, k < p.1) ∧ mwf d t = true := by
  simp [mwf, and_assoc]
omit [DecidableEq α] in
theorem mget_below (m : AMap α) (k : Nat) (h : ∀ p ∈ m, k < p.1) : mget d m k = d := by
  induction m with
  | nil => rfl
  | cons p t ih => grind [mget]
theorem mset_keys (m : AMap α) (k : Nat) (v : α) : ∀ p ∈ mset d m k v, p.1 = k ∨ p ∈ m := by
  induction m <;> grind [mset]
/-- A write keeps the canonical form. -/
theorem mset_mwf (m : AMap α) (k : Nat) (v : α) (h : mwf d m = true) : mwf d (mset d m k v) = true := by
  induction m with
  | nil => grind [mset, mwf]
  | cons q t ih =>
    have := mset_keys d t k v
    grind [mset, mwf_cons]
/-- A read after a write, at the place written and at any other. -/
theorem mget_mset (m : AMap α) (k j : Nat) (v : α) (h : mwf d m = true) :
    mget d (mset d m k v) j = if j = k then v else mget d m j := by
  induction m with
  | nil => grind [mset, mget]
  | cons q t ih =>
    have := mget_below d t k
    grind [mset, mwf_cons, mget]
theorem mputs_mwf (vs : List α) (m : AMap α) (k : Nat) (h : mwf d m = true) : mwf d (mputs d m k vs) = true := by
  induction vs generalizing m k with
  | nil => exact h
  | cons v t ih => exact ih _ _ (mset_mwf d m k v h)
/-- A read after a write of a run of values. -/
theorem mget_mputs (vs : List α) (m : AMap α) (k j : Nat) (h : mwf d m = true) :
    mget d (mputs d m k vs) j = if k ≤ j ∧ j < k + vs.length then vs.getD (j - k) d else mget d m j := by
  induction vs generalizing m k with
  | nil => grind [mputs]
  | cons v t ih => grind [mputs, mset_mwf, mget_mset]
theorem mwf_filter (m : AMap α) (p : Nat × α → Bool) (h : mwf d m = true) : mwf d (m.filter p) = true := by
  induction m with
  | nil => rfl
  | cons q t ih => grind [mwf_cons]
theorem mdrop_mwf (m : AMap α) (lo hi : Nat) (h : mwf d m = true) : mwf d (mdrop m lo hi) = true :=
  mwf_filter d m _ h
omit [DecidableEq α] in
theorem mget_mdrop (m : AMap α) (lo hi j : Nat) :
    mget d (mdrop m lo hi) j = if lo ≤ j ∧ j < hi then d else mget d m j := by
  induction m <;> grind [mdrop, mget]
omit [DecidableEq α] in
@[simp] theorem mgets_length (m : AMap α) (k n : Nat) : (mgets d m k n).length = n := by
  induction n generalizing k <;> grind [mgets]
theorem mgets_getD (m : AMap α) (k n i : Nat) (h : i < n) : (mgets d m k n).getD i d = mget d m (k + i) := by
  induction n generalizing k i with
  | zero => omega
  | succ n ih => cases i <;> grind [mgets]
/-- Two canonical stores that read alike are equal data. -/
theorem mwf_ext (m n : AMap α) (hm : mwf d m = true) (hn : mwf d n = true) (h : ∀ k, mget d m k = mget d n k) : m = n := by
  induction m generalizing n with
  | nil =>
    cases n with
    | nil => rfl
    | cons q t => have := h q.1; grind [mwf_cons, mget]
  | cons q t ih =>
    cases n with
    | nil => have := h q.1; grind [mwf_cons, mget]
    | cons r u =>
      have hk : q.1 = r.1 := by
        have := h q.1; have := h r.1
        grind [mwf_cons, mget, mget_below]
      have := mget_below d t q.1; have := mget_below d u q.1; have := h q.1
      have : t = u := ih u (by grind [mwf_cons]) (by grind [mwf_cons]) fun k => by have := h k; grind [mwf_cons, mget]
      grind [mget]
end sparse
/-! ## Vectors -/
@[simp] theorem vmod_same {α : Type} {n : Nat} (v : Vector α n) (i : Fin n) (f : α → α) : (vmod v i f)[i] = f v[i] := by
  simp [vmod]
theorem vmod_other {α : Type} {n : Nat} (v : Vector α n) (i j : Fin n) (f : α → α) (h : i ≠ j) : (vmod v i f)[j] = v[j] := by
  have : i.val ≠ j.val := fun e => h (Fin.ext e)
  simp [vmod, this]
/-! ## Segments and lines -/
theorem seg_setSeg (s : State) (g k : Nat) (e : Seg) (h : s.MemOk) : (s.setSeg g e).seg k = if k = g then e else s.seg k :=
  mget_mset _ _ _ _ _ h.2.2.2
theorem lineAt_setLine (s : State) (l k : Nat) (x : Line) (h : s.MemOk) :
    (s.setLine l x).lineAt k = if k = l then x else s.lineAt k := mget_mset _ _ _ _ _ h.2.2.1
theorem setSeg_memOk (s : State) (g : Nat) (e : Seg) (h : s.MemOk) : (s.setSeg g e).MemOk :=
  ⟨h.1, h.2.1, h.2.2.1, mset_mwf _ _ _ _ h.2.2.2⟩
theorem setLine_memOk (s : State) (l : Nat) (x : Line) (h : s.MemOk) : (s.setLine l x).MemOk :=
  ⟨h.1, h.2.1, mset_mwf _ _ _ _ h.2.2.1, h.2.2.2⟩
theorem setHome_memOk (s : State) (l : Nat) (b : List Byte) (h : s.MemOk) : (s.setHome l b).MemOk :=
  ⟨mputs_mwf _ _ _ _ h.1, h.2⟩
theorem setShadow_memOk (s : State) (l : Nat) (b : List Byte) (h : s.MemOk) : (s.setShadow l b).MemOk :=
  ⟨h.1, mputs_mwf _ _ _ _ h.2.1, h.2.2⟩
theorem freeShadow_memOk (s : State) (l : Nat) (h : s.MemOk) : (s.freeShadow l).MemOk :=
  ⟨h.1, mdrop_mwf _ _ _ _ h.2.1, h.2.2⟩
theorem dropHome_memOk (s : State) (l : Nat) (h : s.MemOk) : (s.dropHome l).MemOk :=
  ⟨mdrop_mwf _ _ _ _ h.1, h.2⟩
/-! ## Commands -/
/-- A served command with values in range has its effect on its targets. -/
theorem served_command {i : CmdInfo} {d : Desc} {ts : List Nat} {s : State} {rng : Bool} (h : Served i d ts s)
    (hr : rng = true) (f : List Nat → State → State) : command i d rng f s = f ts s := by
  obtain ⟨h1, h2, h3, h4, h5⟩ := h
  simp [command, start, startAccepted, h1, h2, h3, h4, h5, hr]
/-- A served command with a value out of range completes with ST_BAD_PARAM and does nothing else. -/
theorem served_badParam {i : CmdInfo} {d : Desc} {ts : List Nat} {s : State} (h : Served i d ts s)
    (f : List Nat → State → State) : command i d false f s = finish d St.badParam 0 s := by
  obtain ⟨h1, h2, h3, h4, h5⟩ := h
  simp [command, start, startAccepted, refuse, h1, h2, h3, h4, h5]
/-- A multi-target command on one target that passes its checks. -/
theorem multi_one (d : Desc) (n : Nat) (check : Nat → Option Nat) (act : Nat → State → State) (s : State)
    (h : check n = none) : multi d [n] check act s = finish d St.ok (maskOf [n]) (act n s) := by
  simp [multi, h]
/-- With the host's stream open an access that waits for no link is taken at once. -/
theorem inStream_open {s : State} (h : HostOpen s) (t : HostTlp) (f : State → State) (hw : tlpWaits s t = false) : inStream t f s = f s := by
  obtain ⟨_, _, h3, h4, h5⟩ := h
  simp [inStream, h4, h5, hw]
  intro h
  exact absurd h (by simpa using h3)
theorem open_deaf {s : State} (h : HostOpen s) : deaf s = false := by
  have := h.2.1
  simp [deaf]
  simpa using this
/-- A record that its area has room for is queued, and its command waits for it. -/
theorem storing_room {d : Desc} {op : Nat} {rs : List (Nat × Nat × Nat × List Byte × LdgUse)} {res : Nat} {s : State}
    (h : (rs.any fun r => tooFull s r.1 r.2.1 r.2.2.1 r.2.2.2.1) = false) (hr : rs ≠ []) :
    storing d op rs res s = ldgEnqueue rs (noteDue d op [0] (running d (.ledger s.ldg.nextJob St.ok) res s)) := by
  simp [storing, storingAs, h, hr]
end Sys2Proof.Machine
end

