-- ==== Sys2Proof/Laws/Events.lean ====
section
/-! SUPPORT. What raising an event, completing a command and waking waiting commands can change: one lemma that says it
whole for each, and from it one lemma per field that stays. -/
namespace Sys2Proof.Machine
/-- A fold of updates that each keep a part of the state keeps it. -/
theorem foldl_keeps {α β : Type} (g : State → β) (f : State → α → State) (h : ∀ s a, g (f s a) = g s) (l : List α) (s : State) :
    g (l.foldl f s) = g s := by
  induction l generalizing s with
  | nil => rfl
  | cons a t ih => rw [List.foldl_cons, ih, h]
theorem State.msix_only (s : State) (v : Nat) : ∃ x0 x1, s.msix v = { s with host := x0, out := x1 } := by
  unfold State.msix; split
  · exact ⟨s.host, _, rfl⟩
  · exact ⟨_, s.out, rfl⟩
@[simp] theorem State.msix_glb (s : State) (v : Nat) : (s.msix v).glb = s.glb := by
  obtain ⟨_, _, e⟩ := State.msix_only s v; rw [e]
@[simp] theorem State.msix_ret (s : State) (v : Nat) : (s.msix v).ret = s.ret := by
  obtain ⟨_, _, e⟩ := State.msix_only s v; rw [e]
@[simp] theorem State.msix_slu (s : State) (v : Nat) : (s.msix v).slu = s.slu := by
  obtain ⟨_, _, e⟩ := State.msix_only s v; rw [e]
@[simp] theorem State.msix_store (s : State) (v : Nat) : (s.msix v).store = s.store := by
  obtain ⟨_, _, e⟩ := State.msix_only s v; rw [e]
@[simp] theorem State.msix_scan (s : State) (v : Nat) : (s.msix v).scan = s.scan := by
  obtain ⟨_, _, e⟩ := State.msix_only s v; rw [e]
@[simp] theorem State.msix_dch (s : State) (v : Nat) : (s.msix v).dch = s.dch := by
  obtain ⟨_, _, e⟩ := State.msix_only s v; rw [e]
@[simp] theorem State.msix_fab (s : State) (v : Nat) : (s.msix v).fab = s.fab := by
  obtain ⟨_, _, e⟩ := State.msix_only s v; rw [e]
@[simp] theorem State.msix_err (s : State) (v : Nat) : (s.msix v).err = s.err := by
  obtain ⟨_, _, e⟩ := State.msix_only s v; rw [e]
@[simp] theorem State.msix_trib (s : State) (v : Nat) : (s.msix v).trib = s.trib := by
  obtain ⟨_, _, e⟩ := State.msix_only s v; rw [e]
@[simp] theorem State.msix_mdio (s : State) (v : Nat) : (s.msix v).mdio = s.mdio := by
  obtain ⟨_, _, e⟩ := State.msix_only s v; rw [e]
@[simp] theorem State.msix_seqr (s : State) (v : Nat) : (s.msix v).seqr = s.seqr := by
  obtain ⟨_, _, e⟩ := State.msix_only s v; rw [e]
@[simp] theorem State.msix_mir (s : State) (v : Nat) : (s.msix v).mir = s.mir := by
  obtain ⟨_, _, e⟩ := State.msix_only s v; rw [e]
@[simp] theorem State.msix_conf (s : State) (v : Nat) : (s.msix v).conf = s.conf := by
  obtain ⟨_, _, e⟩ := State.msix_only s v; rw [e]
@[simp] theorem State.msix_pwr (s : State) (v : Nat) : (s.msix v).pwr = s.pwr := by
  obtain ⟨_, _, e⟩ := State.msix_only s v; rw [e]
@[simp] theorem State.msix_bkd (s : State) (v : Nat) : (s.msix v).bkd = s.bkd := by
  obtain ⟨_, _, e⟩ := State.msix_only s v; rw [e]
@[simp] theorem State.msix_ldg (s : State) (v : Nat) : (s.msix v).ldg = s.ldg := by
  obtain ⟨_, _, e⟩ := State.msix_only s v; rw [e]
@[simp] theorem State.msix_boot (s : State) (v : Nat) : (s.msix v).boot = s.boot := by
  obtain ⟨_, _, e⟩ := State.msix_only s v; rw [e]
@[simp] theorem State.msix_tap (s : State) (v : Nat) : (s.msix v).tap = s.tap := by
  obtain ⟨_, _, e⟩ := State.msix_only s v; rw [e]
@[simp] theorem State.msix_life (s : State) (v : Nat) : (s.msix v).life = s.life := by
  obtain ⟨_, _, e⟩ := State.msix_only s v; rw [e]
@[simp] theorem State.msix_free (s : State) (v : Nat) : (s.msix v).free = s.free := by
  obtain ⟨_, _, e⟩ := State.msix_only s v; rw [e]
@[simp] theorem State.msix_pending (s : State) (v : Nat) : (s.msix v).pending = s.pending := by
  obtain ⟨_, _, e⟩ := State.msix_only s v; rw [e]
theorem State.pushEvent_only (s : State) (q : Fin 4) (e : Event) : ∃ x0 x1, s.pushEvent q e = { s with host := x0, out := x1 } := by
  unfold State.pushEvent; dsimp only; split
  · exact ⟨_, s.out, rfl⟩
  · split
    · obtain ⟨h, o, e⟩ := State.msix_only (State.emit _ _) _
      rw [e]; exact ⟨h, o, rfl⟩
    · exact ⟨_, _, rfl⟩
@[simp] theorem State.pushEvent_glb (s : State) (q : Fin 4) (e : Event) : (s.pushEvent q e).glb = s.glb := by
  obtain ⟨_, _, e⟩ := State.pushEvent_only s q e; rw [e]
@[simp] theorem State.pushEvent_ret (s : State) (q : Fin 4) (e : Event) : (s.pushEvent q e).ret = s.ret := by
  obtain ⟨_, _, e⟩ := State.pushEvent_only s q e; rw [e]
@[simp] theorem State.pushEvent_slu (s : State) (q : Fin 4) (e : Event) : (s.pushEvent q e).slu = s.slu := by
  obtain ⟨_, _, e⟩ := State.pushEvent_only s q e; rw [e]
@[simp] theorem State.pushEvent_store (s : State) (q : Fin 4) (e : Event) : (s.pushEvent q e).store = s.store := by
  obtain ⟨_, _, e⟩ := State.pushEvent_only s q e; rw [e]
@[simp] theorem State.pushEvent_scan (s : State) (q : Fin 4) (e : Event) : (s.pushEvent q e).scan = s.scan := by
  obtain ⟨_, _, e⟩ := State.pushEvent_only s q e; rw [e]
@[simp] theorem State.pushEvent_dch (s : State) (q : Fin 4) (e : Event) : (s.pushEvent q e).dch = s.dch := by
  obtain ⟨_, _, e⟩ := State.pushEvent_only s q e; rw [e]
@[simp] theorem State.pushEvent_fab (s : State) (q : Fin 4) (e : Event) : (s.pushEvent q e).fab = s.fab := by
  obtain ⟨_, _, e⟩ := State.pushEvent_only s q e; rw [e]
@[simp] theorem State.pushEvent_err (s : State) (q : Fin 4) (e : Event) : (s.pushEvent q e).err = s.err := by
  obtain ⟨_, _, e⟩ := State.pushEvent_only s q e; rw [e]
@[simp] theorem State.pushEvent_trib (s : State) (q : Fin 4) (e : Event) : (s.pushEvent q e).trib = s.trib := by
  obtain ⟨_, _, e⟩ := State.pushEvent_only s q e; rw [e]
@[simp] theorem State.pushEvent_mdio (s : State) (q : Fin 4) (e : Event) : (s.pushEvent q e).mdio = s.mdio := by
  obtain ⟨_, _, e⟩ := State.pushEvent_only s q e; rw [e]
@[simp] theorem State.pushEvent_seqr (s : State) (q : Fin 4) (e : Event) : (s.pushEvent q e).seqr = s.seqr := by
  obtain ⟨_, _, e⟩ := State.pushEvent_only s q e; rw [e]
@[simp] theorem State.pushEvent_mir (s : State) (q : Fin 4) (e : Event) : (s.pushEvent q e).mir = s.mir := by
  obtain ⟨_, _, e⟩ := State.pushEvent_only s q e; rw [e]
@[simp] theorem State.pushEvent_conf (s : State) (q : Fin 4) (e : Event) : (s.pushEvent q e).conf = s.conf := by
  obtain ⟨_, _, e⟩ := State.pushEvent_only s q e; rw [e]
@[simp] theorem State.pushEvent_pwr (s : State) (q : Fin 4) (e : Event) : (s.pushEvent q e).pwr = s.pwr := by
  obtain ⟨_, _, e⟩ := State.pushEvent_only s q e; rw [e]
@[simp] theorem State.pushEvent_bkd (s : State) (q : Fin 4) (e : Event) : (s.pushEvent q e).bkd = s.bkd := by
  obtain ⟨_, _, e⟩ := State.pushEvent_only s q e; rw [e]
@[simp] theorem State.pushEvent_ldg (s : State) (q : Fin 4) (e : Event) : (s.pushEvent q e).ldg = s.ldg := by
  obtain ⟨_, _, e⟩ := State.pushEvent_only s q e; rw [e]
@[simp] theorem State.pushEvent_boot (s : State) (q : Fin 4) (e : Event) : (s.pushEvent q e).boot = s.boot := by
  obtain ⟨_, _, e⟩ := State.pushEvent_only s q e; rw [e]
@[simp] theorem State.pushEvent_tap (s : State) (q : Fin 4) (e : Event) : (s.pushEvent q e).tap = s.tap := by
  obtain ⟨_, _, e⟩ := State.pushEvent_only s q e; rw [e]
@[simp] theorem State.pushEvent_life (s : State) (q : Fin 4) (e : Event) : (s.pushEvent q e).life = s.life := by
  obtain ⟨_, _, e⟩ := State.pushEvent_only s q e; rw [e]
@[simp] theorem State.pushEvent_free (s : State) (q : Fin 4) (e : Event) : (s.pushEvent q e).free = s.free := by
  obtain ⟨_, _, e⟩ := State.pushEvent_only s q e; rw [e]
@[simp] theorem State.pushEvent_pending (s : State) (q : Fin 4) (e : Event) : (s.pushEvent q e).pending = s.pending := by
  obtain ⟨_, _, e⟩ := State.pushEvent_only s q e; rw [e]
theorem State.deliver_only (s : State) (e : Event) : ∃ x0 hl hx x2, s.deliver e = { s with host := x0, boot := { s.boot with held := hl, heldLost := hx }, out := x2 } := by
  have step (s : State) (q : Fin 4) (p : Prop) [Decidable p] : ∃ h o, (if p then s.pushEvent q e else s) = { s with host := h, out := o } := by
    split
    · exact State.pushEvent_only s q e
    · exact ⟨s.host, s.out, rfl⟩
  have fold (l : List (Fin 4)) (p : State → Fin 4 → Bool) (s : State) :
      ∃ h o, l.foldl (fun s q => if p s q then s.pushEvent q e else s) s = { s with host := h, out := o } := by
    induction l generalizing s with
    | nil => exact ⟨s.host, s.out, rfl⟩
    | cons q t ih =>
      obtain ⟨h, o, e1⟩ := step s q (p s q)
      rw [List.foldl_cons, e1]
      obtain ⟨h', o', e2⟩ := ih { s with host := h, out := o }
      rw [e2]; exact ⟨h', o', rfl⟩
  obtain ⟨h, o, e1⟩ := fold [0, 1, 2, 3] (fun s q => s.host.mq[q].state = .active ∧ s.host.mq[q].mask.getLsbD (bits e.code 8 8)) s
  simp only [decide_eq_true_eq] at e1
  unfold State.deliver; dsimp only
  rw [e1]; repeat' split
  · exact ⟨_, s.boot.held, s.boot.heldLost, _, rfl⟩
  all_goals exact ⟨_, _, _, _, rfl⟩
@[simp] theorem State.deliver_glb (s : State) (e : Event) : (s.deliver e).glb = s.glb := by
  obtain ⟨_, _, _, _, e⟩ := State.deliver_only s e; rw [e]
@[simp] theorem State.deliver_ret (s : State) (e : Event) : (s.deliver e).ret = s.ret := by
  obtain ⟨_, _, _, _, e⟩ := State.deliver_only s e; rw [e]
@[simp] theorem State.deliver_slu (s : State) (e : Event) : (s.deliver e).slu = s.slu := by
  obtain ⟨_, _, _, _, e⟩ := State.deliver_only s e; rw [e]
@[simp] theorem State.deliver_store (s : State) (e : Event) : (s.deliver e).store = s.store := by
  obtain ⟨_, _, _, _, e⟩ := State.deliver_only s e; rw [e]
@[simp] theorem State.deliver_scan (s : State) (e : Event) : (s.deliver e).scan = s.scan := by
  obtain ⟨_, _, _, _, e⟩ := State.deliver_only s e; rw [e]
@[simp] theorem State.deliver_dch (s : State) (e : Event) : (s.deliver e).dch = s.dch := by
  obtain ⟨_, _, _, _, e⟩ := State.deliver_only s e; rw [e]
@[simp] theorem State.deliver_fab (s : State) (e : Event) : (s.deliver e).fab = s.fab := by
  obtain ⟨_, _, _, _, e⟩ := State.deliver_only s e; rw [e]
@[simp] theorem State.deliver_err (s : State) (e : Event) : (s.deliver e).err = s.err := by
  obtain ⟨_, _, _, _, e⟩ := State.deliver_only s e; rw [e]
@[simp] theorem State.deliver_trib (s : State) (e : Event) : (s.deliver e).trib = s.trib := by
  obtain ⟨_, _, _, _, e⟩ := State.deliver_only s e; rw [e]
@[simp] theorem State.deliver_mdio (s : State) (e : Event) : (s.deliver e).mdio = s.mdio := by
  obtain ⟨_, _, _, _, e⟩ := State.deliver_only s e; rw [e]
@[simp] theorem State.deliver_seqr (s : State) (e : Event) : (s.deliver e).seqr = s.seqr := by
  obtain ⟨_, _, _, _, e⟩ := State.deliver_only s e; rw [e]
@[simp] theorem State.deliver_mir (s : State) (e : Event) : (s.deliver e).mir = s.mir := by
  obtain ⟨_, _, _, _, e⟩ := State.deliver_only s e; rw [e]
@[simp] theorem State.deliver_conf (s : State) (e : Event) : (s.deliver e).conf = s.conf := by
  obtain ⟨_, _, _, _, e⟩ := State.deliver_only s e; rw [e]
@[simp] theorem State.deliver_pwr (s : State) (e : Event) : (s.deliver e).pwr = s.pwr := by
  obtain ⟨_, _, _, _, e⟩ := State.deliver_only s e; rw [e]
@[simp] theorem State.deliver_bkd (s : State) (e : Event) : (s.deliver e).bkd = s.bkd := by
  obtain ⟨_, _, _, _, e⟩ := State.deliver_only s e; rw [e]
@[simp] theorem State.deliver_ldg (s : State) (e : Event) : (s.deliver e).ldg = s.ldg := by
  obtain ⟨_, _, _, _, e⟩ := State.deliver_only s e; rw [e]
@[simp] theorem State.deliver_tap (s : State) (e : Event) : (s.deliver e).tap = s.tap := by
  obtain ⟨_, _, _, _, e⟩ := State.deliver_only s e; rw [e]
@[simp] theorem State.deliver_life (s : State) (e : Event) : (s.deliver e).life = s.life := by
  obtain ⟨_, _, _, _, e⟩ := State.deliver_only s e; rw [e]
@[simp] theorem State.deliver_free (s : State) (e : Event) : (s.deliver e).free = s.free := by
  obtain ⟨_, _, _, _, e⟩ := State.deliver_only s e; rw [e]
@[simp] theorem State.deliver_pending (s : State) (e : Event) : (s.deliver e).pending = s.pending := by
  obtain ⟨_, _, _, _, e⟩ := State.deliver_only s e; rw [e]
@[simp] theorem State.deliver_boot_stage (s : State) (e : Event) : (s.deliver e).boot.stage = s.boot.stage := by
  obtain ⟨_, _, _, _, e⟩ := State.deliver_only s e; rw [e]
@[simp] theorem State.deliver_boot_haltCause (s : State) (e : Event) : (s.deliver e).boot.haltCause = s.boot.haltCause := by
  obtain ⟨_, _, _, _, e⟩ := State.deliver_only s e; rw [e]
@[simp] theorem State.deliver_boot_revoked (s : State) (e : Event) : (s.deliver e).boot.revoked = s.boot.revoked := by
  obtain ⟨_, _, _, _, e⟩ := State.deliver_only s e; rw [e]
@[simp] theorem State.deliver_boot_coreOut (s : State) (e : Event) : (s.deliver e).boot.coreOut = s.boot.coreOut := by
  obtain ⟨_, _, _, _, e⟩ := State.deliver_only s e; rw [e]
@[simp] theorem State.deliver_boot_copies (s : State) (e : Event) : (s.deliver e).boot.copies = s.boot.copies := by
  obtain ⟨_, _, _, _, e⟩ := State.deliver_only s e; rw [e]
theorem State.raise_only (s : State) (c i : Nat) (d : List (Nat × Nat)) : ∃ x0 hl hx x2, s.raise c i d = { s with host := x0, boot := { s.boot with held := hl, heldLost := hx }, out := x2 } := by
  exact State.deliver_only _ _
@[simp] theorem State.raise_glb (s : State) (c i : Nat) (d : List (Nat × Nat)) : (s.raise c i d).glb = s.glb := by
  obtain ⟨_, _, _, _, e⟩ := State.raise_only s c i d; rw [e]
@[simp] theorem State.raise_ret (s : State) (c i : Nat) (d : List (Nat × Nat)) : (s.raise c i d).ret = s.ret := by
  obtain ⟨_, _, _, _, e⟩ := State.raise_only s c i d; rw [e]
@[simp] theorem State.raise_slu (s : State) (c i : Nat) (d : List (Nat × Nat)) : (s.raise c i d).slu = s.slu := by
  obtain ⟨_, _, _, _, e⟩ := State.raise_only s c i d; rw [e]
@[simp] theorem State.raise_store (s : State) (c i : Nat) (d : List (Nat × Nat)) : (s.raise c i d).store = s.store := by
  obtain ⟨_, _, _, _, e⟩ := State.raise_only s c i d; rw [e]
@[simp] theorem State.raise_scan (s : State) (c i : Nat) (d : List (Nat × Nat)) : (s.raise c i d).scan = s.scan := by
  obtain ⟨_, _, _, _, e⟩ := State.raise_only s c i d; rw [e]
@[simp] theorem State.raise_dch (s : State) (c i : Nat) (d : List (Nat × Nat)) : (s.raise c i d).dch = s.dch := by
  obtain ⟨_, _, _, _, e⟩ := State.raise_only s c i d; rw [e]
@[simp] theorem State.raise_fab (s : State) (c i : Nat) (d : List (Nat × Nat)) : (s.raise c i d).fab = s.fab := by
  obtain ⟨_, _, _, _, e⟩ := State.raise_only s c i d; rw [e]
@[simp] theorem State.raise_err (s : State) (c i : Nat) (d : List (Nat × Nat)) : (s.raise c i d).err = s.err := by
  obtain ⟨_, _, _, _, e⟩ := State.raise_only s c i d; rw [e]
@[simp] theorem State.raise_trib (s : State) (c i : Nat) (d : List (Nat × Nat)) : (s.raise c i d).trib = s.trib := by
  obtain ⟨_, _, _, _, e⟩ := State.raise_only s c i d; rw [e]
@[simp] theorem State.raise_mdio (s : State) (c i : Nat) (d : List (Nat × Nat)) : (s.raise c i d).mdio = s.mdio := by
  obtain ⟨_, _, _, _, e⟩ := State.raise_only s c i d; rw [e]
@[simp] theorem State.raise_seqr (s : State) (c i : Nat) (d : List (Nat × Nat)) : (s.raise c i d).seqr = s.seqr := by
  obtain ⟨_, _, _, _, e⟩ := State.raise_only s c i d; rw [e]
@[simp] theorem State.raise_mir (s : State) (c i : Nat) (d : List (Nat × Nat)) : (s.raise c i d).mir = s.mir := by
  obtain ⟨_, _, _, _, e⟩ := State.raise_only s c i d; rw [e]
@[simp] theorem State.raise_conf (s : State) (c i : Nat) (d : List (Nat × Nat)) : (s.raise c i d).conf = s.conf := by
  obtain ⟨_, _, _, _, e⟩ := State.raise_only s c i d; rw [e]
@[simp] theorem State.raise_pwr (s : State) (c i : Nat) (d : List (Nat × Nat)) : (s.raise c i d).pwr = s.pwr := by
  obtain ⟨_, _, _, _, e⟩ := State.raise_only s c i d; rw [e]
@[simp] theorem State.raise_bkd (s : State) (c i : Nat) (d : List (Nat × Nat)) : (s.raise c i d).bkd = s.bkd := by
  obtain ⟨_, _, _, _, e⟩ := State.raise_only s c i d; rw [e]
@[simp] theorem State.raise_ldg (s : State) (c i : Nat) (d : List (Nat × Nat)) : (s.raise c i d).ldg = s.ldg := by
  obtain ⟨_, _, _, _, e⟩ := State.raise_only s c i d; rw [e]
@[simp] theorem State.raise_tap (s : State) (c i : Nat) (d : List (Nat × Nat)) : (s.raise c i d).tap = s.tap := by
  obtain ⟨_, _, _, _, e⟩ := State.raise_only s c i d; rw [e]
@[simp] theorem State.raise_life (s : State) (c i : Nat) (d : List (Nat × Nat)) : (s.raise c i d).life = s.life := by
  obtain ⟨_, _, _, _, e⟩ := State.raise_only s c i d; rw [e]
@[simp] theorem State.raise_free (s : State) (c i : Nat) (d : List (Nat × Nat)) : (s.raise c i d).free = s.free := by
  obtain ⟨_, _, _, _, e⟩ := State.raise_only s c i d; rw [e]
@[simp] theorem State.raise_pending (s : State) (c i : Nat) (d : List (Nat × Nat)) : (s.raise c i d).pending = s.pending := by
  obtain ⟨_, _, _, _, e⟩ := State.raise_only s c i d; rw [e]
@[simp] theorem State.raise_boot_stage (s : State) (c i : Nat) (d : List (Nat × Nat)) : (s.raise c i d).boot.stage = s.boot.stage := by
  obtain ⟨_, _, _, _, e⟩ := State.raise_only s c i d; rw [e]
@[simp] theorem State.raise_boot_haltCause (s : State) (c i : Nat) (d : List (Nat × Nat)) : (s.raise c i d).boot.haltCause = s.boot.haltCause := by
  obtain ⟨_, _, _, _, e⟩ := State.raise_only s c i d; rw [e]
@[simp] theorem State.raise_boot_revoked (s : State) (c i : Nat) (d : List (Nat × Nat)) : (s.raise c i d).boot.revoked = s.boot.revoked := by
  obtain ⟨_, _, _, _, e⟩ := State.raise_only s c i d; rw [e]
@[simp] theorem State.raise_boot_coreOut (s : State) (c i : Nat) (d : List (Nat × Nat)) : (s.raise c i d).boot.coreOut = s.boot.coreOut := by
  obtain ⟨_, _, _, _, e⟩ := State.raise_only s c i d; rw [e]
@[simp] theorem State.raise_boot_copies (s : State) (c i : Nat) (d : List (Nat × Nat)) : (s.raise c i d).boot.copies = s.boot.copies := by
  obtain ⟨_, _, _, _, e⟩ := State.raise_only s c i d; rw [e]
theorem State.raiseLim_only (s : State) (c k i : Nat) (d : List (Nat × Nat)) : ∃ x0 x1 hl hx x3, s.raiseLim c k i d = { s with glb := x0, host := x1, boot := { s.boot with held := hl, heldLost := hx }, out := x3 } := by
  unfold State.raiseLim State.noteRaised; split
  · obtain ⟨h, l, x, o, e⟩ := State.raise_only { s with glb := _ } c i d
    rw [e]; exact ⟨_, h, l, x, o, rfl⟩
  · exact ⟨s.glb, s.host, s.boot.held, s.boot.heldLost, s.out, rfl⟩
@[simp] theorem State.raiseLim_ret (s : State) (c k i : Nat) (d : List (Nat × Nat)) : (s.raiseLim c k i d).ret = s.ret := by
  obtain ⟨_, _, _, _, _, e⟩ := State.raiseLim_only s c k i d; rw [e]
@[simp] theorem State.raiseLim_slu (s : State) (c k i : Nat) (d : List (Nat × Nat)) : (s.raiseLim c k i d).slu = s.slu := by
  obtain ⟨_, _, _, _, _, e⟩ := State.raiseLim_only s c k i d; rw [e]
@[simp] theorem State.raiseLim_store (s : State) (c k i : Nat) (d : List (Nat × Nat)) : (s.raiseLim c k i d).store = s.store := by
  obtain ⟨_, _, _, _, _, e⟩ := State.raiseLim_only s c k i d; rw [e]
@[simp] theorem State.raiseLim_scan (s : State) (c k i : Nat) (d : List (Nat × Nat)) : (s.raiseLim c k i d).scan = s.scan := by
  obtain ⟨_, _, _, _, _, e⟩ := State.raiseLim_only s c k i d; rw [e]
@[simp] theorem State.raiseLim_dch (s : State) (c k i : Nat) (d : List (Nat × Nat)) : (s.raiseLim c k i d).dch = s.dch := by
  obtain ⟨_, _, _, _, _, e⟩ := State.raiseLim_only s c k i d; rw [e]
@[simp] theorem State.raiseLim_fab (s : State) (c k i : Nat) (d : List (Nat × Nat)) : (s.raiseLim c k i d).fab = s.fab := by
  obtain ⟨_, _, _, _, _, e⟩ := State.raiseLim_only s c k i d; rw [e]
@[simp] theorem State.raiseLim_err (s : State) (c k i : Nat) (d : List (Nat × Nat)) : (s.raiseLim c k i d).err = s.err := by
  obtain ⟨_, _, _, _, _, e⟩ := State.raiseLim_only s c k i d; rw [e]
@[simp] theorem State.raiseLim_trib (s : State) (c k i : Nat) (d : List (Nat × Nat)) : (s.raiseLim c k i d).trib = s.trib := by
  obtain ⟨_, _, _, _, _, e⟩ := State.raiseLim_only s c k i d; rw [e]
@[simp] theorem State.raiseLim_mdio (s : State) (c k i : Nat) (d : List (Nat × Nat)) : (s.raiseLim c k i d).mdio = s.mdio := by
  obtain ⟨_, _, _, _, _, e⟩ := State.raiseLim_only s c k i d; rw [e]
@[simp] theorem State.raiseLim_seqr (s : State) (c k i : Nat) (d : List (Nat × Nat)) : (s.raiseLim c k i d).seqr = s.seqr := by
  obtain ⟨_, _, _, _, _, e⟩ := State.raiseLim_only s c k i d; rw [e]
@[simp] theorem State.raiseLim_mir (s : State) (c k i : Nat) (d : List (Nat × Nat)) : (s.raiseLim c k i d).mir = s.mir := by
  obtain ⟨_, _, _, _, _, e⟩ := State.raiseLim_only s c k i d; rw [e]
@[simp] theorem State.raiseLim_conf (s : State) (c k i : Nat) (d : List (Nat × Nat)) : (s.raiseLim c k i d).conf = s.conf := by
  obtain ⟨_, _, _, _, _, e⟩ := State.raiseLim_only s c k i d; rw [e]
@[simp] theorem State.raiseLim_pwr (s : State) (c k i : Nat) (d : List (Nat × Nat)) : (s.raiseLim c k i d).pwr = s.pwr := by
  obtain ⟨_, _, _, _, _, e⟩ := State.raiseLim_only s c k i d; rw [e]
@[simp] theorem State.raiseLim_bkd (s : State) (c k i : Nat) (d : List (Nat × Nat)) : (s.raiseLim c k i d).bkd = s.bkd := by
  obtain ⟨_, _, _, _, _, e⟩ := State.raiseLim_only s c k i d; rw [e]
@[simp] theorem State.raiseLim_ldg (s : State) (c k i : Nat) (d : List (Nat × Nat)) : (s.raiseLim c k i d).ldg = s.ldg := by
  obtain ⟨_, _, _, _, _, e⟩ := State.raiseLim_only s c k i d; rw [e]
@[simp] theorem State.raiseLim_tap (s : State) (c k i : Nat) (d : List (Nat × Nat)) : (s.raiseLim c k i d).tap = s.tap := by
  obtain ⟨_, _, _, _, _, e⟩ := State.raiseLim_only s c k i d; rw [e]
@[simp] theorem State.raiseLim_life (s : State) (c k i : Nat) (d : List (Nat × Nat)) : (s.raiseLim c k i d).life = s.life := by
  obtain ⟨_, _, _, _, _, e⟩ := State.raiseLim_only s c k i d; rw [e]
@[simp] theorem State.raiseLim_free (s : State) (c k i : Nat) (d : List (Nat × Nat)) : (s.raiseLim c k i d).free = s.free := by
  obtain ⟨_, _, _, _, _, e⟩ := State.raiseLim_only s c k i d; rw [e]
@[simp] theorem State.raiseLim_pending (s : State) (c k i : Nat) (d : List (Nat × Nat)) : (s.raiseLim c k i d).pending = s.pending := by
  obtain ⟨_, _, _, _, _, e⟩ := State.raiseLim_only s c k i d; rw [e]
@[simp] theorem State.raiseLim_boot_stage (s : State) (c k i : Nat) (d : List (Nat × Nat)) : (s.raiseLim c k i d).boot.stage = s.boot.stage := by
  obtain ⟨_, _, _, _, _, e⟩ := State.raiseLim_only s c k i d; rw [e]
@[simp] theorem State.raiseLim_boot_haltCause (s : State) (c k i : Nat) (d : List (Nat × Nat)) : (s.raiseLim c k i d).boot.haltCause = s.boot.haltCause := by
  obtain ⟨_, _, _, _, _, e⟩ := State.raiseLim_only s c k i d; rw [e]
@[simp] theorem State.raiseLim_boot_revoked (s : State) (c k i : Nat) (d : List (Nat × Nat)) : (s.raiseLim c k i d).boot.revoked = s.boot.revoked := by
  obtain ⟨_, _, _, _, _, e⟩ := State.raiseLim_only s c k i d; rw [e]
@[simp] theorem State.raiseLim_boot_coreOut (s : State) (c k i : Nat) (d : List (Nat × Nat)) : (s.raiseLim c k i d).boot.coreOut = s.boot.coreOut := by
  obtain ⟨_, _, _, _, _, e⟩ := State.raiseLim_only s c k i d; rw [e]
@[simp] theorem State.raiseLim_boot_copies (s : State) (c k i : Nat) (d : List (Nat × Nat)) : (s.raiseLim c k i d).boot.copies = s.boot.copies := by
  obtain ⟨_, _, _, _, _, e⟩ := State.raiseLim_only s c k i d; rw [e]
theorem State.raiseErr_only (s : State) (c k i b : Nat) (d : List (Nat × Nat)) : ∃ x0 x1 x2 hl hx x4, s.raiseErr c k i b d = { s with glb := x0, host := x1, err := x2, boot := { s.boot with held := hl, heldLost := hx }, out := x4 } := by
  unfold State.raiseErr; split
  · obtain ⟨g, h, l, x, o, e⟩ := State.raiseLim_only (s.blame b) c k i d
    rw [e]; exact ⟨g, h, _, l, x, o, rfl⟩
  · exact ⟨s.glb, s.host, s.err, s.boot.held, s.boot.heldLost, s.out, rfl⟩
@[simp] theorem State.raiseErr_ret (s : State) (c k i b : Nat) (d : List (Nat × Nat)) : (s.raiseErr c k i b d).ret = s.ret := by
  obtain ⟨_, _, _, _, _, _, e⟩ := State.raiseErr_only s c k i b d; rw [e]
@[simp] theorem State.raiseErr_slu (s : State) (c k i b : Nat) (d : List (Nat × Nat)) : (s.raiseErr c k i b d).slu = s.slu := by
  obtain ⟨_, _, _, _, _, _, e⟩ := State.raiseErr_only s c k i b d; rw [e]
@[simp] theorem State.raiseErr_store (s : State) (c k i b : Nat) (d : List (Nat × Nat)) : (s.raiseErr c k i b d).store = s.store := by
  obtain ⟨_, _, _, _, _, _, e⟩ := State.raiseErr_only s c k i b d; rw [e]
@[simp] theorem State.raiseErr_scan (s : State) (c k i b : Nat) (d : List (Nat × Nat)) : (s.raiseErr c k i b d).scan = s.scan := by
  obtain ⟨_, _, _, _, _, _, e⟩ := State.raiseErr_only s c k i b d; rw [e]
@[simp] theorem State.raiseErr_dch (s : State) (c k i b : Nat) (d : List (Nat × Nat)) : (s.raiseErr c k i b d).dch = s.dch := by
  obtain ⟨_, _, _, _, _, _, e⟩ := State.raiseErr_only s c k i b d; rw [e]
@[simp] theorem State.raiseErr_fab (s : State) (c k i b : Nat) (d : List (Nat × Nat)) : (s.raiseErr c k i b d).fab = s.fab := by
  obtain ⟨_, _, _, _, _, _, e⟩ := State.raiseErr_only s c k i b d; rw [e]
@[simp] theorem State.raiseErr_trib (s : State) (c k i b : Nat) (d : List (Nat × Nat)) : (s.raiseErr c k i b d).trib = s.trib := by
  obtain ⟨_, _, _, _, _, _, e⟩ := State.raiseErr_only s c k i b d; rw [e]
@[simp] theorem State.raiseErr_mdio (s : State) (c k i b : Nat) (d : List (Nat × Nat)) : (s.raiseErr c k i b d).mdio = s.mdio := by
  obtain ⟨_, _, _, _, _, _, e⟩ := State.raiseErr_only s c k i b d; rw [e]
@[simp] theorem State.raiseErr_seqr (s : State) (c k i b : Nat) (d : List (Nat × Nat)) : (s.raiseErr c k i b d).seqr = s.seqr := by
  obtain ⟨_, _, _, _, _, _, e⟩ := State.raiseErr_only s c k i b d; rw [e]
@[simp] theorem State.raiseErr_mir (s : State) (c k i b : Nat) (d : List (Nat × Nat)) : (s.raiseErr c k i b d).mir = s.mir := by
  obtain ⟨_, _, _, _, _, _, e⟩ := State.raiseErr_only s c k i b d; rw [e]
@[simp] theorem State.raiseErr_conf (s : State) (c k i b : Nat) (d : List (Nat × Nat)) : (s.raiseErr c k i b d).conf = s.conf := by
  obtain ⟨_, _, _, _, _, _, e⟩ := State.raiseErr_only s c k i b d; rw [e]
@[simp] theorem State.raiseErr_pwr (s : State) (c k i b : Nat) (d : List (Nat × Nat)) : (s.raiseErr c k i b d).pwr = s.pwr := by
  obtain ⟨_, _, _, _, _, _, e⟩ := State.raiseErr_only s c k i b d; rw [e]
@[simp] theorem State.raiseErr_bkd (s : State) (c k i b : Nat) (d : List (Nat × Nat)) : (s.raiseErr c k i b d).bkd = s.bkd := by
  obtain ⟨_, _, _, _, _, _, e⟩ := State.raiseErr_only s c k i b d; rw [e]
@[simp] theorem State.raiseErr_ldg (s : State) (c k i b : Nat) (d : List (Nat × Nat)) : (s.raiseErr c k i b d).ldg = s.ldg := by
  obtain ⟨_, _, _, _, _, _, e⟩ := State.raiseErr_only s c k i b d; rw [e]
@[simp] theorem State.raiseErr_tap (s : State) (c k i b : Nat) (d : List (Nat × Nat)) : (s.raiseErr c k i b d).tap = s.tap := by
  obtain ⟨_, _, _, _, _, _, e⟩ := State.raiseErr_only s c k i b d; rw [e]
@[simp] theorem State.raiseErr_life (s : State) (c k i b : Nat) (d : List (Nat × Nat)) : (s.raiseErr c k i b d).life = s.life := by
  obtain ⟨_, _, _, _, _, _, e⟩ := State.raiseErr_only s c k i b d; rw [e]
@[simp] theorem State.raiseErr_free (s : State) (c k i b : Nat) (d : List (Nat × Nat)) : (s.raiseErr c k i b d).free = s.free := by
  obtain ⟨_, _, _, _, _, _, e⟩ := State.raiseErr_only s c k i b d; rw [e]
@[simp] theorem State.raiseErr_pending (s : State) (c k i b : Nat) (d : List (Nat × Nat)) : (s.raiseErr c k i b d).pending = s.pending := by
  obtain ⟨_, _, _, _, _, _, e⟩ := State.raiseErr_only s c k i b d; rw [e]
@[simp] theorem State.raiseErr_boot_stage (s : State) (c k i b : Nat) (d : List (Nat × Nat)) : (s.raiseErr c k i b d).boot.stage = s.boot.stage := by
  obtain ⟨_, _, _, _, _, _, e⟩ := State.raiseErr_only s c k i b d; rw [e]
@[simp] theorem State.raiseErr_boot_haltCause (s : State) (c k i b : Nat) (d : List (Nat × Nat)) : (s.raiseErr c k i b d).boot.haltCause = s.boot.haltCause := by
  obtain ⟨_, _, _, _, _, _, e⟩ := State.raiseErr_only s c k i b d; rw [e]
@[simp] theorem State.raiseErr_boot_revoked (s : State) (c k i b : Nat) (d : List (Nat × Nat)) : (s.raiseErr c k i b d).boot.revoked = s.boot.revoked := by
  obtain ⟨_, _, _, _, _, _, e⟩ := State.raiseErr_only s c k i b d; rw [e]
@[simp] theorem State.raiseErr_boot_coreOut (s : State) (c k i b : Nat) (d : List (Nat × Nat)) : (s.raiseErr c k i b d).boot.coreOut = s.boot.coreOut := by
  obtain ⟨_, _, _, _, _, _, e⟩ := State.raiseErr_only s c k i b d; rw [e]
@[simp] theorem State.raiseErr_boot_copies (s : State) (c k i b : Nat) (d : List (Nat × Nat)) : (s.raiseErr c k i b d).boot.copies = s.boot.copies := by
  obtain ⟨_, _, _, _, _, _, e⟩ := State.raiseErr_only s c k i b d; rw [e]
theorem State.toLife_only (s : State) (i : Fin 50) (l : Life) : ∃ x0 hl hx x2 x3, s.toLife i l = { s with host := x0, boot := { s.boot with held := hl, heldLost := hx }, life := x2, out := x3 } := by
  obtain ⟨h, b, x, o, e⟩ := State.raise_only (s.setLife i l) _ _ _
  unfold State.toLife; rw [e]; exact ⟨h, b, x, _, o, rfl⟩
@[simp] theorem State.toLife_glb (s : State) (i : Fin 50) (l : Life) : (s.toLife i l).glb = s.glb := by
  obtain ⟨_, _, _, _, _, e⟩ := State.toLife_only s i l; rw [e]
@[simp] theorem State.toLife_ret (s : State) (i : Fin 50) (l : Life) : (s.toLife i l).ret = s.ret := by
  obtain ⟨_, _, _, _, _, e⟩ := State.toLife_only s i l; rw [e]
@[simp] theorem State.toLife_slu (s : State) (i : Fin 50) (l : Life) : (s.toLife i l).slu = s.slu := by
  obtain ⟨_, _, _, _, _, e⟩ := State.toLife_only s i l; rw [e]
@[simp] theorem State.toLife_store (s : State) (i : Fin 50) (l : Life) : (s.toLife i l).store = s.store := by
  obtain ⟨_, _, _, _, _, e⟩ := State.toLife_only s i l; rw [e]
@[simp] theorem State.toLife_scan (s : State) (i : Fin 50) (l : Life) : (s.toLife i l).scan = s.scan := by
  obtain ⟨_, _, _, _, _, e⟩ := State.toLife_only s i l; rw [e]
@[simp] theorem State.toLife_dch (s : State) (i : Fin 50) (l : Life) : (s.toLife i l).dch = s.dch := by
  obtain ⟨_, _, _, _, _, e⟩ := State.toLife_only s i l; rw [e]
@[simp] theorem State.toLife_fab (s : State) (i : Fin 50) (l : Life) : (s.toLife i l).fab = s.fab := by
  obtain ⟨_, _, _, _, _, e⟩ := State.toLife_only s i l; rw [e]
@[simp] theorem State.toLife_err (s : State) (i : Fin 50) (l : Life) : (s.toLife i l).err = s.err := by
  obtain ⟨_, _, _, _, _, e⟩ := State.toLife_only s i l; rw [e]
@[simp] theorem State.toLife_trib (s : State) (i : Fin 50) (l : Life) : (s.toLife i l).trib = s.trib := by
  obtain ⟨_, _, _, _, _, e⟩ := State.toLife_only s i l; rw [e]
@[simp] theorem State.toLife_mdio (s : State) (i : Fin 50) (l : Life) : (s.toLife i l).mdio = s.mdio := by
  obtain ⟨_, _, _, _, _, e⟩ := State.toLife_only s i l; rw [e]
@[simp] theorem State.toLife_seqr (s : State) (i : Fin 50) (l : Life) : (s.toLife i l).seqr = s.seqr := by
  obtain ⟨_, _, _, _, _, e⟩ := State.toLife_only s i l; rw [e]
@[simp] theorem State.toLife_mir (s : State) (i : Fin 50) (l : Life) : (s.toLife i l).mir = s.mir := by
  obtain ⟨_, _, _, _, _, e⟩ := State.toLife_only s i l; rw [e]
@[simp] theorem State.toLife_conf (s : State) (i : Fin 50) (l : Life) : (s.toLife i l).conf = s.conf := by
  obtain ⟨_, _, _, _, _, e⟩ := State.toLife_only s i l; rw [e]
@[simp] theorem State.toLife_pwr (s : State) (i : Fin 50) (l : Life) : (s.toLife i l).pwr = s.pwr := by
  obtain ⟨_, _, _, _, _, e⟩ := State.toLife_only s i l; rw [e]
@[simp] theorem State.toLife_bkd (s : State) (i : Fin 50) (l : Life) : (s.toLife i l).bkd = s.bkd := by
  obtain ⟨_, _, _, _, _, e⟩ := State.toLife_only s i l; rw [e]
@[simp] theorem State.toLife_ldg (s : State) (i : Fin 50) (l : Life) : (s.toLife i l).ldg = s.ldg := by
  obtain ⟨_, _, _, _, _, e⟩ := State.toLife_only s i l; rw [e]
@[simp] theorem State.toLife_tap (s : State) (i : Fin 50) (l : Life) : (s.toLife i l).tap = s.tap := by
  obtain ⟨_, _, _, _, _, e⟩ := State.toLife_only s i l; rw [e]
@[simp] theorem State.toLife_free (s : State) (i : Fin 50) (l : Life) : (s.toLife i l).free = s.free := by
  obtain ⟨_, _, _, _, _, e⟩ := State.toLife_only s i l; rw [e]
@[simp] theorem State.toLife_pending (s : State) (i : Fin 50) (l : Life) : (s.toLife i l).pending = s.pending := by
  obtain ⟨_, _, _, _, _, e⟩ := State.toLife_only s i l; rw [e]
@[simp] theorem State.toLife_boot_stage (s : State) (i : Fin 50) (l : Life) : (s.toLife i l).boot.stage = s.boot.stage := by
  obtain ⟨_, _, _, _, _, e⟩ := State.toLife_only s i l; rw [e]
@[simp] theorem State.toLife_boot_haltCause (s : State) (i : Fin 50) (l : Life) : (s.toLife i l).boot.haltCause = s.boot.haltCause := by
  obtain ⟨_, _, _, _, _, e⟩ := State.toLife_only s i l; rw [e]
@[simp] theorem State.toLife_boot_revoked (s : State) (i : Fin 50) (l : Life) : (s.toLife i l).boot.revoked = s.boot.revoked := by
  obtain ⟨_, _, _, _, _, e⟩ := State.toLife_only s i l; rw [e]
@[simp] theorem State.toLife_boot_coreOut (s : State) (i : Fin 50) (l : Life) : (s.toLife i l).boot.coreOut = s.boot.coreOut := by
  obtain ⟨_, _, _, _, _, e⟩ := State.toLife_only s i l; rw [e]
@[simp] theorem State.toLife_boot_copies (s : State) (i : Fin 50) (l : Life) : (s.toLife i l).boot.copies = s.boot.copies := by
  obtain ⟨_, _, _, _, _, e⟩ := State.toLife_only s i l; rw [e]
theorem State.toDev_only (s : State) (x : BitVec 3) : ∃ x0 x1 hl hx x3, s.toDev x = { s with glb := x0, host := x1, boot := { s.boot with held := hl, heldLost := hx }, out := x3 } := by
  unfold State.toDev; dsimp only; split
  · exact ⟨_, s.host, s.boot.held, s.boot.heldLost, s.out, rfl⟩
  · obtain ⟨h, b, x, o, e⟩ := State.raise_only { s with glb := _ } 0x0101 0 _
    rw [e]; exact ⟨_, h, b, x, o, rfl⟩
@[simp] theorem State.toDev_ret (s : State) (x : BitVec 3) : (s.toDev x).ret = s.ret := by
  obtain ⟨_, _, _, _, _, e⟩ := State.toDev_only s x; rw [e]
@[simp] theorem State.toDev_slu (s : State) (x : BitVec 3) : (s.toDev x).slu = s.slu := by
  obtain ⟨_, _, _, _, _, e⟩ := State.toDev_only s x; rw [e]
@[simp] theorem State.toDev_store (s : State) (x : BitVec 3) : (s.toDev x).store = s.store := by
  obtain ⟨_, _, _, _, _, e⟩ := State.toDev_only s x; rw [e]
@[simp] theorem State.toDev_scan (s : State) (x : BitVec 3) : (s.toDev x).scan = s.scan := by
  obtain ⟨_, _, _, _, _, e⟩ := State.toDev_only s x; rw [e]
@[simp] theorem State.toDev_dch (s : State) (x : BitVec 3) : (s.toDev x).dch = s.dch := by
  obtain ⟨_, _, _, _, _, e⟩ := State.toDev_only s x; rw [e]
@[simp] theorem State.toDev_fab (s : State) (x : BitVec 3) : (s.toDev x).fab = s.fab := by
  obtain ⟨_, _, _, _, _, e⟩ := State.toDev_only s x; rw [e]
@[simp] theorem State.toDev_err (s : State) (x : BitVec 3) : (s.toDev x).err = s.err := by
  obtain ⟨_, _, _, _, _, e⟩ := State.toDev_only s x; rw [e]
@[simp] theorem State.toDev_trib (s : State) (x : BitVec 3) : (s.toDev x).trib = s.trib := by
  obtain ⟨_, _, _, _, _, e⟩ := State.toDev_only s x; rw [e]
@[simp] theorem State.toDev_mdio (s : State) (x : BitVec 3) : (s.toDev x).mdio = s.mdio := by
  obtain ⟨_, _, _, _, _, e⟩ := State.toDev_only s x; rw [e]
@[simp] theorem State.toDev_seqr (s : State) (x : BitVec 3) : (s.toDev x).seqr = s.seqr := by
  obtain ⟨_, _, _, _, _, e⟩ := State.toDev_only s x; rw [e]
@[simp] theorem State.toDev_mir (s : State) (x : BitVec 3) : (s.toDev x).mir = s.mir := by
  obtain ⟨_, _, _, _, _, e⟩ := State.toDev_only s x; rw [e]
@[simp] theorem State.toDev_conf (s : State) (x : BitVec 3) : (s.toDev x).conf = s.conf := by
  obtain ⟨_, _, _, _, _, e⟩ := State.toDev_only s x; rw [e]
@[simp] theorem State.toDev_pwr (s : State) (x : BitVec 3) : (s.toDev x).pwr = s.pwr := by
  obtain ⟨_, _, _, _, _, e⟩ := State.toDev_only s x; rw [e]
@[simp] theorem State.toDev_bkd (s : State) (x : BitVec 3) : (s.toDev x).bkd = s.bkd := by
  obtain ⟨_, _, _, _, _, e⟩ := State.toDev_only s x; rw [e]
@[simp] theorem State.toDev_ldg (s : State) (x : BitVec 3) : (s.toDev x).ldg = s.ldg := by
  obtain ⟨_, _, _, _, _, e⟩ := State.toDev_only s x; rw [e]
@[simp] theorem State.toDev_tap (s : State) (x : BitVec 3) : (s.toDev x).tap = s.tap := by
  obtain ⟨_, _, _, _, _, e⟩ := State.toDev_only s x; rw [e]
@[simp] theorem State.toDev_life (s : State) (x : BitVec 3) : (s.toDev x).life = s.life := by
  obtain ⟨_, _, _, _, _, e⟩ := State.toDev_only s x; rw [e]
@[simp] theorem State.toDev_free (s : State) (x : BitVec 3) : (s.toDev x).free = s.free := by
  obtain ⟨_, _, _, _, _, e⟩ := State.toDev_only s x; rw [e]
@[simp] theorem State.toDev_pending (s : State) (x : BitVec 3) : (s.toDev x).pending = s.pending := by
  obtain ⟨_, _, _, _, _, e⟩ := State.toDev_only s x; rw [e]
@[simp] theorem State.toDev_boot_stage (s : State) (x : BitVec 3) : (s.toDev x).boot.stage = s.boot.stage := by
  obtain ⟨_, _, _, _, _, e⟩ := State.toDev_only s x; rw [e]
@[simp] theorem State.toDev_boot_haltCause (s : State) (x : BitVec 3) : (s.toDev x).boot.haltCause = s.boot.haltCause := by
  obtain ⟨_, _, _, _, _, e⟩ := State.toDev_only s x; rw [e]
@[simp] theorem State.toDev_boot_revoked (s : State) (x : BitVec 3) : (s.toDev x).boot.revoked = s.boot.revoked := by
  obtain ⟨_, _, _, _, _, e⟩ := State.toDev_only s x; rw [e]
@[simp] theorem State.toDev_boot_coreOut (s : State) (x : BitVec 3) : (s.toDev x).boot.coreOut = s.boot.coreOut := by
  obtain ⟨_, _, _, _, _, e⟩ := State.toDev_only s x; rw [e]
@[simp] theorem State.toDev_boot_copies (s : State) (x : BitVec 3) : (s.toDev x).boot.copies = s.boot.copies := by
  obtain ⟨_, _, _, _, _, e⟩ := State.toDev_only s x; rw [e]
theorem State.refuseAuth_only (s : State) (p : Fin 12) (c o : Nat) : ∃ x0 x1 hl hx x3, s.refuseAuth p c o = { s with glb := x0, host := x1, boot := { s.boot with held := hl, heldLost := hx }, out := x3 } := by
  obtain ⟨g, h, b, x, ou, e⟩ := State.raiseLim_only { s with glb := _ } _ _ _ _
  unfold State.refuseAuth; dsimp only; rw [e]; exact ⟨g, h, b, x, ou, rfl⟩
@[simp] theorem State.refuseAuth_ret (s : State) (p : Fin 12) (c o : Nat) : (s.refuseAuth p c o).ret = s.ret := by
  obtain ⟨_, _, _, _, _, e⟩ := State.refuseAuth_only s p c o; rw [e]
@[simp] theorem State.refuseAuth_slu (s : State) (p : Fin 12) (c o : Nat) : (s.refuseAuth p c o).slu = s.slu := by
  obtain ⟨_, _, _, _, _, e⟩ := State.refuseAuth_only s p c o; rw [e]
@[simp] theorem State.refuseAuth_store (s : State) (p : Fin 12) (c o : Nat) : (s.refuseAuth p c o).store = s.store := by
  obtain ⟨_, _, _, _, _, e⟩ := State.refuseAuth_only s p c o; rw [e]
@[simp] theorem State.refuseAuth_scan (s : State) (p : Fin 12) (c o : Nat) : (s.refuseAuth p c o).scan = s.scan := by
  obtain ⟨_, _, _, _, _, e⟩ := State.refuseAuth_only s p c o; rw [e]
@[simp] theorem State.refuseAuth_dch (s : State) (p : Fin 12) (c o : Nat) : (s.refuseAuth p c o).dch = s.dch := by
  obtain ⟨_, _, _, _, _, e⟩ := State.refuseAuth_only s p c o; rw [e]
@[simp] theorem State.refuseAuth_fab (s : State) (p : Fin 12) (c o : Nat) : (s.refuseAuth p c o).fab = s.fab := by
  obtain ⟨_, _, _, _, _, e⟩ := State.refuseAuth_only s p c o; rw [e]
@[simp] theorem State.refuseAuth_err (s : State) (p : Fin 12) (c o : Nat) : (s.refuseAuth p c o).err = s.err := by
  obtain ⟨_, _, _, _, _, e⟩ := State.refuseAuth_only s p c o; rw [e]
@[simp] theorem State.refuseAuth_trib (s : State) (p : Fin 12) (c o : Nat) : (s.refuseAuth p c o).trib = s.trib := by
  obtain ⟨_, _, _, _, _, e⟩ := State.refuseAuth_only s p c o; rw [e]
@[simp] theorem State.refuseAuth_mdio (s : State) (p : Fin 12) (c o : Nat) : (s.refuseAuth p c o).mdio = s.mdio := by
  obtain ⟨_, _, _, _, _, e⟩ := State.refuseAuth_only s p c o; rw [e]
@[simp] theorem State.refuseAuth_seqr (s : State) (p : Fin 12) (c o : Nat) : (s.refuseAuth p c o).seqr = s.seqr := by
  obtain ⟨_, _, _, _, _, e⟩ := State.refuseAuth_only s p c o; rw [e]
@[simp] theorem State.refuseAuth_mir (s : State) (p : Fin 12) (c o : Nat) : (s.refuseAuth p c o).mir = s.mir := by
  obtain ⟨_, _, _, _, _, e⟩ := State.refuseAuth_only s p c o; rw [e]
@[simp] theorem State.refuseAuth_conf (s : State) (p : Fin 12) (c o : Nat) : (s.refuseAuth p c o).conf = s.conf := by
  obtain ⟨_, _, _, _, _, e⟩ := State.refuseAuth_only s p c o; rw [e]
@[simp] theorem State.refuseAuth_pwr (s : State) (p : Fin 12) (c o : Nat) : (s.refuseAuth p c o).pwr = s.pwr := by
  obtain ⟨_, _, _, _, _, e⟩ := State.refuseAuth_only s p c o; rw [e]
@[simp] theorem State.refuseAuth_bkd (s : State) (p : Fin 12) (c o : Nat) : (s.refuseAuth p c o).bkd = s.bkd := by
  obtain ⟨_, _, _, _, _, e⟩ := State.refuseAuth_only s p c o; rw [e]
@[simp] theorem State.refuseAuth_ldg (s : State) (p : Fin 12) (c o : Nat) : (s.refuseAuth p c o).ldg = s.ldg := by
  obtain ⟨_, _, _, _, _, e⟩ := State.refuseAuth_only s p c o; rw [e]
@[simp] theorem State.refuseAuth_tap (s : State) (p : Fin 12) (c o : Nat) : (s.refuseAuth p c o).tap = s.tap := by
  obtain ⟨_, _, _, _, _, e⟩ := State.refuseAuth_only s p c o; rw [e]
@[simp] theorem State.refuseAuth_life (s : State) (p : Fin 12) (c o : Nat) : (s.refuseAuth p c o).life = s.life := by
  obtain ⟨_, _, _, _, _, e⟩ := State.refuseAuth_only s p c o; rw [e]
@[simp] theorem State.refuseAuth_free (s : State) (p : Fin 12) (c o : Nat) : (s.refuseAuth p c o).free = s.free := by
  obtain ⟨_, _, _, _, _, e⟩ := State.refuseAuth_only s p c o; rw [e]
@[simp] theorem State.refuseAuth_pending (s : State) (p : Fin 12) (c o : Nat) : (s.refuseAuth p c o).pending = s.pending := by
  obtain ⟨_, _, _, _, _, e⟩ := State.refuseAuth_only s p c o; rw [e]
@[simp] theorem State.refuseAuth_boot_stage (s : State) (p : Fin 12) (c o : Nat) : (s.refuseAuth p c o).boot.stage = s.boot.stage := by
  obtain ⟨_, _, _, _, _, e⟩ := State.refuseAuth_only s p c o; rw [e]
@[simp] theorem State.refuseAuth_boot_haltCause (s : State) (p : Fin 12) (c o : Nat) : (s.refuseAuth p c o).boot.haltCause = s.boot.haltCause := by
  obtain ⟨_, _, _, _, _, e⟩ := State.refuseAuth_only s p c o; rw [e]
@[simp] theorem State.refuseAuth_boot_revoked (s : State) (p : Fin 12) (c o : Nat) : (s.refuseAuth p c o).boot.revoked = s.boot.revoked := by
  obtain ⟨_, _, _, _, _, e⟩ := State.refuseAuth_only s p c o; rw [e]
@[simp] theorem State.refuseAuth_boot_coreOut (s : State) (p : Fin 12) (c o : Nat) : (s.refuseAuth p c o).boot.coreOut = s.boot.coreOut := by
  obtain ⟨_, _, _, _, _, e⟩ := State.refuseAuth_only s p c o; rw [e]
@[simp] theorem State.refuseAuth_boot_copies (s : State) (p : Fin 12) (c o : Nat) : (s.refuseAuth p c o).boot.copies = s.boot.copies := by
  obtain ⟨_, _, _, _, _, e⟩ := State.refuseAuth_only s p c o; rw [e]
theorem onCmds_only (s : State) (p : Fin 12) (f : List Cmd → List Cmd) : ∃ x0, onCmds s p f = { s with host := x0 } := by
  unfold onCmds; repeat' split
  · exact ⟨_, rfl⟩
  · exact ⟨_, rfl⟩
  · exact ⟨s.host, rfl⟩
@[simp] theorem onCmds_glb (s : State) (p : Fin 12) (f : List Cmd → List Cmd) : (onCmds s p f).glb = s.glb := by
  obtain ⟨_, e⟩ := onCmds_only s p f; rw [e]
@[simp] theorem onCmds_ret (s : State) (p : Fin 12) (f : List Cmd → List Cmd) : (onCmds s p f).ret = s.ret := by
  obtain ⟨_, e⟩ := onCmds_only s p f; rw [e]
@[simp] theorem onCmds_slu (s : State) (p : Fin 12) (f : List Cmd → List Cmd) : (onCmds s p f).slu = s.slu := by
  obtain ⟨_, e⟩ := onCmds_only s p f; rw [e]
@[simp] theorem onCmds_store (s : State) (p : Fin 12) (f : List Cmd → List Cmd) : (onCmds s p f).store = s.store := by
  obtain ⟨_, e⟩ := onCmds_only s p f; rw [e]
@[simp] theorem onCmds_scan (s : State) (p : Fin 12) (f : List Cmd → List Cmd) : (onCmds s p f).scan = s.scan := by
  obtain ⟨_, e⟩ := onCmds_only s p f; rw [e]
@[simp] theorem onCmds_dch (s : State) (p : Fin 12) (f : List Cmd → List Cmd) : (onCmds s p f).dch = s.dch := by
  obtain ⟨_, e⟩ := onCmds_only s p f; rw [e]
@[simp] theorem onCmds_fab (s : State) (p : Fin 12) (f : List Cmd → List Cmd) : (onCmds s p f).fab = s.fab := by
  obtain ⟨_, e⟩ := onCmds_only s p f; rw [e]
@[simp] theorem onCmds_err (s : State) (p : Fin 12) (f : List Cmd → List Cmd) : (onCmds s p f).err = s.err := by
  obtain ⟨_, e⟩ := onCmds_only s p f; rw [e]
@[simp] theorem onCmds_trib (s : State) (p : Fin 12) (f : List Cmd → List Cmd) : (onCmds s p f).trib = s.trib := by
  obtain ⟨_, e⟩ := onCmds_only s p f; rw [e]
@[simp] theorem onCmds_mdio (s : State) (p : Fin 12) (f : List Cmd → List Cmd) : (onCmds s p f).mdio = s.mdio := by
  obtain ⟨_, e⟩ := onCmds_only s p f; rw [e]
@[simp] theorem onCmds_seqr (s : State) (p : Fin 12) (f : List Cmd → List Cmd) : (onCmds s p f).seqr = s.seqr := by
  obtain ⟨_, e⟩ := onCmds_only s p f; rw [e]
@[simp] theorem onCmds_mir (s : State) (p : Fin 12) (f : List Cmd → List Cmd) : (onCmds s p f).mir = s.mir := by
  obtain ⟨_, e⟩ := onCmds_only s p f; rw [e]
@[simp] theorem onCmds_conf (s : State) (p : Fin 12) (f : List Cmd → List Cmd) : (onCmds s p f).conf = s.conf := by
  obtain ⟨_, e⟩ := onCmds_only s p f; rw [e]
@[simp] theorem onCmds_pwr (s : State) (p : Fin 12) (f : List Cmd → List Cmd) : (onCmds s p f).pwr = s.pwr := by
  obtain ⟨_, e⟩ := onCmds_only s p f; rw [e]
@[simp] theorem onCmds_bkd (s : State) (p : Fin 12) (f : List Cmd → List Cmd) : (onCmds s p f).bkd = s.bkd := by
  obtain ⟨_, e⟩ := onCmds_only s p f; rw [e]
@[simp] theorem onCmds_ldg (s : State) (p : Fin 12) (f : List Cmd → List Cmd) : (onCmds s p f).ldg = s.ldg := by
  obtain ⟨_, e⟩ := onCmds_only s p f; rw [e]
@[simp] theorem onCmds_boot (s : State) (p : Fin 12) (f : List Cmd → List Cmd) : (onCmds s p f).boot = s.boot := by
  obtain ⟨_, e⟩ := onCmds_only s p f; rw [e]
@[simp] theorem onCmds_tap (s : State) (p : Fin 12) (f : List Cmd → List Cmd) : (onCmds s p f).tap = s.tap := by
  obtain ⟨_, e⟩ := onCmds_only s p f; rw [e]
@[simp] theorem onCmds_life (s : State) (p : Fin 12) (f : List Cmd → List Cmd) : (onCmds s p f).life = s.life := by
  obtain ⟨_, e⟩ := onCmds_only s p f; rw [e]
@[simp] theorem onCmds_free (s : State) (p : Fin 12) (f : List Cmd → List Cmd) : (onCmds s p f).free = s.free := by
  obtain ⟨_, e⟩ := onCmds_only s p f; rw [e]
@[simp] theorem onCmds_out (s : State) (p : Fin 12) (f : List Cmd → List Cmd) : (onCmds s p f).out = s.out := by
  obtain ⟨_, e⟩ := onCmds_only s p f; rw [e]
@[simp] theorem onCmds_pending (s : State) (p : Fin 12) (f : List Cmd → List Cmd) : (onCmds s p f).pending = s.pending := by
  obtain ⟨_, e⟩ := onCmds_only s p f; rw [e]
theorem finish_only (d : Desc) (st r : Nat) (s : State) : ∃ x0, finish d st r s = { s with host := x0 } := by
  exact onCmds_only _ _ _
@[simp] theorem finish_glb (d : Desc) (st r : Nat) (s : State) : (finish d st r s).glb = s.glb := by
  obtain ⟨_, e⟩ := finish_only d st r s; rw [e]
@[simp] theorem finish_ret (d : Desc) (st r : Nat) (s : State) : (finish d st r s).ret = s.ret := by
  obtain ⟨_, e⟩ := finish_only d st r s; rw [e]
@[simp] theorem finish_slu (d : Desc) (st r : Nat) (s : State) : (finish d st r s).slu = s.slu := by
  obtain ⟨_, e⟩ := finish_only d st r s; rw [e]
@[simp] theorem finish_store (d : Desc) (st r : Nat) (s : State) : (finish d st r s).store = s.store := by
  obtain ⟨_, e⟩ := finish_only d st r s; rw [e]
@[simp] theorem finish_scan (d : Desc) (st r : Nat) (s : State) : (finish d st r s).scan = s.scan := by
  obtain ⟨_, e⟩ := finish_only d st r s; rw [e]
@[simp] theorem finish_dch (d : Desc) (st r : Nat) (s : State) : (finish d st r s).dch = s.dch := by
  obtain ⟨_, e⟩ := finish_only d st r s; rw [e]
@[simp] theorem finish_fab (d : Desc) (st r : Nat) (s : State) : (finish d st r s).fab = s.fab := by
  obtain ⟨_, e⟩ := finish_only d st r s; rw [e]
@[simp] theorem finish_err (d : Desc) (st r : Nat) (s : State) : (finish d st r s).err = s.err := by
  obtain ⟨_, e⟩ := finish_only d st r s; rw [e]
@[simp] theorem finish_trib (d : Desc) (st r : Nat) (s : State) : (finish d st r s).trib = s.trib := by
  obtain ⟨_, e⟩ := finish_only d st r s; rw [e]
@[simp] theorem finish_mdio (d : Desc) (st r : Nat) (s : State) : (finish d st r s).mdio = s.mdio := by
  obtain ⟨_, e⟩ := finish_only d st r s; rw [e]
@[simp] theorem finish_seqr (d : Desc) (st r : Nat) (s : State) : (finish d st r s).seqr = s.seqr := by
  obtain ⟨_, e⟩ := finish_only d st r s; rw [e]
@[simp] theorem finish_mir (d : Desc) (st r : Nat) (s : State) : (finish d st r s).mir = s.mir := by
  obtain ⟨_, e⟩ := finish_only d st r s; rw [e]
@[simp] theorem finish_conf (d : Desc) (st r : Nat) (s : State) : (finish d st r s).conf = s.conf := by
  obtain ⟨_, e⟩ := finish_only d st r s; rw [e]
@[simp] theorem finish_pwr (d : Desc) (st r : Nat) (s : State) : (finish d st r s).pwr = s.pwr := by
  obtain ⟨_, e⟩ := finish_only d st r s; rw [e]
@[simp] theorem finish_bkd (d : Desc) (st r : Nat) (s : State) : (finish d st r s).bkd = s.bkd := by
  obtain ⟨_, e⟩ := finish_only d st r s; rw [e]
@[simp] theorem finish_ldg (d : Desc) (st r : Nat) (s : State) : (finish d st r s).ldg = s.ldg := by
  obtain ⟨_, e⟩ := finish_only d st r s; rw [e]
@[simp] theorem finish_boot (d : Desc) (st r : Nat) (s : State) : (finish d st r s).boot = s.boot := by
  obtain ⟨_, e⟩ := finish_only d st r s; rw [e]
@[simp] theorem finish_tap (d : Desc) (st r : Nat) (s : State) : (finish d st r s).tap = s.tap := by
  obtain ⟨_, e⟩ := finish_only d st r s; rw [e]
@[simp] theorem finish_life (d : Desc) (st r : Nat) (s : State) : (finish d st r s).life = s.life := by
  obtain ⟨_, e⟩ := finish_only d st r s; rw [e]
@[simp] theorem finish_free (d : Desc) (st r : Nat) (s : State) : (finish d st r s).free = s.free := by
  obtain ⟨_, e⟩ := finish_only d st r s; rw [e]
@[simp] theorem finish_out (d : Desc) (st r : Nat) (s : State) : (finish d st r s).out = s.out := by
  obtain ⟨_, e⟩ := finish_only d st r s; rw [e]
@[simp] theorem finish_pending (d : Desc) (st r : Nat) (s : State) : (finish d st r s).pending = s.pending := by
  obtain ⟨_, e⟩ := finish_only d st r s; rw [e]
theorem finishData_only (d : Desc) (st r b : Nat) (l : List Byte) (s : State) : ∃ x0 x1, finishData d st r b l s = { s with host := x0, out := x1 } := by
  unfold finishData; dsimp only; split
  · obtain ⟨h, e⟩ := onCmds_only (s.emit (.dma (BitVec.ofNat 64 b) l 0)) d.port _
    rw [e]; exact ⟨h, _, rfl⟩
  · obtain ⟨h, e⟩ := onCmds_only s d.port _
    rw [e]; exact ⟨h, s.out, rfl⟩
@[simp] theorem finishData_glb (d : Desc) (st r b : Nat) (l : List Byte) (s : State) : (finishData d st r b l s).glb = s.glb := by
  obtain ⟨_, _, e⟩ := finishData_only d st r b l s; rw [e]
@[simp] theorem finishData_ret (d : Desc) (st r b : Nat) (l : List Byte) (s : State) : (finishData d st r b l s).ret = s.ret := by
  obtain ⟨_, _, e⟩ := finishData_only d st r b l s; rw [e]
@[simp] theorem finishData_slu (d : Desc) (st r b : Nat) (l : List Byte) (s : State) : (finishData d st r b l s).slu = s.slu := by
  obtain ⟨_, _, e⟩ := finishData_only d st r b l s; rw [e]
@[simp] theorem finishData_store (d : Desc) (st r b : Nat) (l : List Byte) (s : State) : (finishData d st r b l s).store = s.store := by
  obtain ⟨_, _, e⟩ := finishData_only d st r b l s; rw [e]
@[simp] theorem finishData_scan (d : Desc) (st r b : Nat) (l : List Byte) (s : State) : (finishData d st r b l s).scan = s.scan := by
  obtain ⟨_, _, e⟩ := finishData_only d st r b l s; rw [e]
@[simp] theorem finishData_dch (d : Desc) (st r b : Nat) (l : List Byte) (s : State) : (finishData d st r b l s).dch = s.dch := by
  obtain ⟨_, _, e⟩ := finishData_only d st r b l s; rw [e]
@[simp] theorem finishData_fab (d : Desc) (st r b : Nat) (l : List Byte) (s : State) : (finishData d st r b l s).fab = s.fab := by
  obtain ⟨_, _, e⟩ := finishData_only d st r b l s; rw [e]
@[simp] theorem finishData_err (d : Desc) (st r b : Nat) (l : List Byte) (s : State) : (finishData d st r b l s).err = s.err := by
  obtain ⟨_, _, e⟩ := finishData_only d st r b l s; rw [e]
@[simp] theorem finishData_trib (d : Desc) (st r b : Nat) (l : List Byte) (s : State) : (finishData d st r b l s).trib = s.trib := by
  obtain ⟨_, _, e⟩ := finishData_only d st r b l s; rw [e]
@[simp] theorem finishData_mdio (d : Desc) (st r b : Nat) (l : List Byte) (s : State) : (finishData d st r b l s).mdio = s.mdio := by
  obtain ⟨_, _, e⟩ := finishData_only d st r b l s; rw [e]
@[simp] theorem finishData_seqr (d : Desc) (st r b : Nat) (l : List Byte) (s : State) : (finishData d st r b l s).seqr = s.seqr := by
  obtain ⟨_, _, e⟩ := finishData_only d st r b l s; rw [e]
@[simp] theorem finishData_mir (d : Desc) (st r b : Nat) (l : List Byte) (s : State) : (finishData d st r b l s).mir = s.mir := by
  obtain ⟨_, _, e⟩ := finishData_only d st r b l s; rw [e]
@[simp] theorem finishData_conf (d : Desc) (st r b : Nat) (l : List Byte) (s : State) : (finishData d st r b l s).conf = s.conf := by
  obtain ⟨_, _, e⟩ := finishData_only d st r b l s; rw [e]
@[simp] theorem finishData_pwr (d : Desc) (st r b : Nat) (l : List Byte) (s : State) : (finishData d st r b l s).pwr = s.pwr := by
  obtain ⟨_, _, e⟩ := finishData_only d st r b l s; rw [e]
@[simp] theorem finishData_bkd (d : Desc) (st r b : Nat) (l : List Byte) (s : State) : (finishData d st r b l s).bkd = s.bkd := by
  obtain ⟨_, _, e⟩ := finishData_only d st r b l s; rw [e]
@[simp] theorem finishData_ldg (d : Desc) (st r b : Nat) (l : List Byte) (s : State) : (finishData d st r b l s).ldg = s.ldg := by
  obtain ⟨_, _, e⟩ := finishData_only d st r b l s; rw [e]
@[simp] theorem finishData_boot (d : Desc) (st r b : Nat) (l : List Byte) (s : State) : (finishData d st r b l s).boot = s.boot := by
  obtain ⟨_, _, e⟩ := finishData_only d st r b l s; rw [e]
@[simp] theorem finishData_tap (d : Desc) (st r b : Nat) (l : List Byte) (s : State) : (finishData d st r b l s).tap = s.tap := by
  obtain ⟨_, _, e⟩ := finishData_only d st r b l s; rw [e]
@[simp] theorem finishData_life (d : Desc) (st r b : Nat) (l : List Byte) (s : State) : (finishData d st r b l s).life = s.life := by
  obtain ⟨_, _, e⟩ := finishData_only d st r b l s; rw [e]
@[simp] theorem finishData_free (d : Desc) (st r b : Nat) (l : List Byte) (s : State) : (finishData d st r b l s).free = s.free := by
  obtain ⟨_, _, e⟩ := finishData_only d st r b l s; rw [e]
@[simp] theorem finishData_pending (d : Desc) (st r b : Nat) (l : List Byte) (s : State) : (finishData d st r b l s).pending = s.pending := by
  obtain ⟨_, _, e⟩ := finishData_only d st r b l s; rw [e]
theorem running_only (d : Desc) (w : Wait) (r : Nat) (s : State) : ∃ x0, running d w r s = { s with host := x0 } := by
  exact onCmds_only _ _ _
@[simp] theorem running_glb (d : Desc) (w : Wait) (r : Nat) (s : State) : (running d w r s).glb = s.glb := by
  obtain ⟨_, e⟩ := running_only d w r s; rw [e]
@[simp] theorem running_ret (d : Desc) (w : Wait) (r : Nat) (s : State) : (running d w r s).ret = s.ret := by
  obtain ⟨_, e⟩ := running_only d w r s; rw [e]
@[simp] theorem running_slu (d : Desc) (w : Wait) (r : Nat) (s : State) : (running d w r s).slu = s.slu := by
  obtain ⟨_, e⟩ := running_only d w r s; rw [e]
@[simp] theorem running_store (d : Desc) (w : Wait) (r : Nat) (s : State) : (running d w r s).store = s.store := by
  obtain ⟨_, e⟩ := running_only d w r s; rw [e]
@[simp] theorem running_scan (d : Desc) (w : Wait) (r : Nat) (s : State) : (running d w r s).scan = s.scan := by
  obtain ⟨_, e⟩ := running_only d w r s; rw [e]
@[simp] theorem running_dch (d : Desc) (w : Wait) (r : Nat) (s : State) : (running d w r s).dch = s.dch := by
  obtain ⟨_, e⟩ := running_only d w r s; rw [e]
@[simp] theorem running_fab (d : Desc) (w : Wait) (r : Nat) (s : State) : (running d w r s).fab = s.fab := by
  obtain ⟨_, e⟩ := running_only d w r s; rw [e]
@[simp] theorem running_err (d : Desc) (w : Wait) (r : Nat) (s : State) : (running d w r s).err = s.err := by
  obtain ⟨_, e⟩ := running_only d w r s; rw [e]
@[simp] theorem running_trib (d : Desc) (w : Wait) (r : Nat) (s : State) : (running d w r s).trib = s.trib := by
  obtain ⟨_, e⟩ := running_only d w r s; rw [e]
@[simp] theorem running_mdio (d : Desc) (w : Wait) (r : Nat) (s : State) : (running d w r s).mdio = s.mdio := by
  obtain ⟨_, e⟩ := running_only d w r s; rw [e]
@[simp] theorem running_seqr (d : Desc) (w : Wait) (r : Nat) (s : State) : (running d w r s).seqr = s.seqr := by
  obtain ⟨_, e⟩ := running_only d w r s; rw [e]
@[simp] theorem running_mir (d : Desc) (w : Wait) (r : Nat) (s : State) : (running d w r s).mir = s.mir := by
  obtain ⟨_, e⟩ := running_only d w r s; rw [e]
@[simp] theorem running_conf (d : Desc) (w : Wait) (r : Nat) (s : State) : (running d w r s).conf = s.conf := by
  obtain ⟨_, e⟩ := running_only d w r s; rw [e]
@[simp] theorem running_pwr (d : Desc) (w : Wait) (r : Nat) (s : State) : (running d w r s).pwr = s.pwr := by
  obtain ⟨_, e⟩ := running_only d w r s; rw [e]
@[simp] theorem running_bkd (d : Desc) (w : Wait) (r : Nat) (s : State) : (running d w r s).bkd = s.bkd := by
  obtain ⟨_, e⟩ := running_only d w r s; rw [e]
@[simp] theorem running_ldg (d : Desc) (w : Wait) (r : Nat) (s : State) : (running d w r s).ldg = s.ldg := by
  obtain ⟨_, e⟩ := running_only d w r s; rw [e]
@[simp] theorem running_boot (d : Desc) (w : Wait) (r : Nat) (s : State) : (running d w r s).boot = s.boot := by
  obtain ⟨_, e⟩ := running_only d w r s; rw [e]
@[simp] theorem running_tap (d : Desc) (w : Wait) (r : Nat) (s : State) : (running d w r s).tap = s.tap := by
  obtain ⟨_, e⟩ := running_only d w r s; rw [e]
@[simp] theorem running_life (d : Desc) (w : Wait) (r : Nat) (s : State) : (running d w r s).life = s.life := by
  obtain ⟨_, e⟩ := running_only d w r s; rw [e]
@[simp] theorem running_free (d : Desc) (w : Wait) (r : Nat) (s : State) : (running d w r s).free = s.free := by
  obtain ⟨_, e⟩ := running_only d w r s; rw [e]
@[simp] theorem running_out (d : Desc) (w : Wait) (r : Nat) (s : State) : (running d w r s).out = s.out := by
  obtain ⟨_, e⟩ := running_only d w r s; rw [e]
@[simp] theorem running_pending (d : Desc) (w : Wait) (r : Nat) (s : State) : (running d w r s).pending = s.pending := by
  obtain ⟨_, e⟩ := running_only d w r s; rw [e]
theorem wake_only (f : Wait → WaitEnd) (s : State) : ∃ x0, wake f s = { s with host := x0 } := by
  unfold wake
  have fold (l : List (Fin 12)) (s : State) : ∃ h, l.foldl (fun s p => onCmds s p (stepWait f (portAlive s p))) s = { s with host := h } := by
    induction l generalizing s with
    | nil => exact ⟨s.host, rfl⟩
    | cons q t ih =>
      obtain ⟨h, e1⟩ := onCmds_only s q (stepWait f (portAlive s q))
      rw [List.foldl_cons, e1]
      obtain ⟨h', e2⟩ := ih { s with host := h }
      rw [e2]; exact ⟨h', rfl⟩
  exact fold _ s
@[simp] theorem wake_glb (f : Wait → WaitEnd) (s : State) : (wake f s).glb = s.glb := by
  obtain ⟨_, e⟩ := wake_only f s; rw [e]
@[simp] theorem wake_ret (f : Wait → WaitEnd) (s : State) : (wake f s).ret = s.ret := by
  obtain ⟨_, e⟩ := wake_only f s; rw [e]
@[simp] theorem wake_slu (f : Wait → WaitEnd) (s : State) : (wake f s).slu = s.slu := by
  obtain ⟨_, e⟩ := wake_only f s; rw [e]
@[simp] theorem wake_store (f : Wait → WaitEnd) (s : State) : (wake f s).store = s.store := by
  obtain ⟨_, e⟩ := wake_only f s; rw [e]
@[simp] theorem wake_scan (f : Wait → WaitEnd) (s : State) : (wake f s).scan = s.scan := by
  obtain ⟨_, e⟩ := wake_only f s; rw [e]
@[simp] theorem wake_dch (f : Wait → WaitEnd) (s : State) : (wake f s).dch = s.dch := by
  obtain ⟨_, e⟩ := wake_only f s; rw [e]
@[simp] theorem wake_fab (f : Wait → WaitEnd) (s : State) : (wake f s).fab = s.fab := by
  obtain ⟨_, e⟩ := wake_only f s; rw [e]
@[simp] theorem wake_err (f : Wait → WaitEnd) (s : State) : (wake f s).err = s.err := by
  obtain ⟨_, e⟩ := wake_only f s; rw [e]
@[simp] theorem wake_trib (f : Wait → WaitEnd) (s : State) : (wake f s).trib = s.trib := by
  obtain ⟨_, e⟩ := wake_only f s; rw [e]
@[simp] theorem wake_mdio (f : Wait → WaitEnd) (s : State) : (wake f s).mdio = s.mdio := by
  obtain ⟨_, e⟩ := wake_only f s; rw [e]
@[simp] theorem wake_seqr (f : Wait → WaitEnd) (s : State) : (wake f s).seqr = s.seqr := by
  obtain ⟨_, e⟩ := wake_only f s; rw [e]
@[simp] theorem wake_mir (f : Wait → WaitEnd) (s : State) : (wake f s).mir = s.mir := by
  obtain ⟨_, e⟩ := wake_only f s; rw [e]
@[simp] theorem wake_conf (f : Wait → WaitEnd) (s : State) : (wake f s).conf = s.conf := by
  obtain ⟨_, e⟩ := wake_only f s; rw [e]
@[simp] theorem wake_pwr (f : Wait → WaitEnd) (s : State) : (wake f s).pwr = s.pwr := by
  obtain ⟨_, e⟩ := wake_only f s; rw [e]
@[simp] theorem wake_bkd (f : Wait → WaitEnd) (s : State) : (wake f s).bkd = s.bkd := by
  obtain ⟨_, e⟩ := wake_only f s; rw [e]
@[simp] theorem wake_ldg (f : Wait → WaitEnd) (s : State) : (wake f s).ldg = s.ldg := by
  obtain ⟨_, e⟩ := wake_only f s; rw [e]
@[simp] theorem wake_boot (f : Wait → WaitEnd) (s : State) : (wake f s).boot = s.boot := by
  obtain ⟨_, e⟩ := wake_only f s; rw [e]
@[simp] theorem wake_tap (f : Wait → WaitEnd) (s : State) : (wake f s).tap = s.tap := by
  obtain ⟨_, e⟩ := wake_only f s; rw [e]
@[simp] theorem wake_life (f : Wait → WaitEnd) (s : State) : (wake f s).life = s.life := by
  obtain ⟨_, e⟩ := wake_only f s; rw [e]
@[simp] theorem wake_free (f : Wait → WaitEnd) (s : State) : (wake f s).free = s.free := by
  obtain ⟨_, e⟩ := wake_only f s; rw [e]
@[simp] theorem wake_out (f : Wait → WaitEnd) (s : State) : (wake f s).out = s.out := by
  obtain ⟨_, e⟩ := wake_only f s; rw [e]
@[simp] theorem wake_pending (f : Wait → WaitEnd) (s : State) : (wake f s).pending = s.pending := by
  obtain ⟨_, e⟩ := wake_only f s; rw [e]
@[simp] theorem State.draw_glb (s : State) : s.draw.2.glb = s.glb := rfl
@[simp] theorem State.blame_glb (s : State) (k : Nat) : (s.blame k).glb = s.glb := rfl
@[simp] theorem State.draw_host (s : State) : s.draw.2.host = s.host := rfl
@[simp] theorem State.blame_host (s : State) (k : Nat) : (s.blame k).host = s.host := rfl
@[simp] theorem State.draw_ret (s : State) : s.draw.2.ret = s.ret := rfl
@[simp] theorem State.blame_ret (s : State) (k : Nat) : (s.blame k).ret = s.ret := rfl
@[simp] theorem State.draw_slu (s : State) : s.draw.2.slu = s.slu := rfl
@[simp] theorem State.blame_slu (s : State) (k : Nat) : (s.blame k).slu = s.slu := rfl
@[simp] theorem State.draw_store (s : State) : s.draw.2.store = s.store := rfl
@[simp] theorem State.blame_store (s : State) (k : Nat) : (s.blame k).store = s.store := rfl
@[simp] theorem State.draw_scan (s : State) : s.draw.2.scan = s.scan := rfl
@[simp] theorem State.blame_scan (s : State) (k : Nat) : (s.blame k).scan = s.scan := rfl
@[simp] theorem State.draw_dch (s : State) : s.draw.2.dch = s.dch := rfl
@[simp] theorem State.blame_dch (s : State) (k : Nat) : (s.blame k).dch = s.dch := rfl
@[simp] theorem State.draw_fab (s : State) : s.draw.2.fab = s.fab := rfl
@[simp] theorem State.blame_fab (s : State) (k : Nat) : (s.blame k).fab = s.fab := rfl
@[simp] theorem State.draw_err (s : State) : s.draw.2.err = s.err := rfl
@[simp] theorem State.draw_trib (s : State) : s.draw.2.trib = s.trib := rfl
@[simp] theorem State.blame_trib (s : State) (k : Nat) : (s.blame k).trib = s.trib := rfl
@[simp] theorem State.draw_mdio (s : State) : s.draw.2.mdio = s.mdio := rfl
@[simp] theorem State.blame_mdio (s : State) (k : Nat) : (s.blame k).mdio = s.mdio := rfl
@[simp] theorem State.draw_seqr (s : State) : s.draw.2.seqr = s.seqr := rfl
@[simp] theorem State.blame_seqr (s : State) (k : Nat) : (s.blame k).seqr = s.seqr := rfl
@[simp] theorem State.draw_mir (s : State) : s.draw.2.mir = s.mir := rfl
@[simp] theorem State.blame_mir (s : State) (k : Nat) : (s.blame k).mir = s.mir := rfl
@[simp] theorem State.draw_conf (s : State) : s.draw.2.conf = s.conf := rfl
@[simp] theorem State.blame_conf (s : State) (k : Nat) : (s.blame k).conf = s.conf := rfl
@[simp] theorem State.draw_pwr (s : State) : s.draw.2.pwr = s.pwr := rfl
@[simp] theorem State.blame_pwr (s : State) (k : Nat) : (s.blame k).pwr = s.pwr := rfl
@[simp] theorem State.draw_bkd (s : State) : s.draw.2.bkd = s.bkd := rfl
@[simp] theorem State.blame_bkd (s : State) (k : Nat) : (s.blame k).bkd = s.bkd := rfl
@[simp] theorem State.draw_ldg (s : State) : s.draw.2.ldg = s.ldg := rfl
@[simp] theorem State.blame_ldg (s : State) (k : Nat) : (s.blame k).ldg = s.ldg := rfl
@[simp] theorem State.draw_boot (s : State) : s.draw.2.boot = s.boot := rfl
@[simp] theorem State.blame_boot (s : State) (k : Nat) : (s.blame k).boot = s.boot := rfl
@[simp] theorem State.draw_tap (s : State) : s.draw.2.tap = s.tap := rfl
@[simp] theorem State.blame_tap (s : State) (k : Nat) : (s.blame k).tap = s.tap := rfl
@[simp] theorem State.draw_life (s : State) : s.draw.2.life = s.life := rfl
@[simp] theorem State.blame_life (s : State) (k : Nat) : (s.blame k).life = s.life := rfl
@[simp] theorem State.blame_free (s : State) (k : Nat) : (s.blame k).free = s.free := rfl
@[simp] theorem State.draw_out (s : State) : s.draw.2.out = s.out := rfl
@[simp] theorem State.blame_out (s : State) (k : Nat) : (s.blame k).out = s.out := rfl
@[simp] theorem State.draw_pending (s : State) : s.draw.2.pending = s.pending := rfl
@[simp] theorem State.blame_pending (s : State) (k : Nat) : (s.blame k).pending = s.pending := rfl
/-- The life of an instance after a move is the new one, and every other instance keeps its state. -/
theorem State.toLife_life (s : State) (i : Fin 50) (l : Life) : (s.toLife i l).life = vmod s.life i fun u => { u with life := l } := by
  obtain ⟨h, b, k, o, e⟩ := State.raise_only (s.setLife i l) ((classOf i).1.code * 256 + 1) (classOf i).2
    [(16, s.life[i].life.code), (17, l.code)]
  unfold State.toLife; dsimp only; rw [e]; rfl
end Sys2Proof.Machine
end

