-- ==== Sys2Proof/WellFormed.lean ====
section
/-! DEFINITION. Which commands are well formed: operands within what the protocol or the bus that carries them allows. The
device checks a descriptor's own fields itself (R57); here stand only the limits of its carrier. -/
namespace Sys2Proof
/-- A descriptor arrives on a mailbox or on the service port, which has no submission ring (R63, R72). -/
def Desc.wf (d : Desc) : Bool :=
  decide (d.port.val < 4) || (decide (d.port.val = 5) && decide (d.sqi = 0))
/-- No command reads more than 1 MiB of buffer (R96). -/
def bufLimit : Nat := 1048576
/-- A request carries 1 to 4,096 bytes, and never crosses a 4 KiB boundary (R100). -/
def tlpBytes (n : Nat) : Bool := decide (1 ≤ n) && decide (n ≤ 4096)
def inPage (addr n : Nat) : Bool := decide (addr % 4096 + n ≤ 4096)
/-- Line entries of one link frame: at most four, each a whole line (R403, R424). -/
def entriesOk (es : List LineEntry) : Bool := decide (es.length ≤ 4) && es.all fun e => decide (e.value.length = 256)
def epochsOk (es : List (Fin 16 × Nat)) : Bool := decide (es.length ≤ 16) && es.all fun e => decide (e.2 < 2 ^ 48)
def CtxRec.wf (r : CtxRec) : Bool := decide (r.opened < 2 ^ 48) && decide (r.commit < 2 ^ 48) && decide (r.bankSeg < 2 ^ 17)
/-- A well-formed command. -/
def Instr.wf : Instr → Bool
  | .glbIdentify d | .authNarrow d | .authPolicyWrite d | .glbDeviceReset d | .mbxQueueCreate d | .mbxQueueDelete d | .mbxEventMask d | .svcBaud d
    | .unitQuery _ d | .unitPowerUp _ d | .unitStart _ d | .unitStopDrain _ d | .unitStopAbort _ d | .unitClearFault _ d | .unitPowerDown _ d
    | .segQuery d | .segSetClass d | .segSetFlags d | .segLoadBegin d | .segSeal d | .segShadowSet d | .winSet d | .winQuery d | .ctxQuery d
    | .ctxConfig d | .ctxStart d | .ctxClose d | .ctxPause d | .ctxResume d | .ctxAbandon d | .ctxStop d | .ctxLineQuery d | .copyConfig d
    | .ctxSwap d | .weirQuery d | .weirConfig d | .weirCalibrate d | .weirDebtClear d | .sluQuery d | .sluConfig d | .sluDetectSet d
    | .sluSaveTest d | .sluShutdown d | .sluPrefetch d | .nstQuery d | .nstEvacuate d | .seepConfig d | .seepAuditStart d | .nstFormat d
    | .scanConfig d | .scanQuery d | .scanLayoutCheck d | .dchQuery d | .dchConfig d | .dchPopSet d | .dchMapSet d | .dchRankRetire d
    | .fabPortSet d | .fabQuery d | .errQuery d | .errConfig d | .errInject d | .errBktReset d | .tribConfig d | .tribModSet d | .tribModEnable d
    | .tribRollcall d | .tribModQuery d | .tribMdio d | .seqConfig d | .seqQuery d | .mirConfig d | .mirQuery d | .mirSwitch d | .mirResync d
    | .confQuery d | .confConfig d | .bootConfChips d | .pwrQuery d | .pwrRailQuery d | .pwrTableRead d | .pwrGroup d | .pwrLatchClear d
    | .pwrHubMeasure d | .pwrCycle d | .bkdTimeGet d | .bkdTimeSet d | .bkdAlarmSet d | .bkdAlarmAck d | .bkdSwoClear d | .ldgQuery d
    | .ldgTagRead d | .ldgEventRead d | .ldgUserRead d | .ldgRawRead d | .bootRun d | .bootFwQuery d | .bootKeyRevoke d | .bootReset d => d.wf
  | .drainComplete _ | .drainTimeout _ | .unitInternalFault _ _ | .ctxSwapTimeout _ | .add _ | .sub _ | .and _ | .or _ | .xor _ | .shl _ | .shr _
    | .addi _ | .andi _ | .ori _ | .xori _ | .shli _ | .shri _ | .li _ | .ldw _ | .ldb _ | .stw _ | .stb _ | .beq _ | .bne _ | .bltu _ | .bgeu _
    | .jmp _ | .call _ | .jr _ | .chk _ | .chkr _ | .lcfg _ | .ldiv _ | .send _ | .recv _ | .de _ | .seqDrain _ | .wedge _ | .seqWait _ | .txl _
    | .rxl _ _ | .istb _ | .istw _ | .ipub _ | .osel _ | .oldb _ | .oldw _ | .oack _ | .mld _ | .marr _ | .mdep _ | .mqry _ | .mfs _ | .halt _
    | .nop _ | .seqWaitEnd _ _ _ | .seqExecBegin _ | .lineCharReceived _ _ _ _ _ _ | .lineCharSent _ | .mqSqTail _ _ | .mqCqHead _ _
    | .mqEqHead _ _ | .mbxBootAddrLo _ | .mbxBootAddrHi _ | .mbxSetupReadDone _ | .descriptorFetch _ _ | .completionWrite _ _ | .mqDmaFail _
    | .msixTableWrite _ _ | .rcRead _ _ | .loHalfRead _ _ | .aliasRead _ _ | .registerWrite _ _ _ | .rtcSecRead _ | .rtcHaltWrite _ _
    | .alarmArmWrite _ _ | .svcFrameTimeout | .svcEnChange _ | .smbusReadWord _ | .telemetryRefresh _ _ | .configRequest _ | .lineWriteApply _
    | .weirAdmit | .weirRecompute | .softBucketRefill _ | .cleanBucketRefill _ | .weirDryHold | .weirLedgerRecord | .copyBatch | .copyStallLong _
    | .closingEnd _ | .deferredCloseTaken _ | .agingDone _ | .ctxWatchdogExpire _ | .pfailInAssert | .pfailExternal | .refclkLoss | .internalUe _
    | .saveT0 | .quiesceDone | .saveProgramDone _ _ | .saveBankFloor | .inputGood | .resumeReady | .anchorVoteDone | .restoreAreaReady
    | .nandOpDone _ _ _ _ _ | .nandOpTimeout _ | .nstChannelRestart _ _ | .journalPageIssue | .checkpointWrite | .areaReady | .ringRotate
    | .auditLine _ _ | .auditPage _ _ | .scanPassStart | .scanLineVisit | .outputCapture _ | .dchCommandSlot _
    | .refreshDue _ _ | .dramTempRead _ _ _ | .zqcsDue _ | .dqsRecentre _ | .alertN _ _ | .dchResponseTimeout _ | .dchRestartAttempt _ _
    | .migrationLine _ _ | .bucketTick | .voteRepair | .pollCycleStart _ | .poll _ | .replyTimeout _ _ | .identify _ | .rollcallWindowClose _
    | .inputStore _ _ | .inputLatchExpire _ _ | .phyStatusPoll _ | .listenMissWindow _ | .tokenChange _ _ | .mdioDone _ _ _ | .mirLinkRetrain _
    | .linkTrained _ _ | .replayTimeout _ | .linkFrame _ _ | .frameCrcBad _ | .helloSend | .helloFrame _ _ _ | .packetBegin | .latestPacketDue
    | .epochEnd _ _ _ | .packetApply | .mirDeadTimeout | .joinSend | .joinFrame _ _ _ | .formed _ _ _ | .confFormTimeout | .confFormRetry
    | .resolveTimeout | .lostFrame _ _ _ | .peerLost _ | .roleFrame _ _ _ _ | .switchFrame _ _ _ | .confLinkIdle _ | .elasticLimit _
    | .railStable _ | .railRiseTimeout _ | .railEnable _ | .sequenceStart | .railDisable _ | .railFallen _ | .retryOffExpire | .minOffExpire
    | .rstoutStretchEnd _ | .vddAonPor _ | .hubChargeTimeout | .hubMeasDue | .subsecTick | .vbatSwitch _ | .oscStop | .bkdDomainReset
    | .bkdWriteArrive | .ledgerPageWriteDone _ | .eventLogWrite | .coreResetRelease _ _ _ | .imageVerified | .firmwareReady | .trainingDone _ _
    | .perst | .serialFrameIdle _ | .seepClean | .mirSwitchTimeout | .railGlitch _ | .svcSyncError | .svcLengthError _ | .bkdResetRelease
    | .pwrHubMeasureTimeout => true
  | .segLoad d buf _ | .pwrTableWrite d buf | .ldgTagWrite d buf | .ldgUserAppend d buf | .ldgRawWrite d buf | .bootLoad d buf
    | .bootFwUpdate d buf => d.wf && decide (buf.length ≤ bufLimit)
  | .dramRequestDone _ _ corrected _ => decide (corrected ≤ 8)
  | .ctxdClose ws => decide (ws.length ≤ 16)
  | .svcFrame frame => decide (frame.length ≤ 4166)
  | .bar2Write off _ bytes _ => tlpBytes bytes.length && inPage off.toNat bytes.length
  | .bar2Read off _ len => tlpBytes len && inPage off.toNat len
  | .fabricWriteAccept _ addr bytes _ => tlpBytes bytes.length && inPage addr.toNat bytes.length
  | .fabricRead _ addr len _ _ => tlpBytes len && inPage addr.toNat len
  | .copyDone line | .settle line | .agingVisit _ line | .demandFaultDone line _ => decide (line < 2 ^ 30)
  | .vinTrip mv | .railExcursion _ _ mv | .railFallSlow _ mv | .hubSample mv | .vbatMeasure mv => decide (mv < 2 ^ 16)
  | .segmentBuild seg | .restoreSegmentIn seg | .seepMerge seg => decide (seg < 2 ^ 17)
  | .staticSpread lun => decide (lun < 2 ^ 7)
  | .fabPanic _ fill => decide (fill ≤ 100)
  | .dataReply _ f | .claim _ f | .assignReceived _ f => decide (f.pdu.length ≤ 1500)
  | .linesFrame _ _ pseq fidx es => decide (pseq < 2 ^ 64) && decide (fidx < 2 ^ 32) && entriesOk es
  | .restartFrame _ _ pseq _ => decide (pseq < 2 ^ 64)
  | .ackFrame _ _ applied _ => decide (applied < 2 ^ 64)
  | .handover _ _ last | .dying _ _ last _ => decide (last < 2 ^ 64)
  | .wr _ _ addr bytes _ _ => tlpBytes bytes.length && decide (addr.toNat % 1024 + bytes.length ≤ 1024)
  | .rdReq _ _ _ lines _ => decide (1 ≤ lines) && decide (lines ≤ 16)
  | .rdCpl _ _ _ idx _ es => decide (idx < 2 ^ 32) && entriesOk es
  | .prepare _ _ _ epoch | .prepared _ _ _ epoch | .commit _ _ _ epoch | .abandon _ _ _ _ epoch | .applyEpoch _ _ _ epoch | .haveEpoch _ _ _ epoch =>
    decide (epoch < 2 ^ 48)
  | .resolveFrame _ _ es | .epochs _ _ es => epochsOk es
  | .ctxsync _ _ _ r => r.wf
  | .hubMeasEnd v0 v1 v2 _ => decide (v0 < 2 ^ 16) && decide (v1 < 2 ^ 16) && decide (v2 < 2 ^ 16)
end Sys2Proof
end

