-- ==== Sys2Proof/Tests/Slice0.lean ====
section
/-! SUPPORT. Small tests: a refused term for each check of well-formedness, one step on small states, and a witness for
the hypotheses of each statement. -/
namespace Sys2Proof.Tests
open Sys2Proof.Machine
set_option Elab.async false
/-! ## States to start from -/
/-- A device that is ready: firmware runs, and the state is READY. -/
def ready : State :=
  { State.reset with
    glb := { State.reset.glb with state := 2, fil := 0x0100 },
    boot := { State.reset.boot with coreOut := true } }
/-- The descriptor of a command on MQ0, PARAM as a list of (byte, value). -/
def dd (i : CmdInfo) (inst : Nat) (ps : List (Nat × Nat)) (sel : Nat) : Desc :=
  ⟨0, 0, 7, BitVec.ofNat 8 (i.op / 256), BitVec.ofNat 8 sel, 0, BitVec.ofNat 32 inst, 0,
    BitVec.ofNat 384 (ps.map fun p => p.2 <<< (8 * (p.1 - 16))).sum⟩
/-- A setting that opcode `op` stored. -/
def due (op : Nat) : DueSet := ⟨0, op, ⟨0, 0, 7, 0, 0, 0, 0, 0, 0⟩, [0], true⟩
/-- `s` with the command fetched. -/
def withCmd (i : CmdInfo) (d : Desc) (s : State) : State := onCmds s d.port fun cs => cs ++ [newCmd d i.op 0 []]
/-- Mailbox `q` is ACTIVE, with rings of 16. -/
def mqOn (q : Fin 4) (s : State) : State :=
  onMq s q fun m => { m with state := .active, sqLog2 := 4, cqLog2 := 4, eqLog2 := 4 }
/-- Lifecycle instance `u` is in state `l`. -/
def inLife (u : Nat) (l : Life) (s : State) : State := { s with life := vmod s.life (Fin.ofNat 50 u) fun x => { x with life := l } }
/-- SVC_EN is high. -/
def svcOn (s : State) : State := { s with host := { s.host with svc := { s.host.svc with en := true } } }
/-- Window 0 covers the first 4 KiB of working memory, for every class. -/
def winOn (s : State) : State :=
  { s with ret := { s.ret with windows := vmod s.ret.windows 0 fun _ => ⟨0, 4096, 2, 15, 0xFFFF⟩ } }
/-- Context 15 in mode `m` (context 15 stands for any). -/
def ctxIn (m : CtxMode) (s : State) : State := s.onCtx 15 fun x => { x with mode := m, released := true }
/-- Segment 0 is of class `k`, owned by context 15. -/
def segIn (k : RClass) (s : State) : State := s.setSeg 0 { Seg.new with cls := k, owner := 15 }
/-- Line 5 in state `st`, with stamp 1. -/
def line5 (st : LState) (s : State) : State := s.setLine 5 { Line.never with state := st, stamp := 1, valid := 15, serial := 3, base := 2 }
/-- A write of port 0 to line 5 that waits as `w` says. -/
def piece5 (w : PWait) : Piece := ⟨0, 5, [some 1], 0, 0, some (15, 1), none, w, 0, 0, false⟩
def withPiece (w : PWait) (s : State) : State := { s with ret := { s.ret with writes := [piece5 w] } }
def atTime (t : Nat) (s : State) : State := { s with glb := { s.glb with time := BitVec.ofNat 64 t } }
def area1 : Area := ⟨⟨1, 0, [0, 8], 1, 1, [17, 18, 17, 18], 0, 0⟩, [], [], [], 0, 0, none, [], 0, []⟩
def inPhase (p : SPhase) (s : State) : State := onSlu s fun x => { x with phase := p }
/-- Firmware runs, in stage `n` of start-up. -/
def booting (n : Nat) : State :=
  { ready with
    glb := { ready.glb with state := 0 },
    boot := { ready.boot with stage := n },
    conf := { ready.conf with form := .formed, members := 1 } }
/-- The three copies of an anchor that names ring block 256; the store has that ring and a root. -/
def anchorMem : AMap Byte :=
  ([2, 3, 4].flatMap fun a => (recordBytes 1 0 1 (leBytes 16 256)).zipIdx.map fun p => (areaBase a * 64 + p.2, p.1)).filter (·.2 ≠ 0xFF)
def root0 : Root := ⟨0, 0, 0, 0, 0, 0, 0, 0, []⟩
def withAnchor (s : State) : State :=
  onStore { s with ldg := { s.ldg with mem := anchorMem } } fun st =>
    { st with root := some root0, ring := { st.ring with a := 256, roots := [(0, root0)] } }
def anchored : State := withAnchor (booting 8)
/-- The store is formatted: it has a root. -/
def rooted (s : State) : State := onStore s fun st => { st with root := some root0 }
/-- Channels 0 and 8 run, each with one LUN of 64 blocks. -/
def withLun (s : State) : State :=
  let one (x : Nch) : Nch := { x with trained := true, lunSvc := 1, cePresent := 1 }
  inLife 0 .running (inLife 8 .running (onStore (rooted s) fun st => { st with
    ncfg := { st.ncfg with planes := 1, blocks := 64, ppb := 512 },
    ch := vmod (vmod st.ch 0 one) 8 one }))
/-- `NST_FORMAT` served, and the state as it goes through its parts. -/
def formatD : Desc := dd nstFormatInfo 0 [] 0
def formatS : State := withCmd nstFormatInfo formatD (svcOn (withLun ready))
def format1 : State := formatWear (onStore formatS (formatted (tableReads formatS)))
def format3 : State := checkCapacity (onStore format1 fun st => { st with formatGood := (allLuns format1).map fun l => (l, goodBlocks st l) })
def formatT : State := readyArea (writeRootWith (some (ringPages (bbtContent format3) format3).1) (ringPages (bbtContent format3) format3).2)
/-- The four DRAM channels run. -/
def dramOn (s : State) : State := inLife 17 .running (inLife 18 .running (inLife 19 .running (inLife 20 .running s)))
/-- An operation of kind `k` runs on channel 0. -/
def withOp (k : NKind) (u : NUse) (s : State) : State := onStore s fun st => { st with ops := [⟨0, k, u, 2 ^ 20 * 20, 0⟩] }
def rec5 : Rec := ⟨2, 5, 0, [1]⟩
/-- The journal's one page holds a record of line 5. -/
def journalled (d : Bool) (s : State) : State :=
  onStore s fun st => { st with journal := [⟨0, 0, 1, 0, [.line rec5 (some 3)], d⟩] }
/-- Segment 1 is a sealed bank of one segment whose layout has no plane and no timer. -/
def layout1 : Layout := ⟨1, 1, 0, 0, 0, 0, 0, []⟩
def withBank (s : State) : State :=
  let m : AMap Byte := [(2097152, 0x59), (2097153, 0x4C), (2097154, 0x43), (2097155, 0x53), (2097156, 1), (2101244, 0x6B), (2101245, 0x13),
    (2101246, 0x05), (2101247, 0x69)]
  ((({ s with ret := { s.ret with dram := m } } : State).setSeg 1 { Seg.new with cls := .constant, sealed := true }).setLine 8192
    { Line.never with state := .clean, valid := 15 }).setLine 8207 { Line.never with state := .clean, valid := 15 }
/-- A pass of context 15. -/
def plane1 : Plane := ⟨0, 256, 512, 768, 1⟩
def layout2 : Layout := ⟨1, 1, 0, 0, 0, 0, 0, [plane1]⟩
def pass15 (todo : List Visit) : Pass :=
  { ctx := 15, tick := 0, closeAt := 0, epoch := 1, swap := none, layout := layout2, rebase := false, warm := false, todo := todo,
    full := [], started := 0, pend := none, wrote := none }
def passPend : Pass := { pass15 [] with pend := some (.edge 0 0, [(768, [1], 0)]) }
/-- Context 15 has a layout of one plane, and a pass of it runs. -/
def scanning (todo : List Visit) (s : State) : State :=
  onScan s fun x => { x with
    ctx := vmod x.ctx 15 fun k => { k with layout := some layout2 }, running := some (pass15 todo) }
def cell (ty : Nat) (inp reset tt last : Bool) : Cell := ⟨100, 5, 3, ty, inp, reset, false, tt, false, last⟩
/-- The fold of a CRC-32, its register evaluated at every byte. -/
def crcFold : List Byte → Nat → Nat
  | [], c => c
  | b :: t, c => match (crc32Byte (BitVec.ofNat 32 c) b).toNat with
    | 0 => crcFold t 0
    | n + 1 => crcFold t (n + 1)
theorem crc32_eq_crcFold (l : List Byte) (c : BitVec 32) : l.foldl crc32Byte c = BitVec.ofNat 32 (crcFold l c.toNat) := by
  induction l generalizing c with
  | nil => simp [crcFold]
  | cons b t ih =>
    rw [List.foldl_cons, ih, crcFold, BitVec.ofNat_toNat, BitVec.setWidth_eq]
    split <;> simp_all
/-- The layout block of `withBank`. -/
def block1 : List Byte := ([0x59, 0x4C, 0x43, 0x53, 1] : List Byte) ++ rep 4087 0 ++ [0x6B, 0x13, 0x05, 0x69]
theorem block1_crc : crc32 (block1.take 4092) = 0x6905136B#32 := by
  rw [crc32, crc32_eq_crcFold]; decide +kernel
theorem block1_layout : parseLayout 1 1 block1 = some layout1 := by
  simp only [parseLayout, block1_crc]; decide +kernel
def checkD : Desc := dd scanLayoutCheckInfo 0 [(16, 1), (20, 1), (22, 15)] 0
def checkS : State := withCmd scanLayoutCheckInfo checkD (withBank ready)
def swapD : Desc := dd ctxSwapInfo 15 [(16, 1), (20, 1)] 0
def swapS : State := withCmd ctxSwapInfo swapD (inLife 16 .running (withBank (ctxIn .running ready)))
theorem checkS_bytes : bankBytes (bankIn 1 0 4096 checkS) 1 0 4096 = block1 := eq_of_beq (by decide +kernel)
theorem swapS_bytes : bankBytes (bankIn 1 0 4096 swapS) 1 0 4096 = block1 := eq_of_beq (by decide +kernel)
theorem checkS_reads : readLayout (bankIn 1 0 4096 checkS) 15 1 1 = .inl layout1 := by
  unfold readLayout
  rw [checkS_bytes, block1_layout]; decide +kernel
theorem swapS_reads : readLayout (bankIn 1 0 4096 swapS) 15 1 1 = .inl layout1 := by
  unfold readLayout
  rw [swapS_bytes, block1_layout]; decide +kernel
theorem checkS_reason : layoutReason 15 1 1 false checkS = (none, bankIn 1 0 4096 checkS) := by
  unfold layoutReason
  rw [if_neg (by decide +kernel)]
  simp [checkS_reads]
/-- Channel 3 runs, with rank 1 as its spare. -/
def withSpare (s : State) : State :=
  onDch (dramOn s) 3 fun d => { d with trained := true, ranks := 2, spareEn := true, spare := 1, rank := #v[.inService, .spare, .absent] }
def req1 : DReq := ⟨1, 2, 7, false, 0, false, false, 0, false, false, false, 0, 0, none⟩
/-- The three stages of that request's end on channel 3. -/
def done1 : State × State × State :=
  let r : DReq := { req1 with issued := true }
  let s1 := onDch (onDch (dramOn ready) 3 fun d => { d with reqs := [r] }) 3 fun d => { d with retries := d.retries.filter (·.1 ≠ 1) }
  let s2 := if r.write then writeDone 3 r s1 else readDone 3 r 0 0 s1
  (s1, s2, if r.write ∨ r.merge ∨ r.rank.isSome then s2 else noteLatency r s2)
/-- Channel 3 failed, and has been restarted twice. -/
def faulted3 : State := onDch (inLife 20 .faulted ready) 3 fun d => { d with restarts := 2 }
/-- Its third restart brings it back. -/
def back3 : State :=
  ((setFault (dchLife 3) 0 (loseChannel 3 (unflight (flightIn faulted3.dch[(3 : Fin 4)])
    (onDch faulted3 3 fun d => { d with restarts := d.restarts + 1 })))).toLife (dchLife 3) .stopped).toLife (dchLife 3) .running
def ident1 : Ident := BitVec.ofNat 256 (1 + 4 * 2 ^ 176)
/-- Tributary port 11 runs and holds its token. -/
def port11 (f : Trib → Trib) (s : State) : State :=
  inLife 32 .running (onTrib s 11 fun t => f { t with token := true, cfg := { t.cfg with pers := 0, inStride := 3, outStride := 2 } })
/-- Module 3 of port 11 is `f` of an ACTIVE module. -/
def mod3 (f : Mod → Mod) (s : State) : State :=
  onMod s 11 3 fun m => f { m with state := .active, ident := some ident1, image := some ⟨1, [1, 2, 3, 4, 5, 6, 7, 8]⟩, outState := .normal }
def rx (hdr : List Byte) (n : Nat) : RxFrame := ⟨hdr ++ rep n 0, true, 0, 0, true⟩
def up1 : InUpdate := ⟨[1], 1, 0, 0, 0, false⟩
/-- What a fetch gives is instruction `i`. -/
def fetchIs (i : SIns) : Fetched → Bool
  | .ins j => j == i
  | _ => false
theorem fetchIs_eq {i : SIns} {f : Fetched} (h : fetchIs i f = true) : f = .ins i := by cases f <;> simp_all [fetchIs]
theorem fetches_of {n : Fin 12} {op : Nat} {zero : Word} {i : SIns} {s : State}
    (h : (seqAt s n).exec = .executing ∧ fetchIs i (fetch (seqAt s n)) = true ∧ i.op = op ∧ i.word &&& zero = 0) :
    Fetches n op zero i s := h.imp_right fun k => k.imp_left fetchIs_eq
/-- The instruction of opcode `op`, registers `rd` and `rs`, and the 18 bits below, at word 0. -/
def insAt (op rd rs low : Nat) : SIns :=
  let w : Word := BitVec.ofNat 32 (op * 2 ^ 26 + rd * 2 ^ 22 + rs * 2 ^ 18 + low)
  ⟨w, 0, 1, if zeroExtends op then (imm18 w).zeroExtend 32 else (imm18 w).signExtend 32, 0⟩
/-- Sequencer 11 executes that instruction; register 1 holds 8 and register 2 holds `v`. -/
def seq11 (i : SIns) (v : Word) (f : Seqr → Seqr) (s : State) : State :=
  onSeqr s 11 fun q => f { q with exec := .executing, pc := 0, imem := [(0, i.word)], regs := vmod (vmod q.regs 1 fun _ => 8) 2 fun _ => v }
/-- The state once frame `m` is taken from link `l`. -/
abbrev arr (l : LinkId) (m : LinkMsg) (s : State) : State := (receive l ⟨false, 1, 0⟩ m s).2
theorem arrives_of {l : LinkId} {h : LinkHdr} {m : LinkMsg} {au : Nat} {s : State}
    (k : ((receive l h m s).1 && (receive l h m s).2.holds (arrivalOf l) au) = true) (w : ∀ p, l = .conf p → weirHeads s p = false) :
    Arrives l h m au s (receive l h m s).2 := by
  simp only [Bool.and_eq_true] at k
  exact ⟨Prod.ext k.1 rfl, k.2, w⟩
/-- The state once a write is taken, where it is. -/
def takenBy (fp : Fin 23) (a : Nat) (bs : List WByte) (po : Option Nat) (pr : Bool) (s : State) : State :=
  match takeWrite fp a bs po pr s with
  | .accepted t => t
  | _ => s
theorem accepts_of {fp : Fin 23} {a : Nat} {bs : List WByte} {po : Option Nat} {pr : Bool} {s : State}
    (k : (match takeWrite fp a bs po pr s with | .accepted _ => true | _ => false) = true) :
    takeWrite fp a bs po pr s = .accepted (takenBy fp a bs po pr s) := by
  unfold takenBy
  split at k <;> simp_all
def loadD (k : Nat) : Desc := dd segLoadInfo 5 [(28, k)] 0
def loadS (k : Nat) : State := withCmd segLoadInfo (loadD k) (ready.setSeg 5 { Seg.new with cls := .constant, loading := true })
/-- Mirror port 1 runs and is UP. -/
def mirUp (f : Mir → Mir) (s : State) : State :=
  onMir (onLink (inLife 46 .running s) (.mir 1) fun p => { p with link := .up, fseq := 0, ackseq := 0 }) f
/-- Confluence port 2 runs and is UP, in a Confluence of four chips. -/
def confUp (f : Conf → Conf) (s : State) : State :=
  onConf (onLink (inLife 49 .running s) (.conf 2) fun p => { p with link := .up, fseq := 0, ackseq := 0 }) fun c =>
    f { c with chips := 4, members := 15, lost := 0, form := .formed }
def hello1 : Hello := ⟨1, 0, false, false, false, 0, 1, 0, 0, 0, 0, 0, 0⟩
def end1 : EpochEnd := ⟨1, 0, 0, false, 0, 0, .none⟩
def due1 : PktDue := ⟨1, 0, 0, 0, [5], false, .none⟩
def marrI : SIns := insAt 0x38 3 2 16384
def marrS : State := seq11 marrI 3 id (port11 id ready)
def join1 : Join := ⟨1, 3, 4, 0, 0, 0, 0⟩
def chip1 (s : State) : State := { s with glb := { s.glb with chipid := 1 } }
def read7 : RemRead := ⟨7, 3, 0xC000000500, 64, 0, .fabric, []⟩
def rec1 : CtxRec := ⟨.running, 0, 0, 1, 1, 0, 0, 0, 0⟩
/-- The open epoch of context 15 is 1. -/
def ctx1 (s : State) : State := s.onCtx 15 fun x => { x with epoch := 1, mode := .running }
def closingUp : State := confUp (fun c => { c with prep := vmod c.prep 15 fun p => { p with phase := 1, epoch := 1 } }) (ctx1 ready)
def poweredOn (s : State) : State := onPwr s fun p => { p with vddAon := true, seq := .on }
/-- The bytes of the ROM default rail table, laid out by R440 to R464. -/
def table1 : List Byte :=
  [84, 73, 65, 82, 1, 0, 0, 0, 64, 2, 112, 2, 60, 64, 10, 5, 0, 0, 5, 10, 10, 5, 3, 0, 64, 2, 112, 2, 60, 64, 10, 5] ++
  [1, 0, 5, 10, 10, 5, 3, 0, 64, 2, 112, 2, 60, 64, 10, 1, 2, 0, 5, 10, 10, 5, 3, 0, 64, 2, 112, 2, 60, 64, 10, 1] ++
  [2, 0, 5, 10, 10, 5, 3, 0, 64, 2, 112, 2, 60, 64, 10, 21, 32, 0, 5, 10, 10, 5, 3, 0, 64, 2, 112, 2, 60, 64, 10, 21] ++
  [2, 0, 5, 10, 10, 5, 3, 0, 64, 2, 112, 2, 60, 64, 10, 33, 4, 0, 5, 10, 10, 5, 3, 0, 64, 2, 112, 2, 60, 64, 10, 33] ++
  [68, 0, 5, 10, 10, 5, 3, 0, 64, 2, 112, 2, 60, 64, 10, 0, 0, 0, 5, 10, 10, 5, 3, 0, 64, 2, 112, 2, 60, 64, 10, 0] ++
  [0, 0, 5, 10, 10, 5, 3, 0, 64, 2, 112, 2, 60, 64, 10, 0, 0, 0, 5, 10, 10, 5, 3, 0, 64, 2, 112, 2, 60, 64, 10, 0] ++
  [0, 0, 5, 10, 10, 5, 3, 0, 64, 2, 112, 2, 60, 64, 10, 0, 0, 0, 5, 10, 10, 5, 3, 0, 64, 2, 112, 2, 60, 64, 10, 0] ++
  [0, 0, 5, 10, 10, 5, 3, 0, 64, 2, 112, 2, 60, 64, 10, 0, 0, 0, 5, 10, 10, 5, 3, 0, 64, 2, 112, 2, 60, 64, 10, 0] ++
  [0, 0, 5, 10, 10, 5, 3, 0, 255, 0, 20, 0, 0, 0, 0, 0, 255, 0, 20, 0, 0, 0, 0, 0, 255, 0, 20, 0, 0, 0, 0, 0] ++
  [255, 0, 20, 0, 0, 0, 0, 0, 255, 0, 20, 0, 0, 0, 0, 0, 255, 0, 20, 0, 0, 0, 0, 0, 160, 0, 136, 19, 16, 39, 232, 3] ++
  [120, 0, 24, 70, 3, 0, 244, 1] ++ rep 52 0 ++ [131, 219, 102, 100]
theorem table1_crc : crc32 (table1.take 380) = 1684462467#32 := by
  rw [crc32, crc32_eq_crcFold]; decide +kernel
theorem table1_rails : (allRails.find? fun r => !railOk table1 (allRails.map (railOf table1)) r) = none := by decide +kernel
theorem table1_ok : tableBad table1 = none := by
  unfold tableBad
  dsimp only
  rw [table1_rails]
  dsimp only
  rw [table1_crc]
  decide +kernel
/-- A demand fault of line 5 runs, and a write of a byte of it waits for it. -/
def faulted5 (s : State) : State :=
  onSlu { s with ret := { s.ret with writes := [⟨0, 5, [some 1], 0, 0, none, none, .fault, 0, 0, false⟩] } } fun x =>
    { x with faults := [⟨5, 0⟩] }
/-- That fault is over. -/
def over5 (s : State) : State :=
  readsOver (· == .fault 5) (onSlu (faulted5 s) fun x => { x with
    faults := x.faults.filter (fun g => g.line ≠ 5)
    faultMax := sat 16 (max x.faultMax (toUs ((faulted5 s).now - 0))) })
/-- One record stands at the first page of area `a`. -/
def withRecord (a type : Nat) (s : State) : State :=
  { s with ldg := { s.ldg with
      mem := ((recordBytes type 0 1 [7]).zipIdx.map fun p => (areaBase a * 64 + p.2, p.1)).filter (·.2 ≠ 0xFF) } }
def page2 : PageWrite := ⟨128, rep 64 7, .tag, 1, 0⟩
def job2 : LdgJob := ⟨1, 1, 0x20, 0, some 1, [7], .tag, 0⟩
def onBkd (s : State) (f : Bkd → Bkd) : State := { s with bkd := f s.bkd }
/-- Core reset is released and the boot ROM runs, with the source `b`. -/
def romRuns (st : Nat) (b : Nat) : State :=
  svcOn { ready with glb := { ready.glb with fil := 0, state := 0, bootsrc := BitVec.ofNat 2 b }, boot := { ready.boot with stage := st, testEn := false } }
def image1 : FwImage := ⟨3, 1, 0x0100, 9, 4096, 0, 0, [], [], true, some []⟩
/-! ## Well-formedness: for each check, a term that it refuses -/
theorem wf_port : (Instr.glbIdentify { dd segQueryInfo 0 [] 0 with port := 6 }).wf = false := by decide
theorem wf_servicePortHasNoRing : (Instr.glbIdentify { dd segQueryInfo 0 [] 0 with port := 5, sqi := 1 }).wf = false := by decide
theorem wf_accepts : (Instr.glbIdentify (dd segQueryInfo 0 [] 0)).wf = true := by decide
theorem wf_longBuffer (d : Desc) (buf : List Byte) (h : bufLimit < buf.length) : (Instr.segLoad d buf none).wf = false := by
  show (d.wf && decide (buf.length ≤ bufLimit)) = false
  rw [decide_eq_false (Nat.not_le.mpr h), Bool.and_false]
theorem wf_buffer : (Instr.segLoad (dd segLoadInfo 0 [] 0) (List.replicate (bufLimit + 1) 0) none).wf = false :=
  wf_longBuffer _ _ (by rw [List.length_replicate]; exact Nat.lt_succ_self _)
theorem wf_doorbells : (Instr.ctxdClose (List.replicate 17 (0, 0))).wf = false := by decide
theorem wf_frame : (Instr.svcFrame (rep 4167 0)).wf = false := by decide +kernel
theorem wf_emptyWrite : (Instr.bar2Write 0 0 [] false).wf = false := by decide
theorem wf_writeCrossesPage : (Instr.bar2Write 4095 0 [some 1, some 2] false).wf = false := by decide
theorem wf_longRead : (Instr.bar2Read 0 0 4097).wf = false := by decide
theorem wf_readCrossesPage : (Instr.bar2Read 4095 0 2).wf = false := by decide
theorem wf_fabricWrite : (Instr.fabricWriteAccept (.port 1) 4095 [some 1, some 2] ⟨0, false⟩).wf = false := by decide
theorem wf_line : (Instr.copyDone (2 ^ 30)).wf = false := by decide
theorem wf_segment : (Instr.segmentBuild (2 ^ 17)).wf = false := by decide
theorem wf_lun : (Instr.staticSpread 128).wf = false := by decide
theorem wf_beats : (Instr.dramRequestDone 0 0 9 0).wf = false := by decide
theorem wf_fill : (Instr.fabPanic 2 101).wf = false := by decide
theorem wf_pdu : (Instr.dataReply 0 ⟨rep 1501 0, true, 0, 0, true⟩).wf = false := by decide +kernel
theorem wf_fiveEntries : (Instr.linesFrame 0 ⟨false, 0, 0⟩ 0 0 (List.replicate 5 ⟨0, 0, rep 256 0⟩)).wf = false := by decide
theorem wf_shortEntry : (Instr.linesFrame 0 ⟨false, 0, 0⟩ 0 0 [⟨0, 0, []⟩]).wf = false := by decide
theorem wf_pseq : (Instr.ackFrame 0 ⟨false, 0, 0⟩ (2 ^ 64) false).wf = false := by decide
theorem wf_writeCrossesKib : (Instr.wr 0 ⟨false, 0, 0⟩ 1023 [1, 2] false false).wf = false := by decide
theorem wf_readLines : (Instr.rdReq 0 ⟨false, 0, 0⟩ 0 17 0).wf = false := by decide
theorem wf_epoch : (Instr.prepare 0 ⟨false, 0, 0⟩ 0 (2 ^ 48)).wf = false := by decide
theorem wf_epochs : (Instr.epochs 0 ⟨false, 0, 0⟩ [(0, 2 ^ 48)]).wf = false := by decide
theorem wf_record : (Instr.ctxsync 0 ⟨false, 0, 0⟩ 0 { rec1 with bankSeg := 2 ^ 17 }).wf = false := by decide
theorem wf_millivolts : (Instr.hubSample (2 ^ 16)).wf = false := by decide
theorem wf_railMillivolts : (Instr.railFallSlow 0 (2 ^ 16)).wf = false := by decide
/-! ## The manual's worked examples, and check values of the standards it names -/
/-- The check value of CRC-32 (R97, R196). -/
theorem test_crc32 : crc32 [0x31, 0x32, 0x33, 0x34, 0x35, 0x36, 0x37, 0x38, 0x39] = 0xCBF43926#32 := by decide +kernel
/-- The check value of this CRC-16 (R71). -/
theorem test_crc16 : crc16 [0x31, 0x32, 0x33, 0x34, 0x35, 0x36, 0x37, 0x38, 0x39] = 0x29B1#16 := by decide +kernel
/-- The example of spec/03: slot 2, BASE 0x00_8000_0000, LENGTH 768 MiB, EPOCH segments of context 3. -/
def slot2 : State :=
  ({ ready with ret := { ready.ret with windows := vmod ready.ret.windows 2 fun _ => ⟨0x80000000, 0x30000000, 2, 2, 8⟩ } } : State).setSeg 1152
    { Seg.new with cls := .epoch, owner := 3 }
theorem test_windowExample : windowAddr slot2 0x90000100 = 0x90000100 ∧ segOf (lineOf 0x90000100) = 0x480 ∧
    lineOf 0x90000100 % 8192 = 1 ∧ windowBad slot2 0x90000100 true = none := by decide +kernel
theorem test_windowBeyondLength : windowBad slot2 0xB0001000 true = some 2 ∧
    (bar2WriteNow 0xB0001000 0 [some 1] false slot2).glb.trapAddr = 0xB0001000 := by decide +kernel
/-- The example of spec/04: the doorbell commits line L of epoch 0x4FE; a save discards the FLIP write of epoch 0x4FF. -/
theorem test_effectiveAfterClose : effective { Ctx.new with epoch := 0x4FF } { Line.never with state := .openOver, stamp := 0xFE } =
    (.committed, false) := by decide +kernel
theorem test_effectiveAfterDiscard :
    effective { Ctx.new with epoch := 0x500, discard := BitVec.ofNat 256 (2 ^ 0xFF) }
      { Line.never with state := .openOver, stamp := 0xFF, flip := true } = (.committed, false) := by decide +kernel
/-- The example of spec/05: 2.5 F and 60 mΩ rated, 10.0 V to 4.0 V, 31 W; 2.3 F and 66 mΩ measured, 10,400 MB/s. -/
theorem test_largestAllowance : largestAllow ⟨250, 600, 4000, 90, 60, 310, 11000, 40⟩ 10000 / 1000000 = 18563 := by decide +kernel
theorem test_allowanceNow :
    allowBytes (writeTimeNs (usableEnergy 230 10000 4000 90) 310 60) 10400 (kesr ⟨250, 600, 4000, 90, 60, 310, 11000, 40⟩ 660 310) 40 /
      10000000 = 1591 := by decide +kernel
/-- The example of spec/07: slot 40 of log page 16,666 lies on `order[26]`, row 0, page 32, plane 2. -/
theorem test_logPage : stripePage { State.reset.store.ncfg with planes := 4, ppb := 512 }
    ⟨1, 0, List.range 128, 1, 0, (List.range 512).map fun j => if j = 26 * 4 + 2 then 77 else 1000, 0, 0⟩ 16666 = 26 + 2 ^ 8 * 32 + 2 ^ 20 * 77 := by
  decide +kernel
/-- The example of spec/09: local address 0x12_3456_7900 with three ranks of 16 GiB, rank 2 spare. -/
def dimms : State :=
  let three (d : Dch) : Dch :=
    { d with ranks := 3, density := true, spareEn := true, spare := 2, rank := #v[.inService, .inService, .spare] }
  { ready with dch := ready.dch.map three }
theorem test_dramExample : channelOf dimms (0x1234567900 / 256) = 1 ∧
    bankAt dimms (0x1234567900 / 256) = ⟨1, 2, 3, 0x468A⟩ := by decide +kernel
/-- The example of spec/10: the bitwise majority of three POLICY copies. -/
theorem test_majority : majority [0x07, 0x03] [0x07, 0x01] [0x05, 0x01] = [0x07, 0x01] := by decide +kernel
/-- The example of spec/12: words of the polled module's program. -/
def fetched (w v : Word) : Option (Nat × Nat × Nat × Nat × Nat) :=
  match fetch { (seqAt State.reset 0) with pc := 0, imem := [(0, w), (1, v)] } with
  | .ins i => some (i.op, i.rd.toNat, i.rs.toNat, i.rt.toNat, i.imm.toNat)
  | _ => none
theorem test_liWord : (fetched 0x3D80A2C3 0).map (fun x => (x.1, x.2.1, x.2.2.2.2)) = some (0x0F, 6, 41667) := by decide +kernel
theorem test_ldivWord : (fetched 0x84180000 0).map (fun x => (x.1, x.2.2.1)) = some (0x21, 6) := by decide +kernel
theorem test_extWord : (fetched 0xFC00000F 0x3E010900).map (fun x => (x.1, x.2.1, x.2.2.2.2)) = some (0x0F, 8, 4000000) := by decide +kernel
theorem test_chkWord : (fetched 0x7C0400FF 0).map (fun x => (x.1, x.2.2.1, x.2.2.2.2)) = some (0x1F, 1, 255) := by decide +kernel
theorem test_recvWord : (fetched 0x8CE00000 0).map (fun x => (x.1, x.2.1, x.2.2.1)) = some (0x23, 3, 8) := by decide +kernel
theorem test_ipubWord : (fetched 0xC8068000 0).map (fun x => (x.1, x.2.2.1, x.2.2.2.1)) = some (0x32, 1, 10) := by decide +kernel
/-- The example of spec/15: 5,000, 4,854 and 4,624 mV over 1 Ω and 100 ms give 30.0 mΩ and 2.00 F. -/
theorem test_headwater : esrOf 1000 5000 4854 / 10 = 30 ∧ capOf 1000 300 4854 4624 100000 = 200 := by decide +kernel
/-! ## Reset and one step -/
theorem test_resetQueueIsEmpty : State.reset.pending = [] ∧ State.reset.ret.dram = [] ∧ State.reset.store.blocks = [] := by decide +kernel
theorem test_stepTakesTheFront : (match step { ready with pending := [.weirRecompute, .perst] } with | .next t => t.pending | _ => []) = [.perst] := by
  decide +kernel
/-! ## Witnesses: for each statement with hypotheses, and each of its clauses, a state and operands that meet them -/
theorem wit_StepTakesFront :
    ∃ (s : State), s.pending = [] :=
  ⟨State.reset, by decide +kernel⟩
theorem wit_HostDoorbells :
    (∃ (s : State), HostOpen s ∧ s.host.mq[0].state ≠ .active ∧ s.host.setupBusy = false ∧ s.host.bootAddr.toNat % 64 = 0) ∧
    (∃ (q : Fin 4) (v : Word) (s : State), HostOpen s ∧ s.host.mq[q].state = .active ∧ bits v 0 10 < 2 ^ s.host.mq[q].cqLog2 ∧ s.host.mq[q].cqUsed ≤ (bits v 0 10 + 2 ^ s.host.mq[q].cqLog2 - s.host.mq[q].cqHead) % 2 ^ s.host.mq[q].cqLog2) ∧
    (∃ (q : Fin 4) (v : Word) (s : State), HostOpen s ∧ s.host.mq[q].state = .active ∧ bits v 0 10 < 2 ^ s.host.mq[q].eqLog2 ∧ s.host.mq[q].eqUsed ≤ (bits v 0 10 + 2 ^ s.host.mq[q].eqLog2 - s.host.mq[q].eqHead) % 2 ^ s.host.mq[q].eqLog2) ∧
    (∃ (s : State), HostOpen s ∧ s.host.msix.pba = 0) :=
  ⟨⟨ready, by unfold HostOpen; decide +kernel⟩,
   ⟨3, 15, mqOn 3 ready, by unfold HostOpen; decide +kernel⟩,
   ⟨3, 15, mqOn 3 ready, by unfold HostOpen; decide +kernel⟩,
   ⟨ready, by unfold HostOpen; decide +kernel⟩⟩
theorem wit_MailboxWork :
    (∃ (v : BitVec 512) (s : State), s.host.setupBusy = true ∧ queueBad ((leBytes 64 v.toNat).take 32) = none ∧ zeros (leBytes 64 v.toNat) 32 32 = true) ∧
    (∃ (q : Fin 4) (s : State), mayFetch s q = true) ∧
    (∃ (q : Fin 4) (tag : BitVec 16) (c : Cmd) (s : State), s.host.mq[q].cmds.find? (fun c => c.tag = tag ∧ c.phase.isFinished) = some c ∧ s.host.mq[q].state = .active ∧ s.host.mq[q].cqUsed < 2 ^ s.host.mq[q].cqLog2 ∧ s.host.mq[q].cqArmed = false) ∧
    (∃ (tag : BitVec 16) (c : Cmd) (s : State), s.host.svc.cmds.find? (fun c => c.tag = tag ∧ c.phase.isFinished) = some c) :=
  ⟨⟨0x040404000000000000000000000000000000000000000000000000, { ready with host := { ready.host with setupBusy := true } }, by decide +kernel⟩,
   ⟨2, onMq (mqOn 2 ready) 2 fun m => { m with tail := 1 }, by decide +kernel⟩,
   ⟨1, 7, { newCmd (dd svcBaudInfo 0 [(16, 2)] 0) 0x0130 0 [] with phase := .finished }, onMq (mqOn 1 ready) 1 fun m => { m with cqUsed := 15, cqArmed := false, cmds := [{ newCmd (dd svcBaudInfo 0 [(16, 2)] 0) 0x0130 0 [] with phase := .finished }] }, by decide +kernel⟩,
   ⟨7, { newCmd (dd svcBaudInfo 0 [(16, 2)] 0) 0x0130 0 [] with phase := .finished }, onCmds ready 5 fun _ => [{ newCmd (dd svcBaudInfo 0 [(16, 2)] 0) 0x0130 0 [] with phase := .finished }], by decide +kernel⟩⟩
theorem wit_RegisterAccess :
    (∃ (who : Requester) (s : State), who ≠ .host ∧ mayRead s who = true) ∧
    (∃ (s : State), HostOpen s) ∧
    (∃ (s : State), s.boot.coreOut = true ∧ mayWrite s .service = true) ∧
    (∃ (who : Requester) (s : State), mayRead s who = true ∧ (who = .host → HostOpen s) ∧ latchOf s who 0x30 = none) ∧
    (∃ (who : Requester) (s : State), mayRead s who = true ∧ (who = .host → HostOpen s) ∧ latchOf s who 0x100000 = none) ∧
    (∃ (off : BitVec 24) (s : State), s.boot.coreOut = true ∧ s.glb.fil ≠ 0 ∧ off ∈ [0x70030, 0x70034, 0x70038, 0x7003C, 0x70040, 0x70044] ∧ s.holds 5 auMaintain = true) :=
  ⟨⟨.firmware, ready, by decide +kernel⟩,
   ⟨ready, by unfold HostOpen; decide +kernel⟩,
   ⟨svcOn ready, by decide +kernel⟩,
   ⟨.host, ready, by unfold HostOpen; decide +kernel⟩,
   ⟨.host, ready, by unfold HostOpen; decide +kernel⟩,
   ⟨0x70044, svcOn ready, by decide +kernel⟩⟩
theorem wit_SidebandAnswers :
    (∃ (f : List Byte) (s : State), svcAlive s = true ∧ svcRefusal s f = none) ∧
    (∃ (f : List Byte) (r : Nat) (s : State), svcAlive s = true ∧ svcRefusal s f = some r) ∧
    (∃ (s : State) (len : BitVec 16), svcAlive s = true ∧ len.toNat > 4160) ∧
    (∃ (code : Byte) (s : State), s.boot.coreOut = true ∧ s.pwr.rail[7].inWin = true ∧ s.host.tele.ready = true ∧ code.toNat ≠ 0) ∧
    (∃ (code : Byte) (s : State), s.boot.coreOut = true ∧ s.pwr.rail[7].inWin = true ∧ 10 ≤ code.toNat) ∧
    (∃ (s : State), s.boot.coreOut = true ∧ s.glb.fil ≠ 0) :=
  ⟨⟨svcFrame 4 [16, 0, 0, 0], svcOn ready, by decide +kernel⟩,
   ⟨[0xA4], 7, ready, by decide +kernel⟩,
   ⟨ready, 4161, by decide +kernel⟩,
   ⟨9, { ready with pwr := { ready.pwr with rail := vmod ready.pwr.rail 7 fun r => { r with inWin := true } }, host := { ready.host with tele := { ready.host.tele with ready := true } } }, by decide +kernel⟩,
   ⟨10, { ready with pwr := { ready.pwr with rail := vmod ready.pwr.rail 7 fun r => { r with inWin := true } }, host := { ready.host with tele := { ready.host.tele with ready := true } } }, by decide +kernel⟩,
   ⟨ready, by decide +kernel⟩⟩
theorem wit_HostCommands_1 :
    (∃ (d : Desc) (s : State), Served glbIdentifyInfo d [0] s) ∧
    (∃ (d : Desc) (s : State), Served authNarrowInfo d [0] s ∧ d.p 16 1 ≤ 11 ∧ portAlive s d.port = true) ∧
    (∃ (d : Desc) (s : State), Served authPolicyWriteInfo d [0] s) ∧
    (∃ (d : Desc) (q : Fin 4) (s : State), Served mbxQueueCreateInfo d [q.val] s ∧ queueBad ((paramBytes d).take 32) = none ∧ s.host.mq[q].state = .absent) ∧
    (∃ (d : Desc) (q : Fin 4) (s : State), Served mbxQueueDeleteInfo d [q.val] s ∧ s.host.mq[q].state ≠ .absent ∧ (d.bit 16 0 = true ∨ s.host.mq[q].cmds.any (fun c => !c.orphan) = false)) ∧
    (∃ (d : Desc) (q : Fin 4) (s : State), Served mbxEventMaskInfo d [0] s ∧ d.port.val = q.val) :=
  ⟨⟨(dd glbIdentifyInfo 0 [] 0), (withCmd glbIdentifyInfo (dd glbIdentifyInfo 0 [] 0) (ready)), by unfold Served; decide +kernel⟩,
   ⟨(dd authNarrowInfo 0 [(16, 11), (17, 1)] 0), (withCmd authNarrowInfo (dd authNarrowInfo 0 [(16, 11), (17, 1)] 0) (mqOn 0 ready)), by unfold Served; decide +kernel⟩,
   ⟨(dd authPolicyWriteInfo 0 [] 0), (withCmd authPolicyWriteInfo (dd authPolicyWriteInfo 0 [] 0) (ready)), by unfold Served; decide +kernel⟩,
   ⟨(dd mbxQueueCreateInfo 3 [(40, 0x040404)] 0), 3, (withCmd mbxQueueCreateInfo (dd mbxQueueCreateInfo 3 [(40, 0x040404)] 0) (ready)), by unfold Served; decide +kernel⟩,
   ⟨(dd mbxQueueDeleteInfo 3 [(16, 1)] 0), 3, (withCmd mbxQueueDeleteInfo (dd mbxQueueDeleteInfo 3 [(16, 1)] 0) (mqOn 3 ready)), by unfold Served; decide +kernel⟩,
   ⟨(dd mbxEventMaskInfo 0 [] 0), 0, (withCmd mbxEventMaskInfo (dd mbxEventMaskInfo 0 [] 0) (ready)), by unfold Served; decide +kernel⟩⟩
theorem wit_HostCommands_2 :
    ∃ (d : Desc) (s : State), Served svcBaudInfo d [0] s ∧ d.p 16 1 ≤ 2 :=
  ⟨(dd svcBaudInfo 0 [(16, 2)] 0), (withCmd svcBaudInfo (dd svcBaudInfo 0 [(16, 2)] 0) (ready)), by unfold Served; decide +kernel⟩
theorem wit_LifecycleMoves_1 :
    (∃ (cc : LClass) (ts : List Nat) (d : Desc) (s : State), Served (unitQueryInfo cc) d ts s) ∧
    (∃ (cc : LClass) (i : Nat) (d : Desc) (s : State), Served (unitPowerUpInfo cc) d [i] s ∧ s.lifeOf cc i = .off ∧ (cc = .conf → (wired s).contains (Fin.ofNat 3 i) = true)) ∧
    (∃ (cc : LClass) (i : Nat) (d : Desc) (s : State), Served (unitStartInfo cc) d [i] s ∧ s.lifeOf cc i = .stopped ∧ (startUnit cc i s).1 = none) ∧
    (∃ (cc : LClass) (i : Nat) (d : Desc) (s : State), Served (stopInfo cc) d [i] s ∧ d.p 16 1 = 0 ∧ s.lifeOf cc i = .running ∧ stopBad s cc i = none) ∧
    (∃ (cc : LClass) (i : Nat) (d : Desc) (s : State), Served (stopInfo cc) d [i] s ∧ d.p 16 1 = 1 ∧ s.lifeOf cc i = .running ∧ stopBad s cc i = none) ∧
    (∃ (cc : LClass) (i : Nat) (d : Desc) (s : State), Served (unitClearFaultInfo cc) d [i] s ∧ s.lifeOf cc i = .faulted) :=
  ⟨⟨.seq, [11], (dd (unitQueryInfo .seq) 11 [] 0), (withCmd (unitQueryInfo .seq) (dd (unitQueryInfo .seq) 11 [] 0) (ready)), by unfold Served; decide +kernel⟩,
   ⟨.trib, 11, (dd (unitPowerUpInfo .trib) 11 [] 0), (withCmd (unitPowerUpInfo .trib) (dd (unitPowerUpInfo .trib) 11 [] 0) (ready)), by unfold Served; decide +kernel⟩,
   ⟨.dch, 3, (dd (unitStartInfo .dch) 3 [] 0), (withCmd (unitStartInfo .dch) (dd (unitStartInfo .dch) 3 [] 0) (inLife 20 .stopped ready)), by unfold Served; decide +kernel⟩,
   ⟨.mir, 1, (dd (stopInfo .mir) 1 [] 0), (withCmd (stopInfo .mir) (dd (stopInfo .mir) 1 [] 0) (inLife 46 .running ready)), by unfold Served; decide +kernel⟩,
   ⟨.nst, 15, (dd (stopInfo .nst) 15 [(16, 1)] 0), (withCmd (stopInfo .nst) (dd (stopInfo .nst) 15 [(16, 1)] 0) (inLife 15 .running ready)), by unfold Served; decide +kernel⟩,
   ⟨.conf, 2, (dd (unitClearFaultInfo .conf) 2 [] 0), (withCmd (unitClearFaultInfo .conf) (dd (unitClearFaultInfo .conf) 2 [] 0) (inLife 49 .faulted ready)), by unfold Served; decide +kernel⟩⟩
theorem wit_LifecycleMoves_2 :
    (∃ (cc : LClass) (i : Nat) (d : Desc) (s : State), Served (unitPowerDownInfo cc) d [i] s ∧ s.lifeOf cc i = .stopped ∧ downBad s cc i = none) ∧
    (∃ (u : Fin 50) (s : State), s.life[u].life = .draining ∧ unitIdle s (classOf u).1 (classOf u).2 = true) ∧
    (∃ (u : Fin 50) (s : State), s.life[u].life = .draining ∧ s.life[u].drainMs ≠ 0) ∧
    (∃ (u : Fin 50) (code : Word) (s : State), s.life[u].life = .running ∧ (classOf u).1 ≠ .dch ∧ (classOf u).1 ≠ .nst ∧ ((classOf u).1 ≠ .seq ∨ code ≠ 7)) :=
  ⟨⟨.seq, 0, (dd (unitPowerDownInfo .seq) 0 [] 0), (withCmd (unitPowerDownInfo .seq) (dd (unitPowerDownInfo .seq) 0 [] 0) (inLife 33 .stopped ready)), by unfold Served; decide +kernel⟩,
   ⟨32, inLife 32 .draining ready, by decide +kernel⟩,
   ⟨49, { ready with life := vmod ready.life 49 fun x => { x with life := .draining, drainMs := 5 } }, by decide +kernel⟩,
   ⟨16, 3, inLife 16 .running ready, by decide +kernel⟩⟩
theorem wit_FirstFailingCheckDecides :
    (∃ (i : CmdInfo) (d : Desc) (s : State), isAccepted s d i.op = false ∧ canArrive s i.op d.port = true ∧ formOk i d = false) ∧
    (∃ (i : CmdInfo) (d : Desc) (s : State), isAccepted s d i.op = false ∧ canArrive s i.op d.port = true ∧ formOk i d = true ∧ tagOutstanding s d = true) ∧
    (∃ (i : CmdInfo) (d : Desc) (s : State), isAccepted s d i.op = false ∧ canArrive s i.op d.port = true ∧ formOk i d = true ∧ tagOutstanding s d = false ∧ s.holds d.port i.auth = false) :=
  ⟨⟨nstQueryInfo, (dd svcBaudInfo 0 [] 0), mqOn 0 ready, by decide +kernel⟩,
   ⟨nstQueryInfo, (dd nstQueryInfo 0 [] 0), withCmd svcBaudInfo (dd nstQueryInfo 0 [] 0) (mqOn 0 ready), by decide +kernel⟩,
   ⟨nstFormatInfo, (dd nstFormatInfo 0 [] 0), mqOn 0 ready, by decide +kernel⟩⟩
theorem wit_MultiTargetPowerUp :
    ∃ (cc : LClass) (ts : List Nat) (d : Desc) (s : State), Served (unitPowerUpInfo cc) d ts s ∧ ts.Nodup ∧ (∀ i ∈ ts, i < cc.size) ∧ ts ≠ [] :=
  ⟨.nst, [0, 15], (dd (unitPowerUpInfo .nst) 0x8001 [] 1), (withCmd (unitPowerUpInfo .nst) (dd (unitPowerUpInfo .nst) 0x8001 [] 1) (ready)), by unfold Served; decide +kernel⟩
theorem wit_DuplicateTagConflicts :
    (∃ (i : CmdInfo) (d : Desc) (op : Nat) (s : State), infoOf op = some i ∧ formOk i d = true ∧ (cmdsOf s d.port).any (fun c => c.tag = d.tag ∧ !c.orphan) = true ∧ portAlive s d.port = true) ∧
    (∃ (i : CmdInfo) (d : Desc) (op : Nat) (s : State), infoOf op = some i ∧ formOk i d = true ∧ (cmdsOf s d.port).any (fun c => c.tag = d.tag ∧ !c.orphan) = false ∧ s.holds d.port i.auth = true) :=
  ⟨⟨svcBaudInfo, (dd svcBaudInfo 0 [(16, 2)] 0), 0x0130, withCmd nstQueryInfo (dd nstQueryInfo 0 [] 0) (mqOn 0 ready), rfl, by decide +kernel⟩,
   ⟨svcBaudInfo, { dd svcBaudInfo 0 [(16, 2)] 0 with port := 5 }, 0x0130, svcOn (withCmd nstQueryInfo (dd nstQueryInfo 0 [] 0) (mqOn 0 ready)), rfl, by decide +kernel⟩⟩
theorem wit_SegmentCommands_1 :
    (∃ (d : Desc) (g : Nat) (s : State), Served segQueryInfo d [g] s) ∧
    (∃ (d : Desc) (g : Nat) (s : State), Served segSetClassInfo d [g] s ∧ s.mir.role ≠ .standby ∧ countOk d = true ∧ firstBad (classBad s (ownerFits d) (newEntry d)) (runOf g (d.p 16 4)) = none ∧ capacityBad s (newEntry d) (runOf g (d.p 16 4)) = none) ∧
    (∃ (d : Desc) (g : Nat) (s : State), Served segSetFlagsInfo d [g] s ∧ s.mir.role ≠ .standby ∧ countOk d = true ∧ firstBad (fun k => if s.segExists k then none else some St.badTarget) (runOf g (d.p 16 4)) = none) ∧
    (∃ (d : Desc) (g : Nat) (s : State), Served segLoadBeginInfo d [g] s ∧ s.mir.role ≠ .standby ∧ (s.seg g).cls = .constant ∧ (s.seg g).sealed = false ∧ (s.seg g).loading = false ∧ d.bit 16 0 = false) ∧
    (∃ (d : Desc) (buf : List Byte) (g : Nat) (s : State) (t : _), Served segLoadInfo d [g] s ∧ s.mir.role ≠ .standby ∧ 1 ≤ d.p 28 4 ∧ d.p 28 4 ≤ 1048576 ∧ d.p 24 4 + d.p 28 4 ≤ segBytes ∧ (bufferOf s d 0x0314 buf).length = d.p 28 4 ∧ (s.seg g).cls = .constant ∧ (s.seg g).loading = true ∧ takeWrite 1 (g * segBytes + d.p 24 4) ((bufferOf s d 0x0314 buf).map some) none true s = .accepted t) ∧
    (∃ (d : Desc) (buf : List Byte) (g : Nat) (s : State) (k : _) (t : _), Served segLoadInfo d [g] s ∧ s.mir.role ≠ .standby ∧ 1 ≤ d.p 28 4 ∧ d.p 28 4 ≤ 1048576 ∧ d.p 24 4 + d.p 28 4 ≤ segBytes ∧ (bufferOf s d 0x0314 buf).length = d.p 28 4 ∧ (s.seg g).cls = .constant ∧ (s.seg g).loading = true ∧ 1 ≤ k ∧ k < d.p 28 4 ∧ takeWrite 1 (g * segBytes + d.p 24 4) (((bufferOf s d 0x0314 buf).take k).map some) none true s = .accepted t) :=
  ⟨⟨(dd segQueryInfo 14079 [] 0), 14079, (withCmd segQueryInfo (dd segQueryInfo 14079 [] 0) (ready)), by unfold Served; decide +kernel⟩,
   ⟨(dd segSetClassInfo 5 [(16, 2), (20, 1), (21, 15)] 0), 5, (withCmd segSetClassInfo (dd segSetClassInfo 5 [(16, 2), (20, 1), (21, 15)] 0) ({ ready with ret := { ready.ret with sum := { ready.ret.sum with pslcHave := 1000 } } })), by unfold Served; decide +kernel⟩,
   ⟨(dd segSetFlagsInfo 5 [(16, 2), (20, 1)] 0), 5, (withCmd segSetFlagsInfo (dd segSetFlagsInfo 5 [(16, 2), (20, 1)] 0) (ready)), by unfold Served; decide +kernel⟩,
   ⟨(dd segLoadBeginInfo 5 [] 0), 5, (withCmd segLoadBeginInfo (dd segLoadBeginInfo 5 [] 0) (ready.setSeg 5 { Seg.new with cls := .constant })), by unfold Served; decide +kernel⟩,
   ⟨(loadD 3), [1, 2, 3], 5, (loadS 3), takenBy 1 (5 * segBytes) [some 1, some 2, some 3] none true (loadS 3), by refine ⟨?_, ?_, ?_, ?_, ?_, ?_, ?_, ?_, accepts_of ?_⟩ <;> (try unfold Served) <;> decide +kernel⟩,
   ⟨(loadD 3), [1, 2, 3], 5, (loadS 3), 2, takenBy 1 (5 * segBytes) [some 1, some 2] none true (loadS 3), by refine ⟨?_, ?_, ?_, ?_, ?_, ?_, ?_, ?_, ?_, ?_, accepts_of ?_⟩ <;> (try unfold Served) <;> decide +kernel⟩⟩
theorem wit_SegmentCommands_2 :
    (∃ (a : Nat) (s : State), (s.lineSeg (lineOf a)).cls = .constant ∧ waitingOn s 1 < 32 ∧ admits s 1 0 = true) ∧
    (∃ (d : Desc) (g : Nat) (s : State), Served segSealInfo d [g] s ∧ s.mir.role ≠ .standby ∧ (s.seg g).cls = .constant ∧ (s.seg g).loading = true ∧ loadsOut s g = false ∧ segPoisoned s g = false ∧ (d.bit 16 0 = true → d.p 20 4 = (segCrc s g).toNat)) ∧
    (∃ (d : Desc) (s : State), Served segShadowSetInfo d [0] s ∧ s.mir.role ≠ .standby ∧ 1 ≤ d.p 16 1 ∧ d.p 16 1 ≤ 32 ∧ shadowFits s (d.p 16 1) = true) :=
  ⟨⟨5 * segBytes, ready.setSeg 5 { Seg.new with cls := .constant, loading := true }, by decide +kernel⟩,
   ⟨(dd segSealInfo 5 [] 0), 5, (withCmd segSealInfo (dd segSealInfo 5 [] 0) (ready.setSeg 5 { Seg.new with cls := .constant, loading := true })), by unfold Served; decide +kernel⟩,
   ⟨(dd segShadowSetInfo 0 [(16, 4)] 0), (withCmd segShadowSetInfo (dd segShadowSetInfo 0 [(16, 4)] 0) (ready)), by unfold Served; decide +kernel⟩⟩
theorem wit_WindowsAndBar2 :
    (∃ (d : Desc) (s : State), Served winSetInfo d [0] s ∧ winOk s d = true ∧ portAlive s d.port = true) ∧
    (∃ (d : Desc) (s : State), Served winQueryInfo d [0] s ∧ d.p 16 1 < 64) ∧
    (∃ (off : BitVec 36) (po : Bool) (r : State) (s : State), r.boot.coreOut = true ∧ s = (if po then gotPoison r else r) ∧ HostOpen s ∧ windowBad s off true = none ∧ windowAddr s off / 2 ^ 38 = s.slot ∧ standbyDrops s (lineOf (localOf (windowAddr s off))) = false) ∧
    (∃ (off : BitVec 36) (s : State), HostOpen s ∧ windowBad s off false = none ∧ windowAddr s off / 2 ^ 38 = s.slot) ∧
    (∃ (off : BitVec 36) (req : BitVec 16) (bytes : List WByte) (r : Nat) (s : State), HostOpen s ∧ windowBad s off true = some r ∧ tlpWaits s (.write off req bytes false) = false) ∧
    (∃ (off : BitVec 36) (req : BitVec 16) (len : Nat) (r : Nat) (s : State), HostOpen s ∧ windowBad s off false = some r ∧ tlpWaits s (.read off req len) = false) :=
  ⟨⟨(dd winSetInfo 0 [(16, 63), (32, 4096)] 0), (withCmd winSetInfo (dd winSetInfo 0 [(16, 63), (32, 4096)] 0) (mqOn 0 ready)), by unfold Served; decide +kernel⟩,
   ⟨(dd winQueryInfo 0 [(16, 63)] 0), (withCmd winQueryInfo (dd winQueryInfo 0 [(16, 63)] 0) (ready)), by unfold Served; decide +kernel⟩,
   ⟨0xFFF, false, winOn ready, winOn ready, by refine ⟨?_, rfl, ?_, ?_, ?_, ?_⟩ <;> (try unfold HostOpen) <;> decide +kernel⟩,
   ⟨0xFFF, winOn ready, by unfold HostOpen; decide +kernel⟩,
   ⟨0x1000, 7, [some 1], 2, winOn ready, by unfold HostOpen; decide +kernel⟩,
   ⟨0x1000, 7, 4, 2, winOn ready, by unfold HostOpen; decide +kernel⟩⟩
theorem wit_FabricAccess :
    (∃ (fp : Fin 23) (a : BitVec 40) (s : State), s.here a.toNat = true ∧ s.slu.phase = .idle ∧ portMayWrite s fp (localOf a.toNat) = true) ∧
    (∃ (fp : Fin 23) (a : BitVec 40) (s : State), s.here a.toNat = false ∧ (fp ≠ 1 ∨ goesOut s a.toNat = false)) ∧
    (∃ (a : BitVec 40) (s : State), s.here a.toNat = false ∧ goesOut s a.toNat = true ∧ s.slu.phase = .idle) ∧
    (∃ (fp : Fin 23) (p : Piece) (rest : List Piece) (s : State), portPieces s fp = p :: rest ∧ p.wait = .ready ∧ behindOther s p = false ∧ dchDead s (channelOf s p.line) = false ∧ dchRunning s (channelOf s p.line) = true ∧ obstacle s p = .ready) :=
  ⟨⟨2, 0, ready, by decide +kernel⟩,
   ⟨3, 0x4000000000, ready, by decide +kernel⟩,
   ⟨0xC000000500, confUp id ready, by decide +kernel⟩,
   ⟨0, ⟨0, 5, [some 1], 0, 0, none, none, .ready, 0, 0, false⟩, [], inLife 17 .running (inLife 18 .running (inLife 19 .running (inLife 20 .running { ready with ret := { ready.ret with writes := [⟨0, 5, [some 1], 0, 0, none, none, .ready, 0, 0, false⟩] } }))), by decide +kernel⟩⟩
theorem wit_ConstantSegmentsTakeNoBar2Write :
    ∃ (off : BitVec 36) (s : State), HostOpen s ∧ (windowAt s off).access ≠ 0 ∧ off.toNat % 2 ^ 30 < (windowAt s off).len ∧ windowAddr s off / 2 ^ 38 = s.slot ∧ s.here (windowAddr s off) = true ∧ (s.lineSeg (lineOf (localOf (windowAddr s off)))).cls = .constant ∧ (windowAt s off).classes.getLsbD 3 = true :=
  ⟨0xFFF, winOn (ready.setSeg 0 { Seg.new with cls := .constant }), by unfold HostOpen; decide +kernel⟩
theorem wit_SegmentsBelowUsable :
    ∃ (i : CmdInfo) (d : Desc) (s : State), i.sel = .segment ∧ isAccepted s d i.op = true ∧ fenced (cmdsOf s d.port) d.tag = false ∧ readyFor s i = true ∧ d.sel = 0 ∧ s.usable ≤ d.inst.toNat :=
  ⟨segQueryInfo, (dd segQueryInfo 16384 [] 0), withCmd segQueryInfo (dd segQueryInfo 16384 [] 0) ready, rfl, by decide +kernel⟩
theorem wit_EmptyingASegment :
    (∃ (g : Nat) (l : Nat) (s : State), mwf Line.never s.ret.lines = true ∧ mwf 0 s.ret.dram = true ∧ segOf l = g) ∧
    (∃ (g : Nat) (l : Nat) (s : State), mwf Line.never s.ret.lines = true ∧ mwf 0 s.ret.dram = true ∧ segOf l ≠ g) :=
  ⟨⟨0, 8191, ready.setLine 8191 { Line.never with state := .clean }, by decide +kernel⟩,
   ⟨0, 8192, ready.setLine 8191 { Line.never with state := .clean }, by decide +kernel⟩⟩
theorem wit_ContextCommands_1 :
    (∃ (d : Desc) (n : Nat) (s : State), Served ctxQueryInfo d [n] s) ∧
    (∃ (d : Desc) (s : State), Served ctxLineQueryInfo d [0] s ∧ s.here (d.p 16 8) = true ∧ hostBehind s (lineOf (localOf (d.p 16 8))) = false ∧ s.unbuilt (segOf (lineOf (localOf (d.p 16 8)))) = false) ∧
    (∃ (d : Desc) (s : State), Served copyConfigInfo d [0] s ∧ 1 ≤ d.p 16 1 ∧ d.p 16 1 ≤ 16) ∧
    (∃ (d : Desc) (n : Nat) (s : State), Served ctxConfigInfo d [n] s ∧ ctxConfigOk d = true ∧ s.mir.role ≠ .standby ∧ actsHome s (fin16 n) = true ∧ (s.ctxAt (fin16 n)).mode = .idle ∧ s.scan.ctx[fin16 n].swap = none) ∧
    (∃ (d : Desc) (n : Nat) (s : State), Served ctxStartInfo d [n] s ∧ s.mir.role ≠ .standby ∧ actsHome s (fin16 n) = true ∧ (s.ctxAt (fin16 n)).mode = .idle ∧ (s.ctxAt (fin16 n)).epoch < terminalEpoch ∧ bankOk s (fin16 n) = true) ∧
    (∃ (d : Desc) (n : Nat) (s : State), Served ctxResumeInfo d [n] s ∧ s.mir.role ≠ .standby ∧ actsHome s (fin16 n) = true ∧ ((s.ctxAt (fin16 n)).mode = .paused ∨ (s.ctxAt (fin16 n)).mode = .abandoned) ∧ (s.ctxAt (fin16 n)).released = true ∧ (s.ctxAt (fin16 n)).epoch < terminalEpoch ∧ bankOk s (fin16 n) = true) :=
  ⟨⟨(dd ctxQueryInfo 15 [] 0), 15, (withCmd ctxQueryInfo (dd ctxQueryInfo 15 [] 0) (ready)), by unfold Served; decide +kernel⟩,
   ⟨(dd ctxLineQueryInfo 0 [(16, 255)] 0), (withCmd ctxLineQueryInfo (dd ctxLineQueryInfo 0 [(16, 255)] 0) (ready)), by unfold Served; decide +kernel⟩,
   ⟨(dd copyConfigInfo 0 [(16, 16)] 0), (withCmd copyConfigInfo (dd copyConfigInfo 0 [(16, 16)] 0) (ready)), by unfold Served; decide +kernel⟩,
   ⟨(dd ctxConfigInfo 15 [(16, 2), (17, 15), (18, 10), (28, 4095)] 0), 15, (withCmd ctxConfigInfo (dd ctxConfigInfo 15 [(16, 2), (17, 15), (18, 10), (28, 4095)] 0) (ready)), by unfold Served; decide +kernel⟩,
   ⟨(dd ctxStartInfo 15 [] 0), 15, (withCmd ctxStartInfo (dd ctxStartInfo 15 [] 0) (ready)), by unfold Served; decide +kernel⟩,
   ⟨(dd ctxResumeInfo 15 [] 0), 15, (withCmd ctxResumeInfo (dd ctxResumeInfo 15 [] 0) (ctxIn .abandoned ready)), by unfold Served; decide +kernel⟩⟩
theorem wit_ContextCommands_2 :
    (∃ (d : Desc) (n : Nat) (s : State), Served ctxCloseInfo d [n] s ∧ s.mir.role ≠ .standby ∧ actsHome s (fin16 n) = true ∧ (s.ctxAt (fin16 n)).mode ≠ .closing ∧ (s.ctxAt (fin16 n)).mode ≠ .abandoned ∧ atLimit s (fin16 n) = false ∧ ((s.ctxAt (fin16 n)).mode = .running → tooSoon s (fin16 n) = false ∧ (d.bit 18 0 = true → d.p 16 2 = (s.ctxAt (fin16 n)).epoch % 2 ^ 16))) ∧
    (∃ (d : Desc) (n : Nat) (s : State), Served ctxPauseInfo d [n] s ∧ s.mir.role ≠ .standby ∧ actsHome s (fin16 n) = true ∧ (s.ctxAt (fin16 n)).mode = .running ∧ atLimit s (fin16 n) = false ∧ d.p 16 1 = 0 ∧ tooSoon s (fin16 n) = false) ∧
    (∃ (d : Desc) (n : Nat) (s : State), Served ctxPauseInfo d [n] s ∧ s.mir.role ≠ .standby ∧ actsHome s (fin16 n) = true ∧ (s.ctxAt (fin16 n)).mode = .running ∧ atLimit s (fin16 n) = false ∧ d.p 16 1 = 1) ∧
    (∃ (d : Desc) (n : Nat) (s : State), Served ctxAbandonInfo d [n] s ∧ s.mir.role ≠ .standby ∧ actsHome s (fin16 n) = true ∧ atLimit s (fin16 n) = false ∧ (s.ctxAt (fin16 n)).mode ≠ .closing ∧ (s.ctxAt (fin16 n)).mode ≠ .abandoned) ∧
    (∃ (d : Desc) (n : Nat) (s : State), Served ctxStopInfo d [n] s ∧ s.mir.role ≠ .standby ∧ actsHome s (fin16 n) = true ∧ ((s.ctxAt (fin16 n)).mode = .paused ∨ (s.ctxAt (fin16 n)).mode = .abandoned)) :=
  ⟨⟨(dd ctxCloseInfo 15 [(16, 1), (18, 1)] 0), 15, (withCmd ctxCloseInfo (dd ctxCloseInfo 15 [(16, 1), (18, 1)] 0) (ctxIn .running ready)), by unfold Served; decide +kernel⟩,
   ⟨(dd ctxPauseInfo 15 [] 0), 15, (withCmd ctxPauseInfo (dd ctxPauseInfo 15 [] 0) (ctxIn .running ready)), by unfold Served; decide +kernel⟩,
   ⟨(dd ctxPauseInfo 15 [(16, 1)] 0), 15, (withCmd ctxPauseInfo (dd ctxPauseInfo 15 [(16, 1)] 0) (ctxIn .running ready)), by unfold Served; decide +kernel⟩,
   ⟨(dd ctxAbandonInfo 15 [] 0), 15, (withCmd ctxAbandonInfo (dd ctxAbandonInfo 15 [] 0) (ctxIn .paused ready)), by unfold Served; decide +kernel⟩,
   ⟨(dd ctxStopInfo 15 [] 0), 15, (withCmd ctxStopInfo (dd ctxStopInfo 15 [] 0) (ctxIn .paused ready)), by unfold Served; decide +kernel⟩⟩
theorem wit_ContextWork_1 :
    (∃ (s : State), HostOpen s) ∧
    (∃ (c : Fin 16) (w : Word) (s : State), doorbellBad s c w = none) ∧
    (∃ (c : Fin 16) (w : Word) (s : State) (r : _), doorbellBad s c w = some r) ∧
    (∃ (c : Fin 16) (s : State), (s.ctxAt c).mode = .closing ∧ s.conf.prep[c].phase = 0 ∧ (∀ p ∈ s.ret.writes, ∀ e, p.epoch = some (c, e) → (s.ctxAt c).epoch ≤ e) ∧ (s.ctxAt c).closeFrom = (s.ctxAt c).closeTo) ∧
    (∃ (c : Fin 16) (line : Nat) (t : BitVec 8) (rest : List (BitVec 8)) (s : State), (s.ctxAt c).aging = t :: rest ∧ stampOfEpoch (s.ctxAt c).epoch ≠ t ∧ (s.lineSeg line).cls = .epoch ∧ (s.lineSeg line).owner = c ∧ (s.lineAt line).state = .openOver ∧ (s.lineAt line).stamp = t) ∧
    (∃ (c : Fin 16) (t : BitVec 8) (rest : List (BitVec 8)) (s : State), (s.ctxAt c).aging = t :: rest ∧ (∀ p ∈ s.ret.lines, (s.lineSeg p.1).cls = .epoch → (s.lineSeg p.1).owner = c → (p.2.state = .opened ∨ p.2.state = .openOver) → p.2.stamp ≠ t) ∧ s.mir.switchAsked ≠ some true) :=
  ⟨⟨ready, by unfold HostOpen; decide +kernel⟩,
   ⟨15, 0x80000001, ctxIn .running ready, by decide +kernel⟩,
   ⟨15, 0x80000002, ctxIn .running ready, 3, by decide +kernel⟩,
   ⟨15, (ctxIn .closing ready), by decide +kernel, by decide +kernel, fun _ hp => (nomatch (show _ ∈ ([] : List Piece) from hp)), by decide +kernel⟩,
   ⟨15, 5, 1, [], (segIn .epoch (line5 .openOver ready)).onCtx 15 fun x => { x with epoch := 2, aging := [1] }, by decide +kernel⟩,
   ⟨15, 2, [], (segIn .epoch (line5 .openOver ready)).onCtx 15 fun x => { x with epoch := 3, aging := [2] }, by decide +kernel⟩⟩
theorem wit_ContextWork_2 :
    (∃ (c : Fin 16) (s : State), (agingDone c s).mir.switchAsked = some true ∧ (agingDone c s).mir.role = .primary ∧ switchWaits (agingDone c s) = false) ∧
    (∃ (c : Fin 16) (b : Bool) (next : Option CtxMode) (s : State), (s.ctxAt c).deferred = some (.close b next) ∧ agingBlocks s c ((s.ctxAt c).epoch + 1) = false ∧ actsHome s c = true) ∧
    (∃ (c : Fin 16) (s : State), s.glb.state ≠ 3 ∧ (s.ctxAt c).mode = .running ∧ (s.ctxAt c).wdog ≠ 0 ∧ s.mir.role ≠ .standby ∧ actsHome s c = true) ∧
    (∃ (c : Fin 16) (w : Swap) (s : State), s.scan.ctx[c].swap = some w ∧ w.epoch = none ∧ w.timeout ≠ 0) :=
  ⟨⟨15, onMir ((segIn .epoch (line5 .openOver ready)).onCtx 15 fun x => { x with epoch := 3, aging := [2] }) fun m => { m with switchAsked := some true, role := .primary }, by decide +kernel⟩,
   ⟨15, true, some .running, (ctxIn .running ready).onCtx 15 fun x => { x with deferred := some (.close true (some .running)) }, by decide +kernel⟩,
   ⟨15, (ctxIn .running ready).onCtx 15 fun x => { x with wdog := 1 }, by decide +kernel⟩,
   ⟨15, ⟨1, 1, false, 1, 0, none, 0, 0, none, ⟨1, 1, 0, 0, 0, 0, 0, []⟩, [], (0, 0), false⟩, onScanCtx ready 15 fun k => { k with swap := some ⟨1, 1, false, 1, 0, none, 0, 0, none, ⟨1, 1, 0, 0, 0, 0, 0, []⟩, [], (0, 0), false⟩ }, by decide +kernel⟩⟩
theorem wit_CopierWork_1 :
    (∃ (k : Nat) (s : State), s.ret.copy.active = [] ∧ k < 16 ∧ (List.range 16).find? (fun n => s.ret.copy.queue.any fun q => q.1.val = (s.ret.copy.last.val + 1 + n) % 16) = some k) ∧
    (∃ (line : Nat) (p : Piece) (s : State), s.ret.copy.active.any (fun q => q.2 = line) = true ∧ channelTakes s line = true ∧ s.ret.writes.find? (fun p => p.line = line ∧ p.wait = .copy) = some p) ∧
    (∃ (line : Nat) (s : State), s.ret.copy.queue = [] ∧ s.ret.copy.active = [] ∧ s.slu.phase = .idle ∧ s.eff line = (.committed, true) ∧ s.slu.covered.contains line = false ∧ channelTakes s line = true) ∧
    (∃ (fp : Fin 23) (p : Piece) (s : State), s.mayRaise 0x0415 fp.val = true ∧ s.ret.writes.find? (fun p => p.fp = fp ∧ p.wait = .copy ∧ s.now - p.since > s.ret.copy.stallLimit) = some p) ∧
    (∃ (line : Nat) (f : FaultOp) (s : State) (s1 : State), s.slu.faults.find? (·.line = line) = some f ∧ toUs (s.now - f.since) ≤ 1000 ∧ s1 = readsOver (· == .fault line) (onSlu s fun x => { x with faults := x.faults.filter (fun g => g.line ≠ line), faultMax := sat 16 (max x.faultMax (toUs (s.now - f.since))) }) ∧ s1.unbuilt (segOf line) = false ∧ (s1.eff line).1 = .unrestored ∧ (s1.slu.reads.any (fun r => (linesFrom r.addr r.len).contains line) || s1.ret.writes.any (fun p => p.line = line && !isFull p.bytes)) = true) ∧
    (∃ (line : Nat) (f : FaultOp) (s : State) (s1 : State), s.slu.faults.find? (·.line = line) = some f ∧ toUs (s.now - f.since) ≤ 1000 ∧ s1 = readsOver (· == .fault line) (onSlu s fun x => { x with faults := x.faults.filter (fun g => g.line ≠ line), faultMax := sat 16 (max x.faultMax (toUs (s.now - f.since))) }) ∧ s1.unbuilt (segOf line) = false ∧ (s1.eff line).1 ≠ .unrestored) :=
  ⟨⟨3, ready.onCopy fun k => { k with queue := [(3, 5)] }, by decide +kernel⟩,
   ⟨5, piece5 .copy, (segIn .epoch (line5 .committed (withPiece .copy (dramOn ready)))).onCopy fun k => { k with active := [(15, 5)] }, by decide +kernel⟩,
   ⟨5, (segIn .epoch ((dramOn ready).setLine 5 { Line.never with state := .committed, flip := true })), by decide +kernel⟩,
   ⟨0, piece5 .copy, atTime 10000000 (withPiece .copy ready), by decide +kernel⟩,
   ⟨5, ⟨5, 0⟩, faulted5 (line5 .unrestored ready), over5 (line5 .unrestored ready), by decide +kernel⟩,
   ⟨5, ⟨5, 0⟩, faulted5 (line5 .clean ready), over5 (line5 .clean ready), by decide +kernel⟩⟩
theorem wit_CopierWork_2 :
    ∃ (line : Nat) (s : State), s.slu.faults.find? (·.line = line) = none :=
  ⟨5, ready, by decide +kernel⟩
theorem wit_EffectiveStateOfALine :
    ∃ (c : Fin 16) (s : State), (∀ w, s.scan.ctx[c].swap = some w → w.epoch.isSome = true) :=
  ⟨15, ctxIn .running ready, fun w h => (nomatch (show none = some w from h))⟩
theorem wit_DoorbellCommitsTheOpenEpoch :
    ∃ (c : Fin 16) (w : Word) (s : State), doorbellBad s c w = none ∧ spanning s c = false ∧ agingBlocks s c ((s.ctxAt c).epoch + 1) = false ∧ (∀ p, s.scan.ctx[c].swap = some p → p.epoch.isSome = true) :=
  ⟨15, 0, ctxIn .running ready, by decide +kernel⟩
theorem wit_AbandonDiscardsTheOpenEpoch :
    ∃ (c : Fin 16) (s : State), (s.ctxAt c).epoch < terminalEpoch :=
  ⟨15, ready.onCtx 15 fun x => { x with epoch := 0xFFFFFFFFFFFE }, by decide +kernel⟩
theorem wit_WeirRows_1 :
    (∃ (s : State), pondNow s ≤ s.ret.weir.millpond) ∧
    (∃ (x : Short) (a : Nat) (b : Nat) (s : State), dryPart s = some (a, b) ∧ heldShort s = some x ∧ s.ret.weir.dryRaised = false) ∧
    (∃ (s : State), s.slu.phase = .idle) ∧
    (∃ (d : Desc) (s : State), Served weirQueryInfo d [0] s) ∧
    (∃ (d : Desc) (s : State), Served weirConfigInfo d [0] s ∧ weirConfigOk d = true) ∧
    (∃ (u : DueSet), u.op = 0x0511) :=
  ⟨⟨ready, by decide +kernel⟩,
   ⟨⟨1, 1, 1⟩, 1, 0, segIn .latest { ready with ret := { ready.ret with held := [⟨0, 0, [some 1], none, 0, 0, none, none⟩], weir := { ready.ret.weir with holdSince := some 0 } } }, by decide +kernel⟩,
   ⟨ready, by decide +kernel⟩,
   ⟨(dd weirQueryInfo 0 [] 0), (withCmd weirQueryInfo (dd weirQueryInfo 0 [] 0) (ready)), by unfold Served; decide +kernel⟩,
   ⟨(dd weirConfigInfo 0 [(16, 60), (22, 16000), (24, 10), (26, 1), (28, 65535), (30, 5), (31, 90)] 0), (withCmd weirConfigInfo (dd weirConfigInfo 0 [(16, 60), (22, 16000), (24, 10), (26, 1), (28, 65535), (30, 5), (31, 90)] 0) (ready)), by unfold Served; decide +kernel⟩,
   ⟨due 0x0511, by decide +kernel⟩⟩
theorem wit_WeirRows_2 :
    (∃ (d : Desc) (s : State), Served weirCalibrateInfo d [0] s ∧ calOk (calBytes d.p) = true ∧ (calBytes d.p).vfloor < s.pwr.hub.target ∧ largestAllow (calBytes d.p) s.pwr.hub.target ≤ s.poolBytes) ∧
    (∃ (u : DueSet), u.op = 0x0512) ∧
    (∃ (d : Desc) (s : State), Served weirDebtClearInfo d [0] s) ∧
    (∃ (u : DueSet), u.op = 0x0513) :=
  ⟨⟨(dd weirCalibrateInfo 0 [(16, 100), (18, 10000), (20, 4999), (22, 70), (23, 250), (24, 1000), (26, 1000), (28, 25)] 0), (withCmd weirCalibrateInfo (dd weirCalibrateInfo 0 [(16, 100), (18, 10000), (20, 4999), (22, 70), (23, 250), (24, 1000), (26, 1000), (28, 25)] 0) (ready)), by unfold Served; decide +kernel⟩,
   ⟨due 0x0512, by decide +kernel⟩,
   ⟨(dd weirDebtClearInfo 0 [] 0), (withCmd weirDebtClearInfo (dd weirDebtClearInfo 0 [] 0) (ready)), by unfold Served; decide +kernel⟩,
   ⟨due 0x0513, by decide +kernel⟩⟩
theorem wit_AdmittedWritesStayWithinTheMillpond :
    ∃ (fp : Fin 23) (k : PClass) (n : Nat) (s : State), portClass fp = some k ∧ admits s fp n = true :=
  ⟨1, .mgmt, 1, ready.onWeir fun w => { w with millpond := 100 }, by decide +kernel⟩
theorem wit_WeirLevels :
    (∃ (count : Nat) (pond : Nat), 0 < pond ∧ count ≤ pond ∧ 90 * pond ≤ count * 100) ∧
    (∃ (count : Nat) (pond : Nat), 0 < pond ∧ count ≤ pond ∧ 70 * pond ≤ count * 100) ∧
    (∃ (count : Nat) (pond : Nat), 0 < pond ∧ count ≤ pond ∧ 45 * pond ≤ count * 100) :=
  ⟨⟨95, 100, by decide +kernel⟩,
   ⟨70, 100, by decide +kernel⟩,
   ⟨45, 100, by decide +kernel⟩⟩
theorem wit_SaveWork_1 :
    (∃ (s : State) (mv : _), s.boot.coreOut = true ∧ (s.glb.state = 1 ∨ s.glb.state = 2) ∧ s.slu.pending = none ∧ mv < s.slu.trip) ∧
    (∃ (s : State), s.boot.coreOut = true ∧ (s.glb.state = 1 ∨ s.glb.state = 2) ∧ s.slu.pending = none ∧ s.slu.pfail = false) ∧
    (∃ (c : Nat) (s : State), s.slu.pending = some c ∧ s.slu.phase = .idle ∧ s.glb.state ≠ 0 ∧ s.glb.state ≠ 3) ∧
    (∃ (a : Area) (s : State), s.slu.phase = .quiesce ∧ s.ret.writes = [] ∧ s.conf.resolving = 0 ∧ s.store.ready = some a) ∧
    (∃ (a : Area) (s : State), s.slu.phase = .log ∧ s.store.ready = some a) ∧
    (∃ (a : Area) (s : State), s.slu.phase = .sealing ∧ s.slu.sealLeft = 2 ∧ s.store.ready = some a) :=
  ⟨⟨ready, 899, by decide +kernel⟩,
   ⟨ready, by decide +kernel⟩,
   ⟨8, onSlu ready fun x => { x with pending := some 8 }, by decide +kernel⟩,
   ⟨area1, onStore (inPhase .quiesce ready) fun st => { st with ready := some area1 }, by decide +kernel⟩,
   ⟨area1, onStore (inPhase .log ready) fun st => { st with ready := some area1 }, by decide +kernel⟩,
   ⟨area1, onStore (onSlu (inPhase .sealing ready) fun x => { x with sealLeft := 2 }) fun st => { st with ready := some area1 }, by decide +kernel⟩⟩
theorem wit_SaveWork_2 :
    (∃ (s : State), (s.slu.phase = .quiesce ∨ s.slu.phase = .log ∨ s.slu.phase = .metadata ∨ s.slu.phase = .sealing)) ∧
    (∃ (s : State), s.slu.phase = .resuming) :=
  ⟨⟨inPhase .sealing ready, by decide +kernel⟩,
   ⟨inPhase .resuming ready, by decide +kernel⟩⟩
theorem wit_RestoreWork :
    (∃ (s : State) (k : _), s.boot.coreOut = true ∧ s.glb.state = 0 ∧ s.boot.stage = 8 ∧ s.conf.form = .formed ∧ foundStore (castVote 0 s) = .inr k) ∧
    (∃ (s : State) (st : _) (r : _), s.boot.coreOut = true ∧ s.glb.state = 0 ∧ s.boot.stage = 8 ∧ s.conf.form = .formed ∧ foundStore (castVote 0 s) = .inl st ∧ st.root = some r) ∧
    (∃ (s : State) (u : _) (old : _), s.glb.state = 0 ∧ s.boot.stage = 9 ∧ s.pwr.bankReady = true ∧ markersDurable s.store = true ∧ u = (if (areaReadied s).store.ready.isSome then areaReadied s else readyArea (areaReadied s)) ∧ u.store.ready.isSome = true ∧ old = ((u.store.unsealed.map fun a => stripeBlocks u.store.ncfg.planes a.stripe).getD [])) ∧
    (∃ (g : Nat) (s : State) (l : _), s.unbuilt g = true ∧ mwf Line.never s.ret.lines = true ∧ l ∉ presentLines s.store g) ∧
    (∃ (g : Nat) (s : State), s.slu.streaming = true ∧ (s.glb.state = 1 ∨ s.glb.state = 2) ∧ nextIn s = some g) :=
  ⟨⟨booting 8, 1, by decide +kernel⟩,
   ⟨anchored, { (castVote 0 anchored).store with root := some root0 }, root0, by decide +kernel⟩,
   ⟨(onStore { booting 9 with pwr := { ready.pwr with bankReady := true } } fun st => { st with ready := some area1 }), (areaReadied (onStore { booting 9 with pwr := { ready.pwr with bankReady := true } } fun st => { st with ready := some area1 })), [], by refine ⟨?_, ?_, ?_, ?_, rfl, ?_, ?_⟩ <;> decide +kernel⟩,
   ⟨0, onSlu ready fun x => { x with unbuilt := [0] }, 7, by decide +kernel⟩,
   ⟨3, onSlu ready fun x => { x with streaming := true, todo := [3] }, by decide +kernel⟩⟩
theorem wit_SaveAndRestoreCommands_1 :
    (∃ (d : Desc) (s : State), Served sluQueryInfo d [0] s) ∧
    (∃ (d : Desc) (s : State), Served sluConfigInfo d [0] s ∧ d.p 16 1 ≤ 1 ∧ d.p 17 1 ≤ 2 ∧ d.p 18 1 ≤ 1) ∧
    (∃ (u : DueSet), u.op = 0x0611) ∧
    (∃ (d : Desc) (s : State), Served sluDetectSetInfo d [0] s ∧ 100 ≤ d.p 16 2 ∧ d.p 16 2 + 20 ≤ d.p 18 2 ∧ d.p 18 2 ≤ 1200 ∧ 1 ≤ d.p 20 1 ∧ d.p 20 1 ≤ 15 ∧ d.p 21 1 ≤ 15 ∧ 1 ≤ d.p 22 2 ∧ d.p 22 2 ≤ 1000) ∧
    (∃ (u : DueSet), u.op = 0x0612) ∧
    (∃ (d : Desc) (s : State), Served sluSaveTestInfo d [0] s ∧ s.slu.streaming = false) :=
  ⟨⟨(dd sluQueryInfo 0 [] 0), (withCmd sluQueryInfo (dd sluQueryInfo 0 [] 0) (ready)), by unfold Served; decide +kernel⟩,
   ⟨(dd sluConfigInfo 0 [(16, 1), (17, 2), (18, 1)] 0), (withCmd sluConfigInfo (dd sluConfigInfo 0 [(16, 1), (17, 2), (18, 1)] 0) (ready)), by unfold Served; decide +kernel⟩,
   ⟨due 0x0611, by decide +kernel⟩,
   ⟨(dd sluDetectSetInfo 0 [(16, 1180), (18, 1200), (20, 15), (21, 15), (22, 1000)] 0), (withCmd sluDetectSetInfo (dd sluDetectSetInfo 0 [(16, 1180), (18, 1200), (20, 15), (21, 15), (22, 1000)] 0) (ready)), by unfold Served; decide +kernel⟩,
   ⟨due 0x0612, by decide +kernel⟩,
   ⟨(dd sluSaveTestInfo 0 [] 0), (withCmd sluSaveTestInfo (dd sluSaveTestInfo 0 [] 0) (ready)), by unfold Served; decide +kernel⟩⟩
theorem wit_SaveAndRestoreCommands_2 :
    (∃ (d : Desc) (s : State), Served sluShutdownInfo d [0] s ∧ s.slu.streaming = false) ∧
    (∃ (d : Desc) (s : State) (q : _), Served sluPrefetchInfo d [0] s ∧ 1 ≤ d.p 20 4 ∧ d.p 20 4 ≤ 65536 ∧ (runOf (d.p 16 4) (d.p 20 4)).all s.segExists = true ∧ s.slu.restoreDone = false ∧ q = (runOf (d.p 16 4) (d.p 20 4)).filter (fun g => s.slu.todo.contains g) ∧ q ≠ []) ∧
    (∃ (d : Desc) (s : State), Served glbDeviceResetInfo d [0] s) :=
  ⟨⟨(dd sluShutdownInfo 0 [] 0), (withCmd sluShutdownInfo (dd sluShutdownInfo 0 [] 0) (ready)), by unfold Served; decide +kernel⟩,
   ⟨(dd sluPrefetchInfo 0 [(16, 3), (20, 2)] 0), (withCmd sluPrefetchInfo (dd sluPrefetchInfo 0 [(16, 3), (20, 2)] 0) (onSlu ready fun x => { x with todo := [3] })), [3], by unfold Served; decide +kernel⟩,
   ⟨(dd glbDeviceResetInfo 0 [(16, 0x54455352)] 0), (withCmd glbDeviceResetInfo (dd glbDeviceResetInfo 0 [(16, 0x54455352)] 0) (ready)), by unfold Served; decide +kernel⟩⟩
theorem wit_T0AbandonsEveryOpenEpoch :
    ∃ (k : Nat) (s : State), s.conf.chips = 1 ∧ (∀ p, (linkOf s (.conf p)).hold = []) ∧ s.slu.pending = some k ∧ s.slu.phase = .idle ∧ s.glb.state ≠ 0 ∧ s.glb.state ≠ 3 :=
  ⟨1, onSlu ready fun x => { x with pending := some 1 }, by decide +kernel⟩
theorem wit_OutcomesAndPolicies_1 :
    (∃ (s : State), s.slu.cause = 6) ∧
    (∃ (s : State), (s.slu.cause = 7 ∨ s.slu.cause = 8)) ∧
    (∃ (s : State), (s.slu.cause = 1 ∨ s.slu.cause = 2 ∨ s.slu.cause = 3 ∨ s.slu.cause = 4 ∨ s.slu.cause = 5) ∧ saveOutcome s ≠ 1) ∧
    (∃ (g : Nat) (e : Seg) (s : State), ckptsLost s.store = false ∧ s.store.unsealed = none ∧ inAnyBank s g = false ∧ e.cls = .epoch) ∧
    (∃ (g : Nat) (e : Seg) (s : State), ckptsLost s.store = false ∧ s.store.unsealed = none ∧ inAnyBank s g = false ∧ e.cls = .latest) ∧
    (∃ (g : Nat) (e : Seg) (s : State), (e.cls = .constant ∨ e.cls = .volatile ∨ inAnyBank s g = true)) :=
  ⟨⟨onSlu ready fun x => { x with cause := 6 }, by decide +kernel⟩,
   ⟨onSlu ready fun x => { x with cause := 8 }, by decide +kernel⟩,
   ⟨onSlu ready fun x => { x with cause := 5 }, by decide +kernel⟩,
   ⟨0, { Seg.new with cls := .epoch }, ready, by decide +kernel⟩,
   ⟨0, { Seg.new with cls := .latest }, ready, by decide +kernel⟩,
   ⟨0, { Seg.new with cls := .constant }, ready, by decide +kernel⟩⟩
theorem wit_OutcomesAndPolicies_2 :
    ∃ (g : Nat) (e : Seg) (s : State), s.store.unsealed.isSome = true ∧ ckptsLost s.store = false ∧ inAnyBank s g = false ∧ (e.cls = .epoch ∨ e.cls = .latest) :=
  ⟨0, { Seg.new with cls := .latest }, onStore ready fun st => { st with unsealed := some area1 }, by decide +kernel⟩
theorem wit_StoreWork_1 :
    (∃ (c : Fin 16) (op : NOp) (s : State), s.glb.state ≠ 3 ∧ s.life[nstLife c].life = .running ∧ nextOp (s.store.ops.filter (·.ch = c)) = some op ∧ op.kind = .erase ∧ op.use ≠ .boot ∧ mwf Blk.fresh s.store.blocks = true ∧ blkErases s.store op.ppa (blkAt s.store op.ppa) + 1 < 2 * s.store.ncfg.cycles) ∧
    (∃ (c : Fin 16) (j : Nat) (op : NOp) (s : State), s.glb.state ≠ 3 ∧ s.life[nstLife c].life = .running ∧ nextOp (s.store.ops.filter (·.ch = c)) = some op ∧ op.kind = .program ∧ op.use = .journal j) ∧
    (∃ (c : Fin 16) (s : State), s.glb.state ≠ 3 ∧ s.store.ops.any (·.ch = c) = true) ∧
    (∃ (c : Fin 16) (s : State), s.glb.state ≠ 3 ∧ s.life[nstLife c].life = .faulted ∧ s.store.ch[c].restarts < 3) ∧
    (∃ (s : State), nandOpen s = true ∧ s.store.filling ≠ [] ∧ canJournal s = true) ∧
    (∃ (l : Nat) (s : State), seepRuns s = true ∧ pickClean s = some l ∧ (emergency s = true ∨ 272 ≤ s.ret.weir.bucket)) :=
  ⟨⟨0, ⟨0, .erase, .other, 2 ^ 20 * 20, 0⟩, withOp .erase .other (withLun ready), by decide +kernel⟩,
   ⟨0, 0, ⟨0, .program, .journal 0, 2 ^ 20 * 20, 0⟩, journalled false (withOp .program (.journal 0) (withLun ready)), by decide +kernel⟩,
   ⟨0, withOp .read .other (withLun ready), by decide +kernel⟩,
   ⟨0, inLife 0 .faulted ready, by decide +kernel⟩,
   ⟨onStore (withLun ready) fun st => { st with filling := [.line rec5 (some 3)] }, by decide +kernel⟩,
   ⟨5, dramOn <| segIn .latest (line5 .dirty ((rooted ready).onWeir fun w => { w with level := 3 })), by decide +kernel⟩⟩
theorem wit_StoreWork_2 :
    (∃ (g : Nat) (s : State), seepRuns s = true ∧ mergeDue s g = true) ∧
    (∃ (s : State), seepRuns s = true ∧ checkpointDue s = true) ∧
    (∃ (s : State), seepRuns s = true ∧ s.store.ready = none ∧ s.store.readying = none ∧ s.store.sealed.length < 16 ∧ s.store.nextArea.isSome = true) ∧
    (∃ (s : State), nandOpen s = true ∧ s.store.root.isSome = true ∧ s.store.ncfg.ppb ≤ s.store.ring.index) ∧
    (∃ (s : State), nandOpen s = true ∧ s.store.ring.index < s.store.ncfg.ppb) ∧
    (∃ (lun : Nat) (im : Image) (s : State) (hi : _) (lo : _), seepRuns s = true ∧ imageOf s.store im.seg = some im ∧ hi = ((lunBlocks s.store lun).map fun k => (blkAt s.store k).erases).foldl max 0 ∧ lo = ((lunBlocks s.store lun).map fun k => (blkAt s.store k).erases).foldl min hi ∧ 2000 < hi - lo ∧ s.store.images.find? (fun im => (im.map :: im.pages).any fun p => decide ((blkAt s.store (blockOf p)).erases = lo) && decide (p % 128 = lun)) = some im) :=
  ⟨⟨0, journalled true (withLun (segIn .latest ready)), by decide +kernel⟩,
   ⟨onStore (withLun ready) fun st => { st with ckptDue := true }, by decide +kernel⟩,
   ⟨onStore (withLun ready) fun st => { st with nextArea := some area1 }, by decide +kernel⟩,
   ⟨onStore (rooted ready) fun st => { st with ring := { st.ring with index := st.ncfg.ppb } }, by decide +kernel⟩,
   ⟨onStore (rooted ready) fun st => { st with ring := { st.ring with index := 3 } }, by decide +kernel⟩,
   ⟨0, ⟨0, ⟨0, 0, 0⟩, 2 ^ 20 * 21, [], []⟩, onStore (withLun ready) fun st => { st with blocks := [(2 ^ 20 * 20, { Blk.fresh with erases := 3000 })], images := [⟨0, ⟨0, 0, 0⟩, 2 ^ 20 * 21, [], []⟩] }, 3000, 0, by decide +kernel⟩⟩
theorem wit_StoreWork_3 :
    (∃ (l : Nat) (s : State), seepRuns s = true ∧ s.store.auditing = true ∧ (auditable s).find? (s.store.auditLine ≤ ·) = some l) ∧
    (∃ (p : Nat) (es : List Nat) (s : State), seepRuns s = true ∧ s.store.auditing = true ∧ (auditPages s).find? (s.store.auditPage ≤ ·) = some p ∧ (∀ e ∈ es, e ≤ 60 ∧ e < s.store.refreshBits)) :=
  ⟨⟨5, segIn .latest (line5 .dirty (onStore (rooted ready) fun st => { st with auditing := true })), by decide +kernel⟩,
   ⟨256, [0, 5], onStore (withLun ready) fun st => { st with auditing := true, auditPage := 256, ring := { st.ring with a := 256, b := 512, index := 1 } }, by decide +kernel⟩⟩
theorem wit_StoreCommands :
    (∃ (d : Desc) (n : Nat) (s : State), Served nstQueryInfo d [n] s) ∧
    (∃ (d : Desc) (n : Nat) (s : State), Served nstEvacuateInfo d [n] s ∧ s.lifeOf .nst n = .running ∧ need s ≤ bytesWithout s [n] / 2 ^ 30) ∧
    (∃ (d : Desc) (s : State), Served seepConfigInfo d [0] s ∧ seepOk d = true) ∧
    (∃ (u : DueSet), u.op = 0x0720) ∧
    (∃ (d : Desc) (s : State), Served seepAuditStartInfo d [0] s) ∧
    (∃ (d : Desc) (s : State) (s1 : _) (s3 : _) (t : _), Served nstFormatInfo d [0] s ∧ s.retainedSegs = 0 ∧ s1 = formatWear (onStore s (formatted (tableReads s))) ∧ s3 = checkCapacity (onStore s1 fun st => { st with formatGood := (allLuns s1).map fun l => (l, goodBlocks st l) }) ∧ t = readyArea (writeRootWith (some (ringPages (bbtContent s3) s3).1) (ringPages (bbtContent s3) s3).2) ∧ t.store.ring.a ≠ 0) :=
  ⟨⟨(dd nstQueryInfo 15 [] 0), 15, (withCmd nstQueryInfo (dd nstQueryInfo 15 [] 0) (ready)), by unfold Served; decide +kernel⟩,
   ⟨(dd nstEvacuateInfo 0 [] 0), 0, (withCmd nstEvacuateInfo (dd nstEvacuateInfo 0 [] 0) (onStore (withLun ready) fun st => { st with ncfg := { st.ncfg with blocks := 16384 } })), by unfold Served; decide +kernel⟩,
   ⟨(dd seepConfigInfo 0 [(16, 2), (17, 10), (18, 168), (19, 56), (20, 2000), (22, 32)] 0), (withCmd seepConfigInfo (dd seepConfigInfo 0 [(16, 2), (17, 10), (18, 168), (19, 56), (20, 2000), (22, 32)] 0) (ready)), by unfold Served; decide +kernel⟩,
   ⟨due 0x0720, by decide +kernel⟩,
   ⟨(dd seepAuditStartInfo 0 [] 0), (withCmd seepAuditStartInfo (dd seepAuditStartInfo 0 [] 0) (ready)), by unfold Served; decide +kernel⟩,
   ⟨formatD, formatS, format1, format3, formatT, by refine ⟨?_, ?_, ?_, ?_, rfl, ?_⟩ <;> (try unfold Served) <;> decide +kernel⟩⟩
theorem wit_NewestDurableValue :
    ∃ (st : Store) (line : Nat) (y : _), durableOf st line = some y :=
  ⟨(journalled true ready).store, 5, ⟨⟨1, 0, 0⟩, rec5, 0, 0⟩, by decide +kernel⟩
theorem wit_CleansCompleteOnlyForTheValueRead_1 :
    (∃ (r : Rec) (n : Nat) (s : State), mwf Line.never s.ret.lines = true ∧ (s.lineSeg r.line).cls = .epoch ∧ s.eff r.line = (.committed, false) ∧ (s.lineAt r.line).serial ≠ n) ∧
    (∃ (r : Rec) (n : Nat) (s : State), mwf Line.never s.ret.lines = true ∧ (s.lineSeg r.line).cls = .epoch ∧ s.eff r.line = (.committed, false) ∧ (s.lineAt r.line).serial = n) ∧
    (∃ (r : Rec) (n : Nat) (s : State), mwf Line.never s.ret.lines = true ∧ (s.lineSeg r.line).cls = .latest ∧ (s.lineAt r.line).state = .dirty ∧ (s.lineAt r.line).serial = n) ∧
    (∃ (r : Rec) (n : Nat) (s : State), mwf Line.never s.ret.lines = true ∧ (s.lineSeg r.line).cls = .latest ∧ (s.lineAt r.line).state = .dirty ∧ (s.lineAt r.line).serial ≠ n) ∧
    (∃ (r : Rec) (n : Nat) (s : State), mwf Line.never s.ret.lines = true ∧ (s.lineSeg r.line).cls = .epoch ∧ s.eff r.line = (.openOver, false) ∧ (s.lineAt r.line).base = n) ∧
    (∃ (r : Rec) (n : Nat) (s : State), mwf Line.never s.ret.lines = true ∧ (s.lineSeg r.line).cls = .epoch ∧ s.eff r.line = (.openOver, false) ∧ (s.lineAt r.line).base ≠ n) :=
  ⟨⟨rec5, 2, segIn .epoch (line5 .committed ready), by decide +kernel⟩,
   ⟨rec5, 3, segIn .epoch (line5 .committed ready), by decide +kernel⟩,
   ⟨rec5, 3, segIn .latest (line5 .dirty ready), by decide +kernel⟩,
   ⟨rec5, 2, segIn .latest (line5 .dirty ready), by decide +kernel⟩,
   ⟨rec5, 2, segIn .epoch (line5 .openOver ready), by decide +kernel⟩,
   ⟨rec5, 3, segIn .epoch (line5 .openOver ready), by decide +kernel⟩⟩
theorem wit_CleansCompleteOnlyForTheValueRead_2 :
    ∃ (r : Rec) (s : State) (l : _), mwf Line.never s.ret.lines = true ∧ l ≠ r.line :=
  ⟨rec5, ready, 6, by decide +kernel⟩
theorem wit_ScanServices_1 :
    (∃ (d : Desc) (s : State), Served scanConfigInfo d [0] s ∧ s.lifeOf .scan 0 = .stopped) ∧
    (∃ (u : DueSet), u.op = 0x0810) ∧
    (∃ (d : Desc) (s : State), Served scanQueryInfo d [0] s) ∧
    (∃ (d : Desc) (s : State), Served scanLayoutCheckInfo d [0] s ∧ d.p 22 1 < 16 ∧ d.p 20 2 ≤ 4095 ∧ sealedBank s (d.p 16 4) (d.p 20 2) = false) ∧
    (∃ (d : Desc) (s : State) (r : _) (t : _), Served scanLayoutCheckInfo d [0] s ∧ d.p 22 1 < 16 ∧ d.p 20 2 ≤ 4095 ∧ layoutReason (fin16 (d.p 22 1)) (d.p 16 4) (d.p 20 2) (d.bit 23 0) s = (some r, t)) ∧
    (∃ (d : Desc) (s : State) (t : _), Served scanLayoutCheckInfo d [0] s ∧ d.p 22 1 < 16 ∧ d.p 20 2 ≤ 4095 ∧ layoutReason (fin16 (d.p 22 1)) (d.p 16 4) (d.p 20 2) (d.bit 23 0) s = (none, t)) :=
  ⟨⟨(dd scanConfigInfo 0 [(16, 65535), (18, 65535)] 0), (withCmd scanConfigInfo (dd scanConfigInfo 0 [(16, 65535), (18, 65535)] 0) (inLife 16 .stopped ready)), by unfold Served; decide +kernel⟩,
   ⟨due 0x0810, by decide +kernel⟩,
   ⟨(dd scanQueryInfo 0 [] 0), (withCmd scanQueryInfo (dd scanQueryInfo 0 [] 0) (ready)), by unfold Served; decide +kernel⟩,
   ⟨(dd scanLayoutCheckInfo 0 [(16, 2), (20, 1), (22, 15)] 0), (withCmd scanLayoutCheckInfo (dd scanLayoutCheckInfo 0 [(16, 2), (20, 1), (22, 15)] 0) (ready)), by unfold Served; decide +kernel⟩,
   ⟨(dd scanLayoutCheckInfo 0 [(16, 2), (20, 1), (22, 15)] 0), (withCmd scanLayoutCheckInfo (dd scanLayoutCheckInfo 0 [(16, 2), (20, 1), (22, 15)] 0) (ready)), 1, (withCmd scanLayoutCheckInfo (dd scanLayoutCheckInfo 0 [(16, 2), (20, 1), (22, 15)] 0) (ready)), by unfold Served; decide +kernel⟩,
   ⟨checkD, checkS, bankIn 1 0 4096 checkS, by rw [show checkD.p 16 4 = 1 by decide +kernel, show checkD.p 20 2 = 1 by decide +kernel, show checkD.p 22 1 = 15 by decide +kernel, show checkD.bit 23 0 = false by decide +kernel]; refine ⟨?_, ?_, ?_, checkS_reason⟩ <;> (try unfold Served) <;> decide +kernel⟩⟩
theorem wit_ScanServices_2 :
    (∃ (d : Desc) (n : Nat) (y : Layout) (cs : List Carry) (s : State) (t : _) (u : _), Served ctxSwapInfo d [n] s ∧ 1 ≤ d.p 20 2 ∧ d.p 20 2 ≤ 4095 ∧ d.p 16 4 < 2 ^ 17 ∧ s.mir.role ≠ .standby ∧ actsHome s (fin16 n) = true ∧ (s.ctxAt (fin16 n)).mode ≠ .closing ∧ (s.ctxAt (fin16 n)).mode ≠ .abandoned ∧ scanRunning s = true ∧ sealedBank s (d.p 16 4) (d.p 20 2) = true ∧ s.scan.ctx[fin16 n].swap = none ∧ t = bankIn (d.p 16 4) 0 4096 s ∧ readLayout t (fin16 n) (d.p 16 4) (d.p 20 2) = .inl y ∧ u = bankIn (d.p 16 4) y.tinitOff (16 * y.timerCount) (bankIn (d.p 16 4) y.carryOff (16 * y.carryCount) t) ∧ swapCarry u u.scan.ctx[fin16 n] y = .inl cs) ∧
    (∃ (p : Pass) (rest : List Pass) (s : State), s.scan.running = none ∧ s.scan.queue = p :: rest ∧ p.todo ≠ []) ∧
    (∃ (p : Pass) (v : Visit) (s : State), s.scan.running = some p ∧ p.pend = none ∧ pickVisit s p.layout p.todo = some v) ∧
    (∃ (p : Pass) (v : Visit) (ls : List NewLine) (s : State), s.scan.running = some p ∧ p.pend = some (v, ls)) ∧
    (∃ (p : Pass) (s : State), s.scan.running = some p ∧ p.pend = none ∧ p.todo = []) :=
  ⟨⟨swapD, 15, layout1, [], swapS, bankIn 1 0 4096 swapS, bankIn 1 0 0 (bankIn 1 0 0 (bankIn 1 0 4096 swapS)), by rw [show swapD.p 16 4 = 1 by decide +kernel, show swapD.p 20 2 = 1 by decide +kernel]; refine ⟨?_, ?_, ?_, ?_, ?_, ?_, ?_, ?_, ?_, ?_, ?_, rfl, swapS_reads, rfl, ?_⟩ <;> (try unfold Served) <;> decide +kernel⟩,
   ⟨pass15 [.edge 0 0], [], onScan ready fun x => { x with queue := [pass15 [.edge 0 0]] }, by decide +kernel⟩,
   ⟨pass15 [.edge 0 0], .edge 0 0, scanning [.edge 0 0] ready, by decide +kernel⟩,
   ⟨passPend, .edge 0 0, [(768, [1], 0)], onScan ready fun x => { x with running := some passPend }, by decide +kernel⟩,
   ⟨pass15 [], scanning [] ready, by decide +kernel⟩⟩
theorem wit_EdgePlanesMarkChanges :
    ∃ (p : Pass) (pl : Plane) (n : Nat) (src : List Byte) (prev : List Byte) (dirt : BitVec 4) (s : State), p.swap = none ∧ passValue s (localLine pl.src n) = (src, dirt) ∧ (s.lineValue (localLine pl.prev n)).1 = prev ∧ src.length = 256 ∧ prev.length = 256 :=
  ⟨pass15 [], plane1, 0, rep 256 0, rep 256 0, 0, ready, by decide +kernel⟩
theorem wit_TimerCells_1 :
    (∃ (c : Cell), c.type = 1 ∧ c.inp = false) ∧
    (∃ (c : Cell), c.type = 1 ∧ c.inp = true) ∧
    (∃ (c : Cell), c.type = 2 ∧ c.inp = true) ∧
    (∃ (c : Cell), c.type = 2 ∧ c.inp = false ∧ c.last = true) ∧
    (∃ (c : Cell), c.type = 3 ∧ c.reset = true) ∧
    (∃ (c : Cell), c.type = 3 ∧ c.reset = false ∧ (c.inp = false ∨ c.last = false)) :=
  ⟨⟨cell 1 false false true true, by decide +kernel⟩,
   ⟨cell 1 true false true true, by decide +kernel⟩,
   ⟨cell 2 true false true false, by decide +kernel⟩,
   ⟨cell 2 false false true true, by decide +kernel⟩,
   ⟨cell 3 true true true false, by decide +kernel⟩,
   ⟨cell 3 true false true false, by decide +kernel⟩⟩
theorem wit_TimerCells_2 :
    (∃ (c : Cell), c.type = 4 ∧ c.tt = true) ∧
    (∃ (c : Cell), c.acc ≤ c.preset) :=
  ⟨⟨cell 4 false false true true, by decide +kernel⟩,
   ⟨cell 1 true false true true, by decide +kernel⟩⟩
theorem wit_DramCommands_1 :
    (∃ (d : Desc) (n : Nat) (s : State), Served dchQueryInfo d [n] s) ∧
    (∃ (d : Desc) (n : Nat) (s : State), Served dchConfigInfo d [n] s ∧ s.lifeOf .dch n = .stopped ∧ 100 ≤ d.p 18 2 ∧ d.p 18 2 ≤ 8000 ∧ timOk d s.dch[0].density = true) ∧
    (∃ (u : DueSet) (n : Nat), u.op = 0x0911 ∧ u.ts = [n]) ∧
    (∃ (u : DueSet), (u.op = 0x0912 ∨ u.op = 0x0913)) ∧
    (∃ (d : Desc) (s : State), Served dchPopSetInfo d [0] s ∧ 1 ≤ d.p 16 1 ∧ d.p 16 1 ≤ 3 ∧ d.p 19 1 < d.p 16 1 ∧ (d.bit 18 0 = true → d.p 16 1 ≠ 1)) ∧
    (∃ (d : Desc) (s : State) (rows : _), Served dchMapSetInfo d [0] s ∧ rows = (if s.dch[0].density then 17 else 16) ∧ bankMaskOk (d.p 24 4) 0 rows = true ∧ bankMaskOk (d.p 28 4) 1 rows = true ∧ bankMaskOk (d.p 32 4) 2 rows = true ∧ bankMaskOk (d.p 36 4) 3 rows = true) :=
  ⟨⟨(dd dchQueryInfo 3 [] 0), 3, (withCmd dchQueryInfo (dd dchQueryInfo 3 [] 0) (ready)), by unfold Served; decide +kernel⟩,
   ⟨(dd dchConfigInfo 3 [(18, 100), (20, 0x14141014), (24, 0x18228434), (28, 0x03708CC4)] 0), 3, (withCmd dchConfigInfo (dd dchConfigInfo 3 [(18, 100), (20, 0x14141014), (24, 0x18228434), (28, 0x03708CC4)] 0) (inLife 20 .stopped ready)), by unfold Served; decide +kernel⟩,
   ⟨{ due 0x0911 with ts := [3] }, 3, by decide +kernel⟩,
   ⟨due 0x0913, by decide +kernel⟩,
   ⟨(dd dchPopSetInfo 0 [(16, 3), (18, 1), (19, 2)] 0), (withCmd dchPopSetInfo (dd dchPopSetInfo 0 [(16, 3), (18, 1), (19, 2)] 0) (svcOn ready)), by unfold Served; decide +kernel⟩,
   ⟨(dd dchMapSetInfo 0 [(24, 0x71), (28, 2), (32, 4), (36, 8)] 0), (withCmd dchMapSetInfo (dd dchMapSetInfo 0 [(24, 0x71), (28, 2), (32, 4), (36, 8)] 0) (svcOn ready)), 16, by unfold Served; decide +kernel⟩⟩
theorem wit_DramCommands_2 :
    (∃ (d : Desc) (n : Nat) (sp : Nat) (s : State), Served dchRankRetireInfo d [n] s ∧ d.p 16 1 < s.dch[0].ranks ∧ s.lifeOf .dch n = .running ∧ s.dch[Fin.ofNat 4 n].mig = none ∧ spareOf s.dch[Fin.ofNat 4 n] = some sp ∧ s.dch[Fin.ofNat 4 n].rank[Fin.ofNat 3 (d.p 16 1)] = .inService) ∧
    (∃ (d : Desc) (s : State), Served fabPortSetInfo d [0] s ∧ d.p 16 1 ≤ 22 ∧ 100 ≤ d.p 18 2 ∧ (isRealTime (Fin.ofNat 23 (d.p 16 1)) = true → d.p 21 1 < d.p 20 1 ∧ d.p 20 1 ≤ 100)) ∧
    (∃ (u : DueSet) (p : Fin 23), u.op = 0x0915 ∧ u.desc.p 16 1 = p.val) ∧
    (∃ (d : Desc) (s : State), Served fabQueryInfo d [0] s ∧ d.p 16 1 ≤ 22) :=
  ⟨⟨(dd dchRankRetireInfo 3 [] 0), 3, 1, (withCmd dchRankRetireInfo (dd dchRankRetireInfo 3 [] 0) (withSpare ready)), by unfold Served; decide +kernel⟩,
   ⟨(dd fabPortSetInfo 0 [(16, 2), (18, 100), (20, 100), (21, 99)] 0), (withCmd fabPortSetInfo (dd fabPortSetInfo 0 [(16, 2), (18, 100), (20, 100), (21, 99)] 0) (ready)), by unfold Served; decide +kernel⟩,
   ⟨{ due 0x0915 with desc := dd fabPortSetInfo 0 [(16, 22)] 0 }, 22, by decide +kernel⟩,
   ⟨(dd fabQueryInfo 0 [(16, 22)] 0), (withCmd fabQueryInfo (dd fabQueryInfo 0 [(16, 22)] 0) (ready)), by unfold Served; decide +kernel⟩⟩
theorem wit_DramWork_1 :
    (∃ (c : Fin 4) (s : State) (r : _), dchServing s c = true ∧ [0, 1, 2].find? (fun r => s.dch[c].postponed[Fin.ofNat 3 r] ≥ 8) = some r) ∧
    (∃ (c : Fin 4) (s : State) (r : _), dchServing s c = true ∧ [0, 1, 2].find? (fun r => s.dch[c].postponed[Fin.ofNat 3 r] ≥ 8) = none ∧ best (slotKey s c) (candidates s c) none = some r ∧ (s.dch[c].hitStreak < 16 ∨ rowHit s c r = false)) ∧
    (∃ (c : Fin 4) (s : State), dchServing s c = true ∧ [0, 1, 2].find? (fun r => s.dch[c].postponed[Fin.ofNat 3 r] > 0 ∧ rankIdle s c r) = none ∧ candidates s c = [] ∧ [0, 1, 2].find? (fun r => s.dch[c].postponed[Fin.ofNat 3 r] ≥ 8) = none) ∧
    (∃ (c : Fin 4) (id : Nat) (n : Nat) (ue : BitVec 8) (r : DReq) (s1 : State) (s2 : State) (s3 : State) (s : State), s.dch[c].reqs.find? (fun r => r.id = id ∧ r.issued) = some r ∧ s1 = onDch s c (fun d => { d with retries := d.retries.filter (·.1 ≠ id) }) ∧ s2 = (if r.write then writeDone c r s1 else readDone c r n ue s1) ∧ (s3 = (if r.write ∨ r.merge ∨ r.rank.isSome then s2 else noteLatency r s2))) ∧
    (∃ (c : Fin 4) (r : Fin 3) (s : State), s.dch[c].rank[r] ≠ .absent ∧ s.dch[c].selfRef = false ∧ s.dch[c].trained = true) ∧
    (∃ (c : Fin 4) (s : State), dchServing s c = true ∧ s.dch[c].refMode = 0) :=
  ⟨⟨3, onDch (dramOn ready) 3 fun d => { d with postponed := #v[0, 8, 0] }, 1, by decide +kernel⟩,
   ⟨3, onDch (dramOn ready) 3 fun d => { d with reqs := [req1] }, req1, by decide +kernel⟩,
   ⟨3, dramOn ready, by decide +kernel⟩,
   ⟨3, 1, 0, 0, { req1 with issued := true }, done1.1, done1.2.1, done1.2.2, onDch (dramOn ready) 3 fun d => { d with reqs := [{ req1 with issued := true }] }, by refine ⟨?_, ?_, rfl, ?_⟩ <;> decide +kernel⟩,
   ⟨3, 0, withSpare ready, by decide +kernel⟩,
   ⟨3, dramOn ready, by decide +kernel⟩⟩
theorem wit_DramWork_2 :
    (∃ (c : Fin 4) (w : Bool) (s : State), dchServing s c = true ∧ w = true ∧ s.dch[c].wcrc = false) ∧
    (∃ (c : Fin 4) (id : Nat) (w : Bool) (s : State), dchServing s c = true ∧ (w = true → s.dch[c].wcrc = true) ∧ retriesOf s.dch[c] id w < 3) ∧
    (∃ (c : Fin 4) (id : Nat) (w : Bool) (s : State), dchServing s c = true ∧ (w = true → s.dch[c].wcrc = true) ∧ 3 ≤ retriesOf s.dch[c] id w) ∧
    (∃ (c : Fin 4) (s : State), s.life[dchLife c].life = .faulted ∧ s.dch[c].dead = false ∧ s.dch[c].restarts < 2) ∧
    (∃ (c : Fin 4) (s : State) (t : _), s.life[dchLife c].life = .faulted ∧ s.dch[c].dead = false ∧ s.dch[c].restarts < 3 ∧ t = ((setFault (dchLife c) 0 (loseChannel c (unflight (flightIn s.dch[c]) (onDch s c fun d => { d with restarts := d.restarts + 1 })))).toLife (dchLife c) .stopped).toLife (dchLife c) .running) ∧
    (∃ (c : Fin 4) (m : Migration) (l : Nat) (s : State), s.dch[c].mig = some m ∧ s.slu.phase = .idle ∧ dchRunning s c = true ∧ s.ldg.jobs.any (·.id = m.job) = false ∧ migStalled s.dch[c] l = false ∧ m.ptr + 1 < rankLines s.dch[c] ∧ (m.ptr + 1) % (rankLines s.dch[c] / 4) ≠ 0 ∧ l = lineAtPlace s c ((rankOrder s.dch[c]).idxOf m.rank * rankLines s.dch[c] + m.ptr) ∧ l < reserveFirst s ∧ l < segLine s.usable ∧ ((s.eff l).1 = .never ∨ (s.eff l).1 = .unrestored)) :=
  ⟨⟨3, true, dramOn ready, by decide +kernel⟩,
   ⟨3, 7, false, onDch (dramOn ready) 3 fun d => { d with retries := [(7, false, 2)] }, by decide +kernel⟩,
   ⟨3, 7, false, onDch (dramOn ready) 3 fun d => { d with retries := [(7, false, 3)] }, by decide +kernel⟩,
   ⟨3, onDch (inLife 20 .faulted ready) 3 fun d => { d with restarts := 1 }, by decide +kernel⟩,
   ⟨3, faulted3, back3, by refine ⟨?_, ?_, ?_, rfl⟩ <;> decide +kernel⟩,
   ⟨3, ⟨0, 1, 7, 4, 0, 0, 0, 9⟩, 31, onDch (withSpare ready) 3 fun d => { d with mig := some ⟨0, 1, 7, 4, 0, 0, 0, 9⟩, rank := #v[.migrating, .spare, .absent] }, by decide +kernel⟩⟩
theorem wit_DramWork_3 :
    ∃ (p : Fin 23) (n : Nat) (s : State), isRealTime p = true ∧ s.fab.port[p].panic = false ∧ s.fab.port[p].panicHi ≤ n :=
  ⟨2, 60, onFab ready fun f => { f with port := vmod f.port 2 fun x => { x with panicHi := 60 } }, by decide +kernel⟩
theorem wit_TribCommands_1 :
    (∃ (d : Desc) (n : Nat) (s : State), Served tribConfigInfo d [n] s ∧ tribConfigOk d = true ∧ s.lifeOf .trib n = .stopped) ∧
    (∃ (u : DueSet) (n : Nat) (s : State) (t : State), u.op = 0x0B10 ∧ u.ts = [n] ∧ (t = onTrib s (Fin.ofNat 12 n) (fun x => { x with cfg := tribSettings u.desc.p, mods := if (tribSettings u.desc.p).inBase ≠ x.cfg.inBase ∨ (tribSettings u.desc.p).inStride ≠ x.cfg.inStride then x.mods.map (fun m => { m with seq := 0 }) else x.mods }))) ∧
    (∃ (d : Desc) (n : Nat) (s : State), Served tribModSetInfo d [n] s ∧ modAddrOk d s = true ∧ s.lifeOf .trib (Fin.ofNat 12 n).val = .stopped) ∧
    (∃ (u : DueSet), u.op = 0x0B11) ∧
    (∃ (d : Desc) (n : Nat) (s : State) (t : _), Served tribModEnableInfo d [n] s ∧ modAddrOk d s = true ∧ tribRuns s (Fin.ofNat 12 n) = true ∧ t = enableMod (Fin.ofNat 12 n) (Fin.ofNat 255 (d.p 16 1)) (d.bit 17 0) s) ∧
    (∃ (d : Desc) (n : Nat) (s : State), Served tribRollcallInfo d [n] s ∧ tribRuns s (Fin.ofNat 12 n) = true ∧ isLegacy (tribAt s (Fin.ofNat 12 n)) = false ∧ (tribAt s (Fin.ofNat 12 n)).token = true ∧ (tribAt s (Fin.ofNat 12 n)).rollOpen = false) :=
  ⟨⟨(dd tribConfigInfo 11 [(19, 7), (20, 50), (22, 1), (24, 50), (28, 10), (29, 1), (32, 1), (33, 0x23), (34, 1)] 0), 11, (withCmd tribConfigInfo (dd tribConfigInfo 11 [(19, 7), (20, 50), (22, 1), (24, 50), (28, 10), (29, 1), (32, 1), (33, 0x23), (34, 1)] 0) (inLife 32 .stopped ready)), by unfold Served; decide +kernel⟩,
   ⟨{ due 0x0B10 with ts := [11] }, 11, ready, setTribCfg 11 (due 0x0B10).desc ready, by refine ⟨?_, ?_, rfl⟩ <;> decide +kernel⟩,
   ⟨(dd tribModSetInfo 11 [(16, 62)] 0), 11, (withCmd tribModSetInfo (dd tribModSetInfo 11 [(16, 62)] 0) (inLife 32 .stopped ready)), by unfold Served; decide +kernel⟩,
   ⟨due 0x0B11, by decide +kernel⟩,
   ⟨(dd tribModEnableInfo 11 [(16, 62), (17, 1)] 0), 11, (withCmd tribModEnableInfo (dd tribModEnableInfo 11 [(16, 62), (17, 1)] 0) (port11 id ready)), enableMod 11 62 true (withCmd tribModEnableInfo (dd tribModEnableInfo 11 [(16, 62), (17, 1)] 0) (port11 id ready)), by refine ⟨?_, ?_, ?_, rfl⟩ <;> (try unfold Served) <;> decide +kernel⟩,
   ⟨(dd tribRollcallInfo 11 [] 0), 11, (withCmd tribRollcallInfo (dd tribRollcallInfo 11 [] 0) (port11 id ready)), by unfold Served; decide +kernel⟩⟩
theorem wit_TribCommands_2 :
    (∃ (d : Desc) (n : Nat) (s : State), Served tribRollcallInfo d [n] s ∧ tribRuns s (Fin.ofNat 12 n) = true ∧ isLegacy (tribAt s (Fin.ofNat 12 n)) = false ∧ (tribAt s (Fin.ofNat 12 n)).token = true ∧ (tribAt s (Fin.ofNat 12 n)).rollOpen = true) ∧
    (∃ (d : Desc) (n : Nat) (s : State) (i : _), Served tribModQueryInfo d [n] s ∧ addrOk s.trib[Fin.ofNat 12 n] (d.p 16 1) = true ∧ i = (s.trib[Fin.ofNat 12 n].mods[Fin.ofNat 255 (d.p 16 1)].ident).getD 0) ∧
    (∃ (d : Desc) (n : Nat) (s : State), Served tribMdioInfo d [n] s ∧ d.p 17 1 < 32 ∧ isEth (tribAt s (Fin.ofNat 12 n)) = true) :=
  ⟨⟨(dd tribRollcallInfo 11 [] 0), 11, (withCmd tribRollcallInfo (dd tribRollcallInfo 11 [] 0) (port11 (fun t => { t with rollOpen := true }) ready)), by unfold Served; decide +kernel⟩,
   ⟨(dd tribModQueryInfo 11 [(16, 3)] 0), 11, (withCmd tribModQueryInfo (dd tribModQueryInfo 11 [(16, 3)] 0) (mod3 id (port11 id ready))), ident1, by unfold Served; decide +kernel⟩,
   ⟨(dd tribMdioInfo 11 [(17, 31)] 0), 11, (withCmd tribMdioInfo (dd tribMdioInfo 11 [(17, 31)] 0) (port11 (fun t => { t with cfg := { t.cfg with pers := 1 } }) ready)), by unfold Served; decide +kernel⟩⟩
theorem wit_TribWork_1 :
    (∃ (n : Fin 12) (s : State), mayPoll s n = true ∧ (tribAt s n).inCycle = false ∧ (tribAt s n).rollOpen = false ∧ (tribAt s n).rollDue = false ∧ (tribAt s n).cycleLast ≤ (tribAt s n).cfg.cycle) ∧
    (∃ (n : Fin 12) (a : Nat) (rest : List Nat) (i : OutImage) (s : State), mayPoll s n = true ∧ (tribAt s n).inCycle = true ∧ (tribAt s n).toPoll = a :: rest ∧ (isEth (tribAt s n) = true ∨ (tribAt s n).awaiting = []) ∧ (modAt s n (Fin.ofNat 255 a)).state = .active ∧ (modAt s n (Fin.ofNat 255 a)).outState = .normal ∧ (modAt s n (Fin.ofNat 255 a)).image = some i) ∧
    (∃ (n : Fin 12) (f : RxFrame) (p : Pdu) (a : Fin 255) (i : Ident) (s : State), tribAlive s n = true ∧ isLegacy (tribAt s n) = false ∧ heardBy (tribAt s n) f = true ∧ frameOk (tribAt s n) f = true ∧ p = pduOf f.pdu ∧ p.type = 2 ∧ p.dst = 0 ∧ p.src = a.val ∧ listening s n = false ∧ (tribAt s n).awaiting.contains p.src = true ∧ p.seq = (tribAt s n).cycleSeq.toNat ∧ (modAt s n a).ident = some i ∧ p.len = 8 + inLen i ∧ (modAt s n a).state = .active) ∧
    (∃ (n : Fin 12) (a : Fin 255) (s : State), (tribAt s n).awaiting.contains a.val = true) ∧
    (∃ (n : Fin 12) (s : State), tribAlive s n = true ∧ (tribAt s n).cfg.pers = 0 ∧ listening s n = false) ∧
    (∃ (n : Fin 12) (s : State), mayPoll s n = true ∧ (tribAt s n).inCycle = false ∧ (tribAt s n).rollOpen = false ∧ (tribAt s n).first = false ∧ (tribAt s n).rollDue = true) :=
  ⟨⟨11, port11 id ready, by decide +kernel⟩,
   ⟨11, 3, [4], ⟨1, [1, 2, 3, 4, 5, 6, 7, 8]⟩, mod3 id (port11 (fun t => { t with inCycle := true, toPoll := [3, 4] }) ready), by decide +kernel⟩,
   ⟨11, rx [0x10, 2, 0, 3, 5, 0, 12, 0] 12, pduOf ([0x10, 2, 0, 3, 5, 0, 12, 0] ++ rep 12 0), 3, ident1, mod3 id (port11 (fun t => { t with awaiting := [3], cycleSeq := 5 }) ready), by decide +kernel⟩,
   ⟨11, 3, onTrib ready 11 fun t => { t with awaiting := [3] }, by decide +kernel⟩,
   ⟨11, port11 id ready, by decide +kernel⟩,
   ⟨11, port11 (fun t => { t with rollDue := true, first := false }) ready, by decide +kernel⟩⟩
theorem wit_TribWork_2 :
    (∃ (n : Fin 12) (f : RxFrame) (s : State), tribRuns s n = true ∧ isLegacy (tribAt s n) = false ∧ heardBy (tribAt s n) f = true ∧ frameOk (tribAt s n) f = true ∧ (pduOf f.pdu).type = 4 ∧ (pduOf f.pdu).dst = 0 ∧ (pduOf f.pdu).len = 36 ∧ (tribAt s n).token = true ∧ (tribAt s n).rollOpen = true) ∧
    (∃ (n : Fin 12) (s : State), (tribAt s n).rollOpen = true ∧ mayPoll s n = true) ∧
    (∃ (n : Fin 12) (a : Fin 255) (s : State), tribLife s n ≠ .off ∧ (modAt s n a).latched.isSome = true) ∧
    (∃ (n : Fin 12) (c : Capture) (cs : List Capture) (s : State), (tribAt s n).captures = c :: cs ∧ (∃ l ∈ blockLines s n (Fin.ofNat 255 c.addr), dchRunning s (channelOf s l) = false ∧ dchDead s (channelOf s l) = false)) ∧
    (∃ (n : Fin 12) (c : Capture) (cs : List Capture) (s : State), (tribAt s n).captures = c :: cs ∧ (∃ w ∈ s.ret.writes, ∃ k ≤ c.epoch, w.line ∈ blockLines s n (Fin.ofNat 255 c.addr) ∧ w.epoch = some (c.ctx, k))) ∧
    (∃ (n : Fin 12) (c : Capture) (cs : List Capture) (s : State) (t : State), (tribAt s n).captures = c :: cs ∧ captureStuck s n c = false ∧ t = captureBlock n (Fin.ofNat 255 c.addr) (onTrib s n fun t => { t with captures := cs })) :=
  ⟨⟨11, rx [0x10, 4, 0, 1, 0, 0, 36, 0] 36, port11 (fun t => { t with rollOpen := true }) ready, by decide +kernel⟩,
   ⟨11, port11 (fun t => { t with rollOpen := true }) ready, by decide +kernel⟩,
   ⟨11, 3, mod3 (fun m => { m with latched := some (true, 0) }) (port11 id ready), by decide +kernel⟩,
   ⟨11, ⟨3, 15, 1⟩, [], onTrib ready 11 fun t => { t with captures := [⟨3, 15, 1⟩] }, by decide +kernel⟩,
   ⟨11, ⟨3, 15, 1⟩, [], onTrib { ready with ret := { ready.ret with writes := [{ piece5 .ready with line := 6 }] } } 11 fun t => { t with captures := [⟨3, 15, 1⟩] }, rfl, ⟨{ piece5 .ready with line := 6 }, .head _, 1, by decide, by decide +kernel, rfl⟩⟩,
   ⟨11, ⟨3, 15, 1⟩, [], (onTrib (dramOn ready) 11 fun t => { t with captures := [⟨3, 15, 1⟩] }), captureBlock 11 3 (onTrib (onTrib (dramOn ready) 11 fun t => { t with captures := [⟨3, 15, 1⟩] }) 11 fun t => { t with captures := [] }), by refine ⟨?_, ?_, rfl⟩ <;> decide +kernel⟩⟩
theorem wit_TribWork_3 :
    (∃ (n : Fin 12) (f : RxFrame) (a : Fin 255) (c : BitVec 48 × Nat × Ident) (s : State), listening s n = true ∧ isLegacy (tribAt s n) = false ∧ heardBy (tribAt s n) f = true ∧ frameOk (tribAt s n) f = true ∧ (pduOf f.pdu).type = 5 ∧ (pduOf f.pdu).dst = 0xFF ∧ (pduOf f.pdu).len = 12 ∧ field (pduOf f.pdu).body 8 1 = a.val ∧ addrOk (tribAt s n) a.val = true ∧ (modAt s n a).state = .absent ∧ (tribAt s n).claims.find? (fun c => identUid c.2.2 = BitVec.ofNat 64 (field (pduOf f.pdu).body 0 8)) = some c) ∧
    (∃ (n : Fin 12) (s : State), tribRuns s n = true ∧ isEth (tribAt s n) = true) ∧
    (∃ (b : Fin 2) (m : Mdio) (p : Fin 12) (tag : BitVec 16) (rest : List Mdio) (s : State), s.mdio[b] = m :: rest ∧ m.write = false ∧ m.cmd = some (p, tag)) ∧
    (∃ (n : Fin 12) (b : Bool) (s : State), b = decide (s.mir.role ≠ .standby ∧ !s.mir.handing) ∧ (tribAt s n).token ≠ b ∧ (tribAt s n).rollOpen = false ∧ (tribAt s n).rollDue = false ∧ isLegacy (tribAt s n) = false) :=
  ⟨⟨11, rx [0x10, 5, 0xFF, 0, 0, 0, 12, 0, 1, 0, 0, 0, 0, 0, 0, 0, 3] 3, 3, (0, 1, ident1), port11 (fun t => { t with token := false, claims := [(0, 1, ident1)] }) ready, by decide +kernel⟩,
   ⟨11, port11 (fun t => { t with cfg := { t.cfg with pers := 1 } }) ready, by decide +kernel⟩,
   ⟨1, ⟨11, false, 1, 0, some (11, 7)⟩, 11, 7, [], { ready with mdio := vmod ready.mdio 1 fun _ => [⟨11, false, 1, 0, some (11, 7)⟩] }, by decide +kernel⟩,
   ⟨11, true, onTrib ready 11 fun t => { t with token := false, rollDue := false }, by refine ⟨rfl, ?_, ?_, ?_, ?_⟩ <;> decide +kernel⟩⟩
theorem wit_LatchedSlotIsKept :
    (∃ (n : Fin 12) (a : Fin 255) (u : InUpdate) (slot : Bool) (at_ : Nat) (i : Nat) (s : State), (modAt s n a).heldUp = some u ∧ (modAt s n a).latched = some (slot, at_) ∧ 3 ≤ (tribAt s n).cfg.inStride ∧ (u.bytes.length + 255) / 256 ≤ ((tribAt s n).cfg.inStride - 1) / 2 ∧ (∀ k < (tribAt s n).cfg.inStride, (s.lineSeg (inBlock (tribAt s n) a + k)).cls = .volatile) ∧ i < ((tribAt s n).cfg.inStride - 1) / 2 ∧ slot = !(modAt s n a).cur) ∧
    (∃ (n : Fin 12) (a : Fin 255) (u : InUpdate) (slot : Bool) (at_ : Nat) (i : Nat) (s : State), (modAt s n a).heldUp = some u ∧ (modAt s n a).latched = some (slot, at_) ∧ 3 ≤ (tribAt s n).cfg.inStride ∧ (u.bytes.length + 255) / 256 ≤ ((tribAt s n).cfg.inStride - 1) / 2 ∧ (∀ k < (tribAt s n).cfg.inStride, (s.lineSeg (inBlock (tribAt s n) a + k)).cls = .volatile) ∧ i < ((tribAt s n).cfg.inStride - 1) / 2 ∧ slot = (modAt s n a).cur) :=
  ⟨⟨11, 3, up1, true, 0, 0, mod3 (fun m => { m with heldUp := some up1, latched := some (true, 0) }) (port11 id ready), by decide +kernel⟩,
   ⟨11, 3, up1, false, 0, 0, mod3 (fun m => { m with heldUp := some up1, latched := some (false, 0) }) (port11 id ready), by decide +kernel⟩⟩
theorem wit_SeqArithmetic_1 :
    (∃ (n : Fin 12) (i : SIns) (s : State), Fetches n 0x01 zLow i s) ∧
    (∃ (n : Fin 12) (i : SIns) (s : State), Fetches n 0x02 zLow i s) ∧
    (∃ (n : Fin 12) (i : SIns) (s : State), Fetches n 0x03 zLow i s) ∧
    (∃ (n : Fin 12) (i : SIns) (s : State), Fetches n 0x04 zLow i s) ∧
    (∃ (n : Fin 12) (i : SIns) (s : State), Fetches n 0x05 zLow i s) ∧
    (∃ (n : Fin 12) (i : SIns) (s : State), Fetches n 0x06 zLow i s) :=
  ⟨⟨11, insAt 1 3 1 32768, seq11 (insAt 1 3 1 32768) 9 id ready, fetches_of (by decide +kernel)⟩,
   ⟨11, insAt 2 3 1 32768, seq11 (insAt 2 3 1 32768) 9 id ready, fetches_of (by decide +kernel)⟩,
   ⟨11, insAt 3 3 1 32768, seq11 (insAt 3 3 1 32768) 9 id ready, fetches_of (by decide +kernel)⟩,
   ⟨11, insAt 4 3 1 32768, seq11 (insAt 4 3 1 32768) 9 id ready, fetches_of (by decide +kernel)⟩,
   ⟨11, insAt 5 3 1 32768, seq11 (insAt 5 3 1 32768) 9 id ready, fetches_of (by decide +kernel)⟩,
   ⟨11, insAt 6 3 1 32768, seq11 (insAt 6 3 1 32768) 9 id ready, fetches_of (by decide +kernel)⟩⟩
theorem wit_SeqArithmetic_2 :
    (∃ (n : Fin 12) (i : SIns) (s : State), Fetches n 0x07 zLow i s) ∧
    (∃ (n : Fin 12) (i : SIns) (s : State), Fetches n 0x09 0 i s) ∧
    (∃ (n : Fin 12) (i : SIns) (s : State), Fetches n 0x0A 0 i s) ∧
    (∃ (n : Fin 12) (i : SIns) (s : State), Fetches n 0x0B 0 i s) ∧
    (∃ (n : Fin 12) (i : SIns) (s : State), Fetches n 0x0C 0 i s) ∧
    (∃ (n : Fin 12) (i : SIns) (s : State), Fetches n 0x0D zShift i s) :=
  ⟨⟨11, insAt 7 3 1 32768, seq11 (insAt 7 3 1 32768) 9 id ready, fetches_of (by decide +kernel)⟩,
   ⟨11, insAt 9 3 1 262143, seq11 (insAt 9 3 1 262143) 9 id ready, fetches_of (by decide +kernel)⟩,
   ⟨11, insAt 10 3 1 262143, seq11 (insAt 10 3 1 262143) 9 id ready, fetches_of (by decide +kernel)⟩,
   ⟨11, insAt 11 3 1 262143, seq11 (insAt 11 3 1 262143) 9 id ready, fetches_of (by decide +kernel)⟩,
   ⟨11, insAt 12 3 1 262143, seq11 (insAt 12 3 1 262143) 9 id ready, fetches_of (by decide +kernel)⟩,
   ⟨11, insAt 13 3 1 31, seq11 (insAt 13 3 1 31) 9 id ready, fetches_of (by decide +kernel)⟩⟩
theorem wit_SeqArithmetic_3 :
    (∃ (n : Fin 12) (i : SIns) (s : State), Fetches n 0x0E zShift i s) ∧
    (∃ (n : Fin 12) (i : SIns) (s : State), Fetches n 0x0F zRs i s) ∧
    (∃ (n : Fin 12) (i : SIns) (s : State), Fetches n 0x10 0 i s ∧ (wreg (seqAt s n) i.rs + i.imm).toNat ≤ 0x1FFF ∧ (wreg (seqAt s n) i.rs + i.imm).toNat % 4 = 0) ∧
    (∃ (n : Fin 12) (i : SIns) (s : State), Fetches n 0x11 0 i s ∧ (wreg (seqAt s n) i.rs + i.imm).toNat ≤ 0x1FFF) ∧
    (∃ (n : Fin 12) (i : SIns) (s : State), Fetches n 0x12 0 i s ∧ (wreg (seqAt s n) i.rs + i.imm).toNat ≤ 0x1FFF ∧ (wreg (seqAt s n) i.rs + i.imm).toNat % 4 = 0) ∧
    (∃ (n : Fin 12) (i : SIns) (s : State), Fetches n 0x13 0 i s ∧ (wreg (seqAt s n) i.rs + i.imm).toNat ≤ 0x1FFF) :=
  ⟨⟨11, insAt 14 3 1 31, seq11 (insAt 14 3 1 31) 9 id ready, fetches_of (by decide +kernel)⟩,
   ⟨11, insAt 15 3 0 131072, seq11 (insAt 15 3 0 131072) 9 id ready, fetches_of (by decide +kernel)⟩,
   ⟨11, insAt 16 3 1 8180, seq11 (insAt 16 3 1 8180) 9 id ready, fetches_of (by decide +kernel), by decide +kernel⟩,
   ⟨11, insAt 17 3 1 8183, seq11 (insAt 17 3 1 8183) 9 id ready, fetches_of (by decide +kernel), by decide +kernel⟩,
   ⟨11, insAt 18 3 1 8180, seq11 (insAt 18 3 1 8180) 9 id ready, fetches_of (by decide +kernel), by decide +kernel⟩,
   ⟨11, insAt 19 3 1 8183, seq11 (insAt 19 3 1 8183) 9 id ready, fetches_of (by decide +kernel), by decide +kernel⟩⟩
theorem wit_SeqArithmetic_4 :
    (∃ (n : Fin 12) (i : SIns) (s : State), Fetches n 0x10 0 i s ∧ (0x1FFF < (wreg (seqAt s n) i.rs + i.imm).toNat ∨ (wreg (seqAt s n) i.rs + i.imm).toNat % 4 ≠ 0)) ∧
    (∃ (n : Fin 12) (i : SIns) (s : State), Fetches n 0x18 0 i s ∧ wreg (seqAt s n) i.rd = wreg (seqAt s n) i.rs ∧ (BitVec.ofNat 32 i.at_ + i.imm).toNat ≤ 4095) ∧
    (∃ (n : Fin 12) (i : SIns) (s : State), Fetches n 0x18 0 i s ∧ wreg (seqAt s n) i.rd ≠ wreg (seqAt s n) i.rs) ∧
    (∃ (n : Fin 12) (i : SIns) (s : State), Fetches n 0x19 0 i s ∧ wreg (seqAt s n) i.rd ≠ wreg (seqAt s n) i.rs ∧ (BitVec.ofNat 32 i.at_ + i.imm).toNat ≤ 4095) ∧
    (∃ (n : Fin 12) (i : SIns) (s : State), Fetches n 0x19 0 i s ∧ wreg (seqAt s n) i.rd = wreg (seqAt s n) i.rs) ∧
    (∃ (n : Fin 12) (i : SIns) (s : State), Fetches n 0x1A 0 i s ∧ (wreg (seqAt s n) i.rd).toNat < (wreg (seqAt s n) i.rs).toNat ∧ (BitVec.ofNat 32 i.at_ + i.imm).toNat ≤ 4095) :=
  ⟨⟨11, insAt 16 3 1 8184, seq11 (insAt 16 3 1 8184) 9 id ready, fetches_of (by decide +kernel), by decide +kernel⟩,
   ⟨11, insAt 24 1 2 4095, seq11 (insAt 24 1 2 4095) 8 id ready, fetches_of (by decide +kernel), by decide +kernel⟩,
   ⟨11, insAt 24 1 2 4095, seq11 (insAt 24 1 2 4095) 9 id ready, fetches_of (by decide +kernel), by decide +kernel⟩,
   ⟨11, insAt 25 1 2 4095, seq11 (insAt 25 1 2 4095) 9 id ready, fetches_of (by decide +kernel), by decide +kernel⟩,
   ⟨11, insAt 25 1 2 4095, seq11 (insAt 25 1 2 4095) 8 id ready, fetches_of (by decide +kernel), by decide +kernel⟩,
   ⟨11, insAt 26 1 2 4095, seq11 (insAt 26 1 2 4095) 9 id ready, fetches_of (by decide +kernel), by decide +kernel⟩⟩
theorem wit_SeqArithmetic_5 :
    (∃ (n : Fin 12) (i : SIns) (s : State), Fetches n 0x1A 0 i s ∧ (wreg (seqAt s n) i.rs).toNat ≤ (wreg (seqAt s n) i.rd).toNat) ∧
    (∃ (n : Fin 12) (i : SIns) (s : State), Fetches n 0x1B 0 i s ∧ (wreg (seqAt s n) i.rs).toNat ≤ (wreg (seqAt s n) i.rd).toNat ∧ (BitVec.ofNat 32 i.at_ + i.imm).toNat ≤ 4095) ∧
    (∃ (n : Fin 12) (i : SIns) (s : State), Fetches n 0x1B 0 i s ∧ (wreg (seqAt s n) i.rd).toNat < (wreg (seqAt s n) i.rs).toNat) ∧
    (∃ (n : Fin 12) (i : SIns) (s : State), Fetches n 0x1C zJ i s ∧ i.imm.toNat ≤ 4095) ∧
    (∃ (n : Fin 12) (i : SIns) (s : State), Fetches n 0x1D zJ i s ∧ i.imm.toNat ≤ 4095) ∧
    (∃ (n : Fin 12) (i : SIns) (s : State), Fetches n 0x1E (zRd ||| zRt ||| zLow) i s ∧ (wreg (seqAt s n) i.rs).toNat ≤ 4095) :=
  ⟨⟨11, insAt 26 1 2 4095, seq11 (insAt 26 1 2 4095) 8 id ready, fetches_of (by decide +kernel), by decide +kernel⟩,
   ⟨11, insAt 27 2 1 4095, seq11 (insAt 27 2 1 4095) 9 id ready, fetches_of (by decide +kernel), by decide +kernel⟩,
   ⟨11, insAt 27 1 2 4095, seq11 (insAt 27 1 2 4095) 9 id ready, fetches_of (by decide +kernel), by decide +kernel⟩,
   ⟨11, insAt 28 0 0 4095, seq11 (insAt 28 0 0 4095) 9 id ready, fetches_of (by decide +kernel), by decide +kernel⟩,
   ⟨11, insAt 29 0 0 4095, seq11 (insAt 29 0 0 4095) 9 id ready, fetches_of (by decide +kernel), by decide +kernel⟩,
   ⟨11, insAt 30 0 2 0, seq11 (insAt 30 0 2 0) 4095 id ready, fetches_of (by decide +kernel), by decide +kernel⟩⟩
theorem wit_SeqArithmetic_6 :
    (∃ (n : Fin 12) (i : SIns) (s : State), Fetches n 0x1E (zRd ||| zRt ||| zLow) i s ∧ 4095 < (wreg (seqAt s n) i.rs).toNat) ∧
    (∃ (n : Fin 12) (i : SIns) (s : State), Fetches n 0x1F zRd i s ∧ (wreg (seqAt s n) i.rs).toNat < (i.imm).toNat) ∧
    (∃ (n : Fin 12) (i : SIns) (s : State), Fetches n 0x1F zRd i s ∧ (i.imm).toNat ≤ (wreg (seqAt s n) i.rs).toNat) ∧
    (∃ (n : Fin 12) (i : SIns) (s : State), Fetches n 0x17 (zRd ||| zLow) i s ∧ (wreg (seqAt s n) i.rs).toNat < (wreg (seqAt s n) i.rt).toNat) ∧
    (∃ (n : Fin 12) (i : SIns) (s : State), Fetches n 0x17 (zRd ||| zLow) i s ∧ (wreg (seqAt s n) i.rt).toNat ≤ (wreg (seqAt s n) i.rs).toNat) ∧
    (∃ (n : Fin 12) (i : SIns) (s : State), Fetches n 0x3E (zRd ||| zRs ||| zRt ||| zLow) i s) :=
  ⟨⟨11, insAt 30 0 2 0, seq11 (insAt 30 0 2 0) 4096 id ready, fetches_of (by decide +kernel), by decide +kernel⟩,
   ⟨11, insAt 31 0 1 9, seq11 (insAt 31 0 1 9) 9 id ready, fetches_of (by decide +kernel), by decide +kernel⟩,
   ⟨11, insAt 31 0 1 8, seq11 (insAt 31 0 1 8) 9 id ready, fetches_of (by decide +kernel), by decide +kernel⟩,
   ⟨11, insAt 23 0 1 32768, seq11 (insAt 23 0 1 32768) 9 id ready, fetches_of (by decide +kernel), by decide +kernel⟩,
   ⟨11, insAt 23 0 1 32768, seq11 (insAt 23 0 1 32768) 8 id ready, fetches_of (by decide +kernel), by decide +kernel⟩,
   ⟨11, insAt 62 0 0 0, seq11 (insAt 62 0 0 0) 9 id ready, fetches_of (by decide +kernel)⟩⟩
theorem wit_SeqLineAndModules_1 :
    (∃ (n : Fin 12) (i : SIns) (s : State), Fetches n 0x20 (zRd ||| zRt ||| zLow) i s ∧ lcfgOk (wreg (seqAt s n) i.rs) = true ∧ (seqAt s n).sending = none) ∧
    (∃ (n : Fin 12) (i : SIns) (s : State), Fetches n 0x21 (zRd ||| zRt ||| zLow) i s ∧ 100 ≤ (wreg (seqAt s n) i.rs).toNat ∧ (wreg (seqAt s n) i.rs).toNat ≤ 1818182 ∧ (seqAt s n).sending = none) ∧
    (∃ (n : Fin 12) (i : SIns) (s : State), Fetches n 0x22 (zRd ||| zRt ||| zLow) i s ∧ (txFull (seqAt s n) = false ∨ listening s n = true)) ∧
    (∃ (n : Fin 12) (i : SIns) (c : Word) (t : List Word) (s : State), Fetches n 0x23 (zRt ||| zLow) i s ∧ (seqAt s n).rxq = c :: t) ∧
    (∃ (n : Fin 12) (i : SIns) (s : State), Fetches n 0x23 (zRt ||| zLow) i s ∧ (seqAt s n).rxq = [] ∧ wreg (seqAt s n) i.rs = 0) ∧
    (∃ (n : Fin 12) (i : SIns) (s : State), Fetches n 0x23 (zRt ||| zLow) i s ∧ (seqAt s n).rxq = [] ∧ wreg (seqAt s n) i.rs ≠ 0) :=
  ⟨⟨11, insAt 32 0 2 0, seq11 (insAt 32 0 2 0) 0x005 id ready, fetches_of (by decide +kernel), by decide +kernel⟩,
   ⟨11, insAt 33 0 2 0, seq11 (insAt 33 0 2 0) 1818182 id ready, fetches_of (by decide +kernel), by decide +kernel⟩,
   ⟨11, insAt 34 0 2 0, seq11 (insAt 34 0 2 0) 9 id ready, fetches_of (by decide +kernel), by decide +kernel⟩,
   ⟨11, insAt 35 3 0 0, 5, [6], seq11 (insAt 35 3 0 0) 9 (fun q => { q with rxq := [5, 6] }) ready, fetches_of (by decide +kernel), by decide +kernel⟩,
   ⟨11, insAt 35 3 0 0, seq11 (insAt 35 3 0 0) 9 id ready, fetches_of (by decide +kernel), by decide +kernel⟩,
   ⟨11, insAt 35 3 1 0, seq11 (insAt 35 3 1 0) 9 id ready, fetches_of (by decide +kernel), by decide +kernel⟩⟩
theorem wit_SeqLineAndModules_2 :
    (∃ (n : Fin 12) (i : SIns) (s : State), Fetches n 0x24 zBit i s) ∧
    (∃ (n : Fin 12) (i : SIns) (s : State), Fetches n 0x25 (zRd ||| zRs ||| zRt ||| zLow) i s ∧ drained_ (seqAt s n) = true) ∧
    (∃ (n : Fin 12) (i : SIns) (s : State), Fetches n 0x25 (zRd ||| zRs ||| zRt ||| zLow) i s ∧ drained_ (seqAt s n) = false) ∧
    (∃ (n : Fin 12) (i : SIns) (s : State), Fetches n 0x26 0 i s ∧ bits i.imm 0 2 ≠ 0 ∧ wreg (seqAt s n) i.rs ≠ 0) ∧
    (∃ (n : Fin 12) (i : SIns) (s : State), Fetches n 0x27 zRd i s ∧ wreg (seqAt s n) i.rs + i.imm = 0) ∧
    (∃ (n : Fin 12) (i : SIns) (s : State), Fetches n 0x27 zRd i s ∧ wreg (seqAt s n) i.rs + i.imm ≠ 0) :=
  ⟨⟨11, insAt 36 0 0 1, seq11 (insAt 36 0 0 1) 9 id ready, fetches_of (by decide +kernel)⟩,
   ⟨11, insAt 37 0 0 0, seq11 (insAt 37 0 0 0) 9 id ready, fetches_of (by decide +kernel), by decide +kernel⟩,
   ⟨11, insAt 37 0 0 0, seq11 (insAt 37 0 0 0) 9 (fun q => { q with txq := [1] }) ready, fetches_of (by decide +kernel), by decide +kernel⟩,
   ⟨11, insAt 38 3 1 1, seq11 (insAt 38 3 1 1) 9 id ready, fetches_of (by decide +kernel), by decide +kernel⟩,
   ⟨11, insAt 39 0 2 0, seq11 (insAt 39 0 2 0) 0 id ready, fetches_of (by decide +kernel), by decide +kernel⟩,
   ⟨11, insAt 39 0 2 0, seq11 (insAt 39 0 2 0) 9 id ready, fetches_of (by decide +kernel), by decide +kernel⟩⟩
theorem wit_SeqLineAndModules_3 :
    (∃ (n : Fin 12) (i : SIns) (s : State), Fetches n 0x28 zBit i s ∧ drained_ (seqAt s n) = true) ∧
    (∃ (n : Fin 12) (i : SIns) (s : State), Fetches n 0x29 (zRs ||| zRt ||| zLow) i s) ∧
    (∃ (n : Fin 12) (i : SIns) (s : State), Fetches n 0x30 0 i s ∧ (wreg (seqAt s n) i.rs + i.imm).toNat + 1 ≤ 1024) ∧
    (∃ (n : Fin 12) (i : SIns) (s : State), Fetches n 0x31 0 i s ∧ (wreg (seqAt s n) i.rs + i.imm).toNat + 4 ≤ 1024 ∧ (wreg (seqAt s n) i.rs + i.imm).toNat % 4 = 0) ∧
    (∃ (n : Fin 12) (i : SIns) (a : Fin 255) (s : State), Fetches n 0x32 (zRd ||| zLow) i s ∧ modNo (wreg (seqAt s n) i.rs) = some a ∧ (modAt s n a).state.isLive = true ∧ (wreg (seqAt s n) i.rt).toNat ≤ inLen ((modAt s n a).ident.getD 0)) ∧
    (∃ (n : Fin 12) (i : SIns) (a : Fin 255) (s : State), Fetches n 0x33 (zRt ||| zLow) i s ∧ modNo (wreg (seqAt s n) i.rs) = some a) :=
  ⟨⟨11, insAt 40 0 0 1, seq11 (insAt 40 0 0 1) 9 id ready, fetches_of (by decide +kernel), by decide +kernel⟩,
   ⟨11, insAt 41 3 0 0, seq11 (insAt 41 3 0 0) 9 id ready, fetches_of (by decide +kernel)⟩,
   ⟨11, insAt 48 3 2 0, seq11 (insAt 48 3 2 0) 1023 id ready, fetches_of (by decide +kernel), by decide +kernel⟩,
   ⟨11, insAt 49 3 2 0, seq11 (insAt 49 3 2 0) 1020 id ready, fetches_of (by decide +kernel), by decide +kernel⟩,
   ⟨11, insAt 50 0 2 0, 3, seq11 (insAt 50 0 2 0) 3 id (mod3 id (port11 id ready)), fetches_of (by decide +kernel), by decide +kernel⟩,
   ⟨11, insAt 51 3 2 0, 254, seq11 (insAt 51 3 2 0) 254 id ready, fetches_of (by decide +kernel), by decide +kernel⟩⟩
theorem wit_SeqLineAndModules_4 :
    (∃ (n : Fin 12) (i : SIns) (k : Nat) (x : OutImage) (st : OutSt) (s : State), Fetches n 0x34 0 i s ∧ (seqAt s n).sel = some (k, x, st) ∧ st ≠ .none ∧ (wreg (seqAt s n) i.rs + i.imm).toNat + 1 ≤ x.bytes.length) ∧
    (∃ (n : Fin 12) (i : SIns) (k : Nat) (x : OutImage) (st : OutSt) (s : State), Fetches n 0x35 0 i s ∧ (seqAt s n).sel = some (k, x, st) ∧ st ≠ .none ∧ (wreg (seqAt s n) i.rs + i.imm).toNat + 4 ≤ x.bytes.length ∧ (wreg (seqAt s n) i.rs + i.imm).toNat % 4 = 0) ∧
    (∃ (n : Fin 12) (i : SIns) (k : Nat) (x : OutImage) (st : OutSt) (s : State), Fetches n 0x36 (zRd ||| zRs ||| zRt ||| zLow) i s ∧ (seqAt s n).sel = some (k, x, st)) ∧
    (∃ (n : Fin 12) (i : SIns) (s : State) (l : _), Fetches n 0x37 0 i s ∧ (wreg (seqAt s n) i.rs + i.imm).toNat < (seqAt s n).paramLen * 256 ∧ (wreg (seqAt s n) i.rs + i.imm).toNat % 4 = 0 ∧ l = windowLine (seqAt s n) (wreg (seqAt s n) i.rs + i.imm).toNat ∧ lineAway s l = false) ∧
    (∃ (n : Fin 12) (i : SIns) (s : State) (l : _), Fetches n 0x37 0 i s ∧ (wreg (seqAt s n) i.rs + i.imm).toNat < (seqAt s n).paramLen * 256 ∧ (wreg (seqAt s n) i.rs + i.imm).toNat % 4 = 0 ∧ l = windowLine (seqAt s n) (wreg (seqAt s n) i.rs + i.imm).toNat ∧ lineAway s l = true) ∧
    (∃ (n : Fin 12) (i : SIns) (a : Fin 255) (s : State) (r : _), Fetches n 0x38 zLow i s ∧ (wreg (seqAt s n) i.rt).toNat % 4 = 0 ∧ (wreg (seqAt s n) i.rt).toNat + 31 ≤ 0x1FFF ∧ modNo (wreg (seqAt s n) i.rs) = some a ∧ r = marrive n a (BitVec.ofNat 256 (leNat (mgets 0 (seqAt s n).dmem (wreg (seqAt s n) i.rt).toNat 32))) s) :=
  ⟨⟨11, insAt 52 3 2 0, 3, ⟨1, [1, 2, 3, 4, 5, 6, 7, 8]⟩, .normal, seq11 (insAt 52 3 2 0) 7 (fun q => { q with sel := some (3, ⟨1, [1, 2, 3, 4, 5, 6, 7, 8]⟩, .normal) }) ready, fetches_of (by decide +kernel), by decide +kernel⟩,
   ⟨11, insAt 53 3 2 0, 3, ⟨1, [1, 2, 3, 4, 5, 6, 7, 8]⟩, .normal, seq11 (insAt 53 3 2 0) 4 (fun q => { q with sel := some (3, ⟨1, [1, 2, 3, 4, 5, 6, 7, 8]⟩, .normal) }) ready, fetches_of (by decide +kernel), by decide +kernel⟩,
   ⟨11, insAt 54 0 0 0, 3, ⟨1, [1, 2, 3, 4, 5, 6, 7, 8]⟩, .normal, seq11 (insAt 54 0 0 0) 9 (fun q => { q with sel := some (3, ⟨1, [1, 2, 3, 4, 5, 6, 7, 8]⟩, .normal) }) ready, fetches_of (by decide +kernel), by decide +kernel⟩,
   ⟨11, insAt 55 3 2 0, dramOn (seq11 (insAt 55 3 2 0) 252 (fun q => { q with paramLen := 1 }) ready), 0, fetches_of (by decide +kernel), by decide +kernel⟩,
   ⟨11, insAt 55 3 2 0, seq11 (insAt 55 3 2 0) 252 (fun q => { q with paramLen := 1 }) ready, 0, fetches_of (by decide +kernel), by decide +kernel⟩,
   ⟨11, marrI, 3, marrS, marrive 11 3 (BitVec.ofNat 256 (leNat (mgets 0 (seqAt marrS 11).dmem (wreg (seqAt marrS 11) marrI.rt).toNat 32))) marrS, fetches_of (by decide +kernel), by decide +kernel, by decide +kernel, by decide +kernel, rfl⟩⟩
theorem wit_SeqLineAndModules_5 :
    (∃ (n : Fin 12) (i : SIns) (a : Fin 255) (s : State), Fetches n 0x39 zRd i s ∧ modNo (wreg (seqAt s n) i.rs) = some a) ∧
    (∃ (n : Fin 12) (i : SIns) (s : State), Fetches n 0x3A (zRt ||| zLow) i s ∧ (wreg (seqAt s n) i.rs).toNat ≤ 254) ∧
    (∃ (n : Fin 12) (i : SIns) (v : Word) (s : State), Fetches n 0x3C zRs i s ∧ special s n (seqAt s n) i.imm.toNat = some v ∧ i.imm ≠ 0) ∧
    (∃ (n : Fin 12) (i : SIns) (s : State), Fetches n 0x3C zRs i s ∧ i.imm = 0) ∧
    (∃ (n : Fin 12) (i : SIns) (s : State), Fetches n 0x3D (zRd ||| zRs) i s ∧ i.imm = 0 ∧ (seqAt s n).stopreq = true) ∧
    (∃ (n : Fin 12) (i : SIns) (s : State), Fetches n 0x3D (zRd ||| zRs) i s ∧ (i.imm ≠ 0 ∨ (seqAt s n).stopreq = false)) :=
  ⟨⟨11, insAt 57 0 2 5, 3, seq11 (insAt 57 0 2 5) 3 id ready, fetches_of (by decide +kernel), by decide +kernel⟩,
   ⟨11, insAt 58 3 2 0, seq11 (insAt 58 3 2 0) 254 id ready, fetches_of (by decide +kernel), by decide +kernel⟩,
   ⟨11, insAt 60 3 0 4, 11, seq11 (insAt 60 3 0 4) 9 id ready, fetches_of (by decide +kernel), by decide +kernel⟩,
   ⟨11, insAt 60 3 0 0, seq11 (insAt 60 3 0 0) 9 id ready, fetches_of (by decide +kernel), by decide +kernel⟩,
   ⟨11, insAt 61 0 0 0, seq11 (insAt 61 0 0 0) 9 (fun q => { q with stopreq := true }) ready, fetches_of (by decide +kernel), by decide +kernel⟩,
   ⟨11, insAt 61 0 0 1, seq11 (insAt 61 0 0 1) 9 id ready, fetches_of (by decide +kernel), by decide +kernel⟩⟩
theorem wit_SeqLineAndModules_6 :
    (∃ (n : Fin 12) (k : Word) (s : State), (seqAt s n).exec = .waiting ∧ (seqAt s n).wait = some (.cycles k)) ∧
    (∃ (n : Fin 12) (s : State), mayRun s n = true ∧ (seqAt s n).exec = .off) ∧
    (∃ (n : Fin 12) (s : State), (seqAt s n).exec = .executing ∧ (seqAt s n).rxq.length < 16) ∧
    (∃ (n : Fin 12) (c : BitVec 9) (d : BitVec 9) (t : List (BitVec 9)) (s : State), (seqAt s n).sending = some c ∧ (seqAt s n).txq = d :: t ∧ (seqAt s n).wait = none) ∧
    (∃ (d : Desc) (n : Nat) (s : State), Served seqConfigInfo d [n] s ∧ seqConfigOk d = true ∧ s.lifeOf .seq n = .stopped) ∧
    (∃ (u : DueSet) (n : Nat), u.op = 0x0C10 ∧ u.ts = [n]) :=
  ⟨⟨11, 5, onSeqr ready 11 fun q => { q with exec := .waiting, wait := some (.cycles 5) }, by decide +kernel⟩,
   ⟨11, inLife 44 .running (port11 (fun t => { t with cfg := { t.cfg with pers := 2 } }) ready), by decide +kernel⟩,
   ⟨11, onSeqr ready 11 fun q => { q with exec := .executing }, by decide +kernel⟩,
   ⟨11, 5, 6, [7], onSeqr ready 11 fun q => { q with sending := some 5, txq := [6, 7] }, by decide +kernel⟩,
   ⟨(dd seqConfigInfo 11 [(16, 131071), (32, 8192)] 0), 11, (withCmd seqConfigInfo (dd seqConfigInfo 11 [(16, 131071), (32, 8192)] 0) (inLife 44 .stopped ready)), by unfold Served; decide +kernel⟩,
   ⟨{ due 0x0C10 with ts := [11] }, 11, by decide +kernel⟩⟩
theorem wit_SeqLineAndModules_7 :
    ∃ (d : Desc) (n : Nat) (s : State), Served seqQueryInfo d [n] s :=
  ⟨(dd seqQueryInfo 11 [] 0), 11, (withCmd seqQueryInfo (dd seqQueryInfo 11 [] 0) (ready)), by unfold Served; decide +kernel⟩
theorem wit_MirrorFrames_1 :
    (∃ (l : LinkId) (h : LinkHdr) (s : State), isUp s l = true ∧ h.nak = false ∧ (linkOf s l).window = [] ∧ (linkOf s l).backlog = [] ∧ (linkOf s l).hold = [] ∧ h.fseq = (linkOf s l).ackseq + 1 ∧ (∀ x ∈ s.mir.unacked, x.ended = true)) ∧
    (∃ (l : LinkId) (s : State), isUp s l = true ∧ (linkOf s l).window ≠ []) ∧
    (∃ (l : LinkId) (s : State), s.life[lifeOfLink l].life = .running ∧ s.glb.state ≠ 3 ∧ (linkOf s l).link = .down) ∧
    (∃ (p : Fin 2) (s : State), s.life[lifeOfLink (.mir p)].life = .running ∧ (linkOf s (.mir p)).link = .training ∧ (linkOf s (.mir p)).failed = 2) ∧
    (∃ (p : Fin 2) (h : LinkHdr) (m : Hello) (s : State) (t : State), Arrives (.mir p) h (.hello m) auObserve s t) ∧
    (∃ (q : PktDue) (m : Mir) (s : State), s.mir.role = .primary ∧ anyMirUp s = true ∧ (∀ x ∈ s.mir.unacked, x.read = true) ∧ nextPacket s = some (some q, m)) :=
  ⟨⟨.mir 1, ⟨false, 1, 0⟩, mirUp id ready, by decide +kernel⟩,
   ⟨.mir 1, onLink (mirUp id ready) (.mir 1) fun p => { p with window := [(0, .switch 1)] }, by decide +kernel⟩,
   ⟨.mir 1, inLife 46 .running ready, by decide +kernel⟩,
   ⟨1, onLink (inLife 46 .running ready) (.mir 1) fun p => { p with link := .training, failed := 2 }, by decide +kernel⟩,
   ⟨1, ⟨false, 1, 0⟩, hello1, mirUp id ready, arr (.mir 1) (.hello hello1) (mirUp id ready), arrives_of (by decide +kernel) (by decide +kernel)⟩,
   ⟨due1, { (mirUp (fun m => { m with role := .primary, due := [due1] }) ready).mir with due := [] }, mirUp (fun m => { m with role := .primary, due := [due1] }) ready, by decide +kernel⟩⟩
theorem wit_MirrorFrames_2 :
    (∃ (s : State), s.mir.role = .primary ∧ s.mir.latest ≠ []) ∧
    (∃ (p : Fin 2) (h : LinkHdr) (q : Nat) (i : Nat) (es : List LineEntry) (s : State) (t : State), Arrives (.mir p) h (.lines q i es) auMirror s t ∧ wanted q t = true ∧ (rxOf q t).frames.any (·.1 = i) = false) ∧
    (∃ (p : Fin 2) (h : LinkHdr) (e : EpochEnd) (s : State) (t : State), Arrives (.mir p) h (.epochEnd e) auMirror s t ∧ wanted e.pseq t = true ∧ (rxOf e.pseq t).fin = none) ∧
    (∃ (p : Fin 2) (h : LinkHdr) (q : Nat) (s : State) (t : State), Arrives (.mir p) h (.restart q true) auMirror s t ∧ wanted q t = true ∧ t.mir.restarted.contains (q, 1 - p.val) = false) ∧
    (∃ (p : Fin 2) (h : LinkHdr) (a : Nat) (b : Bool) (s : State) (t : State), Arrives (.mir p) h (.ack a b) auMirror s t ∧ t.mir.role = .primary) ∧
    (∃ (q : PktRx) (e : EpochEnd) (s : State), s.mir.role = .standby ∧ applicable s = some (q, e)) :=
  ⟨⟨mirUp (fun m => { m with role := .primary, latest := [5] }) ready, by decide +kernel⟩,
   ⟨1, ⟨false, 1, 0⟩, 1, 0, [], mirUp (fun m => { m with role := .standby }) ready, arr (.mir 1) (.lines 1 0 []) (mirUp (fun m => { m with role := .standby }) ready), by refine ⟨arrives_of ?_ ?_, ?_, ?_⟩ <;> decide +kernel⟩,
   ⟨1, ⟨false, 1, 0⟩, end1, mirUp (fun m => { m with role := .standby }) ready, arr (.mir 1) (.epochEnd end1) (mirUp (fun m => { m with role := .standby }) ready), by refine ⟨arrives_of ?_ ?_, ?_, ?_⟩ <;> decide +kernel⟩,
   ⟨1, ⟨false, 1, 0⟩, 1, mirUp (fun m => { m with role := .standby }) ready, arr (.mir 1) (.restart 1 true) (mirUp (fun m => { m with role := .standby }) ready), by refine ⟨arrives_of ?_ ?_, ?_, ?_⟩ <;> decide +kernel⟩,
   ⟨1, ⟨false, 1, 0⟩, 0, true, mirUp (fun m => { m with role := .primary }) ready, arr (.mir 1) (.ack 0 true) (mirUp (fun m => { m with role := .primary }) ready), by refine ⟨arrives_of ?_ ?_, ?_⟩ <;> decide +kernel⟩,
   ⟨⟨1, [], [], [], some end1⟩, end1, mirUp (fun m => { m with role := .standby, rx := [⟨1, [], [], [], some end1⟩] }) ready, by decide +kernel⟩⟩
theorem wit_MirrorFrames_3 :
    (∃ (p : Fin 2) (h : LinkHdr) (n : Nat) (s : State) (t : State), t.mir.role = .standby ∧ Arrives (.mir p) h (.handover n) auMirror s t) ∧
    (∃ (p : Fin 2) (h : LinkHdr) (n : Nat) (c : Nat) (s : State) (t : State), t.mir.role = .standby ∧ Arrives (.mir p) h (.dying n c) auMirror s t) ∧
    (∃ (s : State), s.glb.state ≠ 3 ∧ s.mir.role = .primary) ∧
    (∃ (s : State), s.glb.state ≠ 3 ∧ s.mir.role = .standby ∧ s.mir.autoSilent = true) :=
  ⟨⟨1, ⟨false, 1, 0⟩, 0, mirUp (fun m => { m with role := .standby }) ready, arr (.mir 1) (.handover 0) (mirUp (fun m => { m with role := .standby }) ready), by refine ⟨?_, arrives_of ?_ ?_⟩ <;> decide +kernel⟩,
   ⟨1, ⟨false, 1, 0⟩, 0, 1, mirUp (fun m => { m with role := .standby }) ready, arr (.mir 1) (.dying 0 1) (mirUp (fun m => { m with role := .standby }) ready), by refine ⟨?_, arrives_of ?_ ?_⟩ <;> decide +kernel⟩,
   ⟨mirUp (fun m => { m with role := .primary }) ready, by decide +kernel⟩,
   ⟨mirUp (fun m => { m with role := .standby, autoSilent := true }) ready, by decide +kernel⟩⟩
theorem wit_ReplayWindowIsNumbered :
    ∃ (k : LinkId) (s : State), Numbered (linkOf s k) :=
  ⟨.mir 1, onLink (mirUp id ready) (.mir 1) fun p => { p with fseq := 1, window := [(0, .switch 1)] }, by unfold Numbered; decide +kernel⟩
theorem wit_CarriedLineTakesItsValue :
    (∃ (e : LineEntry) (l : Nat) (k : Nat) (s : State), l = e.line.toNat % 2 ^ 30 ∧ s.segExists (segOf l) = true ∧ s.unbuilt (segOf l) = false ∧ e.value.length = 256 ∧ mwf 0 s.ret.dram = true ∧ k ≠ l ∧ (s.lineSeg l).cls = .epoch) ∧
    (∃ (e : LineEntry) (l : Nat) (k : Nat) (s : State), l = e.line.toNat % 2 ^ 30 ∧ s.segExists (segOf l) = true ∧ s.unbuilt (segOf l) = false ∧ e.value.length = 256 ∧ mwf 0 s.ret.dram = true ∧ k ≠ l ∧ (s.lineSeg l).cls = .latest) ∧
    (∃ (e : LineEntry) (l : Nat) (k : Nat) (s : State), l = e.line.toNat % 2 ^ 30 ∧ s.segExists (segOf l) = true ∧ s.unbuilt (segOf l) = false ∧ e.value.length = 256 ∧ mwf 0 s.ret.dram = true ∧ k ≠ l ∧ (s.lineSeg l).cls = .constant) ∧
    (∃ (e : LineEntry) (l : Nat) (k : Nat) (s : State), l = e.line.toNat % 2 ^ 30 ∧ s.segExists (segOf l) = true ∧ s.unbuilt (segOf l) = false ∧ e.value.length = 256 ∧ mwf 0 s.ret.dram = true ∧ k ≠ l ∧ (s.lineSeg l).cls ≠ .volatile) ∧
    (∃ (e : LineEntry) (l : Nat) (k : Nat) (s : State), l = e.line.toNat % 2 ^ 30 ∧ s.segExists (segOf l) = true ∧ s.unbuilt (segOf l) = false ∧ e.value.length = 256 ∧ mwf 0 s.ret.dram = true ∧ k ≠ l ∧ (s.lineSeg l).cls = .volatile) :=
  ⟨⟨⟨5, 0, rep 256 1⟩, 5, 6, segIn .epoch ready, by decide +kernel⟩,
   ⟨⟨5, 0, rep 256 1⟩, 5, 6, segIn .latest ready, by decide +kernel⟩,
   ⟨⟨5, 0, rep 256 1⟩, 5, 6, segIn .constant ready, by decide +kernel⟩,
   ⟨⟨5, 0, rep 256 1⟩, 5, 6, segIn .latest ready, by decide +kernel⟩,
   ⟨⟨5, 0, rep 256 1⟩, 5, 6, ready, by decide +kernel⟩⟩
theorem wit_ConfluenceFrames_1 :
    (∃ (s : State), s.conf.form = .forming ∧ s.conf.chips ≠ 1) ∧
    (∃ (p : Fin 3) (h : LinkHdr) (j : Join) (s : State) (t : State), Arrives (.conf p) h (.join j) auObserve s t ∧ t.slu.phase = .idle ∧ t.conf.form ≠ .formed) ∧
    (∃ (p : Fin 3) (h : LinkHdr) (m : BitVec 4) (s : State) (t : State), Arrives (.conf p) h (.formed m) auPeer s t ∧ t.slu.phase = .idle ∧ slotAt t p = 0 ∧ m.getLsbD t.slot = true ∧ t.conf.form ≠ .formed) ∧
    (∃ (s : State), s.conf.form = .forming ∧ s.conf.firstJoin.isSome = true) ∧
    (∃ (s : State), s.conf.form = .failed) ∧
    (∃ (p : Fin 3) (h : LinkHdr) (a : BitVec 40) (bs : List Byte) (po : Bool) (mg : Bool) (s : State) (t : State) (u : _), Arrives (.conf p) h (.wr a.toNat bs po mg) auPeer s t ∧ OfMember p t ∧ (offerWr p a.toNat bs po s).isSome = true ∧ offerWr p a.toNat bs po t = some u) :=
  ⟨⟨onConf ready fun c => { c with form := .forming, chips := 4 }, by decide +kernel⟩,
   ⟨2, ⟨false, 1, 0⟩, join1, confUp (fun c => { c with form := .forming }) ready, arr (.conf 2) (.join join1) (confUp (fun c => { c with form := .forming }) ready), by refine ⟨arrives_of ?_ ?_, ?_, ?_⟩ <;> decide +kernel⟩,
   ⟨2, ⟨false, 1, 0⟩, 15, chip1 (confUp (fun c => { c with form := .forming }) ready), arr (.conf 2) (.formed 15) (chip1 (confUp (fun c => { c with form := .forming }) ready)), by refine ⟨arrives_of ?_ ?_, ?_, ?_, ?_, ?_⟩ <;> decide +kernel⟩,
   ⟨onConf ready fun c => { c with form := .forming, firstJoin := some 5 }, by decide +kernel⟩,
   ⟨onConf ready fun c => { c with form := .failed }, by decide +kernel⟩,
   ⟨2, ⟨false, 1, 0⟩, 0x500, [1], false, false, confUp id ready, arr (.conf 2) (.wr 0x500 [1] false false) (confUp id ready), (offerWr 2 0x500 [1] false (arr (.conf 2) (.wr 0x500 [1] false false) (confUp id ready))).getD ready, by refine ⟨arrives_of ?_ ?_, ?_, ?_, ?_⟩ <;> (try unfold OfMember) <;> decide +kernel⟩⟩
theorem wit_ConfluenceFrames_2 :
    (∃ (p : Fin 3) (h : LinkHdr) (a : BitVec 40) (bs : List Byte) (po : Bool) (mg : Bool) (s : State) (t : State) (u : _), Arrives (.conf p) h (.wr a.toNat bs po mg) auPeer s t ∧ OfMember p t ∧ (offerWr p a.toNat bs po s).isSome = true ∧ t.here a.toNat = true ∧ standbyDrops t (lineOf (localOf a.toNat)) = false ∧ (t.ret.held.any (·.fp = fabricOf (.conf p))) = false ∧ takeWrite (fabricOf (.conf p)) (localOf a.toNat) (bs.map some) (tlpPoison po) false t = .accepted u) ∧
    (∃ (p : Fin 3) (h : LinkHdr) (a : BitVec 40) (bs : List Byte) (po : Bool) (s : State), isUp s (.conf p) = true ∧ (linkOf s (.conf p)).hold = [] ∧ h.fseq = (linkOf s (.conf p)).ackseq + 1 ∧ s.holds (arrivalOf (.conf p)) auPeer = true ∧ OfMember p s ∧ offerWr p a.toNat bs po s = none) ∧
    (∃ (p : Fin 3) (h : LinkHdr) (g : BitVec 16) (n : Nat) (a : BitVec 40) (s : State) (t : State), Arrives (.conf p) h (.rdReq g.toNat n a.toNat) auPeer s t ∧ OfMember p t ∧ t.here a.toNat = true ∧ t.here (a.toNat + 256 * n - 1) = true ∧ 1 ≤ n) ∧
    (∃ (p : Fin 3) (h : LinkHdr) (g : BitVec 16) (i : Nat) (es : List LineEntry) (r : RemRead) (s : State) (t : State), Arrives (.conf p) h (.rdCpl g.toNat i 0 es) auPeer s t ∧ OfMember p t ∧ t.conf.reads.find? (·.tag = g.toNat) = some r ∧ (linesFrom r.addr r.len).length ≤ r.got.length + es.length) ∧
    (∃ (p : Fin 3) (h : LinkHdr) (c : Fin 16) (e : Nat) (s : State) (t : State), OfMember p t ∧ (t.ctxAt c).epoch = e ∧ Arrives (.conf p) h (.prepare c e) auPeer s t) ∧
    (∃ (p : Fin 3) (h : LinkHdr) (c : Fin 16) (e : Nat) (s : State) (t : State), OfMember p t ∧ (t.ctxAt c).epoch = e ∧ Arrives (.conf p) h (.prepared c e) auPeer s t ∧ t.conf.prep[c].phase ≠ 0 ∧ t.conf.prep[c].epoch = e ∧ actsHome t c = true ∧ (∀ j ∈ otherOwners t c, (t.conf.prep[c].done ||| BitVec.ofNat 4 (2 ^ slotAt t p)).getLsbD j = true)) :=
  ⟨⟨2, ⟨false, 1, 0⟩, 0x500, [1], false, false, confUp id ready, arr (.conf 2) (.wr 0x500 [1] false false) (confUp id ready), takenBy (fabricOf (.conf 2)) 0x500 [some 1] none false (arr (.conf 2) (.wr 0x500 [1] false false) (confUp id ready)), by refine ⟨arrives_of ?_ ?_, ?_, ?_, ?_, ?_, ?_, accepts_of ?_⟩ <;> (try unfold OfMember) <;> decide +kernel⟩,
   ⟨2, ⟨false, 1, 0⟩, 0x500, [1], false, segIn .latest (confUp id ready), by unfold OfMember; decide +kernel⟩,
   ⟨2, ⟨false, 1, 0⟩, 7, 2, 0x500, confUp id ready, arr (.conf 2) (.rdReq 7 2 0x500) (confUp id ready), by refine ⟨arrives_of ?_ ?_, ?_, ?_, ?_, ?_⟩ <;> (try unfold OfMember) <;> decide +kernel⟩,
   ⟨2, ⟨false, 1, 0⟩, 7, 0, [⟨5, 0, []⟩], read7, confUp (fun c => { c with reads := [read7] }) ready, arr (.conf 2) (.rdCpl 7 0 0 [⟨5, 0, []⟩]) (confUp (fun c => { c with reads := [read7] }) ready), by refine ⟨arrives_of ?_ ?_, ?_, ?_, ?_⟩ <;> (try unfold OfMember) <;> decide +kernel⟩,
   ⟨2, ⟨false, 1, 0⟩, 15, 1, confUp id (ctx1 ready), arr (.conf 2) (.prepare 15 1) (confUp id (ctx1 ready)), by refine ⟨?_, ?_, arrives_of ?_ ?_⟩ <;> (try unfold OfMember) <;> decide +kernel⟩,
   ⟨2, ⟨false, 1, 0⟩, 15, 1, closingUp, arr (.conf 2) (.prepared 15 1) closingUp, by refine ⟨?_, ?_, arrives_of ?_ ?_, ?_, ?_, ?_, ?_⟩ <;> (try unfold OfMember) <;> decide +kernel⟩⟩
theorem wit_ConfluenceFrames_3 :
    (∃ (p : Fin 3) (h : LinkHdr) (c : Fin 16) (e : Nat) (s : State) (t : State), OfMember p t ∧ (t.ctxAt c).epoch = e ∧ Arrives (.conf p) h (.commit c e) auPeer s t ∧ t.conf.prep[c].phase ≠ 0) ∧
    (∃ (p : Fin 3) (h : LinkHdr) (c : Fin 16) (e : Nat) (s : State) (t : State) (k : BitVec 3), OfMember p t ∧ (t.ctxAt c).epoch = e ∧ Arrives (.conf p) h (.abandon c k.toNat e) auPeer s t ∧ (e < terminalEpoch → agingBlocks t c (e + 1) = false)) ∧
    (∃ (p : Fin 3) (h : LinkHdr) (es : List (Fin 16 × Nat)) (s : State) (t : State), Arrives (.conf p) h (.resolve (es.map fun q => (q.1.val, q.2))) auPeer s t ∧ OfMember p t) ∧
    (∃ (c : Fin 16) (s : State), s.conf.resolving = BitVec.ofNat 16 (2 ^ c.val)) ∧
    (∃ (p : Fin 3) (h : LinkHdr) (c : Fin 16) (r : CtxRec) (s : State) (t : State), OfMember p t ∧ Arrives (.conf p) h (.ctxsync c r) auPeer s t) ∧
    (∃ (p : Fin 3) (h : LinkHdr) (es : List (Fin 16 × Nat)) (s : State) (t : State), OfMember p t ∧ Arrives (.conf p) h (.epochs (es.map fun q => (q.1.val, q.2))) auPeer s t) :=
  ⟨⟨2, ⟨false, 1, 0⟩, 15, 1, closingUp, arr (.conf 2) (.commit 15 1) closingUp, by refine ⟨?_, ?_, arrives_of ?_ ?_, ?_⟩ <;> (try unfold OfMember) <;> decide +kernel⟩,
   ⟨2, ⟨false, 1, 0⟩, 15, 1, closingUp, arr (.conf 2) (.abandon 15 3 1) closingUp, 3, by refine ⟨?_, ?_, arrives_of ?_ ?_, ?_⟩ <;> (try unfold OfMember) <;> decide +kernel⟩,
   ⟨2, ⟨false, 1, 0⟩, [(15, 1)], confUp id ready, arr (.conf 2) (.resolve [(15, 1)]) (confUp id ready), by refine ⟨arrives_of ?_ ?_, ?_⟩ <;> (try unfold OfMember) <;> decide +kernel⟩,
   ⟨15, onConf ready fun c => { c with resolving := 0x8000 }, by decide +kernel⟩,
   ⟨2, ⟨false, 1, 0⟩, 15, rec1, confUp id ready, arr (.conf 2) (.ctxsync 15 rec1) (confUp id ready), by refine ⟨?_, arrives_of ?_ ?_⟩ <;> (try unfold OfMember) <;> decide +kernel⟩,
   ⟨2, ⟨false, 1, 0⟩, [(15, 1)], confUp id ready, arr (.conf 2) (.epochs [(15, 1)]) (confUp id ready), by refine ⟨?_, arrives_of ?_ ?_⟩ <;> (try unfold OfMember) <;> decide +kernel⟩⟩
theorem wit_ConfluenceFrames_4 :
    (∃ (p : Fin 3) (h : LinkHdr) (c : Fin 16) (e : Nat) (s : State) (t : State), OfMember p t ∧ Arrives (.conf p) h (.apply c e) auPeer s t) ∧
    (∃ (p : Fin 3) (h : LinkHdr) (c : Fin 16) (e : Nat) (s : State) (t : State), OfMember p t ∧ Arrives (.conf p) h (.have_ c e) auPeer s t) ∧
    (∃ (p : Fin 3) (h : LinkHdr) (r : Role) (k : Nat) (s : State) (t : State), OfMember p t ∧ Arrives (.conf p) h (.role (Role.code r) k) auPeer s t) ∧
    (∃ (p : Fin 3) (h : LinkHdr) (k : Nat) (s : State) (t : State), OfMember p t ∧ Arrives (.conf p) h (.switch k) auPeer s t ∧ t.mir.role = .standby) ∧
    (∃ (p : Fin 3) (h : LinkHdr) (s : State) (t : State), OfMember p t ∧ Arrives (.conf p) h (.switch 3) auPeer s t ∧ t.mir.role = .primary ∧ switchWaits t = false ∧ t.mir.handing = false ∧ (∃ m, t.mir.partner = some m ∧ m.role = 2)) ∧
    (∃ (p : Fin 3) (h : LinkHdr) (j : Fin 4) (s : State) (t : State), OfMember p t ∧ Arrives (.conf p) h (.lost j) auPeer s t ∧ j.val ≠ t.slot) :=
  ⟨⟨2, ⟨false, 1, 0⟩, 15, 1, confUp id ready, arr (.conf 2) (.apply 15 1) (confUp id ready), by refine ⟨?_, arrives_of ?_ ?_⟩ <;> (try unfold OfMember) <;> decide +kernel⟩,
   ⟨2, ⟨false, 1, 0⟩, 15, 1, confUp id ready, arr (.conf 2) (.have_ 15 1) (confUp id ready), by refine ⟨?_, arrives_of ?_ ?_⟩ <;> (try unfold OfMember) <;> decide +kernel⟩,
   ⟨2, ⟨false, 1, 0⟩, .standby, 1, confUp id ready, arr (.conf 2) (.role 2 1) (confUp id ready), by refine ⟨?_, arrives_of ?_ ?_⟩ <;> (try unfold OfMember) <;> decide +kernel⟩,
   ⟨2, ⟨false, 1, 0⟩, 3, onMir (confUp id ready) (fun m => { m with role := .standby }), arr (.conf 2) (.switch 3) (onMir (confUp id ready) (fun m => { m with role := .standby })), by refine ⟨?_, arrives_of ?_ ?_, ?_⟩ <;> (try unfold OfMember) <;> decide +kernel⟩,
   ⟨2, ⟨false, 1, 0⟩, (onMir (confUp id ready) (fun m => { m with role := .primary, partner := some { hello1 with role := 2 } })), arr (.conf 2) (.switch 3) (onMir (confUp id ready) (fun m => { m with role := .primary, partner := some { hello1 with role := 2 } })), (by unfold OfMember; decide +kernel), arrives_of (by decide +kernel) (by decide +kernel), by decide +kernel, by decide +kernel, by decide +kernel, ⟨_, rfl, rfl⟩⟩,
   ⟨2, ⟨false, 1, 0⟩, 2, confUp id ready, arr (.conf 2) (.lost 2) (confUp id ready), by refine ⟨?_, arrives_of ?_ ?_, ?_⟩ <;> (try unfold OfMember) <;> decide +kernel⟩⟩
theorem wit_ConfluenceFrames_5 :
    ∃ (j : Fin 4) (s : State), j.val ≠ s.slot ∧ s.conf.members.getLsbD j.val = true ∧ s.conf.lost.getLsbD j.val = false :=
  ⟨3, confUp id ready, by decide +kernel⟩
theorem wit_LinkCommands_1 :
    (∃ (d : Desc) (s : State), Served mirConfigInfo d [0] s ∧ mirConfigOk d = true ∧ portIdle (s.lifeOf .mir 0) = true ∧ portIdle (s.lifeOf .mir 1) = true) ∧
    (∃ (u : DueSet), u.op = 0x0D10) ∧
    (∃ (d : Desc) (s : State), Served mirQueryInfo d [0] s) ∧
    (∃ (d : Desc) (s : State), Served mirSwitchInfo d [0] s ∧ d.bit 16 0 = true ∧ s.mir.role = .solo ∧ s.mir.wasStandby = true) ∧
    (∃ (d : Desc) (s : State) (t : _), Served mirSwitchInfo d [0] s ∧ d.bit 16 0 = false ∧ s.mir.role = .primary ∧ s.mir.synced = true ∧ switchWaits s = false ∧ t = handOver (allPeers (.switch 3) s)) ∧
    (∃ (d : Desc) (s : State), Served mirResyncInfo d [0] s ∧ s.mir.partner.isSome = true ∧ s.mir.role = .primary) :=
  ⟨⟨(dd mirConfigInfo 0 [(16, 1), (18, 2), (20, 12000)] 0), (withCmd mirConfigInfo (dd mirConfigInfo 0 [(16, 1), (18, 2), (20, 12000)] 0) (inLife 45 .stopped ready)), by unfold Served; decide +kernel⟩,
   ⟨due 0x0D10, by decide +kernel⟩,
   ⟨(dd mirQueryInfo 0 [] 0), (withCmd mirQueryInfo (dd mirQueryInfo 0 [] 0) (ready)), by unfold Served; decide +kernel⟩,
   ⟨(dd mirSwitchInfo 0 [(16, 1)] 0), (withCmd mirSwitchInfo (dd mirSwitchInfo 0 [(16, 1)] 0) (onMir ready fun m => { m with role := .solo, wasStandby := true })), by unfold Served; decide +kernel⟩,
   ⟨(dd mirSwitchInfo 0 [] 0), (withCmd mirSwitchInfo (dd mirSwitchInfo 0 [] 0) (mirUp (fun m => { m with role := .primary, synced := true }) ready)), handOver (allPeers (.switch 3) (withCmd mirSwitchInfo (dd mirSwitchInfo 0 [] 0) (mirUp (fun m => { m with role := .primary, synced := true }) ready))), by refine ⟨?_, ?_, ?_, ?_, ?_, rfl⟩ <;> (try unfold Served) <;> decide +kernel⟩,
   ⟨(dd mirResyncInfo 0 [] 0), (withCmd mirResyncInfo (dd mirResyncInfo 0 [] 0) (mirUp (fun m => { m with role := .primary, partner := some hello1 }) ready)), by unfold Served; decide +kernel⟩⟩
theorem wit_LinkCommands_2 :
    (∃ (s : State), s.mir.switching = true) ∧
    (∃ (d : Desc) (s : State), Served confQueryInfo d [0] s) ∧
    (∃ (d : Desc) (s : State), Served confConfigInfo d [0] s ∧ confConfigOk d = true) ∧
    (∃ (d : Desc) (s : State), Served bootConfChipsInfo d [0] s ∧ 1 ≤ d.p 16 1 ∧ d.p 16 1 ≤ 4) ∧
    (∃ (u : DueSet), (u.op = 0x0E11 ∨ u.op = 0x1220)) :=
  ⟨⟨onMir ready fun m => { m with switching := true }, by decide +kernel⟩,
   ⟨(dd confQueryInfo 0 [] 0), (withCmd confQueryInfo (dd confQueryInfo 0 [] 0) (ready)), by unfold Served; decide +kernel⟩,
   ⟨(dd confConfigInfo 0 [(16, 4), (18, 60000)] 0), (withCmd confConfigInfo (dd confConfigInfo 0 [(16, 4), (18, 60000)] 0) (ready)), by unfold Served; decide +kernel⟩,
   ⟨(dd bootConfChipsInfo 0 [(16, 4)] 0), (withCmd bootConfChipsInfo (dd bootConfChipsInfo 0 [(16, 4)] 0) (svcOn ready)), by unfold Served; decide +kernel⟩,
   ⟨due 0x0E11, by decide +kernel⟩⟩
theorem wit_PeerLoss :
    (∃ (j : Nat) (c : Fin 16) (s : State), j ≠ s.slot ∧ s.conf.members.getLsbD j = true ∧ s.conf.lost.getLsbD j = false ∧ spansSlot s j c = true ∧ terminalEpoch ≤ (s.ctxAt c).epoch) ∧
    (∃ (j : Nat) (c : Fin 16) (s : State), j ≠ s.slot ∧ s.conf.members.getLsbD j = true ∧ s.conf.lost.getLsbD j = false ∧ spansSlot s j c = true ∧ (s.ctxAt c).epoch < terminalEpoch ∧ agingBlocks s c ((s.ctxAt c).epoch + 1) = false) ∧
    (∃ (j : Nat) (c : Fin 16) (s : State), j ≠ s.slot ∧ s.conf.members.getLsbD j = true ∧ s.conf.lost.getLsbD j = false ∧ spansSlot s j c = true ∧ (s.ctxAt c).epoch < terminalEpoch ∧ agingBlocks s c ((s.ctxAt c).epoch + 1) = true) ∧
    (∃ (j : Nat) (c : Fin 16) (s : State), j ≠ s.slot ∧ s.conf.members.getLsbD j = true ∧ s.conf.lost.getLsbD j = false ∧ spansSlot s j c = false) :=
  ⟨⟨3, 15, (confUp (fun c => { c with owners := vmod c.owners 15 fun _ => 8 }) ready).onCtx 15 fun x => { x with epoch := terminalEpoch }, by decide +kernel⟩,
   ⟨3, 15, confUp (fun c => { c with owners := vmod c.owners 15 fun _ => 8 }) ready, by decide +kernel⟩,
   ⟨3, 15, (confUp (fun c => { c with owners := vmod c.owners 15 fun _ => 8 }) ready).onCtx 15 fun x => { x with epoch := 4, aging := [5] }, by decide +kernel⟩,
   ⟨3, 15, confUp id ready, by decide +kernel⟩⟩
theorem wit_PowerRows_1 :
    (∃ (r : Fin 16) (s : State), (s.pwr.rail[r]).start = true ∧ (s.pwr.rail[r]).enPin = false ∧ (s.pwr.rail[r]).mode ≠ .falling ∧ (∀ d < 16, (s.pwr.rail[r]).cfg.dep.getLsbD d = true → (railAt s d).mode.isGood = true)) ∧
    (∃ (r : Fin 16) (s : State), (s.pwr.rail[r]).enPin = true ∧ ((s.pwr.rail[r]).mode = .rising ∨ (s.pwr.rail[r]).mode = .out)) ∧
    (∃ (r : Fin 16) (k : RailBad) (s : State), (s.pwr.rail[r]).enPin = true ∧ (s.pwr.rail[r]).cfg.en = true ∧ (k = .pg → (s.pwr.rail[r]).cfg.pgEn = true) ∧ (s.pwr.rail[r]).mode = .rising ∧ (s.pwr.rail[r]).attempts < 2) ∧
    (∃ (r : Fin 16) (k : RailBad) (s : State), (s.pwr.rail[r]).enPin = true ∧ (s.pwr.rail[r]).cfg.en = true ∧ (k = .pg → (s.pwr.rail[r]).cfg.pgEn = true) ∧ (s.pwr.rail[r]).mode = .good ∧ (s.pwr.rail[r]).cfg.react = 0 ∧ reacts s = true ∧ (s.pwr.rail[r]).cfg.retain = false) ∧
    (∃ (r : Fin 16) (s : State), (s.pwr.rail[r]).enPin = true ∧ (s.pwr.rail[r]).mode = .rising ∧ (s.pwr.rail[r]).stop = false) ∧
    (∃ (r : Fin 16) (s : State), (s.pwr.rail[r]).stop = true ∧ (s.pwr.rail[r]).enPin = true ∧ (∀ d < 16, (railAt s d).cfg.dep.getLsbD r.val = true → (railAt s d).alive = false)) :=
  ⟨⟨8, onRail (poweredOn ready) 8 fun x => { x with start := true, enPin := false, mode := .off, cfg := { x.cfg with dep := 0 } }, by decide +kernel⟩,
   ⟨8, onRail ready 8 fun x => { x with enPin := true, mode := .rising }, by decide +kernel⟩,
   ⟨8, .uv, onRail ready 8 fun x => { x with enPin := true, mode := .rising, attempts := 1, cfg := { x.cfg with en := true } }, by decide +kernel⟩,
   ⟨8, .pg, onRail (poweredOn ready) 8 fun x => { x with enPin := true, mode := .good, cfg := { x.cfg with en := true, pgEn := true, react := 0, retain := false } }, by decide +kernel⟩,
   ⟨8, onRail ready 8 fun x => { x with enPin := true, mode := .rising, stop := false }, by decide +kernel⟩,
   ⟨15, onRail ready 15 fun x => { x with enPin := true, stop := true }, by decide +kernel⟩⟩
theorem wit_PowerRows_2 :
    (∃ (r : Fin 16) (s : State), (s.pwr.rail[r]).mode = .falling) ∧
    (∃ (k : Fin 6) (s : State), s.pwr.seq = .on ∧ s.pwr.vddAon = true ∧ (∀ r < 16, (s.pwr.rst[k]).rails.getLsbD r = true → (railAt s r).mode.isGood = true)) ∧
    (∃ (s : State), s.pwr.seq = .off ∧ s.pwr.vddAon = true ∧ s.slu.inputGood = true ∧ s.pwr.minOffDone = true) ∧
    (∃ (s : State), s.pwr.seq = .offWait ∧ s.pwr.offThen = 2) ∧
    (∃ (s : State), s.pwr.seq = .offWait ∧ s.pwr.offThen = 1) ∧
    (∃ (s : State), s.pwr.vddAon = false) :=
  ⟨⟨8, onRail ready 8 fun x => { x with mode := .falling }, by decide +kernel⟩,
   ⟨5, poweredOn (mapRails (fun x => { x with mode := .good }) ready), by decide +kernel⟩,
   ⟨onSlu (onPwr ready fun p => { p with seq := .off, vddAon := true, minOffDone := true }) fun x => { x with inputGood := true }, by decide +kernel⟩,
   ⟨onPwr ready fun p => { p with seq := .offWait, offThen := 2 }, by decide +kernel⟩,
   ⟨onPwr ready fun p => { p with seq := .offWait, offThen := 1 }, by decide +kernel⟩,
   ⟨onPwr ready fun p => { p with vddAon := false }, by decide +kernel⟩⟩
theorem wit_PowerRows_3 :
    (∃ (v : Nat) (s : State), s.pwr.hubSt ≠ .measuring ∧ s.pwr.hubSt ≠ .saving ∧ s.pwr.hub.target ≤ v ∧ v * 100 ≤ s.pwr.hub.target * 105 ∧ s.pwr.overvolt = false ∧ s.pwr.measDue = false ∧ s.pwr.measCmd = false) ∧
    (∃ (s : State), s.pwr.chg = true ∧ s.pwr.chgTimeout = false) ∧
    (∃ (s : State), s.glb.state = 2 ∧ s.pwr.reachedTarget = true) ∧
    (∃ (v1 : Nat) (v2 : Nat) (s : State), s.pwr.hubSt = .measuring ∧ v2 < v1 ∧ v2 ≠ 0) ∧
    (∃ (b : List Byte) (rest : List (List Byte)) (s : State), s.pwr.heldLog = b :: rest ∧ powerSpan s = false ∧ s.glb.fil ≠ 0) ∧
    (∃ (d : Desc) (s : State), Served pwrQueryInfo d [0] s) :=
  ⟨⟨10800, onPwr ready fun p => { p with hubSt := .charging, hub := { p.hub with target := 10800 } }, by decide +kernel⟩,
   ⟨onPwr ready fun p => { p with chg := true }, by decide +kernel⟩,
   ⟨onPwr ready fun p => { p with reachedTarget := true }, by decide +kernel⟩,
   ⟨10000, 9990, onPwr ready fun p => { p with hubSt := .measuring }, by decide +kernel⟩,
   ⟨[1], [[2]], onPwr ready fun p => { p with heldLog := [[1], [2]] }, by decide +kernel⟩,
   ⟨(dd pwrQueryInfo 0 [] 0), (withCmd pwrQueryInfo (dd pwrQueryInfo 0 [] 0) (ready)), by unfold Served; decide +kernel⟩⟩
theorem wit_PowerRows_4 :
    (∃ (d : Desc) (s : State), Served pwrRailQueryInfo d [0] s ∧ d.p 16 1 < 16) ∧
    (∃ (d : Desc) (g : List Byte) (b : List Byte) (s : State), Served pwrTableWriteInfo d [0] s ∧ d.p 24 4 = 384 ∧ b = bufferOf s d 0x0F12 g ∧ b.length = 384 ∧ tableBad b = none) ∧
    (∃ (u : DueSet), u.op = 0x0F12) ∧
    (∃ (d : Desc) (s : State), Served pwrTableReadInfo d [0] s ∧ d.p 24 1 = 0) ∧
    (∃ (d : Desc) (g : Nat) (s : State), Served pwrGroupInfo d [0] s ∧ d.p 16 1 = g ∧ g < 4 ∧ d.p 17 1 = 0 ∧ holdsRetain s g = false) ∧
    (∃ (d : Desc) (g : Nat) (s : State), Served pwrGroupInfo d [0] s ∧ d.p 16 1 = g ∧ g < 4 ∧ d.p 17 1 = 1 ∧ holdsRetain s g = false ∧ (∀ r ∈ groupRails s g, ∀ k < 16, (railAt s r).cfg.dep.getLsbD k = true → (railAt s k).mode.isGood = true) ∧ (groupRails s g).all (fun r => (railAt s r).mode.isGood) = false) :=
  ⟨⟨(dd pwrRailQueryInfo 0 [(16, 15)] 0), (withCmd pwrRailQueryInfo (dd pwrRailQueryInfo 0 [(16, 15)] 0) (ready)), by unfold Served; decide +kernel⟩,
   ⟨(dd pwrTableWriteInfo 0 [(24, 384)] 0), table1, table1, (withCmd pwrTableWriteInfo (dd pwrTableWriteInfo 0 [(24, 384)] 0) (svcOn ready)), (by unfold Served; decide +kernel), by decide +kernel, by decide +kernel, by decide +kernel, table1_ok⟩,
   ⟨due 0x0F12, by decide +kernel⟩,
   ⟨(dd pwrTableReadInfo 0 [] 0), (withCmd pwrTableReadInfo (dd pwrTableReadInfo 0 [] 0) (ready)), by unfold Served; decide +kernel⟩,
   ⟨(dd pwrGroupInfo 0 [(16, 3), (17, 0)] 0), 3, (withCmd pwrGroupInfo (dd pwrGroupInfo 0 [(16, 3), (17, 0)] 0) (svcOn ready)), by unfold Served; decide +kernel⟩,
   ⟨(dd pwrGroupInfo 0 [(16, 3), (17, 1)] 0), 3, (withCmd pwrGroupInfo (dd pwrGroupInfo 0 [(16, 3), (17, 1)] 0) (svcOn (onRail ready 8 fun x => { x with mode := .off, cfg := { x.cfg with group := 3, en := true, retain := false, dep := 0 } }))), by unfold Served; decide +kernel⟩⟩
theorem wit_PowerRows_5 :
    (∃ (d : Desc) (s : State), Served pwrLatchClearInfo d [0] s ∧ s.pwr.seq = .latched) ∧
    (∃ (d : Desc) (s : State), Served pwrHubMeasureInfo d [0] s) ∧
    (∃ (s : State), s.pwr.measCmd = true ∧ s.pwr.hubSt ≠ .measuring) ∧
    (∃ (d : Desc) (s : State), Served pwrCycleInfo d [0] s) :=
  ⟨⟨(dd pwrLatchClearInfo 0 [] 0), (withCmd pwrLatchClearInfo (dd pwrLatchClearInfo 0 [] 0) (svcOn (onPwr ready fun p => { p with seq := .latched }))), by unfold Served; decide +kernel⟩,
   ⟨(dd pwrHubMeasureInfo 0 [] 0), (withCmd pwrHubMeasureInfo (dd pwrHubMeasureInfo 0 [] 0) (ready)), by unfold Served; decide +kernel⟩,
   ⟨onPwr ready fun p => { p with measCmd := true }, by decide +kernel⟩,
   ⟨(dd pwrCycleInfo 0 [] 0), (withCmd pwrCycleInfo (dd pwrCycleInfo 0 [] 0) (svcOn ready)), by unfold Served; decide +kernel⟩⟩
theorem wit_BackupDomainWork_1 :
    (∃ (s : State), s.bkd.inReset = false ∧ s.bkd.halt = false ∧ s.bkd.time.sub ≠ 1023) ∧
    (∃ (s : State), s.bkd.inReset = false ∧ s.bkd.halt = false ∧ s.bkd.time.sub = 1023 ∧ s.bkd.armed = false ∧ s.glb.state ≠ 2) ∧
    (∃ (s : State), s.bkd.onVbat = false ∧ s.bkd.swoValid = false) ∧
    (∃ (s : State), s.bkd.onVbat = true) ∧
    (∃ (mv : Nat) (s : State), s.pwr.vddAon = true ∧ mv > 2300) ∧
    (∃ (mv : Nat) (s : State), s.pwr.vddAon = true ∧ mv < 2200) :=
  ⟨⟨onBkd ready fun b => { b with inReset := false, halt := false, time := { b.time with sub := 1022 } }, by decide +kernel⟩,
   ⟨onBkd ({ ready with glb := { ready.glb with state := 1 } } : State) fun b => { b with inReset := false, halt := false, armed := false, time := { b.time with sub := 1023 } }, by decide +kernel⟩,
   ⟨onBkd ready fun b => { b with onVbat := false, swoValid := false }, by decide +kernel⟩,
   ⟨onBkd ready fun b => { b with onVbat := true }, by decide +kernel⟩,
   ⟨2301, poweredOn ready, by decide +kernel⟩,
   ⟨2199, poweredOn ready, by decide +kernel⟩⟩
theorem wit_BackupDomainWork_2 :
    (∃ (w : BkdWrite) (rest : List BkdWrite) (s : State), s.bkd.transit = w :: rest ∧ s.bkd.inReset = false ∧ w ≠ .setEnd) ∧
    (∃ (s : State), s.glb.fil ≠ 0) :=
  ⟨⟨.halt true, [], onBkd ready fun b => { b with inReset := false, transit := [.halt true] }, by decide +kernel⟩,
   ⟨ready, by decide +kernel⟩⟩
theorem wit_BackupAndIntegrityCommands_1 :
    (∃ (d : Desc) (s : State), Served bkdTimeGetInfo d [0] s) ∧
    (∃ (d : Desc) (s : State), Served bkdTimeSetInfo d [0] s ∧ fieldsOk (calOf (d.p 16 8)) = true ∧ s.bkd.setCmd = false) ∧
    (∃ (d : Desc) (s : State), Served bkdAlarmSetInfo d [0] s ∧ (d.bit 25 0 = true → fieldsOk (calOf (d.p 18 6 * 2 ^ 16 + 2 ^ 10)) = true)) ∧
    (∃ (d : Desc) (s : State), Served bkdAlarmAckInfo d [0] s) ∧
    (∃ (d : Desc) (s : State), Served bkdSwoClearInfo d [0] s) ∧
    (∃ (d : Desc) (s : State), Served errQueryInfo d [0] s ∧ d.p 16 1 ≤ 36) :=
  ⟨⟨(dd bkdTimeGetInfo 0 [] 0), (withCmd bkdTimeGetInfo (dd bkdTimeGetInfo 0 [] 0) (ready)), by unfold Served; decide +kernel⟩,
   ⟨(dd bkdTimeSetInfo 0 [(16, 0x9912312359590400)] 0), (withCmd bkdTimeSetInfo (dd bkdTimeSetInfo 0 [(16, 0x9912312359590400)] 0) (onBkd ready fun b => { b with setCmd := false })), by unfold Served; decide +kernel⟩,
   ⟨(dd bkdAlarmSetInfo 0 [(18, 0x991231235959)] 0), (withCmd bkdAlarmSetInfo (dd bkdAlarmSetInfo 0 [(18, 0x991231235959)] 0) (ready)), by unfold Served; decide +kernel⟩,
   ⟨(dd bkdAlarmAckInfo 0 [] 0), (withCmd bkdAlarmAckInfo (dd bkdAlarmAckInfo 0 [] 0) (ready)), by unfold Served; decide +kernel⟩,
   ⟨(dd bkdSwoClearInfo 0 [] 0), (withCmd bkdSwoClearInfo (dd bkdSwoClearInfo 0 [] 0) (ready)), by unfold Served; decide +kernel⟩,
   ⟨(dd errQueryInfo 0 [(16, 36)] 0), (withCmd errQueryInfo (dd errQueryInfo 0 [(16, 36)] 0) (ready)), by unfold Served; decide +kernel⟩⟩
theorem wit_BackupAndIntegrityCommands_2 :
    (∃ (d : Desc) (s : State), Served errConfigInfo d [0] s ∧ 1 ≤ d.p 16 1 ∧ 2 ≤ d.p 17 1 ∧ d.p 17 1 ≤ 254 ∧ d.p 17 1 < d.p 18 1) ∧
    (∃ (u : DueSet), u.op = 0x0A11) ∧
    (∃ (d : Desc) (l : Nat) (g : Nat) (s : State), Served errInjectInfo d [0] s ∧ g ≤ 3 ∧ d.p 32 1 = g ∧ hostBehind s l = false ∧ d.p 24 8 / 2 ^ 38 = s.slot ∧ l = d.p 24 8 % 2 ^ 38 / 256 ∧ s.segExists (segOf l) = true ∧ (s.eff l).1 ≠ .never ∧ (s.eff l).1 ≠ .unrestored ∧ (d.p 16 1 = 3 → (s.lineAt l).valid.getLsbD g = true)) ∧
    (∃ (d : Desc) (s : State), Served errBktResetInfo d [0] s ∧ d.p 16 1 ≤ 36) ∧
    (∃ (d : Desc) (s : State), Served errBktResetInfo d [0] s ∧ d.p 16 1 = 0xFF) ∧
    (∃ (s : State), s.err.cfgNext = none) :=
  ⟨⟨(dd errConfigInfo 0 [(16, 1), (17, 254), (18, 255)] 0), (withCmd errConfigInfo (dd errConfigInfo 0 [(16, 1), (17, 254), (18, 255)] 0) (ready)), by unfold Served; decide +kernel⟩,
   ⟨due 0x0A11, by decide +kernel⟩,
   ⟨(dd errInjectInfo 0 [(16, 1), (24, 0x500), (32, 3)] 0), 5, 3, (withCmd errInjectInfo (dd errInjectInfo 0 [(16, 1), (24, 0x500), (32, 3)] 0) (svcOn (segIn .latest (line5 .dirty ready)))), by unfold Served; decide +kernel⟩,
   ⟨(dd errBktResetInfo 0 [(16, 36)] 0), (withCmd errBktResetInfo (dd errBktResetInfo 0 [(16, 36)] 0) (svcOn ready)), by unfold Served; decide +kernel⟩,
   ⟨(dd errBktResetInfo 0 [(16, 255)] 0), (withCmd errBktResetInfo (dd errBktResetInfo 0 [(16, 255)] 0) (svcOn ready)), by unfold Served; decide +kernel⟩,
   ⟨ready, by decide +kernel⟩⟩
theorem wit_BackupAndIntegrityCommands_3 :
    ∃ (i : Nat) (t : Nat) (r : Nat) (s : State), s.err.cfgNext = some (i, t, r) :=
  ⟨4, 100, 9, { ready with err := { ready.err with cfgNext := some (4, 100, 9) } }, by decide +kernel⟩
theorem wit_LedgerCommands_1 :
    (∃ (d : Desc) (s : State), Served ldgQueryInfo d [0] s) ∧
    (∃ (d : Desc) (g : List Byte) (buf : List Byte) (s : State), Served ldgTagWriteInfo d [0] s ∧ buf = bufferOf s d 0x1111 g ∧ bufOk buf (d.p 24 2) 1 496 = true) ∧
    (∃ (d : Desc) (r : LRec) (s : State), Served ldgTagReadInfo d [0] s ∧ current (s.searched 1).1 (0x20, 0, []) = some r) ∧
    (∃ (d : Desc) (s : State), Served ldgEventReadInfo d [0] s ∧ 1 ≤ d.p 28 2 ∧ d.p 28 2 ≤ 256 ∧ ((newestFirst (s.searched 10).1).drop (d.p 24 4)).take (d.p 28 2) ≠ []) ∧
    (∃ (d : Desc) (g : List Byte) (buf : List Byte) (s : State), Served ldgUserAppendInfo d [0] s ∧ d.p 16 1 ≤ 1 ∧ buf = bufferOf s d 0x1114 g ∧ bufOk buf (d.p 32 2) 1 496 = true) ∧
    (∃ (d : Desc) (r : LRec) (s : State), Served ldgUserReadInfo d [0] s ∧ d.p 16 1 ≤ 1 ∧ (newestFirst (s.searched (11 + d.p 16 1)).1)[d.p 20 4]? = some r) :=
  ⟨⟨(dd ldgQueryInfo 0 [] 0), (withCmd ldgQueryInfo (dd ldgQueryInfo 0 [] 0) (ready)), by unfold Served; decide +kernel⟩,
   ⟨(dd ldgTagWriteInfo 0 [(24, 1)] 0), [7], [7], (withCmd ldgTagWriteInfo (dd ldgTagWriteInfo 0 [(24, 1)] 0) (ready)), by refine ⟨?_, rfl, ?_⟩ <;> (try unfold Served) <;> decide +kernel⟩,
   ⟨(dd ldgTagReadInfo 0 [] 0), ⟨128, 1, 0x20, 0, 1, [7], recordBytes 0x20 0 1 [7]⟩, (withCmd ldgTagReadInfo (dd ldgTagReadInfo 0 [] 0) (withRecord 1 0x20 ready)), by unfold Served; decide +kernel⟩,
   ⟨(dd ldgEventReadInfo 0 [(28, 256)] 0), (withCmd ldgEventReadInfo (dd ldgEventReadInfo 0 [(28, 256)] 0) (withRecord 10 4 ready)), by unfold Served; decide +kernel⟩,
   ⟨(dd ldgUserAppendInfo 0 [(16, 1), (32, 1)] 0), [7], [7], (withCmd ldgUserAppendInfo (dd ldgUserAppendInfo 0 [(16, 1), (32, 1)] 0) (ready)), by refine ⟨?_, ?_, rfl, ?_⟩ <;> (try unfold Served) <;> decide +kernel⟩,
   ⟨(dd ldgUserReadInfo 0 [(16, 1)] 0), ⟨3840, 1, 0x30, 0, 1, [7], recordBytes 0x30 0 1 [7]⟩, (withCmd ldgUserReadInfo (dd ldgUserReadInfo 0 [(16, 1)] 0) (withRecord 12 0x30 ready)), by unfold Served; decide +kernel⟩⟩
theorem wit_LedgerCommands_2 :
    (∃ (d : Desc) (s : State), Served ldgRawReadInfo d [0] s ∧ 1 ≤ d.p 20 2 ∧ d.p 20 2 ≤ 4096 ∧ d.p 16 4 + d.p 20 2 ≤ 0x40000) ∧
    (∃ (d : Desc) (g : List Byte) (buf : List Byte) (s : State), Served ldgRawWriteInfo d [0] s ∧ buf = bufferOf s d 0x1117 g ∧ bufOk buf (d.p 20 1) 1 64 = true ∧ d.p 16 4 < 0x40000 ∧ (s.ldg.locked = false ∨ 0x2000 ≤ d.p 16 4)) ∧
    (∃ (pw : PageWrite) (q : PageWrite) (rest : List PageWrite) (j : LdgJob) (js : List LdgJob) (s : State), s.ldg.pages = pw :: q :: rest ∧ s.ldg.jobs = j :: js ∧ (∀ u ∈ s.host.dueSets, u.ready = false)) ∧
    (∃ (s : State), s.glb.state = 2 ∧ s.err.repairPending = true ∧ s.err.voteAnchor ≠ 3 ∧ repairing s.ldg = false) :=
  ⟨⟨(dd ldgRawReadInfo 0 [(16, 0x3F000), (20, 4096)] 0), (withCmd ldgRawReadInfo (dd ldgRawReadInfo 0 [(16, 0x3F000), (20, 4096)] 0) (svcOn ready)), by unfold Served; decide +kernel⟩,
   ⟨(dd ldgRawWriteInfo 0 [(16, 0x3FFFF), (20, 1)] 0), [7], [7], (withCmd ldgRawWriteInfo (dd ldgRawWriteInfo 0 [(16, 0x3FFFF), (20, 1)] 0) (svcOn ready)), by refine ⟨?_, rfl, ?_, ?_, ?_⟩ <;> (try unfold Served) <;> decide +kernel⟩,
   ⟨page2, page2, [], job2, [], { ready with ldg := { ready.ldg with pages := [page2, page2], jobs := [job2] } }, by decide +kernel⟩,
   ⟨{ ready with err := { ready.err with repairPending := true, voteAnchor := 1 } }, by decide +kernel⟩⟩
theorem wit_LockedFactoryRefusesRawWrites :
    ∃ (d : Desc) (g : List Byte) (s : State), Served ldgRawWriteInfo d [0] s ∧ bufOk (bufferOf s d 0x1117 g) (d.p 20 1) 1 64 = true ∧ d.p 16 4 < 0x2000 ∧ s.ldg.locked = true :=
  ⟨(dd ldgRawWriteInfo 0 [(16, 0x1FFF), (20, 1)] 0), [7], (withCmd ldgRawWriteInfo (dd ldgRawWriteInfo 0 [(16, 0x1FFF), (20, 1)] 0) (svcOn { ready with ldg := { ready.ldg with locked := true } })), by unfold Served; decide +kernel⟩
theorem wit_LedgerPageReadsBack :
    ∃ (pw : PageWrite) (rest : List PageWrite) (j : LdgJob) (js : List LdgJob) (s : State), s.ldg.pages = pw :: rest ∧ rest ≠ [] ∧ s.ldg.jobs = j :: js ∧ (∀ u ∈ s.host.dueSets, u.ready = false) ∧ s.ldg.cut = [] ∧ pw.data.length = 64 ∧ mwf 0xFF s.ldg.mem = true :=
  ⟨page2, [page2], job2, [], { ready with ldg := { ready.ldg with pages := [page2, page2], jobs := [job2] } }, by decide +kernel⟩
theorem wit_StartUp_1 :
    (∃ (s : State), s.pwr.vddAon = true ∧ s.pwr.seq = .on ∧ s.boot.coreOut = false) ∧
    (∃ (ra : Nat) (rb : Nat) (s : State), s.boot.coreOut = true ∧ s.boot.testEn = false ∧ s.boot.stage = 0 ∧ s.glb.fil = 0 ∧ s.glb.state = 0 ∧ s.glb.bootsrc = 0 ∧ chooseCopy (bootNow s) = (none, ra, rb)) ∧
    (∃ (x : FwImage) (s : State), s.boot.coreOut = true ∧ s.boot.stage = 4 ∧ runningImage s.boot = some x) ∧
    (∃ (a : BitVec 4) (s : State), s.boot.coreOut = true ∧ s.boot.stage = 5 ∧ s.glb.state = 0 ∧ a ≠ 0xF) ∧
    (∃ (d : Desc) (g : List Byte) (b : List Byte) (s : State), Served bootLoadInfo d [0] s ∧ b = bufferOf s d 0x1210 g ∧ d.p 16 4 % 4096 = 0 ∧ bufOk b (d.p 20 2) 1 4096 = true ∧ romServes s = true) ∧
    (∃ (d : Desc) (g : List Byte) (b : List Byte) (s : State), Served bootLoadInfo d [0] s ∧ b = bufferOf s d 0x1210 g ∧ d.p 16 4 % 4096 = 0 ∧ bufOk b (d.p 20 2) 1 4096 = true ∧ romServes s = false) :=
  ⟨⟨onBoot (poweredOn ready) fun b => { b with coreOut := false }, by decide +kernel⟩,
   ⟨1, 1, romRuns 0 0, by decide +kernel⟩,
   ⟨image1, onBoot (romRuns 4 0) fun b => { b with copy := 1, copies := #v[(some State.reset.store.ncfg, some image1), (none, none)] }, by decide +kernel⟩,
   ⟨7, romRuns 5 0, by decide +kernel⟩,
   ⟨(dd bootLoadInfo 0 [(16, 4096), (20, 1)] 0), [7], [7], (withCmd bootLoadInfo (dd bootLoadInfo 0 [(16, 4096), (20, 1)] 0) (romRuns 3 0)), by refine ⟨?_, rfl, ?_, ?_, ?_⟩ <;> (try unfold Served) <;> decide +kernel⟩,
   ⟨(dd bootLoadInfo 0 [(16, 4096), (20, 1)] 0), [7], [7], (withCmd bootLoadInfo (dd bootLoadInfo 0 [(16, 4096), (20, 1)] 0) (svcOn ready)), by refine ⟨?_, rfl, ?_, ?_, ?_⟩ <;> (try unfold Served) <;> decide +kernel⟩⟩
theorem wit_StartUp_2 :
    (∃ (d : Desc) (s : State), Served bootRunInfo d [0] s ∧ romServes s = true ∧ imageReason s.boot.revoked (loadedImage s.boot.loaded) ≠ 0) ∧
    (∃ (d : Desc) (s : State), Served bootFwQueryInfo d [0] s) ∧
    (∃ (d : Desc) (k : Nat) (s : State), Served bootKeyRevokeInfo d [0] s ∧ d.p 16 1 = k ∧ k ≤ 3 ∧ signsAll (bootNow s) k = true) ∧
    (∃ (d : Desc) (s : State), Served bootResetInfo d [0] s ∧ (s.glb.state = 0 ∨ s.glb.state = 4)) ∧
    (∃ (d : Desc) (s : State), Served bootResetInfo d [0] s ∧ s.glb.state ≠ 0 ∧ s.glb.state ≠ 4) :=
  ⟨⟨(dd bootRunInfo 0 [] 0), (withCmd bootRunInfo (dd bootRunInfo 0 [] 0) (romRuns 3 0)), by unfold Served; decide +kernel⟩,
   ⟨(dd bootFwQueryInfo 0 [] 0), (withCmd bootFwQueryInfo (dd bootFwQueryInfo 0 [] 0) (ready)), by unfold Served; decide +kernel⟩,
   ⟨(dd bootKeyRevokeInfo 0 [(16, 3)] 0), 3, (withCmd bootKeyRevokeInfo (dd bootKeyRevokeInfo 0 [(16, 3)] 0) (svcOn ready)), by unfold Served; decide +kernel⟩,
   ⟨(dd bootResetInfo 0 [] 0), (withCmd bootResetInfo (dd bootResetInfo 0 [] 0) (romRuns 3 0)), by unfold Served; decide +kernel⟩,
   ⟨(dd bootResetInfo 0 [] 0), (withCmd bootResetInfo (dd bootResetInfo 0 [] 0) (svcOn ready)), by unfold Served; decide +kernel⟩⟩
theorem wit_EveryStepKeepsInvariants :
    (∃ (s : State) (t : State), step s = .next t ∧ s.MemOk) ∧
    (∃ (s : State) (t : State), step s = .next t ∧ s.boot.revoked ≠ 0xF) :=
  ⟨⟨ready, tick ready, by rfl, by unfold State.MemOk; decide +kernel⟩,
   ⟨ready, tick ready, by rfl, by decide +kernel⟩⟩
/-! Whether an image verifies is open (log entry 3), so a state with a verified image is shown from any image that verifies. -/
theorem reasons_of {x : FwImage} (hx : imageReason 0 x = 0) : headReason 0#4 x = 0 ∧ codeReason x = 0 := by
  by_cases h : headReason 0#4 x = 0
  · exact ⟨h, by simpa [imageReason, h] using hx⟩
  · simp [imageReason, h] at hx
theorem resetPages_read (n ppa : Nat) : wordsRead State.reset.store ppa n = true := by
  have h : ∀ c : Fin 16, decide (State.reset.store.ch[c].restarts ≥ 3) = false := by decide +kernel
  have hb : State.reset.store.badWords = [] := by decide +kernel
  rw [wordsRead, nchDead, h, hb]; rfl
/-- Ready, with image `x` in the first copy and no image in the second. -/
def imaged (x : FwImage) (s : State) : State :=
  onBoot s fun b => { b with revoked := 0, copies := #v[(some State.reset.store.ncfg, some x), (none, none)] }
theorem imaged_now (x : FwImage) (s : State) (h : s.store = State.reset.store) :
    (bootNow (imaged x s)).copies = #v[(some State.reset.store.ncfg, some x), (none, none)] ∧ (bootNow (imaged x s)).revoked = 0 := by
  have hn : (ncfgPages State.reset.store 0).any (headReads State.reset.store) = true := by decide +kernel
  have hp : ∀ ppa, pageReads State.reset.store ppa = true := resetPages_read 16
  have hh : ∀ ppa, headReads State.reset.store ppa = true := resetPages_read 4
  simp [bootNow, copyRead, imaged, onBoot, h, hn, hp, hh]
  exact ite_self _
theorem wit_StartUp_verifiedCopy (x : FwImage) (hx : imageReason 0 x = 0) :
    ∃ (i : Fin 2) (ra rb : Nat) (s : State), s.boot.coreOut = true ∧ s.boot.testEn = false ∧ s.boot.stage = 0 ∧ s.glb.fil = 0 ∧
      s.glb.state = 0 ∧ (s.glb.bootsrc = 0 ∨ s.glb.bootsrc = 2) ∧ chooseCopy (bootNow s) = (some i, ra, rb) ∧
      s.boot.copies[i].2 = some x := by
  obtain ⟨h1, h2⟩ := reasons_of hx
  obtain ⟨hc, hr⟩ := imaged_now x (romRuns 0 0) rfl
  refine ⟨0, 0, 1, imaged x (romRuns 0 0), rfl, rfl, rfl, rfl, rfl, .inl rfl, ?_, rfl⟩
  simp [chooseCopy, copyReason, copyHead, hc, hr, h1, h2]
theorem wit_StartUp_verifiedLoad (m : AMap Byte) (hm : imageReason 0 (loadedImage m) = 0) :
    ∃ (d : Desc) (s : State), Served bootRunInfo d [0] s ∧ romServes s = true ∧
      imageReason s.boot.revoked (loadedImage s.boot.loaded) = 0 := by
  refine ⟨dd bootRunInfo 0 [] 0, onBoot (withCmd bootRunInfo (dd bootRunInfo 0 [] 0) (romRuns 3 0)) fun b =>
    { b with revoked := 0, loaded := m }, ⟨rfl, rfl, rfl, rfl, rfl⟩, rfl, hm⟩
theorem wit_StartUp_verifiedUpdate (b : List Byte) (hl : b.length = 8192) (hx : imageReason 0 (parseImage b) = 0)
    (hy : imageReason 0 { parseImage b with seq := 1 } = 0) :
    ∃ (d : Desc) (g b : List Byte) (x y : FwImage) (s : State), Served bootFwUpdateInfo d [0] s ∧ b = bufferOf s d 0x1212 g ∧
      1 ≤ d.p 24 4 ∧ b.length = d.p 24 4 ∧ s.glb.state = 2 ∧ x = parseImage b ∧ imageReason s.boot.revoked x = 0 ∧
      y = { x with seq := highestSeq (bootNow s) + 1 } ∧ imageReason s.boot.revoked y = 0 := by
  refine ⟨dd bootFwUpdateInfo 0 [(24, 8192)] 0, b, b, parseImage b, { parseImage b with seq := 1 },
    onBoot (withCmd bootFwUpdateInfo (dd bootFwUpdateInfo 0 [(24, 8192)] 0) (svcOn ready)) fun k =>
      { k with revoked := 0, copies := #v[(none, none), (none, none)] },
    by unfold Served; decide +kernel, rfl, by decide +kernel, ?_, rfl, rfl, hx, ?_, hy⟩
  · rw [hl]; decide +kernel
  · rw [show highestSeq _ = 0 by decide +kernel]
theorem wit_StartUp_verifiedRevoke (x : FwImage) (hx : imageReason 0 x = 0) (hk : x.keyIndex ≠ 3) :
    ∃ (d : Desc) (k : Nat) (s : State), Served bootKeyRevokeInfo d [0] s ∧ d.p 16 1 = k ∧ k ≤ 3 ∧ signsAll (bootNow s) k = false ∧
      s.boot.revoked ||| BitVec.ofNat 4 (2 ^ k) ≠ 0xF := by
  obtain ⟨h1, h2⟩ := reasons_of hx
  obtain ⟨hc, hr⟩ := imaged_now x (withCmd bootKeyRevokeInfo (dd bootKeyRevokeInfo 0 [(16, 3)] 0) (svcOn ready)) rfl
  refine ⟨dd bootKeyRevokeInfo 0 [(16, 3)] 0, 3, imaged x (withCmd bootKeyRevokeInfo (dd bootKeyRevokeInfo 0 [(16, 3)] 0) (svcOn ready)),
    ⟨rfl, rfl, rfl, rfl, rfl⟩, by decide +kernel, by decide, ?_, by simp [imaged, onBoot]⟩
  simp [signsAll, copyReason, copyHead, hc, hr, h1, h2, hk]
end Sys2Proof.Tests
end

/-! # Descriptors as they arrive: steps 1 to 3 of R57 and what each answer records (R51, R57) -/
namespace Sys2Proof.Machine
section descriptors
variable {i : CmdInfo} {d : Desc} {op st : Nat} {inl : List Byte} {s : State}
/-- Step 2 of R57 decides once the form is good: authority is not looked at. -/
theorem firstRefusal_of_tagOutstanding (hform : formOk i d = true) (htag : tagOutstanding s d = true) :
    firstRefusal i d s = some St.conflict := by
  simp [firstRefusal, hform, htag]
theorem firstRefusal_eq_none_iff :
    firstRefusal i d s = none ↔ formOk i d = true ∧ tagOutstanding s d = false ∧ s.holds d.port i.auth = true := by
  unfold firstRefusal
  cases formOk i d <;> cases tagOutstanding s d <;> simp
theorem takeDesc_of_firstRefusal (hinfo : infoOf op = some i) (hfirst : firstRefusal i d s = some st) :
    takeDesc d op inl s = recordRefused op d st s := by
  simp [takeDesc, hinfo, hfirst]
theorem takeDesc_of_firstRefusal_none (hinfo : infoOf op = some i) (hfirst : firstRefusal i d s = none) :
    takeDesc d op inl s = accept i d inl s := by
  simp [takeDesc, hinfo, hfirst]
/-- Only a refusal for want of authority is counted and reported (R55); any other is the finished command alone. -/
theorem recordRefused_of_ne_authority (hst : st ≠ St.authority) (halive : portAlive s d.port = true) :
    recordRefused op d st s = onCmds s d.port fun cs => cs ++
      [{ newCmd d op s.host.accepts [] with phase := .finished, status := BitVec.ofNat 16 st }] := by
  simp [recordRefused, hst, halive]
end descriptors
/-- Settles O10: step 2 of R57 reads the commands of the descriptor's own mailbox only, so a TAG outstanding there is refused
with `ST_CONFLICT`, and any other is accepted where the authority of step 3 is held. -/
theorem duplicateTagConflicts : Obligations.DuplicateTagConflicts := by
  intro i d op inl s hinfo hform
  refine ⟨fun htag halive => ?conflict, fun htag hauth => ?accepted⟩
  case conflict =>
    rw [takeDesc_of_firstRefusal hinfo (firstRefusal_of_tagOutstanding hform htag)]
    exact recordRefused_of_ne_authority (by decide) halive
  case accepted =>
    exact takeDesc_of_firstRefusal_none hinfo (firstRefusal_eq_none_iff.mpr ⟨hform, htag, hauth⟩)
end Sys2Proof.Machine

/-! # Commands that name no target (R57 step 5), and a segment command whose INSTANCE names no segment (R81, R91) -/
namespace Sys2Proof.Machine
section absentTargets
variable {g : Nat} {i : CmdInfo} {d : Desc} {rng : Bool} {f : List Nat → State → State} {s : State}
theorem State.segExists_iff : s.segExists g = true ↔ g < s.usable :=
  decide_eq_true_iff
theorem targets_segment_eq_none (habsent : s.usable ≤ d.inst.toNat) : targets s .segment d = none := by
  have hexists : ¬ s.segExists d.inst.toNat = true := fun h => absurd (State.segExists_iff.mp h) (by omega)
  simp [targets, hexists]
/-- Step 5 of R57 fails: only `SEG_SET_CLASS` puts its INSTANCE into RESULT (R91). That no earlier command on the unit is still
to take effect is needed: behind one, the command waits (R50). -/
theorem command_of_targets_eq_none (haccepted : isAccepted s d i.op = true) (hfence : fenced (cmdsOf s d.port) d.tag = false)
    (hfirst : mustFollow s i.op d = false) (hready : readyFor s i = true) (htargets : targets s i.sel d = none) :
    command i d rng f s = finish d St.badTarget (if i.op = 0x0311 ∧ d.sel = 0 then d.inst.toNat else 0) s := by
  simp [command, start, startAccepted, haccepted, hfence, hfirst, hready, htargets]
theorem command_segSetClass_of_absentSegment (haccepted : isAccepted s d 0x0311 = true)
    (hfence : fenced (cmdsOf s d.port) d.tag = false) (hfirst : mustFollow s 0x0311 d = false)
    (hready : readyFor s segSetClassInfo = true) (hsel : d.sel = 0) (habsent : s.usable ≤ d.inst.toNat) :
    command segSetClassInfo d rng f s = finish d St.badTarget d.inst.toNat s := by
  have hcommand := command_of_targets_eq_none (i := segSetClassInfo) (rng := rng) (f := f) haccepted hfence hfirst hready
    (targets_segment_eq_none habsent)
  rwa [if_pos ⟨rfl, hsel⟩] at hcommand
end absentTargets
/-! ## A `SEG_SET_CLASS` of a segment that does not exist -/
/-- `SEG_SET_CLASS` on MQ0 with COUNT 1, of the segment numbered with all of installed memory, which is not below
`SEG_USABLE` (R76). -/
def setClassOfAbsent : Desc :=
  { port := 0, sqi := 0, tag := 7, unit := 0x03, sel := 0, flags := 0, inst := 16384, rsv := 0, param := 1 }
/-- A device in READY whose MQ0 is ACTIVE. -/
def readyOnMq0 : State :=
  { State.reset with
    glb := { State.reset.glb with state := 2, fil := 0x0100 }
    host := { State.reset.host with mq := vmod State.reset.host.mq 0 fun m => { m with state := .active } } }
/-- That device once it has fetched the command: steps 1 to 3 of R57 pass, and it is accepted. -/
def absentFetched : State := takeDesc setClassOfAbsent segSetClassInfo.op [] readyOnMq0
theorem results_finish_absentFetched (r : Nat) :
    (cmdsOf (finish setClassOfAbsent St.badTarget r absentFetched) 0).map Cmd.result = [BitVec.ofNat 64 r] := by
  rfl
/-- Refutes O15: its second clause has every segment command complete with RESULT 0, but a `SEG_SET_CLASS` that names no
segment completes with the number of the segment that fails (R91), which is 16,384 in `absentFetched`. -/
theorem not_segmentsBelowUsable : ¬ Obligations.SegmentsBelowUsable := by
  unfold Obligations.SegmentsBelowUsable
  rintro ⟨-, hresultZero, -⟩
  have haccepted : isAccepted absentFetched setClassOfAbsent segSetClassInfo.op = true := by decide +kernel
  have hfence : fenced (cmdsOf absentFetched setClassOfAbsent.port) setClassOfAbsent.tag = false := by decide +kernel
  have hfirst : mustFollow absentFetched segSetClassInfo.op setClassOfAbsent = false := by decide +kernel
  have hready : readyFor absentFetched segSetClassInfo = true := by decide +kernel
  have habsent : absentFetched.usable ≤ setClassOfAbsent.inst.toNat := by decide +kernel
  have hclaimed := hresultZero segSetClassInfo setClassOfAbsent true (fun _ s => s) absentFetched rfl haccepted hfence hready
    rfl habsent
  rw [command_segSetClass_of_absentSegment haccepted hfence hfirst hready rfl habsent] at hclaimed
  have hresults : [BitVec.ofNat 64 16384] = [BitVec.ofNat 64 0] :=
    calc [BitVec.ofNat 64 16384]
        = (cmdsOf (finish setClassOfAbsent St.badTarget 16384 absentFetched) 0).map Cmd.result :=
          (results_finish_absentFetched 16384).symm
      _ = (cmdsOf (finish setClassOfAbsent St.badTarget 0 absentFetched) 0).map Cmd.result :=
          congrArg (fun t => (cmdsOf t 0).map Cmd.result) hclaimed
      _ = [BitVec.ofNat 64 0] := results_finish_absentFetched 0
  exact absurd hresults (by decide)
end Sys2Proof.Machine

/-! # The effective state of a line, and the line table at a close and at an abandon (R117)
A close and an abandon reach the links, the mirror, the scan, the modules and the retained memory by many small updates. Each has
its rule below: it keeps the whole retained memory, or, where it changes contexts, copies, writes or shadows, the line table. -/
namespace Sys2Proof.Machine
/-! ## Updates that leave the retained memory -/
section keepsRetained
variable (s : State) (c : Fin 16) (e : Nat) (l : LinkId) (m : LinkMsg)
@[simp] theorem onLink_ret (f : LinkPort → LinkPort) : (onLink s l f).ret = s.ret := by
  cases l <;> rfl
@[simp] theorem emitFrame_ret (f : BitVec 16) : (emitFrame l f m s).ret = s.ret := by
  simp [emitFrame]
@[simp] theorem pump_ret (n : Nat) : (pump l n s).ret = s.ret := by
  induction n generalizing s with
  | zero => rfl
  | succ n ih =>
    rw [pump]
    cases (linkOf s l).backlog with
    | nil => rfl
    | cons _ rest => dsimp only; split <;> simp [ih]
@[simp] theorem sendOn_ret : (sendOn l m s).ret = s.ret := by
  unfold sendOn; split <;> simp
@[simp] theorem sendTo_ret (js : List Nat) : (sendTo js m s).ret = s.ret :=
  foldl_keeps State.ret _ (fun t j => sendOn_ret t (portTo t j) m) js s
@[simp] theorem duePacket_ret (p : PktDue) : (duePacket p s).ret = s.ret := by
  unfold duePacket; split <;> simp
@[simp] theorem onPkt_ret (n : Nat) (f : PktTx → PktTx) : (onPkt n f s).ret = s.ret := rfl
@[simp] theorem dueEpoch_ret (ls : List Nat) : (dueEpoch c e ls s).ret = s.ret := by
  unfold dueEpoch; repeat' split
  all_goals simp
@[simp] theorem dueContext_ret : (dueContext c s).ret = s.ret := by
  unfold dueContext; repeat' split
  all_goals simp
@[simp] theorem takePublishes_ret (capture : Bool) : (takePublishes c e capture s).ret = s.ret := rfl
@[simp] theorem noteWait_ret (before : State) : (noteWait before s).ret = s.ret := rfl
@[simp] theorem planesAnew_ret (ps : List PlaneSt) : (planesAnew c ps s).ret = s.ret := rfl
@[simp] theorem resyncAll_ret : (resyncAll c s).ret = s.ret := rfl
@[simp] theorem noteOverrun_ret : (noteOverrun c s).ret = s.ret := by
  unfold noteOverrun; dsimp only; repeat' split
  all_goals simp
@[simp] theorem queuePass_ret (swap : Option Swap) : (queuePass c e swap s).ret = s.ret := by
  unfold queuePass; dsimp only; repeat' split
  all_goals simp
@[simp] theorem scanCommit_ret : (scanCommit c e s).ret = s.ret := by
  unfold scanCommit; dsimp only; repeat' split
  all_goals simp
@[simp] theorem tellAbandoned_ret (cause : Nat) : (tellAbandoned c e cause s).ret = s.ret := by
  unfold tellAbandoned; split <;> simp
end keepsRetained
/-! ## Updates of contexts, copies, writes and shadows: the line table stays -/
section keepsLines
variable (s : State) (c : Fin 16) (e : Nat)
@[simp] theorem State.onCtx_ret_lines (f : Ctx → Ctx) : (s.onCtx c f).ret.lines = s.ret.lines := rfl
@[simp] theorem cancelCopies_ret_lines : (cancelCopies c s).ret.lines = s.ret.lines := rfl
@[simp] theorem releaseLate_ret_lines : (releaseLate c s).ret.lines = s.ret.lines := rfl
@[simp] theorem voidWrites_ret_lines : (voidWrites c e s).ret.lines = s.ret.lines := rfl
@[simp] theorem State.freeShadow_ret_lines (l : Nat) : (s.freeShadow l).ret.lines = s.ret.lines := rfl
@[simp] theorem freeShadows_ret_lines (f : Bool) : (freeShadows c e f s).ret.lines = s.ret.lines := by
  unfold freeShadows
  exact foldl_keeps (fun t => t.ret.lines) _ (fun t p => by simp) _ s
@[simp] theorem queueAging_ret_lines : (queueAging c e s).ret.lines = s.ret.lines := rfl
@[simp] theorem toMode_ret_lines (m : CtxMode) : (toMode c m s).ret.lines = s.ret.lines := by
  unfold toMode; dsimp only; split <;> simp
@[simp] theorem ctxChanged_ret_lines : (ctxChanged c s).ret.lines = s.ret.lines := by
  unfold ctxChanged; dsimp only; split <;> simp
@[simp] theorem scanAbandon_ret_lines : (scanAbandon c e s).ret.lines = s.ret.lines := by
  unfold scanAbandon; dsimp only; repeat' split
  all_goals simp
@[simp] theorem abandonEpoch_ret_lines (cause : Nat) : (abandonEpoch c cause s).ret.lines = s.ret.lines := by
  unfold abandonEpoch; dsimp only; split <;> simp
end keepsLines
/-! ## The swap that a close may take (R261, R275) -/
section swaps
variable {s : State} {c : Fin 16} {e : Nat}
theorem onScanCtx_ctx_same (f : ScanCtx → ScanCtx) : (onScanCtx s c f).scan.ctx[c] = f s.scan.ctx[c] :=
  vmod_same s.scan.ctx c f
/-- A close leaves the context's swap as it is, or ends the swap whose epoch it closes. -/
theorem scanCommit_swap_eq_or_none :
    (scanCommit c e s).scan.ctx[c].swap = s.scan.ctx[c].swap ∨ (scanCommit c e s).scan.ctx[c].swap = none := by
  unfold scanCommit; dsimp only; split
  case h_1 w hswap =>
    split
    case isTrue => right; simp only [wake_scan, State.raiseLim_scan, onScanCtx_ctx_same]
    case isFalse => left; simp only [onScanCtx_ctx_same]
  case h_2 => left; simp only [onScanCtx_ctx_same]
/-- Only an armed swap, one that no close has taken, is checked: without one nothing is read and nothing changes. -/
theorem swapTake_of_not_armed (htaken : ∀ w, s.scan.ctx[c].swap = some w → w.epoch.isSome = true) : swapTake c e s = (none, s) := by
  unfold swapTake
  cases hswap : s.scan.ctx[c].swap with
  | none => rfl
  | some w => exact if_pos (htaken w hswap)
end swaps
/-! ## The two instants -/
section instants
variable (s : State) (c : Fin 16)
/-- After the swap is settled, what is left of a close touches no line. -/
theorem closeNow_ret_lines (src next : CtxMode) :
    (closeNow c src next s).ret.lines = (swapTake c (s.ctxAt c).epoch (scanCommit c (s.ctxAt c).epoch s)).2.ret.lines := by
  unfold closeNow; dsimp only; repeat' split
  all_goals simp
theorem closeNow_ret_lines_of_not_armed (src next : CtxMode) (htaken : ∀ w, s.scan.ctx[c].swap = some w → w.epoch.isSome = true) :
    (closeNow c src next s).ret.lines = s.ret.lines := by
  have hstill : ∀ w, (scanCommit c (s.ctxAt c).epoch s).scan.ctx[c].swap = some w → w.epoch.isSome = true := by
    intro w hw
    rcases scanCommit_swap_eq_or_none (s := s) (c := c) (e := (s.ctxAt c).epoch) with hsame | hended
    · exact htaken w (hsame ▸ hw)
    · rw [hended] at hw; cases hw
  rw [closeNow_ret_lines, swapTake_of_not_armed hstill, scanCommit_ret]
theorem abandonNow_ret_lines (cause : Nat) (next : CtxMode) : (abandonNow c cause next s).ret.lines = s.ret.lines := by
  unfold abandonNow; split <;> simp
end instants
/-! ## The computation of R117 -/
section effectiveState
variable {x : Ctx} {l : Line}
theorem effective_of_not_open (hstate : l.state ≠ .opened ∧ l.state ≠ .openOver) : effective x l = (l.state, l.flip) := by
  obtain ⟨hopened, hover⟩ := hstate
  unfold effective; split <;> simp_all
theorem effective_of_open (hstate : l.state = .opened ∨ l.state = .openOver) :
    effective x l =
      if BitVec.ofNat 8 x.epoch = l.stamp then (l.state, l.flip)
      else if x.discard.getLsbD l.stamp.toNat = true then
        (if l.state = .opened then (if l.baseZero = true then (.never, false) else (.unrestored, false)) else (.committed, !l.flip))
      else (.committed, l.flip) := by
  unfold effective
  rcases hstate with h | h <;> rw [h]
end effectiveState
/-- Settles O20: the model compares the stamps for equality where R117 takes their 8-bit difference; and every update that a close
or an abandon makes keeps the line table, but for the check of an armed swap, which reads the new bank. -/
theorem effectiveStateOfALine : Obligations.EffectiveStateOfALine := by
  refine ⟨fun x l => ?computation, fun c src next s => ?close, fun c src next s htaken => ?closeNotArmed,
    fun c cause next s => ?abandon⟩
  case computation =>
    by_cases hstate : l.state ≠ .opened ∧ l.state ≠ .openOver
    · rw [if_pos hstate, effective_of_not_open hstate]
    · have hopen : l.state = .opened ∨ l.state = .openOver := by tauto
      have hdiff : BitVec.ofNat 8 x.epoch - l.stamp = 0 ↔ BitVec.ofNat 8 x.epoch = l.stamp := sub_eq_zero
      rw [if_neg hstate, effective_of_open hopen]
      simp only [hdiff]
  case close => exact closeNow_ret_lines s c src next
  case closeNotArmed => exact closeNow_ret_lines_of_not_armed s c src next htaken
  case abandon => exact abandonNow_ret_lines s c cause next
end Sys2Proof.Machine

/-! # The edge lines of a visit (R272) -/
namespace Sys2Proof.Machine
section edgeMarks
variable {p : Pass} {pl : Plane} {s : State}
/-- The bits of one image that are not of another: RISE is that of S and P, FALL that of P and S. -/
def andNot (new old : List Byte) : List Byte := zip3 (fun a b => a &&& ~~~b) new old
theorem andNot_length {a b : List Byte} (hlength : a.length = b.length) : (andNot a b).length = a.length := by
  simp [andNot, zip3, hlength]
/-- Byte by byte, and past the end of both images too, where all three read as zero. -/
theorem andNot_getD {a b : List Byte} (hlength : a.length = b.length) (n : Nat) :
    (andNot a b).getD n 0 = a.getD n 0 &&& ~~~b.getD n 0 := by
  unfold andNot zip3
  by_cases hn : n < a.length
  · have hb : n < b.length := hlength ▸ hn
    simp [hn, hb]
  · have hb : ¬ n < b.length := hlength ▸ hn
    simp [hn, hb]
theorem andNot_bit {a b : List Byte} (hlength : a.length = b.length) (k : Nat) :
    ((andNot a b).getD (k / 8) 0).getLsbD (k % 8) =
      ((a.getD (k / 8) 0).getLsbD (k % 8) && !(b.getD (k / 8) 0).getLsbD (k % 8)) := by
  have hk : k % 8 < 8 := Nat.mod_lt k (by decide)
  rw [andNot_getD hlength, BitVec.getLsbD_and, BitVec.getLsbD_not, decide_eq_true hk, Bool.true_and]
theorem andNot_self (a : List Byte) : andNot a a = rep a.length 0 := by
  simp [andNot, zip3, rep, List.zipWith_self]
/-- Without a swap the previous image is the PREV line as it stands. -/
theorem prevImage_of_no_swap (hswap : p.swap = none) (j i : Nat) (src : List Byte) :
    prevImage s p j pl i src = ((s.lineValue (localLine pl.prev i)).1, (s.lineValue (localLine pl.prev i)).2,
      beatsOf (localLine pl.prev i) (s.lineValue (localLine pl.prev i)).2) := by
  simp [prevImage, hswap]
/-- R272. RISE and FALL are poisoned where either image is, PREV where the source is. -/
theorem edgeVisit_lines_of_no_swap (hswap : p.swap = none) (j i : Nat) :
    (edgeVisit s p j pl i).lines =
      [(localLine pl.rise i, andNot (passValue s (localLine pl.src i)).1 (s.lineValue (localLine pl.prev i)).1,
          (passValue s (localLine pl.src i)).2 ||| (s.lineValue (localLine pl.prev i)).2),
       (localLine pl.fall i, andNot (s.lineValue (localLine pl.prev i)).1 (passValue s (localLine pl.src i)).1,
          (passValue s (localLine pl.src i)).2 ||| (s.lineValue (localLine pl.prev i)).2),
       (localLine pl.prev i, passValue s (localLine pl.src i))] := by
  have hfall (a b : List Byte) : zip3 (fun a b => b &&& ~~~a) a b = andNot b a := List.zipWith_comm ..
  simp [edgeVisit, prevImage_of_no_swap hswap, hswap, hfall, andNot]
end edgeMarks
/-- Settles O36: without a swap RISE is S and not P, FALL is P and not S, and an image has no bit that it has not. -/
theorem edgePlanesMarkChanges : Obligations.EdgePlanesMarkChanges := by
  intro p j k pl n src prev dirt s hswap hsrc hprev hsrcLength hprevLength
  have hlength : src.length = prev.length := hsrcLength.trans hprevLength.symm
  have hlines := edgeVisit_lines_of_no_swap (s := s) (pl := pl) hswap j n
  rw [hsrc, hprev] at hlines
  refine ⟨andNot src prev, andNot prev src, _, hlines, ?riseLength, ?fallLength, andNot_bit hlength k,
    andNot_bit hlength.symm k, fun hsame => ?unchanged⟩
  case riseLength => exact (andNot_length hlength).trans hsrcLength
  case fallLength => exact (andNot_length hlength.symm).trans hprevLength
  case unchanged =>
    subst hsame
    have hzero : andNot src src = rep 256 0 := hsrcLength ▸ andNot_self src
    exact ⟨hzero, hzero⟩
end Sys2Proof.Machine

/-! # The channel mapping (R291) -/
namespace Sys2Proof.Machine
/-- The parity of the part of a place in a channel that a channel mask selects. -/
def maskParity (mask : BitVec 28) (place : Nat) : Nat := parity (place &&& mask.toNat)
theorem maskParity_lt_two (mask : BitVec 28) (place : Nat) : maskParity mask place < 2 := Nat.mod_lt _ Nat.two_pos
theorem channelOf_val (s : State) (line : Nat) : (channelOf s line).val =
    (line + maskParity s.fab.chmap0 (inChannel line)) % 2 + 2 * ((line / 2 + maskParity s.fab.chmap1 (inChannel line)) % 2) :=
  Nat.mod_eq_of_lt (show _ % 2 + 2 * (_ % 2) < 4 by omega)
theorem lineAtPlace_eq (s : State) (c : Fin 4) (k : Nat) : lineAtPlace s c k =
    k * 4 + (c.val + maskParity s.fab.chmap0 k) % 2 + 2 * ((c.val / 2 + maskParity s.fab.chmap1 k) % 2) := rfl
/-- Adding a parity modulo 2 is the exclusive or with it. -/
theorem testBit_zero_add_maskParity (n : Nat) (mask : BitVec 28) (place : Nat) :
    (n + maskParity mask place).testBit 0 = (n.testBit 0 ^^ decide (maskParity mask place = 1)) := by
  obtain hp | hp : maskParity mask place = 0 ∨ maskParity mask place = 1 := by
    have hlt := maskParity_lt_two mask place
    omega
  · simp [hp]
  · simp [hp, Nat.succ_mod_two_eq_one_iff, ← decide_not]
theorem channelOf_testBit_zero (s : State) (line : Nat) : (channelOf s line).val.testBit 0 =
    (line.testBit 0 ^^ decide (maskParity s.fab.chmap0 (inChannel line) = 1)) := by
  rw [← testBit_zero_add_maskParity, channelOf_val, Nat.testBit_zero, Nat.testBit_zero, Nat.add_mul_mod_self_left, Nat.mod_mod]
theorem channelOf_testBit_one (s : State) (line : Nat) : (channelOf s line).val.testBit 1 =
    (line.testBit 1 ^^ decide (maskParity s.fab.chmap1 (inChannel line) = 1)) := by
  have hhalf : (channelOf s line).val / 2 = (line / 2 + maskParity s.fab.chmap1 (inChannel line)) % 2 := by
    rw [channelOf_val]
    omega
  rw [Nat.testBit_succ line, ← testBit_zero_add_maskParity, Nat.testBit_succ, hhalf, Nat.testBit_zero, Nat.testBit_zero, Nat.mod_mod]
/-- R291, one-to-one: a[9:8] enter their own bit only, and the masks see nothing but the place, so adding the two parities again
gives a[9:8] back. -/
theorem channelOf_and_inChannel_eq_iff (s : State) (c : Fin 4) (k line : Nat) :
    (channelOf s line = c ∧ inChannel line = k) ↔ line = lineAtPlace s c k := by
  constructor
  · rintro ⟨rfl, rfl⟩
    rw [lineAtPlace_eq, channelOf_val, inChannel]
    omega
  · intro hline
    have hplace : inChannel line = k := by
      rw [hline, lineAtPlace_eq, inChannel]
      omega
    refine ⟨Fin.ext ?_, hplace⟩
    rw [channelOf_val, hplace, hline, lineAtPlace_eq]
    omega
/-- Settles O40: the line of a given channel and place is `lineAtPlace`. -/
theorem channelMapping : Obligations.ChannelMapping := by
  intro s
  refine ⟨fun line => ⟨rfl, channelOf_testBit_zero s line, channelOf_testBit_one s line⟩, fun c k => ?_⟩
  obtain ⟨hchannel, hplace⟩ := (channelOf_and_inChannel_eq_iff s c k _).mpr rfl
  exact ⟨lineAtPlace s c k, hchannel, hplace, fun l hc hk => (channelOf_and_inChannel_eq_iff s c k l).mp ⟨hc, hk⟩⟩
end Sys2Proof.Machine

/-! # What every step keeps: canonical stores, and a key slot that is not revoked -/
namespace Sys2Proof.Machine
section keeps
variable {s t u : State}
/-- What a part of a step that finds `s` keeps where it leaves `t`. -/
def Keeps (s t : State) : Prop := (s.MemOk → t.MemOk) ∧ (s.boot.revoked ≠ 0xF → t.boot.revoked ≠ 0xF)
/-- The parts of the state that `Keeps` speaks of. -/
def State.kept (s : State) : AMap Byte × AMap Byte × AMap Line × AMap Seg × BitVec 4 :=
  (s.ret.dram, s.ret.shadow, s.ret.lines, s.ret.segs, s.boot.revoked)
theorem Keeps.refl : Keeps s s := ⟨id, id⟩
/-- An update of other parts of the state. -/
theorem Keeps.frame (h : Keeps s t) (hu : u.kept = t.kept) : Keeps s u := by
  simp only [State.kept, Prod.mk.injEq] at hu
  obtain ⟨hdram, hshadow, hlines, hsegs, hrevoked⟩ := hu
  simpa [Keeps, State.MemOk, hdram, hshadow, hlines, hsegs, hrevoked] using h
section update
variable {glb : Glb} {host : HostIf} {ret : Ret} {slu : Slu} {store : Store} {scan : Scan} {dch : Vector Dch 4} {fab : Fab}
    {err : Err}
  {trib : Vector Trib 12} {mdio : Vector (List Mdio) 2} {seqr : Vector Seqr 12} {mir : Mir} {conf : Conf} {pwr : Pwr} {bkd :
      Bkd}
  {ldg : Ldg} {boot : Boot} {tap : Tap} {life : Vector UnitS 50} {free : Nat} {out : List Out} {pending : List Instr}
theorem Keeps.update (h : Keeps s t) : Keeps s ⟨glb, host, t.ret, slu, store, scan, dch, fab, err, trib, mdio, seqr, mir, conf,
    pwr, bkd,
    ldg, t.boot, tap, life, free, out, pending⟩ := h
theorem Keeps.updateBoot (h : Keeps s t) (hboot : boot.revoked = t.boot.revoked) : Keeps s ⟨glb, host, t.ret, slu, store, scan,
    dch,
    fab, err, trib, mdio, seqr, mir, conf, pwr, bkd, ldg, boot, tap, life, free, out, pending⟩ := h.frame (by simp [State.kept,
        hboot])
theorem Keeps.updateRet {sum : SegSum} {ctx : Vector Ctx 16} {writes : List Piece} {held : List Held} {serial order : Nat}
    {copy : Copier}
    {weir : Weir} {windows : Vector Window 64} (h : Keeps s t) :
    Keeps s ⟨glb, host, ⟨t.ret.segs, sum, ctx, t.ret.lines, t.ret.dram, t.ret.shadow, writes, held, serial, order, copy, weir,
        windows⟩,
      slu, store, scan, dch, fab, err, trib, mdio, seqr, mir, conf, pwr, bkd, ldg, t.boot, tap, life, free, out, pending⟩ := h
theorem Keeps.updateBoth {sum : SegSum} {ctx : Vector Ctx 16} {writes : List Piece} {held : List Held} {serial order : Nat}
    {copy : Copier}
    {weir : Weir} {windows : Vector Window 64} (h : Keeps s t) (hboot : boot.revoked = t.boot.revoked) :
    Keeps s ⟨glb, host, ⟨t.ret.segs, sum, ctx, t.ret.lines, t.ret.dram, t.ret.shadow, writes, held, serial, order, copy, weir,
        windows⟩,
      slu, store, scan, dch, fab, err, trib, mdio, seqr, mir, conf, pwr, bkd, ldg, boot, tap, life, free, out, pending⟩ :=
  h.frame (by simp [State.kept, hboot])
end update
/-- An update of the stores alone. -/
theorem Keeps.stores (h : Keeps s t) (hu : t.MemOk → u.MemOk) (hrevoked : u.boot.revoked = t.boot.revoked) : Keeps s u :=
  ⟨fun hs => hu (h.1 hs), fun hs => hrevoked ▸ h.2 hs⟩
theorem Keeps.ite {c : Prop} [Decidable c] (ht : Keeps s t) (hu : Keeps s u) : Keeps s (if c then t else u) := by
  split
  · exact ht
  · exact hu
theorem Keeps.foldl {α : Type} {l : List α} {f : State → α → State} (hf : ∀ {u x}, Keeps s u → Keeps s (f u x))
    (h : Keeps s t) : Keeps s (l.foldl f t) := by
  induction l generalizing t with
  | nil => exact h
  | cons x l ih => exact ih (hf h)
theorem Keeps.ite_snd {c : Prop} [Decidable c] {α : Type} {p q : α × State} (hp : Keeps s p.2) (hq : Keeps s q.2) :
    Keeps s (if c then p else q).2 := by
  split
  · exact hp
  · exact hq
/-- A fold over states that carries something along. -/
theorem Keeps.foldl_snd {α β : Type} {l : List α} {f : β × State → α → β × State} {p : β × State}
    (hf : ∀ {p x}, Keeps s p.2 → Keeps s (f p x).2) (h : Keeps s p.2) : Keeps s (l.foldl f p).2 := by
  induction l generalizing p with
  | nil => exact h
  | cons x l ih => exact ih (hf h)
theorem Keeps.foldl_fst {α β : Type} {l : List α} {f : State × β → α → State × β} {p : State × β}
    (hf : ∀ {p x}, Keeps s p.1 → Keeps s (f p x).1) (h : Keeps s p.1) : Keeps s (l.foldl f p).1 := by
  induction l generalizing p with
  | nil => exact h
  | cons x l ih => exact ih (hf h)
theorem Keeps.snd {α : Type} {p : α × State} {x : α} (h : Keeps s p.2) (hp : p = (x, t)) : Keeps s t := by
  rw [hp] at h
  exact h
/-! ### Operations of the state -/
theorem State.setSeg_keeps {seg e} (h : Keeps s t) : Keeps s (State.setSeg t seg e) := h.stores (setSeg_memOk t seg e) rfl
theorem State.setLine_keeps {l x} (h : Keeps s t) : Keeps s (State.setLine t l x) := h.stores (setLine_memOk t l x) rfl
theorem State.onCtx_keeps {c f} (h : Keeps s t) : Keeps s (State.onCtx t c f) :=
  h.updateRet
theorem State.onWeir_keeps {f} (h : Keeps s t) : Keeps s (State.onWeir t f) :=
  h.updateRet
theorem State.onCopy_keeps {f} (h : Keeps s t) : Keeps s (State.onCopy t f) :=
  h.updateRet
theorem State.setHome_keeps {l bs} (h : Keeps s t) : Keeps s (State.setHome t l bs) := h.stores (setHome_memOk t l bs) rfl
theorem State.setShadow_keeps {l bs} (h : Keeps s t) : Keeps s (State.setShadow t l bs) := h.stores (setShadow_memOk t l bs) rfl
theorem State.freeShadow_keeps {l} (h : Keeps s t) : Keeps s (State.freeShadow t l) := h.stores (freeShadow_memOk t l) rfl
theorem State.dropHome_keeps {l} (h : Keeps s t) : Keeps s (State.dropHome t l) := h.stores (dropHome_memOk t l) rfl
theorem State.setLife_keeps {i l} (h : Keeps s t) : Keeps s (State.setLife t i l) :=
  h.update
theorem State.emit_keeps {o} (h : Keeps s t) : Keeps s (State.emit t o) :=
  h.update
theorem State.setPba_keeps {p} (h : Keeps s t) : Keeps s (State.setPba t p) :=
  h.update
theorem State.msix_keeps {v} (h : Keeps s t) : Keeps s (State.msix t v) :=
  Keeps.ite (State.emit_keeps h) (State.setPba_keeps h)
theorem State.msixFlush_keeps (h : Keeps s t) : Keeps s (State.msixFlush t) :=
  Keeps.foldl (fun h => Keeps.ite (State.msix_keeps (State.setPba_keeps h)) h) h
theorem State.pushEvent_keeps {q e} (h : Keeps s t) : Keeps s (State.pushEvent t q e) :=
  Keeps.ite h.update (Keeps.ite (State.msix_keeps (State.emit_keeps h.update)) (State.emit_keeps h.update))
theorem State.deliver_keeps {e} (h : Keeps s t) : Keeps s (State.deliver t e) := h.frame (by simp [State.kept])
theorem State.raise_keeps {code inst data} (h : Keeps s t) : Keeps s (State.raise t code inst data) :=
  State.deliver_keeps h
theorem State.noteRaised_keeps {code key} (h : Keeps s t) : Keeps s (State.noteRaised t code key) :=
  h.update
theorem State.raiseLim_keeps {code key inst data} (h : Keeps s t) : Keeps s (State.raiseLim t code key inst data) :=
  Keeps.ite (State.raise_keeps (State.noteRaised_keeps h)) h
theorem State.blame_keeps {k} (h : Keeps s t) : Keeps s (State.blame t k) :=
  h.update
theorem State.raiseErr_keeps {code key inst k data} (h : Keeps s t) : Keeps s (State.raiseErr t code key inst k data) :=
  Keeps.ite (State.raiseLim_keeps (State.blame_keeps h)) h
theorem State.toLife_keeps {i l} (h : Keeps s t) : Keeps s (State.toLife t i l) :=
  State.raise_keeps (State.setLife_keeps h)
theorem State.toDev_keeps {st} (h : Keeps s t) : Keeps s (State.toDev t st) :=
  Keeps.ite h.update (State.raise_keeps h.update)
theorem State.draw_keeps (h : Keeps s t) : Keeps s (State.draw t).2 :=
  h.update
theorem onBucket_keeps {i f} (h : Keeps s t) : Keeps s (onBucket t i f) :=
  h.update
theorem State.poolFree_keeps (h : Keeps s t) : Keeps s (State.poolFree t).2 :=
  State.draw_keeps h
theorem State.allocShadow_keeps {l} (h : Keeps s t) : Keeps s (State.allocShadow t l) :=
  State.setLine_keeps (State.poolFree_keeps h)
theorem bucketAdd_keeps {i} (h : Keeps s t) : Keeps s (bucketAdd i t) :=
  Keeps.ite (State.raiseErr_keeps (Keeps.ite (State.raiseErr_keeps (onBucket_keeps h)) (onBucket_keeps h))) (Keeps.ite
      (State.raiseErr_keeps (onBucket_keeps h)) (onBucket_keeps h))
theorem bucketAddN_keeps {i n} (h : Keeps s t) : Keeps s (bucketAddN i n t) := by
  induction n generalizing t with
  | zero => exact h
  | succ n ih => exact ih (bucketAdd_keeps h)
/-! ### Flags -/
theorem State.refuseAuth_keeps {p ctx opcode} (h : Keeps s t) : Keeps s (State.refuseAuth t p ctx opcode) :=
  State.raiseLim_keeps h.update
/-! ### Mailboxes -/
theorem onCmds_keeps {p f} (h : Keeps s t) : Keeps s (onCmds t p f) := by
  dsimp only [onCmds]
  split
  · exact h.update
  · exact Keeps.ite h.update h
theorem finish_keeps {d st res} (h : Keeps s t) : Keeps s (finish d st res t) :=
  onCmds_keeps h
theorem finishTag_keeps {p tag st} (h : Keeps s t) : Keeps s (finishTag p tag st t) :=
  onCmds_keeps h
theorem finishData_keeps {d st res buf bs} (h : Keeps s t) : Keeps s (finishData d st res buf bs t) :=
  onCmds_keeps (Keeps.ite (State.emit_keeps h) h)
theorem running_keeps {d w res} (h : Keeps s t) : Keeps s (running d w res t) :=
  onCmds_keeps h
theorem wake_keeps {f} (h : Keeps s t) : Keeps s (wake f t) :=
  Keeps.foldl (fun h => onCmds_keeps h) h
theorem abortAll_keeps (h : Keeps s t) : Keeps s (abortAll t) :=
  Keeps.foldl (fun h => onCmds_keeps h) h
theorem accept_keeps {i d inl} (h : Keeps s t) : Keeps s (accept i d inl t) :=
  onCmds_keeps h.update
theorem recordRefused_keeps {op d st} (h : Keeps s t) : Keeps s (recordRefused op d st t) :=
  Keeps.ite (onCmds_keeps (Keeps.ite (State.refuseAuth_keeps h) h)) (Keeps.ite (State.refuseAuth_keeps h) h)
/-- Where the checks of R57 end, they have kept what they found. -/
def Start.Keeps (s : State) : Start → Prop
  | .wait u | .refused u | .go _ u => Machine.Keeps s u
theorem refuse_keeps {d st} (h : Keeps s t) : (refuse d st t).Keeps s := finish_keeps h
theorem startAccepted_keeps {i d rng} (h : Keeps s t) : (startAccepted i d rng t).Keeps s := by
  dsimp only [startAccepted]
  split
  · exact h
  · split
    · exact refuse_keeps h
    · split
      · exact finish_keeps h
      · split
        · exact h
        · exact refuse_keeps h
theorem start_keeps {i d rng} (h : Keeps s t) : (start i d rng t).Keeps s := by
  dsimp only [start]
  split
  · exact startAccepted_keeps h
  · split
    · exact h
    · split
      · exact recordRefused_keeps h
      · exact startAccepted_keeps (accept_keeps h)
theorem command_keeps {i d rng f} (hf : ∀ {ts u}, Keeps s u → Keeps s (f ts u)) (h : Keeps s t) : Keeps s
    (command i d rng f t) := by
  have hstart : (start i d rng t).Keeps s := start_keeps h
  dsimp only [command]
  split <;> rename_i heq <;> rw [heq] at hstart
  · exact hstart
  · exact hstart
  · exact hf hstart
theorem multi_keeps {d ts check act} (hact : ∀ {n u}, Keeps s u → Keeps s (act n u)) (h : Keeps s t) :
    Keeps s (multi d ts check act t) :=
  finish_keeps (Keeps.foldl hact h)
/-! ### The ledger -/
theorem State.searched_keeps {a} (h : Keeps s t) : Keeps s (State.searched t a).2 := by
  dsimp only [State.searched]
  split
  · exact h.update
  · exact Keeps.foldl (fun h => State.raiseLim_keeps h.update) h.update
theorem ldgKick_keeps (h : Keeps s t) : Keeps s (ldgKick t) := by
  dsimp only [ldgKick]
  split
  · exact h.update
  · exact h
theorem ldgEnqueue_keeps {rs} (h : Keeps s t) : Keeps s (ldgEnqueue rs t) :=
  ldgKick_keeps h.update
theorem noteDue_keeps {d op ts} (h : Keeps s t) : Keeps s (noteDue d op ts t) :=
  h.update
theorem storingAs_keeps {st d op ts rs res} (h : Keeps s t) : Keeps s (storingAs st d op ts rs res t) :=
  Keeps.ite (finish_keeps h) (Keeps.ite (finish_keeps h) (ldgEnqueue_keeps (noteDue_keeps (running_keeps h))))
theorem storing_keeps {d op rs res} (h : Keeps s t) : Keeps s (storing d op rs res t) :=
  storingAs_keeps h
theorem ldgJobEnd_keeps {id st res} (h : Keeps s t) : Keeps s (ldgJobEnd id st res t) :=
  wake_keeps h.update
theorem castVote_keeps {g} (h : Keeps s t) : Keeps s (castVote g t) :=
  Keeps.ite h.update (State.raiseErr_keeps h.update)
theorem measurementIn_keeps (h : Keeps s t) : Keeps s (measurementIn t) :=
  Keeps.ite h (wake_keeps (State.raise_keeps h.update))
theorem voteAfter_keeps {j st} (h : Keeps s t) : Keeps s (voteAfter j st t) := by
  dsimp only [voteAfter]
  split
  · exact castVote_keeps h
  · exact Keeps.ite (measurementIn_keeps h) (wake_keeps h.update)
  · exact h
theorem repairGroup_keeps {g} (h : Keeps s t) : Keeps s (repairGroup t g) := by
  dsimp only [repairGroup]
  split
  · exact ldgEnqueue_keeps h
  · exact h
theorem voteRepair_keeps (h : Keeps s t) : Keeps s (voteRepair t) :=
  Keeps.ite h (Keeps.foldl (fun h => repairGroup_keeps h) h)
theorem pageWriteDone_keeps {ok} (h : Keeps s t) : Keeps s (pageWriteDone ok t) := by
  dsimp only [pageWriteDone]
  split
  · exact Keeps.ite (Keeps.ite h.update (ldgKick_keeps (Keeps.ite h.update (ldgJobEnd_keeps (voteAfter_keeps h.update)))))
        (Keeps.ite (ldgKick_keeps h.update) (ldgKick_keeps (Keeps.ite (State.raiseLim_keeps h.update) (ldgJobEnd_keeps
        (voteAfter_keeps ((State.raiseLim_keeps h.update).update))))))
  · exact h
theorem ldgCut_keeps (h : Keeps s t) : Keeps s (ldgCut t) := by
  dsimp only [ldgCut]
  split
  · exact h
  · exact (State.draw_keeps h).update
/-! ### The backup domain -/
theorem fire_keeps {skip} (h : Keeps s t) : Keeps s (fire skip t) :=
  h.update
theorem reportAlarm_keeps (h : Keeps s t) : Keeps s (reportAlarm t) := by
  dsimp only [reportAlarm]
  split
  · exact h
  · exact State.raiseLim_keeps h.update
theorem reportOsc_keeps (h : Keeps s t) : Keeps s (reportOsc t) :=
  Keeps.ite (State.raiseLim_keeps h.update) h
theorem whenReady_keeps {f} (hf0 : ∀ {u}, Keeps s u → Keeps s (f u)) (h : Keeps s t) : Keeps s (whenReady f t) :=
  Keeps.ite (hf0 h) h
theorem bkdAtReady_keeps (h : Keeps s t) : Keeps s (bkdAtReady t) :=
  reportAlarm_keeps (reportOsc_keeps (Keeps.ite (State.raiseLim_keeps h) h))
theorem subsecTick_keeps (h : Keeps s t) : Keeps s (subsecTick t) :=
  Keeps.ite h (Keeps.ite h.update (Keeps.ite h.update (whenReady_keeps (fun h => reportAlarm_keeps h) ((Keeps.ite
      (fire_keeps h.update) h.update).update))))
theorem vbatSwitch_keeps {toVbat} (h : Keeps s t) : Keeps s (vbatSwitch toVbat t) :=
  Keeps.ite h (Keeps.ite h.update h.update)
theorem vbatMeasure_keeps {mv} (h : Keeps s t) : Keeps s (vbatMeasure mv t) :=
  Keeps.ite h (Keeps.ite (State.raiseLim_keeps h.update) h.update)
theorem oscStop_keeps (h : Keeps s t) : Keeps s (oscStop t) :=
  whenReady_keeps (fun h => reportOsc_keeps h) h.update
theorem bkdDomainReset_keeps (h : Keeps s t) : Keeps s (bkdDomainReset t) :=
  h.update
theorem bkdResetRelease_keeps (h : Keeps s t) : Keeps s (bkdResetRelease t) :=
  h.update
theorem reject_keeps (h : Keeps s t) : Keeps s (reject t) :=
  h.update
theorem releaseHalt_keeps (h : Keeps s t) : Keeps s (releaseHalt t) :=
  Keeps.ite h (Keeps.ite (reject_keeps h) (Keeps.ite h.update (Keeps.ite (fire_keeps h.update) (Keeps.ite
      (fire_keeps h.update) h.update))))
theorem applyWrite_keeps {w} (h : Keeps s t) : Keeps s (applyWrite w t) := by
  dsimp only [applyWrite]
  split
  · split
    · exact reject_keeps h
    · split
      · exact h.update
      · exact reject_keeps h
  · exact h.update
  · exact whenReady_keeps (fun h => reportAlarm_keeps h) (releaseHalt_keeps h)
  · exact whenReady_keeps (fun h => reportAlarm_keeps h) (releaseHalt_keeps h)
  · split
    · exact reject_keeps h
    · split
      · exact h.update
      · exact reject_keeps h
  · exact (Keeps.ite (reject_keeps h) h.update).update
  · exact h.update
  · exact h.update
  · exact h.update
  · exact Keeps.ite h.update (Keeps.ite h.update (Keeps.ite h.update h))
theorem bkdWriteArrive_keeps (h : Keeps s t) : Keeps s (bkdWriteArrive t) := by
  dsimp only [bkdWriteArrive]
  split
  · exact h
  · split
    · exact Keeps.ite (wake_keeps ((Keeps.ite h.update (applyWrite_keeps h.update)).update)) (Keeps.ite h.update
          (applyWrite_keeps h.update))
    · exact Keeps.ite h.update (applyWrite_keeps h.update)
theorem send_keeps {w} (h : Keeps s t) : Keeps s (send w t) :=
  h.update
theorem bkdTimeGet_keeps {d} (h : Keeps s t) : Keeps s (bkdTimeGet d t) :=
  command_keeps (fun h => finish_keeps h) h
theorem bkdTimeSet_keeps {d} (h : Keeps s t) : Keeps s (bkdTimeSet d t) :=
  command_keeps (fun h => Keeps.ite (finish_keeps h) (Keeps.ite (finish_keeps h) (running_keeps h.update))) h
theorem bkdAlarmSet_keeps {d} (h : Keeps s t) : Keeps s (bkdAlarmSet d t) :=
  command_keeps (fun h => Keeps.ite (finish_keeps h) (finish_keeps (send_keeps h))) h
theorem bkdAlarmAck_keeps {d} (h : Keeps s t) : Keeps s (bkdAlarmAck d t) :=
  command_keeps (fun h => finish_keeps (send_keeps h)) h
theorem bkdSwoClear_keeps {d} (h : Keeps s t) : Keeps s (bkdSwoClear d t) :=
  command_keeps (fun h => finish_keeps (send_keeps h)) h
theorem rtcHaltWrite_keeps {who halt} (h : Keeps s t) : Keeps s (rtcHaltWrite who halt t) :=
  Keeps.ite (send_keeps h) h
theorem alarmArmWrite_keeps {who arm} (h : Keeps s t) : Keeps s (alarmArmWrite who arm t) :=
  Keeps.ite (send_keeps h) h
theorem ldgQuery_keeps {d} (h : Keeps s t) : Keeps s (ldgQuery d t) :=
  command_keeps (fun h => finish_keeps (State.searched_keeps (a := 1) (State.searched_keeps (a := 10) h))) h
theorem ldgTagWrite_keeps {d given} (h : Keeps s t) : Keeps s (ldgTagWrite d given t) :=
  command_keeps (fun h => storing_keeps h) h
theorem ldgTagRead_keeps {d} (h : Keeps s t) : Keeps s (ldgTagRead d t) := by
  refine command_keeps (fun h => ?_) h
  dsimp only
  split
  · exact finish_keeps (State.searched_keeps h)
  · exact finishData_keeps (State.searched_keeps h)
theorem ldgEventRead_keeps {d} (h : Keeps s t) : Keeps s (ldgEventRead d t) := by
  refine command_keeps (fun h => ?_) h
  dsimp only
  split
  · exact finish_keeps (State.searched_keeps h)
  · exact finishData_keeps (State.searched_keeps h)
theorem ldgUserAppend_keeps {d given} (h : Keeps s t) : Keeps s (ldgUserAppend d given t) :=
  command_keeps (fun h => storing_keeps h) h
theorem ldgUserRead_keeps {d} (h : Keeps s t) : Keeps s (ldgUserRead d t) := by
  refine command_keeps (fun h => ?_) h
  dsimp only
  split
  · exact finish_keeps (State.searched_keeps h)
  · exact finishData_keeps (State.searched_keeps h)
theorem ldgRawRead_keeps {d} (h : Keeps s t) : Keeps s (ldgRawRead d t) :=
  command_keeps (fun h => finishData_keeps h.update) h
theorem ldgRawWrite_keeps {d given} (h : Keeps s t) : Keeps s (ldgRawWrite d given t) :=
  command_keeps (fun h => Keeps.ite (finish_keeps h) (ldgEnqueue_keeps (running_keeps h))) h
/-! ### PCIe -/
theorem onCfg_keeps {f} (h : Keeps s t) : Keeps s (onCfg t f) :=
  h.update
theorem cfgWrite_keeps {r be v} (h : Keeps s t) : Keeps s (cfgWrite r be v t) :=
  State.msixFlush_keeps (onCfg_keeps h)
theorem aerNote_keeps {bit status devSta} (h : Keeps s t) : Keeps s (aerNote bit status devSta t) :=
  onCfg_keeps h
theorem advisory_keeps (h : Keeps s t) : Keeps s (advisory t) :=
  bucketAdd_keeps (onCfg_keeps h)
theorem gotPoison_keeps (h : Keeps s t) : Keeps s (gotPoison t) :=
  advisory_keeps (aerNote_keeps h)
theorem gaveUr_keeps {req} (h : Keeps s t) : Keeps s (gaveUr req t) :=
  State.emit_keeps (advisory_keeps (aerNote_keeps h))
theorem gaveCa_keeps {req} (h : Keeps s t) : Keeps s (gaveCa req t) :=
  State.emit_keeps (advisory_keeps (aerNote_keeps h))
/-! ### Host commands -/
theorem dropTlp_keeps {t'} (h : Keeps s t) : Keeps s (dropTlp t' t) := by
  dsimp only [dropTlp]
  split
  · exact gaveCa_keeps h
  · exact State.emit_keeps h
  · exact h
theorem inStream_keeps {t' f} (hf1 : ∀ {u}, Keeps s u → Keeps s (f u)) (h : Keeps s t) : Keeps s (inStream t' f t) :=
  Keeps.ite (dropTlp_keeps h) (Keeps.ite h.update (hf1 h))
theorem onMq_keeps {q f} (h : Keeps s t) : Keeps s (onMq t q f) :=
  h.update
theorem activate_keeps {q b} (h : Keeps s t) : Keeps s (activate q b t) :=
  Keeps.ite (onMq_keeps (onMq_keeps h)) (Keeps.foldl (fun h => State.pushEvent_keeps h) ((onMq_keeps h).updateBoot rfl))
theorem mbxBootAddrLo_keeps {v} (h : Keeps s t) : Keeps s (mbxBootAddrLo v t) :=
  Keeps.ite h h.update
theorem setupFails_keeps {r} (h : Keeps s t) : Keeps s (setupFails r t) :=
  h.update
theorem mbxBootAddrHi_keeps {v} (h : Keeps s t) : Keeps s (mbxBootAddrHi v t) :=
  Keeps.ite h (Keeps.ite (Keeps.ite h.update (setupFails_keeps h.update)) (Keeps.ite
      (setupFails_keeps h.update) h.update.update))
theorem mbxSetupReadDone_keeps {block} (h : Keeps s t) : Keeps s (mbxSetupReadDone block t) := by
  dsimp only [mbxSetupReadDone]
  split
  · exact h
  · split
    · exact setupFails_keeps h
    · split
      · exact setupFails_keeps h
      · exact Keeps.ite (setupFails_keeps h) (activate_keeps h.update)
theorem dbBad_keeps {q} (h : Keeps s t) : Keeps s (dbBad q t) :=
  onMq_keeps h
theorem mqSqTail_keeps {q v} (h : Keeps s t) : Keeps s (mqSqTail q v t) :=
  Keeps.ite h (Keeps.ite (dbBad_keeps h) (onMq_keeps h))
theorem mqCqHead_keeps {q v} (h : Keeps s t) : Keeps s (mqCqHead q v t) :=
  Keeps.ite h (Keeps.ite (dbBad_keeps h) (Keeps.ite (onMq_keeps h) (State.msix_keeps (onMq_keeps h))))
theorem mqEqHead_keeps {q v} (h : Keeps s t) : Keeps s (mqEqHead q v t) :=
  Keeps.ite h (Keeps.ite (dbBad_keeps h) (Keeps.ite (onMq_keeps h) (State.msix_keeps (onMq_keeps h))))
theorem onMsix_keeps {f} (h : Keeps s t) : Keeps s (onMsix t f) :=
  h.update
theorem msixTableWrite_keeps {off v} (h : Keeps s t) : Keeps s (msixTableWrite off v t) :=
  Keeps.ite h (State.msixFlush_keeps (onMsix_keeps h))
theorem narrowNow_keeps {sel} (h : Keeps s t) : Keeps s (narrowNow sel t) :=
  h.updateRet
theorem haltMq_keeps {q} (h : Keeps s t) : Keeps s (haltMq q t) :=
  narrowNow_keeps (onMq_keeps h)
theorem mqDmaFail_keeps {q} (h : Keeps s t) : Keeps s (mqDmaFail q t) :=
  Keeps.ite h (State.raise_keeps (onMq_keeps (haltMq_keeps h)))
theorem afterCompletion_keeps {p c} (h : Keeps s t) : Keeps s (afterCompletion p c t) := by
  dsimp only [afterCompletion]
  split
  · split
    · exact (narrowNow_keeps h).update
    · exact narrowNow_keeps h
  · split
    · split
      · exact (narrowNow_keeps h).updateBoot rfl
      · exact narrowNow_keeps h
    · exact narrowNow_keeps h
theorem completionWrite_keeps {mb tag} (h : Keeps s t) : Keeps s (completionWrite mb tag t) := by
  dsimp only [completionWrite]
  split
  · split
    · exact h
    · exact Keeps.ite h (afterCompletion_keeps (Keeps.ite (State.msix_keeps (State.emit_keeps (onMq_keeps h)))
          (State.emit_keeps (onMq_keeps h))))
  · split
    · exact h
    · exact afterCompletion_keeps (State.emit_keeps (onCmds_keeps h))
theorem glbIdentify_keeps {d} (h : Keeps s t) : Keeps s (glbIdentify d t) :=
  command_keeps (fun h => finish_keeps h) h
theorem authNarrow_keeps {d} (h : Keeps s t) : Keeps s (authNarrow d t) :=
  command_keeps (fun h => Keeps.ite (finish_keeps h.update) (narrowNow_keeps (finish_keeps h.update))) h
theorem authPolicyWrite_keeps {d} (h : Keeps s t) : Keeps s (authPolicyWrite d t) :=
  command_keeps (fun h => storing_keeps h) h
theorem mbxQueueCreate_keeps {d} (h : Keeps s t) : Keeps s (mbxQueueCreate d t) :=
  command_keeps (fun h => Keeps.ite (finish_keeps h) (finish_keeps (activate_keeps h))) h
theorem mbxEventMask_keeps {d} (h : Keeps s t) : Keeps s (mbxEventMask d t) :=
  command_keeps (fun h => by
    split
    · exact finish_keeps (onMq_keeps h)
    · exact Keeps.ite (finish_keeps h.update) (finish_keeps h)) h
theorem svcBaud_keeps {d} (h : Keeps s t) : Keeps s (svcBaud d t) :=
  command_keeps (fun h => finish_keeps h.update) h
theorem svcError_keeps {reason} (h : Keeps s t) : Keeps s (svcError reason t) :=
  Keeps.ite (State.emit_keeps h) h
theorem svcLengthError_keeps {len} (h : Keeps s t) : Keeps s (svcLengthError len t) :=
  Keeps.ite (svcError_keeps h) h
theorem svcEnChange_keeps {level} (h : Keeps s t) : Keeps s (svcEnChange level t) :=
  h.update
theorem telemetryRefresh_keeps {junction power} (h : Keeps s t) : Keeps s (telemetryRefresh junction power t) :=
  h.update
theorem smbusReadWord_keeps {x} (h : Keeps s t) : Keeps s (smbusReadWord x t) := by
  dsimp only [smbusReadWord]
  split
  · exact State.emit_keeps h
  · split
    · exact State.emit_keeps h
    · split
      · exact State.emit_keeps h
      · exact State.emit_keeps h
theorem configRequest_keeps {r} (h : Keeps s t) : Keeps s (configRequest r t) := by
  dsimp only [configRequest]
  split
  · exact h
  · split
    · exact State.emit_keeps h
    · split
      · exact State.emit_keeps h
      · exact State.emit_keeps (cfgWrite_keeps h)
/-! ### Integrity -/
theorem bucketTick_keeps (h : Keeps s t) : Keeps s (bucketTick t) :=
  h.update
theorem poisonMade_keeps {line src m} (h : Keeps s t) : Keeps s (poisonMade line src m t) :=
  Keeps.ite h (Keeps.ite (State.raiseErr_keeps h.update.update) h.update)
theorem poisonUsedAt_keeps {addr k inst} (h : Keeps s t) : Keeps s (poisonUsedAt addr k inst t) :=
  State.raiseErr_keeps h.update
theorem poisonUsed_keeps {line k inst} (h : Keeps s t) : Keeps s (poisonUsed line k inst t) :=
  poisonUsedAt_keeps h
theorem sramUncorrectable_keeps {array cls} (h : Keeps s t) : Keeps s (sramUncorrectable array cls t) :=
  State.raiseErr_keeps h.update
theorem poisonCleared_keeps {n} (h : Keeps s t) : Keeps s (poisonCleared n t) :=
  h.update
theorem poisonHome_keeps {line src m} (h : Keeps s t) : Keeps s (poisonHome line src m t) :=
  poisonMade_keeps (State.setLine_keeps h)
theorem poisonShadow_keeps {line src m} (h : Keeps s t) : Keeps s (poisonShadow line src m t) :=
  poisonMade_keeps (State.setLine_keeps h)
theorem dramUncorrectable_keeps {line m} (h : Keeps s t) : Keeps s (dramUncorrectable line m t) :=
  Keeps.ite ((State.dropHome_keeps (State.setLine_keeps h)).update) (poisonHome_keeps h)
theorem metaRebuild_keeps {line} (h : Keeps s t) : Keeps s (metaRebuild line t) :=
  poisonMade_keeps (State.raiseErr_keeps ((State.freeShadow_keeps (State.setLine_keeps (State.setHome_keeps h.update))).update))
theorem errQuery_keeps {d} (h : Keeps s t) : Keeps s (errQuery d t) :=
  command_keeps (fun h => finish_keeps h) h
theorem errConfig_keeps {d} (h : Keeps s t) : Keeps s (errConfig d t) :=
  command_keeps (fun h => storing_keeps h) h
theorem errConfigApply_keeps {d} (h : Keeps s t) : Keeps s (errConfigApply d t) :=
  h.update
theorem errInject_keeps {d} (h : Keeps s t) : Keeps s (errInject d t) :=
  command_keeps (fun h => Keeps.ite h (Keeps.ite (finish_keeps h) (Keeps.ite (finish_keeps (poisonHome_keeps h))
      (finish_keeps h.update)))) h
theorem errBktReset_keeps {d} (h : Keeps s t) : Keeps s (errBktReset d t) :=
  command_keeps (fun h => finish_keeps (Keeps.ite h.update (onBucket_keeps h))) h
/-! ### Units -/
theorem drainEnds_keeps {i st} (h : Keeps s t) : Keeps s (drainEnds i st t) :=
  wake_keeps h
theorem drained_keeps {i} (h : Keeps s t) : Keeps s (drained i t) :=
  Keeps.ite (drainEnds_keeps (State.toLife_keeps h)) h
theorem setFault_keeps {i code} (h : Keeps s t) : Keeps s (setFault i code t) :=
  h.update
theorem unitFault_keeps {i code} (h : Keeps s t) : Keeps s (unitFault i code t) :=
  Keeps.ite (State.raise_keeps (State.blame_keeps (drainEnds_keeps (State.toLife_keeps (setFault_keeps h))))) h
/-! ### DRAM -/
theorem onDch_keeps {c f} (h : Keeps s t) : Keeps s (onDch t c f) :=
  h.update
theorem onFab_keeps {f} (h : Keeps s t) : Keeps s (onFab t f) :=
  h.update
theorem noteLatency_keeps {r} (h : Keeps s t) : Keeps s (noteLatency r t) :=
  onFab_keeps h
theorem takeNo_keeps (h : Keeps s t) : Keeps s (takeNo t).2 :=
  onFab_keeps h
theorem queueEntry_keeps {c r} (h : Keeps s t) : Keeps s (queueEntry c r t) :=
  onDch_keeps (takeNo_keeps h)
theorem placeRead_keeps {c r} (h : Keeps s t) : Keeps s (placeRead c r t) := by
  dsimp only [placeRead]
  split
  · exact onDch_keeps h
  · exact Keeps.ite (noteLatency_keeps (onDch_keeps h)) (onDch_keeps h)
theorem place_keeps {c r0} (h : Keeps s t) : Keeps s (place c r0 t) :=
  onDch_keeps (by
    split
    · split
      · exact onDch_keeps (takeNo_keeps h)
      · exact queueEntry_keeps (takeNo_keeps h)
    · exact placeRead_keeps (takeNo_keeps h))
theorem enter_keeps {c r} (h : Keeps s t) : Keeps s (enter c r t) :=
  Keeps.ite (Keeps.ite (onDch_keeps h) h) (Keeps.ite (onDch_keeps h) (place_keeps h))
theorem requestAs_keeps {urgent fp line g write mask poison} (h : Keeps s t) : Keeps s
    (requestAs urgent fp line g write mask poison t) :=
  enter_keeps (takeNo_keeps h)
theorem request_keeps {fp line g write mask poison} (h : Keeps s t) : Keeps s (request fp line g write mask poison t) :=
  requestAs_keeps h
theorem requestRead_keeps {fp line m} (h : Keeps s t) : Keeps s (requestRead fp line m t) :=
  Keeps.foldl (fun h => request_keeps h) h
theorem requestWrite_keeps {fp line po} (h : Keeps s t) : Keeps s (requestWrite fp line po t) :=
  Keeps.foldl (fun h => request_keeps h) h
theorem requestValue_keeps {fp line} (h : Keeps s t) : Keeps s (requestValue fp line t) :=
  Keeps.ite h (requestRead_keeps h)
theorem admitWaiting_keeps {c n} (h : Keeps s t) : Keeps s (admitWaiting c n t) := by
  induction n generalizing t with
  | zero => exact h
  | succ n ih =>
    dsimp only [admitWaiting]
    split
    · exact h
    · split
      · exact h
      · exact ih (place_keeps (onDch_keeps h))
theorem serveSlot_keeps {c r} (h : Keeps s t) : Keeps s (serveSlot c r t) :=
  Keeps.ite (onDch_keeps h) (Keeps.ite (onDch_keeps h) (onDch_keeps h))
theorem refreshRank_keeps {c r} (h : Keeps s t) : Keeps s (refreshRank c r t) :=
  onDch_keeps h
theorem dchCommandSlot_keeps {c} (h : Keeps s t) : Keeps s (dchCommandSlot c t) := by
  dsimp only [dchCommandSlot]
  split
  · exact h
  · split
    · exact refreshRank_keeps h
    · split
      · split
        · exact refreshRank_keeps h
        · exact onDch_keeps h
      · exact serveSlot_keeps h
theorem pullIn_keeps {c r} (h : Keeps s t) : Keeps s (pullIn c r t) :=
  Keeps.ite (Keeps.foldl (fun h => refreshRank_keeps h) h) h
theorem refreshDue_keeps {c r} (h : Keeps s t) : Keeps s (refreshDue c r t) :=
  Keeps.ite h (Keeps.ite (onDch_keeps h) (onDch_keeps h))
theorem dramTempRead_keeps {c reported hot} (h : Keeps s t) : Keeps s (dramTempRead c reported hot t) :=
  Keeps.ite (onDch_keeps h) h
theorem zqcsDue_keeps {c} (h : Keeps s t) : Keeps s (zqcsDue c t) :=
  Keeps.ite (onDch_keeps h) h
theorem dqsRecentre_keeps {c} (h : Keeps s t) : Keeps s (dqsRecentre c t) :=
  Keeps.ite (onDch_keeps h) h
theorem rankEvent_keeps {c r old new cause} (h : Keeps s t) : Keeps s (rankEvent c r old new cause t) :=
  State.raise_keeps h
theorem setRank_keeps {c r x} (h : Keeps s t) : Keeps s (setRank c r x t) :=
  onDch_keeps h
theorem startMigration_keeps {c r sp cause} (h : Keeps s t) : Keeps s (startMigration c r sp cause t) :=
  ldgEnqueue_keeps (rankEvent_keeps (setRank_keeps (onDch_keeps h)))
theorem degrade_keeps {c r} (h : Keeps s t) : Keeps s (degrade c r t) :=
  State.raise_keeps (setRank_keeps h)
theorem rankFails_keeps {c r cause} (h : Keeps s t) : Keeps s (rankFails c r cause t) := by
  dsimp only [rankFails]
  split
  · split
    · exact startMigration_keeps h
    · exact degrade_keeps h
  · exact Keeps.ite (onDch_keeps h) h
  · exact h
theorem checkRetire_keeps {c r} (h : Keeps s t) : Keeps s (checkRetire c r t) :=
  Keeps.ite (rankFails_keeps (onBucket_keeps h)) h
theorem countBeats_keeps {c r corrected ue} (h : Keeps s t) : Keeps s (countBeats c r corrected ue t) :=
  Keeps.ite (rankFails_keeps (checkRetire_keeps (bucketAddN_keeps (onDch_keeps h)))) (checkRetire_keeps (bucketAddN_keeps
      (onDch_keeps h)))
theorem dchFault_keeps {c code} (h : Keeps s t) : Keeps s (dchFault c code t) :=
  Keeps.ite (unitFault_keeps (onDch_keeps h)) h
theorem dchFaultFree_keeps {c} (h : Keeps s t) : Keeps s (dchFaultFree c t) :=
  dchFault_keeps (State.draw_keeps h)
theorem alertN_keeps {c id writeCrc} (h : Keeps s t) : Keeps s (alertN c id writeCrc t) :=
  Keeps.ite h (Keeps.ite (dchFaultFree_keeps (onDch_keeps h)) (onDch_keeps (onDch_keeps h)))
theorem fabPanic_keeps {p fill} (h : Keeps s t) : Keeps s (fabPanic p fill t) :=
  Keeps.ite h (Keeps.ite (State.raiseLim_keeps (onFab_keeps h)) (Keeps.ite (State.raiseLim_keeps (onFab_keeps h)) h))
theorem dchQuery_keeps {d} (h : Keeps s t) : Keeps s (dchQuery d t) :=
  command_keeps (fun h => finish_keeps h) h
theorem dchConfig_keeps {d} (h : Keeps s t) : Keeps s (dchConfig d t) :=
  command_keeps (fun h => storingAs_keeps h) h
theorem dchConfigApply_keeps {d ts} (h : Keeps s t) : Keeps s (dchConfigApply d ts t) :=
  Keeps.foldl (fun h => onDch_keeps h) h
theorem dchPopSet_keeps {d} (h : Keeps s t) : Keeps s (dchPopSet d t) :=
  command_keeps (fun h => storing_keeps h) h
theorem dchMapSet_keeps {d} (h : Keeps s t) : Keeps s (dchMapSet d t) :=
  command_keeps (fun h => Keeps.ite (storing_keeps h) (finish_keeps h)) h
theorem dchRankRetire_keeps {d} (h : Keeps s t) : Keeps s (dchRankRetire d t) := by
  refine command_keeps (fun h => multi_keeps (fun h => ?_) h) h
  dsimp only
  split
  · exact startMigration_keeps h
  · exact h
theorem fabPortSet_keeps {d} (h : Keeps s t) : Keeps s (fabPortSet d t) :=
  command_keeps (fun h => storing_keeps h) h
theorem fabPortApply_keeps {d} (h : Keeps s t) : Keeps s (fabPortApply d t) :=
  onFab_keeps h
theorem fabQuery_keeps {d} (h : Keeps s t) : Keeps s (fabQuery d t) :=
  command_keeps (fun h => finish_keeps (onFab_keeps h)) h
/-! ### Links -/
theorem onLink_keeps {l f} (h : Keeps s t) : Keeps s (onLink t l f) := by
  dsimp only [onLink]
  split
  · exact h.update
  · exact h.update
theorem emitFrame_keeps {l f m} (h : Keeps s t) : Keeps s (emitFrame l f m t) :=
  State.emit_keeps (onLink_keeps h)
theorem emitAck_keeps {l nak} (h : Keeps s t) : Keeps s (emitAck l nak t) :=
  State.emit_keeps (onLink_keeps h)
theorem pump_keeps {l n} (h : Keeps s t) : Keeps s (pump l n t) := by
  induction n generalizing t with
  | zero => exact h
  | succ n ih =>
    dsimp only [pump]
    split
    · exact h
    · exact Keeps.ite (ih (emitFrame_keeps (onLink_keeps h))) h
theorem sendOn_keeps {l m} (h : Keeps s t) : Keeps s (sendOn l m t) :=
  Keeps.ite h (pump_keeps (onLink_keeps h))
theorem sendMir_keeps {m} (h : Keeps s t) : Keeps s (sendMir m t) :=
  Keeps.foldl (fun h => Keeps.ite (sendOn_keeps h) h) h
theorem onPkt_keeps {pseq f} (h : Keeps s t) : Keeps s (onPkt pseq f t) :=
  h.update
theorem pumpMir_keeps {n} (h : Keeps s t) : Keeps s (pumpMir n t) := by
  induction n generalizing t with
  | zero => exact h
  | succ n ih =>
    dsimp only [pumpMir]
    split
    · split
      · exact h
      · split
        · exact ih (sendOn_keeps (onPkt_keeps h))
        · exact ih (sendMir_keeps (onPkt_keeps h))
    · exact h
theorem retrain_keeps {l cause} (h : Keeps s t) : Keeps s (retrain l cause t) := by
  dsimp only [retrain]
  split
  · exact State.raiseLim_keeps (onLink_keeps h)
  · exact onLink_keeps h
theorem replay_keeps {l} (h : Keeps s t) : Keeps s (replay l t) :=
  Keeps.ite h (Keeps.ite (retrain_keeps (bucketAddN_keeps (onLink_keeps (Keeps.foldl (fun h => emitFrame_keeps h) h))))
      (bucketAddN_keeps (onLink_keeps (Keeps.foldl (fun h => emitFrame_keeps h) h))))
theorem takeAck_keeps {l h'} (h : Keeps s t) : Keeps s (takeAck l h' t) :=
  Keeps.ite (replay_keeps (pumpMir_keeps (pump_keeps (onLink_keeps h)))) (pumpMir_keeps (pump_keeps (onLink_keeps h)))
theorem receive_keeps {l h' m} (h : Keeps s t) : Keeps s (receive l h' m t).2 := by
  dsimp only [receive]
  split
  · exact h
  · split
    · exact Keeps.ite (onLink_keeps (takeAck_keeps (onLink_keeps h))) (takeAck_keeps (onLink_keeps h))
    · split
      · exact onLink_keeps (takeAck_keeps (onLink_keeps h))
      · exact onLink_keeps (takeAck_keeps (onLink_keeps h))
theorem permitted_keeps {l au} (h : Keeps s t) : Keeps s (permitted l au t).2 := by
  dsimp only [permitted]
  split
  · exact h
  · exact State.refuseAuth_keeps h
theorem onFrame_keeps {l h' m au f} (hf4 : ∀ {u}, Keeps s u → Keeps s (f u)) (h : Keeps s t) : Keeps s
    (onFrame l h' m au f t) :=
  Keeps.ite (receive_keeps h) (Keeps.ite (hf4 (permitted_keeps (receive_keeps h))) (permitted_keeps (receive_keeps h)))
theorem linkFrame_keeps {l h'} (h : Keeps s t) : Keeps s (linkFrame l h' t) :=
  Keeps.ite (takeAck_keeps (onLink_keeps h)) h
theorem frameCrcBad_keeps {l} (h : Keeps s t) : Keeps s (frameCrcBad l t) :=
  Keeps.ite (emitAck_keeps (onLink_keeps h)) h
theorem replayTimeout_keeps {l} (h : Keeps s t) : Keeps s (replayTimeout l t) := by
  dsimp only [replayTimeout]
  split
  · exact h
  · split
    · exact replay_keeps (onLink_keeps h)
    · exact replay_keeps h
theorem linkClear_keeps {l st} (h : Keeps s t) : Keeps s (linkClear l st t) :=
  onLink_keeps h
theorem takeRates_keeps (h : Keeps s t) : Keeps s (takeRates t) :=
  h.update
/-! ### Mirror operations -/
theorem onMir_keeps {f} (h : Keeps s t) : Keeps s (onMir t f) :=
  h.update
theorem duePacket_keeps {p} (h : Keeps s t) : Keeps s (duePacket p t) :=
  Keeps.ite (onMir_keeps h) h
theorem dueEpoch_keeps {c e ls} (h : Keeps s t) : Keeps s (dueEpoch c e ls t) := by
  dsimp only [dueEpoch]
  split
  · exact h
  · split
    · exact onMir_keeps h
    · split
      · exact onPkt_keeps h
      · exact duePacket_keeps h
theorem dueContext_keeps {c} (h : Keeps s t) : Keeps s (dueContext c t) := by
  dsimp only [dueContext]
  split
  · exact h
  · split
    · exact onMir_keeps h
    · split
      · exact onPkt_keeps h
      · exact duePacket_keeps h
theorem dueSegment_keeps {first count sealing} (h : Keeps s t) : Keeps s (dueSegment first count sealing t) :=
  duePacket_keeps h
theorem noteLatest_keeps {l} (h : Keeps s t) : Keeps s (noteLatest l t) :=
  Keeps.ite (onMir_keeps h) h
theorem resync_keeps (h : Keeps s t) : Keeps s (resync t) :=
  onMir_keeps (Keeps.foldl (fun h => sendMir_keeps h) h)
theorem checkLag_keeps (h : Keeps s t) : Keeps s (checkLag t) :=
  Keeps.ite (resync_keeps (State.raise_keeps h)) h
/-! ### Store operations -/
theorem onStore_keeps {f} (h : Keeps s t) : Keeps s (onStore t f) :=
  h.update
theorem onSlu_keeps {f} (h : Keeps s t) : Keeps s (onSlu t f) :=
  h.update
theorem issueOps_keeps {n} (h : Keeps s t) : Keeps s (issueOps n t) := by
  induction n generalizing t with
  | zero => exact h
  | succ n ih =>
    dsimp only [issueOps]
    split
    · exact h
    · split
      · exact h
      · exact ih (onStore_keeps h)
theorem issueAll_keeps (h : Keeps s t) : Keeps s (issueAll t) :=
  issueOps_keeps h
theorem nandOp_keeps {kind use ppa bytes} (h : Keeps s t) : Keeps s (nandOp kind use ppa bytes t) :=
  issueAll_keeps (onStore_keeps (State.emit_keeps h))
theorem nandRead_keeps {use ppa} (h : Keeps s t) : Keeps s (nandRead use ppa t) :=
  Keeps.ite h (nandOp_keeps h)
theorem readsOver_keeps {f} (h : Keeps s t) : Keeps s (readsOver f t) :=
  issueAll_keeps (onStore_keeps h)
theorem setBlk_keeps {k f} (h : Keeps s t) : Keeps s (setBlk k f t) :=
  onStore_keeps h
theorem checkCapacity_keeps (h : Keeps s t) : Keeps s (checkCapacity t) :=
  Keeps.ite (State.raise_keeps h.updateRet) h.updateRet
theorem checkSpace_keeps (h : Keeps s t) : Keeps s (checkSpace t) :=
  Keeps.ite (State.raise_keeps (onStore_keeps h)) (onStore_keeps h)
theorem freeBlocks_keeps {ks} (h : Keeps s t) : Keeps s (freeBlocks ks t) :=
  Keeps.foldl (fun h => nandOp_keeps h) h
theorem takeBlock_keeps {lun q} (h : Keeps s t) : Keeps s (takeBlock lun q t).2 := by
  dsimp only [takeBlock]
  split
  · exact h
  · exact setBlk_keeps h
theorem takeRows_keeps {order rows} (h : Keeps s t) : Keeps s (takeRows order rows t).2 :=
  Keeps.foldl_snd (fun h => Keeps.foldl_snd (fun h => takeBlock_keeps h) h) h
theorem takePages_keeps {seed n} (h : Keeps s t) : Keeps s (takePages seed n t).2 := by
  dsimp only [takePages]
  split
  · exact h
  · exact Keeps.foldl_snd (fun h => takeBlock_keeps h) h
theorem programPages_keeps {use ps pages} (h : Keeps s t) : Keeps s (programPages use ps pages t) :=
  Keeps.foldl (fun h => nandOp_keeps h) h
theorem wroteOther_keeps {pages} (h : Keeps s t) : Keeps s (wroteOther pages t) :=
  onStore_keeps h
theorem writeAnchor_keeps (h : Keeps s t) : Keeps s (writeAnchor t) :=
  wake_keeps (ldgEnqueue_keeps (onStore_keeps h))
theorem kickAnchor_keeps (h : Keeps s t) : Keeps s (kickAnchor t) :=
  Keeps.ite (writeAnchor_keeps h) h
theorem dropOldRing_keeps (h : Keeps s t) : Keeps s (dropOldRing t) := by
  dsimp only [dropOldRing]
  split
  · exact h
  · exact Keeps.ite h (Keeps.ite (freeBlocks_keeps (onStore_keeps h)) (writeAnchor_keeps h))
theorem programRing_keeps {a b i pages} (h : Keeps s t) : Keeps s (programRing a b i pages t) :=
  wroteOther_keeps (Keeps.foldl (fun h => nandOp_keeps (nandOp_keeps h)) h)
theorem rotateRings_keeps (h : Keeps s t) : Keeps s (rotateRings t) := by
  dsimp only [rotateRings]
  split
  · exact freeBlocks_keeps (programRing_keeps ((takeBlock_keeps (takeBlock_keeps (dropOldRing_keeps h))).update))
  · exact dropOldRing_keeps h
theorem ringPages_keeps {pages} (h : Keeps s t) : Keeps s (ringPages pages t).2 := by
  have hroom : ∀ {c : Prop} [Decidable c], Keeps s (if c then rotateRings t else t) := Keeps.ite (rotateRings_keeps h) h
  dsimp only [ringPages]
  generalize hring :
      (if t.store.ring.a = 0 ∨ t.store.ring.index + pages.length > t.store.ncfg.ppb then rotateRings t else t) = u
  have hu : Keeps s u := hring ▸ hroom
  split
  · exact hu
  · exact programRing_keeps (onStore_keeps hu)
theorem writeRootWith_keeps {bbt} (h : Keeps s t) : Keeps s (writeRootWith bbt t) :=
  Keeps.ite (Keeps.ite (rotateRings_keeps h) h) (onStore_keeps (ringPages_keeps (Keeps.ite (rotateRings_keeps h) h)))
theorem writeRoot_keeps (h : Keeps s t) : Keeps s (writeRoot t) :=
  writeRootWith_keeps h
theorem tableChanged_keeps (h : Keeps s t) : Keeps s (tableChanged t) :=
  Keeps.ite h (Keeps.ite (onStore_keeps h) (writeRootWith_keeps (onStore_keeps (ringPages_keeps h))))
theorem newStripe_keeps {area home spare gen base prev} (h : Keeps s t) : Keeps s
    (newStripe area home spare gen base prev t).2 :=
  ringPages_keeps (takeRows_keeps h)
theorem placeSlot_keeps {x} (h : Keeps s t) : Keeps s (placeSlot x t) :=
  onStore_keeps h
theorem needStripe_keeps (h : Keeps s t) : Keeps s (needStripe t) := by
  dsimp only [needStripe]
  split
  · exact Keeps.ite h (writeRoot_keeps (onStore_keeps (newStripe_keeps h)))
  · exact writeRoot_keeps (onStore_keeps (newStripe_keeps h))
theorem journalPage_keeps {first xs} (h : Keeps s t) : Keeps s (journalPage first xs t) :=
  checkSpace_keeps (nandOp_keeps (onStore_keeps (needStripe_keeps h)))
theorem issuePage_keeps (h : Keeps s t) : Keeps s (issuePage t) :=
  Keeps.ite h (journalPage_keeps (onStore_keeps h))
theorem sealNow_keeps {g} (h : Keeps s t) : Keeps s (sealNow g t) :=
  Keeps.ite h (dueSegment_keeps (Keeps.foldl (fun h => State.setLine_keeps h) (State.setSeg_keeps h)))
theorem placeSealRecords_keeps {g} (h : Keeps s t) : Keeps s (placeSealRecords g t) :=
  Keeps.foldl (fun h => placeSlot_keeps h) h
theorem placeSealMarker_keeps {g} (h : Keeps s t) : Keeps s (placeSealMarker g t) :=
  placeSlot_keeps h
theorem markSeals_keeps (h : Keeps s t) : Keeps s (markSeals t) :=
  Keeps.ite h (onMir_keeps (wake_keeps (Keeps.foldl (fun h => placeSealMarker_keeps h) h)))
theorem wakeSeals_keeps (h : Keeps s t) : Keeps s (wakeSeals t) :=
  Keeps.ite h (Keeps.ite (sendMir_keeps (onMir_keeps h)) (onMir_keeps h))
theorem wakeNand_keeps (h : Keeps s t) : Keeps s (wakeNand t) :=
  wake_keeps (wakeSeals_keeps (Keeps.foldl (fun h => sealNow_keeps h) (markSeals_keeps h)))
theorem placeMarker_keeps {first count empties} (h : Keeps s t) : Keeps s (placeMarker first count empties t) :=
  placeSlot_keeps h
theorem placeRuns_keeps {first count} (h : Keeps s t) : Keeps s (placeRuns first count t) :=
  Keeps.foldl (fun h => placeSlot_keeps h) h
theorem untilDurable_keeps {d res} (h : Keeps s t) : Keeps s (untilDurable d res t) :=
  running_keeps h
theorem rejournal_keeps {r} (h : Keeps s t) : Keeps s (rejournal r t) :=
  Keeps.ite h (placeSlot_keeps h)
theorem moveOff_keeps {f} (h : Keeps s t) : Keeps s (moveOff f t) :=
  Keeps.foldl (fun h => placeSlot_keeps h) (Keeps.foldl (fun h => Keeps.ite h (rejournal_keeps h)) h)
theorem closeStripe_keeps (h : Keeps s t) : Keeps s (closeStripe t) :=
  onStore_keeps h
theorem retireEvent_keeps {k cause} (h : Keeps s t) : Keeps s (retireEvent k cause t) :=
  State.raise_keeps h
theorem checkLun_keeps {lun} (h : Keeps s t) : Keeps s (checkLun lun t) := by
  dsimp only [checkLun]
  split
  · exact h
  · exact Keeps.ite (closeStripe_keeps (moveOff_keeps (State.raise_keeps (onStore_keeps h)))) h
theorem retireBlock_keeps {k cause} (h : Keeps s t) : Keeps s (retireBlock k cause t) :=
  Keeps.ite h (checkSpace_keeps (checkCapacity_keeps (checkLun_keeps (tableChanged_keeps (Keeps.ite (rotateRings_keeps
      (Keeps.ite (closeStripe_keeps (moveOff_keeps (retireEvent_keeps (setBlk_keeps h)))) (moveOff_keeps (retireEvent_keeps
      (setBlk_keeps h))))) (Keeps.ite (closeStripe_keeps (moveOff_keeps (retireEvent_keeps (setBlk_keeps h)))) (moveOff_keeps
      (retireEvent_keeps (setBlk_keeps h)))))))))
theorem noteWear_keeps {k n} (h : Keeps s t) : Keeps s (noteWear k n t) :=
  Keeps.ite (State.raise_keeps h) h
theorem erased__keeps {keep k} (h : Keeps s t) : Keeps s (erased_ keep k t) :=
  Keeps.ite (retireBlock_keeps (noteWear_keeps (onStore_keeps (setBlk_keeps h)))) (noteWear_keeps (onStore_keeps
      (setBlk_keeps h)))
theorem buildSegment_keeps {seg} (h : Keeps s t) : Keeps s (buildSegment seg t) :=
  Keeps.ite h (Keeps.foldl (fun h => State.setLine_keeps h) (onSlu_keeps h))
theorem noteBadRecord_keeps (h : Keeps s t) : Keeps s (noteBadRecord t) :=
  Keeps.ite (State.raiseLim_keeps (onSlu_keeps h)) (onSlu_keeps h)
theorem fillRequest_keeps {fault line} (h : Keeps s t) : Keeps s (fillRequest fault line t) :=
  Keeps.foldl (fun h => requestAs_keeps h) h
theorem fillLine_keeps {fault line bad} (h : Keeps s t) : Keeps s (fillLine fault line bad t) := by
  dsimp only [fillLine]
  split
  · exact Keeps.ite (fillRequest_keeps (noteBadRecord_keeps (poisonMade_keeps (State.setHome_keeps
        (State.setLine_keeps h.update))))) (fillRequest_keeps (State.setHome_keeps (State.setLine_keeps h)))
  · exact fillRequest_keeps (noteBadRecord_keeps (poisonMade_keeps (State.setHome_keeps (State.setLine_keeps h.update))))
theorem faultIn_keeps {line} (h : Keeps s t) : Keeps s (faultIn line t) :=
  Keeps.ite (fillLine_keeps (buildSegment_keeps h)) (buildSegment_keeps h)
/-! ### Weir operations -/
theorem drawSoft_keeps {fp n} (h : Keeps s t) : Keeps s (drawSoft fp n t) :=
  Keeps.ite (State.onWeir_keeps h) h
theorem endHold_keeps (h : Keeps s t) : Keeps s (endHold t) := by
  dsimp only [endHold]
  split
  · exact h
  · exact State.onWeir_keeps h
theorem warnEpochs_keeps (h : Keeps s t) : Keeps s (warnEpochs t) :=
  Keeps.foldl (fun h => Keeps.ite h (Keeps.ite (State.raise_keeps (State.onCtx_keeps h)) h)) h
theorem relevel_keeps (h : Keeps s t) : Keeps s (relevel t) :=
  Keeps.ite h (Keeps.ite (State.raise_keeps (State.raise_keeps (State.onWeir_keeps h))) (State.raise_keeps
      (State.onWeir_keeps h)))
theorem onConf_keeps {f} (h : Keeps s t) : Keeps s (onConf t f) :=
  h.update
theorem tellPrepared_keeps (h : Keeps s t) : Keeps s (tellPrepared t) :=
  Keeps.foldl (fun h => Keeps.ite (sendOn_keeps (onConf_keeps h)) h) h
theorem settleWeir_keeps (h : Keeps s t) : Keeps s (settleWeir t) :=
  tellPrepared_keeps (relevel_keeps (warnEpochs_keeps (checkLag_keeps h)))
/-! ### Lines -/
theorem notePublish_keeps {c e l bs} (h : Keeps s t) : Keeps s (notePublish c e l bs t) :=
  Keeps.foldl (fun h => by
    split
    · exact h
    · exact h.update) h
theorem addPieces_keeps {fp e ch poison priv ps} (h : Keeps s t) : Keeps s (addPieces fp e ch poison priv ps t) := by
  refine Keeps.foldl (fun h => Keeps.ite h ?_) h
  cases e with
  | none => exact h.updateRet
  | some c => exact notePublish_keeps h.updateRet
theorem dropConstant_keeps (h : Keeps s t) : Keeps s (dropConstant t) :=
  h.updateRet
theorem holdWrite_keeps {h' weir} (h : Keeps s t) : Keeps s (holdWrite h' weir t) :=
  Keeps.ite h.updateRet (Keeps.ite (State.onWeir_keeps h.updateRet.update) h.updateRet.update)
theorem refuseMgmt_keeps (h : Keeps s t) : Keeps s (refuseMgmt t) :=
  State.onWeir_keeps h
theorem endFirmware_keeps {cmd st} (h : Keeps s t) : Keeps s (endFirmware cmd st t) := by
  dsimp only [endFirmware]
  split
  · exact finishTag_keeps h
  · exact h
theorem droppedWrite_keeps {cmd const} (h : Keeps s t) : Keeps s (droppedWrite cmd const t) :=
  Keeps.ite (endFirmware_keeps h) h
/-- What becomes of an offered write keeps what the offer found. -/
def Taken.Keeps (s : State) : Taken → Prop
  | .accepted u | .dropped u => Machine.Keeps s u
  | .held _ => True
theorem Taken.Keeps.ite {c : Prop} [Decidable c] {a b : Taken} (ha : a.Keeps s) (hb : b.Keeps s) :
    (if c then a else b).Keeps s := by
  split
  · exact ha
  · exact hb
theorem takeWrite_keeps {fp a bytes poison priv} (h : Keeps s t) : (takeWrite fp a bytes poison priv t).Keeps s :=
  Taken.Keeps.ite (dropConstant_keeps h) (Taken.Keeps.ite (State.onCtx_keeps h) (Taken.Keeps.ite trivial
      (Taken.Keeps.ite trivial
    (addPieces_keeps (drawSoft_keeps h)))))
theorem offerAs_keeps {cmd fp a bytes poison} (h : Keeps s t) : Keeps s (offerAs cmd fp a bytes poison t) := by
  have htaken : (takeWrite fp a bytes poison false t).Keeps s := takeWrite_keeps h
  dsimp only [offerAs]
  split
  · exact holdWrite_keeps h
  · split <;> rename_i heq <;> rw [heq] at htaken
    · exact htaken
    · exact droppedWrite_keeps htaken
    · exact Keeps.ite (endFirmware_keeps (refuseMgmt_keeps h)) (holdWrite_keeps h)
theorem offerWrite_keeps {fp a bytes poison} (h : Keeps s t) : Keeps s (offerWrite fp a bytes poison t) :=
  offerAs_keeps h
theorem firmwareWrite_keeps {port tag a bytes poison} (h : Keeps s t) : Keeps s (firmwareWrite port tag a bytes poison t) :=
  offerAs_keeps h
theorem bufferErrors_keeps {buf} (h : Keeps s t) : Keeps s (bufferErrors buf t) :=
  Keeps.ite (sramUncorrectable_keeps (bucketAddN_keeps h.update)) (bucketAddN_keeps h.update)
theorem fabricWriteAccept_keeps {who a bytes buf} (h : Keeps s t) : Keeps s (fabricWriteAccept who a bytes buf t) := by
  dsimp only [fabricWriteAccept]
  split
  · exact h
  · split
    · exact Keeps.ite (bufferErrors_keeps h) (settleWeir_keeps (offerWrite_keeps (bufferErrors_keeps h)))
    · exact settleWeir_keeps (firmwareWrite_keeps (bufferErrors_keeps h))
theorem noteClear_keeps {old new} (h : Keeps s t) : Keeps s (noteClear old new t) :=
  poisonCleared_keeps h
theorem notePoisoned_keeps {p} (h : Keeps s t) : Keeps s (notePoisoned p t) :=
  Keeps.ite h (poisonMade_keeps h)
theorem requestPiece_keeps {p place v} (h : Keeps s t) : Keeps s (requestPiece p place v t) :=
  Keeps.foldl (fun h => request_keeps h) h
theorem storeHome_keeps {p fresh} (h : Keeps s t) : Keeps s (storeHome p fresh t) :=
  requestPiece_keeps (notePoisoned_keeps (noteClear_keeps (State.setHome_keeps (State.setLine_keeps h))))
theorem storeShadow_keeps {p fresh} (h : Keeps s t) : Keeps s (storeShadow p fresh t) :=
  requestPiece_keeps (notePoisoned_keeps (noteClear_keeps (State.setShadow_keeps (State.setLine_keeps (Keeps.ite
      (State.allocShadow_keeps h) h)))))
theorem copyToShadow_keeps {l} (h : Keeps s t) : Keeps s (copyToShadow l t) :=
  requestWrite_keeps (requestRead_keeps (State.setShadow_keeps (State.setLine_keeps (State.allocShadow_keeps h))))
theorem copyHome_keeps {l} (h : Keeps s t) : Keeps s (copyHome l t) :=
  requestWrite_keeps (requestRead_keeps (State.setHome_keeps (State.setLine_keeps h)))
theorem leave_keeps {p st flip bz stamp} (h : Keeps s t) : Keeps s (leave p st flip bz stamp t) :=
  State.setLine_keeps h.updateRet
theorem keepBase_keeps {l} (h : Keeps s t) : Keeps s (keepBase l t) :=
  State.setLine_keeps h
theorem applyEpoch__keeps {p} (h : Keeps s t) : Keeps s (applyEpoch_ p t) := by
  dsimp only [applyEpoch_]
  split
  · exact leave_keeps (storeHome_keeps h)
  · exact leave_keeps (storeHome_keeps h)
  · exact leave_keeps (storeHome_keeps h)
  · exact Keeps.ite (leave_keeps (storeShadow_keeps (keepBase_keeps (State.onCopy_keeps h)))) (leave_keeps (storeHome_keeps
        (copyToShadow_keeps (keepBase_keeps h))))
  · exact Keeps.ite (leave_keeps (storeHome_keeps (keepBase_keeps h))) (leave_keeps (storeHome_keeps (copyHome_keeps
        (keepBase_keeps h))))
  · exact leave_keeps (storeHome_keeps h)
  · exact leave_keeps (storeShadow_keeps h)
  · exact leave_keeps (storeHome_keeps h)
theorem applyLate_keeps {p} (h : Keeps s t) : Keeps s (applyLate p t) :=
  State.freeShadow_keeps (leave_keeps (by
    split
    · exact storeHome_keeps h
    · exact storeHome_keeps h
    · exact Keeps.ite (storeHome_keeps h) (storeHome_keeps (copyHome_keeps h))
    · exact storeHome_keeps h))
theorem applyLatest_keeps {p} (h : Keeps s t) : Keeps s (applyLatest p t) := by
  dsimp only [applyLatest]
  split
  · exact leave_keeps (storeHome_keeps h)
  · exact leave_keeps (storeHome_keeps h)
  · exact leave_keeps (storeHome_keeps h)
theorem applyPlain_keeps {p} (h : Keeps s t) : Keeps s (applyPlain p t) :=
  leave_keeps (storeHome_keeps h)
theorem applyPiece_keeps {p} (h : Keeps s t) : Keeps s (applyPiece p t) := by
  dsimp only [applyPiece]
  split
  · exact Keeps.ite (applyLate_keeps (onSlu_keeps h)) (applyEpoch__keeps (onSlu_keeps h))
  · exact noteLatest_keeps (applyLatest_keeps (onSlu_keeps h))
  · exact applyPlain_keeps (onSlu_keeps h)
  · exact applyPlain_keeps (onSlu_keeps h)
theorem setPiece_keeps {p w} (h : Keeps s t) : Keeps s (setPiece p w t) :=
  h.updateRet
theorem dropPiece_keeps {p} (h : Keeps s t) : Keeps s (dropPiece p t) :=
  h.updateRet
theorem startFault_keeps {line value} (h : Keeps s t) : Keeps s (startFault line value t) :=
  Keeps.ite h (Keeps.foldl (fun h => nandRead_keeps h) (Keeps.ite h (onSlu_keeps h)))
theorem wakeLoads_keeps (h : Keeps s t) : Keeps s (wakeLoads t) :=
  wake_keeps h
theorem lineWriteApply_keeps {fp} (h : Keeps s t) : Keeps s (lineWriteApply fp t) := by
  dsimp only [lineWriteApply]
  split
  · exact h
  · split
    · exact h
    · split
      · exact dropPiece_keeps (onDch_keeps h)
      · split
        · exact h
        · split
          · exact Keeps.ite (applyPiece_keeps (dropPiece_keeps h)) h
          · exact Keeps.ite (applyPiece_keeps (dropPiece_keeps h)) h
          · exact setPiece_keeps h
          · exact Keeps.ite h (setPiece_keeps (State.onCopy_keeps h))
          · exact Keeps.ite h (Keeps.ite (setPiece_keeps (startFault_keeps h)) h)
theorem applyServed_keeps {fp n} (h : Keeps s t) : Keeps s (applyServed fp n t) := by
  induction n generalizing t with
  | zero => exact h
  | succ n ih =>
    dsimp only [applyServed]
    split
    · exact Keeps.ite (ih (lineWriteApply_keeps h)) h
    · exact h
theorem hostCompletions_keeps {req f addr len} (h : Keeps s t) : Keeps s (hostCompletions req f addr len t) :=
  Keeps.foldl (fun h => State.emit_keeps h) h
theorem putLine_keeps {fp l bs} (h : Keeps s t) : Keeps s (putLine fp l bs t) :=
  Keeps.ite (dropConstant_keeps h) (Keeps.ite (addPieces_keeps h) (Keeps.ite (onDch_keeps h) (applyPiece_keeps h.updateRet)))
theorem onMod_keeps {n a f} (h : Keeps s t) : Keeps s (onMod t n a f) :=
  h.update
theorem writeHeader_keeps {n a} (h : Keeps s t) : Keeps s (writeHeader n a t) :=
  putLine_keeps h
theorem latchSlot_keeps {n a} (h : Keeps s t) : Keeps s (latchSlot n a t) :=
  Keeps.ite (writeHeader_keeps (onMod_keeps h)) (onMod_keeps h)
theorem latchBlocks_keeps {addr len} (h : Keeps s t) : Keeps s (latchBlocks addr len t) :=
  Keeps.foldl (fun h => Keeps.ite h (Keeps.foldl (fun h => Keeps.ite (latchSlot_keeps h) h) h)) h
theorem peerCompletions_keeps {fp tag f addr len} (h : Keeps s t) : Keeps s (peerCompletions fp tag f addr len t) :=
  Keeps.foldl (fun h => sendOn_keeps h) h
theorem answer_keeps {r f} (h : Keeps s t) : Keeps s (answer r f t) := by
  dsimp only [answer]
  split
  · exact Keeps.ite (Keeps.ite (poisonUsed_keeps (State.emit_keeps h)) (State.emit_keeps h)) (State.emit_keeps h)
  · exact Keeps.ite (poisonUsed_keeps (hostCompletions_keeps h)) (hostCompletions_keeps h)
  · exact peerCompletions_keeps h
theorem askRead_keeps {r} (h : Keeps s t) : Keeps s (askRead r t).1 := by
  refine Keeps.foldl_fst (fun h => ?_) h
  dsimp only
  split
  · exact h
  · exact Keeps.foldl_fst (fun h => request_keeps h) h
theorem serve_keeps {r} (h : Keeps s t) : Keeps s (serve r t) :=
  Keeps.ite (answer_keeps (by
    split
    · exact latchBlocks_keeps (askRead_keeps h.update)
    · exact askRead_keeps h.update)) (onFab_keeps (by
    split
    · exact latchBlocks_keeps (askRead_keeps h.update)
    · exact askRead_keeps h.update))
theorem faultRead_keeps {r} (h : Keeps s t) : Keeps s (faultRead r t) :=
  Keeps.foldl (fun h => Keeps.ite (startFault_keeps h) h) h
theorem takeRead_keeps {who fp addr len} (h : Keeps s t) : Keeps s (takeRead who fp addr len t) :=
  Keeps.ite (serve_keeps h.updateRet) (faultRead_keeps (onSlu_keeps h.updateRet))
theorem serveReads_keeps (h : Keeps s t) : Keeps s (serveReads t) :=
  Keeps.foldl (fun h => Keeps.ite (serve_keeps (onSlu_keeps h)) (faultRead_keeps h)) h
theorem meetErrors_keeps {l m} (h : Keeps s t) : Keeps s (meetErrors l m t) :=
  Keeps.ite h (Keeps.ite (poisonShadow_keeps h) (Keeps.ite h (dramUncorrectable_keeps h)))
theorem readErrors_keeps {l beats} (h : Keeps s t) : Keeps s (readErrors l beats t) :=
  Keeps.ite h (meetErrors_keeps (countBeats_keeps h))
theorem readMeta_keeps {w i l} (h : Keeps s t) : Keeps s (readMeta w i l t) :=
  Keeps.ite (metaRebuild_keeps (Keeps.ite (sramUncorrectable_keeps h) (Keeps.ite (bucketAdd_keeps h.update) h))) (Keeps.ite
      (bucketAdd_keeps (Keeps.ite (sramUncorrectable_keeps h) (Keeps.ite (bucketAdd_keeps h.update) h))) (Keeps.ite
      (sramUncorrectable_keeps h) (Keeps.ite (bucketAdd_keeps h.update) h)))
theorem fabricRead_keeps {fp a len words ue} (h : Keeps s t) : Keeps s (fabricRead fp a len words ue t) :=
  settleWeir_keeps (takeRead_keeps (Keeps.foldl (fun h => readErrors_keeps h) (Keeps.foldl (fun h => readMeta_keeps h) h)))
theorem flightDone_keeps {id spoil} (h : Keeps s t) : Keeps s (flightDone id spoil t) := by
  dsimp only [flightDone]
  split
  · exact h
  · exact Keeps.ite (answer_keeps (onFab_keeps h)) (onFab_keeps h)
theorem unflight_keeps {which} (h : Keeps s t) : Keeps s (unflight which t) :=
  Keeps.foldl (fun h => faultRead_keeps h) (onSlu_keeps (onFab_keeps h))
theorem dropReads_keeps {gone} (h : Keeps s t) : Keeps s (dropReads gone t) :=
  onFab_keeps (onSlu_keeps h)
theorem demandFaultDone_keeps {line bad} (h : Keeps s t) : Keeps s (demandFaultDone line bad t) := by
  dsimp only [demandFaultDone]
  split
  · exact h
  · exact serveReads_keeps (Keeps.foldl (fun h => applyServed_keeps h) (serveReads_keeps (Keeps.foldl
        (fun h => setPiece_keeps h) (Keeps.ite (fillLine_keeps (buildSegment_keeps (readsOver_keeps (Keeps.ite
        (State.raiseLim_keeps (onSlu_keeps h)) (onSlu_keeps h))))) (buildSegment_keeps (readsOver_keeps (Keeps.ite
        (State.raiseLim_keeps (onSlu_keeps h)) (onSlu_keeps h))))))))
theorem copyBatch_keeps (h : Keeps s t) : Keeps s (copyBatch t) := by
  dsimp only [copyBatch]
  split
  · exact h
  · split
    · exact h
    · exact State.onCopy_keeps h
theorem copyDone_keeps {line} (h : Keeps s t) : Keeps s (copyDone line t) := by
  dsimp only [copyDone]
  split
  · exact h
  · split
    · exact State.onCopy_keeps h
    · exact serveReads_keeps (applyServed_keeps (setPiece_keeps (State.onCopy_keeps (State.onCopy_keeps h))))
theorem settle_keeps {line} (h : Keeps s t) : Keeps s (settle line t) :=
  Keeps.ite h (onSlu_keeps (State.freeShadow_keeps (State.setLine_keeps (copyHome_keeps h))))
theorem copyStallLong_keeps {fp} (h : Keeps s t) : Keeps s (copyStallLong fp t) := by
  dsimp only [copyStallLong]
  split
  · exact h
  · exact State.raiseLim_keeps h
theorem cancelCopies_keeps {c} (h : Keeps s t) : Keeps s (cancelCopies c t) :=
  State.onCopy_keeps h
theorem noteWait_keeps {before} (h : Keeps s t) : Keeps s (noteWait before t) := h.update
theorem releaseLate_keeps {c} (h : Keeps s t) : Keeps s (releaseLate c t) :=
  h.updateRet
theorem voidWrites_keeps {c e} (h : Keeps s t) : Keeps s (voidWrites c e t) :=
  h.updateRet
/-! ### DRAM rows -/
theorem dchDrained_keeps {c} (h : Keeps s t) : Keeps s (dchDrained c t) :=
  Keeps.ite (drained_keeps (onDch_keeps h)) h
theorem onInject_keeps {f} (h : Keeps s t) : Keeps s (onInject t f) :=
  h.update
theorem plant_keeps {g} (h : Keeps s t) : Keeps s (plant g t) :=
  onInject_keeps h
theorem writeDone_keeps {c r} (h : Keeps s t) : Keeps s (writeDone c r t) :=
  plant_keeps (onDch_keeps h)
theorem mergeBad_keeps {place g bad keep} (h : Keeps s t) : Keeps s (mergeBad place g bad keep t) := by
  dsimp only [mergeBad]
  split
  · split
    · exact poisonShadow_keeps (State.setShadow_keeps h.update)
    · exact h.update
  · exact Keeps.ite (poisonHome_keeps (State.setHome_keeps h.update)) h.update
theorem readBad_keeps {c r} (h : Keeps s t) : Keeps s (readBad c r t) := by
  dsimp only [readBad]
  split
  · exact h
  · split
    · split
      · exact poisonShadow_keeps h
      · exact h
    · exact Keeps.ite h (meetErrors_keeps h)
theorem deliverBurst_keeps {r bad} (h : Keeps s t) : Keeps s (deliverBurst r bad t) := by
  dsimp only [deliverBurst]
  split
  · exact h
  · exact Keeps.ite (unflight_keeps h) (flightDone_keeps h.update)
theorem readDone_keeps {c r corrected ue} (h : Keeps s t) : Keeps s (readDone c r corrected ue t) :=
  Keeps.ite (countBeats_keeps (Keeps.ite (onSlu_keeps (onDch_keeps (State.draw_keeps h))) (onDch_keeps (State.draw_keeps h))))
      (Keeps.ite (Keeps.ite (countBeats_keeps (Keeps.ite (onSlu_keeps (onDch_keeps (State.draw_keeps h))) (onDch_keeps
      (State.draw_keeps h)))) (mergeBad_keeps (countBeats_keeps (Keeps.ite (onSlu_keeps (onDch_keeps (State.draw_keeps h)))
      (onDch_keeps (State.draw_keeps h)))))) (deliverBurst_keeps (Keeps.ite (countBeats_keeps (Keeps.ite (onSlu_keeps
      (onDch_keeps (State.draw_keeps h))) (onDch_keeps (State.draw_keeps h)))) (readBad_keeps (countBeats_keeps (Keeps.ite
      (onSlu_keeps (onDch_keeps (State.draw_keeps h))) (onDch_keeps (State.draw_keeps h))))))))
theorem dramRequestDone_keeps {c id corrected ue} (h : Keeps s t) : Keeps s (dramRequestDone c id corrected ue t) := by
  dsimp only [dramRequestDone]
  split
  · exact h
  · exact dchDrained_keeps (pullIn_keeps (admitWaiting_keeps (onDch_keeps (Keeps.ite (Keeps.ite (writeDone_keeps
        (onDch_keeps h)) (readDone_keeps (onDch_keeps h))) (noteLatency_keeps (Keeps.ite (writeDone_keeps (onDch_keeps h))
        (readDone_keeps (onDch_keeps h))))))))
theorem loseHome_keeps {l} (h : Keeps s t) : Keeps s (loseHome l t) :=
  poisonHome_keeps (State.setHome_keeps h.update)
theorem loseShadow_keeps {l} (h : Keeps s t) : Keeps s (loseShadow l t) :=
  poisonShadow_keeps (State.setShadow_keeps h.update)
theorem loseLine_keeps {c l} (h : Keeps s t) : Keeps s (loseLine c t l) := by
  dsimp only [loseLine]
  split
  · exact h
  · exact h
  · exact Keeps.ite (State.dropHome_keeps (State.setLine_keeps h)) h
  · exact Keeps.ite (loseShadow_keeps (Keeps.ite (loseHome_keeps h) h)) (Keeps.ite (loseHome_keeps h) h)
theorem loseEntries_keeps {c} (h : Keeps s t) : Keeps s (loseEntries c t) :=
  Keeps.foldl (fun h => poisonMade_keeps h) h.update
theorem loseChannel_keeps {c} (h : Keeps s t) : Keeps s (loseChannel c t) :=
  loseEntries_keeps (Keeps.foldl (fun h => loseLine_keeps h) h)
theorem poisonWaiting_keeps {c} (h : Keeps s t) : Keeps s (poisonWaiting c t) :=
  Keeps.foldl (fun h => flightDone_keeps h.update) h
theorem dchRestartAttempt_keeps {c ok} (h : Keeps s t) : Keeps s (dchRestartAttempt c ok t) :=
  Keeps.ite h (Keeps.ite (serveReads_keeps (admitWaiting_keeps (onDch_keeps (State.toLife_keeps (State.toLife_keeps
      (setFault_keeps (loseChannel_keeps (unflight_keeps (onDch_keeps h))))))))) (Keeps.ite (onDch_keeps (onDch_keeps h))
      (serveReads_keeps (onDch_keeps (poisonWaiting_keeps (onDch_keeps (onDch_keeps h)))))))
theorem onMig_keeps {c f} (h : Keeps s t) : Keeps s (onMig t c f) :=
  onDch_keeps h
theorem migrateBad_keeps {c l m} (h : Keeps s t) : Keeps s (migrateBad c l m t) :=
  Keeps.ite ((State.setHome_keeps (poisonMade_keeps (State.setLine_keeps ((onMig_keeps h).update)))).update) (poisonHome_keeps
      (onMig_keeps h))
theorem migratePool_keeps {c place m} (h : Keeps s t) : Keeps s (migratePool c place m t) := by
  dsimp only [migratePool]
  split
  · exact onMig_keeps h
  · split
    · exact poisonShadow_keeps (onMig_keeps h)
    · exact onMig_keeps h
theorem migRequest_keeps {c rank burst write} (h : Keeps s t) : Keeps s (migRequest c rank burst write t) :=
  enter_keeps (takeNo_keeps h)
theorem migRequests_keeps {c m line v} (h : Keeps s t) : Keeps s (migRequests c m line v t) :=
  Keeps.foldl (fun h => migRequest_keeps h) (Keeps.foldl (fun h => migRequest_keeps h) h)
theorem migrationEnd_keeps {c m} (h : Keeps s t) : Keeps s (migrationEnd c m t) :=
  Keeps.ite (degrade_keeps (onDch_keeps (ldgEnqueue_keeps (rankEvent_keeps (setRank_keeps (rankEvent_keeps (setRank_keeps
      (onDch_keeps h)))))))) (ldgEnqueue_keeps (rankEvent_keeps (setRank_keeps (rankEvent_keeps (setRank_keeps
      (onDch_keeps h))))))
theorem migrationProgress_keeps {c done} (h : Keeps s t) : Keeps s (migrationProgress c done t) := by
  dsimp only [migrationProgress]
  split
  · exact Keeps.ite (State.raise_keeps h) h
  · exact h
theorem migrateLine_keeps {c l bad v} (h : Keeps s t) (hline : migrateLine c l bad t = some (v, u)) : Keeps s u := by
  dsimp only [migrateLine] at hline
  split at hline
  · obtain ⟨rfl, rfl⟩ := hline
    exact Keeps.ite (onMig_keeps h) (Keeps.foldl (fun h => metaRebuild_keeps h) (onMig_keeps h))
  · split at hline
    · obtain ⟨rfl, rfl⟩ := hline
      exact migratePool_keeps h
    · split at hline
      · cases hline
      · obtain ⟨rfl, rfl⟩ := hline
        exact Keeps.ite (onMig_keeps h) (migrateBad_keeps h)
theorem migrationLine_keeps {c bad} (h : Keeps s t) : Keeps s (migrationLine c bad t) := by
  dsimp only [migrationLine]
  split
  · exact h
  · split
    · exact h
    · have hmoved : ∀ {m l}, Keeps s (match migrateLine c l bad t with | none => t | some (v, t) => migRequests c m l v t) := by
        intro m l
        split
        · exact h
        · rename_i heq
          exact migRequests_keeps (migrateLine_keeps h heq)
      exact Keeps.ite (migrationEnd_keeps (migrationProgress_keeps (onMig_keeps hmoved))) (migrationProgress_keeps
          (onMig_keeps hmoved))
/-! ### The store -/
theorem onNch_keeps {c f} (h : Keeps s t) : Keeps s (onNch t c f) :=
  onStore_keeps h
theorem nErr_keeps {c m} (h : Keeps s t) : Keeps s (nErr c m t) :=
  onNch_keeps h
theorem writeImage_keeps {seg} (h : Keeps s t) : Keeps s (writeImage seg t) := by
  dsimp only [writeImage]
  split
  · exact h
  · split
    · exact h
    · rename_i heq
      exact programPages_keeps (onStore_keeps (Keeps.foldl (fun h => nandRead_keeps h) ((takePages_keeps h).snd heq)))
theorem freeAreas_keeps (h : Keeps s t) : Keeps s (freeAreas t) :=
  Keeps.ite h (freeBlocks_keeps (writeRoot_keeps (onStore_keeps h)))
theorem seepMerge_keeps {seg} (h : Keeps s t) : Keeps s (seepMerge seg t) :=
  Keeps.ite h (checkSpace_keeps (freeAreas_keeps (onStore_keeps (writeImage_keeps h))))
theorem dropImages_keeps (h : Keeps s t) : Keeps s (dropImages t) :=
  freeBlocks_keeps (onStore_keeps h)
theorem dropJournal_keeps (h : Keeps s t) : Keeps s (dropJournal t) :=
  freeBlocks_keeps (onStore_keeps h)
theorem writeCheckpoint_keeps (h : Keeps s t) : Keeps s (writeCheckpoint t) := by
  dsimp only [writeCheckpoint]
  split
  · exact dropOldRing_keeps h
  · rename_i heq
    exact checkSpace_keeps (freeAreas_keeps (dropJournal_keeps (dropImages_keeps (freeBlocks_keeps (writeRoot_keeps
        (wroteOther_keeps
      (onStore_keeps (programPages_keeps ((takePages_keeps (dropOldRing_keeps h)).snd heq)))))))))
theorem wakeEvacuate_keeps (h : Keeps s t) : Keeps s (wakeEvacuate t) :=
  wake_keeps h
theorem checkpointWrite_keeps (h : Keeps s t) : Keeps s (checkpointWrite t) :=
  Keeps.ite (wakeEvacuate_keeps (writeCheckpoint_keeps h)) h
theorem preErase_keeps (h : Keeps s t) : Keeps s (preErase t).2 := by
  dsimp only [preErase]
  split
  · exact h
  · exact newStripe_keeps h
theorem preEraseNext_keeps (h : Keeps s t) : Keeps s (preEraseNext t) :=
  Keeps.ite h (Keeps.ite (preErase_keeps h) (writeRoot_keeps (onStore_keeps (preErase_keeps h))))
theorem areaReadied_keeps (h : Keeps s t) : Keeps s (areaReadied t) := by
  dsimp only [areaReadied]
  split
  · exact h
  · exact Keeps.ite h (onStore_keeps h)
theorem readyArea_keeps (h : Keeps s t) : Keeps s (readyArea t) := by
  have hnext : Keeps s (match t.store.nextArea with | some a => (some a, t) | none => preErase t).2 := by
    split
    · exact h
    · exact preErase_keeps h
  dsimp only [readyArea]
  split
  · exact h
  · split
    · rename_i heq
      exact hnext.snd heq
    · rename_i heq
      exact areaReadied_keeps (writeRoot_keeps (onStore_keeps (preErase_keeps (onStore_keeps (ringPages_keeps
          (hnext.snd heq))))))
theorem ringRotate_keeps (h : Keeps s t) : Keeps s (ringRotate t) :=
  Keeps.ite h (Keeps.ite (rotateRings_keeps h) (dropOldRing_keeps (kickAnchor_keeps h)))
theorem staticSpread_keeps {lun} (h : Keeps s t) : Keeps s (staticSpread lun t) := by
  dsimp only [staticSpread]
  split
  · exact Keeps.ite (writeImage_keeps h) h
  · exact h
theorem programCopy_keeps {i x} (h : Keeps s t) : Keeps s (programCopy i x t) := by
  have hfirst : ∀ {l : List Nat} {ps bs}, Keeps s (programPages .boot ps bs (l.foldl
      (fun s k => nandOp .erase .boot k [] s) t)) :=
    programPages_keeps (Keeps.foldl (fun h => nandOp_keeps h) h)
  cases x with
  | none => exact wroteOther_keeps (Keeps.updateBoot hfirst rfl)
  | some y => exact wroteOther_keeps (Keeps.updateBoot (programPages_keeps hfirst) rfl)
theorem copyFrom_keeps {i} (h : Keeps s t) : Keeps s (copyFrom i t) :=
  programCopy_keeps h
theorem layOutAgain_keeps {i} (h : Keeps s t) : Keeps s (layOutAgain i t) :=
  programCopy_keeps (onStore_keeps h)
theorem cleanDone_keeps {r serial} (h : Keeps s t) : Keeps s (cleanDone r serial t) := by
  dsimp only [cleanDone]
  split
  · exact Keeps.ite (State.setLine_keeps h) h
  · exact Keeps.ite (State.freeShadow_keeps (State.setLine_keeps h)) h
  · exact Keeps.ite (State.setLine_keeps h) h
  · exact h
theorem slotCleaned_keeps {x} (h : Keeps s t) : Keeps s (slotCleaned x t) := by
  dsimp only [slotCleaned]
  split
  · exact cleanDone_keeps h
  · exact h
theorem pageDurable_keeps {j} (h : Keeps s t) : Keeps s (pageDurable j t) := by
  dsimp only [pageDurable]
  split
  · exact h
  · exact checkSpace_keeps (freeAreas_keeps (wakeNand_keeps (Keeps.foldl (fun h => slotCleaned_keeps h) (onStore_keeps h))))
theorem reissue_keeps {j} (h : Keeps s t) : Keeps s (reissue j t) := by
  dsimp only [reissue]
  split
  · exact h
  · exact Keeps.ite (journalPage_keeps (onStore_keeps h)) (onStore_keeps (onStore_keeps h))
theorem nchDrained_keeps {c} (h : Keeps s t) : Keeps s (nchDrained c t) :=
  Keeps.ite h (checkCapacity_keeps (drained_keeps h))
theorem refreshPage_keeps {p} (h : Keeps s t) : Keeps s (refreshPage p t) :=
  Keeps.foldl (fun h => Keeps.ite h (rejournal_keeps h)) (bucketAdd_keeps (onStore_keeps h))
theorem retryLevels_keeps {p n} (h : Keeps s t) : Keeps s (retryLevels p n t) :=
  Keeps.foldl (fun h => State.emit_keeps h) h
theorem pageRead_keeps {p errors retries} (h : Keeps s t) : Keeps s (pageRead p errors retries t) :=
  Keeps.ite (refreshPage_keeps (onNch_keeps (onStore_keeps (retryLevels_keeps h)))) (onNch_keeps (onStore_keeps
      (retryLevels_keeps h)))
theorem programDone_keeps {op ok} (h : Keeps s t) : Keeps s (programDone op ok t) := by
  dsimp only [programDone]
  split
  · exact pageDurable_keeps h
  · exact reissue_keeps (retireBlock_keeps h)
  · exact layOutAgain_keeps (retireBlock_keeps h)
  · exact retireBlock_keeps h
  · exact h
theorem eraseDone_keeps {op ok} (h : Keeps s t) : Keeps s (eraseDone op ok t) :=
  Keeps.ite (layOutAgain_keeps (Keeps.ite (erased__keeps h) (retireBlock_keeps h))) (Keeps.ite (erased__keeps h)
      (retireBlock_keeps h))
theorem moveMeta_keeps {n} {x : Area × State} (h : Keeps s x.2) : Keeps s (moveMeta n x).2 := by
  dsimp only [moveMeta]
  split
  · exact h
  · split
    · exact h
    · exact nandOp_keeps h
theorem moveSeal_keeps {b} {x : Area × State} (h : Keeps s x.2) : Keeps s (moveSeal b x).2 := by
  refine Keeps.ite_snd h ?_
  split
  · exact nandOp_keeps h
  · exact h
theorem moveSeals_keeps {a : Area} {l : List Nat} (h : Keeps s t) : Keeps s (moveSeal true (moveSeal false (l.foldl
    (fun x n => moveMeta n x) (a, t)))).2 :=
  moveSeal_keeps (moveSeal_keeps (Keeps.foldl_snd (p := (a, t)) (fun h => moveMeta_keeps h) h))
theorem tidyArea_keeps {a} (h : Keeps s t) : Keeps s (tidyArea a t) :=
  Keeps.ite h (Keeps.ite (onStore_keeps (moveSeals_keeps h)) (writeRoot_keeps (onStore_keeps (ringPages_keeps
      (moveSeals_keeps h)))))
theorem tidy_keeps (h : Keeps s t) : Keeps s (tidy t) :=
  Keeps.ite h (Keeps.ite (writeCheckpoint_keeps (Keeps.foldl (fun h => tidyArea_keeps h) (Keeps.foldl
      (fun h => writeImage_keeps h) h))) (Keeps.foldl (fun h => tidyArea_keeps h) (Keeps.foldl
      (fun h => writeImage_keeps h) h)))
theorem storeMoves_keeps (h : Keeps s t) : Keeps s (storeMoves t) :=
  wakeEvacuate_keeps (issueAll_keeps (areaReadied_keeps (kickAnchor_keeps (tidy_keeps h))))
theorem nandOpDone_keeps {c ok us errors retries} (h : Keeps s t) : Keeps s (nandOpDone c ok us errors retries t) := by
  dsimp only [nandOpDone]
  split
  · exact h
  · split
    · exact h
    · exact Keeps.ite h (nchDrained_keeps (storeMoves_keeps (by
    split
    · exact programDone_keeps (Keeps.ite (onNch_keeps (onStore_keeps h)) (nErr_keeps (onNch_keeps (onStore_keeps h))))
    · exact eraseDone_keeps (Keeps.ite (onNch_keeps (onStore_keeps h)) (nErr_keeps (onNch_keeps (onStore_keeps h))))
    · exact pageRead_keeps (onNch_keeps (onStore_keeps h)))))
theorem saveLoses_keeps {c} (h : Keeps s t) : Keeps s (saveLoses c t) :=
  Keeps.ite (onStore_keeps (onSlu_keeps h)) h
theorem nandOpTimeout_keeps {c} (h : Keeps s t) : Keeps s (nandOpTimeout c t) :=
  Keeps.ite (saveLoses_keeps (unitFault_keeps (onNch_keeps (nErr_keeps h)))) (Keeps.ite h (unitFault_keeps (onNch_keeps
      (nErr_keeps h))))
theorem takeOps_keeps {c f} (h : Keeps s t) : Keeps s (takeOps c f t).2 :=
  onStore_keeps h
theorem moveOps_keeps {ops} (h : Keeps s t) : Keeps s (moveOps ops t) :=
  Keeps.ite (rotateRings_keeps (Keeps.foldl (fun h => writeImage_keeps h) (Keeps.foldl (fun h => reissue_keeps h)
      (freeBlocks_keeps (onStore_keeps (onStore_keeps h)))))) (Keeps.foldl (fun h => writeImage_keeps h) (Keeps.foldl
      (fun h => reissue_keeps h) (freeBlocks_keeps (onStore_keeps (onStore_keeps h)))))
theorem nstChannelRestart_keeps {c ok} (h : Keeps s t) : Keeps s (nstChannelRestart c ok t) :=
  Keeps.ite h (Keeps.ite (issueAll_keeps (State.toLife_keeps (State.toLife_keeps (setFault_keeps (onStore_keeps (onNch_keeps
      (State.raise_keeps (onNch_keeps h)))))))) (Keeps.ite (State.raise_keeps (onNch_keeps h)) (issueAll_keeps (moveOps_keeps
      (checkCapacity_keeps (Keeps.ite (closeStripe_keeps (takeOps_keeps (onNch_keeps (State.raise_keeps (onNch_keeps h)))))
      (takeOps_keeps (onNch_keeps (State.raise_keeps (onNch_keeps h))))))))))
theorem addDebt_keeps {n} (h : Keeps s t) : Keeps s (addDebt n t) :=
  Keeps.ite (State.raise_keeps (State.onWeir_keeps h)) (State.onWeir_keeps h)
theorem drawTokens_keeps {em} (h : Keeps s t) : Keeps s (drawTokens em t) :=
  Keeps.ite (addDebt_keeps (State.onWeir_keeps h)) (State.onWeir_keeps h)
theorem seepClean_keeps (h : Keeps s t) : Keeps s (seepClean t) := by
  dsimp only [seepClean]
  split
  · exact h
  · split
    · exact onStore_keeps h
    · exact onStore_keeps (placeSlot_keeps (drawTokens_keeps h))
theorem auditBegin_keeps (h : Keeps s t) : Keeps s (auditBegin t) :=
  Keeps.ite h (onStore_keeps h)
theorem auditCheck_keeps (h : Keeps s t) : Keeps s (auditCheck t) :=
  Keeps.ite (State.raise_keeps (onStore_keeps h)) (onStore_keeps h)
theorem auditLine_keeps {fixed bad} (h : Keeps s t) : Keeps s (auditLine fixed bad t) := by
  dsimp only [auditLine]
  split
  · exact h
  · split
    · exact auditCheck_keeps (auditBegin_keeps h)
    · exact auditCheck_keeps (meetErrors_keeps (countBeats_keeps (Keeps.foldl (fun h => request_keeps h) (requestValue_keeps
          (onStore_keeps (auditBegin_keeps h))))))
theorem recordLost_keeps {x} (h : Keeps s t) : Keeps s (recordLost x t) :=
  Keeps.ite (rejournal_keeps h) (State.raiseLim_keeps (onStore_keeps h))
theorem auditPage_keeps {errors retries} (h : Keeps s t) : Keeps s (auditPage errors retries t) := by
  dsimp only [auditPage]
  split
  · exact h
  · split
    · exact auditCheck_keeps (auditBegin_keeps h)
    · exact auditCheck_keeps (Keeps.ite (pageRead_keeps (onStore_keeps (auditBegin_keeps h))) (Keeps.ite (copyFrom_keeps
          (pageRead_keeps (onStore_keeps (auditBegin_keeps h)))) (Keeps.foldl (fun h => recordLost_keeps h) (pageRead_keeps
          (onStore_keeps (auditBegin_keeps h))))))
theorem nstQuery_keeps {d} (h : Keeps s t) : Keeps s (nstQuery d t) :=
  command_keeps (fun h => finish_keeps h) h
theorem evacuate_keeps {c} (h : Keeps s t) : Keeps s (evacuate c t) :=
  tidy_keeps (writeCheckpoint_keeps (preEraseNext_keeps (Keeps.ite (readyArea_keeps (Keeps.ite (freeBlocks_keeps
      (writeRoot_keeps (onStore_keeps (Keeps.ite (closeStripe_keeps (Keeps.foldl (fun h => Keeps.ite (moveOff_keeps h)
      (writeImage_keeps h)) (onStore_keeps h))) (Keeps.foldl (fun h => Keeps.ite (moveOff_keeps h) (writeImage_keeps h))
      (onStore_keeps h)))))) (Keeps.ite (closeStripe_keeps (Keeps.foldl (fun h => Keeps.ite (moveOff_keeps h)
      (writeImage_keeps h)) (onStore_keeps h))) (Keeps.foldl (fun h => Keeps.ite (moveOff_keeps h) (writeImage_keeps h))
      (onStore_keeps h))))) (Keeps.ite (freeBlocks_keeps (writeRoot_keeps (onStore_keeps (Keeps.ite (closeStripe_keeps
      (Keeps.foldl (fun h => Keeps.ite (moveOff_keeps h) (writeImage_keeps h)) (onStore_keeps h))) (Keeps.foldl
      (fun h => Keeps.ite (moveOff_keeps h) (writeImage_keeps h)) (onStore_keeps h)))))) (Keeps.ite (closeStripe_keeps
      (Keeps.foldl (fun h => Keeps.ite (moveOff_keeps h) (writeImage_keeps h)) (onStore_keeps h))) (Keeps.foldl
      (fun h => Keeps.ite (moveOff_keeps h) (writeImage_keeps h)) (onStore_keeps h)))))))
theorem nstEvacuate_keeps {d} (h : Keeps s t) : Keeps s (nstEvacuate d t) :=
  command_keeps (fun h => Keeps.ite (running_keeps (Keeps.foldl (fun h => evacuate_keeps h) h)) (finish_keeps (Keeps.foldl
      (fun h => evacuate_keeps h) h))) h
theorem seepConfig_keeps {d} (h : Keeps s t) : Keeps s (seepConfig d t) :=
  command_keeps (fun h => storing_keeps h) h
theorem seepAuditStart_keeps {d} (h : Keeps s t) : Keeps s (seepAuditStart d t) :=
  command_keeps (fun h => finish_keeps (auditBegin_keeps (onStore_keeps h))) h
theorem formatWear_keeps (h : Keeps s t) : Keeps s (formatWear t) :=
  Keeps.ite (Keeps.foldl (fun h => Keeps.foldl (fun h => Keeps.ite h (noteWear_keeps h)) h) (Keeps.foldl (fun h => Keeps.ite
      (retireEvent_keeps (setBlk_keeps h)) (noteWear_keeps h)) h)) (Keeps.foldl (fun h => Keeps.ite (retireEvent_keeps
      (setBlk_keeps h)) (noteWear_keeps h)) h)
theorem nstFormat_keeps {d} (h : Keeps s t) : Keeps s (nstFormat d t) :=
  command_keeps (fun h => Keeps.ite (finish_keeps h) (Keeps.ite (finish_keeps h) (running_keeps (readyArea_keeps
      (writeRootWith_keeps (ringPages_keeps (checkCapacity_keeps (onStore_keeps (formatWear_keeps (onStore_keeps h)))))))))) h
/-! ### Scan operations -/
theorem onScan_keeps {f} (h : Keeps s t) : Keeps s (onScan t f) :=
  h.update
theorem onScanCtx_keeps {c f} (h : Keeps s t) : Keeps s (onScanCtx t c f) :=
  onScan_keeps h
theorem bankIn_keeps {seg off len} (h : Keeps s t) : Keeps s (bankIn seg off len t) :=
  Keeps.foldl (fun h => faultIn_keeps h) h
theorem notePoisonRead_keeps {c seg off len} (h : Keeps s t) : Keeps s (notePoisonRead c seg off len t) :=
  Keeps.ite (poisonUsed_keeps h) h
theorem planesAnew_keeps {c ps} (h : Keeps s t) : Keeps s (planesAnew c ps t) :=
  onScan_keeps (onScanCtx_keeps h)
theorem resyncAll_keeps {c} (h : Keeps s t) : Keeps s (resyncAll c t) :=
  planesAnew_keeps h
theorem activateLayout_keeps {c} (h : Keeps s t) : Keeps s (activateLayout c t) := by
  unfold activateLayout
  extract_lets x s1
  have hs1 : Keeps s s1 := bankIn_keeps h
  clear_value s1
  split
  · exact onScanCtx_keeps h
  · split
    · exact planesAnew_keeps (onScanCtx_keeps hs1)
    · exact State.raiseLim_keeps (onScanCtx_keeps (notePoisonRead_keeps hs1))
theorem deactivate_keeps {c} (h : Keeps s t) : Keeps s (deactivate c t) :=
  onScanCtx_keeps h
theorem noteOverrun_keeps {c} (h : Keeps s t) : Keeps s (noteOverrun c t) := by
  dsimp only [noteOverrun]
  split
  · exact Keeps.ite h (Keeps.ite (State.raiseLim_keeps (onScanCtx_keeps (onScanCtx_keeps (onScan_keeps h)))) (onScanCtx_keeps
        (onScan_keeps h)))
  · exact h
theorem queuePass_keeps {c e swap} (h : Keeps s t) : Keeps s (queuePass c e swap t) := by
  dsimp only [queuePass]
  split
  · exact noteOverrun_keeps h
  · exact Keeps.ite (noteOverrun_keeps h) (Keeps.ite (onScan_keeps (noteOverrun_keeps h)) (onScan_keeps (noteOverrun_keeps h)))
theorem stopPasses_keeps (h : Keeps s t) : Keeps s (stopPasses t) :=
  Keeps.foldl (fun h => onScanCtx_keeps h) (onScan_keeps h)
theorem abortPasses_keeps (h : Keeps s t) : Keeps s (abortPasses t) :=
  noteWait_keeps (stopPasses_keeps h)
theorem scanCommit_keeps {c e} (h : Keeps s t) : Keeps s (scanCommit c e t) := by
  dsimp only [scanCommit]
  split
  · exact Keeps.ite (wake_keeps (State.raiseLim_keeps (onScanCtx_keeps (onScanCtx_keeps h)))) (onScanCtx_keeps h)
  · exact onScanCtx_keeps h
theorem keeps_of_checkSwap {c seg n r} (h : Keeps s t) (hr : checkSwap c seg n t = (r, u)) : Keeps s u := by
  unfold checkSwap at hr
  split at hr
  · cases hr
    exact h
  · extract_lets s1 at hr
    have hs1 : Keeps s s1 := bankIn_keeps h
    clear_value s1
    split at hr
    · cases hr
      exact notePoisonRead_keeps hs1
    · extract_lets s2 at hr
      have hs2 : Keeps s s2 := bankIn_keeps (bankIn_keeps hs1)
      clear_value s2
      split at hr
      · cases hr
        exact notePoisonRead_keeps hs2
      · cases hr
        exact hs2
theorem checkSwap_keeps {c seg n} (h : Keeps s t) : Keeps s (checkSwap c seg n t).2 := keeps_of_checkSwap h rfl
theorem swapTake_keeps {c e} (h : Keeps s t) : Keeps s (swapTake c e t).2 := by
  dsimp only [swapTake]
  split
  · exact h
  · split
    · exact h
    · split
      · exact wake_keeps (onScanCtx_keeps (checkSwap_keeps h))
      · exact State.onCtx_keeps (planesAnew_keeps (onScanCtx_keeps (checkSwap_keeps h)))
theorem scanAbandon_keeps {c e} (h : Keeps s t) : Keeps s (scanAbandon c e t) := by
  dsimp only [scanAbandon]
  split
  · exact Keeps.ite (wake_keeps (State.raiseLim_keeps (noteWait_keeps (onScan_keeps (State.onCtx_keeps (planesAnew_keeps
        (onScanCtx_keeps (onScanCtx_keeps h)))))))) (resyncAll_keeps (onScanCtx_keeps h))
  · exact resyncAll_keeps (onScanCtx_keeps h)
/-! ### Context operations -/
theorem sendTo_keeps {js m} (h : Keeps s t) : Keeps s (sendTo js m t) :=
  Keeps.foldl (fun h => sendOn_keeps h) h
theorem ctxChanged_keeps {c} (h : Keeps s t) : Keeps s (ctxChanged c t) :=
  Keeps.ite (sendTo_keeps (dueContext_keeps h)) (dueContext_keeps h)
theorem toMode_keeps {c m} (h : Keeps s t) : Keeps s (toMode c m t) :=
  Keeps.ite (State.onCtx_keeps h) (State.raise_keeps (State.onCtx_keeps h))
theorem queueAging_keeps {c e} (h : Keeps s t) : Keeps s (queueAging c e t) :=
  State.onCtx_keeps h
theorem freeShadows_keeps {c e f} (h : Keeps s t) : Keeps s (freeShadows c e f t) :=
  Keeps.foldl (fun h => State.freeShadow_keeps h) h
theorem onTrib_keeps {n f} (h : Keeps s t) : Keeps s (onTrib t n f) :=
  h.update
theorem takePublishes_keeps {c e capture} (h : Keeps s t) : Keeps s (takePublishes c e capture t) :=
  h.update
theorem closeNow_keeps {c src next} (h : Keeps s t) : Keeps s (closeNow c src next t) :=
  Keeps.ite (sendTo_keeps (Keeps.ite (dueEpoch_keeps (queueAging_keeps (queuePass_keeps (takePublishes_keeps (freeShadows_keeps
      (noteWait_keeps (releaseLate_keeps (cancelCopies_keeps (State.onCtx_keeps (swapTake_keeps (scanCommit_keeps h)))))))))))
      (queueAging_keeps (queuePass_keeps (takePublishes_keeps (freeShadows_keeps (noteWait_keeps (releaseLate_keeps
      (cancelCopies_keeps (State.onCtx_keeps (swapTake_keeps (scanCommit_keeps h)))))))))))) (Keeps.ite (dueEpoch_keeps
      (queueAging_keeps (queuePass_keeps (takePublishes_keeps (freeShadows_keeps (noteWait_keeps (releaseLate_keeps
      (cancelCopies_keeps (State.onCtx_keeps (swapTake_keeps (scanCommit_keeps h))))))))))) (queueAging_keeps (queuePass_keeps
      (takePublishes_keeps (freeShadows_keeps (noteWait_keeps (releaseLate_keeps (cancelCopies_keeps (State.onCtx_keeps
      (swapTake_keeps (scanCommit_keeps h)))))))))))
theorem beginClose_keeps {c next} (h : Keeps s t) : Keeps s (beginClose c next t) :=
  Keeps.ite (sendTo_keeps (onConf_keeps (State.onCtx_keeps h))) (closeNow_keeps h)
theorem askClose_keeps {c fromDoorbell next} (h : Keeps s t) : Keeps s (askClose c fromDoorbell next t) :=
  Keeps.ite (State.onCtx_keeps h) (beginClose_keeps h)
theorem abandonEpoch_keeps {c cause} (h : Keeps s t) : Keeps s (abandonEpoch c cause t) :=
  Keeps.ite h (queueAging_keeps (takePublishes_keeps (scanAbandon_keeps (State.onCtx_keeps (freeShadows_keeps (voidWrites_keeps
      (cancelCopies_keeps (State.onCtx_keeps h))))))))
theorem tellAbandoned_keeps {c e cause} (h : Keeps s t) : Keeps s (tellAbandoned c e cause t) :=
  Keeps.ite h (State.raise_keeps h)
theorem abandonNow_keeps {c cause next} (h : Keeps s t) : Keeps s (abandonNow c cause next t) :=
  Keeps.ite h (ctxChanged_keeps (tellAbandoned_keeps (toMode_keeps (abandonEpoch_keeps h))))
theorem askAbandon_keeps {c cause next} (h : Keeps s t) : Keeps s (askAbandon c cause next t) :=
  Keeps.ite (onConf_keeps h) (Keeps.ite h (Keeps.ite (State.onCtx_keeps h) (Keeps.ite (sendTo_keeps (abandonNow_keeps h))
      (abandonNow_keeps h))))
/-! ### Contexts -/
theorem rejectClose_keeps {c reason doorbell} (h : Keeps s t) : Keeps s (rejectClose c reason doorbell t) :=
  Keeps.ite (State.raiseLim_keeps (State.onCtx_keeps (State.onCtx_keeps h))) (State.onCtx_keeps h)
theorem ctxCommand_keeps {i d rng check act} (hact : ∀ {c u}, Keeps s u → Keeps s (act c u)) (h : Keeps s t) :
    Keeps s (ctxCommand i d rng check act t) :=
  command_keeps (fun h => Keeps.ite h (multi_keeps (fun h => hact h) h)) h
theorem ctxQuery_keeps {d} (h : Keeps s t) : Keeps s (ctxQuery d t) :=
  command_keeps (fun h => finish_keeps h) h
theorem ctxConfigAct_keeps {d c} (h : Keeps s t) : Keeps s (ctxConfigAct d c t) :=
  ctxChanged_keeps (State.onCtx_keeps h)
theorem ctxConfig_keeps {d} (h : Keeps s t) : Keeps s (ctxConfig d t) :=
  ctxCommand_keeps (fun h => ctxConfigAct_keeps h) h
theorem ctxRun_keeps {c} (h : Keeps s t) : Keeps s (ctxRun c t) :=
  activateLayout_keeps (ctxChanged_keeps (toMode_keeps (State.onCtx_keeps h)))
theorem ctxStart_keeps {d} (h : Keeps s t) : Keeps s (ctxStart d t) :=
  ctxCommand_keeps (fun h => ctxRun_keeps h) h
theorem countRejects_keeps {ts check} (h : Keeps s t) : Keeps s (countRejects ts check t) :=
  Keeps.foldl (fun h => by
    split
    · exact rejectClose_keeps h
    · exact h) h
theorem ctxClose_keeps {d} (h : Keeps s t) : Keeps s (ctxClose d t) :=
  command_keeps (fun h => Keeps.ite h (finish_keeps (Keeps.foldl (fun h => askClose_keeps h) (countRejects_keeps h)))) h
theorem ctxPauseAct_keeps {mode c} (h : Keeps s t) : Keeps s (ctxPauseAct mode c t) :=
  Keeps.ite (ctxChanged_keeps (toMode_keeps h)) (Keeps.ite (askClose_keeps h) (askAbandon_keeps h))
theorem ctxPause_keeps {d} (h : Keeps s t) : Keeps s (ctxPause d t) :=
  command_keeps (fun h => Keeps.ite h (multi_keeps (fun h => ctxPauseAct_keeps h) (Keeps.ite (countRejects_keeps h) h))) h
theorem ctxResume_keeps {d} (h : Keeps s t) : Keeps s (ctxResume d t) :=
  ctxCommand_keeps (fun h => ctxRun_keeps h) h
theorem ctxAbandonAct_keeps {c} (h : Keeps s t) : Keeps s (ctxAbandonAct c t) :=
  askAbandon_keeps h
theorem ctxAbandon_keeps {d} (h : Keeps s t) : Keeps s (ctxAbandon d t) :=
  ctxCommand_keeps (fun h => ctxAbandonAct_keeps h) h
theorem ctxStopAct_keeps {c} (h : Keeps s t) : Keeps s (ctxStopAct c t) :=
  deactivate_keeps (ctxChanged_keeps (toMode_keeps h))
theorem ctxStop_keeps {d} (h : Keeps s t) : Keeps s (ctxStop d t) :=
  ctxCommand_keeps (fun h => ctxStopAct_keeps h) h
theorem ctxLineQuery_keeps {d} (h : Keeps s t) : Keeps s (ctxLineQuery d t) :=
  command_keeps (fun h => Keeps.ite h (finish_keeps (buildSegment_keeps h))) h
theorem copyConfig_keeps {d} (h : Keeps s t) : Keeps s (copyConfig d t) :=
  command_keeps (fun h => finish_keeps (State.onCopy_keeps h)) h
theorem doorbell_keeps {c w} (h : Keeps s t) : Keeps s (doorbell c w t) := by
  dsimp only [doorbell]
  split
  · exact askClose_keeps h
  · exact rejectClose_keeps (Keeps.ite (State.refuseAuth_keeps h) h)
theorem ringAll_keeps {ws} (h : Keeps s t) : Keeps s (ringAll ws t) :=
  settleWeir_keeps (Keeps.foldl (fun h => doorbell_keeps h) h)
theorem closingEnd_keeps {c} (h : Keeps s t) : Keeps s (closingEnd c t) :=
  Keeps.ite h (Keeps.ite (State.onCtx_keeps h) (ctxChanged_keeps (State.raise_keeps (State.onCtx_keeps h))))
theorem agingVisit_keeps {c line} (h : Keeps s t) : Keeps s (agingVisit c line t) := by
  dsimp only [agingVisit]
  split
  · exact h
  · split
    · exact h
    · split
      · exact State.dropHome_keeps (State.setLine_keeps h)
      · exact State.dropHome_keeps (State.setLine_keeps h)
      · exact State.setLine_keeps h
theorem forceAging_keeps {c} (h : Keeps s t) : Keeps s (forceAging c t) :=
  Keeps.ite h (State.onCtx_keeps (Keeps.foldl (fun h => agingVisit_keeps h) (State.onCtx_keeps h)))
theorem agingDone_keeps {c} (h : Keeps s t) : Keeps s (agingDone c t) := by
  dsimp only [agingDone]
  split
  · exact h
  · exact Keeps.ite h (State.onCtx_keeps h)
theorem deferredCloseTaken_keeps {c} (h : Keeps s t) : Keeps s (deferredCloseTaken c t) := by
  dsimp only [deferredCloseTaken]
  split
  · exact h
  · exact Keeps.ite h (State.raise_keeps (by
    split
    · exact Keeps.ite (beginClose_keeps (State.onCtx_keeps h)) (closeNow_keeps (onConf_keeps (State.onCtx_keeps h)))
    · exact askAbandon_keeps (State.onCtx_keeps h)))
theorem ctxWatchdogExpire_keeps {c} (h : Keeps s t) : Keeps s (ctxWatchdogExpire c t) :=
  Keeps.ite h (askAbandon_keeps h)
/-! ### Scan services -/
theorem waitVisit_keeps {l} (h : Keeps s t) : Keeps s (waitVisit l t) :=
  Keeps.foldl (fun h => setPiece_keeps h) h
theorem scanWrite_keeps {c n} (h : Keeps s t) : Keeps s (scanWrite c n t) := by
  have hnoted : ∀ {e bs}, Keeps s (waitVisit n.1 (notePublish c e n.1 bs (onRet t fun r => { r with order := r.order + 1 }))) :=
    waitVisit_keeps (notePublish_keeps h.updateRet)
  dsimp only [scanWrite]
  split
  · exact State.onCtx_keeps h
  · split
    · exact onDch_keeps hnoted
    · split
      · exact hnoted.updateRet
      · exact applyPiece_keeps hnoted
theorem scanPoisoned_keeps {c line kind beats} (h : Keeps s t) : Keeps s (scanPoisoned c line kind beats t) :=
  Keeps.ite (State.raiseLim_keeps (onScanCtx_keeps (poisonUsed_keeps h))) (onScanCtx_keeps (poisonUsed_keeps h))
theorem tellPoison_keeps {c kind bad} (h : Keeps s t) : Keeps s (tellPoison c kind bad t) :=
  Keeps.foldl (fun h => scanPoisoned_keeps h) h
theorem planeVisited_keeps {p j i nz more} (h : Keeps s t) : Keeps s (planeVisited p j i nz more t) :=
  Keeps.ite h (onScanCtx_keeps h)
theorem passEnd_keeps {p} (h : Keeps s t) : Keeps s (passEnd p t) :=
  Keeps.ite (drained_keeps (onScanCtx_keeps (onScan_keeps h))) (onScanCtx_keeps (onScan_keeps h))
theorem onRunning_keeps {f} (h : Keeps s t) : Keeps s (onRunning t f) :=
  onScan_keeps h
theorem noteEpoch_keeps {p} (h : Keeps s t) : Keeps s (noteEpoch p t) :=
  Keeps.ite h (onScanCtx_keeps (onRunning_keeps h))
theorem visitEnds_keeps {p v} (h : Keeps s t) : Keeps s (visitEnds p v t) := by
  dsimp only [visitEnds]
  split
  · exact Keeps.ite (passEnd_keeps (serveReads_keeps (noteWait_keeps (by
    split
    · exact onRunning_keeps h
    · split
      · exact onRunning_keeps h
      · exact planeVisited_keeps (onRunning_keeps h))))) (serveReads_keeps (noteWait_keeps (by
    split
    · exact onRunning_keeps h
    · split
      · exact onRunning_keeps h
      · exact planeVisited_keeps (onRunning_keeps h))))
  · exact serveReads_keeps (noteWait_keeps (by
    split
    · exact onRunning_keeps h
    · split
      · exact onRunning_keeps h
      · exact planeVisited_keeps (onRunning_keeps h)))
theorem visitWrites_keeps {v ls} (h : Keeps s t) : Keeps s (visitWrites v ls t) := by
  induction ls generalizing t with
  | nil =>
    dsimp only [visitWrites]
    split
    · exact visitEnds_keeps h
    · exact h
  | cons n ls ih =>
    dsimp only [visitWrites]
    split
    · exact h
    · exact Keeps.ite (onRunning_keeps h) (ih (scanWrite_keeps (noteEpoch_keeps (drawSoft_keeps h))))
theorem visit_keeps {p v} (h : Keeps s t) : Keeps s (visit p v t) := by
  dsimp only [visit]
  split
  · exact h
  · split
    · exact visitWrites_keeps (tellPoison_keeps (onScan_keeps (Keeps.foldl (fun h => faultIn_keeps h) h)))
    · split
      · exact visitEnds_keeps (Keeps.foldl (fun h => faultIn_keeps h) h)
      · exact visitWrites_keeps (tellPoison_keeps (Keeps.foldl (fun h => faultIn_keeps h) h))
theorem scanPassStart_keeps (h : Keeps s t) : Keeps s (scanPassStart t) := by
  dsimp only [scanPassStart]
  split
  · exact Keeps.ite (passEnd_keeps (onScan_keeps h)) (onScan_keeps h)
  · exact h
theorem scanLineVisit_keeps (h : Keeps s t) : Keeps s (scanLineVisit t) := by
  dsimp only [scanLineVisit]
  split
  · exact h
  · split
    · exact visitWrites_keeps h
    · split
      · exact passEnd_keeps h
      · exact visit_keeps h
theorem ctxSwap_keeps {d} (h : Keeps s t) : Keeps s (ctxSwap d t) := by
  refine command_keeps (fun h => ?_) h
  dsimp only
  split
  · exact h
  · split
    · exact finish_keeps h
    · refine Keeps.ite (finish_keeps h) (Keeps.ite (finish_keeps h) (Keeps.ite (finish_keeps h) ?_))
      split <;> rename_i heq
      · exact finish_keeps ((checkSwap_keeps h).snd heq)
      · exact running_keeps (onScanCtx_keeps ((checkSwap_keeps h).snd heq))
theorem ctxSwapTimeout_keeps {c} (h : Keeps s t) : Keeps s (ctxSwapTimeout c t) := by
  dsimp only [ctxSwapTimeout]
  split
  · exact Keeps.ite h (wake_keeps (onScanCtx_keeps h))
  · exact h
theorem scanConfig_keeps {d} (h : Keeps s t) : Keeps s (scanConfig d t) :=
  command_keeps (fun h => Keeps.ite (finish_keeps h) (storing_keeps h)) h
theorem scanConfigApply_keeps {d} (h : Keeps s t) : Keeps s (scanConfigApply d t) :=
  onScan_keeps h
theorem scanQuery_keeps {d} (h : Keeps s t) : Keeps s (scanQuery d t) :=
  command_keeps (fun h => finish_keeps h) h
theorem layoutReason_keeps {c seg n asSwap} (h : Keeps s t) : Keeps s (layoutReason c seg n asSwap t).2 := by
  dsimp only [layoutReason]
  split
  · exact h
  · split
    · split <;> rename_i heq
      · exact (checkSwap_keeps h).snd heq
      · exact (checkSwap_keeps h).snd heq
    · split
      · exact notePoisonRead_keeps (bankIn_keeps h)
      · exact bankIn_keeps h
theorem scanLayoutCheck_keeps {d} (h : Keeps s t) : Keeps s (scanLayoutCheck d t) := by
  refine command_keeps (fun h => ?_) h
  split <;> rename_i heq
  · exact finish_keeps ((layoutReason_keeps h).snd heq)
  · exact finish_keeps ((layoutReason_keeps h).snd heq)
/-! ### Segments -/
theorem blocksZeroed_keeps {inside} (h : Keeps s t) : Keeps s (blocksZeroed inside t) :=
  h.update
theorem emptySegment_keeps {g} (h : Keeps s t) : Keeps s (emptySegment g t) := by
  refine onMir_keeps (blocksZeroed_keeps (onSlu_keeps (h.stores (fun hok => ?_) rfl)))
  obtain ⟨hdram, hshadow, hlines, hsegs⟩ := hok
  exact ⟨mdrop_mwf _ _ _ _ hdram, mdrop_mwf _ _ _ _ hshadow, mdrop_mwf _ _ _ _ hlines, hsegs⟩
theorem segQuery_keeps {d} (h : Keeps s t) : Keeps s (segQuery d t) :=
  command_keeps (fun h => finish_keeps h) h
theorem dueClass_keeps {first run e old} (h : Keeps s t) : Keeps s (dueClass first run e old t) :=
  Keeps.ite (dueSegment_keeps (dueSegment_keeps h)) (dueSegment_keeps h)
theorem segSetClass_keeps {d} (h : Keeps s t) : Keeps s (segSetClass d t) := by
  refine command_keeps (fun h => Keeps.ite (finish_keeps h) ?_) h
  dsimp only
  split
  · exact finish_keeps h
  · split
    · exact finish_keeps h
    · exact untilDurable_keeps (dueClass_keeps (serveReads_keeps (checkCapacity_keeps (placeMarker_keeps
        (Keeps.foldl (fun h => State.setSeg_keeps (emptySegment_keeps h)) h)))))
theorem segSetFlags_keeps {d} (h : Keeps s t) : Keeps s (segSetFlags d t) := by
  refine command_keeps (fun h => Keeps.ite (finish_keeps h) ?_) h
  dsimp only
  split
  · exact finish_keeps h
  · exact untilDurable_keeps (Keeps.foldl (fun h => dueSegment_keeps h) (placeRuns_keeps (Keeps.foldl
        (fun h => State.setSeg_keeps h) h)))
theorem segLoadBegin_keeps {d} (h : Keeps s t) : Keeps s (segLoadBegin d t) :=
  command_keeps (fun h => Keeps.ite (finish_keeps h) (Keeps.ite (finish_keeps h) (Keeps.ite (Keeps.ite (finish_keeps h)
      (finish_keeps (State.setSeg_keeps h))) (Keeps.ite (finish_keeps h) (Keeps.ite (finish_keeps h) (untilDurable_keeps
      (dueSegment_keeps (placeMarker_keeps (serveReads_keeps (State.setSeg_keeps (emptySegment_keeps h))))))))))) h
theorem segLoad_keeps {d given bad} (h : Keeps s t) : Keeps s (segLoad d given bad t) := by
  refine command_keeps (fun h => ?_) h
  refine Keeps.ite (finish_keeps h) (Keeps.ite (finish_keeps h) (Keeps.ite (finish_keeps h) (Keeps.ite (finish_keeps h) ?_)))
  split <;> rename_i heq
  · exact running_keeps (heq ▸ takeWrite_keeps h : (Taken.accepted _).Keeps s)
  · exact finish_keeps (refuseMgmt_keeps h)
  · exact h
  · exact finish_keeps (heq ▸ takeWrite_keeps h : (Taken.dropped _).Keeps s)
theorem segSeal_keeps {d} (h : Keeps s t) : Keeps s (segSeal d t) :=
  command_keeps (fun h => Keeps.ite (finish_keeps h) (Keeps.ite (finish_keeps h) (Keeps.ite (finish_keeps h) (Keeps.ite
      (finish_keeps h) (Keeps.ite (finish_keeps (Keeps.ite (poisonUsed_keeps h) h)) (running_keeps (placeSealRecords_keeps
      (State.setSeg_keeps (Keeps.ite (poisonUsed_keeps h) h))))))))) h
theorem segShadowSet_keeps {d} (h : Keeps s t) : Keeps s (segShadowSet d t) :=
  command_keeps (fun h => Keeps.ite (finish_keeps h) (Keeps.ite (finish_keeps h) (storing_keeps h))) h
theorem winSet_keeps {d} (h : Keeps s t) : Keeps s (winSet d t) :=
  command_keeps (fun h => Keeps.ite (finish_keeps h.update) (narrowNow_keeps (finish_keeps h.update))) h
theorem winQuery_keeps {d} (h : Keeps s t) : Keeps s (winQuery d t) :=
  command_keeps (fun h => finish_keeps h) h
/-! ### The weir -/
theorem noteBank_keeps (h : Keeps s t) : Keeps s (noteBank t) :=
  Keeps.ite (State.raise_keeps (State.onWeir_keeps h)) (State.onWeir_keeps h)
theorem takeBusy_keeps (h : Keeps s t) : Keeps s (takeBusy t) :=
  h.update
theorem weirRecompute_keeps (h : Keeps s t) : Keeps s (weirRecompute t) :=
  settleWeir_keeps (noteBank_keeps (State.onWeir_keeps (takeBusy_keeps (takeRates_keeps h))))
theorem softBucketRefill_keeps {us} (h : Keeps s t) : Keeps s (softBucketRefill us t) :=
  State.onWeir_keeps h
theorem cleanBucketRefill_keeps {us} (h : Keeps s t) : Keeps s (cleanBucketRefill us t) :=
  State.onWeir_keeps h
theorem weirLedgerRecord_keeps (h : Keeps s t) : Keeps s (weirLedgerRecord t) :=
  ldgEnqueue_keeps (State.onWeir_keeps h)
theorem weirDryHold_keeps (h : Keeps s t) : Keeps s (weirDryHold t) := by
  dsimp only [weirDryHold]
  split
  · exact Keeps.ite h (State.raise_keeps (State.onWeir_keeps h))
  · exact h
theorem weirQuery_keeps {d} (h : Keeps s t) : Keeps s (weirQuery d t) :=
  command_keeps (fun h => finish_keeps h) h
theorem weirConfig_keeps {d} (h : Keeps s t) : Keeps s (weirConfig d t) :=
  command_keeps (fun h => storing_keeps h) h
theorem weirCalibrate_keeps {d} (h : Keeps s t) : Keeps s (weirCalibrate d t) :=
  command_keeps (fun h => Keeps.ite (finish_keeps h) (storing_keeps h)) h
theorem weirDebtClear_keeps {d} (h : Keeps s t) : Keeps s (weirDebtClear d t) :=
  command_keeps (fun h => storing_keeps h) h
/-! ### The mirror -/
theorem helloSend_keeps (h : Keeps s t) : Keeps s (helloSend t) :=
  sendMir_keeps h
theorem allPeers_keeps {m} (h : Keeps s t) : Keeps s (allPeers m t) :=
  sendTo_keeps h
theorem toRole_keeps {r cause} (h : Keeps s t) : Keeps s (toRole r cause t) :=
  Keeps.ite h (State.raise_keeps (onMir_keeps h))
theorem takeRole_keeps {r cause pseq} (h : Keeps s t) : Keeps s (takeRole r cause pseq t) := by
  dsimp only [takeRole]
  split
  · exact h
  · split
    · exact abortPasses_keeps (onMir_keeps (toRole_keeps (onMir_keeps h)))
    · exact onMir_keeps (toRole_keeps (onMir_keeps h))
    · exact toRole_keeps (onMir_keeps h)
theorem goSolo_keeps {cause} (h : Keeps s t) : Keeps s (goSolo cause t) :=
  allPeers_keeps (takeRole_keeps h)
theorem refused_keeps {r m} (h : Keeps s t) : Keeps s (refused r m t) :=
  Keeps.ite (allPeers_keeps h) (State.raise_keeps (onMir_keeps (allPeers_keeps h)))
theorem settleRole_keeps {m} (h : Keeps s t) : Keeps s (settleRole m t) := by
  dsimp only [settleRole]
  split
  · exact refused_keeps h
  · split
    · exact h
    · split
      · split
        · exact takeRole_keeps h
        · exact h
      · split
        · exact Keeps.ite h (State.raise_keeps (onMir_keeps h))
        · exact allPeers_keeps (takeRole_keeps (onMir_keeps h))
theorem hearHello_keeps {m} (h : Keeps s t) : Keeps s (hearHello m t) := by
  unfold hearHello
  extract_lets isNew s1 s2
  have hs2 : Keeps s s2 := Keeps.ite (State.raise_keeps (onMir_keeps h)) (onMir_keeps h)
  clear_value s2
  split
  · exact Keeps.ite (wake_keeps (onMir_keeps hs2)) hs2
  · split
    · exact settleRole_keeps hs2
    · exact Keeps.ite (settleRole_keeps (goSolo_keeps hs2)) (Keeps.ite (resync_keeps hs2) hs2)
    · exact Keeps.ite (settleRole_keeps (goSolo_keeps hs2)) hs2
theorem readPacket_keeps {t'} (h : Keeps s t) : Keeps s (readPacket t' t) :=
  onPkt_keeps ((Keeps.foldl (fun h => buildSegment_keeps h) h).update)
theorem readBegun_keeps {n} (h : Keeps s t) : Keeps s (readBegun n t) := by
  induction n generalizing t with
  | zero => exact h
  | succ n ih =>
    dsimp only [readBegun]
    split
    · exact Keeps.ite (ih (pumpMir_keeps (readPacket_keeps h))) h
    · exact h
theorem beginNext_keeps (h : Keeps s t) : Keeps s (beginNext t) := by
  dsimp only [beginNext]
  split
  · exact readBegun_keeps h
  · split
    · exact readBegun_keeps h
    · exact onMir_keeps (readBegun_keeps h)
    · exact readBegun_keeps (onMir_keeps (readBegun_keeps h))
theorem latestPacketDue_keeps (h : Keeps s t) : Keeps s (latestPacketDue t) :=
  Keeps.ite h (onMir_keeps (duePacket_keeps h))
theorem finishHandOver_keeps (h : Keeps s t) : Keeps s (finishHandOver t) :=
  Keeps.ite h (Keeps.ite (latestPacketDue_keeps h) (abortPasses_keeps (onMir_keeps (toRole_keeps (onMir_keeps
      (sendMir_keeps h))))))
theorem helloFrame_keeps {p h' m} (h : Keeps s t) : Keeps s (helloFrame p h' m t) :=
  onFrame_keeps (fun h => finishHandOver_keeps (hearHello_keeps h)) h
theorem packetBegin_keeps (h : Keeps s t) : Keeps s (packetBegin t) :=
  Keeps.ite h (finishHandOver_keeps (beginNext_keeps h))
theorem noteSynced_keeps {ctx} (h : Keeps s t) : Keeps s (noteSynced ctx t) :=
  Keeps.ite (State.raise_keeps (onMir_keeps (Keeps.ite (State.raise_keeps (onMir_keeps h)) (onMir_keeps h)))) (Keeps.ite
      (State.raise_keeps (onMir_keeps h)) (onMir_keeps h))
theorem takeAckFrame_keeps {applied} (h : Keeps s t) : Keeps s (takeAckFrame applied t) :=
  Keeps.ite h (Keeps.foldl (fun h => Keeps.ite (noteSynced_keeps h) h) (onMir_keeps h))
theorem ackFrame_keeps {p h' applied synced} (h : Keeps s t) : Keeps s (ackFrame p h' applied synced t) :=
  onFrame_keeps (fun h => settleWeir_keeps (finishHandOver_keeps (takeAckFrame_keeps h))) h
theorem setRx_keeps {p} (h : Keeps s t) : Keeps s (setRx p t) :=
  onMir_keeps h
theorem admitRxOf_keeps {ports} (h : Keeps s t) : Keeps s (admitRxOf ports t) :=
  Keeps.foldl (fun h => Keeps.foldl (fun h => Keeps.ite (requestWrite_keeps (setRx_keeps (State.poolFree_keeps h))) h) h) h
theorem admitRx_keeps (h : Keeps s t) : Keeps s (admitRx t) :=
  admitRxOf_keeps h
theorem sendApply_keeps {c} (h : Keeps s t) : Keeps s (sendApply c t) :=
  Keeps.ite h (sendTo_keeps (onMir_keeps h))
theorem noteHave_keeps {j c e} (h : Keeps s t) : Keeps s (noteHave j c e t) :=
  Keeps.ite (sendApply_keeps (onMir_keeps h)) (onMir_keeps h)
theorem reportHave_keeps {pseq} (h : Keeps s t) : Keeps s (reportHave pseq t) := by
  dsimp only [reportHave]
  split
  · exact Keeps.ite (Keeps.ite (noteHave_keeps h) (sendTo_keeps h)) h
  · exact h
theorem takeLines_keeps {fp pseq fidx es} (h : Keeps s t) : Keeps s (takeLines fp pseq fidx es t) :=
  Keeps.ite h (reportHave_keeps (admitRx_keeps (setRx_keeps h)))
theorem linesFrame_keeps {p h' pseq fidx es} (h : Keeps s t) : Keeps s (linesFrame p h' pseq fidx es t) :=
  onFrame_keeps (fun h => settleWeir_keeps (takeLines_keeps h)) h
theorem takeEpochEnd_keeps {e} (h : Keeps s t) : Keeps s (takeEpochEnd e t) :=
  Keeps.ite h (reportHave_keeps (setRx_keeps h))
theorem epochEndFrame_keeps {p h' e} (h : Keeps s t) : Keeps s (epochEndFrame p h' e t) :=
  onFrame_keeps (fun h => takeEpochEnd_keeps h) h
theorem takeRestart_keeps {p pseq reread} (h : Keeps s t) : Keeps s (takeRestart p pseq reread t) :=
  Keeps.ite h (Keeps.ite (onMir_keeps h) (onMir_keeps h))
theorem restartFrame_keeps {p h' pseq reread} (h : Keeps s t) : Keeps s (restartFrame p h' pseq reread t) :=
  onFrame_keeps (fun h => settleWeir_keeps (takeRestart_keeps h)) h
theorem storeEntry_keeps {e} (h : Keeps s t) : Keeps s (storeEntry e t) := by
  dsimp only [storeEntry]
  split
  · exact h
  · split
    · exact onSlu_keeps (State.freeShadow_keeps (State.setHome_keeps (State.setLine_keeps ((buildSegment_keeps h).updateRet))))
    · exact onSlu_keeps (State.freeShadow_keeps (State.setHome_keeps (State.setLine_keeps ((buildSegment_keeps h).updateRet))))
    · exact onSlu_keeps (State.freeShadow_keeps (State.setHome_keeps (State.setLine_keeps ((buildSegment_keeps h).updateRet))))
    · exact buildSegment_keeps h
theorem takeRecord_keeps {c r} (h : Keeps s t) : Keeps s (takeRecord c r t) :=
  toMode_keeps (State.onCtx_keeps h)
theorem captureEntries_keeps {c epoch es} (h : Keeps s t) : Keeps s (captureEntries c epoch es t) :=
  Keeps.foldl (fun h => Keeps.foldl (fun h => by
    split
    · exact Keeps.ite (onTrib_keeps h) h
    · exact h) h) h
theorem sealHere_keeps {pseq g e} (h : Keeps s t) : Keeps s (sealHere pseq g e t) :=
  onMir_keeps (placeSealRecords_keeps (State.setSeg_keeps h))
theorem applySegments_keeps {pseq first count e es} (h : Keeps s t) : Keeps s (applySegments pseq first count e es t) :=
  Keeps.ite (sealHere_keeps (Keeps.foldl (fun h => storeEntry_keeps h) (State.setSeg_keeps h))) (Keeps.ite (placeRuns_keeps
      (Keeps.foldl (fun h => State.setSeg_keeps h) h)) (serveReads_keeps (checkCapacity_keeps (placeMarker_keeps (Keeps.foldl
      (fun h => State.setSeg_keeps (emptySegment_keeps h)) h)))))
theorem applyTable_keeps {es} (h : Keeps s t) : Keeps s (applyTable es t) :=
  serveReads_keeps (checkCapacity_keeps (onMir_keeps (Keeps.foldl (fun h => placeMarker_keeps (Keeps.foldl
      (fun h => State.setSeg_keeps (emptySegment_keeps h)) h)) h)))
theorem applyPacket_keeps {p e} (h : Keeps s t) : Keeps s (applyPacket p e t) := by
  dsimp only [applyPacket]
  split
  · exact noteSynced_keeps (by
    split
    · exact captureEntries_keeps (takeRecord_keeps (Keeps.foldl (fun h => storeEntry_keeps h) (onMir_keeps h)))
    · exact takeRecord_keeps (Keeps.foldl (fun h => storeEntry_keeps h) (onMir_keeps h))
    · exact takeRecord_keeps (Keeps.foldl (fun h => storeEntry_keeps h) (onMir_keeps h))
    · exact applySegments_keeps (onMir_keeps h)
    · exact applyTable_keeps (onMir_keeps h)
    · exact Keeps.foldl (fun h => storeEntry_keeps h) (onMir_keeps h))
  · split
    · exact captureEntries_keeps (takeRecord_keeps (Keeps.foldl (fun h => storeEntry_keeps h) (onMir_keeps h)))
    · exact takeRecord_keeps (Keeps.foldl (fun h => storeEntry_keeps h) (onMir_keeps h))
    · exact takeRecord_keeps (Keeps.foldl (fun h => storeEntry_keeps h) (onMir_keeps h))
    · exact applySegments_keeps (onMir_keeps h)
    · exact applyTable_keeps (onMir_keeps h)
    · exact Keeps.foldl (fun h => storeEntry_keeps h) (onMir_keeps h)
theorem packetApply_keeps (h : Keeps s t) : Keeps s (packetApply t) := by
  dsimp only [packetApply]
  split
  · exact h
  · split
    · exact h
    · exact sendMir_keeps (applyPacket_keeps h)
theorem applyAll_keeps {n} (h : Keeps s t) : Keeps s (applyAll n t) := by
  induction n generalizing t with
  | zero => exact h
  | succ n ih =>
    dsimp only [applyAll]
    split
    · exact ih (applyPacket_keeps h)
    · exact h
theorem switchContext_keeps {c} (h : Keeps s t) : Keeps s (switchContext c t) :=
  resyncAll_keeps (onScanCtx_keeps (State.onCtx_keeps (Keeps.ite (Keeps.ite h (toMode_keeps h)) (Keeps.ite
      (State.onCtx_keeps h) (abandonNow_keeps h)))))
theorem switchover_keeps {trigger tell} (h : Keeps s t) : Keeps s (switchover trigger tell t) :=
  ldgEnqueue_keeps (State.raise_keeps (Keeps.ite (Keeps.foldl (fun h => switchContext_keeps h) (toRole_keeps (onMir_keeps
      (applyAll_keeps (Keeps.ite (allPeers_keeps h) h))))) (onMir_keeps (Keeps.foldl (fun h => switchContext_keeps h)
      (toRole_keeps (onMir_keeps (applyAll_keeps (Keeps.ite (allPeers_keeps h) h))))))))
theorem onStandby_keeps {f} (hf0 : ∀ {u}, Keeps s u → Keeps s (f u)) (h : Keeps s t) : Keeps s (onStandby f t) :=
  Keeps.ite (settleWeir_keeps (hf0 h)) h
theorem handover_keeps {p h' last} (h : Keeps s t) : Keeps s (handover p h' last t) :=
  onFrame_keeps (fun h => onStandby_keeps (fun h => switchover_keeps h) h) h
theorem dying_keeps {p h' last cause} (h : Keeps s t) : Keeps s (dying p h' last cause t) :=
  onFrame_keeps (fun h => onStandby_keeps (fun h => switchover_keeps h) h) h
theorem partnerLost_keeps (h : Keeps s t) : Keeps s (partnerLost t) := by
  dsimp only [partnerLost]
  split
  · exact h
  · exact State.raise_keeps (onMir_keeps h)
theorem wasStandby_keeps {s'} (h : Keeps s t) : Keeps s (wasStandby s' t) := onMir_keeps h
theorem mirDeadTimeout_keeps (h : Keeps s t) : Keeps s (mirDeadTimeout t) := by
  dsimp only [mirDeadTimeout]
  split
  · exact h
  · split
    · exact partnerLost_keeps h
    · exact goSolo_keeps (partnerLost_keeps h)
    · exact Keeps.ite (switchover_keeps (partnerLost_keeps h)) (wasStandby_keeps (goSolo_keeps (partnerLost_keeps h)))
theorem flushDue_keeps {n} (h : Keeps s t) : Keeps s (flushDue n t) := by
  induction n generalizing t with
  | zero => exact h
  | succ n ih => exact Keeps.ite h (ih (beginNext_keeps h))
theorem handOver_keeps (h : Keeps s t) : Keeps s (handOver t) :=
  finishHandOver_keeps (flushDue_keeps (latestPacketDue_keeps (onMir_keeps (Keeps.foldl (fun h => Keeps.ite
      (abandonNow_keeps h) h) h))))
theorem askHandOver_keeps {byFrame} (h : Keeps s t) : Keeps s (askHandOver byFrame t) :=
  Keeps.ite (onMir_keeps h) (handOver_keeps h)
theorem mirConfig_keeps {d} (h : Keeps s t) : Keeps s (mirConfig d t) :=
  command_keeps (fun h => Keeps.ite (finish_keeps h) (storing_keeps h)) h
theorem mirQuery_keeps {d} (h : Keeps s t) : Keeps s (mirQuery d t) :=
  command_keeps (fun h => finish_keeps h) h
theorem mirSwitch_keeps {d} (h : Keeps s t) : Keeps s (mirSwitch d t) :=
  command_keeps (fun h => Keeps.ite (Keeps.ite (finish_keeps (switchover_keeps h)) (finish_keeps h)) (Keeps.ite
      (finish_keeps h) (Keeps.ite (finish_keeps h) (Keeps.ite (askHandOver_keeps h) (running_keeps (handOver_keeps
      (allPeers_keeps h))))))) h
theorem mirSwitchTimeout_keeps (h : Keeps s t) : Keeps s (mirSwitchTimeout t) :=
  Keeps.ite h (wake_keeps (onMir_keeps (Keeps.ite (wasStandby_keeps (goSolo_keeps h)) (goSolo_keeps h))))
theorem mirResync_keeps {d} (h : Keeps s t) : Keeps s (mirResync d t) :=
  command_keeps (fun h => Keeps.ite (finish_keeps h) (Keeps.ite (finish_keeps h) (finish_keeps (resync_keeps h)))) h
theorem restart_keeps {ts} (h : Keeps s t) : Keeps s (restart ts t) :=
  readBegun_keeps (Keeps.foldl (fun h => onPkt_keeps (sendMir_keeps h)) h)
theorem mirPortDown_keeps {p link} (h : Keeps s t) : Keeps s (mirPortDown p link t) :=
  Keeps.ite (restart_keeps (State.raise_keeps (onMir_keeps (linkClear_keeps h)))) (State.raise_keeps (onMir_keeps
      (linkClear_keeps h)))
theorem mirPortUp_keeps {p} (h : Keeps s t) : Keeps s (mirPortUp p t) :=
  Keeps.ite (Keeps.ite (restart_keeps (State.raise_keeps (onLink_keeps h))) (pumpMir_keeps (State.raise_keeps
      (onLink_keeps h)))) (pumpMir_keeps (pump_keeps (Keeps.foldl (fun h => emitFrame_keeps h) (State.raise_keeps
      (onLink_keeps h)))))
theorem mirLinkRetrain_keeps {l} (h : Keeps s t) : Keeps s (mirLinkRetrain l t) :=
  Keeps.ite (onLink_keeps h) h
/-! ### Confluence -/
theorem joinSend_keeps (h : Keeps s t) : Keeps s (joinSend t) :=
  Keeps.ite h (Keeps.foldl (fun h => sendOn_keeps h) (onConf_keeps h))
theorem drawOwners_keeps (h : Keeps s t) : Keeps s (drawOwners t) :=
  onConf_keeps (State.draw_keeps h)
theorem takeMembers_keeps {m} (h : Keeps s t) : Keeps s (takeMembers m t) :=
  Keeps.ite h (State.raise_keeps (drawOwners_keeps (onConf_keeps (h.updateBoot rfl))))
theorem tryForm_keeps (h : Keeps s t) : Keeps s (tryForm t) :=
  Keeps.ite h (Keeps.ite (State.draw_keeps h) (takeMembers_keeps (Keeps.foldl (fun h => sendOn_keeps h) (State.draw_keeps h))))
theorem holdFrame_keeps {p h' m} (h : Keeps s t) : Keeps s (holdFrame p h' m t) :=
  onLink_keeps (takeAck_keeps h)
theorem confFrame_keeps {p h' m au f} (hf4 : ∀ {u}, Keeps s u → Keeps s (f u)) (h : Keeps s t) : Keeps s
    (confFrame p h' m au f t) :=
  Keeps.ite (holdFrame_keeps h) (onFrame_keeps (fun h => hf4 h) h)
theorem onConfFrame_keeps {p h' m au f} (hf4 : ∀ {u}, Keeps s u → Keeps s (f u)) (h : Keeps s t) : Keeps s
    (onConfFrame p h' m au f t) :=
  confFrame_keeps (fun h => Keeps.ite (hf4 h) h) h
theorem fromMember_keeps {p f} (hf1 : ∀ {u}, Keeps s u → Keeps s (f u)) (h : Keeps s t) : Keeps s (fromMember p f t) :=
  Keeps.ite (hf1 h) h
theorem takeJoin_keeps {p j} (h : Keeps s t) : Keeps s (takeJoin p j t) :=
  Keeps.ite h (tryForm_keeps (onConf_keeps h))
theorem joinFrame_keeps {p h' j} (h : Keeps s t) : Keeps s (joinFrame p h' j t) :=
  onConfFrame_keeps (fun h => takeJoin_keeps h) h
theorem formedFrame_keeps {p h' m} (h : Keeps s t) : Keeps s (formedFrame p h' m t) :=
  onConfFrame_keeps (fun h => Keeps.ite (takeMembers_keeps h) h) h
theorem confFormTimeout_keeps (h : Keeps s t) : Keeps s (confFormTimeout t) :=
  Keeps.ite h (State.raise_keeps (onConf_keeps (State.draw_keeps h)))
theorem confFormRetry_keeps (h : Keeps s t) : Keeps s (confFormRetry t) :=
  Keeps.ite h (onConf_keeps h)
theorem countDropped_keeps (h : Keeps s t) : Keeps s (countDropped t) :=
  onMir_keeps h
theorem offerWr_keeps {p addr data poisoned} (h : Keeps s t) (hoffer : offerWr p addr data poisoned t = some u) : Keeps s u :=
    by
  dsimp only [offerWr] at hoffer
  split at hoffer
  · exact Option.some.inj hoffer ▸ h
  · split at hoffer
    · exact Option.some.inj hoffer ▸ countDropped_keeps h
    · split at hoffer
      · exact Option.some.inj hoffer ▸ holdWrite_keeps h
      · split at hoffer <;> rename_i heq
        · exact Option.some.inj hoffer ▸ settleWeir_keeps (heq ▸ takeWrite_keeps h : (Taken.accepted _).Keeps s)
        · exact Option.some.inj hoffer ▸ (heq ▸ takeWrite_keeps h : (Taken.dropped _).Keeps s)
        · cases hoffer
        · exact Option.some.inj hoffer ▸ holdWrite_keeps h
theorem offerWr_getD_keeps {p addr data poisoned} (h : Keeps s t) : Keeps s ((offerWr p addr data poisoned t).getD t) := by
  cases hoffer : offerWr p addr data poisoned t with
  | none => exact h
  | some u => exact offerWr_keeps h hoffer
theorem wr_keeps {p m addr bytes poison mgmt} (h : Keeps s t) : Keeps s (wr p m addr bytes poison mgmt t) :=
  Keeps.ite (holdFrame_keeps h) (onConfFrame_keeps (fun h => fromMember_keeps (fun h => offerWr_getD_keeps h) h) h)
theorem takeRdReq_keeps {p tag lines addr} (h : Keeps s t) : Keeps s (takeRdReq p tag lines addr t) :=
  Keeps.ite (takeRead_keeps h) (sendOn_keeps h)
theorem rdReq_keeps {p h' tag lines addr} (h : Keeps s t) : Keeps s (rdReq p h' tag lines addr t) :=
  onConfFrame_keeps (fun h => fromMember_keeps (fun h => takeRdReq_keeps h) h) h
theorem abortRemote_keeps {r} (h : Keeps s t) : Keeps s (abortRemote r t) := by
  dsimp only [abortRemote]
  split
  · exact gaveCa_keeps h
  · exact h
theorem endRemote_keeps {r} (h : Keeps s t) : Keeps s (endRemote r t) := by
  dsimp only [endRemote]
  split
  · exact Keeps.ite (poisonUsedAt_keeps (Keeps.foldl (fun h => State.emit_keeps h) (onConf_keeps h))) (Keeps.foldl
        (fun h => State.emit_keeps h) (onConf_keeps h))
  · exact State.emit_keeps (onConf_keeps h)
theorem takeCpl_keeps {tag idx abort es} (h : Keeps s t) : Keeps s (takeCpl tag idx abort es t) := by
  dsimp only [takeCpl]
  split
  · exact h
  · exact Keeps.ite (abortRemote_keeps (onConf_keeps h)) (Keeps.ite (endRemote_keeps h) (onConf_keeps h))
theorem rdCpl_keeps {p h' tag idx abort es} (h : Keeps s t) : Keeps s (rdCpl p h' tag idx abort es t) :=
  onConfFrame_keeps (fun h => fromMember_keeps (fun h => takeCpl_keeps h) h) h
theorem setPrep_keeps {c f} (h : Keeps s t) : Keeps s (setPrep c f t) :=
  onConf_keeps h
theorem takeDeferred_keeps {c} (h : Keeps s t) : Keeps s (takeDeferred c t) :=
  Keeps.ite (deferredCloseTaken_keeps (forceAging_keeps h)) h
theorem takePrepare_keeps {c e} (h : Keeps s t) : Keeps s (takePrepare c e t) :=
  Keeps.ite (Keeps.ite (takeDeferred_keeps h) h) (tellPrepared_keeps (setPrep_keeps (Keeps.ite (takeDeferred_keeps h) h)))
theorem prepare_keeps {p h' c e} (h : Keeps s t) : Keeps s (prepare p h' c e t) :=
  onConfFrame_keeps (fun h => fromMember_keeps (fun h => takePrepare_keeps h) h) h
theorem closeSpanning_keeps {c} (h : Keeps s t) : Keeps s (closeSpanning c t) := by
  dsimp only [closeSpanning]
  split
  · exact askAbandon_keeps (sendTo_keeps (sendTo_keeps (closeNow_keeps (onConf_keeps (setPrep_keeps h)))))
  · exact sendTo_keeps (sendTo_keeps (closeNow_keeps (onConf_keeps (setPrep_keeps h))))
theorem takePrepared_keeps {j c e} (h : Keeps s t) : Keeps s (takePrepared j c e t) :=
  Keeps.ite h (Keeps.ite (closeSpanning_keeps (setPrep_keeps h)) (setPrep_keeps h))
theorem prepared_keeps {p h' c e} (h : Keeps s t) : Keeps s (prepared p h' c e t) :=
  onConfFrame_keeps (fun h => fromMember_keeps (fun h => settleWeir_keeps (takePrepared_keeps h)) h) h
theorem deferMember_keeps {c k} (h : Keeps s t) : Keeps s (deferMember c k t) :=
  State.onCtx_keeps h
theorem memberClose_keeps {c e} (h : Keeps s t) : Keeps s (memberClose c e t) :=
  Keeps.ite (Keeps.ite (takeDeferred_keeps h) h) (Keeps.ite (deferMember_keeps (Keeps.ite (takeDeferred_keeps h) h))
      (closeNow_keeps (setPrep_keeps (Keeps.ite (takeDeferred_keeps h) h))))
theorem resolved_keeps {c} (h : Keeps s t) : Keeps s (resolved c t) :=
  Keeps.ite (abandonNow_keeps (forceAging_keeps (onConf_keeps h))) h
theorem memberAbandon_keeps {c cause e} (h : Keeps s t) : Keeps s (memberAbandon c cause e t) :=
  Keeps.ite (Keeps.ite (takeDeferred_keeps h) h) (Keeps.ite (resolved_keeps (setPrep_keeps (Keeps.ite
      (takeDeferred_keeps h) h))) (Keeps.ite (deferMember_keeps (setPrep_keeps (Keeps.ite (takeDeferred_keeps h) h)))
      (abandonNow_keeps (setPrep_keeps (Keeps.ite (takeDeferred_keeps h) h)))))
theorem takeCommit_keeps {c e} (h : Keeps s t) : Keeps s (takeCommit c e t) :=
  Keeps.ite (resolved_keeps (memberClose_keeps (Keeps.ite (forceAging_keeps h) h))) h
theorem commit_keeps {p h' c e} (h : Keeps s t) : Keeps s (commit p h' c e t) :=
  confFrame_keeps (fun h => fromMember_keeps (fun h => settleWeir_keeps (takeCommit_keeps h)) h) h
theorem abandon_keeps {p h' c cause e} (h : Keeps s t) : Keeps s (abandon p h' c cause e t) :=
  confFrame_keeps (fun h => fromMember_keeps (fun h => settleWeir_keeps (memberAbandon_keeps h)) h) h
theorem takeResolve_keeps {es} (h : Keeps s t) : Keeps s (takeResolve es t) :=
  Keeps.foldl (fun h => Keeps.ite h (Keeps.ite (resolved_keeps (memberClose_keeps (forceAging_keeps h))) (Keeps.ite
      (resolved_keeps (setPrep_keeps h)) h))) h
theorem resolveFrame_keeps {p h' es} (h : Keeps s t) : Keeps s (resolveFrame p h' es t) :=
  confFrame_keeps (fun h => fromMember_keeps (fun h => settleWeir_keeps (takeResolve_keeps h)) h) h
theorem resolveTimeout_keeps (h : Keeps s t) : Keeps s (resolveTimeout t) :=
  Keeps.foldl (fun h => Keeps.ite (resolved_keeps (setPrep_keeps h)) h) h
theorem takeCtxsync_keeps {c r} (h : Keeps s t) : Keeps s (takeCtxsync c r t) :=
  Keeps.ite h (dueContext_keeps (drawOwners_keeps (toMode_keeps (State.onCtx_keeps h))))
theorem ctxsync_keeps {p h' c r} (h : Keeps s t) : Keeps s (ctxsync p h' c r t) :=
  onConfFrame_keeps (fun h => fromMember_keeps (fun h => takeCtxsync_keeps h) h) h
theorem cutLink_keeps {j} (h : Keeps s t) : Keeps s (cutLink j t) := by
  dsimp only [cutLink]
  split
  · exact h
  · exact onConf_keeps (linkClear_keeps (Keeps.foldl (fun h => Keeps.ite (abortRemote_keeps h) h) (dropReads_keeps
        ((Keeps.foldl (fun h => dropPiece_keeps h) h).updateRet))))
theorem declareLost_keeps {j} (h : Keeps s t) : Keeps s (declareLost j t) :=
  Keeps.ite h (State.raise_keeps (cutLink_keeps (Keeps.foldl (fun h => State.onCtx_keeps (askAbandon_keeps (setPrep_keeps h)))
      (onConf_keeps h))))
theorem peerLost_keeps {j} (h : Keeps s t) : Keeps s (peerLost j t) :=
  Keeps.ite h (sendTo_keeps (declareLost_keeps h))
theorem takeLost_keeps {j} (h : Keeps s t) : Keeps s (takeLost j t) :=
  Keeps.ite (Keeps.foldl (fun h => declareLost_keeps h) h) (declareLost_keeps h)
theorem lostFrame_keeps {p h' j} (h : Keeps s t) : Keeps s (lostFrame p h' j t) :=
  onConfFrame_keeps (fun h => fromMember_keeps (fun h => settleWeir_keeps (takeLost_keeps h)) h) h
theorem linkTrained_keeps {l ok} (h : Keeps s t) : Keeps s (linkTrained l ok t) := by
  dsimp only [linkTrained]
  split
  · exact h
  · split
    · split
      · exact mirPortUp_keeps h
      · exact pump_keeps (Keeps.foldl (fun h => emitFrame_keeps h) (onLink_keeps h))
    · split
      · exact onLink_keeps h
      · split
        · exact mirPortDown_keeps (onLink_keeps h)
        · exact Keeps.ite (settleWeir_keeps (peerLost_keeps (onLink_keeps h))) (linkClear_keeps (onLink_keeps h))
theorem elasticLimit_keeps {p} (h : Keeps s t) : Keeps s (elasticLimit p t) :=
  Keeps.ite (retrain_keeps h) h
theorem confLinkIdle_keeps {p} (h : Keeps s t) : Keeps s (confLinkIdle p t) :=
  Keeps.ite (emitAck_keeps h) h
theorem splitCtx_keeps {c e} (h : Keeps s t) : Keeps s (splitCtx c e t) :=
  Keeps.ite h (State.raise_keeps (toMode_keeps (State.onCtx_keeps (onConf_keeps h))))
theorem comparePeer_keeps {es} (h : Keeps s t) : Keeps s (comparePeer es t) := by
  refine Keeps.foldl (fun h => ?_) h
  dsimp only
  split
  · exact h
  · split
    · exact Keeps.ite h (splitCtx_keeps h)
    · exact splitCtx_keeps h
theorem takeEpochs_keeps {j es} (h : Keeps s t) : Keeps s (takeEpochs j es t) :=
  Keeps.ite (comparePeer_keeps h) (onConf_keeps h)
theorem epochsFrame_keeps {p h' es} (h : Keeps s t) : Keeps s (epochsFrame p h' es t) :=
  onConfFrame_keeps (fun h => fromMember_keeps (fun h => takeEpochs_keeps h) h) h
theorem sendEpochs_keeps (h : Keeps s t) : Keeps s (sendEpochs t) :=
  Keeps.ite h (Keeps.foldl (fun h => Keeps.ite h (comparePeer_keeps h)) (Keeps.ite (Keeps.foldl (fun h => splitCtx_keeps h)
      (onConf_keeps (sendTo_keeps h))) (onConf_keeps (sendTo_keeps h))))
theorem takeRoleFrame_keeps {j r cause} (h : Keeps s t) : Keeps s (takeRoleFrame j r cause t) := by
  dsimp only [takeRoleFrame]
  split
  · exact Keeps.ite (wasStandby_keeps (takeRole_keeps (onMir_keeps h))) (takeRole_keeps (onMir_keeps h))
  · split
    · exact h
    · split
      · exact onMir_keeps h
      · split
        · exact refused_keeps (onMir_keeps h)
        · exact Keeps.ite (takeRole_keeps (onMir_keeps h)) (onMir_keeps h)
theorem roleFrame_keeps {p h' r cause} (h : Keeps s t) : Keeps s (roleFrame p h' r cause t) :=
  onConfFrame_keeps (fun h => fromMember_keeps (fun h => settleWeir_keeps (takeRoleFrame_keeps h)) h) h
theorem takeApply_keeps {c e} (h : Keeps s t) : Keeps s (takeApply c e t) :=
  onMir_keeps h
theorem applyEpoch_keeps {p h' c e} (h : Keeps s t) : Keeps s (applyEpoch p h' c e t) :=
  onConfFrame_keeps (fun h => fromMember_keeps (fun h => takeApply_keeps h) h) h
theorem haveEpoch_keeps {p h' c e} (h : Keeps s t) : Keeps s (haveEpoch p h' c e t) :=
  onConfFrame_keeps (fun h => fromMember_keeps (fun h => noteHave_keeps h) h) h
theorem takeSwitch_keeps {trigger} (h : Keeps s t) : Keeps s (takeSwitch trigger t) := by
  dsimp only [takeSwitch]
  split
  · exact switchover_keeps h
  · exact Keeps.ite (askHandOver_keeps h) h
  · exact Keeps.ite (switchover_keeps h) h
theorem switchFrame_keeps {p h' trigger} (h : Keeps s t) : Keeps s (switchFrame p h' trigger t) :=
  onConfFrame_keeps (fun h => fromMember_keeps (fun h => settleWeir_keeps (takeSwitch_keeps h)) h) h
theorem confAct_keeps {p m} (h : Keeps s t) : Keeps s (confAct p m t) := by
  dsimp only [confAct]
  split
  · exact takeJoin_keeps h
  · exact Keeps.ite (takeMembers_keeps h) h
  · exact fromMember_keeps (fun h => offerWr_getD_keeps h) h
  · exact fromMember_keeps (fun h => takeRdReq_keeps h) h
  · exact fromMember_keeps (fun h => takeCpl_keeps h) h
  · exact fromMember_keeps (fun h => takePrepare_keeps h) h
  · exact fromMember_keeps (fun h => settleWeir_keeps (takePrepared_keeps h)) h
  · exact fromMember_keeps (fun h => settleWeir_keeps (takeCommit_keeps h)) h
  · exact fromMember_keeps (fun h => settleWeir_keeps (memberAbandon_keeps h)) h
  · exact fromMember_keeps (fun h => settleWeir_keeps (takeResolve_keeps h)) h
  · exact fromMember_keeps (fun h => takeCtxsync_keeps h) h
  · exact fromMember_keeps (fun h => settleWeir_keeps (takeLost_keeps h)) h
  · exact fromMember_keeps (fun h => takeEpochs_keeps h) h
  · exact fromMember_keeps (fun h => settleWeir_keeps (takeRoleFrame_keeps h)) h
  · exact fromMember_keeps (fun h => takeApply_keeps h) h
  · exact fromMember_keeps (fun h => noteHave_keeps h) h
  · exact fromMember_keeps (fun h => settleWeir_keeps (takeSwitch_keeps h)) h
  · exact h
theorem releaseFrame_keeps {p f m} (h : Keeps s t) : Keeps s (releaseFrame p f m t) :=
  Keeps.ite (confAct_keeps (permitted_keeps (onLink_keeps h))) (permitted_keeps (onLink_keeps h))
theorem serveHold_keeps {p n} (h : Keeps s t) : Keeps s (serveHold p n t) := by
  induction n generalizing t with
  | zero => exact h
  | succ n ih =>
    dsimp only [serveHold]
    split
    · exact h
    · exact Keeps.ite h (ih (releaseFrame_keeps h))
theorem cutHolds_keeps (h : Keeps s t) : Keeps s (cutHolds t) :=
  Keeps.foldl (fun h => Keeps.foldl (fun h => by
    split
    · exact releaseFrame_keeps h
    · exact releaseFrame_keeps h
    · exact releaseFrame_keeps h
    · exact onLink_keeps h) h) h
theorem confQuery_keeps {d} (h : Keeps s t) : Keeps s (confQuery d t) :=
  command_keeps (fun h => finish_keeps h) h
theorem confConfig_keeps {d} (h : Keeps s t) : Keeps s (confConfig d t) :=
  command_keeps (fun h => storing_keeps h) h
theorem bootConfChips_keeps {d} (h : Keeps s t) : Keeps s (bootConfChips d t) :=
  command_keeps (fun h => storing_keeps h) h
/-! ### Power -/
theorem onPwr_keeps {f} (h : Keeps s t) : Keeps s (onPwr t f) :=
  h.update
theorem onRail_keeps {r f} (h : Keeps s t) : Keeps s (onRail t r f) :=
  onPwr_keeps h
theorem mapRails_keeps {f} (h : Keeps s t) : Keeps s (mapRails f t) :=
  onPwr_keeps h
theorem raisePwr_keeps {code data} (h : Keeps s t) : Keeps s (raisePwr code data t) :=
  Keeps.ite (onPwr_keeps h) (State.raise_keeps h)
theorem raisePwrLim_keeps {code key data} (h : Keeps s t) : Keeps s (raisePwrLim code key data t) :=
  Keeps.ite (Keeps.ite (raisePwr_keeps (State.noteRaised_keeps h)) h) (State.raiseLim_keeps h)
theorem logDue_keeps {code rail value detail} (h : Keeps s t) : Keeps s (logDue code rail value detail t) :=
  onPwr_keeps h
theorem eventLogWrite_keeps (h : Keeps s t) : Keeps s (eventLogWrite t) := by
  dsimp only [eventLogWrite]
  split
  · exact h
  · exact Keeps.ite h (ldgEnqueue_keeps (onPwr_keeps h))
theorem toSeq_keeps {x} (h : Keeps s t) : Keeps s (toSeq x t) :=
  Keeps.ite h (raisePwr_keeps (onPwr_keeps h))
theorem startRails_keeps {rs} (h : Keeps s t) : Keeps s (startRails rs t) :=
  Keeps.foldl (fun h => Keeps.ite h (onRail_keeps h)) (Keeps.ite (onPwr_keeps h) h)
theorem assertRst_keeps {rs whole} (h : Keeps s t) : Keeps s (assertRst rs whole t) :=
  onPwr_keeps h
theorem rstoutStretchEnd_keeps {k} (h : Keeps s t) : Keeps s (rstoutStretchEnd k t) :=
  Keeps.ite (onPwr_keeps h) h
theorem shutRails_keeps {rs} (h : Keeps s t) : Keeps s (shutRails rs t) :=
  Keeps.foldl (fun h => onRail_keeps h) (assertRst_keeps h)
theorem nowOff_keeps (h : Keeps s t) : Keeps s (nowOff t) :=
  Keeps.ite (toSeq_keeps (onPwr_keeps (onPwr_keeps (onSlu_keeps (h.updateBoot rfl))))) (toSeq_keeps (onPwr_keeps (onSlu_keeps
      (h.updateBoot rfl))))
theorem shutdownAll_keeps {next} (h : Keeps s t) : Keeps s (shutdownAll next t) :=
  Keeps.ite h (Keeps.ite (nowOff_keeps (toSeq_keeps (onPwr_keeps (shutRails_keeps (assertRst_keeps (mapRails_keeps h))))))
      (toSeq_keeps (onPwr_keeps (shutRails_keeps (assertRst_keeps (mapRails_keeps h))))))
theorem askSave_keeps {cause} (h : Keeps s t) : Keeps s (askSave cause t) := by
  dsimp only [askSave]
  split
  · split
    · exact h
    · split
      · exact onSlu_keeps h
      · exact Keeps.ite (onSlu_keeps h) h
  · exact Keeps.ite (Keeps.ite (shutdownAll_keeps h) h) (Keeps.ite (shutdownAll_keeps (abortAll_keeps (onSlu_keeps h)))
        (onSlu_keeps h))
theorem settleStart_keeps (h : Keeps s t) : Keeps s (settleStart t) :=
  Keeps.foldl (fun h => wake_keeps h) (onPwr_keeps (Keeps.ite (toSeq_keeps (onPwr_keeps (State.draw_keeps h))) h))
theorem settleOff_keeps (h : Keeps s t) : Keeps s (settleOff t) :=
  Keeps.ite (Keeps.ite (nowOff_keeps h) h) (wake_keeps (Keeps.foldl (fun h => Keeps.ite h (Keeps.ite (startRails_keeps
      (logDue_keeps h)) (wake_keeps (onPwr_keeps h)))) (Keeps.ite (startRails_keeps h) h)))
theorem groupShutdown_keeps {g} (h : Keeps s t) : Keeps s (groupShutdown g t) :=
  settleOff_keeps (onPwr_keeps (Keeps.foldl (fun h => onRail_keeps h) (shutRails_keeps h)))
theorem systemReset_keeps (h : Keeps s t) : Keeps s (systemReset t) :=
  askSave_keeps (onPwr_keeps h)
theorem react_keeps {r} (h : Keeps s t) : Keeps s (react r t) :=
  Keeps.ite (onRail_keeps h) (Keeps.ite (Keeps.ite (onRail_keeps h) (Keeps.ite (settleOff_keeps (shutRails_keeps (Keeps.foldl
      (fun h => onRail_keeps h) (onRail_keeps (onRail_keeps h))))) (Keeps.ite (systemReset_keeps (onRail_keeps h))
      (groupShutdown_keeps (onRail_keeps h))))) (Keeps.ite (groupShutdown_keeps (onRail_keeps h)) (systemReset_keeps
      (onRail_keeps h))))
theorem railFault_keeps {r code mv} (h : Keeps s t) : Keeps s (railFault r code mv t) :=
  Keeps.ite (react_keeps (Keeps.ite (Keeps.ite (onSlu_keeps (logDue_keeps (raisePwrLim_keeps (onPwr_keeps (onRail_keeps h)))))
      (logDue_keeps (raisePwrLim_keeps (onPwr_keeps (onRail_keeps h))))) (assertRst_keeps (Keeps.ite (onSlu_keeps (logDue_keeps
      (raisePwrLim_keeps (onPwr_keeps (onRail_keeps h))))) (logDue_keeps (raisePwrLim_keeps (onPwr_keeps
      (onRail_keeps h)))))))) (onRail_keeps (assertRst_keeps (Keeps.ite (onSlu_keeps (logDue_keeps (raisePwrLim_keeps
      (onPwr_keeps (onRail_keeps h))))) (logDue_keeps (raisePwrLim_keeps (onPwr_keeps (onRail_keeps h)))))))
theorem startFail_keeps {r code} (h : Keeps s t) : Keeps s (startFail r code t) := by
  dsimp only [startFail]
  split
  · exact Keeps.ite (react_keeps (logDue_keeps (raisePwr_keeps (onPwr_keeps (onRail_keeps h))))) (onRail_keeps (logDue_keeps
        (raisePwr_keeps (onPwr_keeps (onRail_keeps h)))))
  · split
    · exact Keeps.ite (shutdownAll_keeps (onPwr_keeps (logDue_keeps (raisePwr_keeps (onPwr_keeps (onRail_keeps h))))))
          (settleOff_keeps (shutRails_keeps (onPwr_keeps (logDue_keeps (raisePwr_keeps (onPwr_keeps (onRail_keeps h)))))))
    · exact Keeps.ite (shutdownAll_keeps (logDue_keeps (raisePwr_keeps (onPwr_keeps (onRail_keeps h))))) (shutdownAll_keeps
          (onPwr_keeps (logDue_keeps (raisePwr_keeps (onPwr_keeps (onRail_keeps h))))))
theorem railExcursion_keeps {r kind mv} (h : Keeps s t) : Keeps s (railExcursion r kind mv t) := by
  dsimp only [railExcursion]
  split
  · exact h
  · split
    · exact Keeps.ite (startFail_keeps (onRail_keeps (onRail_keeps h))) (onRail_keeps (onRail_keeps h))
    · exact railFault_keeps (onRail_keeps h)
    · exact onRail_keeps (onRail_keeps h)
theorem railGlitch_keeps {r} (h : Keeps s t) : Keeps s (railGlitch r t) :=
  Keeps.ite (onRail_keeps h) h
theorem railStable_keeps {r} (h : Keeps s t) : Keeps s (railStable r t) :=
  Keeps.ite (settleStart_keeps (onRail_keeps (State.draw_keeps h))) h
theorem railRiseTimeout_keeps {r} (h : Keeps s t) : Keeps s (railRiseTimeout r t) :=
  Keeps.ite (startFail_keeps h) h
theorem railEnable_keeps {r} (h : Keeps s t) : Keeps s (railEnable r t) :=
  Keeps.ite (onRail_keeps h) h
theorem railDisable_keeps {r} (h : Keeps s t) : Keeps s (railDisable r t) :=
  Keeps.ite (onRail_keeps h) h
theorem fallen_keeps {r} (h : Keeps s t) : Keeps s (fallen r t) :=
  settleOff_keeps (onRail_keeps (State.draw_keeps h))
theorem railFallen_keeps {r} (h : Keeps s t) : Keeps s (railFallen r t) :=
  Keeps.ite (fallen_keeps h) h
theorem railFallSlow_keeps {r mv} (h : Keeps s t) : Keeps s (railFallSlow r mv t) :=
  Keeps.ite (fallen_keeps (raisePwrLim_keeps (onPwr_keeps (onRail_keeps h)))) h
theorem readTable_keeps (h : Keeps s t) : Keeps s (readTable t) := by
  dsimp only [readTable]
  split
  · exact Keeps.ite (onPwr_keeps h) (onPwr_keeps h)
  · exact onPwr_keeps h
theorem startAll_keeps (h : Keeps s t) : Keeps s (startAll t) :=
  mapRails_keeps h
theorem sequenceStart_keeps (h : Keeps s t) : Keeps s (sequenceStart t) :=
  Keeps.ite h (toSeq_keeps (startAll_keeps (onPwr_keeps (readTable_keeps h))))
theorem retryOffExpire_keeps (h : Keeps s t) : Keeps s (retryOffExpire t) :=
  Keeps.ite h (toSeq_keeps (startAll_keeps (logDue_keeps (onPwr_keeps h))))
theorem minOffExpire_keeps (h : Keeps s t) : Keeps s (minOffExpire t) :=
  Keeps.ite h (toSeq_keeps (onPwr_keeps h))
theorem tryMeasure_keeps (h : Keeps s t) : Keeps s (tryMeasure t) :=
  Keeps.ite h (Keeps.ite (State.onWeir_keeps h) (State.onWeir_keeps (onPwr_keeps h)))
theorem hubSample_keeps {mv} (h : Keeps s t) : Keeps s (hubSample mv t) :=
  tryMeasure_keeps (onPwr_keeps (Keeps.ite (logDue_keeps (raisePwr_keeps (Keeps.ite (onPwr_keeps h) (onPwr_keeps
      (onPwr_keeps h))))) (Keeps.ite (onPwr_keeps h) (onPwr_keeps (onPwr_keeps h)))))
theorem hubChargeTimeout_keeps (h : Keeps s t) : Keeps s (hubChargeTimeout t) :=
  Keeps.ite h (logDue_keeps (raisePwr_keeps (onPwr_keeps h)))
theorem hubMeasDue_keeps (h : Keeps s t) : Keeps s (hubMeasDue t) :=
  Keeps.ite (tryMeasure_keeps (onPwr_keeps h)) h
theorem hubMeasEnd_keeps {v0 v1 v2 us} (h : Keeps s t) : Keeps s (hubMeasEnd v0 v1 v2 us t) :=
  Keeps.ite h (ldgEnqueue_keeps (Keeps.ite (logDue_keeps (raisePwr_keeps (onPwr_keeps (logDue_keeps (onPwr_keeps
      (State.draw_keeps h)))))) (logDue_keeps (onPwr_keeps (State.draw_keeps h)))))
theorem hubAtT0_keeps {cause} (h : Keeps s t) : Keeps s (hubAtT0 cause t) :=
  onPwr_keeps (State.onWeir_keeps (Keeps.ite (wake_keeps (onPwr_keeps h)) h))
theorem pwrQuery_keeps {d} (h : Keeps s t) : Keeps s (pwrQuery d t) :=
  command_keeps (fun h => finish_keeps h) h
theorem pwrRailQuery_keeps {d} (h : Keeps s t) : Keeps s (pwrRailQuery d t) :=
  command_keeps (fun h => finish_keeps h) h
theorem pwrTableWrite_keeps {d given} (h : Keeps s t) : Keeps s (pwrTableWrite d given t) :=
  command_keeps (fun h => by
    split
    · exact finish_keeps h
    · exact storing_keeps h) h
theorem pwrTableRead_keeps {d} (h : Keeps s t) : Keeps s (pwrTableRead d t) :=
  command_keeps (fun h => finishData_keeps h) h
theorem pwrGroup_keeps {d} (h : Keeps s t) : Keeps s (pwrGroup d t) :=
  command_keeps (fun h => Keeps.ite (finish_keeps h) (Keeps.ite (Keeps.ite (finish_keeps h) (Keeps.ite (finish_keeps h)
      (running_keeps (onPwr_keeps (Keeps.foldl (fun h => Keeps.ite h (onRail_keeps h)) (startRails_keeps h))))))
      (settleOff_keeps (running_keeps (onPwr_keeps (shutRails_keeps h)))))) h
theorem pwrLatchClear_keeps {d} (h : Keeps s t) : Keeps s (pwrLatchClear d t) :=
  command_keeps (fun h => Keeps.ite (finish_keeps h) (finish_keeps (toSeq_keeps (onPwr_keeps h)))) h
theorem pwrHubMeasure_keeps {d} (h : Keeps s t) : Keeps s (pwrHubMeasure d t) :=
  command_keeps (fun h => tryMeasure_keeps (running_keeps (onPwr_keeps h))) h
theorem pwrHubMeasureTimeout_keeps (h : Keeps s t) : Keeps s (pwrHubMeasureTimeout t) :=
  Keeps.ite h (wake_keeps (State.onWeir_keeps (onPwr_keeps h)))
theorem orderSave_keeps {cause d} (h : Keeps s t) : Keeps s (orderSave cause d t) :=
  finish_keeps (h.updateBoot rfl)
theorem pwrCycle_keeps {d} (h : Keeps s t) : Keeps s (pwrCycle d t) :=
  command_keeps (fun h => orderSave_keeps (onPwr_keeps h)) h
theorem pwrAtReady_keeps (h : Keeps s t) : Keeps s (pwrAtReady t) := by
  dsimp only [pwrAtReady]
  split
  · exact Keeps.foldl (fun h => State.deliver_keeps h) (onPwr_keeps h)
  · exact logDue_keeps (logDue_keeps (State.raise_keeps (onPwr_keeps (Keeps.foldl (fun h => State.deliver_keeps h)
        (onPwr_keeps h)))))
/-! ### Tributary operations -/
theorem idlePins_keeps {n sg} (h : Keeps s t) : Keeps s (idlePins n sg t) :=
  onTrib_keeps h
theorem tribErr_keeps {n m} (h : Keeps s t) : Keeps s (tribErr n m t) :=
  onTrib_keeps h
theorem storeStaged_keeps {n a} (h : Keeps s t) : Keeps s (storeStaged n a t) := by
  dsimp only [storeStaged]
  split
  · exact h
  · exact Keeps.ite h (writeHeader_keeps (onMod_keeps (Keeps.foldl (fun h => putLine_keeps h) h)))
theorem stageInput_keeps {n a u} (h : Keeps s t) : Keeps s (stageInput n a u t) :=
  onMod_keeps (Keeps.ite (onTrib_keeps h) (storeStaged_keeps h))
theorem stalePolicy_keeps {n a} (h : Keeps s t) : Keeps s (stalePolicy n a t) :=
  Keeps.ite (writeHeader_keeps (storeStaged_keeps (stageInput_keeps h))) (writeHeader_keeps (onMod_keeps h))
theorem departEvent_keeps {n a cause} (h : Keeps s t) : Keeps s (departEvent n a cause t) :=
  State.raise_keeps h
theorem depart_keeps {n a cause} (h : Keeps s t) : Keeps s (depart n a cause t) :=
  Keeps.ite (stalePolicy_keeps (departEvent_keeps (onMod_keeps h))) h
theorem departAll_keeps {n cause} (h : Keeps s t) : Keeps s (departAll n cause t) :=
  Keeps.foldl (fun h => depart_keeps h) h
theorem arrive_keeps {n a} (h : Keeps s t) : Keeps s (arrive n a t).2 := by
  dsimp only [arrive]
  split
  · exact State.raise_keeps (onMod_keeps h)
  · exact State.raise_keeps (onMod_keeps h)
theorem missed_keeps {n a} (h : Keeps s t) : Keeps s (missed n a t) := by
  dsimp only [missed]
  split
  · exact onTrib_keeps (onMod_keeps h)
  · split
    · exact depart_keeps (onTrib_keeps (onMod_keeps h))
    · exact writeHeader_keeps (departEvent_keeps (onMod_keeps (onTrib_keeps (onMod_keeps h))))
    · exact onMod_keeps (onTrib_keeps (onMod_keeps h))
    · exact onTrib_keeps (onMod_keeps h)
theorem toOut_keeps {n a st cause} (h : Keeps s t) : Keeps s (toOut n a st cause t) :=
  Keeps.ite h (writeHeader_keeps (State.raise_keeps (onMod_keeps h)))
theorem captureBlock_keeps {n a} (h : Keeps s t) : Keeps s (captureBlock n a t) :=
  Keeps.ite (toOut_keeps (tribErr_keeps (poisonUsed_keeps (Keeps.foldl (fun h => faultIn_keeps h) h)))) (Keeps.ite (toOut_keeps
      (onMod_keeps (Keeps.foldl (fun h => faultIn_keeps h) h))) (toOut_keeps (onMod_keeps (Keeps.foldl
      (fun h => faultIn_keeps h) h))))
theorem takeCapture_keeps {n} (h : Keeps s t) : Keeps s (takeCapture n t) := by
  dsimp only [takeCapture]
  split
  · exact h
  · exact Keeps.foldl (fun h => requestValue_keeps h) (captureBlock_keeps (onTrib_keeps h))
theorem outputCapture_keeps {n} (h : Keeps s t) : Keeps s (outputCapture n t) := by
  dsimp only [outputCapture]
  split
  · exact h
  · exact Keeps.ite h (takeCapture_keeps h)
theorem sendTrib_keeps {n mac type dst payload} (h : Keeps s t) : Keeps s (sendTrib n mac type dst payload t) :=
  Keeps.ite (State.emit_keeps h) (Keeps.ite (tribErr_keeps (State.draw_keeps (State.emit_keeps (State.emit_keeps
      (State.emit_keeps h))))) (State.draw_keeps (State.emit_keeps (State.emit_keeps (State.emit_keeps h)))))
theorem badFrame_keeps {n} (h : Keeps s t) : Keeps s (badFrame n t) :=
  onTrib_keeps h
theorem goodFrame_keeps {n} (h : Keeps s t) : Keeps s (goodFrame n t) :=
  onTrib_keeps h
theorem cycleCheck_keeps {n} (h : Keeps s t) : Keeps s (cycleCheck n t) :=
  Keeps.ite (onTrib_keeps h) h
theorem answered_keeps {n a} (h : Keeps s t) : Keeps s (answered n a t) :=
  onTrib_keeps h
theorem discard_keeps {n src} (h : Keeps s t) : Keeps s (discard n src t) := by
  dsimp only [discard]
  split
  · exact cycleCheck_keeps (missed_keeps (answered_keeps (badFrame_keeps h)))
  · exact badFrame_keeps h
/-! ### Tributary ports -/
theorem pollCycleStart_keeps {n} (h : Keeps s t) : Keeps s (pollCycleStart n t) :=
  Keeps.ite h (cycleCheck_keeps (onTrib_keeps (Keeps.ite (onTrib_keeps (State.raiseLim_keeps (Keeps.ite (onTrib_keeps h) h)))
      (Keeps.ite (onTrib_keeps h) h))))
theorem pollPayload_keeps {m} (h : Keeps s t) : Keeps s (pollPayload t m).2 := by
  dsimp only [pollPayload]
  split
  · exact h
  · exact State.draw_keeps h
theorem poll_keeps {n} (h : Keeps s t) : Keeps s (poll n t) := by
  dsimp only [poll]
  split
  · exact h
  · exact Keeps.ite h (sendTrib_keeps (onTrib_keeps (pollPayload_keeps h)))
theorem goodData_keeps {n a p} (h : Keeps s t) : Keeps s (goodData n a p t) := by
  unfold goodData
  extract_lets ack s1 m
  have hs1 : Keeps s s1 := onMod_keeps (goodFrame_keeps h)
  have hlive : ∀ {c d : Prop} [Decidable c] [Decidable d] {u up}, Keeps s u →
      Keeps s (if c then stageInput n a up u else if d then writeHeader n a u else u) :=
    fun h => Keeps.ite (stageInput_keeps h) (Keeps.ite (writeHeader_keeps h) h)
  clear_value s1
  cases m.state with
  | absent =>
    dsimp only
    split
    · exact hlive (arrive_keeps hs1)
    · exact hlive hs1
  | stale => exact hlive (arrive_keeps hs1)
  | active | mismatch | disabled => exact hlive hs1
theorem dataReply_keeps {n f} (h : Keeps s t) : Keeps s (dataReply n f t) :=
  Keeps.ite h (Keeps.ite (discard_keeps h) (Keeps.ite (discard_keeps h) (Keeps.ite (Keeps.ite (goodData_keeps h)
      (badFrame_keeps h)) (Keeps.ite (discard_keeps h) (cycleCheck_keeps (goodData_keeps (answered_keeps h)))))))
theorem replyTimeout_keeps {n a} (h : Keeps s t) : Keeps s (replyTimeout n a t) :=
  Keeps.ite (cycleCheck_keeps (missed_keeps (answered_keeps h))) h
theorem serialFrameIdle_keeps {n} (h : Keeps s t) : Keeps s (serialFrameIdle n t) :=
  Keeps.ite (Keeps.ite (badFrame_keeps h) (discard_keeps h)) h
theorem identify_keeps {n} (h : Keeps s t) : Keeps s (identify n t) :=
  Keeps.ite h (sendTrib_keeps (onTrib_keeps h))
theorem claim_keeps {n f} (h : Keeps s t) : Keeps s (claim n f t) :=
  Keeps.ite h (Keeps.ite (badFrame_keeps h) (Keeps.ite (goodFrame_keeps h) (onTrib_keeps (goodFrame_keeps h))))
theorem changeMod_keeps {n a f} (h : Keeps s t) : Keeps s (changeMod n a f t) :=
  Keeps.ite (onMod_keeps h) (writeHeader_keeps (onMod_keeps h))
theorem enterMod_keeps {n a mac i} (h : Keeps s t) : Keeps s (enterMod n a mac i t) :=
  changeMod_keeps h
theorem grant_keeps {n a mac i} (h : Keeps s t) : Keeps s (grant n a mac i t) :=
  sendTrib_keeps (onTrib_keeps (enterMod_keeps h))
theorem handleClaim_keeps {n c} (h : Keeps s t) : Keeps s (handleClaim n c t) := by
  dsimp only [handleClaim]
  split
  · exact grant_keeps (depart_keeps h)
  · split
    · exact grant_keeps h
    · split
      · exact grant_keeps h
      · exact State.raise_keeps h
theorem endRoll_keeps {n st} (h : Keeps s t) : Keeps s (endRoll n st t) :=
  wake_keeps (onTrib_keeps h)
theorem rollcallWindowClose_keeps {n} (h : Keeps s t) : Keeps s (rollcallWindowClose n t) :=
  Keeps.ite h (Keeps.ite (endRoll_keeps h) (endRoll_keeps (Keeps.foldl (fun h => handleClaim_keeps h) h)))
theorem inputStore_keeps {n a} (h : Keeps s t) : Keeps s (inputStore n a t) :=
  Keeps.ite h (storeStaged_keeps h)
theorem inputLatchExpire_keeps {n a} (h : Keeps s t) : Keeps s (inputLatchExpire n a t) :=
  Keeps.ite h (storeStaged_keeps (writeHeader_keeps (onTrib_keeps (onMod_keeps h))))
theorem assignReceived_keeps {n f} (h : Keeps s t) : Keeps s (assignReceived n f t) := by
  dsimp only [assignReceived]
  split
  · exact h
  · split
    · exact badFrame_keeps h
    · split
      · exact goodFrame_keeps h
      · split
        · exact onTrib_keeps (enterMod_keeps (depart_keeps (goodFrame_keeps h)))
        · exact Keeps.ite (onMod_keeps (depart_keeps (goodFrame_keeps h))) (changeMod_keeps (depart_keeps (goodFrame_keeps h)))
theorem listenMissWindow_keeps {n} (h : Keeps s t) : Keeps s (listenMissWindow n t) :=
  Keeps.ite h (Keeps.foldl (fun h => Keeps.ite (onMod_keeps h) (missed_keeps h)) h)
theorem queueMdio_keeps {n m} (h : Keeps s t) : Keeps s (queueMdio n m t) :=
  h.update
theorem phyStatusPoll_keeps {n} (h : Keeps s t) : Keeps s (phyStatusPoll n t) :=
  Keeps.ite (queueMdio_keeps h) h
theorem linkRead_keeps {n up} (h : Keeps s t) : Keeps s (linkRead n up t) :=
  Keeps.ite h (Keeps.ite (State.raise_keeps (onTrib_keeps (State.draw_keeps h))) (departAll_keeps (tribErr_keeps
      (State.raise_keeps (onTrib_keeps (State.draw_keeps h))))))
theorem mdioDone_keeps {bus ok v} (h : Keeps s t) : Keeps s (mdioDone bus ok v t) := by
  dsimp only [mdioDone]
  split
  · exact h
  · split
    · exact onCmds_keeps (Keeps.ite (tribErr_keeps (State.emit_keeps h.update)) (State.emit_keeps h.update))
    · exact Keeps.ite (Keeps.ite (tribErr_keeps (State.emit_keeps h.update)) (State.emit_keeps h.update)) (linkRead_keeps
          (Keeps.ite (tribErr_keeps (State.emit_keeps h.update)) (State.emit_keeps h.update)))
theorem tribConfig_keeps {d} (h : Keeps s t) : Keeps s (tribConfig d t) :=
  command_keeps (fun h => storingAs_keeps h) h
theorem setTribCfg_keeps {n d} (h : Keeps s t) : Keeps s (setTribCfg n d t) :=
  onTrib_keeps h
theorem tribConfigApply_keeps {d ts} (h : Keeps s t) : Keeps s (tribConfigApply d ts t) :=
  Keeps.foldl (fun h => idlePins_keeps (setTribCfg_keeps h)) h
theorem tribModApply_keeps {d} (h : Keeps s t) : Keeps s (tribModApply d t) :=
  changeMod_keeps h
theorem withStored_keeps {op inst f} (hf2 : ∀ {x0 u}, Keeps s u → Keeps s (f x0 u)) (h : Keeps s t) : Keeps s
    (withStored op inst f t) := by
  dsimp only [withStored]
  split
  · exact h
  · exact hf2 h
theorem loadTrib_keeps {n} (h : Keeps s t) : Keeps s (loadTrib n t) := by
  dsimp only [loadTrib]
  split
  · exact withStored_keeps (fun h => setTribCfg_keeps h) h
  · exact Keeps.foldl (fun h => onMod_keeps h) (withStored_keeps (fun h => setTribCfg_keeps h) h)
theorem reloadTrib_keeps {n} (h : Keeps s t) : Keeps s (reloadTrib n t) :=
  Keeps.foldl (fun h => Keeps.ite h (writeHeader_keeps h)) (loadTrib_keeps h)
theorem tribModSet_keeps {d} (h : Keeps s t) : Keeps s (tribModSet d t) := by
  refine command_keeps (fun h => ?_) h
  dsimp only
  split
  · exact finish_keeps h
  · exact storing_keeps h
theorem enableMod_keeps {n a on} (h : Keeps s t) : Keeps s (enableMod n a on t) :=
  Keeps.ite (Keeps.ite (writeHeader_keeps (onMod_keeps h)) (onMod_keeps h)) (Keeps.ite (onMod_keeps h) (onTrib_keeps
      (stalePolicy_keeps (onMod_keeps (Keeps.ite (departEvent_keeps h) h)))))
theorem tribModEnable_keeps {d} (h : Keeps s t) : Keeps s (tribModEnable d t) :=
  command_keeps (fun h => Keeps.ite (finish_keeps h) (finish_keeps (enableMod_keeps h))) h
theorem tribRollcall_keeps {d} (h : Keeps s t) : Keeps s (tribRollcall d t) :=
  command_keeps (fun h => Keeps.ite (finish_keeps h) (running_keeps (Keeps.foldl (fun h => onTrib_keeps h) h))) h
theorem tribModQuery_keeps {d} (h : Keeps s t) : Keeps s (tribModQuery d t) :=
  command_keeps (fun h => finish_keeps h) h
theorem tribMdio_keeps {d} (h : Keeps s t) : Keeps s (tribMdio d t) :=
  command_keeps (fun h => Keeps.ite (finish_keeps h) (queueMdio_keeps (running_keeps h))) h
theorem tribBegin_keeps {n} (h : Keeps s t) : Keeps s (tribBegin n t) :=
  onTrib_keeps (idlePins_keeps h)
theorem storeUnlatched_keeps {n} (h : Keeps s t) : Keeps s (storeUnlatched n t) :=
  Keeps.foldl (fun h => Keeps.ite (storeStaged_keeps h) h) h
theorem tribQuiet_keeps {n cut} (h : Keeps s t) : Keeps s (tribQuiet n cut t) :=
  onTrib_keeps (Keeps.ite (endRoll_keeps (Keeps.ite (storeUnlatched_keeps h) h)) (Keeps.ite (storeUnlatched_keeps h) h))
theorem tribStopped_keeps {n} (h : Keeps s t) : Keeps s (tribStopped n t) :=
  onTrib_keeps (departAll_keeps (idlePins_keeps h))
/-! ### Sequencers -/
theorem onSeqr_keeps {n f} (h : Keeps s t) : Keeps s (onSeqr t n f) :=
  h.update
theorem releaseLine_keeps {n} (h : Keeps s t) : Keeps s (releaseLine n t) :=
  onTrib_keeps (onSeqr_keeps h)
theorem seqTrap_keeps {n code word arg} (h : Keeps s t) : Keeps s (seqTrap n code word arg t) :=
  State.raise_keeps (unitFault_keeps (departAll_keeps (onSeqr_keeps (releaseLine_keeps h))))
theorem advance_keeps {n i cyc pc} (h : Keeps s t) : Keeps s (advance n i cyc pc t) :=
  onSeqr_keeps h
theorem complete_keeps {n i cyc f} (h : Keeps s t) : Keeps s (complete n i cyc f t) :=
  advance_keeps (onSeqr_keeps h)
theorem waitFor_keeps {n i cyc w} (h : Keeps s t) : Keeps s (waitFor n i cyc w t) :=
  onSeqr_keeps h
theorem seqRow_keeps {op zero n f} (hf3 : ∀ {x0 x1 u}, Keeps s u → Keeps s (f x0 x1 u)) (h : Keeps s t) : Keeps s
    (seqRow op zero n f t) := by
  dsimp only [seqRow]
  split
  · exact h
  · split
    · exact seqTrap_keeps (State.draw_keeps h)
    · exact seqTrap_keeps h
    · exact Keeps.ite h (Keeps.ite (seqTrap_keeps h) (hf3 h))
theorem regRow_keeps {op zero n v} (h : Keeps s t) : Keeps s (regRow op zero n v t) :=
  seqRow_keeps (fun h => complete_keeps h) h
theorem aluA_keeps {op f n} (h : Keeps s t) : Keeps s (aluA op f n t) :=
  regRow_keeps h
theorem aluI_keeps {op zero f n} (h : Keeps s t) : Keeps s (aluI op zero f n t) :=
  regRow_keeps h
theorem dataRow_keeps {op size n f} (h : Keeps s t) : Keeps s (dataRow op size n f t) :=
  seqRow_keeps (fun h => Keeps.ite (seqTrap_keeps h) (complete_keeps h)) h
theorem goTo_keeps {n i t' f} (h : Keeps s t) : Keeps s (goTo n i t' f t) :=
  Keeps.ite (seqTrap_keeps h) (advance_keeps (onSeqr_keeps h))
theorem branchRow_keeps {op c n} (h : Keeps s t) : Keeps s (branchRow op c n t) :=
  seqRow_keeps (fun h => Keeps.ite (goTo_keeps h) (complete_keeps h)) h
theorem checkRow_keeps {op zero lim n} (h : Keeps s t) : Keeps s (checkRow op zero lim n t) :=
  seqRow_keeps (fun h => Keeps.ite (seqTrap_keeps h) (complete_keeps h)) h
theorem setTxd_keeps {n v} (h : Keeps s t) : Keeps s (setTxd n v t) :=
  Keeps.ite h (onTrib_keeps h)
theorem restLine_keeps {n} (h : Keeps s t) : Keeps s (restLine n t) :=
  setTxd_keeps h
theorem restAfter_keeps {n w} (h : Keeps s t) : Keeps s (restAfter n w t) := by
  dsimp only [restAfter]
  split
  · exact restLine_keeps h
  · exact h
theorem lineRow_keeps {op ok w n} (h : Keeps s t) : Keeps s (lineRow op ok w n t) :=
  seqRow_keeps (fun h => Keeps.ite (seqTrap_keeps h) (Keeps.ite (waitFor_keeps h) (restAfter_keeps (complete_keeps h)))) h
theorem lineCharReceived_keeps {n c par frm brk whileDe} (h : Keeps s t) : Keeps s
    (lineCharReceived n c par frm brk whileDe t) :=
  Keeps.ite h (Keeps.ite h (Keeps.ite (onSeqr_keeps h) (onSeqr_keeps h)))
theorem lineCharSent_keeps {n} (h : Keeps s t) : Keeps s (lineCharSent n t) := by
  dsimp only [lineCharSent]
  split
  · exact h
  · exact State.emit_keeps (Keeps.ite (restLine_keeps (onSeqr_keeps (onSeqr_keeps h))) (onSeqr_keeps (onSeqr_keeps h)))
theorem stageRow_keeps {op size n v} (h : Keeps s t) : Keeps s (stageRow op size n v t) :=
  seqRow_keeps (fun h => Keeps.ite (seqTrap_keeps h) (complete_keeps h)) h
theorem imageRow_keeps {op size n} (h : Keeps s t) : Keeps s (imageRow op size n t) :=
  seqRow_keeps (fun h => by
    split
    · exact seqTrap_keeps h
    · exact Keeps.ite (seqTrap_keeps h) (complete_keeps (State.draw_keeps h))) h
theorem readWindow_keeps {n i rd off cyc} (h : Keeps s t) : Keeps s (readWindow n i rd off cyc t) :=
  Keeps.ite (seqTrap_keeps (poisonUsed_keeps (requestValue_keeps h))) (complete_keeps (requestValue_keeps h))
theorem askLine_keeps {l} (h : Keeps s t) : Keeps s (askLine l t) :=
  Keeps.ite (startFault_keeps h) h
theorem marrive_keeps {n a d} (h : Keeps s t) : Keeps s (marrive n a d t).2 := by
  have harrived : ∀ {u f}, Keeps s u → Keeps s (writeHeader n a (arrive n a (onMod u n a f)).2) :=
    fun h => writeHeader_keeps (arrive_keeps (onMod_keeps h))
  unfold marrive
  extract_lets m same bad set
  have hset : ∀ st {u}, Keeps s u → Keeps s (writeHeader n a (arrive n a (set st u)).2) := fun _ _ h => harrived h
  clear_value bad set
  split
  · exact h
  · exact State.draw_keeps h
  · split
    · exact hset _ h
    · exact Keeps.ite_snd h (hset _ (depart_keeps h))
  · cases bad with
    | none => exact hset _ h
    | some r => exact hset _ h
theorem mdepart_keeps {n a gone} (h : Keeps s t) : Keeps s (mdepart n a gone t) :=
  Keeps.ite (depart_keeps h) (Keeps.ite (writeHeader_keeps (onMod_keeps (depart_keeps h))) h)
theorem portStopped_keeps {n} (h : Keeps s t) : Keeps s (portStopped n t) :=
  Keeps.ite (onSeqr_keeps (drained_keeps (tribStopped_keeps h))) h
theorem endWait_keeps {n cyc f} (h : Keeps s t) : Keeps s (endWait n cyc f t) :=
  onSeqr_keeps h
theorem seqWaitEnd_keeps {n timeout cycles} (h : Keeps s t) : Keeps s (seqWaitEnd n timeout cycles t) := by
  dsimp only [seqWaitEnd]
  split
  · exact h
  · split
    · exact h
    · exact Keeps.ite h (endWait_keeps h)
    · exact Keeps.ite (Keeps.ite (endWait_keeps h) h) (Keeps.ite h (endWait_keeps h))
    · exact Keeps.ite (endWait_keeps h) h
    · exact Keeps.ite (endWait_keeps (setTxd_keeps h)) h
    · exact Keeps.ite (endWait_keeps h) (endWait_keeps h)
    · exact endWait_keeps h
    · exact Keeps.ite (askLine_keeps h) (readWindow_keeps (onSeqr_keeps h))
    · exact Keeps.ite h (restLine_keeps (endWait_keeps h))
    · exact Keeps.ite h (endWait_keeps h)
    · exact endWait_keeps h
theorem seqExecBegin_keeps {n} (h : Keeps s t) : Keeps s (seqExecBegin n t) :=
  Keeps.ite h (setTxd_keeps (onSeqr_keeps h))
theorem seqAgain_keeps {n} (h : Keeps s t) : Keeps s (seqAgain n t) :=
  onSeqr_keeps h
theorem seqAbort_keeps {n} (h : Keeps s t) : Keeps s (seqAbort n t) :=
  onSeqr_keeps (idlePins_keeps (releaseLine_keeps h))
theorem tokenChange_keeps {n token} (h : Keeps s t) : Keeps s (tokenChange n token t) :=
  Keeps.ite h (Keeps.ite (seqAgain_keeps (releaseLine_keeps (onTrib_keeps (Keeps.ite (endRoll_keeps h) h)))) (onTrib_keeps
      (Keeps.ite (endRoll_keeps h) h)))
theorem loadDialect_keeps {n} (h : Keeps s t) : Keeps s (loadDialect n t).2 := by
  unfold loadDialect
  extract_lets q0 s0 k s1 loaded s2
  have hs0 : Keeps s s0 := Keeps.ite (Keeps.foldl (fun h => faultIn_keeps h) h) h
  have hs1 : Keeps s s1 := Keeps.ite (notePoisonRead_keeps hs0) hs0
  have hs2 : Keeps s s2 := onSeqr_keeps hs1
  clear_value s2
  split
  · exact onSeqr_keeps hs2
  · exact hs2
theorem seqConfig_keeps {d} (h : Keeps s t) : Keeps s (seqConfig d t) :=
  command_keeps (fun h => storingAs_keeps h) h
theorem seqConfigApply_keeps {d ts} (h : Keeps s t) : Keeps s (seqConfigApply d ts t) :=
  Keeps.foldl (fun h => onSeqr_keeps h) h
theorem seqQuery_keeps {d} (h : Keeps s t) : Keeps s (seqQuery d t) :=
  command_keeps (fun h => finish_keeps h) h
/-! ### Lifecycle -/
theorem unitQuery_keeps {cc d} (h : Keeps s t) : Keeps s (unitQuery cc d t) :=
  command_keeps (fun h => finish_keeps h) h
theorem toState_keeps {cc i l} (h : Keeps s t) : Keeps s (toState cc i l t) :=
  State.toLife_keeps h
theorem inTurn_keeps {f ts} (hf : ∀ {i u}, Keeps s u → Keeps s (f i u).2) (h : Keeps s t) : Keeps s (inTurn f ts t).2 := by
  induction ts generalizing t with
  | nil => exact h
  | cons i ts ih =>
    dsimp only [inTurn]
    split
    · exact ih (hf h)
    · exact ih (hf h)
theorem turns_keeps {d ts f} (hf : ∀ {i u}, Keeps s u → Keeps s (f i u).2) (h : Keeps s t) : Keeps s (turns d ts f t) :=
  finish_keeps (inTurn_keeps hf h)
theorem dchBegin_keeps {c} (h : Keeps s t) : Keeps s (dchBegin c t) :=
  serveReads_keeps (admitWaiting_keeps (onDch_keeps h))
theorem needLife_keeps {cc l act i} (hact : ∀ {i u}, Keeps s u → Keeps s (act i u).2) (h : Keeps s t) : Keeps s
    (needLife cc l act i t).2 := by
  dsimp only [needLife]
  split
  · exact hact h
  · exact h
theorem unitPowerUp_keeps {cc d} (h : Keeps s t) : Keeps s (unitPowerUp cc d t) :=
  command_keeps (fun h => turns_keeps (fun h => needLife_keeps (fun h => by
    split
    · exact h
    · exact toState_keeps (Keeps.ite (reloadTrib_keeps h) h)) h) h) h
theorem startUnit_keeps {cc i} (h : Keeps s t) : Keeps s (startUnit cc i t).2 := by
  dsimp only [startUnit]
  split
  · exact issueAll_keeps (checkCapacity_keeps (toState_keeps (onStore_keeps h)))
  · exact Keeps.foldl (fun h => resyncAll_keeps h) (toState_keeps h)
  · exact dchBegin_keeps (toState_keeps h)
  · split
    · exact onTrib_keeps h
    · split
      · exact h
      · exact Keeps.ite (onSeqr_keeps (seqAgain_keeps (tribBegin_keeps (toState_keeps h)))) (tribBegin_keeps (toState_keeps h))
  · split
    · exact loadDialect_keeps h
    · exact toState_keeps (loadDialect_keeps h)
  · exact linkClear_keeps (toState_keeps h)
  · exact linkClear_keeps (toState_keeps h)
theorem unitStart_keeps {cc d} (h : Keeps s t) : Keeps s (unitStart cc d t) :=
  command_keeps (fun h => settleWeir_keeps (turns_keeps (fun h => needLife_keeps (fun h => startUnit_keeps h) h) h)) h
theorem drainFinish_keeps {cc i} (h : Keeps s t) : Keeps s (drainFinish cc i t) := by
  dsimp only [drainFinish]
  split
  · exact onDch_keeps h
  · exact onSeqr_keeps (tribStopped_keeps h)
  · exact mirPortDown_keeps h
  · exact linkClear_keeps h
  · exact h
theorem drainBegin_keeps {cc i ms} (h : Keeps s t) : Keeps s (drainBegin cc i ms t) := by
  dsimp only [drainBegin]
  split
  · exact tribQuiet_keeps (Keeps.ite (onSeqr_keeps ((State.toLife_keeps h).update)) ((State.toLife_keeps h).update))
  · exact (State.toLife_keeps h).update
theorem nstAbort_keeps {c} (h : Keeps s t) : Keeps s (nstAbort c t) :=
  issueAll_keeps (moveOps_keeps (Keeps.ite (closeStripe_keeps (Keeps.foldl (fun h => setBlk_keeps h) (takeOps_keeps
      (State.toLife_keeps h)))) (Keeps.foldl (fun h => setBlk_keeps h) (takeOps_keeps (State.toLife_keeps h)))))
theorem dchAbort_keeps {c} (h : Keeps s t) : Keeps s (dchAbort c t) :=
  onDch_keeps (Keeps.foldl (fun h => plant_keeps h) (Keeps.foldl (fun h => flightDone_keeps (noteLatency_keeps h)) h))
theorem finishCaptures_keeps {n k} (h : Keeps s t) : Keeps s (finishCaptures n k t) := by
  induction k generalizing t with
  | zero => exact h
  | succ k ih => exact Keeps.ite h (ih (takeCapture_keeps h))
theorem dropMdio_keeps {n} (h : Keeps s t) : Keeps s (dropMdio n t) :=
  Keeps.foldl (fun h => by
    split
    · exact onCmds_keeps h
    · exact h) h.update
theorem abortUnit_keeps {cc i} (h : Keeps s t) : Keeps s (abortUnit cc i t) := by
  dsimp only [abortUnit]
  split
  · exact nstAbort_keeps h
  · exact serveReads_keeps (Keeps.foldl (fun h => applyServed_keeps h) (Keeps.foldl (fun h => setPiece_keeps h)
        (abortPasses_keeps h)))
  · exact dchAbort_keeps h
  · exact tribStopped_keeps (Keeps.ite (seqAbort_keeps (dropMdio_keeps (finishCaptures_keeps (tribQuiet_keeps h))))
        (dropMdio_keeps (finishCaptures_keeps (tribQuiet_keeps h))))
  · exact seqAbort_keeps h
  · exact mirPortDown_keeps h
  · exact linkClear_keeps h
theorem stoppedNow_keeps {cc} (h : Keeps s t) : Keeps s (stoppedNow cc t) :=
  Keeps.ite (checkCapacity_keeps h) h
theorem abortTo_keeps {cc i st} (h : Keeps s t) : Keeps s (abortTo cc i st t) :=
  drainEnds_keeps (stoppedNow_keeps (toState_keeps (abortUnit_keeps h)))
theorem unitStopDrain_keeps {cc d} (h : Keeps s t) : Keeps s (unitStopDrain cc d t) :=
  Keeps.ite h (command_keeps (fun h => Keeps.ite (finish_keeps (inTurn_keeps (fun h => by
    split
    · exact h
    · split
      · exact h
      · split
        · exact h
        · exact drainBegin_keeps h) h)) (running_keeps (inTurn_keeps (fun h => by
    split
    · exact h
    · split
      · exact h
      · split
        · exact h
        · exact drainBegin_keeps h) h))) h)
theorem unitStopAbort_keeps {cc d} (h : Keeps s t) : Keeps s (unitStopAbort cc d t) :=
  Keeps.ite h (command_keeps (fun h => settleWeir_keeps (turns_keeps (fun h => by
    split
    · exact abortTo_keeps h
    · split
      · exact h
      · split
        · exact h
        · exact abortTo_keeps h) h)) h)
theorem clearUnit_keeps {cc i} (h : Keeps s t) : Keeps s (clearUnit cc i t) := by
  dsimp only [clearUnit]
  split
  · exact onDch_keeps (Keeps.ite (loseChannel_keeps (toState_keeps (setFault_keeps h))) (toState_keeps (setFault_keeps h)))
  · exact onStore_keeps (toState_keeps (setFault_keeps h))
  · exact toState_keeps (setFault_keeps h)
theorem unitClearFault_keeps {cc d} (h : Keeps s t) : Keeps s (unitClearFault cc d t) :=
  command_keeps (fun h => settleWeir_keeps (turns_keeps (fun h => needLife_keeps (fun h => clearUnit_keeps h) h) h)) h
theorem unitPowerDown_keeps {cc d} (h : Keeps s t) : Keeps s (unitPowerDown cc d t) :=
  command_keeps (fun h => turns_keeps (fun h => needLife_keeps (fun h => by
    split
    · exact h
    · exact toState_keeps (Keeps.ite (idlePins_keeps h) h)) h) h) h
theorem drainComplete_keeps {u} (h : Keeps s t) : Keeps s (drainComplete u t) :=
  Keeps.ite (drainEnds_keeps (stoppedNow_keeps (State.toLife_keeps (drainFinish_keeps h)))) h
theorem drainTimeout_keeps {u} (h : Keeps s t) : Keeps s (drainTimeout u t) :=
  Keeps.ite (abortTo_keeps h) h
theorem unitInternalFault_keeps {u code} (h : Keeps s t) : Keeps s (unitInternalFault u code t) := by
  dsimp only [unitInternalFault]
  split
  · exact h
  · split
    · exact dchFault_keeps h
    · exact saveLoses_keeps (unitFault_keeps (onNch_keeps h))
    · exact Keeps.ite (seqTrap_keeps (sramUncorrectable_keeps (State.draw_keeps h))) (unitFault_keeps (abortUnit_keeps h))
    · exact unitFault_keeps (abortUnit_keeps h)
theorem cutWork_keeps {p c} (h : Keeps s t) : Keeps s (cutWork p c t) := by
  dsimp only [cutWork]
  split
  · exact Keeps.foldl (fun h => Keeps.ite (abortTo_keeps h) h) h
  · exact Keeps.foldl (fun h => endRoll_keeps h) h
  · exact h.update
  · exact h
theorem deleteMq_keeps {q} (h : Keeps s t) : Keeps s (deleteMq q t) :=
  narrowNow_keeps (onMq_keeps (onMq_keeps (Keeps.foldl (fun h => Keeps.ite h (cutWork_keeps h)) h)))
theorem mbxQueueDelete_keeps {d} (h : Keeps s t) : Keeps s (mbxQueueDelete d t) :=
  command_keeps (fun h => Keeps.ite (finish_keeps h) (Keeps.ite (finish_keeps h) (finish_keeps (deleteMq_keeps h)))) h
/-! ### Saves -/
theorem vinTrip_keeps {mv} (h : Keeps s t) : Keeps s (vinTrip mv t) :=
  Keeps.ite (askSave_keeps (onSlu_keeps h)) (onSlu_keeps h)
theorem pfailInAssert_keeps (h : Keeps s t) : Keeps s (pfailInAssert t) :=
  askSave_keeps (onSlu_keeps h)
theorem pfailExternal_keeps (h : Keeps s t) : Keeps s (pfailExternal t) :=
  Keeps.ite h (askSave_keeps h)
theorem refclkLoss_keeps (h : Keeps s t) : Keeps s (refclkLoss t) :=
  askSave_keeps (onPwr_keeps h)
theorem internalUe_keeps {staging} (h : Keeps s t) : Keeps s (internalUe staging t) :=
  Keeps.ite (Keeps.ite (sramUncorrectable_keeps h) h) (Keeps.ite (askSave_keeps (Keeps.ite (sramUncorrectable_keeps h) h))
      (Keeps.ite ((State.toDev_keeps (askSave_keeps (Keeps.ite (sramUncorrectable_keeps h) h))).updateBoot rfl) (askSave_keeps
      ((State.toDev_keeps (Keeps.ite (sramUncorrectable_keeps h) h)).updateBoot rfl))))
theorem inputGood_keeps (h : Keeps s t) : Keeps s (inputGood t) :=
  onSlu_keeps h
theorem abandonAll_keeps (h : Keeps s t) : Keeps s (abandonAll t) :=
  Keeps.foldl (fun h => Keeps.ite (onConf_keeps h) (tellAbandoned_keeps (abandonEpoch_keeps (forceAging_keeps
      (setPrep_keeps h))))) h
theorem cutWrites_keeps (h : Keeps s t) : Keeps s (cutWrites t) :=
  onSlu_keeps h.updateRet
theorem cutReads_keeps (h : Keeps s t) : Keeps s (cutReads t) :=
  (dropReads_keeps (Keeps.foldl (fun h => abortRemote_keeps h) (Keeps.foldl (fun h => dropTlp_keeps h) (Keeps.foldl (fun h => by
    split
    · exact gaveCa_keeps h
    · exact h) h)))).update
theorem cutEventLog_keeps {cause} (h : Keeps s t) : Keeps s (cutEventLog cause t) :=
  Keeps.ite ((Keeps.ite (ldgCut_keeps h) h).update) (ldgKick_keeps ((Keeps.ite (ldgCut_keeps h) h).update))
theorem shedRails_keeps (h : Keeps s t) : Keeps s (shedRails t) :=
  Keeps.foldl (fun h => onRail_keeps h) (assertRst_keeps h)
theorem mirrorAtT0_keeps {cause} (h : Keeps s t) : Keeps s (mirrorAtT0 cause t) :=
  onMir_keeps (linkClear_keeps (linkClear_keeps (Keeps.ite (Keeps.foldl (fun h => emitFrame_keeps h) h) h)))
theorem sendResolve_keeps (h : Keeps s t) : Keeps s (sendResolve t) :=
  Keeps.ite h (sendTo_keeps h)
theorem cutStore_keeps (h : Keeps s t) : Keeps s (cutStore t) :=
  freeBlocks_keeps (onStore_keeps h)
theorem stopPorts_keeps (h : Keeps s t) : Keeps s (stopPorts t) :=
  Keeps.foldl (fun h => Keeps.ite (abortUnit_keeps h) h) h
theorem startDch_keeps (h : Keeps s t) : Keeps s (startDch t) :=
  Keeps.foldl (fun h => Keeps.ite (dchBegin_keeps (toState_keeps h)) h) h
theorem noteT0_keeps {cause} (h : Keeps s t) : Keeps s (noteT0 cause t) :=
  onSlu_keeps h
theorem saveT0_keeps (h : Keeps s t) : Keeps s (saveT0 t) := by
  dsimp only [saveT0]
  split
  · exact h
  · exact Keeps.ite h (hubAtT0_keeps (cutEventLog_keeps (Keeps.ite (onSlu_keeps (sendResolve_keeps (startDch_keeps
        (cutStore_keeps (mirrorAtT0_keeps (stopPorts_keeps (endHold_keeps (cutWrites_keeps (onScan_keeps (abortPasses_keeps
        (abandonAll_keeps (cutReads_keeps ((State.toDev_keeps (abortAll_keeps (cutHolds_keeps
        (noteT0_keeps h)))).updateBoot rfl))))))))))))) (shedRails_keeps (onSlu_keeps (sendResolve_keeps (startDch_keeps
        (cutStore_keeps (mirrorAtT0_keeps (stopPorts_keeps (endHold_keeps (cutWrites_keeps (onScan_keeps (abortPasses_keeps
        (abandonAll_keeps (cutReads_keeps ((State.toDev_keeps (abortAll_keeps (cutHolds_keeps
        (noteT0_keeps h)))).updateBoot rfl)))))))))))))))))
theorem finishPiece_keeps {p} (h : Keeps s t) : Keeps s (finishPiece p t) :=
  Keeps.ite (onDch_keeps (dropPiece_keeps h)) (applyPiece_keeps (Keeps.ite (fillLine_keeps (buildSegment_keeps
      (dropPiece_keeps h))) (buildSegment_keeps (dropPiece_keeps h))))
theorem afterSave_keeps (h : Keeps s t) : Keeps s (afterSave t) :=
  Keeps.ite (onSlu_keeps (Keeps.ite (onPwr_keeps (onSlu_keeps h)) (startRails_keeps (onPwr_keeps (onSlu_keeps h)))))
      (shutdownAll_keeps (onSlu_keeps (onSlu_keeps h)))
theorem reportSave_keeps (h : Keeps s t) : Keeps s (reportSave t) :=
  onSlu_keeps (State.draw_keeps h)
theorem savePower_keeps (h : Keeps s t) : Keeps s (savePower t) :=
  Keeps.ite h (ldgEnqueue_keeps (onPwr_keeps (State.draw_keeps h)))
theorem sealInstant_keeps (h : Keeps s t) : Keeps s (sealInstant t) := by
  dsimp only [sealInstant]
  split
  · exact h
  · exact afterSave_keeps (ldgEnqueue_keeps (savePower_keeps (reportSave_keeps (Keeps.ite (onStore_keeps h) (onSlu_keeps
        (onStore_keeps h))))))
theorem saveUnsealed_keeps (h : Keeps s t) : Keeps s (saveUnsealed t) :=
  shutdownAll_keeps (onSlu_keeps (onStore_keeps h))
theorem readNext_keeps (h : Keeps s t) : Keeps s (readNext t) :=
  Keeps.foldl (fun h => requestValue_keeps h) h
theorem advanceSave_keeps (h : Keeps s t) : Keeps s (advanceSave t) :=
  Keeps.ite (Keeps.ite (onSlu_keeps h) (onSlu_keeps h)) (Keeps.ite (onSlu_keeps h) h)
theorem quiesceDone_keeps (h : Keeps s t) : Keeps s (quiesceDone t) :=
  Keeps.ite h (Keeps.ite (afterSave_keeps (ldgEnqueue_keeps (reportSave_keeps (onSlu_keeps (State.onCopy_keeps (Keeps.foldl
      (fun h => linkClear_keeps h) (Keeps.foldl (fun h => finishPiece_keeps h) (resolveTimeout_keeps h))))))))
      (advanceSave_keeps (readNext_keeps (onSlu_keeps (State.onCopy_keeps (Keeps.foldl (fun h => linkClear_keeps h)
      (Keeps.foldl (fun h => finishPiece_keeps h) (resolveTimeout_keeps h))))))))
theorem recordLine_keeps {l} (h : Keeps s t) : Keeps s (recordLine l t).2 := by
  dsimp only [recordLine]
  split
  · exact h
  · exact poisonMade_keeps (onSlu_keeps h.update)
theorem lineSaved_keeps {l} (h : Keeps s t) : Keeps s (lineSaved l t) := by
  dsimp only [lineSaved]
  split
  · exact onSlu_keeps h
  · exact State.setLine_keeps h
theorem onReady_keeps {f} (h : Keeps s t) : Keeps s (onReady t f) :=
  onStore_keeps h
theorem takeSpare_keeps {f} (h : Keeps s t) : Keeps s (takeSpare t f) := by
  dsimp only [takeSpare]
  split
  · exact h
  · split
    · exact h
    · exact onReady_keeps h
theorem placePage_keeps {n} (h : Keeps s t) : Keeps s (placePage n t) := by
  dsimp only [placePage]
  split
  · exact h
  · exact Keeps.ite h (takeSpare_keeps h)
theorem sluiceProgram_keeps {ppa us ok bytes} (h : Keeps s t) : Keeps s (sluiceProgram ppa us ok bytes t) :=
  onNch_keeps (onStore_keeps (State.emit_keeps h))
theorem logDone_keeps {us ok} (h : Keeps s t) : Keeps s (logDone us ok t) := by
  have hwritten : ∀ {ls : List Nat} {n p b}, Keeps s (sluiceProgram p us ok b
      (ls.foldl (fun (acc : List Rec × State) l => let (r, s') := recordLine l acc.2; (acc.1 ++ [r], s')) ([],
          placePage n t)).2) :=
    sluiceProgram_keeps (Keeps.foldl_snd (fun h => recordLine_keeps h) (placePage_keeps h))
  exact Keeps.ite (retireBlock_keeps hwritten) (readNext_keeps (Keeps.foldl (fun h => lineSaved_keeps
      (onReady_keeps h)) hwritten))
theorem metaDone_keeps {us ok} (h : Keeps s t) : Keeps s (metaDone us ok t) :=
  Keeps.ite h (Keeps.ite (retireBlock_keeps (sluiceProgram_keeps (placePage_keeps h))) (Keeps.ite (onReady_keeps (onSlu_keeps
      (sluiceProgram_keeps (placePage_keeps h)))) (onSlu_keeps (sluiceProgram_keeps (placePage_keeps h)))))
theorem placeSeal_keeps {b} (h : Keeps s t) : Keeps s (placeSeal b t) := by
  dsimp only [placeSeal]
  split
  · exact h
  · exact Keeps.ite h (takeSpare_keeps h)
theorem sealDone_keeps {b us ok} (h : Keeps s t) : Keeps s (sealDone b us ok t) :=
  Keeps.ite h (Keeps.ite (onSlu_keeps (sluiceProgram_keeps (placeSeal_keeps h))) (Keeps.ite (onSlu_keeps (retireBlock_keeps
      (sluiceProgram_keeps (placeSeal_keeps h)))) (onSlu_keeps (retireBlock_keeps (sluiceProgram_keeps (placeSeal_keeps h))))))
theorem saveProgramDone_keeps {part ok} (h : Keeps s t) : Keeps s (saveProgramDone part ok t) := by
  dsimp only [saveProgramDone]
  split
  · exact Keeps.ite (advanceSave_keeps (logDone_keeps h)) h
  · exact Keeps.ite (advanceSave_keeps (metaDone_keeps h)) h
  · exact Keeps.ite h (Keeps.ite (sealDone_keeps h) (Keeps.ite (saveUnsealed_keeps (sealDone_keeps h)) (sealInstant_keeps
        (sealDone_keeps h))))
  · exact Keeps.ite h (Keeps.ite (sealDone_keeps h) (Keeps.ite (saveUnsealed_keeps (sealDone_keeps h)) (sealInstant_keeps
        (sealDone_keeps h))))
theorem saveBankFloor_keeps (h : Keeps s t) : Keeps s (saveBankFloor t) := by
  dsimp only [saveBankFloor]
  split
  · exact saveUnsealed_keeps h
  · exact saveUnsealed_keeps h
  · exact saveUnsealed_keeps h
  · exact saveUnsealed_keeps h
  · exact h
theorem enterReady_keeps (h : Keeps s t) : Keeps s (enterReady t) :=
  Keeps.ite ((bkdAtReady_keeps (pwrAtReady_keeps (State.toDev_keeps h))).update) (logDue_keeps (logDue_keeps (State.raise_keeps
      (onSlu_keeps ((bkdAtReady_keeps (pwrAtReady_keeps (State.toDev_keeps h))).update)))))
theorem restartUnit_keeps {i} (h : Keeps s t) : Keeps s (restartUnit i t) := by
  dsimp only [restartUnit]
  split
  · exact h
  · split
    · exact State.toLife_keeps (State.setLife_keeps h)
    · exact Keeps.foldl (fun h => resyncAll_keeps h) (State.toLife_keeps (State.setLife_keeps h))
    · exact State.toLife_keeps (State.setLife_keeps h)
    · exact tribBegin_keeps (State.toLife_keeps (State.setLife_keeps h))
    · exact seqAgain_keeps (State.toLife_keeps (State.setLife_keeps h))
    · exact linkClear_keeps (State.toLife_keeps (State.setLife_keeps h))
    · exact linkClear_keeps (State.toLife_keeps (State.setLife_keeps h))
theorem settingsDue_keeps {c} (h : Keeps s t) : Keeps s (settingsDue c t) :=
  onScanCtx_keeps h
theorem contextsBack_keeps (h : Keeps s t) : Keeps s (contextsBack t) :=
  Keeps.foldl (fun h => Keeps.ite (settingsDue_keeps (toMode_keeps (State.onCtx_keeps h))) (toMode_keeps
      (State.onCtx_keeps h))) h
theorem storeBack_keeps (h : Keeps s t) : Keeps s (storeBack t) :=
  issueAll_keeps (Keeps.ite (rotateRings_keeps (Keeps.ite (tableChanged_keeps (Keeps.ite h (writeRoot_keeps h))) (Keeps.ite h
      (writeRoot_keeps h)))) (Keeps.ite (tableChanged_keeps (Keeps.ite h (writeRoot_keeps h))) (Keeps.ite h
      (writeRoot_keeps h))))
theorem resumeReady_keeps (h : Keeps s t) : Keeps s (resumeReady t) :=
  Keeps.ite h (storeBack_keeps (onSlu_keeps (by
    split
    · exact State.raise_keeps (mapRails_keeps (Keeps.foldl (fun h => Keeps.ite h (State.toLife_keeps h)) (Keeps.foldl
          (fun h => restartUnit_keeps h) (Keeps.foldl (fun h => haltMq_keeps h) (contextsBack_keeps (enterReady_keeps
          ((onSlu_keeps h).update)))))))
    · exact mapRails_keeps (Keeps.foldl (fun h => Keeps.ite h (State.toLife_keeps h)) (Keeps.foldl
          (fun h => restartUnit_keeps h) (Keeps.foldl (fun h => haltMq_keeps h) (contextsBack_keeps (enterReady_keeps
          ((onSlu_keeps h).update)))))))))
/-! ### Restores -/
theorem sweep_keeps (h : Keeps s t) : Keeps s (sweep t) :=
  freeBlocks_keeps h
theorem findReady_keeps (h : Keeps s t) : Keeps s (findReady t) :=
  Keeps.foldl (fun h => nandOp_keeps h) (sweep_keeps (by
    split
    · exact h
    · exact Keeps.ite (onStore_keeps h) (onStore_keeps h)))
theorem reportSealed_keeps (h : Keeps s t) : Keeps s (reportSealed t) := by
  dsimp only [reportSealed]
  split
  · exact onSlu_keeps h
  · split
    · exact h
    · exact onSlu_keeps (State.draw_keeps h)
theorem tellLost_keeps (h : Keeps s t) : Keeps s (tellLost t) := by
  dsimp only [tellLost]
  split
  · exact State.raise_keeps h
  · exact h
theorem ctxBack_keeps {c r} (h : Keeps s t) : Keeps s (ctxBack c r t) :=
  toMode_keeps (State.onCtx_keeps h)
theorem recordsBack_keeps (h : Keeps s t) : Keeps s (recordsBack t) := by
  dsimp only [recordsBack]
  split
  · exact h
  · exact Keeps.foldl (fun h => Keeps.ite (ctxBack_keeps h) h) h
theorem dropLoads_keeps (h : Keeps s t) : Keeps s (dropLoads t) :=
  Keeps.ite (Keeps.foldl (fun h => placeMarker_keeps (State.setSeg_keeps h)) h) (State.raise_keeps (Keeps.foldl
      (fun h => placeMarker_keeps (State.setSeg_keeps h)) h))
theorem dropEmptied_keeps {k} (h : Keeps s t) : Keeps s (dropEmptied k t).2 :=
  Keeps.foldl (fun h => placeMarker_keeps h) h
theorem checkPool_keeps (h : Keeps s t) : Keeps s (checkPool t) :=
  Keeps.ite (State.raise_keeps h.updateRet) h.updateRet
theorem rebaseAll_keeps (h : Keeps s t) : Keeps s (rebaseAll t) :=
  onScan_keeps h
theorem startUnformatted_keeps {cause} (h : Keeps s t) : Keeps s (startUnformatted cause t) := by
  refine enterReady_keeps (checkPool_keeps (checkCapacity_keeps ((onSlu_keeps (State.raise_keeps (onStore_keeps h))).stores
      (fun hok => ?_) rfl)))
  obtain ⟨hdram, hshadow, hlines, _⟩ := hok
  exact ⟨hdram, hshadow, hlines, rfl⟩
theorem applyMarker_mwf (segs : AMap Seg) (m : Marker) (h : mwf Seg.new segs = true) : mwf Seg.new
    (applyMarker segs m) = true := by
  unfold applyMarker
  induction List.range' m.first m.count generalizing segs with
  | nil => exact h
  | cons g gs ih => exact ih _ (mset_mwf _ _ _ _ h)
theorem asTable_mwf (segs : AMap Seg) : mwf Seg.new (asTable segs) = true := by
  unfold asTable
  generalize hempty : ([] : AMap Seg) = base
  have hbase : mwf Seg.new base = true := hempty ▸ rfl
  clear hempty
  induction segs generalizing base with
  | nil => exact hbase
  | cons p segs ih => exact ih _ (mset_mwf _ _ _ _ hbase)
theorem applyMarkers_mwf (ms : List Marker) (segs : AMap Seg) (h : mwf Seg.new segs = true) :
    mwf Seg.new (ms.foldl applyMarker segs) = true := by
  induction ms generalizing segs with
  | nil => exact h
  | cons m ms ih => exact ih _ (applyMarker_mwf segs m h)
/-- A restore rebuilds the segment table in canonical form, whatever the checkpoint and the seal spell. -/
theorem tableOf_mwf (s : State) (upTo : Key → Bool) : mwf Seg.new (tableOf s upTo) = true :=
  mwf_filter _ _ _ (applyMarkers_mwf _ _ (asTable_mwf _))
theorem tableFound_mwf (s : State) : mwf Seg.new (tableFound s) = true := tableOf_mwf _ _
theorem startRestore_keeps (h : Keeps s t) : Keeps s (startRestore t) := by
  refine sendEpochs_keeps (checkPool_keeps (checkCapacity_keeps (onScan_keeps (rebaseAll_keeps (onSlu_keeps (dropEmptied_keeps
    (dropLoads_keeps (recordsBack_keeps ((reportSealed_keeps (tellLost_keeps (onSlu_keeps h))).stores
        (fun hok => ?_) rfl)))))))))
  obtain ⟨hdram, hshadow, hlines, _⟩ := hok
  exact ⟨hdram, hshadow, hlines, tableFound_mwf _⟩
theorem anchorVoteDone_keeps (h : Keeps s t) : Keeps s (anchorVoteDone t) := by
  dsimp only [anchorVoteDone]
  split
  · exact h
  · split
    · exact startUnformatted_keeps (castVote_keeps h)
    · exact startRestore_keeps (findReady_keeps (by
    split
    · exact (castVote_keeps h).update
    · exact castVote_keeps h))
theorem release_keeps {c} (h : Keeps s t) : Keeps s (release c t) :=
  Keeps.ite h (Keeps.ite (settingsDue_keeps (State.raise_keeps (State.onCtx_keeps h))) (activateLayout_keeps (settingsDue_keeps
      (State.raise_keeps (State.onCtx_keeps h)))))
theorem releaseLazy_keeps (h : Keeps s t) : Keeps s (releaseLazy t) :=
  Keeps.ite h (Keeps.foldl (fun h => Keeps.ite (release_keeps h) h) (Keeps.ite (enterReady_keeps (h.updateBoot rfl)) h))
theorem releaseEager_keeps (h : Keeps s t) : Keeps s (releaseEager t) := by
  unfold releaseEager
  refine Keeps.ite h ?_
  extract_lets s1
  have hs1 : Keeps s s1 := Keeps.foldl (fun h => Keeps.ite (settingsDue_keeps (State.onCtx_keeps h)) (release_keeps h)) h
  clear_value s1
  exact Keeps.ite (enterReady_keeps (hs1.updateBoot rfl)) hs1
theorem restoreEnd_keeps (h : Keeps s t) : Keeps s (restoreEnd t) :=
  Keeps.ite h (State.raise_keeps (onSlu_keeps h))
theorem wakePrefetch_keeps (h : Keeps s t) : Keeps s (wakePrefetch t) :=
  wake_keeps h
theorem streamReads_keeps (h : Keeps s t) : Keeps s (streamReads t) := by
  dsimp only [streamReads]
  split
  · exact h
  · exact Keeps.ite h (Keeps.foldl (fun h => nandRead_keeps h) h)
theorem afterIn_keeps (h : Keeps s t) : Keeps s (afterIn t) :=
  streamReads_keeps (wakePrefetch_keeps (restoreEnd_keeps (Keeps.ite (releaseEager_keeps h) (releaseLazy_keeps h))))
theorem restoreAreaReady_keeps (h : Keeps s t) : Keeps s (restoreAreaReady t) :=
  Keeps.ite h (Keeps.ite (Keeps.ite (areaReadied_keeps h) (readyArea_keeps (areaReadied_keeps h))) (afterIn_keeps (onSlu_keeps
      (State.toDev_keeps (freeBlocks_keeps (onStore_keeps (Keeps.ite (areaReadied_keeps h) (readyArea_keeps
      (areaReadied_keeps h)))))))))
theorem bringSegment_keeps {g} (h : Keeps s t) : Keeps s (bringSegment g t) :=
  serveReads_keeps (onSlu_keeps (Keeps.foldl (fun h => fillLine_keeps h) (buildSegment_keeps (readsOver_keeps h))))
theorem restoreSegmentIn_keeps {g} (h : Keeps s t) : Keeps s (restoreSegmentIn g t) := by
  dsimp only [restoreSegmentIn]
  split
  · exact h
  · split
    · exact afterIn_keeps h
    · exact Keeps.ite (afterIn_keeps (bringSegment_keeps h)) h
theorem sluQuery_keeps {d} (h : Keeps s t) : Keeps s (sluQuery d t) :=
  command_keeps (fun h => finish_keeps h) h
theorem sluConfig_keeps {d} (h : Keeps s t) : Keeps s (sluConfig d t) :=
  command_keeps (fun h => storing_keeps h) h
theorem sluDetectSet_keeps {d} (h : Keeps s t) : Keeps s (sluDetectSet d t) :=
  command_keeps (fun h => storing_keeps h) h
theorem sluSaveTest_keeps {d} (h : Keeps s t) : Keeps s (sluSaveTest d t) :=
  command_keeps (fun h => Keeps.ite (finish_keeps h) (orderSave_keeps h)) h
theorem sluShutdown_keeps {d} (h : Keeps s t) : Keeps s (sluShutdown d t) :=
  command_keeps (fun h => Keeps.ite (finish_keeps h) (orderSave_keeps h)) h
theorem sluPrefetch_keeps {d} (h : Keeps s t) : Keeps s (sluPrefetch d t) :=
  command_keeps (fun h => Keeps.ite (finish_keeps h) (Keeps.ite (finish_keeps h) (Keeps.ite (finish_keeps (onSlu_keeps h))
      (running_keeps (onSlu_keeps h))))) h
theorem glbDeviceReset_keeps {d} (h : Keeps s t) : Keeps s (glbDeviceReset d t) :=
  command_keeps (fun h => orderSave_keeps (onPwr_keeps (Keeps.ite (wakeEvacuate_keeps (writeCheckpoint_keeps
      (weirLedgerRecord_keeps h))) (weirLedgerRecord_keeps h)))) h
/-! ### Settings -/
theorem calApply_keeps {d} (h : Keeps s t) : Keeps s (calApply d t) :=
  (State.onWeir_keeps h).updateRet
theorem settingApply_keeps {u} (h : Keeps s t) : Keeps s (settingApply u t) := by
  dsimp only [settingApply]
  split
  · exact h.updateRet
  · exact settleWeir_keeps (State.onWeir_keeps h)
  · exact calApply_keeps h
  · exact State.onWeir_keeps h
  · exact onSlu_keeps h
  · exact onSlu_keeps h
  · exact onStore_keeps h
  · exact scanConfigApply_keeps h
  · exact dchConfigApply_keeps h
  · exact fabPortApply_keeps h
  · exact errConfigApply_keeps h
  · exact tribConfigApply_keeps h
  · exact tribModApply_keeps h
  · exact seqConfigApply_keeps h
  · exact onMir_keeps h
  · exact onPwr_keeps h
  · exact h
theorem applyReady_keeps (h : Keeps s t) : Keeps s (applyReady t) :=
  Keeps.foldl (fun h => settingApply_keeps h) h.update
theorem groupsCorrected_keeps {n} (h : Keeps s t) : Keeps s (groupsCorrected n t) :=
  bucketAddN_keeps h.update
theorem ledgerPageWriteDone_keeps {ok corrected} (h : Keeps s t) : Keeps s (ledgerPageWriteDone ok corrected t) :=
  applyReady_keeps (pageWriteDone_keeps (groupsCorrected_keeps h))
/-! ### Start-up -/
theorem cutNand_keeps (h : Keeps s t) : Keeps s (cutNand t) :=
  onStore_keeps (Keeps.foldl (fun h => setBlk_keeps h) h)
theorem cutLedger_keeps (h : Keeps s t) : Keeps s (cutLedger t) :=
  (ldgCut_keeps h).update
theorem coreReset_keeps {chipid bootsrc testEn} (h : Keeps s t) : Keeps s (coreReset chipid bootsrc testEn t) := by
  exact ⟨fun _ => ⟨rfl, rfl, rfl, rfl⟩, h.2⟩
theorem coreResetRelease_keeps {chipid bootsrc testEn} (h : Keeps s t) : Keeps s (coreResetRelease chipid bootsrc testEn t) :=
  Keeps.ite h (coreReset_keeps h)
theorem vddAonPor_keeps {rising} (h : Keeps s t) : Keeps s (vddAonPor rising t) :=
  Keeps.ite h (Keeps.ite (readTable_keeps (onPwr_keeps h)) ⟨fun _ => ⟨rfl, rfl, rfl, rfl⟩, h.2⟩)
theorem startImage_keeps {copy x} (h : Keeps s t) : Keeps s (startImage copy x t) :=
  (h.updateBoot rfl).update
theorem noImage_keeps (h : Keeps s t) : Keeps s (noImage t) :=
  Keeps.ite (h.updateBoot rfl) (State.toDev_keeps (h.updateBoot rfl))
theorem copyBad_keeps {copy reason} (h : Keeps s t) : Keeps s (copyBad copy reason t) :=
  Keeps.ite h (State.raise_keeps h)
theorem imageVerified_keeps (h : Keeps s t) : Keeps s (imageVerified t) := by
  dsimp only [imageVerified]
  split
  · exact h
  · split
    · exact noImage_keeps (h.updateBoot rfl)
    · split
      · exact noImage_keeps h
      · split
        · exact noImage_keeps (copyBad_keeps (copyBad_keeps (h.updateBoot rfl)))
        · split
          · exact startImage_keeps (copyBad_keeps (copyBad_keeps (h.updateBoot rfl)))
          · exact copyBad_keeps (copyBad_keeps (h.updateBoot rfl))
theorem bootLoad_keeps {d given} (h : Keeps s t) : Keeps s (bootLoad d given t) :=
  command_keeps (fun h => Keeps.ite (finish_keeps h) (finish_keeps (h.updateBoot rfl))) h
theorem bootRun_keeps {d} (h : Keeps s t) : Keeps s (bootRun d t) :=
  command_keeps (fun h => Keeps.ite (finish_keeps h) (Keeps.ite (finish_keeps h) (finish_keeps (startImage_keeps h)))) h
theorem bootFwUpdate_keeps {d given} (h : Keeps s t) : Keeps s (bootFwUpdate d given t) :=
  command_keeps (fun h => Keeps.ite (finish_keeps h) (Keeps.ite (finish_keeps h) (Keeps.ite (finish_keeps
      (programCopy_keeps h)) (finish_keeps (programCopy_keeps (programCopy_keeps h)))))) h
theorem bootFwQuery_keeps {d} (h : Keeps s t) : Keeps s (bootFwQuery d t) :=
  command_keeps (fun h => finish_keeps h) h
/-- R512: a key whose revocation would be the last is refused, so a slot stays. -/
theorem revoked_left {revoked : BitVec 4} {k : Nat} (hleft : revoked ≠ 0xF)
    (hlast : ¬(revoked ||| BitVec.ofNat 4 (2 ^ k) = 0xF ∧ !revoked.getLsbD k)) : revoked ||| BitVec.ofNat 4 (2 ^ k) ≠ 0xF := by
  intro hall
  have hbit : revoked.getLsbD k = true := by
    rw [hall] at hlast
    simpa using hlast
  have hk : k < 4 := BitVec.lt_of_getLsbD hbit
  revert hleft hall hbit
  interval_cases k <;> revert revoked <;> decide
theorem bootKeyRevoke_keeps {d} (h : Keeps s t) : Keeps s (bootKeyRevoke d t) := by
  refine command_keeps (fun h => ?_) h
  dsimp only
  split
  · exact finish_keeps h
  · rename_i hleft
    refine finish_keeps ⟨h.1, fun hs => ?_⟩
    exact revoked_left (h.2 hs) fun hall => hleft (.inr hall)
theorem bootReset_keeps {d} (h : Keeps s t) : Keeps s (bootReset d t) :=
  command_keeps (fun h => Keeps.ite (finish_keeps h) (finish_keeps (h.updateBoot rfl))) h
theorem loadPolicy_keeps (h : Keeps s t) : Keeps s (loadPolicy t) := by
  dsimp only [loadPolicy]
  split
  · exact h
  · exact h.update
theorem loadCal_keeps (h : Keeps s t) : Keeps s (loadCal t) := by
  dsimp only [loadCal]
  split
  · exact h
  · exact State.onWeir_keeps h
theorem loadDch_keeps (h : Keeps s t) : Keeps s (loadDch t) :=
  (Keeps.foldl (fun h => withStored_keeps (fun h => onFab_keeps h) h) (withStored_keeps (fun h => h.update) (Keeps.foldl
      (fun h => withStored_keeps (fun h => onDch_keeps h) h) (withStored_keeps (fun h => h.update) h)))).updateRet
theorem loadDebt_keeps (h : Keeps s t) : Keeps s (loadDebt t) :=
  Keeps.ite (State.raise_keeps (State.onWeir_keeps h)) (State.onWeir_keeps h)
theorem ageNow_keeps {t'} (h : Keeps s t) : Keeps s (ageNow t' t).2 := by
  dsimp only [ageNow]
  split
  · exact h
  · split
    · exact State.draw_keeps h
    · exact h
theorem loadBank_keeps (h : Keeps s t) : Keeps s (loadBank t) := by
  dsimp only [loadBank]
  split
  · exact onPwr_keeps h
  · exact onPwr_keeps (ageNow_keeps h)
theorem loadCounts_keeps (h : Keeps s t) : Keeps s (loadCounts t) := by
  dsimp only [loadCounts]
  split
  · exact h
  · exact onMir_keeps (onSlu_keeps h)
theorem loadUnits_keeps (h : Keeps s t) : Keeps s (loadUnits t) := by
  unfold loadUnits
  extract_lets s1 s2 s3 s4 s5 s6 s7 s8
  have hs1 : Keeps s s1 := withStored_keeps (fun h => h.updateRet) h
  have hs3 : Keeps s s3 := withStored_keeps (fun h => onSlu_keeps h)
    (withStored_keeps (fun h => onSlu_keeps h) (withStored_keeps (fun h => State.onWeir_keeps h) hs1))
  have hs6 : Keeps s s6 := withStored_keeps (fun h => h.update)
    (withStored_keeps (fun h => onScan_keeps h) (withStored_keeps (fun h => onStore_keeps h) hs3))
  have hs7 : Keeps s s7 := Keeps.foldl (fun h => withStored_keeps (fun h => onSeqr_keeps h) (loadTrib_keeps h)) hs6
  exact withStored_keeps (fun h => onConf_keeps h) (withStored_keeps (fun h => onMir_keeps h) hs7)
theorem firmwareReady_keeps (h : Keeps s t) : Keeps s (firmwareReady t) := by
  dsimp only [firmwareReady]
  split
  · exact h
  · split
    · exact h
    · exact loadCounts_keeps (loadBank_keeps (loadDebt_keeps (loadUnits_keeps (loadDch_keeps (loadCal_keeps (loadPolicy_keeps
          (castVote_keeps (castVote_keeps (State.searched_keeps (State.searched_keeps (h.updateBoot rfl)))))))))))
theorem bringUp_keeps {cc i} (h : Keeps s t) : Keeps s (bringUp cc i t) :=
  toState_keeps (toState_keeps h)
theorem failUp_keeps {cc i code} (h : Keeps s t) : Keeps s (failUp cc i code t) :=
  State.raise_keeps (State.blame_keeps (toState_keeps (setFault_keeps (toState_keeps h))))
theorem trainDch_keeps {c ok} (h : Keeps s t) : Keeps s (trainDch c ok t) :=
  Keeps.ite (onDch_keeps (bringUp_keeps h)) (State.raise_keeps (failUp_keeps (onDch_keeps (State.draw_keeps h))))
theorem trainNch_keeps {c ok} (h : Keeps s t) : Keeps s (trainNch c ok t) :=
  Keeps.ite (bringUp_keeps (onNch_keeps (onNch_keeps h))) (Keeps.foldl (fun h => State.raise_keeps h) (failUp_keeps
      (onNch_keeps h)))
theorem takeNcfg_keeps (h : Keeps s t) : Keeps s (takeNcfg t) := by
  dsimp only [takeNcfg]
  split
  · exact onStore_keeps h
  · exact h
theorem trainingDone_keeps {dram nand} (h : Keeps s t) : Keeps s (trainingDone dram nand t) :=
  Keeps.ite h (Keeps.ite (State.toDev_keeps ((Keeps.foldl (fun h => trainDch_keeps h) h).updateBoot rfl)) (Keeps.ite
      (takeMembers_keeps (Keeps.foldl (fun h => linkClear_keeps (bringUp_keeps h)) ((issueAll_keeps (Keeps.foldl
      (fun h => trainNch_keeps h) (takeNcfg_keeps (Keeps.foldl (fun h => trainDch_keeps h) h)))).updateBoot rfl))) (Keeps.foldl
      (fun h => linkClear_keeps (bringUp_keeps h)) ((issueAll_keeps (Keeps.foldl (fun h => trainNch_keeps h) (takeNcfg_keeps
      (Keeps.foldl (fun h => trainDch_keeps h) h)))).updateBoot rfl))))
theorem perst_keeps (h : Keeps s t) : Keeps s (perst t) :=
  Keeps.ite h (Keeps.foldl (fun h => haltMq_keeps h)
    (Keeps.ite (setupFails_keeps (endHold_keeps (h.updateBoth rfl))) (endHold_keeps (h.updateBoth rfl))))
/-! ### Registers -/
theorem clearDch_keeps {n o} (h : Keeps s t) : Keeps s (clearDch n o t) :=
  Keeps.ite (Keeps.ite (onDch_keeps h) (Keeps.ite (onDch_keeps h) h)) (onDch_keeps h)
theorem clearNch_keeps {n o} (h : Keeps s t) : Keeps s (clearNch n o t) :=
  onNch_keeps h
theorem clearTrib_keeps {n o} (h : Keeps s t) : Keeps s (clearTrib n o t) :=
  onTrib_keeps h
theorem clearPort_keeps {l o} (h : Keeps s t) : Keeps s (clearPort l o t) :=
  Keeps.ite (onLink_keeps h) h
theorem clearErr_keeps {o} (h : Keeps s t) : Keeps s (clearErr o t) :=
  Keeps.ite (Keeps.ite (onBucket_keeps h) h) h.update
theorem clearRet_keeps {o} (h : Keeps s t) : Keeps s (clearRet o t) := by
  dsimp only [clearRet]
  split
  · exact h.updateRet
  · split
    · exact State.onCtx_keeps h
    · split
      · exact State.onWeir_keeps h
      · exact State.onWeir_keeps h
      · exact State.onWeir_keeps h
      · exact State.onCopy_keeps h
      · exact State.onCopy_keeps h
      · exact onSlu_keeps h
      · exact onSlu_keeps h
      · exact onSlu_keeps h
      · exact onStore_keeps h
      · exact onStore_keeps h
      · exact onStore_keeps h
      · exact h
theorem clearRc_keeps {off} (h : Keeps s t) : Keeps s (clearRc off t) := by
  dsimp only [clearRc]
  split
  · exact h.update
  · exact Keeps.ite (onMq_keeps h) h
  · exact Keeps.ite (onFab_keeps h) (Keeps.ite (onFab_keeps h) h)
  · exact clearErr_keeps h
  · exact Keeps.ite (onRail_keeps h) h
  · exact h.update
  · exact Keeps.ite (clearDch_keeps h) h
  · exact clearRet_keeps h
  · exact clearNch_keeps h
  · exact Keeps.ite (clearTrib_keeps h) h
  · exact Keeps.ite (onMir_keeps h) (Keeps.ite (clearPort_keeps h) h)
  · exact Keeps.ite (clearPort_keeps h) (onConf_keeps h)
  · exact onScan_keeps h
  · exact Keeps.ite (onSeqr_keeps h) h
theorem dropLatch_keeps {who off} (h : Keeps s t) : Keeps s (dropLatch who off t) :=
  h.update
theorem setLatch_keeps {who off v} (h : Keeps s t) : Keeps s (setLatch who off v t) :=
  (dropLatch_keeps h).update
theorem latchTime_keeps {who} (h : Keeps s t) : Keeps s (latchTime who t) :=
  h.update
theorem readOne_keeps {who off} (h : Keeps s t) : Keeps s (readOne who off t).2 := by
  dsimp only [readOne]
  split
  · exact latchTime_keeps h
  · split
    · exact setLatch_keeps h
    · split
      · exact dropLatch_keeps h
      · exact clearRc_keeps h
theorem aliasRead__keeps {who off ms} (h : Keeps s t) : Keeps s (aliasRead_ who off ms t).2 := by
  dsimp only [aliasRead_]
  split
  · exact h
  · split
    · exact (readOne_keeps h).update
    · exact readOne_keeps h
theorem readReg_keeps {who off} (h : Keeps s t) : Keeps s (readReg who off t).2 := by
  dsimp only [readReg]
  split
  · exact h
  · split
    · exact aliasRead__keeps h
    · exact readOne_keeps h
theorem regRead_keeps {who off} (h : Keeps s t) : Keeps s (regRead who off t) :=
  Keeps.ite h (State.emit_keeps (readReg_keeps h))
theorem readRow_keeps {who off} (h : Keeps s t) : Keeps s (readRow who off t) := by
  dsimp only [readRow]
  split
  · exact inStream_keeps (fun h => regRead_keeps h) h
  · exact regRead_keeps h
theorem rcRead_keeps {who off} (h : Keeps s t) : Keeps s (rcRead who off t) :=
  readRow_keeps h
theorem loHalfRead_keeps {who off} (h : Keeps s t) : Keeps s (loHalfRead who off t) :=
  readRow_keeps h
theorem aliasRead_keeps {who off} (h : Keeps s t) : Keeps s (aliasRead who off t) :=
  readRow_keeps h
theorem rtcSecRead_keeps {who} (h : Keeps s t) : Keeps s (rtcSecRead who t) :=
  readRow_keeps h
theorem clearW1c_keeps {off v} (h : Keeps s t) : Keeps s (clearW1c off v t) := by
  dsimp only [clearW1c]
  split
  · split
    · exact h.update
    · exact h.update
    · exact h
  · exact Keeps.ite (onMq_keeps h) h
  · exact h.update
  · exact Keeps.ite (onPwr_keeps h) h
  · exact Keeps.ite h.update h
  · exact Keeps.ite (onDch_keeps h) h
  · exact Keeps.ite (onNch_keeps h) h
  · exact Keeps.ite (onTrib_keeps h) h
  · exact Keeps.ite (onLink_keeps h) h
  · exact Keeps.ite (onLink_keeps h) h
  · exact h
theorem bkdWrite_keeps {who o v} (h : Keeps s t) : Keeps s (bkdWrite who o v t) :=
  Keeps.ite (Keeps.ite h (send_keeps h)) (Keeps.ite (send_keeps (Keeps.ite h (send_keeps h))) (Keeps.ite (send_keeps
      (Keeps.ite h (send_keeps h))) (Keeps.ite (send_keeps (Keeps.ite h (send_keeps h))) (Keeps.ite (send_keeps (Keeps.ite h
      (send_keeps h))) (Keeps.ite h (send_keeps h))))))
theorem seqMemWrite_keeps {who off v} (h : Keeps s t) : Keeps s (seqMemWrite who off v t) :=
  Keeps.ite h (Keeps.ite (onSeqr_keeps h) (Keeps.ite (onSeqr_keeps h) h))
theorem writeOne_keeps {who off v} (h : Keeps s t) : Keeps s (writeOne who off v t) := by
  dsimp only [writeOne]
  split
  · exact bkdWrite_keeps h
  · split
    · exact seqMemWrite_keeps h
    · split
      · exact Keeps.ite (msixTableWrite_keeps h) h
      · split
        · exact Keeps.ite (ringAll_keeps h) h
        · split
          · exact mbxBootAddrLo_keeps h
          · split
            · exact mbxBootAddrHi_keeps h
            · split
              · split
                · exact mqSqTail_keeps h
                · exact mqCqHead_keeps h
                · exact mqEqHead_keeps h
                · exact h
              · exact clearW1c_keeps h
theorem writeReg_keeps {who off v} (h : Keeps s t) : Keeps s (writeReg who off v t) := by
  dsimp only [writeReg]
  split
  · exact Keeps.foldl (fun h => writeOne_keeps h) h
  · exact writeOne_keeps h
theorem regWrite_keeps {who off v} (h : Keeps s t) : Keeps s (regWrite who off v t) := by
  dsimp only [regWrite]
  split
  · exact h
  · split
    · exact Keeps.ite h (writeReg_keeps h)
    · exact Keeps.ite (writeReg_keeps h) h
theorem registerWrite_keeps {who off v} (h : Keeps s t) : Keeps s (registerWrite who off v t) := by
  dsimp only [registerWrite]
  split
  · exact Keeps.ite (gotPoison_keeps h) h
  · exact inStream_keeps (fun h => regWrite_keeps h) h
  · exact regWrite_keeps h
  · exact regWrite_keeps h
/-! ### The host stream -/
theorem takeDesc_keeps {d op inl} (h : Keeps s t) : Keeps s (takeDesc d op inl t) := by
  dsimp only [takeDesc]
  split
  · exact recordRefused_keeps h
  · split
    · exact recordRefused_keeps h
    · exact accept_keeps h
theorem descriptorFetch_keeps {q raw} (h : Keeps s t) : Keeps s (descriptorFetch q raw t) :=
  Keeps.ite h (takeDesc_keeps (onMq_keeps h))
theorem svcTake_keeps {f} (h : Keeps s t) : Keeps s (svcTake f t) :=
  Keeps.ite h (Keeps.ite (takeDesc_keeps h) (Keeps.ite (State.emit_keeps (readReg_keeps h)) (regWrite_keeps h)))
theorem svcFrame__keeps {f} (h : Keeps s t) : Keeps s (svcFrame_ f t) := by
  dsimp only [svcFrame_]
  split
  · exact h
  · split
    · exact svcError_keeps h
    · exact svcTake_keeps h
theorem ringDoorbells_keeps {ws} (h : Keeps s t) : Keeps s (ringDoorbells ws t) :=
  Keeps.ite h (ringAll_keeps h)
theorem ctxdClose_keeps {ws} (h : Keeps s t) : Keeps s (ctxdClose ws t) :=
  inStream_keeps (fun h => ringDoorbells_keeps h) h
theorem windowTrap_keeps {r write off req} (h : Keeps s t) : Keeps s (windowTrap r write off req t) :=
  State.raiseLim_keeps h.update
theorem sendWrites_keeps {a bytes poison mgmt} (h : Keeps s t) : Keeps s (sendWrites a bytes poison mgmt t) :=
  Keeps.foldl (fun h => sendOn_keeps h) h
theorem bar2Offer_keeps {off req bytes poison} (h : Keeps s t) : (bar2Offer off req bytes poison t).Keeps s := by
  dsimp only [bar2Offer]
  split
  · exact windowTrap_keeps (h.frame rfl)
  · split
    · split
      · exact trivial
      · exact sendWrites_keeps (h.frame rfl)
    · split
      · exact countDropped_keeps (h.frame rfl)
      · exact takeWrite_keeps (h.frame rfl)
theorem bar2WriteNow_keeps {off req bytes poison} (h : Keeps s t) : Keeps s (bar2WriteNow off req bytes poison t) := by
  have htaken : (bar2Offer off req bytes poison t).Keeps s := bar2Offer_keeps h
  dsimp only [bar2WriteNow]
  split <;> rename_i heq <;> rw [heq] at htaken
  · exact htaken
  · exact htaken
  · exact holdWrite_keeps h
theorem bar2Write_keeps {off req bytes poison} (h : Keeps s t) : Keeps s (bar2Write off req bytes poison t) :=
  Keeps.ite h (inStream_keeps (fun h => settleWeir_keeps (bar2WriteNow_keeps h)) (Keeps.ite (gotPoison_keeps h) h))
theorem remoteRead_keeps {a len who} (h : Keeps s t) : Keeps s (remoteRead a len who t) :=
  sendOn_keeps (onConf_keeps h)
theorem bar2ReadNow_keeps {off req len} (h : Keeps s t) : Keeps s (bar2ReadNow off req len t) := by
  dsimp only [bar2ReadNow]
  split
  · exact gaveUr_keeps (windowTrap_keeps h.update)
  · exact Keeps.ite (remoteRead_keeps h.update) (takeRead_keeps h.update)
theorem bar2Read_keeps {off req len} (h : Keeps s t) : Keeps s (bar2Read off req len t) :=
  Keeps.ite h (inStream_keeps (fun h => settleWeir_keeps (bar2ReadNow_keeps h)) h)
theorem fabricWrite_keeps {who a bytes buf} (h : Keeps s t) : Keeps s (fabricWrite who a bytes buf t) :=
  Keeps.ite (fabricWriteAccept_keeps h) (Keeps.ite (sendWrites_keeps (bufferErrors_keeps h)) h)
theorem fabricReads_keeps {fp a len words ue} (h : Keeps s t) : Keeps s (fabricReads fp a len words ue t) :=
  Keeps.ite (fabricRead_keeps h) (Keeps.ite (remoteRead_keeps h) h)
theorem offerHeld_keeps {held} (h : Keeps s t) : (offerHeld held t).Keeps s := by
  dsimp only [offerHeld]
  split
  · exact bar2Offer_keeps h
  · exact takeWrite_keeps h
theorem admitPort_keeps {fp n} (h : Keeps s t) : Keeps s (admitPort fp n t) := by
  induction n generalizing t with
  | zero => exact h
  | succ n ih =>
    dsimp only [admitPort]
    split
    · exact h
    · rename_i held _
      have htaken : (offerHeld held t).Keeps s := offerHeld_keeps h
      split <;> rename_i heq <;> rw [heq] at htaken
      · exact ih (settleWeir_keeps (htaken.frame rfl))
      · exact ih (settleWeir_keeps ((droppedWrite_keeps htaken).frame rfl))
      · exact Keeps.ite (ih (settleWeir_keeps ((endFirmware_keeps (refuseMgmt_keeps h)).frame rfl))) h
theorem admitAll_keeps {fp} (h : Keeps s t) : Keeps s (admitAll fp t) :=
  admitPort_keeps h
theorem admitHost_keeps (h : Keeps s t) : Keeps s (admitHost t) := by
  dsimp only [admitHost]
  split
  · exact endHold_keeps ((admitAll_keeps h).update)
  · exact Keeps.ite (State.onWeir_keeps (admitAll_keeps h)) (admitAll_keeps h)
theorem takeTlp_keeps {t'} (h : Keeps s t) : Keeps s (takeTlp t' t) := by
  dsimp only [takeTlp]
  split
  · exact settleWeir_keeps (bar2WriteNow_keeps h)
  · exact settleWeir_keeps (bar2ReadNow_keeps h)
  · exact regWrite_keeps h
  · exact regRead_keeps h
  · exact ringDoorbells_keeps h
theorem drainStream_keeps {n} (h : Keeps s t) : Keeps s (drainStream n t) := by
  induction n generalizing t with
  | zero => exact h
  | succ n ih =>
    dsimp only [drainStream]
    split
    · exact h
    · exact Keeps.ite h (ih (takeTlp_keeps (h.frame rfl)))
theorem admitMirror_keeps {p} (h : Keeps s t) : Keeps s (admitMirror p t) :=
  settleWeir_keeps (admitRxOf_keeps (admitAll_keeps h))
theorem admitConf_keeps {p} (h : Keeps s t) : Keeps s (admitConf p t) :=
  serveHold_keeps (admitAll_keeps h)
theorem admitScan_keeps (h : Keeps s t) : Keeps s (admitScan t) := by
  dsimp only [admitScan]
  split
  · exact Keeps.ite (settleWeir_keeps (scanLineVisit_keeps (admitAll_keeps h))) (admitAll_keeps h)
  · exact admitAll_keeps h
theorem admitPorts_keeps (h : Keeps s t) : Keeps s (admitPorts t) := by
  unfold admitPorts
  extract_lets panicking calm s0 s1
  have hs0 : Keeps s s0 := Keeps.foldl (fun h => admitAll_keeps h) h
  have hs1 : Keeps s s1 := Keeps.foldl (fun h => admitMirror_keeps h) (admitScan_keeps (Keeps.foldl
      (fun h => admitMirror_keeps h) hs0))
  clear_value s1
  exact admitHost_keeps (Keeps.foldl (fun h => admitConf_keeps h) hs1)
theorem weirAdmit_keeps (h : Keeps s t) : Keeps s (weirAdmit t) :=
  Keeps.ite h (settleWeir_keeps (drainStream_keeps (admitPorts_keeps h)))
/-! ### Ticks -/
theorem sendFrame_keeps (h : Keeps s t) : Keeps s (sendFrame t) := by
  dsimp only [sendFrame]
  split
  · exact h
  · exact State.emit_keeps h.update
theorem sendAcks_keeps (h : Keeps s t) : Keeps s (sendAcks t) :=
  Keeps.foldl (fun h => Keeps.ite (emitAck_keeps h) h) h
theorem tick_keeps (h : Keeps s t) : Keeps s (tick t) :=
  Keeps.ite (sendAcks_keeps (sendFrame_keeps h.update)) h

/-! ## Every command, and the tick -/
/-- A command answers a next state, and keeps what its arm keeps. -/
theorem exec_next_keeps (c : Instr) (s : State) : ∃ t, exec c s = .next t ∧ Keeps s t := by
  cases c with
  | glbIdentify => exact ⟨_, rfl, glbIdentify_keeps .refl⟩
  | authNarrow => exact ⟨_, rfl, authNarrow_keeps .refl⟩
  | authPolicyWrite => exact ⟨_, rfl, authPolicyWrite_keeps .refl⟩
  | glbDeviceReset => exact ⟨_, rfl, glbDeviceReset_keeps .refl⟩
  | mbxQueueCreate => exact ⟨_, rfl, mbxQueueCreate_keeps .refl⟩
  | mbxQueueDelete => exact ⟨_, rfl, settleWeir_keeps (mbxQueueDelete_keeps .refl)⟩
  | mbxEventMask => exact ⟨_, rfl, mbxEventMask_keeps .refl⟩
  | svcBaud => exact ⟨_, rfl, svcBaud_keeps .refl⟩
  | unitQuery => exact ⟨_, rfl, unitQuery_keeps .refl⟩
  | unitPowerUp => exact ⟨_, rfl, unitPowerUp_keeps .refl⟩
  | unitStart => exact ⟨_, rfl, unitStart_keeps .refl⟩
  | unitStopDrain => exact ⟨_, rfl, unitStopDrain_keeps .refl⟩
  | unitStopAbort => exact ⟨_, rfl, unitStopAbort_keeps .refl⟩
  | unitClearFault => exact ⟨_, rfl, unitClearFault_keeps .refl⟩
  | unitPowerDown => exact ⟨_, rfl, unitPowerDown_keeps .refl⟩
  | drainComplete => exact ⟨_, rfl, settleWeir_keeps (drainComplete_keeps .refl)⟩
  | drainTimeout => exact ⟨_, rfl, settleWeir_keeps (drainTimeout_keeps .refl)⟩
  | unitInternalFault => exact ⟨_, rfl, settleWeir_keeps (unitInternalFault_keeps .refl)⟩
  | segQuery => exact ⟨_, rfl, segQuery_keeps .refl⟩
  | segSetClass => exact ⟨_, rfl, settleWeir_keeps (segSetClass_keeps .refl)⟩
  | segSetFlags => exact ⟨_, rfl, segSetFlags_keeps .refl⟩
  | segLoadBegin => exact ⟨_, rfl, settleWeir_keeps (segLoadBegin_keeps .refl)⟩
  | segLoad => exact ⟨_, rfl, segLoad_keeps .refl⟩
  | segSeal => exact ⟨_, rfl, segSeal_keeps .refl⟩
  | segShadowSet => exact ⟨_, rfl, segShadowSet_keeps .refl⟩
  | winSet => exact ⟨_, rfl, winSet_keeps .refl⟩
  | winQuery => exact ⟨_, rfl, winQuery_keeps .refl⟩
  | ctxQuery => exact ⟨_, rfl, ctxQuery_keeps .refl⟩
  | ctxConfig => exact ⟨_, rfl, ctxConfig_keeps .refl⟩
  | ctxStart => exact ⟨_, rfl, settleWeir_keeps (ctxStart_keeps .refl)⟩
  | ctxClose => exact ⟨_, rfl, settleWeir_keeps (ctxClose_keeps .refl)⟩
  | ctxPause => exact ⟨_, rfl, settleWeir_keeps (ctxPause_keeps .refl)⟩
  | ctxResume => exact ⟨_, rfl, settleWeir_keeps (ctxResume_keeps .refl)⟩
  | ctxAbandon => exact ⟨_, rfl, settleWeir_keeps (ctxAbandon_keeps .refl)⟩
  | ctxStop => exact ⟨_, rfl, ctxStop_keeps .refl⟩
  | ctxLineQuery => exact ⟨_, rfl, ctxLineQuery_keeps .refl⟩
  | copyConfig => exact ⟨_, rfl, copyConfig_keeps .refl⟩
  | ctxSwap => exact ⟨_, rfl, ctxSwap_keeps .refl⟩
  | ctxSwapTimeout => exact ⟨_, rfl, ctxSwapTimeout_keeps .refl⟩
  | weirQuery => exact ⟨_, rfl, weirQuery_keeps .refl⟩
  | weirConfig => exact ⟨_, rfl, weirConfig_keeps .refl⟩
  | weirCalibrate => exact ⟨_, rfl, weirCalibrate_keeps .refl⟩
  | weirDebtClear => exact ⟨_, rfl, weirDebtClear_keeps .refl⟩
  | sluQuery => exact ⟨_, rfl, sluQuery_keeps .refl⟩
  | sluConfig => exact ⟨_, rfl, sluConfig_keeps .refl⟩
  | sluDetectSet => exact ⟨_, rfl, sluDetectSet_keeps .refl⟩
  | sluSaveTest => exact ⟨_, rfl, sluSaveTest_keeps .refl⟩
  | sluShutdown => exact ⟨_, rfl, sluShutdown_keeps .refl⟩
  | sluPrefetch => exact ⟨_, rfl, sluPrefetch_keeps .refl⟩
  | nstQuery => exact ⟨_, rfl, nstQuery_keeps .refl⟩
  | nstEvacuate => exact ⟨_, rfl, settleWeir_keeps (nstEvacuate_keeps .refl)⟩
  | seepConfig => exact ⟨_, rfl, seepConfig_keeps .refl⟩
  | seepAuditStart => exact ⟨_, rfl, seepAuditStart_keeps .refl⟩
  | nstFormat => exact ⟨_, rfl, settleWeir_keeps (nstFormat_keeps .refl)⟩
  | scanConfig => exact ⟨_, rfl, scanConfig_keeps .refl⟩
  | scanQuery => exact ⟨_, rfl, scanQuery_keeps .refl⟩
  | scanLayoutCheck => exact ⟨_, rfl, scanLayoutCheck_keeps .refl⟩
  | dchQuery => exact ⟨_, rfl, dchQuery_keeps .refl⟩
  | dchConfig => exact ⟨_, rfl, dchConfig_keeps .refl⟩
  | dchPopSet => exact ⟨_, rfl, dchPopSet_keeps .refl⟩
  | dchMapSet => exact ⟨_, rfl, dchMapSet_keeps .refl⟩
  | dchRankRetire => exact ⟨_, rfl, dchRankRetire_keeps .refl⟩
  | fabPortSet => exact ⟨_, rfl, fabPortSet_keeps .refl⟩
  | fabQuery => exact ⟨_, rfl, fabQuery_keeps .refl⟩
  | errQuery => exact ⟨_, rfl, errQuery_keeps .refl⟩
  | errConfig => exact ⟨_, rfl, errConfig_keeps .refl⟩
  | errInject => exact ⟨_, rfl, errInject_keeps .refl⟩
  | errBktReset => exact ⟨_, rfl, errBktReset_keeps .refl⟩
  | tribConfig => exact ⟨_, rfl, tribConfig_keeps .refl⟩
  | tribModSet => exact ⟨_, rfl, tribModSet_keeps .refl⟩
  | tribModEnable => exact ⟨_, rfl, tribModEnable_keeps .refl⟩
  | tribRollcall => exact ⟨_, rfl, tribRollcall_keeps .refl⟩
  | tribModQuery => exact ⟨_, rfl, tribModQuery_keeps .refl⟩
  | tribMdio => exact ⟨_, rfl, tribMdio_keeps .refl⟩
  | seqConfig => exact ⟨_, rfl, seqConfig_keeps .refl⟩
  | seqQuery => exact ⟨_, rfl, seqQuery_keeps .refl⟩
  | mirConfig => exact ⟨_, rfl, mirConfig_keeps .refl⟩
  | mirQuery => exact ⟨_, rfl, mirQuery_keeps .refl⟩
  | mirSwitch => exact ⟨_, rfl, settleWeir_keeps (mirSwitch_keeps .refl)⟩
  | mirResync => exact ⟨_, rfl, settleWeir_keeps (mirResync_keeps .refl)⟩
  | confQuery => exact ⟨_, rfl, confQuery_keeps .refl⟩
  | confConfig => exact ⟨_, rfl, confConfig_keeps .refl⟩
  | bootConfChips => exact ⟨_, rfl, bootConfChips_keeps .refl⟩
  | pwrQuery => exact ⟨_, rfl, pwrQuery_keeps .refl⟩
  | pwrRailQuery => exact ⟨_, rfl, pwrRailQuery_keeps .refl⟩
  | pwrTableWrite => exact ⟨_, rfl, pwrTableWrite_keeps .refl⟩
  | pwrTableRead => exact ⟨_, rfl, pwrTableRead_keeps .refl⟩
  | pwrGroup => exact ⟨_, rfl, pwrGroup_keeps .refl⟩
  | pwrLatchClear => exact ⟨_, rfl, pwrLatchClear_keeps .refl⟩
  | pwrHubMeasure => exact ⟨_, rfl, pwrHubMeasure_keeps .refl⟩
  | pwrCycle => exact ⟨_, rfl, pwrCycle_keeps .refl⟩
  | bkdTimeGet => exact ⟨_, rfl, bkdTimeGet_keeps .refl⟩
  | bkdTimeSet => exact ⟨_, rfl, bkdTimeSet_keeps .refl⟩
  | bkdAlarmSet => exact ⟨_, rfl, bkdAlarmSet_keeps .refl⟩
  | bkdAlarmAck => exact ⟨_, rfl, bkdAlarmAck_keeps .refl⟩
  | bkdSwoClear => exact ⟨_, rfl, bkdSwoClear_keeps .refl⟩
  | ldgQuery => exact ⟨_, rfl, ldgQuery_keeps .refl⟩
  | ldgTagWrite => exact ⟨_, rfl, ldgTagWrite_keeps .refl⟩
  | ldgTagRead => exact ⟨_, rfl, ldgTagRead_keeps .refl⟩
  | ldgEventRead => exact ⟨_, rfl, ldgEventRead_keeps .refl⟩
  | ldgUserAppend => exact ⟨_, rfl, ldgUserAppend_keeps .refl⟩
  | ldgUserRead => exact ⟨_, rfl, ldgUserRead_keeps .refl⟩
  | ldgRawRead => exact ⟨_, rfl, ldgRawRead_keeps .refl⟩
  | ldgRawWrite => exact ⟨_, rfl, ldgRawWrite_keeps .refl⟩
  | bootLoad => exact ⟨_, rfl, bootLoad_keeps .refl⟩
  | bootRun => exact ⟨_, rfl, bootRun_keeps .refl⟩
  | bootFwUpdate => exact ⟨_, rfl, bootFwUpdate_keeps .refl⟩
  | bootFwQuery => exact ⟨_, rfl, bootFwQuery_keeps .refl⟩
  | bootKeyRevoke => exact ⟨_, rfl, bootKeyRevoke_keeps .refl⟩
  | bootReset => exact ⟨_, rfl, bootReset_keeps .refl⟩
  | add => exact ⟨_, rfl, aluA_keeps .refl⟩
  | sub => exact ⟨_, rfl, aluA_keeps .refl⟩
  | and => exact ⟨_, rfl, aluA_keeps .refl⟩
  | or => exact ⟨_, rfl, aluA_keeps .refl⟩
  | xor => exact ⟨_, rfl, aluA_keeps .refl⟩
  | shl => exact ⟨_, rfl, aluA_keeps .refl⟩
  | shr => exact ⟨_, rfl, aluA_keeps .refl⟩
  | addi => exact ⟨_, rfl, aluI_keeps .refl⟩
  | andi => exact ⟨_, rfl, aluI_keeps .refl⟩
  | ori => exact ⟨_, rfl, aluI_keeps .refl⟩
  | xori => exact ⟨_, rfl, aluI_keeps .refl⟩
  | shli => exact ⟨_, rfl, aluI_keeps .refl⟩
  | shri => exact ⟨_, rfl, aluI_keeps .refl⟩
  | li => exact ⟨_, rfl, regRow_keeps .refl⟩
  | ldw => exact ⟨_, rfl, dataRow_keeps .refl⟩
  | ldb => exact ⟨_, rfl, dataRow_keeps .refl⟩
  | stw => exact ⟨_, rfl, dataRow_keeps .refl⟩
  | stb => exact ⟨_, rfl, dataRow_keeps .refl⟩
  | beq => exact ⟨_, rfl, branchRow_keeps .refl⟩
  | bne => exact ⟨_, rfl, branchRow_keeps .refl⟩
  | bltu => exact ⟨_, rfl, branchRow_keeps .refl⟩
  | bgeu => exact ⟨_, rfl, branchRow_keeps .refl⟩
  | jmp => exact ⟨_, rfl, seqRow_keeps (fun h => goTo_keeps h) .refl⟩
  | call => exact ⟨_, rfl, seqRow_keeps (fun h => goTo_keeps h) .refl⟩
  | jr => exact ⟨_, rfl, seqRow_keeps (fun h => goTo_keeps h) .refl⟩
  | chk => exact ⟨_, rfl, checkRow_keeps .refl⟩
  | chkr => exact ⟨_, rfl, checkRow_keeps .refl⟩
  | lcfg => exact ⟨_, rfl, lineRow_keeps .refl⟩
  | ldiv => exact ⟨_, rfl, lineRow_keeps .refl⟩
  | send => exact ⟨_, rfl, seqRow_keeps (fun h => Keeps.ite (waitFor_keeps h) (complete_keeps h)) .refl⟩
  | recv => exact ⟨_, rfl, seqRow_keeps (fun h => Keeps.ite (waitFor_keeps h) (complete_keeps h)) .refl⟩
  | de => exact ⟨_, rfl, seqRow_keeps (fun h => complete_keeps (onTrib_keeps h)) .refl⟩
  | seqDrain => exact ⟨_, rfl, seqRow_keeps (fun h => Keeps.ite (complete_keeps h) (waitFor_keeps h)) .refl⟩
  | wedge => exact ⟨_, rfl, seqRow_keeps (fun h => Keeps.ite (seqTrap_keeps h) (Keeps.ite (complete_keeps h)
      (waitFor_keeps h))) .refl⟩
  | seqWait => exact ⟨_, rfl, seqRow_keeps (fun h => Keeps.ite (complete_keeps h) (waitFor_keeps h)) .refl⟩
  | txl => exact ⟨_, rfl, seqRow_keeps (fun h => Keeps.ite (complete_keeps (setTxd_keeps h)) (waitFor_keeps h)) .refl⟩
  | rxl => exact ⟨_, rfl, seqRow_keeps (fun h => complete_keeps (onTrib_keeps h)) .refl⟩
  | istb => exact ⟨_, rfl, stageRow_keeps .refl⟩
  | istw => exact ⟨_, rfl, stageRow_keeps .refl⟩
  | ipub => exact ⟨_, rfl, seqRow_keeps (fun h => by
      split
      · exact complete_keeps h
      · exact Keeps.ite (complete_keeps h) (Keeps.ite (seqTrap_keeps h) (complete_keeps (stageInput_keeps h)))) .refl⟩
  | osel => exact ⟨_, rfl, seqRow_keeps (fun h => by
      split
      · exact complete_keeps h
      · exact complete_keeps h) .refl⟩
  | oldb => exact ⟨_, rfl, imageRow_keeps .refl⟩
  | oldw => exact ⟨_, rfl, imageRow_keeps .refl⟩
  | oack => exact ⟨_, rfl, seqRow_keeps (fun h => complete_keeps (by
      split
      · exact onMod_keeps h
      · exact h)) .refl⟩
  | mld => exact ⟨_, rfl, seqRow_keeps (fun h => Keeps.ite (seqTrap_keeps h) (Keeps.ite (askLine_keeps (waitFor_keeps h))
      (readWindow_keeps h))) .refl⟩
  | marr => exact ⟨_, rfl, seqRow_keeps (fun h => by
      split
      · exact Keeps.ite (seqTrap_keeps h) (complete_keeps h)
      · exact Keeps.ite (seqTrap_keeps h) (complete_keeps (marrive_keeps h))) .refl⟩
  | mdep => exact ⟨_, rfl, seqRow_keeps (fun h => complete_keeps (by
      split
      · exact mdepart_keeps h
      · exact h)) .refl⟩
  | mqry => exact ⟨_, rfl, seqRow_keeps (fun h => complete_keeps h) .refl⟩
  | mfs => exact ⟨_, rfl, seqRow_keeps (fun h => by
      split
      · exact seqTrap_keeps h
      · exact complete_keeps h) .refl⟩
  | halt => exact ⟨_, rfl, seqRow_keeps (fun h => Keeps.ite (portStopped_keeps (onTrib_keeps (onSeqr_keeps h)))
      (seqTrap_keeps h)) .refl⟩
  | nop => exact ⟨_, rfl, seqRow_keeps (fun h => complete_keeps h) .refl⟩
  | seqWaitEnd => exact ⟨_, rfl, seqWaitEnd_keeps .refl⟩
  | seqExecBegin => exact ⟨_, rfl, seqExecBegin_keeps .refl⟩
  | lineCharReceived => exact ⟨_, rfl, lineCharReceived_keeps .refl⟩
  | lineCharSent => exact ⟨_, rfl, lineCharSent_keeps .refl⟩
  | mqSqTail => exact ⟨_, rfl, inStream_keeps (fun h => mqSqTail_keeps h) .refl⟩
  | mqCqHead => exact ⟨_, rfl, inStream_keeps (fun h => mqCqHead_keeps h) .refl⟩
  | mqEqHead => exact ⟨_, rfl, inStream_keeps (fun h => mqEqHead_keeps h) .refl⟩
  | mbxBootAddrLo => exact ⟨_, rfl, inStream_keeps (fun h => mbxBootAddrLo_keeps h) .refl⟩
  | mbxBootAddrHi => exact ⟨_, rfl, inStream_keeps (fun h => mbxBootAddrHi_keeps h) .refl⟩
  | mbxSetupReadDone => exact ⟨_, rfl, mbxSetupReadDone_keeps .refl⟩
  | descriptorFetch => exact ⟨_, rfl, descriptorFetch_keeps .refl⟩
  | completionWrite => exact ⟨_, rfl, completionWrite_keeps .refl⟩
  | mqDmaFail => exact ⟨_, rfl, mqDmaFail_keeps .refl⟩
  | ctxdClose => exact ⟨_, rfl, ctxdClose_keeps .refl⟩
  | msixTableWrite => exact ⟨_, rfl, inStream_keeps (fun h => msixTableWrite_keeps h) .refl⟩
  | rcRead => exact ⟨_, rfl, rcRead_keeps .refl⟩
  | loHalfRead => exact ⟨_, rfl, loHalfRead_keeps .refl⟩
  | aliasRead => exact ⟨_, rfl, aliasRead_keeps .refl⟩
  | registerWrite => exact ⟨_, rfl, registerWrite_keeps .refl⟩
  | rtcSecRead => exact ⟨_, rfl, rtcSecRead_keeps .refl⟩
  | rtcHaltWrite => exact ⟨_, rfl, rtcHaltWrite_keeps .refl⟩
  | alarmArmWrite => exact ⟨_, rfl, alarmArmWrite_keeps .refl⟩
  | svcFrame => exact ⟨_, rfl, svcFrame__keeps .refl⟩
  | svcFrameTimeout => exact ⟨_, rfl, svcError_keeps .refl⟩
  | svcEnChange => exact ⟨_, rfl, svcEnChange_keeps .refl⟩
  | smbusReadWord => exact ⟨_, rfl, smbusReadWord_keeps .refl⟩
  | telemetryRefresh => exact ⟨_, rfl, telemetryRefresh_keeps .refl⟩
  | bar2Write => exact ⟨_, rfl, bar2Write_keeps .refl⟩
  | bar2Read => exact ⟨_, rfl, bar2Read_keeps .refl⟩
  | configRequest => exact ⟨_, rfl, configRequest_keeps .refl⟩
  | fabricWriteAccept => exact ⟨_, rfl, fabricWrite_keeps .refl⟩
  | lineWriteApply => exact ⟨_, rfl, settleWeir_keeps (Keeps.ite (wakeLoads_keeps (lineWriteApply_keeps .refl))
      (lineWriteApply_keeps .refl))⟩
  | fabricRead => exact ⟨_, rfl, fabricReads_keeps .refl⟩
  | weirAdmit => exact ⟨_, rfl, weirAdmit_keeps .refl⟩
  | weirRecompute => exact ⟨_, rfl, weirRecompute_keeps .refl⟩
  | softBucketRefill => exact ⟨_, rfl, softBucketRefill_keeps .refl⟩
  | cleanBucketRefill => exact ⟨_, rfl, cleanBucketRefill_keeps .refl⟩
  | weirDryHold => exact ⟨_, rfl, weirDryHold_keeps .refl⟩
  | weirLedgerRecord => exact ⟨_, rfl, weirLedgerRecord_keeps .refl⟩
  | copyBatch => exact ⟨_, rfl, copyBatch_keeps .refl⟩
  | copyDone => exact ⟨_, rfl, settleWeir_keeps (copyDone_keeps .refl)⟩
  | settle => exact ⟨_, rfl, settleWeir_keeps (settle_keeps .refl)⟩
  | copyStallLong => exact ⟨_, rfl, copyStallLong_keeps .refl⟩
  | closingEnd => exact ⟨_, rfl, closingEnd_keeps .refl⟩
  | deferredCloseTaken => exact ⟨_, rfl, settleWeir_keeps (deferredCloseTaken_keeps .refl)⟩
  | agingVisit => exact ⟨_, rfl, settleWeir_keeps (agingVisit_keeps .refl)⟩
  | agingDone => exact ⟨_, rfl, Keeps.ite (settleWeir_keeps (handOver_keeps (agingDone_keeps .refl))) (agingDone_keeps .refl)⟩
  | ctxWatchdogExpire => exact ⟨_, rfl, settleWeir_keeps (ctxWatchdogExpire_keeps .refl)⟩
  | vinTrip => exact ⟨_, rfl, vinTrip_keeps .refl⟩
  | pfailInAssert => exact ⟨_, rfl, pfailInAssert_keeps .refl⟩
  | pfailExternal => exact ⟨_, rfl, pfailExternal_keeps .refl⟩
  | refclkLoss => exact ⟨_, rfl, refclkLoss_keeps .refl⟩
  | internalUe => exact ⟨_, rfl, internalUe_keeps .refl⟩
  | saveT0 => exact ⟨_, rfl, settleWeir_keeps (saveT0_keeps .refl)⟩
  | quiesceDone => exact ⟨_, rfl, settleWeir_keeps (quiesceDone_keeps .refl)⟩
  | saveProgramDone => exact ⟨_, rfl, settleWeir_keeps (saveProgramDone_keeps .refl)⟩
  | saveBankFloor => exact ⟨_, rfl, settleWeir_keeps (saveBankFloor_keeps .refl)⟩
  | inputGood => exact ⟨_, rfl, inputGood_keeps .refl⟩
  | resumeReady => exact ⟨_, rfl, settleWeir_keeps (resumeReady_keeps .refl)⟩
  | anchorVoteDone => exact ⟨_, rfl, settleWeir_keeps (anchorVoteDone_keeps .refl)⟩
  | restoreAreaReady => exact ⟨_, rfl, settleWeir_keeps (restoreAreaReady_keeps .refl)⟩
  | segmentBuild => exact ⟨_, rfl, settleWeir_keeps (serveReads_keeps (buildSegment_keeps .refl))⟩
  | restoreSegmentIn => exact ⟨_, rfl, settleWeir_keeps (restoreSegmentIn_keeps .refl)⟩
  | demandFaultDone => exact ⟨_, rfl, settleWeir_keeps (demandFaultDone_keeps .refl)⟩
  | nandOpDone => exact ⟨_, rfl, settleWeir_keeps (nandOpDone_keeps .refl)⟩
  | nandOpTimeout => exact ⟨_, rfl, nandOpTimeout_keeps .refl⟩
  | nstChannelRestart => exact ⟨_, rfl, settleWeir_keeps (nstChannelRestart_keeps .refl)⟩
  | journalPageIssue => exact ⟨_, rfl, Keeps.ite (issuePage_keeps .refl) .refl⟩
  | seepMerge => exact ⟨_, rfl, seepMerge_keeps .refl⟩
  | checkpointWrite => exact ⟨_, rfl, checkpointWrite_keeps .refl⟩
  | areaReady => exact ⟨_, rfl, settleWeir_keeps (Keeps.ite (preEraseNext_keeps (readyArea_keeps
      (areaReadied_keeps .refl))) .refl)⟩
  | ringRotate => exact ⟨_, rfl, ringRotate_keeps .refl⟩
  | staticSpread => exact ⟨_, rfl, staticSpread_keeps .refl⟩
  | auditLine => exact ⟨_, rfl, settleWeir_keeps (auditLine_keeps .refl)⟩
  | auditPage => exact ⟨_, rfl, settleWeir_keeps (auditPage_keeps .refl)⟩
  | scanPassStart => exact ⟨_, rfl, scanPassStart_keeps .refl⟩
  | scanLineVisit => exact ⟨_, rfl, settleWeir_keeps (scanLineVisit_keeps .refl)⟩
  | outputCapture => exact ⟨_, rfl, outputCapture_keeps .refl⟩
  | dchCommandSlot => exact ⟨_, rfl, dchCommandSlot_keeps .refl⟩
  | dramRequestDone => exact ⟨_, rfl, settleWeir_keeps (dramRequestDone_keeps .refl)⟩
  | refreshDue => exact ⟨_, rfl, refreshDue_keeps .refl⟩
  | dramTempRead => exact ⟨_, rfl, dramTempRead_keeps .refl⟩
  | zqcsDue => exact ⟨_, rfl, zqcsDue_keeps .refl⟩
  | dqsRecentre => exact ⟨_, rfl, dqsRecentre_keeps .refl⟩
  | alertN => exact ⟨_, rfl, alertN_keeps .refl⟩
  | dchResponseTimeout => exact ⟨_, rfl, dchFaultFree_keeps .refl⟩
  | dchRestartAttempt => exact ⟨_, rfl, settleWeir_keeps (dchRestartAttempt_keeps .refl)⟩
  | migrationLine => exact ⟨_, rfl, settleWeir_keeps (migrationLine_keeps .refl)⟩
  | fabPanic => exact ⟨_, rfl, fabPanic_keeps .refl⟩
  | bucketTick => exact ⟨_, rfl, bucketTick_keeps .refl⟩
  | voteRepair => exact ⟨_, rfl, voteRepair_keeps .refl⟩
  | pollCycleStart => exact ⟨_, rfl, pollCycleStart_keeps .refl⟩
  | poll => exact ⟨_, rfl, poll_keeps .refl⟩
  | dataReply => exact ⟨_, rfl, dataReply_keeps .refl⟩
  | replyTimeout => exact ⟨_, rfl, replyTimeout_keeps .refl⟩
  | identify => exact ⟨_, rfl, identify_keeps .refl⟩
  | claim => exact ⟨_, rfl, claim_keeps .refl⟩
  | rollcallWindowClose => exact ⟨_, rfl, rollcallWindowClose_keeps .refl⟩
  | inputStore => exact ⟨_, rfl, inputStore_keeps .refl⟩
  | inputLatchExpire => exact ⟨_, rfl, inputLatchExpire_keeps .refl⟩
  | phyStatusPoll => exact ⟨_, rfl, phyStatusPoll_keeps .refl⟩
  | listenMissWindow => exact ⟨_, rfl, listenMissWindow_keeps .refl⟩
  | tokenChange => exact ⟨_, rfl, tokenChange_keeps .refl⟩
  | mdioDone => exact ⟨_, rfl, mdioDone_keeps .refl⟩
  | mirLinkRetrain => exact ⟨_, rfl, mirLinkRetrain_keeps .refl⟩
  | linkTrained => exact ⟨_, rfl, linkTrained_keeps .refl⟩
  | replayTimeout => exact ⟨_, rfl, replayTimeout_keeps .refl⟩
  | linkFrame => exact ⟨_, rfl, linkFrame_keeps .refl⟩
  | frameCrcBad => exact ⟨_, rfl, frameCrcBad_keeps .refl⟩
  | helloSend => exact ⟨_, rfl, helloSend_keeps .refl⟩
  | helloFrame => exact ⟨_, rfl, helloFrame_keeps .refl⟩
  | packetBegin => exact ⟨_, rfl, packetBegin_keeps .refl⟩
  | latestPacketDue => exact ⟨_, rfl, latestPacketDue_keeps .refl⟩
  | linesFrame => exact ⟨_, rfl, linesFrame_keeps .refl⟩
  | epochEnd => exact ⟨_, rfl, epochEndFrame_keeps .refl⟩
  | packetApply => exact ⟨_, rfl, settleWeir_keeps (admitRx_keeps (packetApply_keeps .refl))⟩
  | restartFrame => exact ⟨_, rfl, restartFrame_keeps .refl⟩
  | ackFrame => exact ⟨_, rfl, ackFrame_keeps .refl⟩
  | handover => exact ⟨_, rfl, handover_keeps .refl⟩
  | dying => exact ⟨_, rfl, dying_keeps .refl⟩
  | mirDeadTimeout => exact ⟨_, rfl, settleWeir_keeps (mirDeadTimeout_keeps .refl)⟩
  | joinSend => exact ⟨_, rfl, joinSend_keeps .refl⟩
  | joinFrame => exact ⟨_, rfl, joinFrame_keeps .refl⟩
  | formed => exact ⟨_, rfl, formedFrame_keeps .refl⟩
  | confFormTimeout => exact ⟨_, rfl, confFormTimeout_keeps .refl⟩
  | confFormRetry => exact ⟨_, rfl, confFormRetry_keeps .refl⟩
  | wr => exact ⟨_, rfl, wr_keeps .refl⟩
  | rdReq => exact ⟨_, rfl, rdReq_keeps .refl⟩
  | rdCpl => exact ⟨_, rfl, rdCpl_keeps .refl⟩
  | prepare => exact ⟨_, rfl, prepare_keeps .refl⟩
  | prepared => exact ⟨_, rfl, prepared_keeps .refl⟩
  | commit => exact ⟨_, rfl, commit_keeps .refl⟩
  | abandon => exact ⟨_, rfl, abandon_keeps .refl⟩
  | resolveFrame => exact ⟨_, rfl, resolveFrame_keeps .refl⟩
  | resolveTimeout => exact ⟨_, rfl, settleWeir_keeps (resolveTimeout_keeps .refl)⟩
  | ctxsync => exact ⟨_, rfl, ctxsync_keeps .refl⟩
  | lostFrame => exact ⟨_, rfl, lostFrame_keeps .refl⟩
  | peerLost => exact ⟨_, rfl, settleWeir_keeps (peerLost_keeps .refl)⟩
  | epochs => exact ⟨_, rfl, epochsFrame_keeps .refl⟩
  | roleFrame => exact ⟨_, rfl, roleFrame_keeps .refl⟩
  | applyEpoch => exact ⟨_, rfl, applyEpoch_keeps .refl⟩
  | haveEpoch => exact ⟨_, rfl, haveEpoch_keeps .refl⟩
  | switchFrame => exact ⟨_, rfl, switchFrame_keeps .refl⟩
  | confLinkIdle => exact ⟨_, rfl, confLinkIdle_keeps .refl⟩
  | elasticLimit => exact ⟨_, rfl, elasticLimit_keeps .refl⟩
  | railExcursion => exact ⟨_, rfl, railExcursion_keeps .refl⟩
  | railStable => exact ⟨_, rfl, railStable_keeps .refl⟩
  | railRiseTimeout => exact ⟨_, rfl, railRiseTimeout_keeps .refl⟩
  | railEnable => exact ⟨_, rfl, railEnable_keeps .refl⟩
  | sequenceStart => exact ⟨_, rfl, sequenceStart_keeps .refl⟩
  | railDisable => exact ⟨_, rfl, railDisable_keeps .refl⟩
  | railFallen => exact ⟨_, rfl, railFallen_keeps .refl⟩
  | railFallSlow => exact ⟨_, rfl, railFallSlow_keeps .refl⟩
  | retryOffExpire => exact ⟨_, rfl, retryOffExpire_keeps .refl⟩
  | minOffExpire => exact ⟨_, rfl, minOffExpire_keeps .refl⟩
  | rstoutStretchEnd => exact ⟨_, rfl, rstoutStretchEnd_keeps .refl⟩
  | vddAonPor => exact ⟨_, rfl, vddAonPor_keeps .refl⟩
  | hubSample => exact ⟨_, rfl, hubSample_keeps .refl⟩
  | hubChargeTimeout => exact ⟨_, rfl, hubChargeTimeout_keeps .refl⟩
  | hubMeasDue => exact ⟨_, rfl, hubMeasDue_keeps .refl⟩
  | hubMeasEnd => exact ⟨_, rfl, hubMeasEnd_keeps .refl⟩
  | subsecTick => exact ⟨_, rfl, subsecTick_keeps .refl⟩
  | vbatSwitch => exact ⟨_, rfl, vbatSwitch_keeps .refl⟩
  | vbatMeasure => exact ⟨_, rfl, vbatMeasure_keeps .refl⟩
  | oscStop => exact ⟨_, rfl, oscStop_keeps .refl⟩
  | bkdDomainReset => exact ⟨_, rfl, bkdDomainReset_keeps .refl⟩
  | bkdWriteArrive => exact ⟨_, rfl, bkdWriteArrive_keeps .refl⟩
  | ledgerPageWriteDone => exact ⟨_, rfl, ledgerPageWriteDone_keeps .refl⟩
  | eventLogWrite => exact ⟨_, rfl, eventLogWrite_keeps .refl⟩
  | coreResetRelease => exact ⟨_, rfl, coreResetRelease_keeps .refl⟩
  | imageVerified => exact ⟨_, rfl, imageVerified_keeps .refl⟩
  | firmwareReady => exact ⟨_, rfl, firmwareReady_keeps .refl⟩
  | trainingDone => exact ⟨_, rfl, trainingDone_keeps .refl⟩
  | perst => exact ⟨_, rfl, settleWeir_keeps (perst_keeps .refl)⟩
  | assignReceived => exact ⟨_, rfl, assignReceived_keeps .refl⟩
  | serialFrameIdle => exact ⟨_, rfl, serialFrameIdle_keeps .refl⟩
  | seepClean => exact ⟨_, rfl, seepClean_keeps .refl⟩
  | mirSwitchTimeout => exact ⟨_, rfl, mirSwitchTimeout_keeps .refl⟩
  | railGlitch => exact ⟨_, rfl, railGlitch_keeps .refl⟩
  | svcSyncError => exact ⟨_, rfl, svcError_keeps .refl⟩
  | svcLengthError => exact ⟨_, rfl, svcLengthError_keeps .refl⟩
  | bkdResetRelease => exact ⟨_, rfl, bkdResetRelease_keeps .refl⟩
  | pwrHubMeasureTimeout => exact ⟨_, rfl, pwrHubMeasureTimeout_keeps .refl⟩
/-- Taking a command from the queue keeps the stores, and so does what runs then: the command, or a tick. -/
theorem step_keeps (h : step s = .next t) : Keeps s t := by
  unfold step at h
  split at h
  · cases h
    exact tick_keeps .refl
  · next c rest _ =>
    obtain ⟨u, hu, hkeeps⟩ := exec_next_keeps c { s with pending := rest }
    cases hu.symm.trans h
    exact hkeeps
end keeps
/-- Settles O60: each operation of the model keeps the stores canonical and some key slot not revoked. -/
theorem everyStepKeepsInvariants : Obligations.EveryStepKeepsInvariants := by
  unfold Obligations.EveryStepKeepsInvariants
  exact fun s s' h => step_keeps h
end Sys2Proof.Machine

/-! # Statements that one operation of the model settles -/
namespace Sys2Proof.Machine
/-- Settles O1: `exec_next_keeps` finds every command's next state. -/
theorem stepTakesFront : Obligations.StepTakesFront := by
  refine ⟨fun _ _ _ => rfl, fun s hempty => ?_, fun c s => ?_⟩
  · simp [step, hempty]
  · obtain ⟨t, ht, -⟩ := exec_next_keeps c s
    exact ⟨t, ht⟩
/-- Settles O59. -/
theorem resetState : Obligations.ResetState := by
  refine ⟨⟨rfl, rfl, rfl, rfl⟩, rfl, rfl, rfl, fun r => ?_, fun g => rfl, by decide⟩
  simp [State.reset, Pwr.reset, Rail.reset]
/-! ## Refusals of R57 -/
theorem command_of_refused {i : CmdInfo} {d : Desc} {rng : Bool} {f : List Nat → State → State} {s : State} {st : Nat}
    (haccepted : isAccepted s d i.op = false) (harrive : canArrive s i.op d.port = true) (hfirst : firstRefusal i d s = some st) :
    command i d rng f s = recordRefused i.op d st s := by
  simp [command, start, haccepted, harrive, hfirst]
/-- A refused descriptor can change the mailboxes and the counts and events of a refusal only. -/
theorem recordRefused_only (op : Nat) (d : Desc) (st : Nat) (s : State) :
    (recordRefused op d st s).ret = s.ret ∧ (recordRefused op d st s).store = s.store ∧ (recordRefused op d st s).slu = s.slu ∧
      (recordRefused op d st s).life = s.life ∧ (recordRefused op d st s).dch = s.dch ∧ (recordRefused op d st s).trib = s.trib ∧
      (recordRefused op d st s).seqr = s.seqr ∧ (recordRefused op d st s).pwr = s.pwr ∧ (recordRefused op d st s).bkd = s.bkd ∧
      (recordRefused op d st s).ldg = s.ldg := by
  unfold recordRefused
  split <;> dsimp only <;> split <;> simp
/-- Settles O8: `firstRefusal` makes the checks of R57 in their order, and a refusal records its status alone. -/
theorem firstFailingCheckDecides : Obligations.FirstFailingCheckDecides := by
  intro i d rng f s haccepted harrive
  refine ⟨fun hform => ?_, fun hform htag => ?_, fun hform htag hauth => ?_, fun st => recordRefused_only i.op d st s⟩
  · exact command_of_refused haccepted harrive (by simp [firstRefusal, hform])
  · exact command_of_refused haccepted harrive (firstRefusal_of_tagOutstanding hform htag)
  · exact command_of_refused haccepted harrive (by simp [firstRefusal, hform, htag, hauth])
/-! ## Raw writes of the ledger -/
/-- Settles O56. -/
theorem lockedFactoryRefusesRawWrites : Obligations.LockedFactoryRefusesRawWrites := by
  intro d g s hserved hbuf haddr hlocked
  have hrange : (bufOk (bufferOf s d 0x1117 g) (d.p 20 1) 1 64 && decide (d.p 16 4 < 0x40000)) = true := by
    simp only [hbuf, Bool.true_and, decide_eq_true_eq]
    omega
  have hfactory : d.p 16 4 / 64 < 128 := by omega
  show Host.Outcome.next (ldgRawWrite d g s) = _
  rw [ldgRawWrite, served_command hserved hrange, if_pos ⟨hlocked, hfactory⟩]
  rfl
/-! ## The admission of R161 -/
/-- A write is admitted where nothing falls short. -/
theorem shortfall_of_admits {fp : Fin 23} {k : PClass} {n : Nat} {s : State} (hclass : portClass fp = some k)
    (hadmits : admits s fp n = true) : (shortfall s k (portPanic s fp) n).none = true := by
  rw [admits, hclass] at hadmits
  simp only [Bool.and_eq_true] at hadmits
  exact hadmits.1
theorem shortfall_none_iff (s : State) (k : PClass) (panic : Bool) (n : Nat) : (shortfall s k panic n).none = true ↔
    (n = 0 ∨ s.count + n ≤ s.ret.weir.millpond) ∧ (extraOf (s.use k) (s.resLines k) n = 0 ∨
      (s.count + n ≤ capLines s k panic ∧ s.sharedUsed + extraOf (s.use k) (s.resLines k) n ≤ s.shared)) := by
  simp only [shortfall, Short.none, Bool.and_eq_true, beq_iff_eq]
  split <;> split <;> simp_all <;> omega
/-- Settles O24. -/
theorem admittedWritesStayWithinTheMillpond : Obligations.AdmittedWritesStayWithinTheMillpond := by
  intro fp k n s hclass hadmits
  exact (shortfall_none_iff s k (portPanic s fp) n).mp (shortfall_of_admits hclass hadmits)
/-! ## The newest record of a line (R240) -/
theorem keyLt_irrefl (a : Key) : keyLt a a = false := by simp [keyLt]
/-- Where neither `a` comes before `b` nor `b` before `c`, `a` does not come before `c`. -/
theorem keyLt_not_trans {a b c : Key} (hab : keyLt a b = false) (hbc : keyLt b c = false) : keyLt a c = false := by
  simp only [keyLt, Bool.or_eq_false_iff, decide_eq_false_iff_not, Bool.and_eq_false_imp, beq_iff_eq] at *
  omega
theorem keyLt_asymm {a b : Key} (hab : keyLt a b = true) : keyLt b a = false := by
  simp only [keyLt, Bool.or_eq_true, Bool.and_eq_true, Bool.or_eq_false_iff, decide_eq_true_eq, decide_eq_false_iff_not,
    Bool.and_eq_false_imp, beq_iff_eq] at *
  omega
/-- The search keeps a record that none it has seen is newer than. -/
theorem newestRec_spec (l : List Placed) (b : Option Placed) :
    (newestRec l b = none ↔ l = [] ∧ b = none) ∧
    ∀ y, newestRec l b = some y → (y ∈ l ∨ b = some y) ∧ (∀ x ∈ l, keyLt y.key x.key = false) ∧
      ∀ x, b = some x → keyLt y.key x.key = false := by
  induction l generalizing b with
  | nil =>
    refine ⟨by simp [newestRec], fun y hy => ?_⟩
    obtain rfl : b = some y := hy
    refine ⟨.inr rfl, by simp, ?_⟩
    rintro x hx
    cases hx
    exact keyLt_irrefl _
  | cons x l ih =>
    cases b with
    | none =>
      obtain ⟨hnone, hsome⟩ := ih (some x)
      refine ⟨by simp [newestRec, hnone], fun y hy => ?_⟩
      obtain ⟨hmem, hl, hx⟩ := hsome y hy
      simp only [Option.some.injEq] at hmem hx
      exact ⟨.inl (by simpa [eq_comm, or_comm] using hmem), by simpa using ⟨hx x rfl, hl⟩, by simp⟩
    | some b =>
      obtain ⟨hnone, hsome⟩ := ih (some (if keyLt x.key b.key then b else x))
      refine ⟨by simp [newestRec, hnone], fun y hy => ?_⟩
      obtain ⟨hmem, hl, hpick⟩ := hsome y hy
      have hbest := hpick _ rfl
      by_cases hlt : keyLt x.key b.key
      · rw [if_pos hlt] at hmem hbest
        have hyx := keyLt_not_trans hbest (keyLt_asymm hlt)
        exact ⟨hmem.imp_left (List.mem_cons_of_mem x), by simpa using ⟨hyx, hl⟩, by simpa using hbest⟩
      · rw [if_neg hlt] at hmem hbest
        have hyb := keyLt_not_trans hbest (Bool.eq_false_iff.mpr hlt)
        refine ⟨.inl ?_, by simpa using ⟨hbest, hl⟩, by simpa using hyb⟩
        simpa [eq_comm, or_comm] using hmem
/-- Settles O33: among the live records of the line the search keeps the newest. -/
theorem newestDurableValue : Obligations.NewestDurableValue := by
  intro st line
  obtain ⟨hnone, hsome⟩ := newestRec_spec ((liveRecords st (segOf line)).filter fun x => x.record.line = line) none
  refine ⟨fun y hy => ?_, ?_⟩
  · obtain ⟨hmem, hnewest, -⟩ := hsome y hy
    simp only [List.mem_filter, decide_eq_true_eq, reduceCtorEq, or_false] at hmem hnewest
    exact ⟨hmem.1, hmem.2, fun x hx hline => hnewest x ⟨hx, hline⟩⟩
  · rw [durableOf, hnone]
    simp [List.filter_eq_nil_iff]
/-! ## Timer cells (R268) -/
/-- Settles O37: each type of cell is one arm of the update. -/
theorem timerCells : Obligations.TimerCells := by
  intro n c
  refine ⟨?_, fun ht hin => ?_, fun ht hin => ?_, fun ht hin => ?_, fun ht hin hlast => ?_, fun ht hreset => ?_,
    fun ht hreset hidle => ?_, fun ht htiming => ?_, fun hacc => ?_⟩
  · unfold runCell
    dsimp only
    split <;> exact ⟨rfl, rfl, rfl, rfl⟩
  · simp [runCell, ht, hin]
  · simp [runCell, ht, hin]
  · simp [runCell, ht, hin]
  · simp [runCell, ht, hin, hlast, @eq_comm _ 0 c.preset]
  · simp [runCell, ht, hreset]
  · rcases hidle with hin | hlast <;> simp [runCell, *]
  · simp [runCell, ht, htiming]
  · unfold runCell
    dsimp only
    split <;> dsimp only <;> grind
end Sys2Proof.Machine

namespace Sys2Proof.Machine
/-! # The replay window of a port (R397) -/
section window
variable {s t : State} {k l : LinkId}
theorem linkOf_onLink (s : State) (l k : LinkId) (f : LinkPort → LinkPort) :
    linkOf (onLink s l f) k = if k = l then f (linkOf s k) else linkOf s k := by
  cases l <;> cases k <;> simp only [onLink, linkOf, LinkId.mir.injEq, LinkId.conf.injEq, reduceCtorEq, if_false]
  all_goals
    split
    · next h => rw [h, vmod_same]
    · next h => exact vmod_other _ _ _ _ (Ne.symm h)
theorem linkOf_congr (hmir : t.mir = s.mir) (hconf : t.conf = s.conf) : linkOf t k = linkOf s k := by
  cases k <;> simp [linkOf, hmir, hconf]
/-- The window and the next number decide whether a window is numbered. -/
theorem numbered_congr {p q : LinkPort} (hwindow : q.window = p.window) (hfseq : q.fseq = p.fseq) (h : Numbered p) : Numbered q := by
  simpa [Numbered, hwindow, hfseq] using h
/-- An update of a port that touches neither its window nor its numbering. -/
theorem onLink_numbered {f : LinkPort → LinkPort} (hwindow : ∀ p, (f p).window = p.window) (hfseq : ∀ p, (f p).fseq = p.fseq)
    (h : Numbered (linkOf s k)) : Numbered (linkOf (onLink s l f) k) := by
  rw [linkOf_onLink]
  split
  · exact numbered_congr (hwindow _) (hfseq _) h
  · exact h
theorem emitFrame_numbered {f : BitVec 16} {m : LinkMsg} (h : Numbered (linkOf s k)) : Numbered (linkOf (emitFrame l f m s) k) := by
  have hsent : Numbered (linkOf (onLink s l fun p => { p with sent := p.sent + 12 + msgLen m, owes := false }) k) :=
    onLink_numbered (fun _ => rfl) (fun _ => rfl) h
  exact (linkOf_congr rfl rfl : linkOf (emitFrame l f m s) k = _) ▸ hsent
/-- A frame that goes out takes the next number, where the window has room. -/
theorem numbered_append {p : LinkPort} {b : List LinkMsg} {m : LinkMsg} (h : Numbered p) (hroom : p.window.length < 64) :
    Numbered { p with backlog := b, window := p.window ++ [(p.fseq, m)], fseq := p.fseq + 1 } := by
  obtain ⟨-, hnumbers⟩ := h
  refine ⟨by simpa using hroom, ?_⟩
  simp only [List.map_append, hnumbers, List.map_cons, List.map_nil, List.length_append, List.length_singleton,
    List.range_succ]
  congr 1
  · refine List.map_congr_left fun i hi => ?_
    have hlt := List.mem_range.mp hi
    rw [show p.window.length + 1 - i = p.window.length - i + 1 by omega, BitVec.ofNat_add]
    bv_omega
  · simp
/-- What is left of a numbered window is numbered. -/
theorem numbered_suffix {p : LinkPort} {w : List (BitVec 16 × LinkMsg)} {r : List (BitVec 16 × Nat)} (h : Numbered p)
    (hsuffix : w <:+ p.window) : Numbered { p with window := w, replays := r } := by
  obtain ⟨hroom, hnumbers⟩ := h
  obtain ⟨u, hu⟩ := hsuffix
  have hlength : p.window.length = u.length + w.length := by rw [← hu, List.length_append]
  refine ⟨by simp only; omega, ?_⟩
  have hdrop := congrArg (List.drop u.length) hnumbers
  rw [← hu, List.map_append, List.drop_left' (by simp)] at hdrop
  rw [hdrop, ← List.map_drop, hu, hlength]
  refine List.ext_getElem (by simp) fun i _ _ => ?_
  simp only [List.getElem_map, List.getElem_drop, List.getElem_range]
  congr 2
  omega
theorem ackTo_suffix (a : BitVec 16) (w : List (BitVec 16 × LinkMsg)) : ackTo a w <:+ w := by
  unfold ackTo
  split
  · exact (List.drop_suffix _ _).trans (List.dropWhile_suffix _)
  · exact List.suffix_rfl
theorem pump_numbered {n : Nat} (h : Numbered (linkOf s k)) : Numbered (linkOf (pump l n s) k) := by
  induction n generalizing s with
  | zero => exact h
  | succ n ih =>
    unfold pump
    dsimp only
    split
    · exact h
    · split
      · next hup =>
        refine ih (emitFrame_numbered ?_)
        rw [linkOf_onLink]
        split
        · next heq =>
          subst heq
          simp only [Bool.and_eq_true, decide_eq_true_eq] at hup
          exact numbered_append (p := linkOf s k) h hup.2
        · exact h
      · exact h
theorem sendOn_numbered {m : LinkMsg} (h : Numbered (linkOf s k)) : Numbered (linkOf (sendOn l m s) k) := by
  unfold sendOn
  split
  · exact h
  · exact pump_numbered (onLink_numbered (fun _ => rfl) (fun _ => rfl) h)
theorem onPkt_numbered {n : Nat} {f : PktTx → PktTx} (h : Numbered (linkOf s k)) : Numbered (linkOf (onPkt n f s) k) := by
  cases k <;> exact h
/-- A property that each step of a fold keeps. -/
theorem foldl_invariant {α : Type} {P : State → Prop} {f : State → α → State} (hf : ∀ s a, P s → P (f s a)) {xs : List α} {s : State}
    (h : P s) : P (xs.foldl f s) := by
  induction xs generalizing s with
  | nil => exact h
  | cons x xs ih => exact ih (hf s x h)
theorem sendMir_numbered {m : LinkMsg} (h : Numbered (linkOf s k)) : Numbered (linkOf (sendMir m s) k) := by
  refine foldl_invariant (P := fun s => Numbered (linkOf s k)) (fun s l h => ?_) h
  split
  · exact sendOn_numbered h
  · exact h
theorem pumpMir_numbered {n : Nat} (h : Numbered (linkOf s k)) : Numbered (linkOf (pumpMir n s) k) := by
  induction n generalizing s with
  | zero => exact h
  | succ n ih =>
    unfold pumpMir
    split
    · split
      · exact h
      · split
        · exact ih (sendOn_numbered (onPkt_numbered h))
        · exact ih (sendMir_numbered (onPkt_numbered h))
    · exact h
theorem bucketAdd_mir (i : Fin 37) (s : State) : (bucketAdd i s).mir = s.mir := by
  unfold bucketAdd
  dsimp only
  split <;> split <;> simp [onBucket]
theorem bucketAdd_conf (i : Fin 37) (s : State) : (bucketAdd i s).conf = s.conf := by
  unfold bucketAdd
  dsimp only
  split <;> split <;> simp [onBucket]
theorem bucketAddN_numbered {i : Fin 37} {n : Nat} (h : Numbered (linkOf s k)) : Numbered (linkOf (bucketAddN i n s) k) := by
  induction n generalizing s with
  | zero => exact h
  | succ n ih => exact ih (linkOf_congr (bucketAdd_mir i s) (bucketAdd_conf i s) ▸ h)
theorem retrain_numbered {cause : Nat} (h : Numbered (linkOf s k)) : Numbered (linkOf (retrain l cause s) k) := by
  cases l with
  | conf p =>
    rw [retrain, linkOf_congr (State.raiseLim_mir _ _ _ _ _) (State.raiseLim_conf _ _ _ _ _)]
    exact onLink_numbered (fun _ => rfl) (fun _ => rfl) h
  | mir p => exact onLink_numbered (fun _ => rfl) (fun _ => rfl) h
theorem replay_numbered (h : Numbered (linkOf s k)) : Numbered (linkOf (replay l s) k) := by
  unfold replay
  extract_lets p s1 made ns s2
  have hs1 : Numbered (linkOf s1 k) := foldl_invariant (P := fun s => Numbered (linkOf s k)) (fun _ _ h => emitFrame_numbered h) h
  have hs2 : Numbered (linkOf s2 k) := bucketAddN_numbered (onLink_numbered (fun _ => rfl) (fun _ => rfl) hs1)
  clear_value s2
  split
  · exact h
  · split
    · exact retrain_numbered hs2
    · exact hs2
theorem takeAck_numbered {h : LinkHdr} (hk : Numbered (linkOf s k)) : Numbered (linkOf (takeAck l h s) k) := by
  unfold takeAck
  extract_lets p w s1 s2
  have hs1 : Numbered (linkOf s1 k) := by
    have hw : w <:+ (linkOf s l).window := ackTo_suffix _ _
    rw [linkOf_onLink]
    split
    · next heq =>
      subst heq
      exact numbered_suffix hk hw
    · exact hk
  clear_value s1
  have hs2 : Numbered (linkOf s2 k) := pumpMir_numbered (pump_numbered hs1)
  clear_value s2
  split
  · exact replay_numbered hs2
  · exact hs2
end window
/-- Settles O47: a frame that goes out takes the next number, and an acknowledgement leaves the end of the window. -/
theorem replayWindowIsNumbered : Obligations.ReplayWindowIsNumbered :=
  fun _ _ _ _ _ hnumbered => ⟨sendOn_numbered hnumbered, takeAck_numbered hnumbered⟩
end Sys2Proof.Machine

namespace Sys2Proof.Machine
/-! # Emptying a segment (R91) -/
theorem segOf_eq_iff (l g : Nat) : segOf l = g ↔ segLine g ≤ l ∧ l < segLine (g + 1) := by
  simp only [segOf, segLine]
  omega
theorem mgets_congr {α : Type} (d : α) {m m' : AMap α} {k n : Nat} (h : ∀ j, k ≤ j → j < k + n → mget d m j = mget d m' j) :
    mgets d m k n = mgets d m' k n := by
  induction n generalizing k with
  | zero => rfl
  | succ n ih => rw [mgets, mgets, h k le_rfl (by omega), ih fun j hk hj => h j (by omega) (by omega)]
theorem mgets_nil {α : Type} (d : α) (k n : Nat) : mgets d [] k n = List.replicate n d := by
  induction n generalizing k with
  | zero => rfl
  | succ n ih => rw [mgets, ih, mget_nil, List.replicate_succ]
section emptySegment
variable (g l : Nat) (s : State)
theorem emptySegment_lineAt : (emptySegment g s).lineAt l = if segOf l = g then Line.never else s.lineAt l := by
  simp only [segOf_eq_iff]
  exact mget_mdrop _ _ _ _ _
theorem emptySegment_dram (j : Nat) : mget 0 (emptySegment g s).ret.dram j = if segOf (j / 256) = g then 0 else mget 0 s.ret.dram j := by
  rw [show (emptySegment g s).ret.dram = mdrop s.ret.dram (segLine g * 256) (segLine (g + 1) * 256) from rfl, mget_mdrop]
  congr 1
  simp only [segOf_eq_iff, eq_iff_iff]
  omega
theorem emptySegment_homeBytes :
    (emptySegment g s).homeBytes l = if segOf l = g then List.replicate 256 0 else s.homeBytes l := by
  have hline : ∀ j, l * 256 ≤ j → j < l * 256 + 256 → j / 256 = l := fun j hlo hhi => by omega
  unfold State.homeBytes
  split
  · next hg =>
    rw [← mgets_nil]
    exact mgets_congr 0 fun j hlo hhi => by rw [emptySegment_dram, hline j hlo hhi, if_pos hg, mget_nil]
  · next hg => exact mgets_congr 0 fun j hlo hhi => by rw [emptySegment_dram, hline j hlo hhi, if_neg hg]
theorem mem_emptySegment_writes (p : Piece) : p ∈ (emptySegment g s).ret.writes ↔ p ∈ s.ret.writes ∧ segOf p.line ≠ g := by
  rw [show (emptySegment g s).ret.writes = s.ret.writes.filter _ from rfl, List.mem_filter, ne_eq, segOf_eq_iff]
  simp only [Bool.not_eq_true', Bool.and_eq_false_iff, decide_eq_false_iff_not, not_and_or]
end emptySegment
/-- Settles O16: the lines, the home bytes and the accepted writes of the segment go, and no other. -/
theorem emptyingASegment : Obligations.EmptyingASegment := by
  intro g l s _ _
  refine ⟨fun hg => ⟨?_, ?_, fun p hp hline => ?_⟩, fun hg => ⟨?_, ?_, fun p hp hline => ?_⟩⟩
  · rw [emptySegment_lineAt, if_pos hg]
  · rw [emptySegment_homeBytes, if_pos hg]
  · exact ((mem_emptySegment_writes g s p).mp hp).2 (hline ▸ hg)
  · rw [emptySegment_lineAt, if_neg hg]
  · rw [emptySegment_homeBytes, if_neg hg]
  · exact (mem_emptySegment_writes g s p).mpr ⟨hp, hline ▸ hg⟩
/-! # What settling the weir leaves -/
section settle
variable (s t : State)
/-- `t` differs from `s` in its retention state only by the weir and by which open epochs have been warned of. -/
def WeirOnly : Prop := ∃ (w : Weir) (cs : Vector Ctx 16), t.ret = { s.ret with ctx := cs, weir := w } ∧
  ∀ i : Fin 16, ∃ b, cs[i] = { s.ctxAt i with warned := b }
variable {s t} {u : State}
theorem WeirOnly.of_ret (h : t.ret = s.ret) : WeirOnly s t := ⟨s.ret.weir, s.ret.ctx, h, fun i => ⟨(s.ctxAt i).warned, rfl⟩⟩
theorem WeirOnly.trans (h : WeirOnly s t) (h' : WeirOnly t u) : WeirOnly s u := by
  obtain ⟨w, c, hret, hctx⟩ := h
  obtain ⟨w', c', hret', hctx'⟩ := h'
  refine ⟨w', c', by rw [hret', hret], fun i => ?_⟩
  obtain ⟨b, hb⟩ := hctx i
  obtain ⟨b', hb'⟩ := hctx' i
  exact ⟨b', by rw [hb', State.ctxAt, hret, hb]⟩
theorem WeirOnly.of_warned (c : Fin 16) : WeirOnly s (s.onCtx c fun x => { x with warned := true }) := by
  refine ⟨s.ret.weir, _, rfl, fun i => ?_⟩
  by_cases hi : c = i
  · exact ⟨true, hi ▸ vmod_same _ _ _⟩
  · exact ⟨(s.ctxAt i).warned, vmod_other _ _ _ _ hi⟩
theorem WeirOnly.foldl {α : Type} {f : State → α → State} (hf : ∀ s a, WeirOnly s (f s a)) (xs : List α) : WeirOnly s (xs.foldl f s) := by
  induction xs generalizing s with
  | nil => exact .of_ret rfl
  | cons x xs ih => exact (hf s x).trans ih
theorem sendMir_ret (m : LinkMsg) (s : State) : (sendMir m s).ret = s.ret :=
  foldl_keeps State.ret _ (fun s l => by split <;> simp) _ _
theorem resync_ret (s : State) : (resync s).ret = s.ret := foldl_keeps State.ret _ (fun s _ => sendMir_ret _ s) _ _
theorem checkLag_ret (s : State) : (checkLag s).ret = s.ret := by
  unfold checkLag
  dsimp only
  split
  · rw [resync_ret, State.raise_ret]
  · rfl
theorem tellPrepared_ret (s : State) : (tellPrepared s).ret = s.ret :=
  foldl_keeps State.ret _ (fun s _ => by dsimp only; split <;> simp [onConf]) _ _
theorem warnEpochs_weirOnly (s : State) : WeirOnly s (warnEpochs s) := by
  refine WeirOnly.foldl (fun s i => ?_) _
  dsimp only
  split
  · exact .of_ret rfl
  · split
    · exact (WeirOnly.of_warned _).trans (.of_ret (State.raise_ret _ _ _ _))
    · exact .of_ret rfl
theorem relevel_weirOnly (s : State) : WeirOnly s (relevel s) := by
  have hweir : ∀ f, WeirOnly s (s.onWeir f) := fun f => ⟨_, s.ret.ctx, rfl, fun i => ⟨(s.ctxAt i).warned, rfl⟩⟩
  unfold relevel
  dsimp only
  split
  · exact .of_ret rfl
  · split
    · exact (hweir _).trans (.of_ret (by rw [State.raise_ret, State.raise_ret]))
    · exact (hweir _).trans (.of_ret (State.raise_ret _ _ _ _))
theorem settleWeir_weirOnly (s : State) : WeirOnly s (settleWeir s) :=
  ((WeirOnly.of_ret (checkLag_ret s)).trans (warnEpochs_weirOnly _)).trans
    ((relevel_weirOnly _).trans (.of_ret (tellPrepared_ret _)))
theorem WeirOnly.ret_eq (h : WeirOnly s t) : t.ret = { s.ret with ctx := t.ret.ctx, weir := t.ret.weir } := by
  obtain ⟨w, c, hret, -⟩ := h
  rw [hret]
end settle
@[simp] theorem settleWeir_segs (s : State) : (settleWeir s).ret.segs = s.ret.segs := by rw [(settleWeir_weirOnly s).ret_eq]
@[simp] theorem settleWeir_lines (s : State) : (settleWeir s).ret.lines = s.ret.lines := by rw [(settleWeir_weirOnly s).ret_eq]
@[simp] theorem settleWeir_dram (s : State) : (settleWeir s).ret.dram = s.ret.dram := by rw [(settleWeir_weirOnly s).ret_eq]
@[simp] theorem settleWeir_shadow (s : State) : (settleWeir s).ret.shadow = s.ret.shadow := by rw [(settleWeir_weirOnly s).ret_eq]
@[simp] theorem settleWeir_writes (s : State) : (settleWeir s).ret.writes = s.ret.writes := by rw [(settleWeir_weirOnly s).ret_eq]
@[simp] theorem settleWeir_held (s : State) : (settleWeir s).ret.held = s.ret.held := by rw [(settleWeir_weirOnly s).ret_eq]
/-! # BAR2 accesses of a CONSTANT segment (R98, R100) -/
section events
variable (s : State)
/-- An event that is limited in rate notes when it was raised, and leaves the rest of the global registers. -/
theorem raiseLim_glb (c k i : Nat) (d : List (Nat × Nat)) : ∃ x, (s.raiseLim c k i d).glb = { s.glb with limits := x } := by
  unfold State.raiseLim
  split
  · exact ⟨_, State.raise_glb _ _ _ _⟩
  · exact ⟨s.glb.limits, rfl⟩
theorem raiseErr_glb (c k i b : Nat) (d : List (Nat × Nat)) : ∃ x, (s.raiseErr c k i b d).glb = { s.glb with limits := x } := by
  unfold State.raiseErr
  split
  · exact raiseLim_glb (s.blame b) c k i d
  · exact ⟨s.glb.limits, rfl⟩
theorem bucketAdd_glb (i : Fin 37) : ∃ x, (bucketAdd i s).glb = { s.glb with limits := x } := by
  unfold bucketAdd
  extract_lets b c hit s1 s2
  have hs2 : ∃ x, s2.glb = { s.glb with limits := x } := by
    unfold s2
    split
    · exact raiseErr_glb s1 _ _ _ _ _
    · exact ⟨s.glb.limits, rfl⟩
  split
  · obtain ⟨x, hx⟩ := hs2
    obtain ⟨y, hy⟩ := raiseErr_glb s2 0x0A12 i.val 0 (bucketClass i) [(16, i.val), (17, c), (18, 2)]
    exact ⟨y, by rw [hy, hx]⟩
  · exact hs2
theorem bucketAdd_ret (i : Fin 37) : (bucketAdd i s).ret = s.ret := by
  unfold bucketAdd
  dsimp only
  split <;> split <;> simp [onBucket]
theorem gotPoison_glb : ∃ x, (gotPoison s).glb = { s.glb with limits := x } := bucketAdd_glb _ 31
theorem gotPoison_ret : (gotPoison s).ret = s.ret := bucketAdd_ret _ 31
end events
section constant
variable {off : BitVec 36} {req : BitVec 16} {bytes : List WByte} {po : Bool} {s t : State}
/-- The window admits an access, and the address it maps `off` to lies in a CONSTANT segment of this chip. -/
structure ReachesConstant (off : BitVec 36) (s : State) : Prop where
  fil : s.glb.fil ≠ 0
  access : (windowAt s off).access ≠ 0
  inside : off.toNat % 2 ^ 30 < (windowAt s off).len
  slot : windowAddr s off / 2 ^ 38 = s.slot
  cls : (s.lineSeg (lineOf (localOf (windowAddr s off)))).cls = .constant
theorem ReachesConstant.entryAt (h : ReachesConstant off s) : (Machine.entryAt s (windowAddr s off)).cls = .constant := by
  rw [Machine.entryAt, if_pos h.slot]
  exact h.cls
theorem ReachesConstant.congr (h : ReachesConstant off s) (hret : t.ret = s.ret) (hglb : ∃ x, t.glb = { s.glb with limits := x }) :
    ReachesConstant off t := by
  obtain ⟨x, hglb⟩ := hglb
  obtain ⟨hfil, haccess, hinside, hslot, hcls⟩ := h
  have hat : windowAt t off = windowAt s off := by simp only [windowAt, hret]
  have haddr : windowAddr t off = windowAddr s off := by simp only [windowAddr, hat]
  refine ⟨by rw [hglb]; exact hfil, by rw [hat]; exact haccess, by rw [hat]; exact hinside, ?_, ?_⟩
  · rw [haddr, hslot, State.slot, State.slot, hglb]
  · rw [haddr, State.lineSeg, State.seg, hret]
    exact hcls
/-- The first check of R100 that a write of a CONSTANT segment fails. -/
theorem windowBad_write_constant (h : ReachesConstant off s) : windowBad s off true =
    some (if (windowAt s off).classes.getLsbD 3 = false then 3 else if (windowAt s off).access = 1 then 4 else 5) := by
  have hcode : RClass.constant.code = 3 := rfl
  simp only [windowBad, h.fil, h.access, or_self, if_false, Nat.not_le.mpr h.inside, hcode, h.entryAt]
  cases (windowAt s off).classes.getLsbD 3
  · rfl
  · by_cases hread : (windowAt s off).access = 1#2 <;> simp [hread]
theorem windowBad_read_constant (h : ReachesConstant off s) (hhere : s.here (windowAddr s off) = true)
    (hclass : (windowAt s off).classes.getLsbD 3 = true) : windowBad s off false = none := by
  have hcode : RClass.constant.code = 3 := rfl
  have hreach : isReachable s (windowAddr s off) = true := by rw [isReachable, if_pos h.slot, hhere]
  simp only [windowBad, h.fil, h.access, or_self, if_false, Nat.not_le.mpr h.inside, h.entryAt, hcode, hclass, hreach]
  simp
theorem windowTrap_ret (r : Nat) (write : Bool) : (windowTrap r write off req s).ret = s.ret := by
  simp [windowTrap]
/-- A write that a check refuses leaves the retention state. -/
theorem bar2WriteNow_ret_of_bad {r : Nat} (h : windowBad s off true = some r) :
    (bar2WriteNow off req bytes po s).ret = s.ret := by
  simp [bar2WriteNow, bar2Offer, h, windowTrap_ret]
theorem dropTlp_ret (x : HostTlp) : (dropTlp x s).ret = s.ret := by
  cases x with
  | read => exact bucketAdd_ret _ 31
  | _ => rfl
/-- A message of the host leaves what its effect leaves, whether it is taken now, waits, or is dropped. -/
theorem inStream_ret_cases (x : HostTlp) (f : State → State) : (inStream x f s).ret = s.ret ∨ inStream x f s = f s := by
  unfold inStream
  split
  · exact .inl (dropTlp_ret x)
  · split
    · exact .inl rfl
    · exact .inr rfl
end constant
/-- Settles O14: the checks of R100 refuse the write before it is offered to the retention engine. -/
theorem constantSegmentsTakeNoBar2Write : Obligations.ConstantSegmentsTakeNoBar2Write := by
  intro off req bytes po s ⟨hcore, hfil, _⟩ haccess hinside hslot hhere hcls
  have hreaches : ReachesConstant off s := ⟨hfil, haccess, hinside, hslot, hcls⟩
  refine ⟨windowBad_write_constant hreaches, ⟨bar2Write off req bytes po s, rfl, ?_⟩, windowBad_read_constant hreaches hhere⟩
  obtain ⟨s', hs', hret, hreaches'⟩ : ∃ s', (if po then gotPoison s else s) = s' ∧ s'.ret = s.ret ∧ ReachesConstant off s' := by
    refine ⟨_, rfl, ?_⟩
    split
    · exact ⟨gotPoison_ret s, hreaches.congr (gotPoison_ret s) (gotPoison_glb s)⟩
    · exact ⟨rfl, hreaches⟩
  have hnow := bar2WriteNow_ret_of_bad (req := req) (bytes := bytes) (po := po) (windowBad_write_constant hreaches')
  simp only [bar2Write, hcore, Bool.not_true, Bool.false_eq_true, if_false, hs']
  rcases inStream_ret_cases (s := s') (.write off req bytes po) (fun s => settleWeir (bar2WriteNow off req bytes po s)) with h | h
  · simp [h, hret]
  · simp [h, hnow, hret]
end Sys2Proof.Machine

namespace Sys2Proof.Machine
/-! # Storing a line leaves the lifecycle states -/
section life
variable {t : State}
@[simp] theorem State.setPba_life {p} : (State.setPba t p).life = t.life := rfl
@[simp] theorem State.noteRaised_life {code key} : (State.noteRaised t code key).life = t.life := rfl
@[simp] theorem State.poolFree_life : (State.poolFree t).2.life = t.life := rfl
@[simp] theorem State.allocShadow_life {l} : (State.allocShadow t l).life = t.life := rfl
@[simp] theorem poisonMade_life {line src m} : (poisonMade line src m t).life = t.life := by
  simp [poisonMade, apply_ite State.life]
@[simp] theorem poisonCleared_life {n} : (poisonCleared n t).life = t.life := rfl
@[simp] theorem noteLatency_life {r} : (noteLatency r t).life = t.life := rfl
@[simp] theorem takeNo_life : (takeNo t).2.life = t.life := rfl
@[simp] theorem queueEntry_life {c r} : (queueEntry c r t).life = t.life := rfl
@[simp] theorem placeRead_life {c r} : (placeRead c r t).life = t.life := by
  unfold placeRead
  split <;> simp [apply_ite State.life]
@[simp] theorem place_life {c r0} : (place c r0 t).life = t.life := by
  unfold place
  dsimp only
  repeat' split
  all_goals simp
@[simp] theorem enter_life {c r} : (enter c r t).life = t.life := by
  simp [enter, apply_ite State.life]
@[simp] theorem requestAs_life {urgent fp line g write mask poison} : (requestAs urgent fp line g write mask poison t).life = t.life := by
  simp [requestAs]
@[simp] theorem request_life {fp line g write mask poison} : (request fp line g write mask poison t).life = t.life := by
  simp [request]
@[simp] theorem requestRead_life {fp line m} : (requestRead fp line m t).life = t.life :=
  foldl_keeps (fun s => s.life) _ (fun s _ => by simp) _ _
@[simp] theorem requestWrite_life {fp line po} : (requestWrite fp line po t).life = t.life :=
  foldl_keeps (fun s => s.life) _ (fun s _ => by simp) _ _
@[simp] theorem noteLatest_life {l} : (noteLatest l t).life = t.life := by
  simp [noteLatest, apply_ite State.life]
@[simp] theorem notePublish_life {c e l bs} : (notePublish c e l bs t).life = t.life :=
  foldl_keeps (fun s => s.life) _ (fun s _ => by dsimp only; split <;> simp) _ _
@[simp] theorem addPieces_life {fp e ch poison priv ps} : (addPieces fp e ch poison priv ps t).life = t.life :=
  foldl_keeps (fun s => s.life) _ (fun s _ => by dsimp only; repeat' split; all_goals simp) _ _
@[simp] theorem dropConstant_life : (dropConstant t).life = t.life := rfl
@[simp] theorem noteClear_life {old new} : (noteClear old new t).life = t.life := rfl
@[simp] theorem notePoisoned_life {p} : (notePoisoned p t).life = t.life := by
  simp [notePoisoned, apply_ite State.life]
@[simp] theorem requestPiece_life {p place v} : (requestPiece p place v t).life = t.life :=
  foldl_keeps (fun s => s.life) _ (fun s _ => by simp) _ _
@[simp] theorem storeHome_life {p fresh} : (storeHome p fresh t).life = t.life := by
  simp [storeHome]
@[simp] theorem storeShadow_life {p fresh} : (storeShadow p fresh t).life = t.life := by
  simp [storeShadow, apply_ite State.life]
@[simp] theorem copyToShadow_life {l} : (copyToShadow l t).life = t.life := by
  simp [copyToShadow]
@[simp] theorem copyHome_life {l} : (copyHome l t).life = t.life := by
  simp [copyHome]
@[simp] theorem leave_life {p st flip bz stamp} : (leave p st flip bz stamp t).life = t.life := rfl
@[simp] theorem keepBase_life {l} : (keepBase l t).life = t.life := rfl
@[simp] theorem applyEpochPiece_life {p} : (applyEpoch_ p t).life = t.life := by
  unfold applyEpoch_
  split <;> simp [apply_ite State.life]
@[simp] theorem applyLate_life {p} : (applyLate p t).life = t.life := by
  unfold applyLate
  split <;> simp [apply_ite State.life]
@[simp] theorem applyLatest_life {p} : (applyLatest p t).life = t.life := by
  unfold applyLatest
  split <;> simp
@[simp] theorem applyPlain_life {p} : (applyPlain p t).life = t.life := by
  simp [applyPlain]
@[simp] theorem applyPiece_life {p} : (applyPiece p t).life = t.life := by
  unfold applyPiece
  split <;> simp [apply_ite State.life]
@[simp] theorem putLine_life {fp l bs} : (putLine fp l bs t).life = t.life := by
  simp [putLine, apply_ite State.life]
@[simp] theorem onMod_life {n a f} : (onMod t n a f).life = t.life := rfl
@[simp] theorem writeHeader_life {n a} : (writeHeader n a t).life = t.life := by
  simp [writeHeader]
@[simp] theorem setTribCfg_life {n d} : (setTribCfg n d t).life = t.life := rfl
end life
/-! # A power-up of several units (R58, R59) -/
section powerUp
variable (cc : LClass) (s t : State)
theorem foldl_onMod_life (n : Fin 12) (f : Fin 255 → Mod → Mod) (as : List (Fin 255)) :
    (as.foldl (fun s a => onMod s n a (f a)) s).life = s.life := foldl_keeps State.life (fun s a => onMod s n a (f a)) (fun _ _ => rfl) as s
@[simp] theorem loadTrib_life (n : Fin 12) : (loadTrib n s).life = s.life := by
  have hset : (withStored 0x0B10 n (setTribCfg n) s).life = s.life := by
    unfold withStored
    split <;> rfl
  unfold loadTrib
  dsimp only
  split
  · exact hset
  · rw [foldl_onMod_life, hset]
@[simp] theorem reloadTrib_life (n : Fin 12) : (reloadTrib n s).life = s.life := by
  unfold reloadTrib
  dsimp only
  rw [foldl_keeps State.life _ (fun _ _ => by split <;> simp), loadTrib_life]
/-- Instance `i` may leave OFF: it is OFF, and a Confluence port has a partner (log entry 191). -/
def mayPowerUp (i : Nat) : Bool := decide (s.lifeOf cc i = .off ∧ (cc = .conf → (wired s).contains (Fin.ofNat 3 i) = true))
/-- A unit leaves OFF, a tributary port with its stored configuration. -/
def powerUpOne (s : State) (i : Nat) : State :=
  (if cc = .trib then reloadTrib (Fin.ofNat 12 i) s else s).toLife (unitAt cc i) .stopped
/-- The turn that a power-up gives each unit. -/
def powerUpTurn : Turn := needLife cc .off fun i s =>
  if cc = .conf ∧ !(wired s).contains (Fin.ofNat 3 i) then (some St.unitState, s) else
  (none, toState cc i .stopped (if cc = .trib then reloadTrib (Fin.ofNat 12 i) s else s))
variable {cc s t}
theorem powerUpTurn_eq (i : Nat) :
    powerUpTurn cc i s = if mayPowerUp cc s i then (none, powerUpOne cc s i) else (some St.unitState, s) := by
  simp only [powerUpTurn, needLife, mayPowerUp, decide_eq_true_eq]
  by_cases hoff : s.lifeOf cc i = .off
  · by_cases hconf : cc = .conf ∧ !(wired s).contains (Fin.ofNat 3 i)
    · simp_all
    · have : cc = .conf → (wired s).contains (Fin.ofNat 3 i) = true := fun h => by simpa [h] using hconf
      simp only [hoff, if_true, if_neg hconf, true_and, if_pos this]
      rfl
  · simp [hoff]
theorem unitAt_ne {i j : Nat} (hi : i < cc.size) (hj : j < cc.size) (hne : i ≠ j) : unitAt cc i ≠ unitAt cc j := by
  have hbound : cc.base + cc.size ≤ 50 := by cases cc <;> decide
  intro h
  have hval := congrArg Fin.val h
  simp only [unitAt, Fin.val_ofNat] at hval
  omega
theorem powerUpOne_life (i : Nat) (u : Fin 50) :
    (powerUpOne cc s i).life[u].life = if u = unitAt cc i then .stopped else s.life[u].life := by
  have hbefore : (if cc = .trib then reloadTrib (Fin.ofNat 12 i) s else s).life = s.life := by split <;> simp
  rw [powerUpOne, State.toLife_life, hbefore]
  split
  · next h => rw [h, vmod_same]
  · next h => rw [vmod_other _ _ _ _ (Ne.symm h)]
/-- Taking another unit out of OFF leaves whether this one may go. -/
theorem mayPowerUp_powerUpOne {i j : Nat} (hi : i < cc.size) (hj : j < cc.size) (hne : i ≠ j) :
    mayPowerUp cc (powerUpOne cc s j) i = mayPowerUp cc s i := by
  have hlife : (powerUpOne cc s j).lifeOf cc i = s.lifeOf cc i := by
    rw [State.lifeOf, powerUpOne_life, if_neg (unitAt_ne hi hj hne)]
    rfl
  have hwired : cc = .conf → wired (powerUpOne cc s j) = wired s := by
    rintro rfl
    have hglb : (powerUpOne .conf s j).glb = s.glb := by simp [powerUpOne]
    have hconf : (powerUpOne .conf s j).conf = s.conf := by simp [powerUpOne]
    unfold wired slotAt State.slot
    rw [hglb, hconf]
  unfold mayPowerUp
  rw [hlife]
  exact decide_eq_decide.mpr (and_congr_right fun _ => forall_congr' fun hc => by rw [hwired hc])
/-- The units that may leave OFF do, in turn; each of the others fails with ST_UNIT_STATE. -/
theorem inTurn_powerUp {ts : List Nat} (hnodup : ts.Nodup) (hsize : ∀ i ∈ ts, i < cc.size) :
    inTurn (powerUpTurn cc) ts s = ((ts.filter fun i => !mayPowerUp cc s i).map fun i => (i, St.unitState),
      (ts.filter fun i => mayPowerUp cc s i).foldl (powerUpOne cc) s) := by
  induction ts generalizing s with
  | nil => rfl
  | cons i ts ih =>
    obtain ⟨hi, hnodup⟩ := List.nodup_cons.mp hnodup
    have hts : ∀ j ∈ ts, j < cc.size := fun j hj => hsize j (List.mem_cons_of_mem i hj)
    rw [inTurn, powerUpTurn_eq]
    cases hmay : mayPowerUp cc s i with
    | true =>
      have hsame : ∀ j ∈ ts, mayPowerUp cc (powerUpOne cc s i) j = mayPowerUp cc s j := fun j hj =>
        mayPowerUp_powerUpOne (hts j hj) (hsize i List.mem_cons_self) fun h => hi (h ▸ hj)
      have hpass : (ts.filter fun j => mayPowerUp cc (powerUpOne cc s i) j) = ts.filter fun j => mayPowerUp cc s j :=
        List.filter_congr hsame
      have hfail : (ts.filter fun j => !mayPowerUp cc (powerUpOne cc s i) j) = ts.filter fun j => !mayPowerUp cc s j :=
        List.filter_congr fun j hj => by rw [hsame j hj]
      rw [if_pos rfl, ih hnodup hts, hpass, hfail]
      simp [hmay]
    | false =>
      rw [if_neg Bool.false_ne_true, ih hnodup hts]
      simp [hmay]
theorem passedOf_filter (ts : List Nat) (p : Nat → Bool) (st : Nat) :
    passedOf ts ((ts.filter fun i => !p i).map fun i => (i, st)) = ts.filter p := by
  refine List.filter_congr fun i hi => ?_
  cases hp : p i with
  | true =>
    have : ∀ j ∈ ts, p j = false → j ≠ i := fun j _ hj h => by simp [← h, hj] at hp
    simpa using this
  | false => simp [hp, hi]
/-- The status of R58 where every target that fails fails alike. -/
theorem statusOf_filter {ts : List Nat} (hne : ts ≠ []) (p : Nat → Bool) (st : Nat) :
    statusOf ts ((ts.filter fun i => !p i).map fun i => (i, st)) =
      if (ts.filter p).length = ts.length then St.ok else if ts.filter p = [] then st else St.partialDone := by
  unfold statusOf
  rw [passedOf_filter]
  dsimp only
  refine if_congr Iff.rfl rfl (if_ctx_congr Iff.rfl (fun hnone => ?_) fun _ => rfl)
  obtain ⟨i, ts, rfl⟩ := List.exists_cons_of_ne_nil hne
  have hi : p i = false := by simpa using List.filter_eq_nil_iff.mp hnone i List.mem_cons_self
  simp [hi]
theorem foldl_powerUpOne_life (ts : List Nat) (u : Fin 50) :
    (ts.foldl (powerUpOne cc) s).life[u].life = if u ∈ ts.map (unitAt cc) then .stopped else s.life[u].life := by
  induction ts generalizing s with
  | nil => simp
  | cons i ts ih =>
    rw [List.foldl_cons, ih, powerUpOne_life, List.map_cons]
    by_cases hlater : u ∈ ts.map (unitAt cc)
    · rw [if_pos hlater, if_pos (List.mem_cons_of_mem _ hlater)]
    · simp [hlater]
end powerUp
/-- Settles O9: each unit has its turn on the state that the ones before leave, which is what it was for this unit. -/
theorem multiTargetPowerUp : Obligations.MultiTargetPowerUp := by
  intro cc ts d s hserved hnodup hsize hne
  refine ⟨?_, fun u => foldl_powerUpOne_life _ u⟩
  have hturns : exec (.unitPowerUp cc d) s = .next (turns d ts (powerUpTurn cc) s) :=
    congrArg _ (served_command hserved rfl _)
  rw [hturns, turns, inTurn_powerUp hnodup hsize]
  dsimp only
  rw [statusOf_filter hne, passedOf_filter]
  rfl
end Sys2Proof.Machine

namespace Sys2Proof.Machine
/-! # Outcomes of a save and policies of a restart (R205, R218) -/
section policies
variable {g : Nat} {e : Seg} {s : State}
theorem saveOutcome_cases (s : State) :
    (s.slu.cause = 6 → saveOutcome s = 1) ∧ (s.slu.cause = 7 ∨ s.slu.cause = 8 → saveOutcome s = 2) ∧
    (s.slu.cause = 1 ∨ s.slu.cause = 2 ∨ s.slu.cause = 3 ∨ s.slu.cause = 4 ∨ s.slu.cause = 5 →
      (saveOutcome s = 1 ↔ s.slu.inputGood = true ∧ s.slu.railLeft = false) ∧ (saveOutcome s ≠ 1 → saveOutcome s = 2)) := by
  refine ⟨fun htest => if_pos htest, fun hdown => ?_, fun hpower => ?_⟩
  · have htest : ¬s.slu.cause = 6 := by omega
    rw [saveOutcome, if_neg htest, if_pos hdown]
  · have htest : ¬s.slu.cause = 6 := by omega
    have hdown : ¬(s.slu.cause = 7 ∨ s.slu.cause = 8) := by omega
    rw [saveOutcome, if_neg htest, if_neg hdown]
    cases s.slu.inputGood <;> cases s.slu.railLeft <;> simp
/-- A segment outside the program banks is emptied as its policy says. -/
theorem restartEmpties_iff (k : Restart) (hcls : e.cls = .epoch ∨ e.cls = .latest) (hbank : inAnyBank s g = false) :
    restartEmpties s k g e = true ↔ policyFor s k e = 2 ∨ (policyFor s k e = 1 ∧ e.retentive = false) := by
  rcases hcls with h | h <;> simp [restartEmpties, h, hbank]
theorem restartOf_policy (hckpts : ckptsLost s.store = false) (hsealed : s.store.unsealed = none) : restartOf s = .policy := by
  simp [restartOf, hckpts, hsealed]
/-- After a lost save `LOST_POLICY` alone decides. -/
theorem restartOf_lost (hckpts : ckptsLost s.store = false) (hunsealed : s.store.unsealed.isSome = true) :
    restartOf s = if s.slu.lostPolicy then .keep else .cold := by
  simp [restartOf, hckpts, hunsealed]
theorem restartEmpties_other (k : Restart) (h : e.cls = .constant ∨ e.cls = .volatile ∨ inAnyBank s g = true) :
    restartEmpties s k g e = false := by
  rcases h with h | h | h <;> simp [restartEmpties, h]
end policies
/-- Settles O30: the cause decides the outcome, and the kind of restart with the segment's policy what is emptied. -/
theorem outcomesAndPolicies : Obligations.OutcomesAndPolicies := by
  refine ⟨saveOutcome_cases, fun g e s hckpts hsealed hbank => ⟨fun hcls => ?_, fun hcls => ?_⟩,
    fun g e s => ⟨restartEmpties_other _, fun hunsealed hckpts hbank hcls => ?_⟩⟩
  · rw [restartEmpties_iff _ (.inl hcls) hbank, restartOf_policy hckpts hsealed]
    simp [policyFor, hcls, ← BitVec.toNat_inj]
  · rw [restartEmpties_iff _ (.inr hcls) hbank, restartOf_policy hckpts hsealed]
    simp [policyFor, hcls, ← BitVec.toNat_inj]
  · rw [restartEmpties_iff _ hcls hbank, restartOf_lost hckpts hunsealed]
    cases s.slu.lostPolicy <;> simp [policyFor]
/-! # A line that a packet carries (R408) -/
section stores
variable {α : Type} [DecidableEq α] (d : α)
/-- A value that is not the default is written whatever form the store has. -/
theorem mget_mset_of_ne (m : AMap α) (k j : Nat) {v : α} (hv : v ≠ d) :
    mget d (mset d m k v) j = if j = k then v else mget d m j := by
  induction m with
  | nil => simp [mset, mget, hv, eq_comm]
  | cons p m ih => grind [mset, mget]
theorem validBytes_full {bs : List Byte} (h : bs.length = 256) : validBytes 15 bs = bs := by
  refine List.ext_getElem (by simp [validBytes, h]) fun i hi _ => ?_
  have hi : i < 256 := by simpa [validBytes] using hi
  have hbit : (15#4).getLsbD (i / 64) = true := (by decide : ∀ k < 4, (15#4).getLsbD k = true) _ (by omega)
  simp [validBytes, hbit, List.getD_eq_getElem?_getD, h, hi]
theorem mgets_mputs_same (vs : List α) (m : AMap α) (k : Nat) (h : mwf d m = true) : mgets d (mputs d m k vs) k vs.length = vs := by
  refine List.ext_getElem (by simp) fun i hi hi' => ?_
  have hread := mgets_getD d (mputs d m k vs) k vs.length i hi'
  rw [mget_mputs d vs m k _ h, if_pos (by omega), Nat.add_sub_cancel_left] at hread
  simpa [List.getD_eq_getElem?_getD, hi'] using hread
end stores
section storeEntry
variable {e : LineEntry} {l k : Nat} {s : State}
theorem homeBytes_setHome_same {bs : List Byte} (hdram : mwf 0 s.ret.dram = true) (hlength : bs.length = 256) :
    (s.setHome l bs).homeBytes l = bs := by
  have := mgets_mputs_same 0 bs s.ret.dram (l * 256) hdram
  rwa [hlength] at this
theorem homeBytes_setHome_other {bs : List Byte} (hdram : mwf 0 s.ret.dram = true) (hlength : bs.length = 256) (hne : k ≠ l) :
    (s.setHome l bs).homeBytes k = s.homeBytes k :=
  mgets_congr 0 fun j hlo hhi => by
    rw [show (s.setHome l bs).ret.dram = mputs 0 s.ret.dram (l * 256) bs from rfl, mget_mputs _ _ _ _ _ hdram,
      if_neg (by omega)]
theorem shadowBytes_freeShadow_other (hne : k ≠ l) : (s.freeShadow l).shadowBytes k = s.shadowBytes k :=
  mgets_congr 0 fun j hlo hhi => by
    rw [show (s.freeShadow l).ret.shadow = mdrop s.ret.shadow (l * 256) (l * 256 + 256) from rfl, mget_mdrop, if_neg (by omega)]
/-- The state with the line that a carried entry leaves: state `st`, every beat valid, its poison as carried. -/
def putCarried (e : LineEntry) (l : Nat) (st : LState) (s : State) : State :=
  let x := s.lineAt l
  let ch := if counts (s.lineSeg l).cls st then (if s.countsLine l then x.charge else some .mirror) else none
  let s1 := onRet s fun r => { r with serial := r.serial + 1 }
  let s2 := s1.setLine l
    { x with state := st, stamp := 0, flip := false, baseZero := false, valid := 15, poison := e.poison, shPoison := 0, charge := ch,
             serial := s.ret.serial + 1, closeNo := (s.ctxAt (s.lineSeg l).owner).closes, writtenAt := s.now }
  onSlu ((s2.setHome l e.value).freeShadow l) fun k => { k with covered := k.covered.filter (· ≠ l) }
theorem buildSegment_built {g : Nat} (h : s.unbuilt g = false) : buildSegment g s = s := by
  simp [buildSegment, h]
theorem storeEntry_eq (hl : l = e.line.toNat % 2 ^ 30) (hexists : s.segExists (segOf l) = true) (hbuilt : s.unbuilt (segOf l) = false) :
    storeEntry e s = match (s.lineSeg l).cls with
      | .epoch => putCarried e l .committed s
      | .latest => putCarried e l .dirty s
      | .constant => putCarried e l .written s
      | .volatile => s := by
  subst hl
  rw [storeEntry]
  dsimp only
  rw [hexists, buildSegment_built hbuilt]
  rfl
section putCarried
variable {st : LState} (hst : st ≠ .never)
include hst
theorem putCarried_lineAt_ne : ∀ x : Line, x.state = st → x ≠ Line.never := by
  rintro x rfl rfl
  exact hst rfl
theorem putCarried_lineAt_same :
    ((putCarried e l st s).lineAt l).state = st ∧ ((putCarried e l st s).lineAt l).stamp = 0 ∧
    ((putCarried e l st s).lineAt l).flip = false ∧ ((putCarried e l st s).lineAt l).valid = 15 ∧
    ((putCarried e l st s).lineAt l).poison = e.poison := by
  have hread : ∀ x : Line, x.state = st → mget Line.never (mset Line.never s.ret.lines l x) l = x := fun x hx => by
    rw [mget_mset_of_ne _ _ _ _ (putCarried_lineAt_ne hst x hx), if_pos rfl]
  unfold State.lineAt putCarried
  dsimp only [onSlu, State.freeShadow, State.setHome, State.setLine, onRet]
  rw [hread _ rfl]
  exact ⟨rfl, rfl, rfl, rfl, rfl⟩
theorem putCarried_lineAt_other (hne : k ≠ l) : (putCarried e l st s).lineAt k = s.lineAt k := by
  unfold State.lineAt putCarried
  dsimp only [onSlu, State.freeShadow, State.setHome, State.setLine, onRet]
  rw [mget_mset_of_ne _ _ _ _ (putCarried_lineAt_ne hst _ rfl), if_neg hne]
end putCarried
/-- The effective state of a line depends on its segment, its context and its metadata alone. -/
theorem eff_congr {s t : State} (hline : t.lineAt k = s.lineAt k) (hsegs : t.ret.segs = s.ret.segs)
    (hctx : ∀ c, t.ctxAt c = s.ctxAt c) : t.eff k = s.eff k := by
  have hseg : t.lineSeg k = s.lineSeg k := by simp only [State.lineSeg, State.seg, hsegs]
  simp only [State.eff, hseg, hline, hctx]
theorem lineValue_congr {s t : State} (hline : t.lineAt k = s.lineAt k) (heff : t.eff k = s.eff k) (hhome : t.homeBytes k = s.homeBytes k)
    (hshadow : t.shadowBytes k = s.shadowBytes k) : t.lineValue k = s.lineValue k := by
  simp only [State.lineValue, heff, hline, hhome, hshadow]
/-- A carried line is in the state it takes, whatever its segment's class. -/
theorem putCarried_eff {st : LState} (hst : st = .committed ∨ st = .dirty ∨ st = .written) :
    (putCarried e l st s).eff l = (st, false) := by
  obtain ⟨hstate, -, hflip, -, -⟩ := putCarried_lineAt_same (e := e) (l := l) (s := s) (st := st) (by rcases hst with h | h | h <;> simp [h])
  have hopen : ((putCarried e l st s).lineAt l).state ≠ .opened ∧ ((putCarried e l st s).lineAt l).state ≠ .openOver := by
    rw [hstate]
    rcases hst with rfl | rfl | rfl <;> decide
  unfold State.eff
  dsimp only
  split
  · rw [effective_of_not_open hopen, hstate, hflip]
  · rw [hstate, hflip]
theorem putCarried_lineValue_same {st : LState} (hst : st = .committed ∨ st = .dirty ∨ st = .written) (hlength : e.value.length = 256)
    (hdram : mwf 0 s.ret.dram = true) : (putCarried e l st s).lineValue l = (e.value, e.poison) := by
  obtain ⟨-, -, -, hvalid, hpoison⟩ := putCarried_lineAt_same (e := e) (l := l) (s := s) (st := st) (by rcases hst with h | h | h <;> simp [h])
  have hhome : (putCarried e l st s).homeBytes l = e.value := homeBytes_setHome_same (s := s) hdram hlength
  unfold State.lineValue
  dsimp only
  rw [putCarried_eff hst, hvalid, hpoison, hhome, validBytes_full hlength]
  rcases hst with rfl | rfl | rfl <;> rfl
theorem putCarried_lineValue_other {st : LState} (hst : st ≠ .never) (hlength : e.value.length = 256) (hdram : mwf 0 s.ret.dram = true)
    (hne : k ≠ l) : (putCarried e l st s).lineValue k = s.lineValue k := by
  have hline := putCarried_lineAt_other (e := e) (s := s) hst hne
  exact lineValue_congr hline (eff_congr hline rfl fun _ => rfl) (homeBytes_setHome_other (s := s) hdram hlength hne)
    (shadowBytes_freeShadow_other (s := s) hne)
end storeEntry
/-- Settles O48: outside VOLATILE segments `putCarried` stores the entry, in the state of the segment's class. -/
theorem carriedLineTakesItsValue : Obligations.CarriedLineTakesItsValue := by
  intro e l k s hl hexists hbuilt hlength hdram hne
  rw [storeEntry_eq hl hexists hbuilt]
  have hput : ∀ {st}, st = .committed ∨ st = .dirty ∨ st = .written →
      (putCarried e l st s).lineValue l = (e.value, e.poison) ∧ (putCarried e l st s).lineAt k = s.lineAt k ∧
        (putCarried e l st s).lineValue k = s.lineValue k := fun hst =>
    have hnever := by rcases hst with h | h | h <;> simp [h]
    ⟨putCarried_lineValue_same hst hlength hdram, putCarried_lineAt_other hnever hne, putCarried_lineValue_other hnever hlength hdram hne⟩
  cases hcls : (s.lineSeg l).cls with
  | epoch =>
    obtain ⟨hsame, hline, hvalue⟩ := hput (.inl rfl)
    obtain ⟨-, hstamp, -⟩ := putCarried_lineAt_same (e := e) (l := l) (s := s) (st := .committed) (by decide)
    simp [hsame, hline, hvalue, hstamp, putCarried_eff (e := e) (l := l) (s := s) (.inl rfl)]
    exact ⟨rfl, rfl⟩
  | latest =>
    obtain ⟨hsame, hline, hvalue⟩ := hput (.inr (.inl rfl))
    simp [hsame, hline, hvalue, putCarried_eff (e := e) (l := l) (s := s) (.inr (.inl rfl))]
    exact ⟨rfl, rfl⟩
  | constant =>
    obtain ⟨hsame, hline, hvalue⟩ := hput (.inr (.inr rfl))
    simp [hsame, hline, hvalue, putCarried_eff (e := e) (l := l) (s := s) (.inr (.inr rfl))]
    exact ⟨rfl, rfl⟩
  | volatile => simp
end Sys2Proof.Machine

namespace Sys2Proof.Machine
/-! # What the requests and counters of a store leave -/
section requests
variable {t : State}
@[simp] theorem State.setPba_ret {p} : (State.setPba t p).ret = t.ret := rfl
@[simp] theorem State.noteRaised_ret {code key} : (State.noteRaised t code key).ret = t.ret := rfl
@[simp] theorem poisonMade_ret {line src m} : (poisonMade line src m t).ret = t.ret := by
  simp [poisonMade, apply_ite State.ret]
@[simp] theorem poisonCleared_ret {n} : (poisonCleared n t).ret = t.ret := rfl
@[simp] theorem noteLatency_ret {r} : (noteLatency r t).ret = t.ret := rfl
@[simp] theorem takeNo_ret : (takeNo t).2.ret = t.ret := rfl
@[simp] theorem queueEntry_ret {c r} : (queueEntry c r t).ret = t.ret := rfl
@[simp] theorem placeRead_ret {c r} : (placeRead c r t).ret = t.ret := by
  unfold placeRead
  split <;> simp [apply_ite State.ret]
@[simp] theorem place_ret {c r0} : (place c r0 t).ret = t.ret := by
  unfold place
  dsimp only
  repeat' split
  all_goals simp
@[simp] theorem enter_ret {c r} : (enter c r t).ret = t.ret := by
  simp [enter, apply_ite State.ret]
@[simp] theorem requestAs_ret {urgent fp line g write mask poison} : (requestAs urgent fp line g write mask poison t).ret = t.ret := by
  simp [requestAs]
@[simp] theorem request_ret {fp line g write mask poison} : (request fp line g write mask poison t).ret = t.ret := by
  simp [request]
@[simp] theorem noteClear_ret {old new} : (noteClear old new t).ret = t.ret := rfl
@[simp] theorem notePoisoned_ret {p} : (notePoisoned p t).ret = t.ret := by
  simp [notePoisoned, apply_ite State.ret]
@[simp] theorem requestPiece_ret {p place v} : (requestPiece p place v t).ret = t.ret :=
  foldl_keeps (fun s => s.ret) _ (fun s _ => by simp) _ _
@[simp] theorem State.setPba_trib {p} : (State.setPba t p).trib = t.trib := rfl
@[simp] theorem State.noteRaised_trib {code key} : (State.noteRaised t code key).trib = t.trib := rfl
@[simp] theorem poisonMade_trib {line src m} : (poisonMade line src m t).trib = t.trib := by
  simp [poisonMade, apply_ite State.trib]
@[simp] theorem poisonCleared_trib {n} : (poisonCleared n t).trib = t.trib := rfl
@[simp] theorem noteLatency_trib {r} : (noteLatency r t).trib = t.trib := rfl
@[simp] theorem takeNo_trib : (takeNo t).2.trib = t.trib := rfl
@[simp] theorem queueEntry_trib {c r} : (queueEntry c r t).trib = t.trib := rfl
@[simp] theorem placeRead_trib {c r} : (placeRead c r t).trib = t.trib := by
  unfold placeRead
  split <;> simp [apply_ite State.trib]
@[simp] theorem place_trib {c r0} : (place c r0 t).trib = t.trib := by
  unfold place
  dsimp only
  repeat' split
  all_goals simp
@[simp] theorem enter_trib {c r} : (enter c r t).trib = t.trib := by
  simp [enter, apply_ite State.trib]
@[simp] theorem requestAs_trib {urgent fp line g write mask poison} : (requestAs urgent fp line g write mask poison t).trib = t.trib := by
  simp [requestAs]
@[simp] theorem request_trib {fp line g write mask poison} : (request fp line g write mask poison t).trib = t.trib := by
  simp [request]
@[simp] theorem noteClear_trib {old new} : (noteClear old new t).trib = t.trib := rfl
@[simp] theorem notePoisoned_trib {p} : (notePoisoned p t).trib = t.trib := by
  simp [notePoisoned, apply_ite State.trib]
@[simp] theorem requestPiece_trib {p place v} : (requestPiece p place v t).trib = t.trib :=
  foldl_keeps (fun s => s.trib) _ (fun s _ => by simp) _ _
@[simp] theorem storeHome_trib {p fresh} : (storeHome p fresh t).trib = t.trib := by
  simp [storeHome]
@[simp] theorem leave_trib {p st flip bz stamp} : (leave p st flip bz stamp t).trib = t.trib := rfl
end requests
/-! # Storing a line of a VOLATILE segment -/
/-- A write to one key leaves every other, whatever form the store has. -/
theorem mget_mset_other {α : Type} [DecidableEq α] (d : α) (m : AMap α) {k j : Nat} (v : α) (hne : j ≠ k) :
    mget d (mset d m k v) j = mget d m j := by
  induction m with
  | nil => grind [mset, mget]
  | cons p m ih => grind [mset, mget]
theorem mget_mputs_other {α : Type} [DecidableEq α] (d : α) (vs : List α) (m : AMap α) {k j : Nat} (hne : j < k ∨ k + vs.length ≤ j) :
    mget d (mputs d m k vs) j = mget d m j := by
  induction vs generalizing m k with
  | nil => rfl
  | cons v vs ih =>
    simp only [List.length_cons] at hne
    rw [mputs, ih _ (by omega), mget_mset_other d m v (by omega)]
section putLine
/-- `t` differs from `s` in lines at `l` alone, and in no segment, context or module. -/
structure LineOnly (l : Nat) (s t : State) : Prop where
  lineAt : ∀ k ≠ l, t.lineAt k = s.lineAt k
  homeBytes : ∀ k ≠ l, t.homeBytes k = s.homeBytes k
  shadow : t.ret.shadow = s.ret.shadow
  segs : t.ret.segs = s.ret.segs
  ctx : t.ret.ctx = s.ret.ctx
  trib : t.trib = s.trib
variable {l k : Nat} {s t u : State}
theorem LineOnly.trans (h : LineOnly l s t) (h' : LineOnly l t u) : LineOnly l s u where
  lineAt k hk := (h'.lineAt k hk).trans (h.lineAt k hk)
  homeBytes k hk := (h'.homeBytes k hk).trans (h.homeBytes k hk)
  shadow := h'.shadow.trans h.shadow
  segs := h'.segs.trans h.segs
  ctx := h'.ctx.trans h.ctx
  trib := h'.trib.trans h.trib
/-- Nothing but the queues, counters and units around the lines changes. -/
theorem LineOnly.of_eq (hlines : t.ret.lines = s.ret.lines) (hdram : t.ret.dram = s.ret.dram) (hshadow : t.ret.shadow = s.ret.shadow)
    (hsegs : t.ret.segs = s.ret.segs) (hctx : t.ret.ctx = s.ret.ctx) (htrib : t.trib = s.trib) : LineOnly l s t where
  lineAt k _ := by rw [State.lineAt, hlines]; rfl
  homeBytes k _ := by rw [State.homeBytes, hdram]; rfl
  shadow := hshadow
  segs := hsegs
  ctx := hctx
  trib := htrib
theorem LineOnly.of_ret (hret : t.ret = s.ret) (htrib : t.trib = s.trib) : LineOnly l s t :=
  .of_eq (by rw [hret]) (by rw [hret]) (by rw [hret]) (by rw [hret]) (by rw [hret]) htrib
theorem LineOnly.setLine (x : Line) : LineOnly l s (s.setLine l x) where
  lineAt _ hk := mget_mset_other _ _ _ hk
  homeBytes _ _ := rfl
  shadow := rfl
  segs := rfl
  ctx := rfl
  trib := rfl
theorem LineOnly.setHome {bs : List Byte} (hlength : bs.length ≤ 256) : LineOnly l s (s.setHome l bs) where
  lineAt _ _ := rfl
  homeBytes k hk := mgets_congr 0 fun j hlo hhi => mget_mputs_other 0 bs s.ret.dram (by omega)
  shadow := rfl
  segs := rfl
  ctx := rfl
  trib := rfl
theorem LineOnly.value (h : LineOnly l s t) (hne : k ≠ l) : t.lineValue k = s.lineValue k :=
  lineValue_congr (h.lineAt k hne) (eff_congr (h.lineAt k hne) h.segs fun c => by rw [State.ctxAt, h.ctx]; rfl) (h.homeBytes k hne)
    (by rw [State.shadowBytes, h.shadow]; rfl)
theorem LineOnly.lineSeg (h : LineOnly l s t) (k : Nat) : t.lineSeg k = s.lineSeg k := by
  simp only [State.lineSeg, State.seg, h.segs]
theorem LineOnly.modAt (h : LineOnly l s t) (n : Fin 12) (a : Fin 255) : modAt t n a = modAt s n a := by
  rw [Machine.modAt, h.trib]; rfl
theorem merge_validBytes_length (v : BitVec 4) (bs : List Byte) (ws : List WByte) : (merge (validBytes v bs) ws).length ≤ 256 := by
  rw [merge, List.length_zipWith, validBytes, List.length_map, List.length_range]
  exact Nat.min_le_left _ _
theorem storeHome_lineOnly (p : Piece) (fresh : Bool) : LineOnly p.line s (storeHome p fresh s) := by
  unfold storeHome
  extract_lets x v po po' s1 s2
  have hs2 : LineOnly p.line s s2 := (LineOnly.setLine _).trans (LineOnly.setHome (merge_validBytes_length _ _ _))
  exact hs2.trans (.of_ret (by simp) (by simp))
theorem leave_lineOnly (p : Piece) (st : LState) (flip bz : Bool) (stamp : BitVec 8) : LineOnly p.line s (leave p st flip bz stamp s) :=
  (LineOnly.of_eq rfl rfl rfl rfl rfl rfl : LineOnly p.line s (onRet s fun r => { r with serial := r.serial + 1 })).trans (.setLine _)
theorem applyPiece_volatile (p : Piece) (hcls : (s.lineSeg p.line).cls = .volatile) : LineOnly p.line s (applyPiece p s) := by
  have hcovered : LineOnly p.line s (onSlu s fun x => { x with covered := x.covered.filter (· ≠ p.line) }) := .of_ret rfl rfl
  simp only [applyPiece, hcls, applyPlain]
  exact (hcovered.trans (storeHome_lineOnly p _)).trans (leave_lineOnly p _ _ _ _)
theorem addPieces_lineOnly (fp : Fin 23) (ch : Option PClass) (poison : Option Nat) (priv : Bool) (ps : List (Nat × List WByte)) :
    LineOnly l s (addPieces fp none ch poison priv ps s) := by
  induction ps generalizing s with
  | nil => exact .of_ret rfl rfl
  | cons p ps ih =>
    refine LineOnly.trans (t := _) ?_ ih
    dsimp only
    split
    · exact .of_ret rfl rfl
    · exact .of_eq rfl rfl rfl rfl rfl rfl
/-- Nothing of a VOLATILE segment but the line is touched, whether the write is applied, waits, or is dropped. -/
theorem putLine_volatile (fp : Fin 23) (bs : List Byte) (hcls : (s.lineSeg l).cls = .volatile) : LineOnly l s (putLine fp l bs s) := by
  unfold putLine
  dsimp only
  rw [if_neg (by simp [hcls])]
  split
  · exact addPieces_lineOnly _ _ _ _ _
  · split
    · exact .of_ret rfl rfl
    · have hordered : LineOnly l s (onRet s fun r => { r with order := r.order + 1 }) := .of_eq rfl rfl rfl rfl rfl rfl
      exact hordered.trans (applyPiece_volatile ⟨fp, l, bs.map some, 0, 0, none, none, .ready, s.now, s.ret.order, false⟩ hcls)
/-- A run of lines of VOLATILE segments is stored, and no line outside the run changes. -/
theorem foldl_putLine_volatile (fp : Fin 23) (base : Nat) (f : Nat → List Byte) (n : Nat) (hcls : ∀ i < n, (s.lineSeg (base + i)).cls = .volatile)
    (hk : ∀ i < n, k ≠ base + i) :
    let t := (List.range n).foldl (fun s i => putLine fp (base + i) (f i) s) s
    t.lineValue k = s.lineValue k ∧ t.ret.segs = s.ret.segs ∧ t.trib = s.trib := by
  induction n with
  | zero => exact ⟨rfl, rfl, rfl⟩
  | succ n ih =>
    obtain ⟨hvalue, hsegs, htrib⟩ := ih (fun i hi => hcls i (by omega)) fun i hi => hk i (by omega)
    dsimp only at hvalue hsegs htrib ⊢
    rw [List.range_succ, List.foldl_append]
    have hlast := putLine_volatile fp (f n) (s := (List.range n).foldl (fun s i => putLine fp (base + i) (f i) s) s) (l := base + n)
      (by rw [State.lineSeg, State.seg, hsegs]; exact hcls n (by omega))
    exact ⟨(hlast.value (hk n (by omega))).trans hvalue, hlast.segs.trans hsegs, hlast.trib.trans htrib⟩
end putLine
/-! # A slot that a host read has latched (R360) -/
section staged
variable {n : Fin 12} {a : Fin 255} {u : InUpdate} {slot : Bool} {at_ k : Nat} {s : State}
theorem slotLatched_eq {m : Mod} (hlatched : m.latched = some (slot, at_)) : slotLatched m = (slot == !m.cur) := by
  simp [slotLatched, hlatched]
theorem modAt_onMod_same (s : State) (n : Fin 12) (a : Fin 255) (f : Mod → Mod) : modAt (onMod s n a f) n a = f (modAt s n a) := by
  simp only [modAt, onMod, vmod_same]
theorem onMod_inBlock (f : Mod → Mod) : inBlock (onMod s n a f).trib[n] a = inBlock s.trib[n] a := by
  simp only [onMod, vmod_same, inBlock]
/-- A port's block header lies before both slots. -/
theorem writeHeader_volatile (hcls : (s.lineSeg (inBlock s.trib[n] a)).cls = .volatile) (hk : k ≠ inBlock s.trib[n] a) :
    (writeHeader n a s).lineValue k = s.lineValue k ∧ modAt (writeHeader n a s) n a = modAt s n a :=
  have h := putLine_volatile (tribPort n) (headerBytes a s.trib[n].mods[a]) hcls
  ⟨h.value hk, h.modAt n a⟩
/-- A staged update that has come in, with the slot it goes to free: it fills that slot, and the module takes it. -/
theorem storeStaged_free (hheld : (modAt s n a).heldUp = some u) (hfree : slotLatched (modAt s n a) = false)
    (hblock : ∀ i < (tribAt s n).cfg.inStride, (s.lineSeg (inBlock (tribAt s n) a + i)).cls = .volatile)
    (hstride : 3 ≤ (tribAt s n).cfg.inStride) (hfits : (u.bytes.length + 255) / 256 ≤ ((tribAt s n).cfg.inStride - 1) / 2)
    (hheader : k ≠ inBlock (tribAt s n) a)
    (hslot : ∀ i < ((tribAt s n).cfg.inStride - 1) / 2, k ≠ inBlock (tribAt s n) a + 1 +
      (if (modAt s n a).cur = false then ((tribAt s n).cfg.inStride - 1) / 2 else 0) + i) :
    (storeStaged n a s).lineValue k = s.lineValue k ∧ (modAt (storeStaged n a s) n a).cur = !(modAt s n a).cur ∧
      (modAt (storeStaged n a s) n a).seq = (modAt s n a).seq + 1 ∧ (modAt (storeStaged n a s) n a).heldUp = none := by
  unfold storeStaged
  extract_lets t m w base
  have hbase : base = inBlock (tribAt s n) a + 1 + if w then ((tribAt s n).cfg.inStride - 1) / 2 else 0 := rfl
  split
  · next hnone => simp [m, hnone] at hheld
  · next u' hsome =>
    obtain rfl : u' = u := by simpa [m, hsome] using hheld
    rw [if_neg (by simp [m, hfree])]
    extract_lets s1 s2
    obtain ⟨hvalue, hsegs, htrib⟩ := foldl_putLine_volatile (k := k) (tribPort n) base (lineBytes u'.bytes) ((u'.bytes.length + 255) / 256)
      (fun i hi => by
        have := hblock (1 + (if w then ((tribAt s n).cfg.inStride - 1) / 2 else 0) + i) (by split <;> omega)
        rwa [← add_assoc, ← add_assoc, ← hbase] at this)
      (fun i hi => by simpa [hbase, w, m] using hslot i (by omega))
    have hblock' : inBlock s2.trib[n] a = inBlock (tribAt s n) a := by rw [onMod_inBlock, show s1.trib = s.trib from htrib]; rfl
    have hmod : modAt s1 n a = m := by rw [modAt, show s1.trib = s.trib from htrib]; rfl
    obtain ⟨hheadValue, hheadMod⟩ := writeHeader_volatile (k := k) (n := n) (a := a) (s := s2)
      (by
        rw [hblock', State.lineSeg, State.seg, show s2.ret.segs = s.ret.segs from hsegs]
        exact hblock 0 (by omega))
      (by rw [hblock']; exact hheader)
    refine ⟨hheadValue.trans hvalue, ?_⟩
    rw [hheadMod, modAt_onMod_same, hmod]
    exact ⟨rfl, rfl, rfl⟩
end staged
/-- Settles O43: an update goes to the slot that is not current, and waits where that slot is latched. -/
theorem latchedSlotIsKept : Obligations.LatchedSlotIsKept := by
  intro n a u slot at_ i s hheld hlatched hstride hfits hblock hi
  have hslot := slotLatched_eq hlatched
  cases hbusy : slotLatched (modAt s n a) with
  | true =>
    have hsame : storeStaged n a s = s := by simp [storeStaged, hheld, hbusy]
    have hcur : slot = !(modAt s n a).cur := by simpa [hbusy] using hslot
    refine ⟨by rw [hsame], fun _ => hsame, fun h => ?_⟩
    rw [hcur] at h
    simp at h
  | false =>
    have hcur : slot = (modAt s n a).cur := by simpa [hbusy] using hslot
    have hstored := storeStaged_free (k := inBlock (tribAt s n) a + 1 + (if slot then ((tribAt s n).cfg.inStride - 1) / 2 else 0) + i)
      hheld hbusy hblock hstride hfits (by omega) (fun j hj => by
        rw [hcur]
        cases (modAt s n a).cur <;> simp <;> omega)
    obtain ⟨hvalue, hcur', hseq, hup⟩ := hstored
    refine ⟨hvalue, fun h => ?_, fun _ => ⟨by rw [hcur', hcur], hseq, hup⟩⟩
    rw [hcur] at h
    simp at h
end Sys2Proof.Machine

/-! # Closing and abandoning an epoch (R111, R115) -/
namespace Sys2Proof.Machine
section contexts
variable {s t : State} {c k : Fin 16} {e l : Nat}
theorem ctxAt_onCtx (f : Ctx → Ctx) : (s.onCtx c f).ctxAt k = if k = c then f (s.ctxAt k) else s.ctxAt k := by
  unfold State.ctxAt State.onCtx
  split
  · next h => rw [h, vmod_same]
  · next h => rw [vmod_other _ _ _ _ (Ne.symm h)]
theorem ctxAt_onCtx_same (f : Ctx → Ctx) : (s.onCtx c f).ctxAt c = f (s.ctxAt c) := by rw [ctxAt_onCtx, if_pos rfl]
theorem ctxAt_congr (hctx : t.ret.ctx = s.ret.ctx) (k : Fin 16) : t.ctxAt k = s.ctxAt k := by
  rw [State.ctxAt, hctx]
  rfl
theorem ctxAt_of_ret (hret : t.ret = s.ret) (k : Fin 16) : t.ctxAt k = s.ctxAt k := ctxAt_congr (by rw [hret]) k
/-- What the effective state of a line of the context depends on (R117). -/
theorem effective_congr {x y : Ctx} (hepoch : y.epoch = x.epoch) (hdiscard : y.discard = x.discard) (l : Line) :
    effective y l = effective x l := by
  simp only [effective, hepoch, hdiscard]
theorem stampOfEpoch_succ_ne (e : Nat) : stampOfEpoch (e + 1) ≠ stampOfEpoch e := by
  unfold stampOfEpoch
  rw [BitVec.ofNat_add]
  intro h
  simp at h
/-- A line of an older stamp, whose discard bit stays, is as it was when the next epoch opens. -/
theorem effective_of_other_stamp {x y : Ctx} {l : Line} (hold : l.stamp ≠ stampOfEpoch x.epoch) (hnew : l.stamp ≠ stampOfEpoch y.epoch)
    (hdiscard : y.discard.getLsbD l.stamp.toNat = x.discard.getLsbD l.stamp.toNat) : effective y l = effective x l := by
  have hold' : ¬BitVec.ofNat 8 x.epoch = l.stamp := fun h => hold h.symm
  have hnew' : ¬BitVec.ofNat 8 y.epoch = l.stamp := fun h => hnew h.symm
  unfold effective
  split <;> simp [hold', hnew', hdiscard]
theorem eff_of_epoch (hcls : (s.lineSeg l).cls = .epoch) (howner : (s.lineSeg l).owner = c) :
    s.eff l = effective (s.ctxAt c) (s.lineAt l) := by
  unfold State.eff
  rw [if_pos hcls, howner]
/-- `t` has the segments and the lines of `s`, and every context but `c` as `s` has it, but for whether its epoch has been warned of. -/
structure ContextOnly (c : Fin 16) (s t : State) : Prop where
  segs : t.ret.segs = s.ret.segs
  lines : t.ret.lines = s.ret.lines
  dram : t.ret.dram = s.ret.dram
  ctx : ∀ k ≠ c, t.ctxAt k = s.ctxAt k
theorem ContextOnly.lineSeg (h : ContextOnly c s t) (l : Nat) : t.lineSeg l = s.lineSeg l := by
  simp only [State.lineSeg, State.seg, h.segs]
theorem ContextOnly.lineAt (h : ContextOnly c s t) (l : Nat) : t.lineAt l = s.lineAt l := by
  simp only [State.lineAt, h.lines]
/-- A line of another context or class keeps its effective state. -/
theorem ContextOnly.eff_other (h : ContextOnly c s t) (hother : (s.lineSeg l).cls ≠ .epoch ∨ (s.lineSeg l).owner ≠ c) :
    t.eff l = s.eff l := by
  unfold State.eff
  rw [h.lineSeg, h.lineAt]
  rcases hother with hcls | howner
  · simp only [if_neg hcls]
  · simp only [h.ctx _ howner]
theorem ContextOnly.eff_owned (h : ContextOnly c s t) (hcls : (s.lineSeg l).cls = .epoch) (howner : (s.lineSeg l).owner = c) :
    t.eff l = effective (t.ctxAt c) (s.lineAt l) := by
  rw [eff_of_epoch (s := t) (c := c) (by rw [h.lineSeg, hcls]) (by rw [h.lineSeg, howner]), h.lineAt]
theorem ContextOnly.trans {u : State} (h : ContextOnly c s t) (h' : ContextOnly c t u) : ContextOnly c s u where
  segs := h'.segs.trans h.segs
  lines := h'.lines.trans h.lines
  dram := h'.dram.trans h.dram
  ctx k hk := (h'.ctx k hk).trans (h.ctx k hk)
theorem ContextOnly.of_ret (hret : t.ret = s.ret) : ContextOnly c s t where
  segs := by rw [hret]
  lines := by rw [hret]
  dram := by rw [hret]
  ctx := fun k _ => ctxAt_congr (by rw [hret]) k
theorem ContextOnly.onCtx (f : Ctx → Ctx) : ContextOnly c s (s.onCtx c f) where
  segs := rfl
  lines := rfl
  dram := rfl
  ctx := fun k hk => by rw [ctxAt_onCtx, if_neg hk]
end contexts
section retention
variable (c : Fin 16) (e : Nat) (s : State)
@[simp] theorem freeShadows_ret_segs (f : Bool) : (freeShadows c e f s).ret.segs = s.ret.segs := by
  unfold freeShadows
  exact foldl_keeps (fun s => s.ret.segs) _ (fun _ _ => by rfl) _ _
@[simp] theorem freeShadows_ret_dram (f : Bool) : (freeShadows c e f s).ret.dram = s.ret.dram := by
  unfold freeShadows
  exact foldl_keeps (fun s => s.ret.dram) _ (fun _ _ => by rfl) _ _
@[simp] theorem freeShadows_ret_ctx (f : Bool) : (freeShadows c e f s).ret.ctx = s.ret.ctx := by
  unfold freeShadows
  exact foldl_keeps (fun s => s.ret.ctx) _ (fun _ _ => by rfl) _ _
/-- The parts of the retention state that hold neither segments, nor lines, nor home memory, nor contexts. -/
theorem contextOnly_of_ret {s t : State} (hsegs : t.ret.segs = s.ret.segs) (hlines : t.ret.lines = s.ret.lines) (hdram : t.ret.dram = s.ret.dram)
    (hctx : t.ret.ctx = s.ret.ctx) : ContextOnly c s t ∧ t.ctxAt c = s.ctxAt c :=
  ⟨⟨hsegs, hlines, hdram, fun k _ => ctxAt_congr hctx k⟩, ctxAt_congr hctx c⟩
variable {c e s}
/-- An abandon instant takes the program bank back to the one before a swap that the epoch took, and changes nothing else of the
contexts. -/
theorem scanAbandon_contextOnly : ContextOnly c s (scanAbandon c e s) ∧
    ∃ g n, (scanAbandon c e s).ctxAt c = { s.ctxAt c with bankSeg := g, bankCount := n } := by
  unfold scanAbandon
  dsimp only
  split
  · next w _ =>
    split
    · refine ⟨(ContextOnly.onCtx (s := s) fun x => { x with bankSeg := w.oldSeg, bankCount := w.oldCount }).trans (.of_ret ?_), w.oldSeg, w.oldCount, ?_⟩
      · rw [wake_ret, State.raiseLim_ret]
        rfl
      · rw [ctxAt_congr (s := s.onCtx c fun x => { x with bankSeg := w.oldSeg, bankCount := w.oldCount }) (by rw [wake_ret, State.raiseLim_ret]; rfl),
          ctxAt_onCtx_same]
    · exact ⟨.of_ret rfl, _, _, rfl⟩
  · exact ⟨.of_ret rfl, _, _, rfl⟩
theorem queueAging_ctxAt (c : Fin 16) (e : Nat) (s : State) : ∃ a, (queueAging c e s).ctxAt c = { s.ctxAt c with aging := a } :=
  ⟨_, ctxAt_onCtx_same _⟩
/-- The abandon instant opens the next epoch and discards the open one. -/
theorem abandonEpoch_contextOnly (cause : Nat) (hopen : (s.ctxAt c).epoch < terminalEpoch) : ContextOnly c s (abandonEpoch c cause s) ∧
    ∃ g n a, (abandonEpoch c cause s).ctxAt c = { s.ctxAt c with
      cause := BitVec.ofNat 3 cause, deferred := none, epoch := (s.ctxAt c).epoch + 1,
      discard := (s.ctxAt c).discard ||| (1#256 <<< ((s.ctxAt c).epoch % 256)), warned := false, bankSeg := g, bankCount := n, aging := a } := by
  unfold abandonEpoch
  extract_lets e s0 s1 s2
  rw [if_neg (by omega)]
  have hs0 : ContextOnly c s s0 := .onCtx _
  obtain ⟨hs1, hs1c⟩ := contextOnly_of_ret c (s := s0) (t := s1) (freeShadows_ret_segs _ _ _ _) (freeShadows_ret_lines _ _ _ _)
    (freeShadows_ret_dram _ _ _ _) (freeShadows_ret_ctx _ _ _ _)
  have hs2 : ContextOnly c s1 s2 := .onCtx _
  obtain ⟨hscan, g, n, hbank⟩ := scanAbandon_contextOnly (c := c) (e := e) (s := s2)
  have hpublish : ContextOnly c (scanAbandon c e s2) (takePublishes c e false (scanAbandon c e s2)) := .of_ret rfl
  have haging : ContextOnly c (takePublishes c e false (scanAbandon c e s2)) (queueAging c (e + 1) (takePublishes c e false (scanAbandon c e s2))) :=
    .onCtx _
  obtain ⟨a, ha⟩ := queueAging_ctxAt c (e + 1) (takePublishes c e false (scanAbandon c e s2))
  refine ⟨((hs0.trans hs1).trans (hs2.trans hscan)).trans (hpublish.trans haging), g, n, a, ?_⟩
  rw [ha, ctxAt_of_ret (takePublishes_ret _ _ _ _), hbank, ctxAt_onCtx_same, hs1c, ctxAt_onCtx_same]
theorem toMode_contextOnly (m : CtxMode) : ContextOnly c s (toMode c m s) ∧ (toMode c m s).ctxAt c = { s.ctxAt c with mode := m } := by
  have hctx : (s.onCtx c fun x => { x with mode := m }).ctxAt c = { s.ctxAt c with mode := m } := ctxAt_onCtx_same _
  unfold toMode
  dsimp only
  split
  · exact ⟨.onCtx _, hctx⟩
  · exact ⟨(ContextOnly.onCtx _).trans (.of_ret (State.raise_ret _ _ _ _)), (ctxAt_of_ret (State.raise_ret _ _ _ _) c).trans hctx⟩
theorem ctxChanged_ret : (ctxChanged c s).ret = s.ret := by
  unfold ctxChanged
  dsimp only
  split <;> simp
theorem abandonNow_contextOnly (cause : Nat) (next : CtxMode) (hopen : (s.ctxAt c).epoch < terminalEpoch) :
    ContextOnly c s (abandonNow c cause next s) ∧
    ∃ g n a, (abandonNow c cause next s).ctxAt c = { s.ctxAt c with
      cause := BitVec.ofNat 3 cause, deferred := none, epoch := (s.ctxAt c).epoch + 1, mode := next,
      discard := (s.ctxAt c).discard ||| (1#256 <<< ((s.ctxAt c).epoch % 256)), warned := false, bankSeg := g, bankCount := n, aging := a } := by
  obtain ⟨hepoch, g, n, a, hctx⟩ := abandonEpoch_contextOnly (s := s) (c := c) cause hopen
  obtain ⟨hmode, hmoded⟩ := toMode_contextOnly (s := abandonEpoch c cause s) (c := c) next
  have htold : (abandonNow c cause next s).ret = (toMode c next (abandonEpoch c cause s)).ret := by
    rw [abandonNow, if_neg (by omega), ctxChanged_ret, tellAbandoned_ret]
  exact ⟨(hepoch.trans hmode).trans (.of_ret htold), g, n, a, by rw [ctxAt_of_ret htold, hmoded, hctx]⟩
end retention
section discard
/-- The discard bits after an abandon: the open epoch's stamp is set, and no other changes. -/
theorem getLsbD_discard (d : BitVec 256) (e : Nat) (b : BitVec 8) :
    (d ||| (1#256 <<< (e % 256))).getLsbD b.toNat = (d.getLsbD b.toNat || decide (b = stampOfEpoch e)) := by
  have hb : b.toNat < 256 := b.isLt
  have hiff : b = stampOfEpoch e ↔ b.toNat = e % 256 := by rw [← BitVec.toNat_inj, stampOfEpoch, BitVec.toNat_ofNat]
  have hbit : (1#256 <<< (e % 256)).getLsbD b.toNat = decide (b.toNat = e % 256) := by
    rw [BitVec.getLsbD_shiftLeft, BitVec.getLsbD_one]
    simp only [hb, decide_true, Bool.true_and]
    by_cases h : b.toNat = e % 256
    · simp [h]
    · simp [h]
      omega
  rw [BitVec.getLsbD_or, hbit]
  simp only [hiff]
end discard
/-- Settles O22: the open epoch's stamp gets its discard bit, and the next epoch opens. -/
theorem abandonDiscardsTheOpenEpoch : Obligations.AbandonDiscardsTheOpenEpoch := by
  intro c cause next s hopen
  obtain ⟨honly, g, n, a, hctx⟩ := abandonNow_contextOnly (s := s) (c := c) cause next hopen
  refine ⟨_, rfl, by rw [hctx], by rw [hctx], by rw [hctx], by rw [hctx], honly.dram, fun l hcls howner hstamp => ?_,
    fun l hcls howner hold hnew => ?_, fun l hother => honly.eff_other hother⟩
  · rw [honly.eff_owned hcls howner]
    have hnew : ¬BitVec.ofNat 8 ((abandonNow c cause next s).ctxAt c).epoch = (s.lineAt l).stamp := by
      rw [hctx, hstamp]
      exact stampOfEpoch_succ_ne _
    have hdiscard : ((abandonNow c cause next s).ctxAt c).discard.getLsbD (s.lineAt l).stamp.toNat = true := by
      rw [hctx, getLsbD_discard, hstamp]
      simp
    refine ⟨fun hstate => ?_, fun hstate => ?_⟩
    · rw [effective_of_open (.inl hstate), if_neg hnew, if_pos hdiscard, if_pos hstate]
      split <;> rfl
    · rw [effective_of_open (.inr hstate), if_neg hnew, if_pos hdiscard, if_neg (by rw [hstate]; decide)]
  · rw [honly.eff_owned hcls howner, eff_of_epoch hcls howner]
    refine effective_of_other_stamp hold (by rw [hctx]; exact hnew) ?_
    rw [hctx, getLsbD_discard, decide_eq_false hold, Bool.or_false]
/-! ## The close instant -/
section close
variable {s : State} {c : Fin 16}
/-- A close instant without a swap to take: the open epoch is committed, the next one opens, and the context is CLOSING. -/
theorem closeNow_contextOnly (src next : CtxMode) (htaken : ∀ w, s.scan.ctx[c].swap = some w → w.epoch.isSome = true) :
    ContextOnly c s (closeNow c src next s) ∧ ((closeNow c src next s).ctxAt c).commit = (s.ctxAt c).epoch ∧
      ((closeNow c src next s).ctxAt c).epoch = (s.ctxAt c).epoch + 1 ∧ ((closeNow c src next s).ctxAt c).mode = .closing ∧
      ((closeNow c src next s).ctxAt c).closeTo = next ∧ ((closeNow c src next s).ctxAt c).discard = (s.ctxAt c).discard := by
  have hstill : ∀ w, (scanCommit c (s.ctxAt c).epoch s).scan.ctx[c].swap = some w → w.epoch.isSome = true := by
    intro w hw
    rcases scanCommit_swap_eq_or_none (s := s) (c := c) (e := (s.ctxAt c).epoch) with hsame | hended
    · exact htaken w (hsame ▸ hw)
    · rw [hended] at hw
      cases hw
  obtain ⟨t, ht⟩ : ∃ t, closeNow c src next s = t := ⟨_, rfl⟩
  rw [ht]
  unfold closeNow at ht
  extract_lets e ls at ht
  rw [show swapTake c e (scanCommit c e s) = (none, scanCommit c e s) from swapTake_of_not_armed hstill] at ht
  dsimp -zeta only at ht
  extract_lets s2 s3 s4 s5 at ht
  have hcommit : ContextOnly c s (scanCommit c e s) := .of_ret (scanCommit_ret _ _ _)
  have hs2 : ContextOnly c (scanCommit c e s) s2 := .onCtx _
  obtain ⟨hs3, hs3c⟩ := contextOnly_of_ret c (s := s2) (t := s3) (by simp [s3]; rfl) (by simp [s3]) (by simp [s3]; rfl)
    (by simp [s3]; rfl)
  have hs4 : ContextOnly c s3 s4 := .onCtx _
  obtain ⟨a, ha⟩ := queueAging_ctxAt c (e + 1) s3
  have hs5 : s5.ret = s4.ret := by
    unfold s5
    split
    · exact dueEpoch_ret _ _ _ _
    · rfl
  have hret : t.ret = s4.ret := by
    rw [← ht, ← hs5]
    split <;> simp
  have hctx : t.ctxAt c = { s2.ctxAt c with aging := a } := by rw [ctxAt_of_ret hret, ha, hs3c]
  rw [hctx, show s2.ctxAt c = _ from ctxAt_onCtx_same _]
  exact ⟨((hcommit.trans hs2).trans (hs3.trans hs4)).trans (.of_ret hret), rfl, rfl, rfl, rfl,
    by rw [← ctxAt_of_ret (scanCommit_ret s c e) c]⟩
theorem mode_of_doorbell {w : Word} (hgood : doorbellBad s c w = none) : (s.ctxAt c).mode = .running := by
  unfold doorbellBad at hgood
  dsimp only at hgood
  split at hgood
  · cases hgood
  · split at hgood
    · cases hgood
    · next hmode =>
      split at hgood
      · cases hgood
      · next hclosing =>
        simp only [not_or, not_and, not_not] at hmode hclosing
        by_contra hrunning
        exact hclosing.1 (hmode.2.2 hrunning)
/-- A doorbell that passes every check closes at once. -/
theorem doorbell_eq_closeNow {w : Word} (hgood : doorbellBad s c w = none) (hspan : spanning s c = false)
    (haging : agingBlocks s c ((s.ctxAt c).epoch + 1) = false) : doorbell c w s = closeNow c .running .running s := by
  simp [doorbell, hgood, askClose, haging, beginClose, hspan, mode_of_doorbell hgood]
end close
/-- Settles O21: the doorbell is a close instant, after which a line of the open epoch has a stamp that is neither open nor discarded. -/
theorem doorbellCommitsTheOpenEpoch : Obligations.DoorbellCommitsTheOpenEpoch := by
  intro c w s hgood hspan haging hswap
  obtain ⟨honly, hcommit, hepoch, hmode, hnext, hdiscard⟩ := closeNow_contextOnly (s := s) (c := c) .running .running hswap
  refine ⟨_, doorbell_eq_closeNow hgood hspan haging, hcommit, hepoch, hmode, hnext, honly.dram, fun l hcls howner hstate hstamp hkept => ?_,
    fun l hcls howner hold hnew => ?_, fun l hother => honly.eff_other hother⟩
  · rw [honly.eff_owned hcls howner, effective_of_open hstate, hepoch, hdiscard, hkept, if_neg Bool.false_ne_true]
    exact if_neg (by rw [hstamp]; exact stampOfEpoch_succ_ne _)
  · rw [honly.eff_owned hcls howner, eff_of_epoch hcls howner]
    exact effective_of_other_stamp hold (by rw [hepoch]; exact hnew) (by rw [hdiscard])
end Sys2Proof.Machine

/-! # A lost peer (R432, R433) -/
namespace Sys2Proof.Machine
/-! ## Which members are lost -/
section lost
variable {t : State}
@[simp] theorem gaveCa_ret {req} : (gaveCa req t).ret = t.ret := bucketAdd_ret _ 31
@[simp] theorem gaveCa_conf {req} : (gaveCa req t).conf = t.conf := bucketAdd_conf 31 _
@[simp] theorem onLink_conf_lost {l f} : (onLink t l f).conf.lost = t.conf.lost := by
  unfold onLink
  split <;> simp
theorem onConf_lost {f : Conf → Conf} (hf : ∀ k, (f k).lost = k.lost) : (onConf t f).conf.lost = t.conf.lost := hf _
@[simp] theorem emitFrame_conf_lost {l f m} : (emitFrame l f m t).conf.lost = t.conf.lost := onLink_conf_lost
@[simp] theorem pump_conf_lost {l n} : (pump l n t).conf.lost = t.conf.lost := by
  induction n generalizing t with
  | zero => rfl
  | succ n ih =>
    unfold pump
    dsimp only
    split
    · rfl
    · split
      · rw [ih, emitFrame_conf_lost, onLink_conf_lost]
      · rfl
@[simp] theorem sendOn_conf_lost {l m} : (sendOn l m t).conf.lost = t.conf.lost := by
  unfold sendOn
  split <;> simp
@[simp] theorem linkClear_conf_lost {l st} : (linkClear l st t).conf.lost = t.conf.lost := by
  simp [linkClear]
@[simp] theorem duePacket_conf_lost {p} : (duePacket p t).conf.lost = t.conf.lost := by
  simp [duePacket, apply_ite State.conf]
@[simp] theorem onPkt_conf_lost {n f} : (onPkt n f t).conf.lost = t.conf.lost := rfl
@[simp] theorem dueContext_conf_lost {c} : (dueContext c t).conf.lost = t.conf.lost := by
  unfold dueContext
  dsimp only
  repeat' split
  all_goals simp
@[simp] theorem resyncAll_conf_lost {c} : (resyncAll c t).conf.lost = t.conf.lost := rfl
@[simp] theorem noteWait_conf_lost {before} : (noteWait before t).conf.lost = t.conf.lost := rfl
@[simp] theorem planesAnew_conf_lost {c ps} : (planesAnew c ps t).conf.lost = t.conf.lost := rfl
@[simp] theorem scanAbandon_conf_lost {c e} : (scanAbandon c e t).conf.lost = t.conf.lost := by
  unfold scanAbandon
  dsimp only
  repeat' split
  all_goals simp
@[simp] theorem sendTo_conf_lost {js m} : (sendTo js m t).conf.lost = t.conf.lost :=
  foldl_keeps (fun s => s.conf.lost) _ (fun s _ => by simp) _ _
@[simp] theorem ctxChanged_conf_lost {c} : (ctxChanged c t).conf.lost = t.conf.lost := by
  unfold ctxChanged
  split <;> simp
@[simp] theorem toMode_conf_lost {c m} : (toMode c m t).conf.lost = t.conf.lost := by
  simp [toMode, apply_ite State.conf]
@[simp] theorem queueAging_conf_lost {c e} : (queueAging c e t).conf.lost = t.conf.lost := rfl
@[simp] theorem freeShadows_conf_lost {c e f} : (freeShadows c e f t).conf.lost = t.conf.lost := by
  unfold freeShadows
  exact foldl_keeps (fun s => s.conf.lost) _ (fun _ _ => by simp) _ _
@[simp] theorem abandonEpoch_conf_lost {c cause} : (abandonEpoch c cause t).conf.lost = t.conf.lost := by
  unfold abandonEpoch
  dsimp only
  split
  · rfl
  · rw [queueAging_conf_lost]
    simp [takePublishes, voidWrites, cancelCopies]
@[simp] theorem tellAbandoned_conf_lost {c e cause} : (tellAbandoned c e cause t).conf.lost = t.conf.lost := by
  simp [tellAbandoned, apply_ite State.conf]
@[simp] theorem abandonNow_conf_lost {c cause next} : (abandonNow c cause next t).conf.lost = t.conf.lost := by
  unfold abandonNow
  split <;> simp
@[simp] theorem askAbandon_conf_lost {c cause next} : (askAbandon c cause next t).conf.lost = t.conf.lost := by
  unfold askAbandon
  dsimp only
  repeat' split
  all_goals simp [onConf]
@[simp] theorem abortRemote_conf {r} : (abortRemote r t).conf = t.conf := by
  unfold abortRemote
  split <;> simp
@[simp] theorem abortRemote_ret {r} : (abortRemote r t).ret = t.ret := by
  unfold abortRemote
  split <;> simp
end lost
/-! ## Cutting the link -/
section cut
variable (s : State) (j : Nat)
theorem foldl_dropPiece_ctx (ps : List Piece) : (ps.foldl (fun s p => dropPiece p s) s).ret.ctx = s.ret.ctx :=
  foldl_keeps (fun s => s.ret.ctx) (fun s p => dropPiece p s) (fun _ _ => rfl) _ _
theorem foldl_dropPiece_conf (ps : List Piece) : (ps.foldl (fun s p => dropPiece p s) s).conf = s.conf :=
  foldl_keeps (fun s => s.conf) (fun s p => dropPiece p s) (fun _ _ => rfl) _ _
theorem foldl_abort_ret (rs : List RemRead) : (rs.foldl (fun (s : State) r => if r.slot = j then abortRemote r s else s) s).ret = s.ret :=
  foldl_keeps State.ret (fun (s : State) r => if r.slot = j then abortRemote r s else s) (fun _ _ => by split <;> simp) _ _
theorem foldl_abort_conf (rs : List RemRead) : (rs.foldl (fun (s : State) r => if r.slot = j then abortRemote r s else s) s).conf = s.conf :=
  foldl_keeps State.conf (fun (s : State) r => if r.slot = j then abortRemote r s else s) (fun _ _ => by split <;> simp) _ _
theorem cutLink_ctx : (cutLink j s).ret.ctx = s.ret.ctx := by
  unfold cutLink
  split
  · rfl
  · dsimp only
    rw [show ∀ (t : State) f, (onConf t f).ret = t.ret from fun _ _ => rfl, linkClear, onLink_ret, foldl_abort_ret]
    exact foldl_dropPiece_ctx s _
theorem cutLink_lost : (cutLink j s).conf.lost = s.conf.lost := by
  unfold cutLink
  split
  · rfl
  · dsimp only
    refine (onConf_lost fun _ => rfl).trans ?_
    rw [foldl_abort_conf]
    exact congrArg Conf.lost (foldl_dropPiece_conf s _)
end cut
/-! ## The contexts of a lost peer -/
section abandon
variable {s : State} {c k : Fin 16} {cause : Nat} {next : Option CtxMode}
/-- An abandon of one context leaves every other. -/
theorem askAbandon_ctxAt_other (hne : k ≠ c) : (askAbandon c cause next s).ctxAt k = s.ctxAt k := by
  unfold askAbandon
  dsimp only
  split
  · rfl
  · split
    · rfl
    · next hopen =>
      obtain ⟨honly, -⟩ := abandonNow_contextOnly (s := s) (c := c) cause (abandonTo (s.ctxAt c) next) (by omega)
      split
      · rw [ctxAt_onCtx, if_neg hne]
      · split
        · rw [ctxAt_of_ret (sendTo_ret _ _ _), honly.ctx k hne]
        · exact honly.ctx k hne
/-- With no close prepared, the terminal epoch stays open. -/
theorem askAbandon_terminal (hidle : s.conf.prep[c].phase = 0) (hterminal : terminalEpoch ≤ (s.ctxAt c).epoch) :
    askAbandon c cause next s = s := by
  rw [askAbandon, if_neg (not_not_intro hidle), if_pos hterminal]
theorem askAbandon_blocked (hidle : s.conf.prep[c].phase = 0) (hopen : (s.ctxAt c).epoch < terminalEpoch)
    (haging : agingBlocks s c ((s.ctxAt c).epoch + 1) = true) :
    askAbandon c cause next s = s.onCtx c fun x => { x with deferred := some (.abandon cause next), deferAt := s.now } := by
  rw [askAbandon, if_neg (not_not_intro hidle), if_neg (by omega), if_pos haging]
theorem askAbandon_now (hidle : s.conf.prep[c].phase = 0) (hopen : (s.ctxAt c).epoch < terminalEpoch)
    (haging : agingBlocks s c ((s.ctxAt c).epoch + 1) = false) :
    (askAbandon c cause next s).ret = (abandonNow c cause (abandonTo (s.ctxAt c) next) s).ret := by
  rw [askAbandon, if_neg (not_not_intro hidle), if_neg (by omega), if_neg (by simp [haging])]
  dsimp only
  split <;> simp
/-- What a lost peer does to a context that spans it. -/
def loseContext (s : State) (i : Nat) : State :=
  (askAbandon (fin16 i) 4 none (setPrep (fin16 i) (fun _ => Prep.idle) s)).onCtx (fin16 i) fun x => { x with released := false }
theorem loseContext_ctxAt_other {i : Nat} (hne : k ≠ fin16 i) : (loseContext s i).ctxAt k = s.ctxAt k := by
  rw [loseContext, ctxAt_onCtx, if_neg hne, askAbandon_ctxAt_other hne]
  rfl
/-- The result for context `c` of losing it in a state that has it as `x`. -/
structure Lost (blocked : Bool) (x y : Ctx) : Prop where
  commit : y.commit = x.commit
  released : y.released = false
  terminal : terminalEpoch ≤ x.epoch → y.epoch = x.epoch ∧ y.mode = x.mode
  abandoned : x.epoch < terminalEpoch → blocked = false → y.mode = afterAbandon x ∧ y.epoch = x.epoch + 1
  deferred : x.epoch < terminalEpoch → blocked = true → y.epoch = x.epoch ∧ y.deferred = some (.abandon 4 none)
theorem loseContext_lost (c : Fin 16) :
    Lost (agingBlocks s c ((s.ctxAt c).epoch + 1)) (s.ctxAt c) ((loseContext s c.val).ctxAt c) := by
  have hc : fin16 c.val = c := Fin.ext (Nat.mod_eq_of_lt c.isLt)
  have hidle : (setPrep c (fun _ => Prep.idle) s).conf.prep[c].phase = 0 := by
    rw [setPrep, onConf, vmod_same]
    rfl
  rw [loseContext, hc, ctxAt_onCtx_same]
  generalize hs : setPrep c (fun _ => Prep.idle) s = t at hidle
  have hctx : t.ctxAt c = s.ctxAt c := by rw [← hs]; rfl
  have haging : agingBlocks s c ((s.ctxAt c).epoch + 1) = agingBlocks t c ((t.ctxAt c).epoch + 1) := by
    rw [agingBlocks, agingBlocks, hctx]
  rw [haging, ← hctx]
  by_cases hterminal : terminalEpoch ≤ (t.ctxAt c).epoch
  · rw [askAbandon_terminal hidle hterminal]
    exact ⟨rfl, rfl, fun _ => ⟨rfl, rfl⟩, fun h => absurd h (by omega), fun h => absurd h (by omega)⟩
  · cases hblocked : agingBlocks t c ((t.ctxAt c).epoch + 1) with
    | true =>
      rw [askAbandon_blocked hidle (by omega) hblocked, ctxAt_onCtx_same]
      exact ⟨rfl, rfl, fun _ => ⟨rfl, rfl⟩, by simp, fun _ _ => ⟨rfl, rfl⟩⟩
    | false =>
      obtain ⟨-, g, n, a, hnow⟩ := abandonNow_contextOnly (s := t) (c := c) 4 (abandonTo (t.ctxAt c) none) (by omega)
      rw [ctxAt_of_ret (askAbandon_now hidle (by omega) hblocked) c, hnow]
      exact ⟨rfl, rfl, fun h => absurd h hterminal, fun _ _ => ⟨rfl, rfl⟩, by simp⟩
/-- In a pass over different contexts each is lost once, as it was before the pass. -/
theorem foldl_loseContext (c : Fin 16) {is : List Nat} (hnodup : is.Nodup) (hlt : ∀ i ∈ is, i < 16) :
    (c.val ∈ is → Lost (agingBlocks s c ((s.ctxAt c).epoch + 1)) (s.ctxAt c) ((is.foldl loseContext s).ctxAt c)) ∧
    (c.val ∉ is → (is.foldl loseContext s).ctxAt c = s.ctxAt c) := by
  induction is generalizing s with
  | nil => simp
  | cons i is ih =>
    obtain ⟨hi, hnodup⟩ := List.nodup_cons.mp hnodup
    obtain ⟨hin, hout⟩ := ih (s := loseContext s i) hnodup fun j hj => hlt j (List.mem_cons_of_mem i hj)
    rw [List.foldl_cons]
    by_cases hc : c.val = i
    · subst hc
      rw [hout hi]
      exact ⟨fun _ => loseContext_lost c, fun h => absurd List.mem_cons_self h⟩
    · have hne : c ≠ fin16 i := fun h => hc (by rw [h]; exact Nat.mod_eq_of_lt (hlt i List.mem_cons_self))
      have hsame : (loseContext s i).ctxAt c = s.ctxAt c := loseContext_ctxAt_other hne
      have haging : agingBlocks (loseContext s i) c ((s.ctxAt c).epoch + 1) = agingBlocks s c ((s.ctxAt c).epoch + 1) := by
        rw [agingBlocks, agingBlocks, hsame]
      rw [hsame, haging] at hin
      rw [hsame] at hout
      exact ⟨fun h => hin ((List.mem_cons.mp h).resolve_left hc), fun h => hout fun h' => h (List.mem_cons_of_mem i h')⟩
theorem foldl_loseContext_lost (is : List Nat) : (is.foldl loseContext s).conf.lost = s.conf.lost :=
  foldl_keeps (fun s => s.conf.lost) loseContext (fun _ _ => askAbandon_conf_lost) _ _
end abandon
/-- A peer that is declared lost for the first time. -/
theorem declareLost_eq {s : State} {j : Nat} (hother : j ≠ s.slot) (hmember : s.conf.members.getLsbD j = true)
    (hlost : s.conf.lost.getLsbD j = false) : ∃ (is : List Nat) (data : List (Nat × Nat)),
    (∀ c : Fin 16, c.val ∈ is ↔ spansSlot s j c = true) ∧ is.Nodup ∧ (∀ i ∈ is, i < 16) ∧
    declareLost j s = (cutLink j (is.foldl loseContext (onConf s fun k => { k with lost := k.lost ||| BitVec.ofNat 4 (2 ^ j) }))).raise
      0x0E12 0 data := by
  refine ⟨(List.range 16).filter fun i => spansSlot s j (fin16 i),
    [(16, j), (18, maskOf ((List.range 16).filter fun i => spansSlot s j (fin16 i)))], fun c => ?_, List.nodup_range.filter _, fun i hi => ?_, ?_⟩
  · have hc : fin16 c.val = c := Fin.ext (Nat.mod_eq_of_lt c.isLt)
    simp [hc]
  · exact List.mem_range.mp (List.mem_of_mem_filter hi)
  · rw [declareLost, if_neg (by simp [hother, hmember, hlost])]
    rfl
/-- Settles O51: each context that spans the peer is lost in its turn, and none of the turns touches another context. -/
theorem peerLoss : Obligations.PeerLoss := by
  intro j c s hother hmember hlost
  have hj : j < 4 := by
    by_contra h
    rw [BitVec.getLsbD_of_ge _ _ (by omega)] at hmember
    cases hmember
  obtain ⟨is, data, hspans, hnodup, hlt, heq⟩ := declareLost_eq hother hmember hlost
  have hctx : (declareLost j s).ctxAt c =
      (is.foldl loseContext (onConf s fun k => { k with lost := k.lost ||| BitVec.ofNat 4 (2 ^ j) })).ctxAt c := by
    rw [heq, ctxAt_of_ret (State.raise_ret _ _ _ _), ctxAt_congr (cutLink_ctx _ _)]
  obtain ⟨hin, hout⟩ := foldl_loseContext (s := onConf s fun k => { k with lost := k.lost ||| BitVec.ofNat 4 (2 ^ j) }) c hnodup hlt
  rw [hctx]
  refine ⟨?_, fun hspan => ?_, fun hspan => hout fun h => ?_⟩
  · rw [heq, State.raise_conf, cutLink_lost, foldl_loseContext_lost]
    show (s.conf.lost ||| BitVec.ofNat 4 (2 ^ j)).getLsbD j = true
    rw [BitVec.getLsbD_or, hlost, Bool.false_or]
    exact (by decide : ∀ j < 4, (BitVec.ofNat 4 (2 ^ j)).getLsbD j = true) j hj
  · obtain ⟨hcommit, hreleased, hterminal, habandoned, hdeferred⟩ := hin ((hspans c).mpr hspan)
    exact ⟨hcommit, hreleased, hterminal, habandoned, hdeferred⟩
  · rw [(hspans c).mp h] at hspan
    cases hspan
end Sys2Proof.Machine

namespace Sys2Proof.Machine
section quiets
variable {s t u : State}
/-! # What stopping the units at T0 leaves (R191) -/
/-- `t` has the segments and contexts of `s`, and stands for no epoch by a write that `s` has none of. -/
def Quiets (s t : State) : Prop :=
  t.ret.segs = s.ret.segs ∧ t.ret.ctx = s.ret.ctx ∧ ∀ p ∈ t.ret.writes, p.epoch ≠ none → ∃ q ∈ s.ret.writes, q.epoch = p.epoch
theorem Quiets.refl : Quiets s s := ⟨rfl, rfl, fun p hp _ => ⟨p, hp, rfl⟩⟩
theorem Quiets.trans (h : Quiets s t) (h' : Quiets t u) : Quiets s u := by
  obtain ⟨hsegs, hctx, hwrites⟩ := h
  obtain ⟨hsegs', hctx', hwrites'⟩ := h'
  refine ⟨hsegs'.trans hsegs, hctx'.trans hctx, fun p hp hepoch => ?_⟩
  obtain ⟨q, hq, hqp⟩ := hwrites' p hp hepoch
  obtain ⟨r, hr, hrq⟩ := hwrites q hq (hqp ▸ hepoch)
  exact ⟨r, hr, hrq.trans hqp⟩
section update
variable {glb : Glb} {host : HostIf} {ret : Ret} {slu : Slu} {store : Store} {scan : Scan} {dch : Vector Dch 4} {fab : Fab}
    {err : Err}
  {trib : Vector Trib 12} {mdio : Vector (List Mdio) 2} {seqr : Vector Seqr 12} {mir : Mir} {conf : Conf} {pwr : Pwr} {bkd :
      Bkd}
  {ldg : Ldg} {boot : Boot} {tap : Tap} {life : Vector UnitS 50} {free : Nat} {out : List Out} {pending : List Instr}
theorem Quiets.update (h : Quiets s t) : Quiets s ⟨glb, host, t.ret, slu, store, scan, dch, fab, err, trib, mdio, seqr, mir,
    conf, pwr, bkd,
    ldg, boot, tap, life, free, out, pending⟩ := h
theorem Quiets.updateRet {sum : SegSum} {lines : AMap Line} {dram shadow : AMap Byte} {held : List Held} {serial order : Nat}
    {copy : Copier}
    {weir : Weir} {windows : Vector Window 64} (h : Quiets s t) :
    Quiets s ⟨glb, host, ⟨t.ret.segs, sum, t.ret.ctx, lines, dram, shadow, t.ret.writes, held, serial, order, copy, weir,
        windows⟩,
      slu, store, scan, dch, fab, err, trib, mdio, seqr, mir, conf, pwr, bkd, ldg, boot, tap, life, free, out, pending⟩ := h
end update
theorem Quiets.frame (h : Quiets s t) (hu : u.ret = t.ret) : Quiets s u := by
  simpa [Quiets, hu] using h
theorem Quiets.ite {c : Prop} [Decidable c] (ht : Quiets s t) (hu : Quiets s u) : Quiets s (if c then t else u) := by
  split
  · exact ht
  · exact hu
theorem Quiets.foldl {α : Type} {l : List α} {f : State → α → State} (hf : ∀ {u x}, Quiets s u → Quiets s (f u x))
    (h : Quiets s t) : Quiets s (l.foldl f t) := by
  induction l generalizing t with
  | nil => exact h
  | cons x l ih => exact ih (hf h)
theorem Quiets.foldl_fst {α β : Type} {l : List α} {f : State × β → α → State × β} {p : State × β}
    (hf : ∀ {p x}, Quiets s p.1 → Quiets s (f p x).1) (h : Quiets s p.1) : Quiets s (l.foldl f p).1 := by
  induction l generalizing p with
  | nil => exact h
  | cons x l ih => exact ih (hf h)
/-- Writes that go, or that wait anew, leave the rest of the epochs that writes stand for. -/
theorem Quiets.writes (h : Quiets s t) (hsegs : u.ret.segs = t.ret.segs) (hctx : u.ret.ctx = t.ret.ctx)
    (hwrites : ∀ p ∈ u.ret.writes, p.epoch ≠ none → ∃ q ∈ t.ret.writes, q.epoch = p.epoch) : Quiets s u :=
  h.trans ⟨hsegs, hctx, hwrites⟩
theorem State.setLine_quiets {l x} (h : Quiets s t) : Quiets s (State.setLine t l x) :=
  h.updateRet
theorem State.onWeir_quiets {f} (h : Quiets s t) : Quiets s (State.onWeir t f) :=
  h.updateRet
theorem State.onCopy_quiets {f} (h : Quiets s t) : Quiets s (State.onCopy t f) :=
  h.updateRet
theorem State.setHome_quiets {l bs} (h : Quiets s t) : Quiets s (State.setHome t l bs) :=
  h.updateRet
theorem State.setShadow_quiets {l bs} (h : Quiets s t) : Quiets s (State.setShadow t l bs) :=
  h.updateRet
theorem State.freeShadow_quiets {l} (h : Quiets s t) : Quiets s (State.freeShadow t l) :=
  h.updateRet
theorem State.setLife_quiets {i l} (h : Quiets s t) : Quiets s (State.setLife t i l) :=
  h.update
theorem State.emit_quiets {o} (h : Quiets s t) : Quiets s (State.emit t o) :=
  h.update
theorem State.setPba_quiets {p} (h : Quiets s t) : Quiets s (State.setPba t p) :=
  h.update
theorem State.msix_quiets {v} (h : Quiets s t) : Quiets s (State.msix t v) :=
  Quiets.ite (State.emit_quiets h) (State.setPba_quiets h)
theorem State.pushEvent_quiets {q e} (h : Quiets s t) : Quiets s (State.pushEvent t q e) :=
  Quiets.ite h.update (Quiets.ite (State.msix_quiets (State.emit_quiets h.update)) (State.emit_quiets h.update))
theorem State.deliver_quiets {e} (h : Quiets s t) : Quiets s (State.deliver t e) := h.frame (by simp)
theorem State.raise_quiets {code inst data} (h : Quiets s t) : Quiets s (State.raise t code inst data) :=
  State.deliver_quiets h
theorem State.noteRaised_quiets {code key} (h : Quiets s t) : Quiets s (State.noteRaised t code key) :=
  h.update
theorem State.raiseLim_quiets {code key inst data} (h : Quiets s t) : Quiets s (State.raiseLim t code key inst data) :=
  Quiets.ite (State.raise_quiets (State.noteRaised_quiets h)) h
theorem State.blame_quiets {k} (h : Quiets s t) : Quiets s (State.blame t k) :=
  h.update
theorem State.raiseErr_quiets {code key inst k data} (h : Quiets s t) : Quiets s (State.raiseErr t code key inst k data) :=
  Quiets.ite (State.raiseLim_quiets (State.blame_quiets h)) h
theorem State.toLife_quiets {i l} (h : Quiets s t) : Quiets s (State.toLife t i l) :=
  State.raise_quiets (State.setLife_quiets h)
theorem State.toDev_quiets {st} (h : Quiets s t) : Quiets s (State.toDev t st) :=
  Quiets.ite h.update (State.raise_quiets h.update)
theorem State.draw_quiets (h : Quiets s t) : Quiets s (State.draw t).2 :=
  h.update
theorem onBucket_quiets {i f} (h : Quiets s t) : Quiets s (onBucket t i f) :=
  h.update
theorem State.poolFree_quiets (h : Quiets s t) : Quiets s (State.poolFree t).2 :=
  State.draw_quiets h
theorem State.allocShadow_quiets {l} (h : Quiets s t) : Quiets s (State.allocShadow t l) :=
  State.setLine_quiets (State.poolFree_quiets h)
theorem bucketAdd_quiets {i} (h : Quiets s t) : Quiets s (bucketAdd i t) :=
  Quiets.ite (State.raiseErr_quiets (Quiets.ite (State.raiseErr_quiets (onBucket_quiets h)) (onBucket_quiets h))) (Quiets.ite
      (State.raiseErr_quiets (onBucket_quiets h)) (onBucket_quiets h))
theorem onCmds_quiets {p f} (h : Quiets s t) : Quiets s (onCmds t p f) := by
  dsimp only [onCmds]
  split
  · exact h.update
  · exact Quiets.ite h.update h
theorem wake_quiets {f} (h : Quiets s t) : Quiets s (wake f t) :=
  Quiets.foldl (fun h => onCmds_quiets h) h
theorem abortAll_quiets (h : Quiets s t) : Quiets s (abortAll t) :=
  Quiets.foldl (fun h => onCmds_quiets h) h
theorem ldgKick_quiets (h : Quiets s t) : Quiets s (ldgKick t) := by
  dsimp only [ldgKick]
  split
  · exact h.update
  · exact h
theorem ldgCut_quiets (h : Quiets s t) : Quiets s (ldgCut t) := by
  dsimp only [ldgCut]
  split
  · exact h
  · exact (State.draw_quiets h).update
theorem onCfg_quiets {f} (h : Quiets s t) : Quiets s (onCfg t f) :=
  h.update
theorem aerNote_quiets {bit status devSta} (h : Quiets s t) : Quiets s (aerNote bit status devSta t) :=
  onCfg_quiets h
theorem advisory_quiets (h : Quiets s t) : Quiets s (advisory t) :=
  bucketAdd_quiets (onCfg_quiets h)
theorem gaveCa_quiets {req} (h : Quiets s t) : Quiets s (gaveCa req t) :=
  State.emit_quiets (advisory_quiets (aerNote_quiets h))
theorem dropTlp_quiets {t'} (h : Quiets s t) : Quiets s (dropTlp t' t) := by
  dsimp only [dropTlp]
  split
  · exact gaveCa_quiets h
  · exact State.emit_quiets h
  · exact h
theorem poisonMade_quiets {line src m} (h : Quiets s t) : Quiets s (poisonMade line src m t) :=
  Quiets.ite h (Quiets.ite (State.raiseErr_quiets h.update.update) h.update)
theorem poisonUsedAt_quiets {addr k inst} (h : Quiets s t) : Quiets s (poisonUsedAt addr k inst t) :=
  State.raiseErr_quiets h.update
theorem poisonUsed_quiets {line k inst} (h : Quiets s t) : Quiets s (poisonUsed line k inst t) :=
  poisonUsedAt_quiets h
theorem poisonCleared_quiets {n} (h : Quiets s t) : Quiets s (poisonCleared n t) :=
  h.update
theorem onDch_quiets {c f} (h : Quiets s t) : Quiets s (onDch t c f) :=
  h.update
theorem onFab_quiets {f} (h : Quiets s t) : Quiets s (onFab t f) :=
  h.update
theorem noteLatency_quiets {r} (h : Quiets s t) : Quiets s (noteLatency r t) :=
  onFab_quiets h
theorem takeNo_quiets (h : Quiets s t) : Quiets s (takeNo t).2 :=
  onFab_quiets h
theorem queueEntry_quiets {c r} (h : Quiets s t) : Quiets s (queueEntry c r t) :=
  onDch_quiets (takeNo_quiets h)
theorem placeRead_quiets {c r} (h : Quiets s t) : Quiets s (placeRead c r t) := by
  dsimp only [placeRead]
  split
  · exact onDch_quiets h
  · exact Quiets.ite (noteLatency_quiets (onDch_quiets h)) (onDch_quiets h)
theorem place_quiets {c r0} (h : Quiets s t) : Quiets s (place c r0 t) :=
  onDch_quiets (by
    split
    · split
      · exact onDch_quiets (takeNo_quiets h)
      · exact queueEntry_quiets (takeNo_quiets h)
    · exact placeRead_quiets (takeNo_quiets h))
theorem enter_quiets {c r} (h : Quiets s t) : Quiets s (enter c r t) :=
  Quiets.ite (Quiets.ite (onDch_quiets h) h) (Quiets.ite (onDch_quiets h) (place_quiets h))
theorem requestAs_quiets {urgent fp line g write mask poison} (h : Quiets s t) : Quiets s
    (requestAs urgent fp line g write mask poison t) :=
  enter_quiets (takeNo_quiets h)
theorem request_quiets {fp line g write mask poison} (h : Quiets s t) : Quiets s (request fp line g write mask poison t) :=
  requestAs_quiets h
theorem requestRead_quiets {fp line m} (h : Quiets s t) : Quiets s (requestRead fp line m t) :=
  Quiets.foldl (fun h => request_quiets h) h
theorem requestWrite_quiets {fp line po} (h : Quiets s t) : Quiets s (requestWrite fp line po t) :=
  Quiets.foldl (fun h => request_quiets h) h
theorem requestValue_quiets {fp line} (h : Quiets s t) : Quiets s (requestValue fp line t) :=
  Quiets.ite h (requestRead_quiets h)
theorem admitWaiting_quiets {c n} (h : Quiets s t) : Quiets s (admitWaiting c n t) := by
  induction n generalizing t with
  | zero => exact h
  | succ n ih =>
    dsimp only [admitWaiting]
    split
    · exact h
    · split
      · exact h
      · exact ih (place_quiets (onDch_quiets h))
theorem onLink_quiets {l f} (h : Quiets s t) : Quiets s (onLink t l f) := by
  dsimp only [onLink]
  split
  · exact h.update
  · exact h.update
theorem emitFrame_quiets {l f m} (h : Quiets s t) : Quiets s (emitFrame l f m t) :=
  State.emit_quiets (onLink_quiets h)
theorem pump_quiets {l n} (h : Quiets s t) : Quiets s (pump l n t) := by
  induction n generalizing t with
  | zero => exact h
  | succ n ih =>
    dsimp only [pump]
    split
    · exact h
    · exact Quiets.ite (ih (emitFrame_quiets (onLink_quiets h))) h
theorem sendOn_quiets {l m} (h : Quiets s t) : Quiets s (sendOn l m t) :=
  Quiets.ite h (pump_quiets (onLink_quiets h))
theorem linkClear_quiets {l st} (h : Quiets s t) : Quiets s (linkClear l st t) :=
  onLink_quiets h
theorem onMir_quiets {f} (h : Quiets s t) : Quiets s (onMir t f) :=
  h.update
theorem noteLatest_quiets {l} (h : Quiets s t) : Quiets s (noteLatest l t) :=
  Quiets.ite (onMir_quiets h) h
theorem onStore_quiets {f} (h : Quiets s t) : Quiets s (onStore t f) :=
  h.update
theorem onSlu_quiets {f} (h : Quiets s t) : Quiets s (onSlu t f) :=
  h.update
theorem issueOps_quiets {n} (h : Quiets s t) : Quiets s (issueOps n t) := by
  induction n generalizing t with
  | zero => exact h
  | succ n ih =>
    dsimp only [issueOps]
    split
    · exact h
    · split
      · exact h
      · exact ih (onStore_quiets h)
theorem issueAll_quiets (h : Quiets s t) : Quiets s (issueAll t) :=
  issueOps_quiets h
theorem nandOp_quiets {kind use ppa bytes} (h : Quiets s t) : Quiets s (nandOp kind use ppa bytes t) :=
  issueAll_quiets (onStore_quiets (State.emit_quiets h))
theorem nandRead_quiets {use ppa} (h : Quiets s t) : Quiets s (nandRead use ppa t) :=
  Quiets.ite h (nandOp_quiets h)
theorem freeBlocks_quiets {ks} (h : Quiets s t) : Quiets s (freeBlocks ks t) :=
  Quiets.foldl (fun h => nandOp_quiets h) h
theorem buildSegment_quiets {seg} (h : Quiets s t) : Quiets s (buildSegment seg t) :=
  Quiets.ite h (Quiets.foldl (fun h => State.setLine_quiets h) (onSlu_quiets h))
theorem noteBadRecord_quiets (h : Quiets s t) : Quiets s (noteBadRecord t) :=
  Quiets.ite (State.raiseLim_quiets (onSlu_quiets h)) (onSlu_quiets h)
theorem fillRequest_quiets {fault line} (h : Quiets s t) : Quiets s (fillRequest fault line t) :=
  Quiets.foldl (fun h => requestAs_quiets h) h
theorem fillLine_quiets {fault line bad} (h : Quiets s t) : Quiets s (fillLine fault line bad t) := by
  dsimp only [fillLine]
  split
  · exact Quiets.ite (fillRequest_quiets (noteBadRecord_quiets (poisonMade_quiets (State.setHome_quiets
        (State.setLine_quiets h.update))))) (fillRequest_quiets (State.setHome_quiets (State.setLine_quiets h)))
  · exact fillRequest_quiets (noteBadRecord_quiets (poisonMade_quiets (State.setHome_quiets (State.setLine_quiets h.update))))
theorem faultIn_quiets {line} (h : Quiets s t) : Quiets s (faultIn line t) :=
  Quiets.ite (fillLine_quiets (buildSegment_quiets h)) (buildSegment_quiets h)
theorem endHold_quiets (h : Quiets s t) : Quiets s (endHold t) := by
  dsimp only [endHold]
  split
  · exact h
  · exact State.onWeir_quiets h
theorem notePublish_quiets {c e l bs} (h : Quiets s t) : Quiets s (notePublish c e l bs t) :=
  Quiets.foldl (fun h => by
    split
    · exact h
    · exact h.update) h
theorem addPieces_quiets {fp ch poison priv ps} (h : Quiets s t) : Quiets s (addPieces fp none ch poison priv ps t) := by
  refine Quiets.foldl (fun {v _} h => Quiets.ite h ?_) h
  refine h.writes rfl rfl fun p hp hepoch => ?_
  rcases List.mem_append.mp hp with hp | hp
  · exact ⟨p, hp, rfl⟩
  · rw [List.mem_singleton.mp hp] at hepoch
    exact absurd rfl hepoch
theorem dropConstant_quiets (h : Quiets s t) : Quiets s (dropConstant t) :=
  h.updateRet
theorem noteClear_quiets {old new} (h : Quiets s t) : Quiets s (noteClear old new t) :=
  poisonCleared_quiets h
theorem notePoisoned_quiets {p} (h : Quiets s t) : Quiets s (notePoisoned p t) :=
  Quiets.ite h (poisonMade_quiets h)
theorem requestPiece_quiets {p place v} (h : Quiets s t) : Quiets s (requestPiece p place v t) :=
  Quiets.foldl (fun h => request_quiets h) h
theorem storeHome_quiets {p fresh} (h : Quiets s t) : Quiets s (storeHome p fresh t) :=
  requestPiece_quiets (notePoisoned_quiets (noteClear_quiets (State.setHome_quiets (State.setLine_quiets h))))
theorem storeShadow_quiets {p fresh} (h : Quiets s t) : Quiets s (storeShadow p fresh t) :=
  requestPiece_quiets (notePoisoned_quiets (noteClear_quiets (State.setShadow_quiets (State.setLine_quiets (Quiets.ite
      (State.allocShadow_quiets h) h)))))
theorem copyToShadow_quiets {l} (h : Quiets s t) : Quiets s (copyToShadow l t) :=
  requestWrite_quiets (requestRead_quiets (State.setShadow_quiets (State.setLine_quiets (State.allocShadow_quiets h))))
theorem copyHome_quiets {l} (h : Quiets s t) : Quiets s (copyHome l t) :=
  requestWrite_quiets (requestRead_quiets (State.setHome_quiets (State.setLine_quiets h)))
theorem leave_quiets {p st flip bz stamp} (h : Quiets s t) : Quiets s (leave p st flip bz stamp t) :=
  State.setLine_quiets h.updateRet
theorem keepBase_quiets {l} (h : Quiets s t) : Quiets s (keepBase l t) :=
  State.setLine_quiets h
theorem applyEpochPiece_quiets {p} (h : Quiets s t) : Quiets s (applyEpoch_ p t) := by
  dsimp only [applyEpoch_]
  split
  · exact leave_quiets (storeHome_quiets h)
  · exact leave_quiets (storeHome_quiets h)
  · exact leave_quiets (storeHome_quiets h)
  · exact Quiets.ite (leave_quiets (storeShadow_quiets (keepBase_quiets (State.onCopy_quiets h)))) (leave_quiets
        (storeHome_quiets (copyToShadow_quiets (keepBase_quiets h))))
  · exact Quiets.ite (leave_quiets (storeHome_quiets (keepBase_quiets h))) (leave_quiets (storeHome_quiets (copyHome_quiets
        (keepBase_quiets h))))
  · exact leave_quiets (storeHome_quiets h)
  · exact leave_quiets (storeShadow_quiets h)
  · exact leave_quiets (storeHome_quiets h)
theorem applyLate_quiets {p} (h : Quiets s t) : Quiets s (applyLate p t) :=
  State.freeShadow_quiets (leave_quiets (by
    split
    · exact storeHome_quiets h
    · exact storeHome_quiets h
    · exact Quiets.ite (storeHome_quiets h) (storeHome_quiets (copyHome_quiets h))
    · exact storeHome_quiets h))
theorem applyLatest_quiets {p} (h : Quiets s t) : Quiets s (applyLatest p t) := by
  dsimp only [applyLatest]
  split
  · exact leave_quiets (storeHome_quiets h)
  · exact leave_quiets (storeHome_quiets h)
  · exact leave_quiets (storeHome_quiets h)
theorem applyPlain_quiets {p} (h : Quiets s t) : Quiets s (applyPlain p t) :=
  leave_quiets (storeHome_quiets h)
theorem applyPiece_quiets {p} (h : Quiets s t) : Quiets s (applyPiece p t) := by
  dsimp only [applyPiece]
  split
  · exact Quiets.ite (applyLate_quiets (onSlu_quiets h)) (applyEpochPiece_quiets (onSlu_quiets h))
  · exact noteLatest_quiets (applyLatest_quiets (onSlu_quiets h))
  · exact applyPlain_quiets (onSlu_quiets h)
  · exact applyPlain_quiets (onSlu_quiets h)
theorem startFault_quiets {line value} (h : Quiets s t) : Quiets s (startFault line value t) :=
  Quiets.ite h (Quiets.foldl (fun h => nandRead_quiets h) (Quiets.ite h (onSlu_quiets h)))
theorem hostCompletions_quiets {req f addr len} (h : Quiets s t) : Quiets s (hostCompletions req f addr len t) :=
  Quiets.foldl (fun h => State.emit_quiets h) h
theorem putLine_quiets {fp l bs} (h : Quiets s t) : Quiets s (putLine fp l bs t) :=
  Quiets.ite (dropConstant_quiets h) (Quiets.ite (addPieces_quiets h) (Quiets.ite (onDch_quiets h)
      (applyPiece_quiets h.updateRet)))
theorem onMod_quiets {n a f} (h : Quiets s t) : Quiets s (onMod t n a f) :=
  h.update
theorem writeHeader_quiets {n a} (h : Quiets s t) : Quiets s (writeHeader n a t) :=
  putLine_quiets h
theorem latchSlot_quiets {n a} (h : Quiets s t) : Quiets s (latchSlot n a t) :=
  Quiets.ite (writeHeader_quiets (onMod_quiets h)) (onMod_quiets h)
theorem latchBlocks_quiets {addr len} (h : Quiets s t) : Quiets s (latchBlocks addr len t) :=
  Quiets.foldl (fun h => Quiets.ite h (Quiets.foldl (fun h => Quiets.ite (latchSlot_quiets h) h) h)) h
theorem peerCompletions_quiets {fp tag f addr len} (h : Quiets s t) : Quiets s (peerCompletions fp tag f addr len t) :=
  Quiets.foldl (fun h => sendOn_quiets h) h
theorem answer_quiets {r f} (h : Quiets s t) : Quiets s (answer r f t) := by
  dsimp only [answer]
  split
  · exact Quiets.ite (Quiets.ite (poisonUsed_quiets (State.emit_quiets h)) (State.emit_quiets h)) (State.emit_quiets h)
  · exact Quiets.ite (poisonUsed_quiets (hostCompletions_quiets h)) (hostCompletions_quiets h)
  · exact peerCompletions_quiets h
theorem askRead_quiets {r} (h : Quiets s t) : Quiets s (askRead r t).1 := by
  refine Quiets.foldl_fst (fun h => ?_) h
  dsimp only
  split
  · exact h
  · exact Quiets.foldl_fst (fun h => request_quiets h) h
theorem serve_quiets {r} (h : Quiets s t) : Quiets s (serve r t) :=
  Quiets.ite (answer_quiets (by
    split
    · exact latchBlocks_quiets (askRead_quiets h.update)
    · exact askRead_quiets h.update)) (onFab_quiets (by
    split
    · exact latchBlocks_quiets (askRead_quiets h.update)
    · exact askRead_quiets h.update))
theorem faultRead_quiets {r} (h : Quiets s t) : Quiets s (faultRead r t) :=
  Quiets.foldl (fun h => Quiets.ite (startFault_quiets h) h) h
theorem serveReads_quiets (h : Quiets s t) : Quiets s (serveReads t) :=
  Quiets.foldl (fun h => Quiets.ite (serve_quiets (onSlu_quiets h)) (faultRead_quiets h)) h
theorem dropReads_quiets {gone} (h : Quiets s t) : Quiets s (dropReads gone t) :=
  onFab_quiets (onSlu_quiets h)
theorem noteWait_quiets {before} (h : Quiets s t) : Quiets s (noteWait before t) := h.update
theorem onScan_quiets {f} (h : Quiets s t) : Quiets s (onScan t f) :=
  h.update
theorem onScanCtx_quiets {c f} (h : Quiets s t) : Quiets s (onScanCtx t c f) :=
  onScan_quiets h
theorem stopPasses_quiets (h : Quiets s t) : Quiets s (stopPasses t) :=
  Quiets.foldl (fun h => onScanCtx_quiets h) (onScan_quiets h)
theorem abortPasses_quiets (h : Quiets s t) : Quiets s (abortPasses t) :=
  noteWait_quiets (stopPasses_quiets h)
theorem sendTo_quiets {js m} (h : Quiets s t) : Quiets s (sendTo js m t) :=
  Quiets.foldl (fun h => sendOn_quiets h) h
theorem onTrib_quiets {n f} (h : Quiets s t) : Quiets s (onTrib t n f) :=
  h.update
theorem abortRemote_quiets {r} (h : Quiets s t) : Quiets s (abortRemote r t) := by
  dsimp only [abortRemote]
  split
  · exact gaveCa_quiets h
  · exact h
theorem onPwr_quiets {f} (h : Quiets s t) : Quiets s (onPwr t f) :=
  h.update
theorem onRail_quiets {r f} (h : Quiets s t) : Quiets s (onRail t r f) :=
  onPwr_quiets h
theorem assertRst_quiets {rs whole} (h : Quiets s t) : Quiets s (assertRst rs whole t) :=
  onPwr_quiets h
theorem hubAtT0_quiets {cause} (h : Quiets s t) : Quiets s (hubAtT0 cause t) :=
  onPwr_quiets (State.onWeir_quiets (Quiets.ite (wake_quiets (onPwr_quiets h)) h))
theorem idlePins_quiets {n sg} (h : Quiets s t) : Quiets s (idlePins n sg t) :=
  onTrib_quiets h
theorem tribErr_quiets {n m} (h : Quiets s t) : Quiets s (tribErr n m t) :=
  onTrib_quiets h
theorem storeStaged_quiets {n a} (h : Quiets s t) : Quiets s (storeStaged n a t) := by
  dsimp only [storeStaged]
  split
  · exact h
  · exact Quiets.ite h (writeHeader_quiets (onMod_quiets (Quiets.foldl (fun h => putLine_quiets h) h)))
theorem stageInput_quiets {n a u} (h : Quiets s t) : Quiets s (stageInput n a u t) :=
  onMod_quiets (Quiets.ite (onTrib_quiets h) (storeStaged_quiets h))
theorem stalePolicy_quiets {n a} (h : Quiets s t) : Quiets s (stalePolicy n a t) :=
  Quiets.ite (writeHeader_quiets (storeStaged_quiets (stageInput_quiets h))) (writeHeader_quiets (onMod_quiets h))
theorem departEvent_quiets {n a cause} (h : Quiets s t) : Quiets s (departEvent n a cause t) :=
  State.raise_quiets h
theorem depart_quiets {n a cause} (h : Quiets s t) : Quiets s (depart n a cause t) :=
  Quiets.ite (stalePolicy_quiets (departEvent_quiets (onMod_quiets h))) h
theorem departAll_quiets {n cause} (h : Quiets s t) : Quiets s (departAll n cause t) :=
  Quiets.foldl (fun h => depart_quiets h) h
theorem toOut_quiets {n a st cause} (h : Quiets s t) : Quiets s (toOut n a st cause t) :=
  Quiets.ite h (writeHeader_quiets (State.raise_quiets (onMod_quiets h)))
theorem captureBlock_quiets {n a} (h : Quiets s t) : Quiets s (captureBlock n a t) :=
  Quiets.ite (toOut_quiets (tribErr_quiets (poisonUsed_quiets (Quiets.foldl (fun h => faultIn_quiets h) h)))) (Quiets.ite
      (toOut_quiets (onMod_quiets (Quiets.foldl (fun h => faultIn_quiets h) h))) (toOut_quiets (onMod_quiets (Quiets.foldl
      (fun h => faultIn_quiets h) h))))
theorem takeCapture_quiets {n} (h : Quiets s t) : Quiets s (takeCapture n t) := by
  dsimp only [takeCapture]
  split
  · exact h
  · exact Quiets.foldl (fun h => requestValue_quiets h) (captureBlock_quiets (onTrib_quiets h))
theorem endRoll_quiets {n st} (h : Quiets s t) : Quiets s (endRoll n st t) :=
  wake_quiets (onTrib_quiets h)
theorem storeUnlatched_quiets {n} (h : Quiets s t) : Quiets s (storeUnlatched n t) :=
  Quiets.foldl (fun h => Quiets.ite (storeStaged_quiets h) h) h
theorem tribQuiet_quiets {n cut} (h : Quiets s t) : Quiets s (tribQuiet n cut t) :=
  onTrib_quiets (Quiets.ite (endRoll_quiets (Quiets.ite (storeUnlatched_quiets h) h)) (Quiets.ite (storeUnlatched_quiets h) h))
theorem tribStopped_quiets {n} (h : Quiets s t) : Quiets s (tribStopped n t) :=
  onTrib_quiets (departAll_quiets (idlePins_quiets h))
theorem onSeqr_quiets {n f} (h : Quiets s t) : Quiets s (onSeqr t n f) :=
  h.update
theorem releaseLine_quiets {n} (h : Quiets s t) : Quiets s (releaseLine n t) :=
  onTrib_quiets (onSeqr_quiets h)
theorem seqAbort_quiets {n} (h : Quiets s t) : Quiets s (seqAbort n t) :=
  onSeqr_quiets (idlePins_quiets (releaseLine_quiets h))
theorem toState_quiets {cc i l} (h : Quiets s t) : Quiets s (toState cc i l t) :=
  State.toLife_quiets h
theorem dchBegin_quiets {c} (h : Quiets s t) : Quiets s (dchBegin c t) :=
  serveReads_quiets (admitWaiting_quiets (onDch_quiets h))
theorem finishCaptures_quiets {n k} (h : Quiets s t) : Quiets s (finishCaptures n k t) := by
  induction k generalizing t with
  | zero => exact h
  | succ k ih => exact Quiets.ite h (ih (takeCapture_quiets h))
theorem dropMdio_quiets {n} (h : Quiets s t) : Quiets s (dropMdio n t) :=
  Quiets.foldl (fun h => by
    split
    · exact onCmds_quiets h
    · exact h) h.update
theorem cutWrites_quiets (h : Quiets s t) : Quiets s (cutWrites t) :=
  onSlu_quiets (h.writes rfl rfl fun q hq _ => ⟨q, List.mem_of_mem_filter hq, rfl⟩)
theorem cutReads_quiets (h : Quiets s t) : Quiets s (cutReads t) :=
  (dropReads_quiets (Quiets.foldl (fun h => abortRemote_quiets h) (Quiets.foldl (fun h => dropTlp_quiets h) (Quiets.foldl
      (fun h => by
    split
    · exact gaveCa_quiets h
    · exact h) h)))).update
theorem cutEventLog_quiets {cause} (h : Quiets s t) : Quiets s (cutEventLog cause t) :=
  Quiets.ite ((Quiets.ite (ldgCut_quiets h) h).update) (ldgKick_quiets ((Quiets.ite (ldgCut_quiets h) h).update))
theorem shedRails_quiets (h : Quiets s t) : Quiets s (shedRails t) :=
  Quiets.foldl (fun h => onRail_quiets h) (assertRst_quiets h)
theorem mirrorAtT0_quiets {cause} (h : Quiets s t) : Quiets s (mirrorAtT0 cause t) :=
  onMir_quiets (linkClear_quiets (linkClear_quiets (Quiets.ite (Quiets.foldl (fun h => emitFrame_quiets h) h) h)))
theorem sendResolve_quiets (h : Quiets s t) : Quiets s (sendResolve t) :=
  Quiets.ite h (sendTo_quiets h)
theorem cutStore_quiets (h : Quiets s t) : Quiets s (cutStore t) :=
  freeBlocks_quiets (onStore_quiets h)
theorem startDch_quiets (h : Quiets s t) : Quiets s (startDch t) :=
  Quiets.foldl (fun h => Quiets.ite (dchBegin_quiets (toState_quiets h)) h) h
end quiets
end Sys2Proof.Machine

/-! # The quiesce of a save (R190, R115) -/
namespace Sys2Proof.Machine
section abandonAll
variable {s t : State} {c k : Fin 16}
/-! ## Aging that an abandon forces -/
theorem agingVisit_quiets {l : Nat} (h : Quiets s t) : Quiets s (agingVisit c l t) := by
  unfold agingVisit
  dsimp only
  split
  · exact h
  · refine Quiets.ite h ?_
    split
    · exact (State.setLine_quiets h).updateRet
    · exact (State.setLine_quiets h).updateRet
    · exact State.setLine_quiets h
theorem agingVisit_conf (l : Nat) : (agingVisit c l s).conf = s.conf := by
  unfold agingVisit
  dsimp only
  split
  · rfl
  · split
    · rfl
    · split <;> rfl
/-- `t` has the segments and every context but `c` of `s`, no more chips, and stands for no epoch by a write that `s` has none of. -/
structure OtherContexts (c : Fin 16) (s t : State) : Prop where
  segs : t.ret.segs = s.ret.segs
  ctx : ∀ k ≠ c, t.ctxAt k = s.ctxAt k
  writes : ∀ p ∈ t.ret.writes, p.epoch ≠ none → ∃ q ∈ s.ret.writes, q.epoch = p.epoch
  chips : t.conf.chips = s.conf.chips
theorem OtherContexts.trans {u : State} (h : OtherContexts c s t) (h' : OtherContexts c t u) : OtherContexts c s u where
  segs := h'.segs.trans h.segs
  ctx k hk := (h'.ctx k hk).trans (h.ctx k hk)
  writes p hp hepoch := by
    obtain ⟨q, hq, hqp⟩ := h'.writes p hp hepoch
    obtain ⟨r, hr, hrq⟩ := h.writes q hq (hqp ▸ hepoch)
    exact ⟨r, hr, hrq.trans hqp⟩
  chips := h'.chips.trans h.chips
theorem OtherContexts.of_quiets (h : Quiets s t) (hchips : t.conf.chips = s.conf.chips) : OtherContexts c s t :=
  ⟨h.1, fun k _ => ctxAt_congr h.2.1 k, h.2.2, hchips⟩
theorem OtherContexts.onCtx (f : Ctx → Ctx) : OtherContexts c s (s.onCtx c f) :=
  ⟨rfl, fun k hk => by rw [ctxAt_onCtx, if_neg hk], fun p hp _ => ⟨p, hp, rfl⟩, rfl⟩
/-- Forced aging changes nothing of the context but its aging and its discard bits. -/
theorem forceAging_otherContexts (c : Fin 16) (s : State) : OtherContexts c s (forceAging c s) ∧
    ∃ a d, (forceAging c s).ctxAt c = { s.ctxAt c with aging := a, discard := d } := by
  unfold forceAging
  extract_lets a old s1 s2
  have hs1 : OtherContexts c s s1 := .onCtx _
  have hquiet : Quiets s1 s2 := Quiets.foldl (fun h => agingVisit_quiets h) .refl
  have hs2 : OtherContexts c s1 s2 :=
    .of_quiets hquiet (congrArg Conf.chips (foldl_keeps State.conf (fun s l => agingVisit c l s) (fun _ _ => agingVisit_conf _) _ _))
  split
  · exact ⟨.of_quiets .refl rfl, _, _, rfl⟩
  · refine ⟨(hs1.trans hs2).trans (.onCtx _), old.filter (· ≠ a), (s2.ctxAt c).discard &&& ~~~(1#256 <<< a.toNat), ?_⟩
    rw [ctxAt_onCtx_same, ctxAt_congr hquiet.2.1, ctxAt_onCtx_same]
/-! ## Abandoning every open epoch -/
@[simp] theorem freeShadows_ret_writes {e f} : (freeShadows c e f s).ret.writes = s.ret.writes := by
  unfold freeShadows
  exact foldl_keeps (fun s => s.ret.writes) _ (fun _ _ => by rfl) _ _
@[simp] theorem freeShadows_conf {e f} : (freeShadows c e f s).conf = s.conf := by
  unfold freeShadows
  exact foldl_keeps State.conf _ (fun _ _ => by rfl) _ _
@[simp] theorem scanAbandon_conf {e} : (scanAbandon c e s).conf = s.conf := by
  unfold scanAbandon
  dsimp only
  split
  · split
    · rw [wake_conf, State.raiseLim_conf]
      rfl
    · rfl
  · rfl
@[simp] theorem scanAbandon_ret_writes {e} : (scanAbandon c e s).ret.writes = s.ret.writes := by
  unfold scanAbandon
  dsimp only
  split
  · split
    · rw [wake_ret, State.raiseLim_ret]
      rfl
    · rfl
  · rfl
theorem abandonEpoch_terminal {cause : Nat} (h : terminalEpoch ≤ (s.ctxAt c).epoch) : abandonEpoch c cause s = s := if_pos h
theorem abandonEpoch_writes {cause : Nat} (hopen : (s.ctxAt c).epoch < terminalEpoch) :
    (abandonEpoch c cause s).ret.writes = s.ret.writes.filter fun p => p.epoch ≠ some (c, (s.ctxAt c).epoch) := by
  unfold abandonEpoch
  extract_lets e s0 s1 s2
  rw [if_neg (by omega)]
  show (scanAbandon c e s2).ret.writes = _
  rw [scanAbandon_ret_writes]
  show s1.ret.writes = _
  rw [freeShadows_ret_writes]
  rfl
theorem abandonEpoch_conf {cause : Nat} : (abandonEpoch c cause s).conf = s.conf := by
  unfold abandonEpoch
  extract_lets e s0 s1 s2
  split
  · rfl
  · show (scanAbandon c e s2).conf = _
    rw [scanAbandon_conf]
    show s1.conf = _
    rw [freeShadows_conf]
    rfl
/-- The turn of one context at T0, on a chip that is the home of each. -/
def abandonAtT0 (s : State) (i : Nat) : State :=
  tellAbandoned (fin16 i) (s.ctxAt (fin16 i)).epoch 2
    (abandonEpoch (fin16 i) 2 (forceAging (fin16 i) (setPrep (fin16 i) (fun _ => Prep.idle) s)))
/-- A context that stood as `x` before T0, and after it as `y`. -/
structure AtT0 (x y : Ctx) : Prop where
  mode : y.mode = x.mode
  commit : y.commit = x.commit
  cause : y.cause = if x.epoch < terminalEpoch then 2 else x.cause
  epoch : y.epoch = if x.epoch < terminalEpoch then x.epoch + 1 else x.epoch
/-- No write of `t` stands for the open epoch that context `c` had in `s`, unless it was the terminal one. -/
def Voided (c : Fin 16) (s t : State) : Prop :=
  ∀ p ∈ t.ret.writes, p.epoch = some (c, (s.ctxAt c).epoch) → terminalEpoch ≤ (s.ctxAt c).epoch
theorem tellAbandoned_conf {e cause : Nat} : (tellAbandoned c e cause s).conf = s.conf := by
  unfold tellAbandoned
  split <;> simp
theorem abandonAtT0_spec (c : Fin 16) (s : State) : OtherContexts c s (abandonAtT0 s c.val) ∧
    AtT0 (s.ctxAt c) ((abandonAtT0 s c.val).ctxAt c) ∧ Voided c s (abandonAtT0 s c.val) := by
  have hc : fin16 c.val = c := Fin.ext (Nat.mod_eq_of_lt c.isLt)
  unfold abandonAtT0
  rw [hc]
  have hprep : OtherContexts c s (setPrep c (fun _ => Prep.idle) s) := ⟨rfl, fun _ _ => rfl, fun p hp _ => ⟨p, hp, rfl⟩, rfl⟩
  obtain ⟨haged, a, d, hagedc⟩ := forceAging_otherContexts c (setPrep c (fun _ => Prep.idle) s)
  generalize forceAging c (setPrep c (fun _ => Prep.idle) s) = u at haged hagedc
  have hu : u.ctxAt c = { s.ctxAt c with aging := a, discard := d } := hagedc
  have htold : ∀ v : State, OtherContexts c v (tellAbandoned c (s.ctxAt c).epoch 2 v) := fun v =>
    .of_quiets (Quiets.refl.frame (tellAbandoned_ret _ _ _ _)) (by rw [tellAbandoned_conf])
  have hepoch : (u.ctxAt c).epoch = (s.ctxAt c).epoch := by rw [hu]
  rw [ctxAt_of_ret (tellAbandoned_ret _ _ _ _)]
  by_cases hopen : (s.ctxAt c).epoch < terminalEpoch
  · obtain ⟨honly, g, n, b, hctx⟩ := abandonEpoch_contextOnly (s := u) (c := c) 2 (by omega)
    have hwrites := abandonEpoch_writes (s := u) (c := c) (cause := 2) (by omega)
    have hepochs : OtherContexts c u (abandonEpoch c 2 u) :=
      ⟨honly.segs, honly.ctx, fun p hp _ => ⟨p, List.mem_of_mem_filter (hwrites ▸ hp), rfl⟩, by rw [abandonEpoch_conf]⟩
    refine ⟨((hprep.trans haged).trans hepochs).trans (htold _), ?_, fun p hp hsome => ?_⟩
    · rw [hctx, hu]
      exact ⟨rfl, rfl, by rw [if_pos hopen]; rfl, by rw [if_pos hopen]⟩
    · rw [tellAbandoned_ret, hwrites, List.mem_filter, hepoch] at hp
      simp [hsome] at hp
  · rw [abandonEpoch_terminal (by omega), hu]
    exact ⟨(hprep.trans haged).trans (htold _), ⟨rfl, rfl, by rw [if_neg hopen], by rw [if_neg hopen]⟩, fun _ _ _ => by omega⟩
/-- Each context has one turn, on the state that the turns before leave, which is what it was for this context. -/
theorem foldl_abandonAtT0 (c : Fin 16) {is : List Nat} (hnodup : is.Nodup) (hlt : ∀ i ∈ is, i < 16) :
    (is.foldl abandonAtT0 s).ret.segs = s.ret.segs ∧
    (∀ p ∈ (is.foldl abandonAtT0 s).ret.writes, p.epoch ≠ none → ∃ q ∈ s.ret.writes, q.epoch = p.epoch) ∧
    (c.val ∈ is → AtT0 (s.ctxAt c) ((is.foldl abandonAtT0 s).ctxAt c) ∧ Voided c s (is.foldl abandonAtT0 s)) ∧
    (c.val ∉ is → (is.foldl abandonAtT0 s).ctxAt c = s.ctxAt c) := by
  induction is generalizing s with
  | nil => exact ⟨rfl, fun p hp _ => ⟨p, hp, rfl⟩, fun h => by simp at h, fun _ => rfl⟩
  | cons i is ih =>
    obtain ⟨hi, hnodup⟩ := List.nodup_cons.mp hnodup
    obtain ⟨hsegs, hwrites, hin, hout⟩ := ih (s := abandonAtT0 s i) hnodup fun j hj => hlt j (List.mem_cons_of_mem i hj)
    have hival : (fin16 i).val = i := Nat.mod_eq_of_lt (hlt i List.mem_cons_self)
    obtain ⟨hothers, hat, hvoid⟩ := abandonAtT0_spec (fin16 i) s
    rw [hival] at hothers hat hvoid
    rw [List.foldl_cons]
    refine ⟨hsegs.trans hothers.segs, fun p hp hepoch => ?_, fun hmem => ?_, fun hmem => ?_⟩
    · obtain ⟨q, hq, hqp⟩ := hwrites p hp hepoch
      obtain ⟨r, hr, hrq⟩ := hothers.writes q hq (hqp ▸ hepoch)
      exact ⟨r, hr, hrq.trans hqp⟩
    · by_cases hc : c.val = i
      · obtain rfl : c = fin16 i := Fin.ext (hc.trans hival.symm)
        rw [hout (by rwa [hival])]
        refine ⟨hat, fun p hp hsome => ?_⟩
        obtain ⟨q, hq, hqp⟩ := hwrites p hp (by rw [hsome]; exact Option.some_ne_none _)
        exact hvoid q hq (hqp.trans hsome)
      · have hsame : (abandonAtT0 s i).ctxAt c = s.ctxAt c := hothers.ctx c fun h => hc (by rw [h, hival])
        obtain ⟨hat', hvoid'⟩ := hin ((List.mem_cons.mp hmem).resolve_left hc)
        rw [Voided, hsame] at hvoid'
        exact ⟨hsame ▸ hat', hvoid'⟩
    · have hc : c ≠ fin16 i := fun h => hmem (by rw [h, hival]; exact List.mem_cons_self)
      rw [hout fun h => hmem (List.mem_cons_of_mem i h), hothers.ctx c hc]
/-- On a chip that stands alone each context's home acts, so that nothing is left to resolve. -/
theorem abandonAll_eq (hchips : s.conf.chips = 1) : abandonAll s = (List.range 16).foldl abandonAtT0 s := by
  have hfold : ∀ (is : List Nat) (s : State), (∀ i ∈ is, i < 16) → s.conf.chips = 1 → is.foldl (fun s i =>
      let c := fin16 i
      let e := (s.ctxAt c).epoch
      if s.conf.prep[c].phase = 2 ∧ !actsHome s c then
        onConf s fun k => { k with resolving := k.resolving ||| BitVec.ofNat 16 (2 ^ i) }
      else tellAbandoned c e 2 (abandonEpoch c 2 (forceAging c (setPrep c (fun _ => Prep.idle) s)))) s = is.foldl abandonAtT0 s := by
    intro is
    induction is with
    | nil => exact fun _ _ _ => rfl
    | cons i is ih =>
      intro s hlt hchips
      have hhome : actsHome s (fin16 i) = true := by simp [actsHome, hchips]
      obtain ⟨hothers, -⟩ := abandonAtT0_spec (fin16 i) s
      rw [show (fin16 i).val = i from Nat.mod_eq_of_lt (hlt i List.mem_cons_self)] at hothers
      rw [List.foldl_cons, List.foldl_cons, ← ih _ (fun j hj => hlt j (List.mem_cons_of_mem i hj)) (hothers.chips.trans hchips)]
      dsimp only
      rw [if_neg (by simp [hhome])]
      rfl
  exact hfold _ s (fun i hi => List.mem_range.mp hi) hchips
end abandonAll
/-! ## Before the contexts -/
section before
variable {s : State}
theorem cutHolds_of_none (h : ∀ p, (linkOf s (.conf p)).hold = []) : cutHolds s = s := by
  simp [cutHolds, h]
theorem abortAll_conf : (abortAll s).conf = s.conf := foldl_keeps State.conf _ (fun _ _ => by simp) _ _
theorem dropTlp_conf (x : HostTlp) : (dropTlp x s).conf = s.conf := by
  cases x with
  | read => exact gaveCa_conf
  | _ => rfl
theorem cutReads_chips : (cutReads s).conf.chips = s.conf.chips := by
  unfold cutReads
  extract_lets s1 s2 s3
  have hs1 : s1.conf = s.conf := foldl_keeps State.conf _ (fun _ r => by split <;> simp) _ _
  have hs2 : s2.conf = s1.conf := foldl_keeps State.conf _ (fun _ t => dropTlp_conf t) _ _
  have hs3 : s3.conf = s2.conf := foldl_keeps State.conf _ (fun _ r => abortRemote_conf) _ _
  show s3.conf.chips = _
  rw [hs3, hs2, hs1]
end before
/-! ## After the contexts -/
section after
variable {s t : State}
theorem stopPorts_quiets (h : Quiets s t) : Quiets s (stopPorts t) := by
  have habort : ∀ {u i}, Quiets s u → Quiets s (abortUnit .trib i u) := fun h =>
    tribStopped_quiets (Quiets.ite (seqAbort_quiets (dropMdio_quiets (finishCaptures_quiets (tribQuiet_quiets h))))
      (dropMdio_quiets (finishCaptures_quiets (tribQuiet_quiets h))))
  exact Quiets.foldl (fun h => Quiets.ite (habort h) h) h
/-- At T0 nothing but the turns of the contexts touches a context. -/
theorem saveT0_quiets {cause : Nat} (hhold : ∀ p, (linkOf s (.conf p)).hold = []) (hpending : s.slu.pending = some cause)
    (hphase : s.slu.phase = .idle) (hboot : s.glb.state ≠ 0) (hsaving : s.glb.state ≠ 3) :
    ∃ u, Quiets s u ∧ u.conf.chips = s.conf.chips ∧ Quiets (abandonAll u) (saveT0 s) := by
  unfold saveT0
  rw [hpending]
  dsimp -zeta only
  have hgo : ¬(s.slu.phase ≠ .idle ∨ s.glb.state = 0 ∨ s.glb.state = 3) := by
    rintro (h | h | h)
    exacts [h hphase, hboot h, hsaving h]
  rw [if_neg hgo]
  extract_lets s1 boot s2 s3 s4 s5 s6 s7 s8 s9
  have hnone : cutHolds (noteT0 cause s) = noteT0 cause s := cutHolds_of_none hhold
  have hnote : Quiets s (cutHolds (noteT0 cause s)) := by
    rw [hnone]
    exact Quiets.refl.update
  have hs1 : Quiets s s1 := State.toDev_quiets (abortAll_quiets hnote)
  have hs1c : s1.conf = s.conf := by
    unfold s1
    rw [State.toDev_conf, abortAll_conf, hnone]
    rfl
  have hs7 : Quiets (abandonAll s2) s7 :=
    mirrorAtT0_quiets (stopPorts_quiets (endHold_quiets (cutWrites_quiets (onScan_quiets (abortPasses_quiets .refl)))))
  have hs8 : Quiets (abandonAll s2) s8 := onSlu_quiets (sendResolve_quiets (startDch_quiets (cutStore_quiets hs7)))
  have hs9 : Quiets (abandonAll s2) s9 := Quiets.ite hs8 (shedRails_quiets hs8)
  refine ⟨s2, cutReads_quiets hs1.update, ?_, hubAtT0_quiets (cutEventLog_quiets hs9)⟩
  unfold s2
  rw [cutReads_chips]
  exact congrArg Conf.chips hs1c
end after
/-- Settles O29: each context has its turn once, and neither what is cut before the turns nor what is stopped after them touches a
context or stands for an epoch anew. -/
theorem t0AbandonsEveryOpenEpoch : Obligations.T0AbandonsEveryOpenEpoch := by
  intro cause s hchips hhold hpending hphase hboot hsaving
  obtain ⟨u, ⟨hsegs, hctx, hwrites⟩, huchips, hsegs', hctx', hwrites'⟩ := saveT0_quiets hhold hpending hphase hboot hsaving
  rw [abandonAll_eq (huchips.trans hchips)] at hsegs' hctx' hwrites'
  have hturns := fun c : Fin 16 => foldl_abandonAtT0 (s := u) c List.nodup_range (fun i hi => List.mem_range.mp hi)
  obtain ⟨w, cs, hret, hwarned⟩ := settleWeir_weirOnly (saveT0 s)
  refine ⟨_, rfl, ?_, fun c => ?_, fun p hp c hsome => ?_⟩
  · rw [hret, hsegs', (hturns 0).1, hsegs]
  · obtain ⟨-, -, hin, -⟩ := hturns c
    obtain ⟨⟨hmode, hcommit, hcause, hepoch⟩, -⟩ := hin (List.mem_range.mpr c.isLt)
    obtain ⟨b, hb⟩ := hwarned c
    have hsame : (settleWeir (saveT0 s)).ctxAt c = { (saveT0 s).ctxAt c with warned := b } := by rw [State.ctxAt, hret, ← hb]
    rw [ctxAt_congr hctx c] at hmode hcommit hcause hepoch
    rw [hsame, ctxAt_congr hctx' c]
    dsimp only
    exact ⟨hmode, hcommit, hcause, hepoch⟩
  · obtain ⟨-, -, hin, -⟩ := hturns c
    obtain ⟨-, hvoid⟩ := hin (List.mem_range.mpr c.isLt)
    rw [hret] at hp
    obtain ⟨q, hq, hqp⟩ := hwrites' p hp (by rw [hsome]; exact Option.some_ne_none _)
    rw [Voided, ctxAt_congr hctx c] at hvoid
    exact hvoid q hq (hqp.trans hsome)
end Sys2Proof.Machine

/-! # Host doorbells and the work of a mailbox (R42–R55) -/
namespace Sys2Proof.Machine
section doorbells
variable {q : Fin 4} {v : Word} {s : State}
/-- With the host's stream open, a register write whose value every link lets through takes effect at once. -/
theorem inStream_reg (hopen : HostOpen s) (off : Nat) (v : Word) (f : State → State) : inStream (.reg off v) f s = f s :=
  inStream_open hopen _ f rfl
/-- Every entry of the ring is taken where the head has passed as many as were in it. -/
theorem passed_all {lg head i used : Nat} (h : used ≤ (i + 2 ^ lg - head) % 2 ^ lg) : passed lg head i used = used := by
  unfold passed
  omega
theorem msixFlush_of_none (h : s.host.msix.pba = 0) : s.msixFlush = s := by
  have hstep : ∀ (l : List Nat) (s : State), s.host.msix.pba = 0 → l.foldl (fun s v =>
      if s.host.msix.pba.getLsbD v && s.vecOpen v then (s.setPba (s.host.msix.pba &&& ~~~(BitVec.ofNat 64 (2 ^ v)))).msix v else s) s = s := by
    intro l
    induction l with
    | nil => exact fun _ _ => rfl
    | cons x l ih =>
      intro s h
      rw [List.foldl_cons, if_neg (by simp [h]), ih s h]
  exact hstep _ s h
theorem onMq_congr {f g : Mailbox → Mailbox} (h : f s.host.mq[q] = g s.host.mq[q]) : onMq s q f = onMq s q g := by
  unfold onMq vmod
  rw [h]
theorem hears_active (hopen : HostOpen s) (hactive : s.host.mq[q].state = .active) :
    ¬(deaf s = true ∨ s.host.mq[q].state = .absent) := by
  rintro (h | h)
  · rw [open_deaf hopen] at h
    exact Bool.false_ne_true h
  · rw [hactive] at h
    cases h
theorem mbxBootAddrLo_heard (h : deaf s = false) : mbxBootAddrLo v s = { s with host := { s.host with
    bootAddr := BitVec.ofNat 64 (s.host.bootAddr.toNat / 2 ^ 32 * 2 ^ 32 + v.toNat) } } := by
  rw [mbxBootAddrLo, h, if_neg Bool.false_ne_true]
/-- What `mbxBootAddrHi` leaves of a good address `b`. It speaks of any `b`, so that no arithmetic stands in what `rfl` compares. -/
theorem setupStarts (b : BitVec 64) (s : State) :
    (let s1 : State := { s with host := { s.host with bootAddr := b } }
    ({ s1 with host := { s1.host with bootStat := 1, bootReason := 0, setupBusy := true } } : State)) =
      { s with host := { s.host with bootAddr := b, bootStat := 1, bootReason := 0, setupBusy := true } } :=
  rfl
theorem mbxBootAddrHi_heard (h : deaf s = false) (hmq : s.host.mq[0].state ≠ .active) (hidle : s.host.setupBusy = false)
    (haddr : s.host.bootAddr.toNat % 64 = 0) : mbxBootAddrHi v s = { s with host := { s.host with
      bootAddr := BitVec.ofNat 64 (s.host.bootAddr.toNat % 2 ^ 32 + v.toNat * 2 ^ 32), bootStat := 1, bootReason := 0,
      setupBusy := true } } := by
  have hfree : ¬(s.host.mq[0].state = .active ∨ s.host.setupBusy = true) := by
    rintro (h | h)
    · exact hmq h
    · exact ne_true_of_eq_false hidle h
  have haligned : ¬(s.host.bootAddr.toNat % 2 ^ 32 + v.toNat * 2 ^ 32) % 64 ≠ 0 := by omega
  exact (if_neg (ne_true_of_eq_false h)).trans ((if_neg hfree).trans ((if_neg haligned).trans (setupStarts _ s)))
theorem mqSqTail_active (hopen : HostOpen s) (hactive : s.host.mq[q].state = .active) : mqSqTail q v s = onMq s q fun m =>
    if bits v 0 10 < 2 ^ m.sqLog2 then { m with tail := bits v 0 10 } else { m with dbRange := true } := by
  rw [mqSqTail, if_neg (hears_active hopen hactive)]
  split
  · next hbeyond => exact onMq_congr (if_neg (not_lt.2 hbeyond)).symm
  · next hrange => exact onMq_congr (if_pos (not_le.1 hrange)).symm
theorem mqCqHead_emptied (hopen : HostOpen s) (hactive : s.host.mq[q].state = .active) (hrange : bits v 0 10 < 2 ^ s.host.mq[q].cqLog2)
    (hused : s.host.mq[q].cqUsed ≤ (bits v 0 10 + 2 ^ s.host.mq[q].cqLog2 - s.host.mq[q].cqHead) % 2 ^ s.host.mq[q].cqLog2) :
    mqCqHead q v s = onMq s q fun m => { m with cqHead := bits v 0 10, cqUsed := 0, cqArmed := true } := by
  have hu := passed_all hused
  rw [mqCqHead, if_neg (hears_active hopen hactive), if_neg (not_le.2 hrange), hu, Nat.sub_self, if_pos rfl, decide_eq_true rfl]
theorem mqEqHead_emptied (hopen : HostOpen s) (hactive : s.host.mq[q].state = .active) (hrange : bits v 0 10 < 2 ^ s.host.mq[q].eqLog2)
    (hused : s.host.mq[q].eqUsed ≤ (bits v 0 10 + 2 ^ s.host.mq[q].eqLog2 - s.host.mq[q].eqHead) % 2 ^ s.host.mq[q].eqLog2) :
    mqEqHead q v s = onMq s q fun m => { m with eqHead := bits v 0 10, eqUsed := 0, eqArmed := true } := by
  have hu := passed_all hused
  rw [mqEqHead, if_neg (hears_active hopen hactive), if_neg (not_le.2 hrange), hu, Nat.sub_self, if_pos rfl, decide_eq_true rfl]
theorem msixTableWrite_nonePending {off : BitVec 10} (h : deaf s = false) (hpba : s.host.msix.pba = 0) :
    msixTableWrite off v s = onMsix s fun m => { m with
      table := vmod m.table (Fin.ofNat 256 (off.toNat / 4)) fun _ =>
        if off.toNat / 4 % 4 = 3 then v &&& 1 else if off.toNat / 4 % 4 = 0 then v &&& 0xFFFFFFFC else v } := by
  rw [msixTableWrite, h, if_neg Bool.false_ne_true]
  exact msixFlush_of_none hpba
end doorbells
/-- Settles O2: with the stream open a doorbell is its register's arm, and the ring's own state decides there. -/
theorem hostDoorbells : Obligations.HostDoorbells :=
  ⟨fun _ _ hopen => congrArg Host.Outcome.next ((inStream_reg hopen _ _ _).trans (mbxBootAddrLo_heard (open_deaf hopen))),
    fun _ _ hopen hmq hidle haddr =>
      congrArg Host.Outcome.next ((inStream_reg hopen _ _ _).trans (mbxBootAddrHi_heard (open_deaf hopen) hmq hidle haddr)),
    fun _ _ _ hopen hactive => congrArg Host.Outcome.next ((inStream_reg hopen _ _ _).trans (mqSqTail_active hopen hactive)),
    fun _ _ _ hopen hactive hrange hused =>
      congrArg Host.Outcome.next ((inStream_reg hopen _ _ _).trans (mqCqHead_emptied hopen hactive hrange hused)),
    fun _ _ _ hopen hactive hrange hused =>
      congrArg Host.Outcome.next ((inStream_reg hopen _ _ _).trans (mqEqHead_emptied hopen hactive hrange hused)),
    fun _ _ _ hopen hpba =>
      congrArg Host.Outcome.next ((inStream_reg hopen _ _ _).trans (msixTableWrite_nonePending (open_deaf hopen) hpba))⟩
end Sys2Proof.Machine

/-! # Global and mailbox commands (chapter 02) -/
namespace Sys2Proof.Machine
section
variable {d : Desc} {s : State}
theorem authNarrow_served (h : Served authNarrowInfo d [0] s) (hp : d.p 16 1 ≤ 11) (halive : portAlive s d.port = true) :
    authNarrow d s = finish d St.ok (s.liveAuth (Fin.ofNat 12 (d.p 16 1)) &&& ~~~(BitVec.ofNat 6 (d.p 17 1))).toNat
      { s with host := { s.host with
        narrow := s.host.narrow ++ [(d.port, d.tag, Fin.ofNat 12 (d.p 16 1), BitVec.ofNat 6 (d.p 17 1))] } } :=
  (served_command h (decide_eq_true hp) _).trans (if_pos halive)
theorem mbxQueueCreate_served {q : Fin 4} (h : Served mbxQueueCreateInfo d [q.val] s)
    (hgood : queueBad ((paramBytes d).take 32) = none) (habsent : s.host.mq[q].state = .absent) :
    mbxQueueCreate d s = finish d St.ok 0 (activate q ((paramBytes d).take 32) s) := by
  unfold mbxQueueCreate
  rw [served_command h (Option.isNone_iff_eq_none.2 hgood)]
  simp only [List.headD_cons, Fin.ofNat_val_eq_self]
  exact if_neg (not_not.2 habsent)
theorem mbxQueueDelete_served {q : Fin 4} (h : Served mbxQueueDeleteInfo d [q.val] s) (hthere : s.host.mq[q].state ≠ .absent)
    (hfree : d.bit 16 0 = true ∨ s.host.mq[q].cmds.any (fun c => !c.orphan) = false) :
    mbxQueueDelete d s = finish d St.ok 0 (deleteMq q s) := by
  have hidle : ¬((s.host.mq[q].cmds.any fun c => !c.orphan) = true ∧ (!d.bit 16 0) = true) := by
    rintro ⟨hbusy, hdrain⟩
    rcases hfree with habort | hnone
    · simp [habort] at hdrain
    · exact ne_true_of_eq_false hnone hbusy
  unfold mbxQueueDelete
  rw [served_command h rfl]
  simp only [List.headD_cons, Fin.ofNat_val_eq_self]
  exact (if_neg hthere).trans (if_neg hidle)
theorem mbxEventMask_served {q : Fin 4} (h : Served mbxEventMaskInfo d [0] s) (hport : d.port.val = q.val) :
    mbxEventMask d s = finish d St.ok s.host.mq[q].mask.toNat
      (onMq s q fun m => { m with mask := BitVec.ofNat 32 (d.p 16 4) &&& 0x7FFFE }) := by
  have hlt : d.port.val < 4 := hport ▸ q.isLt
  have hq : (⟨d.port.val, hlt⟩ : Fin 4) = q := Fin.ext hport
  subst hq
  exact (served_command h rfl _).trans (dif_pos hlt)
end
/-- Settles O6: a served command is its own arm, whose branches its premises choose. -/
theorem hostCommands : Obligations.HostCommands :=
  ⟨fun _ _ h => congrArg Host.Outcome.next (served_command h rfl _),
    fun _ _ h hp halive => congrArg Host.Outcome.next (authNarrow_served h hp halive),
    fun _ _ h => congrArg Host.Outcome.next (served_command h rfl _),
    fun _ _ _ h hgood habsent => congrArg Host.Outcome.next (mbxQueueCreate_served h hgood habsent),
    fun _ _ _ h hthere hfree => congrArg (fun t => Host.Outcome.next (settleWeir t)) (mbxQueueDelete_served h hthere hfree),
    fun _ _ _ h hport => congrArg Host.Outcome.next (mbxEventMask_served h hport),
    fun _ _ h hrate => congrArg Host.Outcome.next (served_command h (decide_eq_true hrate) _)⟩
end Sys2Proof.Machine

/-! # The service port, the SMBus target, configuration requests (R72, R73, R504), and the work of a mailbox -/
namespace Sys2Proof.Machine
section sideband
variable {s : State}
theorem svcError_alive (h : svcAlive s = true) (r : Nat) : svcError r s = s.emit (.svc (svcFrame 0x07 [BitVec.ofNat 8 r])) :=
  if_pos h
theorem svcFrame_taken {f : List Byte} (h : svcAlive s = true) (hgood : svcRefusal s f = none) : svcFrame_ f s = svcTake f s := by
  simp [svcFrame_, h, hgood]
theorem svcFrame_refused {f : List Byte} {r : Nat} (h : svcAlive s = true) (hbad : svcRefusal s f = some r) :
    svcFrame_ f s = s.emit (.svc (svcFrame 0x07 [BitVec.ofNat 8 r])) := by
  simp [svcFrame_, h, hbad, svcError_alive]
theorem smbusWord_listed {code : Byte} (h : code.toNat < 10) (hready : s.host.tele.ready = true) (hcode : code.toNat ≠ 0) :
    smbusWord code s = some s.host.tele.words[code.toNat] := by
  simp only [smbusWord, h, hready, hcode, dif_pos, if_false, Bool.not_true, Bool.false_eq_true, false_and]
theorem smbusWord_unlisted {code : Byte} (h : 10 ≤ code.toNat) : smbusWord code s = none :=
  dif_neg (not_lt.2 h)
theorem smbusReadWord_word {code : Byte} {pec : Bool} {w : BitVec 16} (hcore : s.boot.coreOut = true) (hio : s.pwr.rail[7].inWin = true)
    (hword : smbusWord code s = some w) : smbusReadWord ⟨smbAddr s, code, true, pec⟩ s =
      s.emit (.smb true true (leBytes 2 w.toNat ++ if pec then [smbPec (smbAddr s) code w] else [])) := by
  have hgood : io33Good s = true := hio
  simp only [smbusReadWord, hcore, hgood, hword, Bool.not_true, decide_not, decide_true, ne_eq, Bool.or_self, Bool.false_eq_true, if_false]
theorem smbusReadWord_noWord {code : Byte} {pec : Bool} (hcore : s.boot.coreOut = true) (hio : s.pwr.rail[7].inWin = true)
    (hword : smbusWord code s = none) : smbusReadWord ⟨smbAddr s, code, true, pec⟩ s = s.emit (.smb true false []) := by
  have hgood : io33Good s = true := hio
  simp only [smbusReadWord, hcore, hgood, hword, Bool.not_true, decide_not, decide_true, ne_eq, Bool.or_self, Bool.false_eq_true, if_false]
theorem crsEnded_iff : crsEnded s = true ↔ s.glb.fil ≠ 0 ∨ s.now ≥ max s.boot.relAt s.boot.perstAt + 800000000 := by
  unfold crsEnded
  rw [Bool.or_eq_true, bne_iff_ne, decide_eq_true_iff]
theorem configRequest_read {req : BitVec 16} {dw : BitVec 10} (hcore : s.boot.coreOut = true) :
    configRequest ⟨req, dw, none⟩ s = s.emit (if s.glb.fil ≠ 0 ∨ s.now ≥ max s.boot.relAt s.boot.perstAt + 800000000
      then .cfgOk req (cfgDword s.host.cfg dw.toNat) else .crs req) := by
  by_cases h : s.glb.fil ≠ 0 ∨ s.now ≥ max s.boot.relAt s.boot.perstAt + 800000000
  · rw [if_pos h]
    simp [configRequest, hcore, crsEnded_iff.2 h]
  · rw [if_neg h]
    simp [configRequest, hcore, Bool.eq_false_iff.2 (mt crsEnded_iff.1 h)]
theorem configRequest_write {req : BitVec 16} {dw : BitVec 10} {be : BitVec 4} {v : Word} (hcore : s.boot.coreOut = true)
    (hfil : s.glb.fil ≠ 0) :
    configRequest ⟨req, dw, some (be, v)⟩ s = (cfgWrite ⟨req, dw, some (be, v)⟩ be v s).emit (.cfgOk req 0) := by
  simp [configRequest, hcore, crsEnded_iff.2 (.inl hfil)]
end sideband
/-- Settles O5: each clause is the branch of its function that the premises choose. -/
theorem sidebandAnswers : Obligations.SidebandAnswers :=
  ⟨fun _ _ h hgood => congrArg Host.Outcome.next (svcFrame_taken h hgood),
    fun _ _ _ h hbad => congrArg Host.Outcome.next (svcFrame_refused h hbad),
    fun _ h => ⟨congrArg Host.Outcome.next (svcError_alive h 1), congrArg Host.Outcome.next (svcError_alive h 7),
      fun _ hlen => congrArg Host.Outcome.next ((if_pos hlen).trans (svcError_alive h 2))⟩,
    fun _ _ => rfl, fun _ _ _ => rfl, fun _ _ _ h hcore hio hready hcode =>
      congrArg Host.Outcome.next (smbusReadWord_word hcore hio (smbusWord_listed h hready hcode)),
    fun _ _ _ hcore hio h => congrArg Host.Outcome.next (smbusReadWord_noWord hcore hio (smbusWord_unlisted h)),
    fun _ _ _ hcore => congrArg Host.Outcome.next (configRequest_read hcore),
    fun _ _ _ _ _ hcore hfil => congrArg Host.Outcome.next (configRequest_write hcore hfil)⟩
section mailbox
variable {q : Fin 4} {s : State}
theorem mbxSetupReadDone_good {v : BitVec 512} (hbusy : s.host.setupBusy = true)
    (hgood : queueBad ((leBytes 64 v.toNat).take 32) = none) (hzero : zeros (leBytes 64 v.toNat) 32 32 = true) :
    mbxSetupReadDone (some v) s = activate 0 (leBytes 64 v.toNat)
      { s with host := { s.host with bootStat := 2, bootReason := 0, setupBusy := false } } := by
  simp only [mbxSetupReadDone, hbusy, hgood, hzero, Bool.not_true, Bool.false_eq_true, if_false]
theorem descriptorFetch_may {raw : BitVec 512} (h : mayFetch s q = true) :
    descriptorFetch q raw s = takeDesc (rawDesc ⟨q.val, by omega⟩ (BitVec.ofNat 16 s.host.mq[q].fetch) raw) (opcodeOf raw) []
      (onMq s q fun m => { m with fetch := (s.host.mq[q].fetch + 1) % 2 ^ m.sqLog2 }) := by
  simp only [descriptorFetch, h, Bool.not_true, Bool.false_eq_true, if_false]
theorem completionWrite_queue {tag : BitVec 16} {c : Cmd}
    (hfind : s.host.mq[q].cmds.find? (fun c => c.tag = tag ∧ c.phase.isFinished) = some c)
    (hactive : s.host.mq[q].state = .active) (hroom : s.host.mq[q].cqUsed < 2 ^ s.host.mq[q].cqLog2)
    (hunarmed : s.host.mq[q].cqArmed = false) :
    completionWrite ⟨q.val, by omega⟩ tag s = afterCompletion ⟨q.val, by omega⟩ c ((onMq s q fun m =>
      { m with cmds := dropCmd tag m.cmds, cqTail := (m.cqTail + 1) % 2 ^ m.cqLog2, cqUsed := m.cqUsed + 1,
               cqPhase := if (m.cqTail + 1) % 2 ^ m.cqLog2 = 0 then !m.cqPhase else m.cqPhase,
               cqArmed := false }).emit
        (.dma (s.host.mq[q].cqBase + BitVec.ofNat 64 (16 * s.host.mq[q].cqTail))
          (completionBytes c c.sqi s.host.mq[q].cqPhase) 0)) := by
  have hfree : ¬(s.host.mq[q].state ≠ .active ∨ s.host.mq[q].cqUsed ≥ 2 ^ s.host.mq[q].cqLog2) :=
    not_or.2 ⟨not_not.2 hactive, not_le.2 hroom⟩
  simp only [completionWrite, q.isLt, dif_pos, Fin.eta, hfind, hfree, hunarmed, if_false, Bool.false_eq_true]
  rfl
theorem completionWrite_service {tag : BitVec 16} {c : Cmd}
    (hfind : s.host.svc.cmds.find? (fun c => c.tag = tag ∧ c.phase.isFinished) = some c) :
    completionWrite 4 tag s = afterCompletion 5 c ((onCmds s 5 (dropCmd tag)).emit
      (.svc (svcFrame 0x02 (completionBytes c 0 false ++ c.data)))) := by
  have hport : ¬(4 : Fin 5).val < 4 := by decide
  simp only [completionWrite, hport, hfind, dif_neg, not_false_eq_true]
theorem mqDmaFail_active (h : s.host.mq[q].state = .active) :
    mqDmaFail q s = (onMq (haltMq q s) q fun m => { m with dmaFail := true }).raise 0x0201 q [(16, q)] :=
  if_neg (not_not.2 h)
end mailbox
/-- Settles O3: each clause is the branch of its function that the premises choose. -/
theorem mailboxWork : Obligations.MailboxWork :=
  ⟨fun _ _ hbusy hgood hzero => congrArg Host.Outcome.next (mbxSetupReadDone_good hbusy hgood hzero),
    fun _ _ _ h => congrArg Host.Outcome.next (descriptorFetch_may h),
    fun _ _ _ _ hfind hactive hroom hunarmed => congrArg Host.Outcome.next (completionWrite_queue hfind hactive hroom hunarmed),
    fun _ _ _ hfind => congrArg Host.Outcome.next (completionWrite_service hfind),
    fun _ _ h => congrArg Host.Outcome.next (mqDmaFail_active h)⟩
end Sys2Proof.Machine

/-! # The backup domain's and the integrity commands (chapters 16 and 10) -/
namespace Sys2Proof.Machine
section
variable {d : Desc} {s : State}
theorem bkdTimeSet_served (h : Served bkdTimeSetInfo d [0] s) (hok : fieldsOk (calOf (d.p 16 8)) = true) (hfree : s.bkd.setCmd = false) :
    bkdTimeSet d s = running d .bkd 0 { s with bkd := { s.bkd with
      transit := s.bkd.transit ++ timeWrites (calOf (d.p 16 8)), setCmd := true } } := by
  rw [bkdTimeSet, served_command h rfl]
  simp only [hok, hfree, Bool.not_true, Bool.false_eq_true, if_false]
theorem bkdAlarmSet_served (h : Served bkdAlarmSetInfo d [0] s)
    (hok : d.bit 25 0 = true → fieldsOk (calOf (d.p 18 6 * 2 ^ 16 + 2 ^ 10)) = true) :
    bkdAlarmSet d s = finish d St.ok 0 (send (.alarmSet (calOf (d.p 18 6 * 2 ^ 16 + 2 ^ 10)) (BitVec.ofNat 6 (d.p 24 1))
      (d.bit 25 0) (d.bit 25 1)) s) := by
  have hgood : ¬(d.bit 25 0 = true ∧ (!fieldsOk (calOf (d.p 18 6 * 2 ^ 16 + 2 ^ 10))) = true) := by
    rintro ⟨harm, hbad⟩
    rw [hok harm] at hbad
    cases hbad
  exact (served_command h rfl _).trans (if_neg hgood)
theorem errConfig_served (h : Served errConfigInfo d [0] s) (hi : 1 ≤ d.p 16 1) (hlo : 2 ≤ d.p 17 1) (hhi : d.p 17 1 ≤ 254)
    (hr : d.p 17 1 < d.p 18 1) : errConfig d s = storing d 0x0A11 [setting 0x0A11 0xFF (paramBytes d)] 0 s :=
  served_command h (by simp [errConfigOk, hi, hlo, hhi, hr]) _
theorem settingApply_errConfig {u : DueSet} (h : u.op = 0x0A11) : settingApply u s =
    { s with err := { s.err with cfgNext := some (u.desc.p 16 1, u.desc.p 17 1, u.desc.p 18 1) } } := by
  simp only [settingApply, h, errConfigApply]
/-- An injection into a line that holds data is planted at once where it is of kind 3, else at the next write of the granule. -/
theorem errInject_served {l g : Nat} (h : Served errInjectInfo d [0] s) (hg : g ≤ 3) (hd : d.p 32 1 = g) (hfree : hostBehind s l = false)
    (hslot : d.p 24 8 / 2 ^ 38 = s.slot) (hl : l = d.p 24 8 % 2 ^ 38 / 256) (hseg : s.segExists (segOf l) = true)
    (hnever : (s.eff l).1 ≠ .never) (hunres : (s.eff l).1 ≠ .unrestored)
    (hvalid : d.p 16 1 = 3 → (s.lineAt l).valid.getLsbD g = true) :
    errInject d s = if d.p 16 1 = 3 then finish d St.ok 0 (poisonHome l 5 (BitVec.ofNat 4 (2 ^ g)) s)
      else finish d St.ok 0 { s with err := { s.err with inject := s.err.inject ++ [(d.p 16 1, l * 4 + g)] } } := by
  subst hd
  have hline : lineOf (d.p 24 8 % 2 ^ 38) = l := hl.symm
  have hgood : ¬(d.p 24 8 / 2 ^ 38 ≠ s.slot ∨ (!s.segExists (segOf l)) = true ∨ (s.eff l).1 = .never ∨ (s.eff l).1 = .unrestored ∨
      d.p 16 1 = 3 ∧ (!(s.lineAt l).valid.getLsbD (d.p 32 1)) = true) := by
    rw [hseg]
    rintro (hs | hs | hs | hs | ⟨hkind, hs⟩)
    · exact hs hslot
    · cases hs
    · exact hnever hs
    · exact hunres hs
    · rw [hvalid hkind] at hs
      cases hs
  rw [errInject, served_command h (decide_eq_true hg), hline]
  exact (if_neg (ne_true_of_eq_false hfree)).trans (if_neg hgood)
theorem errBktReset_one (h : Served errBktResetInfo d [0] s) (hi : d.p 16 1 ≤ 36) :
    errBktReset d s = finish d St.ok 0 (onBucket s (Fin.ofNat 37 (d.p 16 1)) fun b => { b with count := 0, isOver := false }) := by
  have hone : ¬d.p 16 1 = 0xFF := by omega
  rw [errBktReset, served_command h (by simp [hi]), if_neg hone]
theorem errBktReset_all (h : Served errBktResetInfo d [0] s) (hi : d.p 16 1 = 0xFF) :
    errBktReset d s = finish d St.ok 0 { s with err := { s.err with bkt := s.err.bkt.map fun b =>
      { b with count := 0, isOver := false } } } := by
  rw [errBktReset, served_command h (by simp [hi]), if_pos hi]
end
/-- Settles O54: a served command is its own arm, whose branches its premises choose. -/
theorem backupAndIntegrityCommands : Obligations.BackupAndIntegrityCommands := by
  refine ⟨fun _ _ h => congrArg Host.Outcome.next (served_command h rfl _),
    fun _ _ h hok hfree => congrArg Host.Outcome.next (bkdTimeSet_served h hok hfree),
    fun _ _ h hok => congrArg Host.Outcome.next (bkdAlarmSet_served h hok),
    fun _ _ h => congrArg Host.Outcome.next (served_command h rfl _),
    fun _ _ h => congrArg Host.Outcome.next (served_command h rfl _),
    fun _ _ h hi => congrArg Host.Outcome.next (served_command h (decide_eq_true hi) _),
    fun _ _ h hi hlo hhi hr => congrArg Host.Outcome.next (errConfig_served h hi hlo hhi hr),
    fun _ _ h => settingApply_errConfig h,
    fun _ _ _ _ h hg hd hfree hslot hl hseg hnever hunres hvalid =>
      congrArg Host.Outcome.next (errInject_served h hg hd hfree hslot hl hseg hnever hunres hvalid),
    fun _ _ h hi => congrArg Host.Outcome.next (errBktReset_one h hi),
    fun _ _ h hi => congrArg Host.Outcome.next (errBktReset_all h hi),
    fun _ h => congrArg Host.Outcome.next (by rw [bucketTick, h]),
    fun _ _ _ _ h => congrArg Host.Outcome.next (by rw [bucketTick, h])⟩
end Sys2Proof.Machine

/-! # The ledger's commands and its page writes (chapter 16) -/
namespace Sys2Proof.Machine
section dueSets
/-! A setting that waits for its record stands in the host's part of the state; raising an event leaves it there. -/
variable (s : State)
theorem msix_dueSets (v : Nat) : (s.msix v).host.dueSets = s.host.dueSets := by
  unfold State.msix
  split <;> rfl
theorem pushEvent_dueSets (q : Fin 4) (e : Event) : (s.pushEvent q e).host.dueSets = s.host.dueSets := by
  unfold State.pushEvent
  dsimp only
  split
  · rfl
  · split
    · exact msix_dueSets _ _
    · rfl
theorem pushEvents_dueSets (l : List (Fin 4)) (p : State → Fin 4 → Prop) [∀ s q, Decidable (p s q)] (e : Event) :
    (l.foldl (fun s q => if p s q then s.pushEvent q e else s) s).host.dueSets = s.host.dueSets := by
  induction l generalizing s with
  | nil => rfl
  | cons q l ih =>
    rw [List.foldl_cons, ih]
    split
    · exact pushEvent_dueSets s q e
    · rfl
theorem deliver_dueSets (e : Event) : (s.deliver e).host.dueSets = s.host.dueSets := by
  have hqueues := pushEvents_dueSets s [0, 1, 2, 3]
    (fun s q => s.host.mq[q].state = .active ∧ s.host.mq[q].mask.getLsbD (bits e.code 8 8)) e
  unfold State.deliver
  dsimp only
  generalize List.foldl _ s [(0 : Fin 4), 1, 2, 3] = t at hqueues ⊢
  rw [← hqueues]
  repeat' split
  all_goals rfl
theorem raise_dueSets (c i : Nat) (d : List (Nat × Nat)) : (s.raise c i d).host.dueSets = s.host.dueSets := deliver_dueSets s _
theorem raiseLim_dueSets (c k i : Nat) (d : List (Nat × Nat)) : (s.raiseLim c k i d).host.dueSets = s.host.dueSets := by
  unfold State.raiseLim
  split
  · exact raise_dueSets _ c i d
  · rfl
theorem raiseErr_dueSets (c k i b : Nat) (d : List (Nat × Nat)) : (s.raiseErr c k i b d).host.dueSets = s.host.dueSets := by
  unfold State.raiseErr
  split
  · exact raiseLim_dueSets _ c k i d
  · rfl
theorem bucketAdd_dueSets (i : Fin 37) : (bucketAdd i s).host.dueSets = s.host.dueSets := by
  unfold bucketAdd
  dsimp only
  split <;> split <;> simp only [raiseErr_dueSets, onBucket]
theorem bucketAdd_ldg (i : Fin 37) : (bucketAdd i s).ldg = s.ldg := by
  unfold bucketAdd
  dsimp only
  split <;> split <;> simp [onBucket]
theorem bucketAddN_dueSets (i : Fin 37) (n : Nat) : (bucketAddN i n s).host.dueSets = s.host.dueSets := by
  induction n generalizing s with
  | zero => rfl
  | succ n ih => exact (ih _).trans (bucketAdd_dueSets s i)
theorem bucketAddN_ldg (i : Fin 37) (n : Nat) : (bucketAddN i n s).ldg = s.ldg := by
  induction n generalizing s with
  | zero => rfl
  | succ n ih => exact (ih _).trans (bucketAdd_ldg s i)
theorem groupsCorrected_ldg (n : Nat) : (groupsCorrected n s).ldg = { s.ldg with corr := sat 32 (s.ldg.corr + n) } := bucketAddN_ldg _ 28 n
theorem groupsCorrected_dueSets (n : Nat) : (groupsCorrected n s).host.dueSets = s.host.dueSets := bucketAddN_dueSets _ 28 n
/-- Where no stored setting is due, none takes effect. -/
theorem applyReady_of_none (h : ∀ u ∈ s.host.dueSets, u.ready = false) : applyReady s = s := by
  have hgo : s.host.dueSets.filter (·.ready) = [] := List.filter_eq_nil_iff.2 fun u hu => ne_true_of_eq_false (h u hu)
  have hstay : s.host.dueSets.filter (fun u => !u.ready) = s.host.dueSets :=
    List.filter_eq_self.2 fun u hu => by rw [h u hu]; rfl
  unfold applyReady
  rw [List.partition_eq_filter_filter]
  show (s.host.dueSets.filter (·.ready)).foldl _ { s with host := { s.host with dueSets := s.host.dueSets.filter fun u => !u.ready } } = s
  rw [hgo, hstay]
  rfl
end dueSets
section
variable {d : Desc} {g buf : List Byte} {r : LRec} {s : State}
theorem ldgTagRead_served (h : Served ldgTagReadInfo d [0] s) (hr : current (s.searched 1).1 (0x20, 0, []) = some r) :
    ldgTagRead d s = finishData d St.ok (pack [(0, r.payload.length), (32, r.seq)]) (d.p 16 8) r.payload (s.searched 1).2 := by
  rw [ldgTagRead, served_command h rfl]
  simp only [hr]
theorem ldgEventRead_served (h : Served ldgEventReadInfo d [0] s) (hlo : 1 ≤ d.p 28 2) (hhi : d.p 28 2 ≤ 256)
    (hsome : ((newestFirst (s.searched 10).1).drop (d.p 24 4)).take (d.p 28 2) ≠ []) :
    ldgEventRead d s = finishData d St.ok
      (((newestFirst (s.searched 10).1).drop (d.p 24 4)).take (d.p 28 2)).length (d.p 16 8)
      ((((newestFirst (s.searched 10).1).drop (d.p 24 4)).take (d.p 28 2)).flatMap fun r => r.raw.take 32) (s.searched 10).2 := by
  rw [ldgEventRead, served_command h (by simp [hlo, hhi])]
  exact if_neg hsome
theorem ldgUserAppend_served (h : Served ldgUserAppendInfo d [0] s) (ha : d.p 16 1 ≤ 1) (hbuf : buf = bufferOf s d 0x1114 g)
    (hok : bufOk buf (d.p 32 2) 1 496 = true) :
    ldgUserAppend d g s = storing d 0x1114 [(11 + d.p 16 1, 0x30, d.p 17 1, buf, .user (d.p 16 1))] 0 s := by
  subst hbuf
  exact served_command h (by simp [ha, hok]) _
theorem ldgUserRead_served (h : Served ldgUserReadInfo d [0] s) (ha : d.p 16 1 ≤ 1)
    (hr : (newestFirst (s.searched (11 + d.p 16 1)).1)[d.p 20 4]? = some r) :
    ldgUserRead d s = finishData d St.ok (pack [(0, r.payload.length), (16, r.inst), (32, r.seq)]) (d.p 24 8)
      r.payload (s.searched (11 + d.p 16 1)).2 := by
  rw [ldgUserRead, served_command h (decide_eq_true ha)]
  simp only [hr]
theorem ldgRawRead_served (h : Served ldgRawReadInfo d [0] s) (hlo : 1 ≤ d.p 20 2) (hhi : d.p 20 2 ≤ 4096)
    (hend : d.p 16 4 + d.p 20 2 ≤ 0x40000) :
    ldgRawRead d s = finishData d St.ok 0 (d.p 24 8) (ldgBytes s.ldg s.free (d.p 16 4) (d.p 20 2)) { s with free := s.free + 1 } :=
  served_command h (by rw [decide_eq_true hlo, decide_eq_true hhi, decide_eq_true hend]; rfl) _
theorem ldgRawWrite_served (h : Served ldgRawWriteInfo d [0] s) (hbuf : buf = bufferOf s d 0x1117 g)
    (hok : bufOk buf (d.p 20 1) 1 64 = true) (ha : d.p 16 4 < 0x40000) (hfree : s.ldg.locked = false ∨ 0x2000 ≤ d.p 16 4) :
    ldgRawWrite d g s = ldgEnqueue [(d.p 16 4 / 64, 0, d.p 16 4 % 64, buf, .raw)]
      (running d (.ledger s.ldg.nextJob St.ok) 0 s) := by
  subst hbuf
  have hopen : ¬(s.ldg.locked = true ∧ d.p 16 4 / 64 < 128) := by
    rintro ⟨hlocked, hlow⟩
    rcases hfree with hunlocked | hhigh
    · exact ne_true_of_eq_false hunlocked hlocked
    · omega
  exact (served_command h (by rw [hok, decide_eq_true ha]; rfl) _).trans (if_neg hopen)
end
/-- A page write that reads back right, of a record with more pages to come, stores its bytes and takes the next page. -/
theorem pageWriteDone_more {pw q : PageWrite} {rest : List PageWrite} {j : LdgJob} {js : List LdgJob} {s : State}
    (hpages : s.ldg.pages = pw :: q :: rest) (hjobs : s.ldg.jobs = j :: js) :
    ∃ l : Ldg, pageWriteDone true s = { s with ldg := l } ∧ l.mem = mputs 0xFF s.ldg.mem (pw.page * 64) pw.data ∧
      l.pages = q :: rest ∧ l.jobs = s.ldg.jobs := by
  simp only [pageWriteDone, hpages, hjobs, if_true, ne_eq, reduceCtorEq, not_false_eq_true]
  exact ⟨_, rfl, rfl, rfl, rfl⟩
theorem ledgerPageWriteDone_more {pw q : PageWrite} {rest : List PageWrite} {j : LdgJob} {js : List LdgJob} {n : Nat} {s : State}
    (hpages : s.ldg.pages = pw :: q :: rest) (hjobs : s.ldg.jobs = j :: js) (hdue : ∀ u ∈ s.host.dueSets, u.ready = false) :
    ∃ l : Ldg, ledgerPageWriteDone true n s = { groupsCorrected (min 8 n) s with ldg := l } ∧
      l.mem = mputs 0xFF s.ldg.mem (pw.page * 64) pw.data ∧ l.pages = q :: rest ∧ l.jobs = s.ldg.jobs := by
  have hl := groupsCorrected_ldg s (min 8 n)
  obtain ⟨l, hdone, hmem, hleft, hsame⟩ := pageWriteDone_more (s := groupsCorrected (min 8 n) s)
    (by rw [hl]; exact hpages) (by rw [hl]; exact hjobs)
  have hnone : ∀ u ∈ (pageWriteDone true (groupsCorrected (min 8 n) s)).host.dueSets, u.ready = false := by
    rw [hdone]
    exact groupsCorrected_dueSets s (min 8 n) ▸ hdue
  refine ⟨l, ?_, by rw [hmem, hl], hleft, by rw [hsame, hl]⟩
  rw [ledgerPageWriteDone, if_neg (by rw [hpages]; exact List.cons_ne_nil _ _), applyReady_of_none _ hnone, hdone]
theorem voteRepair_due {s : State} (hstate : s.glb.state = 2) (hdue : s.err.repairPending = true) (hanchor : s.err.voteAnchor ≠ 3)
    (hidle : repairing s.ldg = false) : voteRepair s = repairGroup (repairGroup (repairGroup s 0) 1) 2 := by
  have hgo : ¬(s.glb.state ≠ 2 ∨ s.err.repairPending = false ∨ s.err.voteAnchor = 3 ∨ repairing s.ldg = true) := by
    simp [hstate, hdue, hanchor, hidle]
  exact if_neg hgo
/-- Settles O55: a served command is its own arm, and a page that reads back right is stored by the writer's own step. -/
theorem ledgerCommands : Obligations.LedgerCommands := by
  refine ⟨fun _ _ h => congrArg Host.Outcome.next (served_command h rfl _),
    fun _ _ _ _ h hbuf hok => congrArg Host.Outcome.next (hbuf ▸ served_command h (hbuf ▸ hok) _),
    fun _ _ _ h hr => congrArg Host.Outcome.next (ldgTagRead_served h hr),
    fun _ _ h hlo hhi hsome => congrArg Host.Outcome.next (ldgEventRead_served h hlo hhi hsome),
    fun _ _ _ _ h ha hbuf hok => congrArg Host.Outcome.next (ldgUserAppend_served h ha hbuf hok),
    fun _ _ _ h ha hr => congrArg Host.Outcome.next (ldgUserRead_served h ha hr),
    fun _ _ h hlo hhi hend => congrArg Host.Outcome.next (ldgRawRead_served h hlo hhi hend),
    fun _ _ _ _ h hbuf hok ha hfree => congrArg Host.Outcome.next (ldgRawWrite_served h hbuf hok ha hfree),
    fun _ _ _ _ _ _ _ hpages hjobs hdue => ?_,
    fun _ hstate hdue hanchor hidle => congrArg Host.Outcome.next (voteRepair_due hstate hdue hanchor hidle)⟩
  obtain ⟨l, hdone, hmem, hleft, hsame⟩ := ledgerPageWriteDone_more hpages hjobs hdue
  exact ⟨_, congrArg Host.Outcome.next hdone, hmem, hleft, hsame, rfl⟩
end Sys2Proof.Machine

/-! # DRAM channel and fabric commands (chapter 09) -/
namespace Sys2Proof.Machine
section single
variable {n : Nat} {check : Nat → Option Nat}
/-- One target that passes its check fails none. -/
theorem failing_one (h : check n = none) : failing [n] check = [] := by
  simp [failing, h]
theorem passedOf_nil (ts : List Nat) : passedOf ts [] = ts := by
  simp [passedOf]
theorem statusOf_nil (ts : List Nat) : statusOf ts [] = St.ok := by
  simp [statusOf, passedOf_nil]
end single
section
variable {d : Desc} {n : Nat} {s : State}
theorem dchConfig_served (h : Served dchConfigInfo d [n] s) (hstopped : s.lifeOf .dch n = .stopped) (hlo : 100 ≤ d.p 18 2)
    (hhi : d.p 18 2 ≤ 8000) (htim : timOk d s.dch[0].density = true) :
    dchConfig d s = storingAs St.ok d 0x0911 [n] [setting 0x0911 n (paramBytes d)] (maskOf [n]) s := by
  have hfail : failing [n] (fun t => if s.lifeOf .dch t = .stopped then none else some St.unitState) = [] :=
    failing_one (if_pos hstopped)
  rw [dchConfig, served_command h (by simp [hlo, hhi, htim])]
  simp only [hfail, statusOf_nil, passedOf_nil, List.map_cons, List.map_nil]
theorem settingApply_dchConfig {u : DueSet} (hop : u.op = 0x0911) (hts : u.ts = [n]) :
    settingApply u s = onDch s (Fin.ofNat 4 n) (dchApply u.desc) := by
  simp only [settingApply, hop, hts, dchConfigApply, List.foldl_cons, List.foldl_nil]
theorem settingApply_nextReset {u : DueSet} (hop : u.op = 0x0912 ∨ u.op = 0x0913) : settingApply u s = s := by
  rcases hop with hop | hop <;> simp only [settingApply, hop]
theorem dchPopSet_served (h : Served dchPopSetInfo d [0] s) (hlo : 1 ≤ d.p 16 1) (hhi : d.p 16 1 ≤ 3) (hrank : d.p 19 1 < d.p 16 1)
    (hspare : d.bit 18 0 = true → d.p 16 1 ≠ 1) :
    dchPopSet d s = storing d 0x0912 [setting 0x0912 0xFF (paramBytes d)] 0 s := by
  have hone : (d.bit 18 0 && d.p 16 1 == 1) = false := by
    rw [Bool.and_eq_false_imp]
    exact fun hb => beq_false_of_ne (hspare hb)
  exact served_command h (by rw [decide_eq_true hlo, decide_eq_true hhi, decide_eq_true hrank, hone]; rfl) _
theorem dchMapSet_served (h : Served dchMapSetInfo d [0] s)
    (h0 : bankMaskOk (d.p 24 4) 0 (if s.dch[0].density then 17 else 16) = true)
    (h1 : bankMaskOk (d.p 28 4) 1 (if s.dch[0].density then 17 else 16) = true)
    (h2 : bankMaskOk (d.p 32 4) 2 (if s.dch[0].density then 17 else 16) = true)
    (h3 : bankMaskOk (d.p 36 4) 3 (if s.dch[0].density then 17 else 16) = true) :
    dchMapSet d s = storing d 0x0913 [setting 0x0913 0xFF (paramBytes d)] 0 s := by
  rw [dchMapSet, served_command h rfl]
  simp only [h0, h1, h2, h3, Bool.and_true, if_true]
theorem dchRankRetire_served {sp : Nat} (h : Served dchRankRetireInfo d [n] s) (hr : d.p 16 1 < s.dch[0].ranks)
    (hrunning : s.lifeOf .dch n = .running) (hmig : s.dch[Fin.ofNat 4 n].mig = none) (hspare : spareOf s.dch[Fin.ofNat 4 n] = some sp)
    (hrank : s.dch[Fin.ofNat 4 n].rank[Fin.ofNat 3 (d.p 16 1)] = .inService) :
    dchRankRetire d s = finish d St.ok (maskOf [n]) (startMigration (Fin.ofNat 4 n) (d.p 16 1) sp 3 s) := by
  rw [dchRankRetire, served_command h (decide_eq_true hr), multi_one]
  · simp only [hspare]
  · simp only [hrunning, hmig, hspare, hrank, ne_eq, not_true_eq_false, Option.isSome_none, Option.isNone_some, Bool.false_eq_true,
      if_false]
theorem fabPortSet_served (h : Served fabPortSetInfo d [0] s) (hp : d.p 16 1 ≤ 22) (ht : 100 ≤ d.p 18 2)
    (hrt : isRealTime (Fin.ofNat 23 (d.p 16 1)) = true → d.p 21 1 < d.p 20 1 ∧ d.p 20 1 ≤ 100) :
    fabPortSet d s = storing d 0x0915 [setting 0x0915 (d.p 16 1) (paramBytes d)] 0 s := by
  have hpanic : (!isRealTime (Fin.ofNat 23 (d.p 16 1)) || (decide (d.p 21 1 < d.p 20 1) && decide (d.p 20 1 ≤ 100))) = true := by
    cases hreal : isRealTime (Fin.ofNat 23 (d.p 16 1)) with
    | false => rfl
    | true =>
      obtain ⟨hlo, hhi⟩ := hrt hreal
      simp [hlo, hhi]
  exact served_command h (by rw [decide_eq_true hp, decide_eq_true ht, hpanic]; rfl) _
theorem settingApply_fabPort {u : DueSet} {p : Fin 23} (hop : u.op = 0x0915) (hp : u.desc.p 16 1 = p.val) :
    settingApply u s = onFab s fun f => { f with
      port := vmod f.port p fun x =>
        if isRealTime p then { x with target := u.desc.p 18 2, panicHi := u.desc.p 20 1, panicLo := u.desc.p 21 1 }
        else { x with target := u.desc.p 18 2 } } := by
  simp only [settingApply, hop, fabPortApply, hp, Fin.ofNat_val_eq_self]
end
/-- Settles O38: a served command is its own arm, and a setting that is due is its own row. -/
theorem dramCommands : Obligations.DramCommands :=
  ⟨fun _ _ _ h => congrArg Host.Outcome.next (served_command h rfl _),
    fun _ _ _ h hstopped hlo hhi htim => congrArg Host.Outcome.next (dchConfig_served h hstopped hlo hhi htim),
    fun _ _ _ hop hts => settingApply_dchConfig hop hts, fun _ _ hop => settingApply_nextReset hop,
    fun _ _ h hlo hhi hrank hspare => congrArg Host.Outcome.next (dchPopSet_served h hlo hhi hrank hspare),
    fun _ _ h _ hrows h0 h1 h2 h3 => congrArg Host.Outcome.next (by subst hrows; exact dchMapSet_served h h0 h1 h2 h3),
    fun _ _ _ _ h hr hrunning hmig hspare hrank => congrArg Host.Outcome.next (dchRankRetire_served h hr hrunning hmig hspare hrank),
    fun _ _ h hp ht hrt => congrArg Host.Outcome.next (fabPortSet_served h hp ht hrt),
    fun _ _ _ hop hp => settingApply_fabPort hop hp,
    fun _ _ h hp => congrArg Host.Outcome.next (served_command h (decide_eq_true hp) _)⟩
end Sys2Proof.Machine

/-! # The weir's rows (chapter 05), and the commands of save and restore (chapter 06) and of the store (chapter 07) -/
namespace Sys2Proof.Machine
section
variable {d : Desc} {s : State} {u : DueSet}
theorem nextPond_smaller {cur v : Nat} {rising : List Nat} (h : v ≤ cur) : nextPond cur v rising = (v, []) :=
  if_pos h
/-- A smaller millpond is taken at once. -/
theorem weirRecompute_smaller (h : pondNow s ≤ s.ret.weir.millpond) : ∃ t, weirRecompute s = settleWeir (noteBank t) ∧
    t.ret.weir.millpond = pondNow s ∧ t.ret.weir.allow = allowNow s ∧ t.ret.weir.rising = [] ∧ t.ret.lines = s.ret.lines := by
  unfold weirRecompute
  rw [nextPond_smaller h]
  exact ⟨_, rfl, rfl, rfl, rfl, rfl⟩
theorem weirDryHold_dry {x : Short} {a b : Nat} (hdry : dryPart s = some (a, b)) (hheld : heldShort s = some x)
    (hfirst : s.ret.weir.dryRaised = false) : weirDryHold s = (s.onWeir fun w => { w with dryRaised := true }).raise 0x0512 0
      [(16, x.max), (20, b), (24, largestOpen s)] := by
  rw [weirDryHold, hdry, hheld]
  exact if_neg (ne_true_of_eq_false hfirst)
theorem weirAdmit_idle (h : s.slu.phase = .idle) :
    weirAdmit s = settleWeir (drainStream (admitPorts s).host.stream.length (admitPorts s)) :=
  if_neg (not_not.2 h)
theorem weirCalibrate_served (h : Served weirCalibrateInfo d [0] s) (hok : calOk (calBytes d.p) = true)
    (hfloor : (calBytes d.p).vfloor < s.pwr.hub.target) (hpool : largestAllow (calBytes d.p) s.pwr.hub.target ≤ s.poolBytes) :
    weirCalibrate d s = storing d 0x0512 (triple 5 0x03 0 ((paramBytes d).take 13 ++ [0, 0, 0]) .cal)
      (largestAllow (calBytes d.p) s.pwr.hub.target / 2 ^ 20) s :=
  (served_command h (by rw [hok, decide_eq_true hfloor]; rfl) _).trans (if_neg (not_lt.2 hpool))
theorem settingApply_weirConfig (h : u.op = 0x0511) : settingApply u s = settleWeir (s.onWeir (weirSettings u.desc.p)) := by
  simp only [settingApply, h]
theorem settingApply_weirCal (h : u.op = 0x0512) : settingApply u s = calApply u.desc s := by
  simp only [settingApply, h]
theorem settingApply_debtClear (h : u.op = 0x0513) :
    settingApply u s = s.onWeir fun w => { w with debt := 0, debtHigh := false, debtRecorded := 0 } := by
  simp only [settingApply, h]
/-- A new calibration leaves the pool short only where the pool was short and the largest allowance still passes it. -/
theorem calApply_short : ∃ b, (calApply d s).ret.weir = { s.ret.weir with cal := calBytes d.p } ∧ (calApply d s).ret.sum.shadowShort = b ∧
    (b = true ↔ s.ret.sum.shadowShort = true ∧ largestAllow (calBytes d.p) s.pwr.hub.target > s.poolBytes) := by
  refine ⟨s.ret.sum.shadowShort && decide (largestAllow (calBytes d.p) s.pwr.hub.target > s.poolBytes), rfl, rfl, ?_⟩
  rw [Bool.and_eq_true, decide_eq_true_iff]
end
/-- Settles O23: each clause is the branch of its row that the premises choose. -/
theorem weirRows : Obligations.WeirRows := by
  refine ⟨fun s h => ?_, fun _ _ => rfl, fun _ _ => rfl, fun _ => rfl,
    fun _ _ _ _ hdry hheld hfirst => congrArg Host.Outcome.next (weirDryHold_dry hdry hheld hfirst),
    fun _ h => congrArg Host.Outcome.next (weirAdmit_idle h), fun _ _ h => congrArg Host.Outcome.next (served_command h rfl _),
    fun _ _ h hok => congrArg Host.Outcome.next (served_command h hok _), fun _ _ h => settingApply_weirConfig h,
    fun _ _ h hok hfloor hpool => congrArg Host.Outcome.next (weirCalibrate_served h hok hfloor hpool),
    fun _ _ h => by rw [settingApply_weirCal h]; exact calApply_short,
    fun _ _ h => congrArg Host.Outcome.next (served_command h rfl _), fun _ _ h => settingApply_debtClear h⟩
  obtain ⟨t, ht, hleft⟩ := weirRecompute_smaller h
  exact ⟨t, congrArg Host.Outcome.next ht, hleft⟩
section
variable {d : Desc} {s : State} {u : DueSet}
theorem settingApply_sluConfig (h : u.op = 0x0611) : settingApply u s = onSlu s (sluSettings u.desc.p) := by
  simp only [settingApply, h]
theorem settingApply_detectSet (h : u.op = 0x0612) : settingApply u s = onSlu s (detectSettings u.desc.p) := by
  simp only [settingApply, h]
theorem sluSaveTest_served (h : Served sluSaveTestInfo d [0] s) (hidle : s.slu.streaming = false) :
    sluSaveTest d s = finish d St.ok 0 { s with boot := { s.boot with saveDue := some 6 } } :=
  (served_command h rfl _).trans (if_neg (ne_true_of_eq_false hidle))
theorem sluShutdown_served (h : Served sluShutdownInfo d [0] s) (hidle : s.slu.streaming = false) :
    sluShutdown d s = finish d St.ok 0 { s with boot := { s.boot with saveDue := some 7 } } :=
  (served_command h rfl _).trans (if_neg (ne_true_of_eq_false hidle))
theorem sluPrefetch_served {q : List Nat} (h : Served sluPrefetchInfo d [0] s) (hlo : 1 ≤ d.p 20 4) (hhi : d.p 20 4 ≤ 65536)
    (hsegs : (runOf (d.p 16 4) (d.p 20 4)).all s.segExists = true) (hopen : s.slu.restoreDone = false)
    (hq : q = (runOf (d.p 16 4) (d.p 20 4)).filter fun g => s.slu.todo.contains g) (hsome : q ≠ []) :
    sluPrefetch d s = running d (.prefetch (d.p 16 4) (d.p 20 4)) q.length
      (onSlu s fun x => { x with prefetch := x.prefetch ++ q.filter fun g => !x.prefetch.contains g }) := by
  rw [sluPrefetch, served_command h (by simp [within, hlo, hhi])]
  simp only [hsegs, hopen, ← hq, hsome, Bool.not_true, Bool.false_eq_true, if_false]
theorem ldgKick_ret : (ldgKick s).ret = s.ret := by
  unfold ldgKick
  split <;> rfl
theorem ldgKick_store : (ldgKick s).store = s.store := by
  unfold ldgKick
  split <;> rfl
theorem weirLedgerRecord_ret : (weirLedgerRecord s).ret = { s.ret with weir := { s.ret.weir with debtRecorded := s.ret.weir.debt } } :=
  ldgKick_ret
theorem weirLedgerRecord_store : (weirLedgerRecord s).store = s.store := ldgKick_store
/-- A device reset records the bucket and, where a root stands, writes a checkpoint; then it orders a save. -/
theorem glbDeviceReset_served (h : Served glbDeviceResetInfo d [0] s) : ∃ t, glbDeviceReset d s = finish d St.ok 0 t ∧
    t.boot.saveDue = some 7 ∧ t.pwr.nextMode = 0 ∧ (s.store.root = none →
      t.ret.weir.debtRecorded = s.ret.weir.debt ∧ t.ret.lines = s.ret.lines ∧ t.store = s.store) := by
  unfold glbDeviceReset
  rw [served_command h rfl]
  refine ⟨_, rfl, rfl, rfl, fun hroot => ?_⟩
  have hnone : ¬(weirLedgerRecord s).store.root.isSome = true := by
    rw [weirLedgerRecord_store, hroot]
    exact Bool.false_ne_true
  rw [if_neg hnone]
  exact ⟨congrArg (·.weir.debtRecorded) weirLedgerRecord_ret, congrArg (·.lines) weirLedgerRecord_ret, weirLedgerRecord_store⟩
end
/-- Settles O28: a served command is its own arm, and a setting that is due is its own row. -/
theorem saveAndRestoreCommands : Obligations.SaveAndRestoreCommands := by
  refine ⟨fun _ _ h => congrArg Host.Outcome.next (served_command h rfl _),
    fun _ _ h hmode hpolicy hlost => congrArg Host.Outcome.next (served_command h (by simp [hmode, hpolicy, hlost]) _),
    fun _ _ h => settingApply_sluConfig h,
    fun _ _ h h1 h2 h3 h4 h5 h6 h7 h8 => congrArg Host.Outcome.next
      (served_command h (by simp [detectOk, within, h1, h2, h3, h4, h5, h6, h7, h8]) _),
    fun _ _ h => settingApply_detectSet h, fun _ _ h hidle => congrArg Host.Outcome.next (sluSaveTest_served h hidle),
    fun _ _ h hidle => congrArg Host.Outcome.next (sluShutdown_served h hidle),
    fun _ _ h hlo hhi hsegs hopen _ hq hsome => congrArg Host.Outcome.next (sluPrefetch_served h hlo hhi hsegs hopen hq hsome),
    fun d s h => ?_⟩
  obtain ⟨t, ht, hleft⟩ := glbDeviceReset_served h
  exact ⟨t, congrArg Host.Outcome.next ht, hleft⟩
section
variable {d : Desc} {n : Nat} {s : State} {u : DueSet}
/-- A RUNNING channel that the store can do without may be evacuated. -/
theorem evacBad_one (hrunning : s.lifeOf .nst n = .running) (hspace : need s ≤ bytesWithout s [n] / 2 ^ 30) :
    evacBad s [n] n = none := by
  have hself : [n].filter (fun t => s.lifeOf .nst t = .running) = [n] := by simp [hrunning]
  unfold evacBad
  rw [hself]
  exact (if_neg (not_not.2 hrunning)).trans (if_neg (not_lt.2 hspace))
theorem nstEvacuate_served (h : Served nstEvacuateInfo d [n] s) (hrunning : s.lifeOf .nst n = .running)
    (hspace : need s ≤ bytesWithout s [n] / 2 ^ 30) :
    nstEvacuate d s = if holdsMovable (evacuate n s).store n = true
      then running d (.evacuate (maskOf [n]) St.ok) (maskOf [n]) (evacuate n s)
      else finish d St.ok (maskOf [n]) (evacuate n s) := by
  have hgo := evacBad_one hrunning hspace
  have hpass : [n].filter (fun c => (evacBad s [n] c).isNone) = [n] := by simp [hgo]
  rw [nstEvacuate, served_command h rfl]
  simp only [hpass, failing_one hgo, statusOf_nil, List.foldl_cons, List.foldl_nil, List.any_cons, List.any_nil, Bool.or_false]
theorem settingApply_seepConfig (h : u.op = 0x0720) : settingApply u s = onStore s (seepApply u.desc) := by
  simp only [settingApply, h]
theorem nstFormat_served {s1 s3 t : State} (h : Served nstFormatInfo d [0] s) (hnone : s.retainedSegs = 0)
    (h1 : s1 = formatWear (onStore s (formatted (tableReads s))))
    (h3 : s3 = checkCapacity (onStore s1 fun st => { st with formatGood := (allLuns s1).map fun l => (l, goodBlocks st l) }))
    (ht : t = readyArea (writeRootWith (some (ringPages (bbtContent s3) s3).1) (ringPages (bbtContent s3) s3).2))
    (hring : t.store.ring.a ≠ 0) : nstFormat d s = running d (.anchor St.ok) (pslcHave t) t := by
  subst ht h3 h1
  exact (served_command h rfl _).trans ((if_neg (not_not.2 hnone)).trans (if_neg hring))
end
/-- Settles O32: a served command is its own arm, and a setting that is due is its own row. -/
theorem storeCommands : Obligations.StoreCommands :=
  ⟨fun _ _ _ h => congrArg Host.Outcome.next (served_command h rfl _),
    fun _ _ _ h hrunning hspace => congrArg (fun t => Host.Outcome.next (settleWeir t)) (nstEvacuate_served h hrunning hspace),
    fun _ _ h hok => congrArg Host.Outcome.next (served_command h hok _), fun _ _ h => settingApply_seepConfig h,
    fun _ _ h => ⟨_, congrArg Host.Outcome.next (served_command h rfl _), rfl, rfl, rfl, rfl⟩,
    fun _ _ h hnone _ _ _ h1 h3 ht hring =>
      congrArg (fun t => Host.Outcome.next (settleWeir t)) (nstFormat_served h hnone h1 h3 ht hring)⟩
end Sys2Proof.Machine

/-! # Tributary port and context commands (chapters 11 and 04) -/
namespace Sys2Proof.Machine
section
variable {d : Desc} {n : Nat} {s : State} {u : DueSet}
theorem onTrib_congr {k : Fin 12} {f g : Trib → Trib} (h : f (tribAt s k) = g (tribAt s k)) : onTrib s k f = onTrib s k g := by
  unfold onTrib vmod
  exact congrArg (fun x => { s with trib := s.trib.set k x }) h
theorem tribConfig_served (h : Served tribConfigInfo d [n] s) (hok : tribConfigOk d = true) (hstopped : s.lifeOf .trib n = .stopped) :
    tribConfig d s = storingAs St.ok d 0x0B10 [n] [setting 0x0B10 n (paramBytes d)] (maskOf [n]) s := by
  have hcheck : mustBeStopped s .trib n = none := if_pos hstopped
  rw [tribConfig, served_command h hok]
  simp only [failing_one hcheck, statusOf_nil, passedOf_nil, List.map_cons, List.map_nil]
theorem settingApply_tribConfig {t : State} (hop : u.op = 0x0B10) (hts : u.ts = [n]) (ht : t = setTribCfg (Fin.ofNat 12 n) u.desc s) :
    settingApply u s = idlePins (Fin.ofNat 12 n) (isEth (tribAt t (Fin.ofNat 12 n)) && (tribAt t (Fin.ofNat 12 n)).sgOn) t := by
  subst ht
  simp only [settingApply, hop, hts, tribConfigApply, List.foldl_cons, List.foldl_nil]
theorem tribModSet_served (h : Served tribModSetInfo d [n] s) (haddr : modAddrOk d s = true)
    (hstopped : s.lifeOf .trib (Fin.ofNat 12 n).val = .stopped) : tribModSet d s =
      storing d 0x0B11 [(9, 0x11, 0x0B, settingPayload 0x0B11 (Fin.ofNat 12 n)
        (modEntries (tribModApply d s).trib[Fin.ofNat 12 n]), .settings 0x0B)] 0 s := by
  have hcheck : mustBeStopped s .trib (Fin.ofNat 12 n).val = none := if_pos hstopped
  rw [tribModSet, served_command h haddr]
  simp only [List.headD_cons, hcheck]
theorem settingApply_tribModSet (hop : u.op = 0x0B11) : settingApply u s = tribModApply u.desc s := by
  simp only [settingApply, hop]
theorem tribModEnable_served {t : State} (h : Served tribModEnableInfo d [n] s) (haddr : modAddrOk d s = true)
    (hruns : tribRuns s (Fin.ofNat 12 n) = true) (ht : t = enableMod (Fin.ofNat 12 n) (Fin.ofNat 255 (d.p 16 1)) (d.bit 17 0) s) :
    tribModEnable d s = finish d St.ok (modAt t (Fin.ofNat 12 n) (Fin.ofNat 255 (d.p 16 1))).state.code t := by
  subst ht
  rw [tribModEnable, served_command h haddr]
  simp only [List.headD_cons, hruns, Bool.not_true, Bool.false_eq_true, if_false]
/-- A roll-call may be ordered of a RUNNING Nymzel port that holds its token. -/
theorem rollcallBad_none (hruns : tribRuns s (Fin.ofNat 12 n) = true) (hnymzel : isLegacy (tribAt s (Fin.ofNat 12 n)) = false)
    (htoken : (tribAt s (Fin.ofNat 12 n)).token = true) : rollcallBad s n = none := by
  have hmaster : listening s (Fin.ofNat 12 n) = false := by
    rw [listening, htoken, Bool.not_true, Bool.and_false]
  simp only [rollcallBad, hruns, hnymzel, hmaster, Bool.not_true, Bool.false_eq_true, if_false]
theorem tribRollcall_served (h : Served tribRollcallInfo d [n] s) (hbad : rollcallBad s n = none) : tribRollcall d s =
    running d (.rollcall [if (tribAt s (Fin.ofNat 12 n)).rollOpen then n + 12 else n] [n] [] 0) 0
      (onTrib s (Fin.ofNat 12 n) fun x => { x with rollDue := x.rollDue || !x.rollOpen, rollAgain := x.rollAgain || x.rollOpen }) := by
  rw [tribRollcall, served_command h rfl]
  simp only [failing_one hbad, passedOf_nil, List.map_cons, List.map_nil, List.foldl_cons, List.foldl_nil, reduceCtorEq, if_false]
theorem tribRollcall_closed (h : Served tribRollcallInfo d [n] s) (hbad : rollcallBad s n = none)
    (hclosed : (tribAt s (Fin.ofNat 12 n)).rollOpen = false) : tribRollcall d s =
    running d (.rollcall [n] [n] [] 0) 0 (onTrib s (Fin.ofNat 12 n) fun x => { x with rollDue := true }) := by
  rw [tribRollcall_served h hbad, if_neg (ne_true_of_eq_false hclosed)]
  exact congrArg (running d _ 0) (onTrib_congr (by simp only [hclosed, Bool.not_false, Bool.or_true, Bool.or_false]))
theorem tribRollcall_open (h : Served tribRollcallInfo d [n] s) (hbad : rollcallBad s n = none)
    (hopen : (tribAt s (Fin.ofNat 12 n)).rollOpen = true) : tribRollcall d s =
    running d (.rollcall [n + 12] [n] [] 0) 0 (onTrib s (Fin.ofNat 12 n) fun x => { x with rollAgain := true }) := by
  rw [tribRollcall_served h hbad, if_pos hopen]
  exact congrArg (running d _ 0) (onTrib_congr (by simp only [hopen, Bool.not_true, Bool.or_true, Bool.or_false]))
theorem tribModQuery_served {i : Ident} (h : Served tribModQueryInfo d [n] s) (haddr : addrOk s.trib[Fin.ofNat 12 n] (d.p 16 1) = true)
    (hi : i = (s.trib[Fin.ofNat 12 n].mods[Fin.ofNat 255 (d.p 16 1)].ident).getD 0) : tribModQuery d s =
    finish d St.ok (pack [(0, modWord s.trib[Fin.ofNat 12 n] (d.p 16 1)), (32, identF i 8 2), (48, identF i 10 2)]) s := by
  rw [tribModQuery, served_command h rfl]
  simp only [List.headD_cons, haddr, if_true, ← hi]
theorem tribMdio_served (h : Served tribMdioInfo d [n] s) (hphy : d.p 17 1 < 32) (heth : isEth (tribAt s (Fin.ofNat 12 n)) = true) :
    tribMdio d s = queueMdio (Fin.ofNat 12 n) ⟨(Fin.ofNat 12 n).val, d.bit 16 0, BitVec.ofNat 5 (d.p 17 1),
      BitVec.ofNat 16 (d.p 18 2), some (d.port, d.tag)⟩ (running d (.mdio (busOf (Fin.ofNat 12 n))) 0 s) := by
  rw [tribMdio, served_command h (decide_eq_true hphy)]
  simp only [List.headD_cons, heth, Bool.not_true, Bool.false_eq_true, if_false]
end
/-- Settles O41: a served command is its own arm, and a setting that is due is its own row. -/
theorem tribCommands : Obligations.TribCommands :=
  ⟨fun _ _ _ h hok hstopped => congrArg Host.Outcome.next (tribConfig_served h hok hstopped),
    fun _ _ _ _ hop hts ht => settingApply_tribConfig hop hts ht,
    fun _ _ _ h haddr hstopped => congrArg Host.Outcome.next (tribModSet_served h haddr hstopped),
    fun _ _ hop => settingApply_tribModSet hop,
    fun _ _ _ h haddr hruns _ ht => congrArg Host.Outcome.next (tribModEnable_served h haddr hruns ht),
    fun _ _ _ h hruns hnymzel htoken =>
      ⟨fun hclosed => congrArg Host.Outcome.next (tribRollcall_closed h (rollcallBad_none hruns hnymzel htoken) hclosed),
        fun hopen => congrArg Host.Outcome.next (tribRollcall_open h (rollcallBad_none hruns hnymzel htoken) hopen)⟩,
    fun _ _ _ h haddr _ hi => congrArg Host.Outcome.next (tribModQuery_served h haddr hi),
    fun _ _ _ h hphy heth => congrArg Host.Outcome.next (tribMdio_served h hphy heth)⟩
end Sys2Proof.Machine

/-! # A context command while the chip hands over -/
namespace Sys2Proof.Machine
/-- CTX_START on MQ0, of context 0. -/
def startContext0 : Desc :=
  { port := 0, sqi := 0, tag := 7, unit := 0x04, sel := 0, flags := 0, inst := 0, rsv := 0, param := 0 }
/-- A device in READY that has fetched the command while it is a PRIMARY that hands over: it is no STANDBY, yet it drives no context (R412). -/
def startFetchedInHandover : State :=
  onCmds { readyOnMq0 with mir := { readyOnMq0.mir with role := .primary, handing := true } } 0 fun cs => cs ++ [newCmd startContext0 ctxStartInfo.op 0 []]
theorem served_startFetchedInHandover : Served ctxStartInfo startContext0 [0] startFetchedInHandover := by
  unfold Served
  decide +kernel
/-- The model refuses the command, and the context stays IDLE. -/
theorem mode_ctxStart_inHandover : ((settleWeir (ctxStart startContext0 startFetchedInHandover)).ctxAt 0).mode = .idle := by
  decide +kernel
/-- In the state that the statement claims the context is RUNNING. -/
theorem mode_claimed_inHandover : ((settleWeir (finish startContext0 St.ok (maskOf [0]) (activateLayout (fin16 0) (ctxChanged (fin16 0)
    (toMode (fin16 0) .running (startFetchedInHandover.onCtx (fin16 0) fun x =>
      { x with armed := startFetchedInHandover.now })))))).ctxAt 0).mode = .running := by
  decide +kernel
/-- Refutes O17: its clause on `CTX_START` asks only that the chip is no STANDBY, but a chip that is handing over drives no context
either (`notDriven`), and refuses the command with ST_UNIT_STATE. In `startFetchedInHandover` context 0 stays IDLE. -/
theorem not_contextCommands : ¬ Obligations.ContextCommands := by
  unfold Obligations.ContextCommands
  rintro ⟨-, -, -, -, hstart, -⟩
  have hclaimed := hstart startContext0 0 startFetchedInHandover served_startFetchedInHandover (by decide +kernel) (by decide +kernel)
    (by decide +kernel) (by decide +kernel) (by decide +kernel)
  have hstates := Host.Outcome.next.inj hclaimed
  have hmodes : CtxMode.idle = CtxMode.running :=
    mode_ctxStart_inHandover.symm.trans ((congrArg (fun t => (t.ctxAt 0).mode) hstates).trans mode_claimed_inHandover)
  cases hmodes
end Sys2Proof.Machine

/-! # Mirror and Confluence commands (chapters 13 and 14) -/
namespace Sys2Proof.Machine
section
variable {d : Desc} {s : State} {u : DueSet}
theorem mirConfig_served (h : Served mirConfigInfo d [0] s) (hok : mirConfigOk d = true) (h0 : portIdle (s.lifeOf .mir 0) = true)
    (h1 : portIdle (s.lifeOf .mir 1) = true) : mirConfig d s = storing d 0x0D10 [setting 0x0D10 0xFF (paramBytes d)] 0 s := by
  rw [mirConfig, served_command h hok]
  simp only [h0, h1, Bool.not_true, Bool.or_false, Bool.false_eq_true, if_false]
theorem settingApply_mirConfig (h : u.op = 0x0D10) : settingApply u s = onMir s (mirSettings u.desc.p) := by
  simp only [settingApply, h]
theorem mirSwitch_forced (h : Served mirSwitchInfo d [0] s) (hforce : d.bit 16 0 = true) (hsolo : s.mir.role = .solo)
    (hwas : s.mir.wasStandby = true) : mirSwitch d s = finish d St.ok (switchover 4 true s).mir.pseq (switchover 4 true s) := by
  rw [mirSwitch, served_command h rfl, if_pos hforce]
  exact if_pos ⟨hsolo, hwas⟩
theorem mirSwitch_primary {t : State} (h : Served mirSwitchInfo d [0] s) (hforce : d.bit 16 0 = false) (hrole : s.mir.role = .primary)
    (hsynced : s.mir.synced = true) (hgo : switchWaits s = false) (ht : t = handOver (allPeers (.switch 3) s)) :
    mirSwitch d s = running d .mirSwitch t.mir.pseq t := by
  rw [mirSwitch, served_command h rfl, if_neg (ne_true_of_eq_false hforce), if_neg (not_not.2 hrole), hsynced]
  refine (if_neg Bool.false_ne_true).trans ((if_neg (ne_true_of_eq_false hgo)).trans ?_)
  rw [ht]
theorem mirResync_served (h : Served mirResyncInfo d [0] s) (hpartner : s.mir.partner.isSome = true) (hrole : s.mir.role = .primary) :
    mirResync d s = finish d St.ok 0 (resync s) := by
  have hthere : ¬s.mir.partner.isNone = true := by rwa [Option.isNone_iff_eq_none, ← ne_eq, ← Option.isSome_iff_ne_none]
  exact (served_command h rfl _).trans ((if_neg hthere).trans (if_neg (not_not.2 hrole)))
theorem settingApply_nextBoot (h : u.op = 0x0E11 ∨ u.op = 0x1220) : settingApply u s = s := by
  rcases h with h | h <;> simp only [settingApply, h]
end
section timeout
variable {s : State}
/-! A message to the members leaves on Confluence ports, and touches neither the mirror nor working memory. -/
theorem pump_conf_mir {p : Fin 3} {n : Nat} : (pump (.conf p) n s).mir = s.mir := by
  induction n generalizing s with
  | zero => rfl
  | succ n ih =>
    unfold pump
    dsimp only
    split
    · rfl
    · split
      · exact ih
      · rfl
theorem sendOn_conf_mir {p : Fin 3} {m : LinkMsg} : (sendOn (.conf p) m s).mir = s.mir := by
  unfold sendOn
  split
  · rfl
  · exact pump_conf_mir
theorem sendTo_mir {js : List Nat} {m : LinkMsg} : (sendTo js m s).mir = s.mir :=
  foldl_keeps (fun t : State => t.mir) _ (fun _ _ => sendOn_conf_mir) js s
theorem toRole_mir {r : Role} {cause : Nat} : (toRole r cause s).mir = { s.mir with role := r } := by
  unfold toRole
  dsimp only
  split
  · next hsame => rw [← hsame]
  · simp [onMir]
theorem toRole_ret {r : Role} {cause : Nat} : (toRole r cause s).ret = s.ret := by
  unfold toRole
  dsimp only
  split
  · rfl
  · simp
theorem takeRole_solo_ret {cause : Nat} : (takeRole .solo cause 0 s).ret = s.ret := by
  unfold takeRole
  split
  · rfl
  · exact toRole_ret
theorem takeRole_solo_role {cause : Nat} : (takeRole .solo cause 0 s).mir.role = .solo := by
  unfold takeRole
  split
  · next hsolo => exact hsolo
  · exact congrArg (·.role) toRole_mir
theorem goSolo_role {cause : Nat} : (goSolo cause s).mir.role = .solo :=
  (congrArg (·.role) sendTo_mir).trans takeRole_solo_role
theorem goSolo_ret {cause : Nat} : (goSolo cause s).ret = s.ret :=
  (sendTo_ret _ _ _).trans takeRole_solo_ret
/-- A chip that is SOLO already loses nothing of its mirror's state. -/
theorem goSolo_of_solo {cause : Nat} (h : s.mir.role = .solo) : (goSolo cause s).mir = s.mir := by
  have hsame : takeRole .solo cause 0 s = s := if_pos h
  exact sendTo_mir.trans (congrArg State.mir hsame)
/-- A switchover that is not answered in time leaves the chip SOLO; what a STANDBY had applied stays noted (R410). -/
theorem mirSwitchTimeout_switching (h : s.mir.switching = true) : (mirSwitchTimeout s).mir.switching = false ∧
    (mirSwitchTimeout s).mir.role = .solo ∧ (mirSwitchTimeout s).ret = s.ret ∧
    (s.mir.role ≠ .primary → (mirSwitchTimeout s).mir.ctxSynced = s.mir.ctxSynced) := by
  have hgo : ¬(!s.mir.switching) = true := by simp [h]
  unfold mirSwitchTimeout
  rw [if_neg hgo, wake_mir, wake_ret]
  by_cases hstandby : s.mir.role = .standby
  · rw [if_pos hstandby]
    refine ⟨rfl, ?_, ?_, fun _ => rfl⟩
    · exact (goSolo_role : (goSolo 4 s).mir.role = .solo)
    · exact (goSolo_ret : (goSolo 4 s).ret = s.ret)
  · rw [if_neg hstandby]
    refine ⟨rfl, (goSolo_role : (goSolo 4 s).mir.role = .solo), (goSolo_ret : (goSolo 4 s).ret = s.ret), fun hprimary => ?_⟩
    have hsolo : s.mir.role = .solo := by
      cases hrole : s.mir.role with
      | solo => rfl
      | primary => exact absurd hrole hprimary
      | standby => exact absurd hrole hstandby
    exact congrArg (·.ctxSynced) (goSolo_of_solo hsolo : (goSolo 4 s).mir = s.mir)
end timeout
/-- Settles O50: a served command is its own arm, and the time-out of a switchover leaves the chip SOLO. -/
theorem linkCommands : Obligations.LinkCommands := by
  refine ⟨fun _ _ h hok h0 h1 => congrArg Host.Outcome.next (mirConfig_served h hok h0 h1), fun _ _ h => settingApply_mirConfig h,
    fun _ _ h => congrArg Host.Outcome.next (served_command h rfl _),
    fun _ _ h => ⟨fun hforce hsolo hwas => congrArg (fun t => Host.Outcome.next (settleWeir t)) (mirSwitch_forced h hforce hsolo hwas),
      fun hforce hrole hsynced hgo _ ht =>
        congrArg (fun t => Host.Outcome.next (settleWeir t)) (mirSwitch_primary h hforce hrole hsynced hgo ht)⟩,
    fun _ _ h hpartner hrole => congrArg (fun t => Host.Outcome.next (settleWeir t)) (mirResync_served h hpartner hrole),
    fun s h => ?_, fun _ _ h => congrArg Host.Outcome.next (served_command h rfl _),
    fun _ _ h hok => congrArg Host.Outcome.next (served_command h hok _),
    fun _ _ h hlo hhi => congrArg Host.Outcome.next (served_command h (by simp [within, hlo, hhi]) _),
    fun _ _ h => settingApply_nextBoot h⟩
  obtain ⟨hended, hsolo, hret, hsynced⟩ := mirSwitchTimeout_switching h
  exact ⟨_, rfl, hended, hsolo, congrArg (·.lines) hret, hsynced⟩
end Sys2Proof.Machine

/-! # The backup domain's clock and writes (chapter 16), and the lifecycle of the units (R56–R61) -/
namespace Sys2Proof.Machine
section backup
variable {s : State}
theorem whenReady_of_ne {f : State → State} (h : s.glb.state ≠ 2) : whenReady f s = s :=
  if_neg h
theorem subsecTick_within (hout : s.bkd.inReset = false) (hrun : s.bkd.halt = false) (hsub : s.bkd.time.sub ≠ 1023) :
    subsecTick s = { s with bkd := refreshCopy { s.bkd with time := { s.bkd.time with sub := s.bkd.time.sub + 1 } } } := by
  simp only [subsecTick, hout, hrun, hsub, Bool.false_eq_true, if_false, ne_eq, not_false_eq_true, if_true]
theorem subsecTick_carry (hout : s.bkd.inReset = false) (hrun : s.bkd.halt = false) (hsub : s.bkd.time.sub = 1023)
    (harmed : s.bkd.armed = false) (hstate : s.glb.state ≠ 2) :
    subsecTick s = { s with bkd := refreshCopy { s.bkd with
      time := (nextSecond { s.bkd.time with sub := 0 }).1,
      yearWrap := s.bkd.yearWrap || (nextSecond { s.bkd.time with sub := 0 }).2 } } := by
  simp only [subsecTick, hout, hrun, hsub, harmed, Bool.false_eq_true, if_false, ne_eq, not_true_eq_false, Bool.false_and]
  exact whenReady_of_ne hstate
theorem vbatSwitch_first (hon : s.bkd.onVbat = false) (hfirst : s.bkd.swoValid = false) : vbatSwitch true s = { s with bkd := { s.bkd with
    onVbat := true, swoCount := min 255 (s.bkd.swoCount + 1),
    swoValid := true, swo := BitVec.ofNat 64 (calNat s.bkd.time s.bkd.timeLost s.bkd.halt) } } := by
  simp only [vbatSwitch, hon, hfirst, Bool.false_eq_true, if_false, if_true]
theorem vbatSwitch_back (hon : s.bkd.onVbat = true) : vbatSwitch false s = { s with bkd := { s.bkd with onVbat := false } } := by
  simp only [vbatSwitch, hon, Bool.true_eq_false, Bool.false_eq_true, if_false]
theorem vbatMeasure_good {mv : Nat} (haon : s.pwr.vddAon = true) (hmv : mv > 2300) :
    vbatMeasure mv s = { s with bkd := { s.bkd with vbat := min 4095 mv, vbatLow := false } } := by
  have hhigh : ¬mv < 2200 := by omega
  simp only [vbatMeasure, haon, hhigh, hmv, Bool.not_true, Bool.false_eq_true, if_false, if_true, Bool.false_and]
theorem vbatMeasure_low {mv : Nat} (haon : s.pwr.vddAon = true) (hmv : mv < 2200) :
    (vbatMeasure mv s).bkd = { s.bkd with vbat := min 4095 mv, vbatLow := true } ∧ (vbatMeasure mv s).ret = s.ret := by
  simp only [vbatMeasure, haon, hmv, Bool.not_true, Bool.false_eq_true, if_false, if_true]
  split
  · exact ⟨State.raiseLim_bkd _ _ _ _ _, State.raiseLim_ret _ _ _ _ _⟩
  · exact ⟨rfl, rfl⟩
theorem bkdWriteArrive_other {w : BkdWrite} {rest : List BkdWrite} (hfirst : s.bkd.transit = w :: rest) (hout : s.bkd.inReset = false)
    (hend : w ≠ .setEnd) : bkdWriteArrive s = applyWrite w { s with bkd := { s.bkd with transit := rest } } := by
  cases w with
  | setEnd => exact absurd rfl hend
  | _ => simp only [bkdWriteArrive, hfirst, hout, Bool.false_eq_true, if_false]
theorem mayWrite_firmware (h : s.glb.fil ≠ 0) : mayWrite s .firmware = true :=
  decide_eq_true h
end backup
/-- Settles O53: each clause is the branch of its row that the premises choose. -/
theorem backupDomainWork : Obligations.BackupDomainWork :=
  ⟨fun _ hout hrun hsub => congrArg Host.Outcome.next (subsecTick_within hout hrun hsub),
    fun _ hout hrun hsub harmed hstate => congrArg Host.Outcome.next (subsecTick_carry hout hrun hsub harmed hstate),
    fun _ hon hfirst => congrArg Host.Outcome.next (vbatSwitch_first hon hfirst),
    fun _ hon => congrArg Host.Outcome.next (vbatSwitch_back hon),
    fun _ _ haon hmv => congrArg Host.Outcome.next (vbatMeasure_good haon hmv),
    fun mv s haon hmv => ⟨vbatMeasure mv s, rfl, vbatMeasure_low haon hmv⟩,
    fun _ hstate => congrArg Host.Outcome.next (whenReady_of_ne hstate),
    fun s => ⟨bkdDomainReset s, rfl, rfl, rfl, rfl, rfl, rfl, rfl, rfl, rfl, rfl, rfl, rfl⟩,
    fun _ => rfl,
    fun _ _ _ hfirst hout hend => congrArg Host.Outcome.next (bkdWriteArrive_other hfirst hout hend),
    fun _ _ h => congrArg Host.Outcome.next (if_pos (mayWrite_firmware h)),
    fun _ _ h => congrArg Host.Outcome.next (if_pos (mayWrite_firmware h))⟩
section lifecycle
variable {cc : LClass} {i : Nat} {d : Desc} {s t : State}
/-- A command in turn on one unit that takes it ends with ST_OK. -/
theorem turns_one {f : Turn} (h : f i s = (none, t)) : turns d [i] f s = finish d St.ok (maskOf [i]) t := by
  simp only [turns, inTurn, h, statusOf_nil, passedOf_nil]
theorem needLife_in {l : Life} {act : Turn} (h : s.lifeOf cc i = l) : needLife cc l act i s = act i s :=
  if_pos h
theorem unitPowerUp_served (h : Served (unitPowerUpInfo cc) d [i] s) (hoff : s.lifeOf cc i = .off)
    (hwired : cc = .conf → (wired s).contains (Fin.ofNat 3 i) = true) : unitPowerUp cc d s = finish d St.ok (maskOf [i])
      ((if cc = .trib then reloadTrib (Fin.ofNat 12 i) s else s).toLife (unitAt cc i) .stopped) := by
  have hpartner : ¬(cc = .conf ∧ (!(wired s).contains (Fin.ofNat 3 i)) = true) := by
    rintro ⟨hconf, hnone⟩
    rw [hwired hconf] at hnone
    cases hnone
  exact (served_command h rfl _).trans (turns_one ((needLife_in hoff).trans (if_neg hpartner)))
theorem unitStart_served (h : Served (unitStartInfo cc) d [i] s) (hstopped : s.lifeOf cc i = .stopped)
    (hstart : (startUnit cc i s).1 = none) :
    unitStart cc d s = settleWeir (finish d St.ok (maskOf [i]) (startUnit cc i s).2) :=
  (served_command h rfl _).trans (congrArg settleWeir (turns_one ((needLife_in hstopped).trans (Prod.ext hstart rfl))))
theorem unitStopDrain_served (h : Served (stopInfo cc) d [i] s) (hmode : d.p 16 1 = 0) (hrunning : s.lifeOf cc i = .running)
    (hmay : stopBad s cc i = none) :
    unitStopDrain cc d s = running d (.drain [cc.base + i] [i] []) (maskOf [i]) (drainBegin cc i (d.p 20 4) s) := by
  rw [unitStopDrain, if_neg (not_not.2 hmode), served_command h rfl]
  simp only [inTurn, hrunning, hmay, reduceCtorEq, ne_eq, not_true_eq_false, if_false, passedOf_nil, List.map_cons, List.map_nil]
theorem unitStopAbort_served (h : Served (stopInfo cc) d [i] s) (hmode : d.p 16 1 = 1) (hrunning : s.lifeOf cc i = .running)
    (hmay : stopBad s cc i = none) :
    unitStopAbort cc d s = settleWeir (finish d St.ok (maskOf [i]) (abortTo cc i St.aborted s)) := by
  rw [unitStopAbort, if_neg (by omega), served_command h rfl, turns_one]
  simp only [hrunning, hmay, reduceCtorEq, ne_eq, not_true_eq_false, if_false]
theorem unitClearFault_served (h : Served (unitClearFaultInfo cc) d [i] s) (hfaulted : s.lifeOf cc i = .faulted) :
    unitClearFault cc d s = settleWeir (finish d St.ok (maskOf [i]) (clearUnit cc i s)) :=
  (served_command h rfl _).trans (congrArg settleWeir (turns_one (needLife_in hfaulted)))
theorem unitPowerDown_served (h : Served (unitPowerDownInfo cc) d [i] s) (hstopped : s.lifeOf cc i = .stopped)
    (hmay : downBad s cc i = none) : unitPowerDown cc d s = finish d St.ok (maskOf [i])
      ((if cc = .trib then idlePins (Fin.ofNat 12 i) false s else s).toLife (unitAt cc i) .off) := by
  rw [unitPowerDown, served_command h rfl, turns_one]
  rw [needLife_in hstopped, hmay]
  rfl
/-- A fault of a RUNNING unit that is neither a DRAM nor a NAND channel, and no uncorrectable word of a sequencer's memory. -/
theorem unitInternalFault_other {u : Fin 50} {code : Word} (hrunning : s.life[u].life = .running) (hdch : (classOf u).1 ≠ .dch)
    (hnst : (classOf u).1 ≠ .nst) (hseq : (classOf u).1 ≠ .seq ∨ code ≠ 7) :
    unitInternalFault u code s = unitFault u code.toNat (abortUnit (classOf u).1 (classOf u).2 s) := by
  have hgo : ¬(s.life[u].life ≠ .running ∧ s.life[u].life ≠ .draining) := fun h => h.1 hrunning
  unfold unitInternalFault
  rcases hclass : classOf u with ⟨cc, i⟩
  rw [hclass] at hdch hnst hseq
  dsimp only
  rw [if_neg hgo]
  cases cc with
  | dch => exact absurd rfl hdch
  | nst => exact absurd rfl hnst
  | seq => exact if_neg (hseq.resolve_left (not_not.2 rfl))
  | _ => rfl
end lifecycle
/-- Settles O7: a command on one unit is one turn of its class, and the other rows take the branch that the premises choose. -/
theorem lifecycleMoves : Obligations.LifecycleMoves :=
  ⟨fun _ _ _ _ h => congrArg Host.Outcome.next (served_command h rfl _),
    fun _ _ _ _ h hoff hwired => congrArg Host.Outcome.next (unitPowerUp_served h hoff hwired),
    fun _ _ _ _ h hstopped hstart => congrArg Host.Outcome.next (unitStart_served h hstopped hstart),
    fun _ _ _ _ h hmode hrunning hmay => congrArg Host.Outcome.next (unitStopDrain_served h hmode hrunning hmay),
    fun _ _ _ _ h hmode hrunning hmay => congrArg Host.Outcome.next (unitStopAbort_served h hmode hrunning hmay),
    fun _ _ _ _ h hfaulted => congrArg Host.Outcome.next (unitClearFault_served h hfaulted),
    fun _ _ _ _ h hstopped hmay => congrArg Host.Outcome.next (unitPowerDown_served h hstopped hmay),
    fun _ _ hdraining hidle => congrArg (fun t => Host.Outcome.next (settleWeir t)) (if_pos ⟨hdraining, hidle⟩),
    fun _ _ hdraining hms => congrArg (fun t => Host.Outcome.next (settleWeir t)) (if_pos ⟨hdraining, hms⟩),
    fun _ _ _ hrunning hdch hnst hseq =>
      congrArg (fun t => Host.Outcome.next (settleWeir t)) (unitInternalFault_other hrunning hdch hnst hseq)⟩
end Sys2Proof.Machine

/-! # Segment commands (chapter 03), windows, and BAR2 accesses (R98, R100) -/
namespace Sys2Proof.Machine
section segments
variable {d : Desc} {g : Nat} {s : State}
theorem segSetClass_served (h : Served segSetClassInfo d [g] s) (hrole : s.mir.role ≠ .standby) (hcount : countOk d = true)
    (hgood : firstBad (classBad s (ownerFits d) (newEntry d)) (runOf g (d.p 16 4)) = none)
    (hroom : capacityBad s (newEntry d) (runOf g (d.p 16 4)) = none) :
    segSetClass d s = untilDurable d 0 (dueClass g (runOf g (d.p 16 4)) (newEntry d) (fun k => s.seg k)
      (serveReads (checkCapacity (placeMarker g (runOf g (d.p 16 4)).length true
        ((runOf g (d.p 16 4)).foldl (fun s k => (emptySegment k s).setSeg k (newEntry d)) s))))) := by
  rw [segSetClass, served_command h hcount, if_neg hrole]
  simp only [List.headD_cons, hgood, hroom]
theorem segSetFlags_served {t : State} {n : Nat} (h : Served segSetFlagsInfo d [g] s) (hrole : s.mir.role ≠ .standby)
    (hcount : countOk d = true)
    (hgood : firstBad (fun k => if s.segExists k then none else some St.badTarget) (runOf g (d.p 16 4)) = none)
    (ht : t = (runOf g (d.p 16 4)).foldl (fun s k => s.setSeg k { s.seg k with retentive := d.bit 22 0, prio := d.bit 22 1 }) s)
    (hn : n = (runOf g (d.p 16 4)).length) :
    segSetFlags d s = untilDurable d 0
      (((runsOf t g n).filter fun r => !(runOf r.1 r.2.1).all fun k => sameEntry (s.seg k) (t.seg k)).foldl
        (fun s r => dueSegment r.1 r.2.1 false s) (placeRuns g n t)) := by
  subst ht hn
  rw [segSetFlags, served_command h hcount, if_neg hrole]
  simp only [List.headD_cons, hgood]
theorem segLoadBegin_served (h : Served segLoadBeginInfo d [g] s) (hrole : s.mir.role ≠ .standby) (hcls : (s.seg g).cls = .constant)
    (hsealed : (s.seg g).sealed = false) (hloading : (s.seg g).loading = false) (hfirst : d.bit 16 0 = false) :
    segLoadBegin d s = finish d St.ok 0 (s.setSeg g { s.seg g with loading := true, loadLost := false }) := by
  rw [segLoadBegin, served_command h rfl, if_neg hrole]
  simp only [List.headD_cons, hcls, hsealed, hloading, hfirst, ne_eq, not_true_eq_false, Bool.not_false, Bool.and_false, Bool.false_eq_true,
    if_true, if_false]
section load
variable {buf : List Byte} {t : State}
theorem segLoad_range (hlo : 1 ≤ d.p 28 4) (hhi : d.p 28 4 ≤ 1048576) (hend : d.p 24 4 + d.p 28 4 ≤ segBytes)
    (hlen : (bufferOf s d 0x0314 buf).length = d.p 28 4) : (decide (1 ≤ d.p 28 4) && decide (d.p 28 4 ≤ 1048576) &&
      decide (d.p 24 4 + d.p 28 4 ≤ segBytes) && decide ((bufferOf s d 0x0314 buf).length = d.p 28 4)) = true := by
  rw [decide_eq_true hlo, decide_eq_true hhi, decide_eq_true hend, decide_eq_true hlen]
  rfl
/-- A load of an OPEN segment whose bytes are all good offers them to FP1. -/
theorem segLoad_clean (h : Served segLoadInfo d [g] s) (hrole : s.mir.role ≠ .standby) (hlo : 1 ≤ d.p 28 4) (hhi : d.p 28 4 ≤ 1048576)
    (hend : d.p 24 4 + d.p 28 4 ≤ segBytes) (hlen : (bufferOf s d 0x0314 buf).length = d.p 28 4) (hcls : (s.seg g).cls = .constant)
    (hloading : (s.seg g).loading = true)
    (htake : takeWrite 1 (g * segBytes + d.p 24 4) ((bufferOf s d 0x0314 buf).map some) none true s = .accepted t) :
    segLoad d buf none s = running d (.load s.ret.order t.ret.order St.ok) (d.p 28 4) t := by
  have hsome : ¬d.p 28 4 = 0 := by omega
  have hwhole : (bufferOf s d 0x0314 buf).take (d.p 28 4) = bufferOf s d 0x0314 buf := List.take_of_length_le hlen.le
  unfold segLoad
  rw [served_command h (segLoad_range hlo hhi hend hlen), if_neg hrole]
  simp only [List.headD_cons, hcls, hloading, hsome, hwhole, htake, lt_irrefl, ne_eq, not_true_eq_false, Bool.not_true, Bool.false_eq_true,
    if_false]
/-- With its byte `k` poisoned, a load offers the `k` bytes before it. -/
theorem segLoad_poisoned {k : Nat} (h : Served segLoadInfo d [g] s) (hrole : s.mir.role ≠ .standby) (hhi : d.p 28 4 ≤ 1048576)
    (hend : d.p 24 4 + d.p 28 4 ≤ segBytes) (hlen : (bufferOf s d 0x0314 buf).length = d.p 28 4) (hcls : (s.seg g).cls = .constant)
    (hloading : (s.seg g).loading = true) (hk : 1 ≤ k) (hshort : k < d.p 28 4)
    (htake : takeWrite 1 (g * segBytes + d.p 24 4) (((bufferOf s d 0x0314 buf).take k).map some) none true s = .accepted t) :
    segLoad d buf (some k) s = running d (.load s.ret.order t.ret.order St.poisoned) k t := by
  have hsome : ¬k = 0 := by omega
  unfold segLoad
  rw [served_command h (segLoad_range (hk.trans hshort.le) hhi hend hlen), if_neg hrole]
  simp only [List.headD_cons, hcls, hloading, min_eq_left hshort.le, hshort, hsome, htake, ne_eq, not_true_eq_false, Bool.not_true,
    Bool.false_eq_true, if_true, if_false]
end load
theorem drawSoft_other {fp : Fin 23} {n : Nat} (h : fp ≠ 0) : drawSoft fp n s = s :=
  if_neg fun hsoft => h hsoft.1
/-- Firmware's own write to a CONSTANT segment is accepted: it is charged to no class. -/
theorem takeWrite_constant {a : Nat} {bytes : List WByte} (hcls : (s.lineSeg (lineOf a)).cls = .constant) (hroom : waitingOn s 1 < 32)
    (hadmits : admits s 1 0 = true) :
    takeWrite 1 a bytes none true s = .accepted (addPieces 1 none none none true (splitWrite a bytes) s) := by
  simp only [takeWrite, hcls, chargedClass, hadmits, not_le.2 hroom, reduceCtorEq, decide_false, Bool.not_true, Bool.false_eq_true,
    and_false, false_and, or_self, if_false, drawSoft_other (show (1 : Fin 23) ≠ 0 by decide)]
theorem segSeal_served (h : Served segSealInfo d [g] s) (hrole : s.mir.role ≠ .standby) (hcls : (s.seg g).cls = .constant)
    (hloading : (s.seg g).loading = true) (hnone : loadsOut s g = false) (hclean : segPoisoned s g = false)
    (hcrc : d.bit 16 0 = true → d.p 20 4 = (segCrc s g).toNat) {u : State}
    (hu : u = placeSealRecords g (s.setSeg g { s.seg g with crc := segCrc s g })) :
    segSeal d s = running d (.sealing g u.store.placed false) (segCrc s g).toNat u := by
  have hopen : ¬(!(s.seg g).loading) = true := by
    rw [hloading]
    exact Bool.false_ne_true
  have hmatch : ¬(d.bit 16 0 = true ∧ d.p 20 4 ≠ (segCrc s g).toNat) := fun hbad => hbad.2 (hcrc hbad.1)
  have hsame : ∀ a b : State, (if segPoisoned s g then a else b) = b := fun _ _ => if_neg (ne_true_of_eq_false hclean)
  rw [segSeal, served_command h rfl, List.headD_cons, if_neg hrole]
  refine (if_neg (not_not.2 hcls)).trans ((if_neg hopen).trans ((if_neg (ne_true_of_eq_false hnone)).trans ((if_neg hmatch).trans ?_)))
  rw [hu, hsame]
theorem segShadowSet_served (h : Served segShadowSetInfo d [0] s) (hrole : s.mir.role ≠ .standby) (hlo : 1 ≤ d.p 16 1)
    (hhi : d.p 16 1 ≤ 32) (hfits : shadowFits s (d.p 16 1) = true) :
    segShadowSet d s = storing d 0x0316 [setting 0x0316 0xFF (paramBytes d)] 0 s := by
  rw [segShadowSet, served_command h (by simp [hlo, hhi]), if_neg hrole, if_neg (by simp [hfits])]
end segments
/-- Settles O11: a served command is its own arm, whose branches its premises choose. -/
theorem segmentCommands : Obligations.SegmentCommands :=
  ⟨fun _ _ _ h => congrArg Host.Outcome.next (served_command h rfl _),
    fun _ _ _ h hrole hcount hgood hroom =>
      congrArg (fun t => Host.Outcome.next (settleWeir t)) (segSetClass_served h hrole hcount hgood hroom),
    fun _ _ _ h hrole hcount hgood => ⟨_, _, rfl, rfl, congrArg Host.Outcome.next (segSetFlags_served h hrole hcount hgood rfl rfl)⟩,
    fun _ _ _ h hrole hcls hsealed hloading hfirst =>
      congrArg (fun t => Host.Outcome.next (settleWeir t)) (segLoadBegin_served h hrole hcls hsealed hloading hfirst),
    fun _ _ _ _ h hrole hlo hhi hend hlen hcls hloading =>
      ⟨fun _ htake => congrArg Host.Outcome.next (segLoad_clean h hrole hlo hhi hend hlen hcls hloading htake),
        fun _ _ hk hshort htake =>
          congrArg Host.Outcome.next (segLoad_poisoned h hrole hhi hend hlen hcls hloading hk hshort htake)⟩,
    fun _ _ _ hcls hroom hadmits => takeWrite_constant hcls hroom hadmits,
    fun _ _ _ h hrole hcls hloading hnone hclean hcrc =>
      ⟨_, congrArg Host.Outcome.next (segSeal_served h hrole hcls hloading hnone hclean hcrc rfl), rfl⟩,
    fun _ _ h hrole hlo hhi hfits => congrArg Host.Outcome.next (segShadowSet_served h hrole hlo hhi hfits)⟩
section windows
variable {d : Desc} {off : BitVec 36} {req : BitVec 16} {bytes : List WByte} {po : Bool} {len : Nat} {r s : State}
theorem winSet_served (h : Served winSetInfo d [0] s) (hok : winOk s d = true) (halive : portAlive s d.port = true) :
    winSet d s = finish d St.ok 0 { s with host := { s.host with
      winDue := s.host.winDue ++ [(d.port, d.tag, Fin.ofNat 64 (d.p 16 1), windowOf d)] } } :=
  (served_command h hok _).trans (if_pos halive)
theorem tlpWaits_ownWrite (hown : windowAddr s off / 2 ^ 38 = s.slot) : tlpWaits s (.write off req bytes po) = false := by
  simp only [tlpWaits, hown, ne_eq, not_true_eq_false, decide_false, Bool.false_and]
theorem tlpWaits_ownRead (hown : windowAddr s off / 2 ^ 38 = s.slot) : tlpWaits s (.read off req len) = false := by
  simp only [tlpWaits, hown, ne_eq, not_true_eq_false, decide_false, Bool.false_and]
/-- A BAR2 write that a window of this chip takes is offered to the retention engine. -/
theorem bar2Offer_own (hgood : windowBad s off true = none) (hown : windowAddr s off / 2 ^ 38 = s.slot)
    (hkept : standbyDrops s (lineOf (localOf (windowAddr s off))) = false) :
    bar2Offer off req bytes po s = takeWrite 0 (localOf (windowAddr s off)) bytes (tlpPoison po) false { s with free := s.free + 1 } := by
  simp only [bar2Offer, hgood]
  exact (if_neg (not_not.2 hown)).trans (if_neg (ne_true_of_eq_false hkept))
theorem bar2Offer_bad {k : Nat} (hbad : windowBad s off true = some k) :
    bar2Offer off req bytes po s = .dropped (windowTrap k true off req { s with free := s.free + 1 }) := by
  simp only [bar2Offer, hbad]
theorem bar2ReadNow_own (hgood : windowBad s off false = none) (hown : windowAddr s off / 2 ^ 38 = s.slot) :
    bar2ReadNow off req len s = takeRead (.host req) 0 (localOf (windowAddr s off)) len { s with free := s.free + 1 } := by
  simp only [bar2ReadNow, hgood]
  exact if_neg (not_not.2 hown)
theorem bar2ReadNow_bad {k : Nat} (hbad : windowBad s off false = some k) :
    bar2ReadNow off req len s = gaveUr req (windowTrap k false off req { s with free := s.free + 1 }) := by
  simp only [bar2ReadNow, hbad]
/-- With the host's stream open a BAR2 write takes its turn at once, after a poisoned one is logged. -/
theorem bar2Write_open (hcore : r.boot.coreOut = true) (hs : s = if po then gotPoison r else r) (hopen : HostOpen s)
    (hfree : tlpWaits s (.write off req bytes po) = false) :
    bar2Write off req bytes po r = settleWeir (bar2WriteNow off req bytes po s) := by
  have hlive : ¬(!r.boot.coreOut) = true := by
    rw [hcore]
    exact Bool.false_ne_true
  rw [bar2Write, if_neg hlive, ← hs, inStream_open hopen _ _ hfree]
theorem bar2Read_open (hopen : HostOpen s) (hfree : tlpWaits s (.read off req len) = false) :
    bar2Read off req len s = settleWeir (bar2ReadNow off req len s) := by
  have hlive : ¬(!s.boot.coreOut) = true := by
    rw [hopen.1]
    exact Bool.false_ne_true
  rw [bar2Read, if_neg hlive, inStream_open hopen _ _ hfree]
end windows
/-- Settles O12: with the stream open an access is its window's check, and then an offer or a read of this chip. -/
theorem windowsAndBar2 : Obligations.WindowsAndBar2 := by
  refine ⟨fun _ _ h hok halive => congrArg Host.Outcome.next (winSet_served h hok halive),
    fun _ _ h hi => congrArg Host.Outcome.next (served_command h (decide_eq_true hi) _),
    fun off req bytes po r s hcore hs hopen hgood hown hkept => congrArg Host.Outcome.next ?_,
    fun off req len s hopen hgood hown => congrArg Host.Outcome.next ?_,
    fun off req bytes len k s hopen =>
      ⟨fun hbad hfree => congrArg Host.Outcome.next ?_, fun hbad hfree => congrArg Host.Outcome.next ?_⟩⟩
  · rw [bar2Write_open hcore hs hopen (tlpWaits_ownWrite hown)]
    cases htake : takeWrite 0 (localOf (windowAddr s off)) bytes (tlpPoison po) false { s with free := s.free + 1 } with
    | accepted t => simp only [bar2WriteNow, bar2Offer_own hgood hown hkept, htake]
    | dropped t => simp only [bar2WriteNow, bar2Offer_own hgood hown hkept, htake]
    | held w => simp only [bar2WriteNow, bar2Offer_own hgood hown hkept, htake]
  · rw [bar2Read_open hopen (tlpWaits_ownRead hown), bar2ReadNow_own hgood hown]
  · rw [bar2Write_open hopen.1 (if_neg Bool.false_ne_true).symm hopen hfree, bar2WriteNow, bar2Offer_bad hbad]
  · rw [bar2Read_open hopen hfree, bar2ReadNow_bad hbad]
end Sys2Proof.Machine

/-! # The watchdog of a context while the chip hands over -/
namespace Sys2Proof.Machine
/-- A PRIMARY that hands over, whose context 0 still shows RUNNING with its watchdog set: it drives no context (R412). -/
def watchedInHandover : State :=
  ({ readyOnMq0 with mir := { readyOnMq0.mir with role := .primary, handing := true } } : State).onCtx 0 fun x =>
    { x with mode := .running, wdog := 1 }
/-- The model leaves the context RUNNING. -/
theorem mode_watchdog_inHandover : ((settleWeir (ctxWatchdogExpire 0 watchedInHandover)).ctxAt 0).mode = .running := by
  decide +kernel
/-- In the state that the statement claims the context is ABANDONED. -/
theorem mode_claimedWatchdog_inHandover : ((settleWeir (askAbandon 0 3 none watchedInHandover)).ctxAt 0).mode = .abandoned := by
  decide +kernel
/-- Refutes O18: its clause on the watchdog asks only that the chip is no STANDBY, but a PRIMARY that is handing over drives no context
either (R412, `notDriven`), and its watchdogs abandon nothing. In `watchedInHandover` context 0 stays RUNNING. -/
theorem not_contextWork : ¬ Obligations.ContextWork := by
  unfold Obligations.ContextWork
  rintro ⟨-, -, -, -, -, -, -, hwatchdog, -⟩
  have hclaimed := hwatchdog 0 watchedInHandover (by decide +kernel) (by decide +kernel) (by decide +kernel) (by decide +kernel)
    (by decide +kernel)
  have hmodes : CtxMode.running = CtxMode.abandoned :=
    mode_watchdog_inHandover.symm.trans
      ((congrArg (fun t => (t.ctxAt 0).mode) (Host.Outcome.next.inj hclaimed)).trans mode_claimedWatchdog_inHandover)
  cases hmodes
end Sys2Proof.Machine

/-! # Accesses of the fabric (R105, R157), and the copier (R139–R147) -/
namespace Sys2Proof.Machine
section fabric
variable {fp : Fin 23} {a len : Nat} {bytes : List WByte} {buf : BufRead} {words : MetaRead} {ue : BitVec 512} {s : State}
theorem bucketAddN_ret (i : Fin 37) (n : Nat) : (bucketAddN i n s).ret = s.ret := by
  induction n generalizing s with
  | zero => rfl
  | succ n ih => exact ih.trans (bucketAdd_ret s i)
theorem bufferErrors_ret : (bufferErrors buf s).ret = s.ret := by
  unfold bufferErrors
  dsimp only
  split
  · rw [sramUncorrectable, State.raiseErr_ret]
    exact bucketAddN_ret 30 buf.fixed
  · exact bucketAddN_ret 30 buf.fixed
theorem portMayWrite_of_ret {t : State} (h : t.ret = s.ret) : portMayWrite t fp a = portMayWrite s fp a := by
  have hseg : t.lineSeg (lineOf a) = s.lineSeg (lineOf a) := by
    unfold State.lineSeg State.seg
    rw [h]
  unfold portMayWrite
  rw [hseg]
theorem fabricWrite_port (hhere : s.here a = true) (hidle : s.slu.phase = .idle) (hmay : portMayWrite s fp (localOf a) = true) :
    fabricWrite (.port fp) a bytes buf s = settleWeir (offerWrite fp (localOf a) bytes (bufPoison buf) (bufferErrors buf s)) := by
  have hwrites : ¬(!portMayWrite (bufferErrors buf s) fp (localOf a)) = true := by
    rw [portMayWrite_of_ret bufferErrors_ret, hmay]
    exact Bool.false_ne_true
  rw [fabricWrite, if_pos hhere, fabricWriteAccept, if_neg (not_not.2 hidle)]
  exact if_neg hwrites
theorem fabricWrite_firmware {p : Fin 12} {tag : BitVec 16} (hhere : s.here a = true) (hidle : s.slu.phase = .idle) :
    fabricWrite (.firmware p tag) a bytes buf s =
      settleWeir (firmwareWrite p tag (localOf a) bytes (bufPoison buf) (bufferErrors buf s)) := by
  rw [fabricWrite, if_pos hhere, fabricWriteAccept, if_neg (not_not.2 hidle)]
/-- A line whose words and beats all read right meets no error. -/
theorem readMeta_good (i l : Nat) : readMeta ⟨0, 0, 0, 0⟩ i l s = s := by
  simp [readMeta]
theorem readErrors_good (l : Nat) : readErrors l 0 s = s := by
  have hnone : beatGranules 0 = 0 := by decide
  have hmasked : ∀ v : BitVec 4, beatGranules 0 &&& v = 0 := fun v => by
    rw [hnone]
    exact BitVec.zero_and
  exact if_pos (hmasked _)
theorem ofNat_zero_shiftRight (w v n : Nat) : BitVec.ofNat v ((0 : BitVec w).toNat >>> n) = 0 := by
  simp
theorem fabricReads_good (hhere : s.here a = true) :
    fabricReads fp a len ⟨0, 0, 0, 0⟩ 0 s = settleWeir (takeRead .fabric fp (localOf a) len s) := by
  have hwords := List.foldl_fixed' (f := fun (s : State) (q : Nat × Nat) => readMeta ⟨0, 0, 0, 0⟩ q.2 q.1 s)
    (fun q => readMeta_good (s := s) q.2 q.1) (linesFrom (localOf a) len).zipIdx
  have hbeats := List.foldl_fixed' (f := fun (s : State) (q : Nat × Nat) =>
      readErrors q.1 (BitVec.ofNat 32 ((0 : BitVec 512).toNat >>> (32 * q.2))) s)
    (fun q => (congrArg (fun b => readErrors q.1 b s) (ofNat_zero_shiftRight 512 32 _)).trans (readErrors_good (s := s) q.1))
    (linesFrom (localOf a) len).zipIdx
  rw [fabricReads, if_pos hhere, fabricRead]
  exact congrArg (fun t => settleWeir (takeRead .fabric fp (localOf a) len t)) ((congrArg (fun t => List.foldl _ t _) hwords).trans hbeats)
theorem fabricWrite_unreached (hhere : s.here a = false) (hstays : fp ≠ 1 ∨ goesOut s a = false) :
    fabricWrite (.port fp) a bytes buf s = s := by
  rw [fabricWrite, if_neg (ne_true_of_eq_false hhere)]
  refine if_neg ?_
  rcases hstays with hport | hinside
  · simp [hport]
  · simp [hinside]
theorem fabricReads_unreached (hhere : s.here a = false) (hstays : fp ≠ 1 ∨ goesOut s a = false) :
    fabricReads fp a len words ue s = s := by
  rw [fabricReads, if_neg (ne_true_of_eq_false hhere)]
  refine if_neg ?_
  rintro ⟨hport, hout, -⟩
  rcases hstays with hother | hinside
  · exact hother hport
  · exact ne_true_of_eq_false hinside hout
theorem fabricWrite_out {p : Fin 12} {tag : BitVec 16} (hhere : s.here a = false) (hout : goesOut s a = true)
    (hidle : s.slu.phase = .idle) :
    fabricWrite (.firmware p tag) a bytes buf s = sendWrites a bytes buf.bad true (bufferErrors buf s) := by
  rw [fabricWrite, if_neg (ne_true_of_eq_false hhere)]
  exact if_pos (by rw [hout, decide_eq_true hidle]; rfl)
theorem fabricReads_out (hhere : s.here a = false) (hout : goesOut s a = true) (hidle : s.slu.phase = .idle) :
    fabricReads 1 a len words ue s = remoteRead a len .fabric s := by
  rw [fabricReads, if_neg (ne_true_of_eq_false hhere), if_pos ⟨rfl, hout, hidle⟩]
/-- The oldest piece of a port, with nothing in its way, is applied. -/
theorem lineWriteApply_ready {p : Piece} {rest : List Piece} (hps : portPieces s fp = p :: rest) (hwait : p.wait = .ready)
    (hfirst : behindOther s p = false) (halive : dchDead s (channelOf s p.line) = false)
    (hrunning : dchRunning s (channelOf s p.line) = true) (hclear : obstacle s p = .ready) :
    lineWriteApply fp s = applyPiece p (dropPiece p s) := by
  have hfind : (p :: rest).find? (fun p => p.wait ≠ .copy ∧ p.wait ≠ .fault) = some p :=
    List.find?_cons_of_pos (by simp [hwait])
  simp only [lineWriteApply, hps, hfind, hfirst, halive, hrunning, hclear, Bool.not_true, Bool.false_eq_true, if_false, List.head?_cons,
    Option.map_some, if_true]
end fabric
/-- Settles O13: where an access lies decides what is done with it, and the oldest ready piece is applied. -/
theorem fabricAccess : Obligations.FabricAccess :=
  ⟨fun _ _ _ _ _ hhere hidle hmay => congrArg Host.Outcome.next (fabricWrite_port hhere hidle hmay),
    fun _ _ _ _ _ _ hhere hidle => congrArg Host.Outcome.next (fabricWrite_firmware hhere hidle),
    fun _ _ _ _ hhere => congrArg Host.Outcome.next (fabricReads_good hhere),
    fun _ _ _ _ _ _ _ _ hhere hstays => ⟨congrArg Host.Outcome.next (fabricWrite_unreached hhere hstays),
      congrArg Host.Outcome.next (fabricReads_unreached hhere hstays)⟩,
    fun _ _ _ _ _ _ _ _ _ hhere hout hidle => ⟨congrArg Host.Outcome.next (fabricWrite_out hhere hout hidle),
      congrArg Host.Outcome.next (fabricReads_out hhere hout hidle)⟩,
    fun fp _ _ _ hps hwait hfirst halive hrunning hclear =>
      congrArg (fun t => Host.Outcome.next (settleWeir (if fp = 1 then wakeLoads t else t)))
        (lineWriteApply_ready hps hwait hfirst halive hrunning hclear)⟩
end Sys2Proof.Machine

/-! # The copier and the end of a demand fault (R139–R147, R214) -/
namespace Sys2Proof.Machine
section copier
variable {line : Nat} {s : State}
theorem copyBatch_next {k : Nat} (hidle : s.ret.copy.active = [])
    (hfind : (List.range 16).find? (fun n =>
      s.ret.copy.queue.any fun q => q.1.val = (s.ret.copy.last.val + 1 + n) % 16) = some k)
    {mine : List (Fin 16 × Nat)}
    (hmine : mine = (s.ret.copy.queue.filter fun q => q.1.val = (s.ret.copy.last.val + 1 + k) % 16).take s.ret.copy.batch) :
    copyBatch s = s.onCopy fun q => { q with
      last := Fin.ofNat 16 (s.ret.copy.last.val + 1 + k), active := mine, queue := q.queue.filter fun x => !mine.contains x } := by
  have hsame : (s.ret.copy.queue.filter fun q => q.1 = Fin.ofNat 16 (s.ret.copy.last.val + 1 + k)) =
      s.ret.copy.queue.filter fun q => q.1.val = (s.ret.copy.last.val + 1 + k) % 16 :=
    List.filter_congr fun q _ => decide_eq_decide.2 Fin.ext_iff
  subst hmine
  simp only [copyBatch, hidle, hfind, hsame, ne_eq, not_true_eq_false, if_false]
theorem copyDone_waits {p : Piece} (hactive : s.ret.copy.active.any (fun q => q.2 = line) = true) (htakes : channelTakes s line = true)
    (hp : s.ret.writes.find? (fun p => p.line = line ∧ p.wait = .copy) = some p) :
    copyDone line s = serveReads (applyServed p.fp 64 (setPiece p .served (s.onCopy fun k =>
      { k with active := k.active.filter (fun q => q.2 ≠ line), copies := k.copies + 1,
               stallMax := max k.stallMax (sat 16 (s.now - p.since)) }))) := by
  have hgo : ¬((!s.ret.copy.active.any fun q => q.2 = line) || !channelTakes s line) = true := by
    rw [hactive, htakes]
    exact Bool.false_ne_true
  rw [copyDone, if_neg hgo]
  simp only [State.onCopy, hp]
theorem requestRead_ret {fp : Fin 23} {m : BitVec 4} : (requestRead fp line m s).ret = s.ret :=
  foldl_keeps (fun t : State => t.ret) _ (fun _ _ => request_ret) _ s
theorem requestWrite_ret {fp : Fin 23} {po : BitVec 4} : (requestWrite fp line po s).ret = s.ret :=
  foldl_keeps (fun t : State => t.ret) _ (fun _ _ => request_ret) _ s
/-- The home of a line after its shadow line was copied there: the value and the poison of the shadow line. -/
theorem copyHome_ret : (copyHome line s).ret = ((s.setLine line { s.lineAt line with
    poison := (s.lineAt line).shPoison, valid := 15 }).setHome line (s.shadowBytes line)).ret :=
  requestWrite_ret.trans requestRead_ret
theorem lineAt_of_ret {t : State} (h : t.ret = s.ret) (l : Nat) : t.lineAt l = s.lineAt l :=
  congrArg (fun r : Ret => mget Line.never r.lines l) h
theorem lineAt_setLine_of_ne {x : Line} (h : x ≠ Line.never) : (s.setLine line x).lineAt line = x :=
  (mget_mset_of_ne Line.never s.ret.lines line line h).trans (if_pos rfl)
theorem ne_never_of_valid {x : Line} (h : x.valid = 15) : x ≠ Line.never := by
  rintro rfl
  exact absurd h (by decide)
theorem lineAt_setHome (l k : Nat) (bs : List Byte) : (s.setHome l bs).lineAt k = s.lineAt k :=
  rfl
theorem copyHome_lineAt : (copyHome line s).lineAt line = { s.lineAt line with poison := (s.lineAt line).shPoison, valid := 15 } := by
  rw [lineAt_of_ret copyHome_ret, lineAt_setHome]
  exact lineAt_setLine_of_ne (ne_never_of_valid rfl)
/-- What `settle` leaves of `t` once the line `x` is written there: the shadow line's bytes are gone. -/
theorem settled_frame (t : State) (x : Line) (f : Slu → Slu) :
    (onSlu ((t.setLine line x).freeShadow line) f).lineAt line = (t.setLine line x).lineAt line ∧
      (onSlu ((t.setLine line x).freeShadow line) f).ret.dram = t.ret.dram ∧
      (onSlu ((t.setLine line x).freeShadow line) f).ret.shadow = mdrop t.ret.shadow (line * 256) (line * 256 + 256) :=
  ⟨rfl, rfl, rfl⟩
theorem setHome_setLine_stores (x : Line) (bs : List Byte) :
    ((s.setLine line x).setHome line bs).ret.dram = mputs 0 s.ret.dram (line * 256) bs ∧
      ((s.setLine line x).setHome line bs).ret.shadow = s.ret.shadow :=
  ⟨rfl, rfl⟩
theorem copyHome_dram : (copyHome line s).ret.dram = mputs 0 s.ret.dram (line * 256) (s.shadowBytes line) :=
  (congrArg (·.dram) copyHome_ret).trans (setHome_setLine_stores _ _).1
theorem copyHome_shadow : (copyHome line s).ret.shadow = s.ret.shadow :=
  (congrArg (·.shadow) copyHome_ret).trans (setHome_setLine_stores _ _).2
/-- A COMMITTED line that lies in its shadow line moves home, and its shadow line is free. -/
theorem settle_flipped (hqueue : s.ret.copy.queue = []) (hactive : s.ret.copy.active = []) (hidle : s.slu.phase = .idle)
    (heff : s.eff line = (.committed, true)) (hcover : s.slu.covered.contains line = false) (htakes : channelTakes s line = true) :
    (settle line s).lineAt line = { s.lineAt line with
        state := .committed, flip := false, stamp := 0, poison := (s.lineAt line).shPoison, valid := 15 } ∧
      (settle line s).ret.dram = mputs 0 s.ret.dram (line * 256) (s.shadowBytes line) ∧
      (settle line s).ret.shadow = mdrop s.ret.shadow (line * 256) (line * 256 + 256) := by
  have hgo : ¬(s.ret.copy.queue ≠ [] ∨ s.ret.copy.active ≠ [] ∨ s.slu.phase ≠ .idle ∨ s.eff line ≠ (.committed, true) ∨
      (!channelTakes s line) = true) := by
    simp [hqueue, hactive, hidle, heff, htakes]
  have hdone : settle line s = onSlu (((copyHome line s).setLine line { s.lineAt line with
      state := .committed, flip := false, stamp := 0, poison := (s.lineAt line).shPoison, valid := 15 }).freeShadow line)
      fun x => { x with covered := x.covered.filter (· ≠ line) } := by
    rw [settle, if_neg hgo]
    simp only [hcover, Bool.false_eq_true, if_false, copyHome_lineAt]
  obtain ⟨hline, hdram, hshadow⟩ := settled_frame (line := line) (copyHome line s) { s.lineAt line with
    state := .committed, flip := false, stamp := 0, poison := (s.lineAt line).shPoison, valid := 15 }
    fun x => { x with covered := x.covered.filter (· ≠ line) }
  rw [hdone]
  exact ⟨hline.trans (lineAt_setLine_of_ne (ne_never_of_valid rfl)), hdram.trans copyHome_dram, hshadow.trans (by rw [copyHome_shadow])⟩
theorem copyStallLong_late {fp : Fin 23} {p : Piece}
    (hp : s.ret.writes.find? (fun p => p.fp = fp ∧ p.wait = .copy ∧ s.now - p.since > s.ret.copy.stallLimit) = some p) :
    copyStallLong fp s = s.raiseLim 0x0415 fp.val fp.val [(16, (s.lineSeg p.line).owner.val), (18, sat 16 (s.now - p.since))] := by
  rw [copyStallLong, hp]
end copier
/-- The line of a demand fault that has ended: what waited on it, `s2` being the state with the line filled or as it was. -/
def servedAfter (line : Nat) (s2 : State) : State :=
  serveReads (((s2.ret.writes.filter fun p => p.line = line ∧ p.wait = .fault).foldl (fun s p => applyServed p.fp 64 s)
    (serveReads ((s2.ret.writes.filter fun p => p.line = line ∧ p.wait = .fault).foldl (fun s p => setPiece p .served s) s2))))
section faults
variable {line : Nat} {bad : Bool} {f : FaultOp} {s s1 : State}
/-- A demand fault that ends in time, in a segment already built: the line is filled where something waits for its value and it is
UNRESTORED, and what waits goes on. -/
theorem demandFaultDone_inTime (hfault : s.slu.faults.find? (·.line = line) = some f) (htime : toUs (s.now - f.since) ≤ 1000)
    (hs1 : s1 = readsOver (· == .fault line) (onSlu s fun x => { x with
      faults := x.faults.filter (fun g => g.line ≠ line), faultMax := sat 16 (max x.faultMax (toUs (s.now - f.since))) }))
    (hbuilt : s1.unbuilt (segOf line) = false) : ∃ wanted : Bool,
      demandFaultDone line bad s =
        servedAfter line (if wanted ∧ (s1.eff line).1 = .unrestored then fillLine true line bad s1 else s1) ∧
      ((s1.slu.reads.any (fun r => (linesFrom r.addr r.len).contains line) ||
        s1.ret.writes.any (fun p => p.line = line && !isFull p.bytes)) = true → wanted = true) := by
  have hquick : ¬toUs (s.now - f.since) > 1000 := not_lt.2 htime
  simp only [demandFaultDone, hfault, hquick, if_false, ← hs1, buildSegment_built hbuilt]
  exact ⟨_, rfl, fun h => by rw [h]; rfl⟩
theorem demandFaultDone_none (h : s.slu.faults.find? (·.line = line) = none) : demandFaultDone line bad s = s := by
  rw [demandFaultDone, h]
end faults
/-- Settles O19: each clause is the branch of its row that the premises choose. -/
theorem copierWork : Obligations.CopierWork := by
  refine ⟨fun _ _ hidle _ hfind => ⟨_, rfl, congrArg Host.Outcome.next (copyBatch_next hidle hfind rfl)⟩,
    fun _ _ _ hactive htakes hp => congrArg (fun t => Host.Outcome.next (settleWeir t)) (copyDone_waits hactive htakes hp),
    fun line s hqueue hactive hidle heff hcover htakes =>
      ⟨settle line s, rfl, settle_flipped hqueue hactive hidle heff hcover htakes⟩,
    fun _ _ _ _ hp => congrArg Host.Outcome.next (copyStallLong_late hp),
    fun _ _ _ _ _ hfault htime hs1 hbuilt hunrestored hwanted => ?_, fun _ _ _ _ _ hfault htime hs1 hbuilt hrestored => ?_,
    fun _ _ _ h => congrArg (fun t => Host.Outcome.next (settleWeir t)) (demandFaultDone_none h)⟩
  · obtain ⟨wanted, hdone, hwants⟩ := demandFaultDone_inTime hfault htime hs1 hbuilt
    rw [if_pos ⟨hwants hwanted, hunrestored⟩] at hdone
    exact congrArg (fun t => Host.Outcome.next (settleWeir t)) hdone
  · obtain ⟨wanted, hdone, -⟩ := demandFaultDone_inTime hfault htime hs1 hbuilt
    rw [if_neg fun h => hrestored h.2] at hdone
    exact congrArg (fun t => Host.Outcome.next (settleWeir t)) hdone
end Sys2Proof.Machine

/-! # A swap while the chip hands over -/
namespace Sys2Proof.Machine
/-- The register of a CRC-32 after some bytes, as a number. The case split has a step evaluated before the next one begins. -/
def crcRegister : Nat → List Byte → Nat
  | c, [] => c
  | c, b :: bs =>
    match (crc32Byte (BitVec.ofNat 32 c) b).toNat with
    | 0 => crcRegister 0 bs
    | n + 1 => crcRegister (n + 1) bs
theorem foldl_crc32Byte (bs : List Byte) (c : BitVec 32) : bs.foldl crc32Byte c = BitVec.ofNat 32 (crcRegister c.toNat bs) := by
  induction bs generalizing c with
  | nil => simp [crcRegister]
  | cons b bs ih =>
    have hstep : crcRegister c.toNat (b :: bs) = crcRegister (crc32Byte c b).toNat bs := by
      rw [crcRegister, BitVec.ofNat_toNat, BitVec.setWidth_eq]
      cases (crc32Byte c b).toNat <;> rfl
    rw [List.foldl_cons, ih, hstep]
/-- The layout block of a bank of one segment, with no plane, no timer and no carry. -/
def emptyLayoutBlock : List Byte := leBytes 4 0x53434C59 ++ [1] ++ List.replicate 4087 0 ++ leBytes 4 0x6905136B
def emptyLayout : Layout := ⟨1, 1, 0, 0, 0, 0, 0, []⟩
theorem crc32_emptyLayoutBlock : crc32 (emptyLayoutBlock.take 4092) = 0x6905136B := by
  rw [crc32, foldl_crc32Byte]
  decide +kernel
theorem parseLayout_emptyLayoutBlock : parseLayout 1 1 emptyLayoutBlock = some emptyLayout := by
  simp only [parseLayout, crc32_emptyLayoutBlock]
  decide +kernel
/-- CTX_SWAP on MQ0, of context 0 to the bank of segment 1. -/
def swapToBank1 : Desc :=
  { port := 0, sqi := 0, tag := 7, unit := 0x04, sel := 0, flags := 0, inst := 0, rsv := 0, param := 1 + 1 <<< 32 }
/-- A PRIMARY that hands over, its scan services RUNNING, segment 1 a sealed bank that holds the block; it has fetched the command. -/
def swapFetchedInHandover : State :=
  let s : State := { readyOnMq0 with
    mir := { readyOnMq0.mir with role := .primary, handing := true }
    life := vmod readyOnMq0.life 16 fun x => { x with life := .running }
    ret := { readyOnMq0.ret with
      dram := mputs 0 (mputs 0 [] 2097152 (emptyLayoutBlock.take 5)) 2101244 (emptyLayoutBlock.drop 4092) } }
  let full : Line := { Line.never with state := .clean, valid := 15 }
  onCmds (((s.setSeg 1 { Seg.new with cls := .constant, sealed := true }).setLine 8192 full).setLine 8207 full) 0
    fun cs => cs ++ [newCmd swapToBank1 ctxSwapInfo.op 0 []]
theorem bankBytes_swapFetched : bankBytes (bankIn 1 0 4096 swapFetchedInHandover) 1 0 4096 = emptyLayoutBlock :=
  eq_of_beq (by decide +kernel)
theorem readLayout_swapFetched : readLayout (bankIn 1 0 4096 swapFetchedInHandover) 0 1 1 = .inl emptyLayout := by
  unfold readLayout
  rw [bankBytes_swapFetched, parseLayout_emptyLayoutBlock]
  decide +kernel
theorem operands_swapToBank1 : swapToBank1.p 16 4 = 1 ∧ swapToBank1.p 20 2 = 1 := by
  decide +kernel
theorem served_swapFetchedInHandover : Served ctxSwapInfo swapToBank1 [0] swapFetchedInHandover := by
  unfold Served
  decide +kernel
/-- The model arms no swap. -/
theorem swap_ctxSwap_inHandover : (ctxSwap swapToBank1 swapFetchedInHandover).scan.ctx[fin16 0].swap.isSome = false := by
  decide +kernel
/-- Refutes O35: its clause on `CTX_SWAP` asks only that the chip is no STANDBY, but a PRIMARY that is handing over drives no context
either (R412, `notDriven`), and refuses the command with ST_UNIT_STATE. In `swapFetchedInHandover` no swap is armed. -/
theorem not_scanServices : ¬ Obligations.ScanServices := by
  unfold Obligations.ScanServices
  rintro ⟨-, -, -, -, hswap, -⟩
  have hclaimed := hswap swapToBank1 0 emptyLayout [] swapFetchedInHandover served_swapFetchedInHandover
  rw [operands_swapToBank1.1, operands_swapToBank1.2] at hclaimed
  obtain ⟨v, hexec, -, harmed⟩ := hclaimed (by decide) (by decide) (by decide) (by decide +kernel) (by decide +kernel) (by decide +kernel)
    (by decide +kernel) (by decide +kernel) (by decide +kernel) (by decide +kernel) _ _ rfl readLayout_swapFetched rfl (by decide +kernel)
  have hstates : ctxSwap swapToBank1 swapFetchedInHandover = running swapToBank1 (.swap (fin16 0)) 0 v := Host.Outcome.next.inj hexec
  have hnone := swap_ctxSwap_inHandover
  rw [hstates, running_scan] at hnone
  exact Bool.false_ne_true (hnone.symm.trans (congrArg Option.isSome harmed))
end Sys2Proof.Machine

/-! # Rails, sequences and the hold-up bank (chapter 15) -/
namespace Sys2Proof.Machine
/-- Going from `s` to `t`, the sequencer has only reported: events and power records are held or raised, and nothing of the rails, the
sequence, the device's state or retention changes. -/
def Reported (s t : State) : Prop :=
  t.ret = s.ret ∧ t.glb.state = s.glb.state ∧ ∃ evs log, t.pwr = { s.pwr with heldEvents := evs, heldLog := log }
section reports
variable {s t u : State}
theorem Reported.trans (h : Reported s t) (h' : Reported t u) : Reported s u := by
  obtain ⟨hret, hstate, evs, log, hpwr⟩ := h
  obtain ⟨hret', hstate', evs', log', hpwr'⟩ := h'
  exact ⟨hret'.trans hret, hstate'.trans hstate, evs', log', by rw [hpwr', hpwr]⟩
theorem Reported.reacts (h : Reported s t) : reacts t = reacts s := by
  obtain ⟨-, hstate, evs, log, hpwr⟩ := h
  simp only [Machine.reacts, hstate, hpwr]
theorem raisePwr_reported {code : Nat} {data : List (Nat × Nat)} : Reported s (raisePwr code data s) := by
  unfold raisePwr
  split
  · exact ⟨rfl, rfl, _, _, rfl⟩
  · exact ⟨State.raise_ret _ _ _ _, congrArg Glb.state (State.raise_glb _ _ _ _), s.pwr.heldEvents, s.pwr.heldLog, State.raise_pwr _ _ _ _⟩
theorem noteRaised_reported {code key : Nat} : Reported s (s.noteRaised code key) :=
  ⟨rfl, rfl, s.pwr.heldEvents, s.pwr.heldLog, rfl⟩
theorem raiseLim_reported {code key inst : Nat} {data : List (Nat × Nat)} : Reported s (s.raiseLim code key inst data) := by
  obtain ⟨lims, hglb⟩ := raiseLim_glb s code key inst data
  exact ⟨State.raiseLim_ret _ _ _ _ _, by rw [hglb], s.pwr.heldEvents, s.pwr.heldLog, State.raiseLim_pwr _ _ _ _ _⟩
theorem Reported.refl : Reported s s :=
  ⟨rfl, rfl, s.pwr.heldEvents, s.pwr.heldLog, rfl⟩
theorem raisePwrLim_reported {code key : Nat} {data : List (Nat × Nat)} : Reported s (raisePwrLim code key data s) := by
  unfold raisePwrLim
  split
  · split
    · exact noteRaised_reported.trans raisePwr_reported
    · exact .refl
  · exact raiseLim_reported
theorem logDue_reported {code rail value detail : Nat} : Reported s (logDue code rail value detail s) :=
  ⟨rfl, rfl, _, _, rfl⟩
/-- Where the sequence changes its state, the change is reported. -/
theorem toSeq_of_ne {x : SeqSt} (h : s.pwr.seq ≠ x) : Reported (onPwr s fun p => { p with seq := x }) (toSeq x s) := by
  rw [toSeq, if_neg h]
  exact raisePwr_reported
end reports
section rails
variable {r : Fin 16} {s : State} {d : Desc}
theorem all_allRails {p : Nat → Bool} (h : ∀ k < 16, p k = true) : allRails.all p = true :=
  List.all_eq_true.2 fun k hk => h k (List.mem_range.1 hk)
theorem all_allRails_or {p q : Nat → Bool} (h : ∀ k < 16, p k = true → q k = true) : allRails.all (fun k => !p k || q k) = true := by
  refine all_allRails fun k hk => ?_
  cases hp : p k with
  | false => rfl
  | true => exact h k hk hp
theorem onRail_onRail {f g : Rail → Rail} : onRail (onRail s r f) r g = onRail s r fun x => g (f x) := by
  simp only [onRail, onPwr, vmod, Vector.set_set, Fin.getElem_fin, Vector.getElem_set_self]
theorem onRail_rail {f : Rail → Rail} : (onRail s r f).pwr.rail[r] = f s.pwr.rail[r] :=
  vmod_same _ _ _
theorem railEnable_ready (hstart : (s.pwr.rail[r]).start = true) (hpin : (s.pwr.rail[r]).enPin = false)
    (hmode : (s.pwr.rail[r]).mode ≠ .falling)
    (hdep : ∀ d < 16, (s.pwr.rail[r]).cfg.dep.getLsbD d = true → (railAt s d).mode.isGood = true) :
    railEnable r s = onRail s r fun x => { x with enPin := true, mode := .rising, attempts := 0, inWin := false, pgPin := false } :=
  if_pos ⟨hstart, by rw [hpin]; rfl, hmode, all_allRails_or hdep⟩
theorem railStable_window (hpin : (s.pwr.rail[r]).enPin = true) (hmode : (s.pwr.rail[r]).mode = .rising ∨ (s.pwr.rail[r]).mode = .out) :
    ∃ mv, (s.pwr.rail[r]).cfg.uv ≤ mv ∧ ((s.pwr.rail[r]).cfg.uv ≤ (s.pwr.rail[r]).cfg.ov → mv ≤ (s.pwr.rail[r]).cfg.ov) ∧
      railStable r s = settleStart (onRail s.draw.2 r fun x => widen mv { x with
        mv := mv, mode := .good, inWin := true, pgPin := x.pgPin || x.cfg.pgEn, start := false, retrySeq := false }) := by
  refine ⟨_, Nat.le_add_right _ (bits s.draw.1 0 12 % ((s.pwr.rail[r]).cfg.ov - (s.pwr.rail[r]).cfg.uv + 1)), fun hwin => ?_,
    if_pos ⟨hpin, hmode⟩⟩
  have hlt := Nat.mod_lt (bits s.draw.1 0 12) (Nat.succ_pos ((s.pwr.rail[r]).cfg.ov - (s.pwr.rail[r]).cfg.uv))
  rw [Nat.succ_eq_add_one] at hlt
  omega
/-- An excursion counts on an enabled rail of the table, a power-good one where the rail has such a pin. -/
theorem excursion_counts {k : RailBad} {f : Rail → Rail} (hpin : (s.pwr.rail[r]).enPin = true) (hen : (s.pwr.rail[r]).cfg.en = true)
    (hpg : k = .pg → (s.pwr.rail[r]).cfg.pgEn = true) (hfpin : (f s.pwr.rail[r]).enPin = (s.pwr.rail[r]).enPin)
    (hfcfg : (f s.pwr.rail[r]).cfg = (s.pwr.rail[r]).cfg) :
    ¬((!((onRail s r f).pwr.rail[r]).enPin) = true ∨ (!((onRail s r f).pwr.rail[r]).cfg.en) = true ∨
      (k = .pg ∧ (!((onRail s r f).pwr.rail[r]).cfg.pgEn) = true)) := by
  rw [onRail_rail, hfpin, hfcfg, hpin, hen]
  rintro (h | h | ⟨hk, h⟩)
  · cases h
  · cases h
  · rw [hpg hk] at h
    cases h
theorem noteMv_enPin {mv : Nat} {x : Rail} : (noteMv mv x).enPin = x.enPin := by
  unfold noteMv
  split <;> rfl
theorem noteMv_cfg {mv : Nat} {x : Rail} : (noteMv mv x).cfg = x.cfg := by
  unfold noteMv
  split <;> rfl
theorem noteMv_mode {mv : Nat} {x : Rail} : (noteMv mv x).mode = x.mode := by
  unfold noteMv
  split <;> rfl
theorem noteMv_of_ne {mv : Nat} {x : Rail} (h : x.mode ≠ .good) : noteMv mv x = { x with mv := mv } :=
  if_neg h
theorem railExcursion_counts {k : RailBad} {v : Nat} (hpin : (s.pwr.rail[r]).enPin = true) (hen : (s.pwr.rail[r]).cfg.en = true)
    (hpg : k = .pg → (s.pwr.rail[r]).cfg.pgEn = true) :
    ¬((!((onRail s r (noteMv v)).pwr.rail[r]).enPin) = true ∨ (!((onRail s r (noteMv v)).pwr.rail[r]).cfg.en) = true ∨
      (k = .pg ∧ (!((onRail s r (noteMv v)).pwr.rail[r]).cfg.pgEn) = true)) :=
  excursion_counts hpin hen hpg noteMv_enPin noteMv_cfg
theorem railExcursion_rising {k : RailBad} {v : Nat} (hpin : (s.pwr.rail[r]).enPin = true) (hen : (s.pwr.rail[r]).cfg.en = true)
    (hpg : k = .pg → (s.pwr.rail[r]).cfg.pgEn = true) (hmode : (s.pwr.rail[r]).mode = .rising) (htries : (s.pwr.rail[r]).attempts < 2) :
    railExcursion r k v s = onRail s r fun x => { x with mv := v, attempts := x.attempts + 1, inWin := decide (k = .pg) } := by
  have hnote : noteMv v s.pwr.rail[r] = { s.pwr.rail[r] with mv := v } := noteMv_of_ne (by rw [hmode]; decide)
  have hfew : ¬((s.pwr.rail[r]).attempts + 1 ≥ 3 ∧ (!(s.pwr.rail[r]).stop) = true) := by omega
  have hmin : min 3 ((s.pwr.rail[r]).attempts + 1) = (s.pwr.rail[r]).attempts + 1 := by omega
  unfold railExcursion
  dsimp only
  rw [if_neg (railExcursion_counts hpin hen hpg)]
  simp only [onRail_rail, hnote, hmode, if_neg hfew, onRail_onRail]
  simp only [onRail, onPwr, vmod, Fin.getElem_fin] at hnote hmin ⊢
  simp only [hnote, hmin]
/-- A rail's fault as its registers record it, before it is reported. -/
def struckRail (r : Fin 16) (code v : Nat) (s : State) : State :=
  onPwr (onRail s r fun x => { x with lastFault := code, inWin := decide (code = 3), mv := v, pgPin := x.pgPin && decide (code ≠ 3) })
    fun p => { p with fault := p.fault ||| BitVec.ofNat 16 (2 ^ r.val) }
theorem struckRail_rail {code v : Nat} : (struckRail r code v s).pwr.rail[r] =
    { s.pwr.rail[r] with lastFault := code, inWin := decide (code = 3), mv := v,
                         pgPin := (s.pwr.rail[r]).pgPin && decide (code ≠ 3) } :=
  onRail_rail
theorem Reported.rail {t : State} (h : Reported s t) : t.pwr.rail[r] = s.pwr.rail[r] := by
  obtain ⟨-, -, evs, log, hpwr⟩ := h
  rw [hpwr]
/-- The report of a rail's fault: its event and its record. -/
def faultReport (r : Fin 16) (code react v : Nat) (s : State) : State :=
  logDue 1 r.val v (pack [(0, code), (8, react)]) (raisePwrLim 0x0F10 r.val [(16, r.val), (17, code), (18, react), (20, v)] s)
theorem faultReport_reported {code k v : Nat} : Reported s (faultReport r code k v s) :=
  raisePwrLim_reported.trans logDue_reported
theorem react_out (h : (s.pwr.rail[r]).cfg.react = 0) : react r s = onRail s r fun x => { x with mode := .out } :=
  if_pos h
theorem struckRail_reacts {code v : Nat} : reacts (struckRail r code v s) = reacts s :=
  rfl
/-- A fault that a rail of no retention supply ignores leaves it OUT (R448). -/
theorem railFault_out {code v : Nat} (hreact : (s.pwr.rail[r]).cfg.react = 0) (hgo : reacts s = true)
    (hretain : (s.pwr.rail[r]).cfg.retain = false) :
    railFault r code v s = onRail (faultReport r code 0 v (struckRail r code v s)) r fun x => { x with mode := .out } := by
  have hrep : Reported (struckRail r code v s) (faultReport r code 0 v (struckRail r code v s)) := faultReport_reported
  have hgo' : reacts (faultReport r code 0 v (struckRail r code v s)) = true := hrep.reacts.trans hgo
  have hreact' : ((faultReport r code 0 v (struckRail r code v s)).pwr.rail[r]).cfg.react = 0 := by
    rw [hrep.rail, struckRail_rail]
    exact hreact
  have hnot : ¬((s.pwr.rail[r]).cfg.retain = true ∧ s.slu.phase ≠ .idle) := fun h => by
    rw [hretain] at h
    exact Bool.false_ne_true h.1
  unfold railFault
  simp only [hreact, if_neg hnot]
  exact (if_pos hgo').trans (react_out hreact')
theorem railExcursion_out {k : RailBad} {v : Nat} (hpin : (s.pwr.rail[r]).enPin = true) (hen : (s.pwr.rail[r]).cfg.en = true)
    (hpg : k = .pg → (s.pwr.rail[r]).cfg.pgEn = true) (hmode : (s.pwr.rail[r]).mode = .good)
    (hreact : (s.pwr.rail[r]).cfg.react = 0) (hgo : reacts s = true) (hretain : (s.pwr.rail[r]).cfg.retain = false) :
    ((railExcursion r k v s).pwr.rail[r]).mode = .out ∧ ((railExcursion r k v s).pwr.rail[r]).enPin = true ∧
      ((railExcursion r k v s).pwr.rail[r]).lastFault = badCode k ∧
      (railExcursion r k v s).pwr.fault = s.pwr.fault ||| BitVec.ofNat 16 (2 ^ r.val) ∧ (railExcursion r k v s).ret = s.ret := by
  have hmode' : ((onRail s r (noteMv v)).pwr.rail[r]).mode = .good := by rw [onRail_rail, noteMv_mode, hmode]
  have hrun : railExcursion r k v s = railFault r (badCode k) v (onRail s r (noteMv v)) := by
    unfold railExcursion
    dsimp only
    rw [if_neg (railExcursion_counts hpin hen hpg), hmode']
  have hout := railFault_out (code := badCode k) (v := v) (s := onRail s r (noteMv v))
    (by rw [onRail_rail, noteMv_cfg, hreact]) hgo (by rw [onRail_rail, noteMv_cfg, hretain])
  have hrep : Reported (struckRail r (badCode k) v (onRail s r (noteMv v)))
    (faultReport r (badCode k) 0 v (struckRail r (badCode k) v (onRail s r (noteMv v)))) := faultReport_reported
  have hrail := hrep.rail (r := r)
  obtain ⟨hret, -, evs, log, hpwr⟩ := hrep
  rw [struckRail_rail, onRail_rail] at hrail
  rw [hrun, hout, onRail_rail, hrail]
  refine ⟨rfl, noteMv_enPin.trans hpin, rfl, ?_, hret⟩
  rw [onRail, onPwr_own, hpwr]
  rfl
theorem railDisable_last (hstop : (s.pwr.rail[r]).stop = true) (hpin : (s.pwr.rail[r]).enPin = true)
    (hdep : ∀ d < 16, (railAt s d).cfg.dep.getLsbD r.val = true → (railAt s d).alive = false) :
    railDisable r s = onRail s r fun x => { x with enPin := false, mode := .falling, stop := false, inWin := false } := by
  refine if_pos ⟨hstop, hpin, all_allRails_or fun d hd h => ?_⟩
  rw [hdep d hd h]
  rfl
theorem railRiseTimeout_rising (hpin : (s.pwr.rail[r]).enPin = true) (hmode : (s.pwr.rail[r]).mode = .rising)
    (hstop : (s.pwr.rail[r]).stop = false) : railRiseTimeout r s = startFail r 4 s :=
  if_pos ⟨hpin, hmode, by rw [hstop]; rfl⟩
theorem fallen_reads_low : ∃ mv, mv < max 1 (s.pwr.rail[r]).cfg.fall ∧ fallen r s = settleOff (onRail s.draw.2 r fun x => { x with
    mode := .off, inWin := false, mv := mv, pgPin := false }) := by
  refine ⟨bits s.draw.1 0 12 % max 1 (s.pwr.rail[r]).cfg.fall, Nat.mod_lt _ (by omega), ?_⟩
  unfold fallen
  simp only [onRail, onPwr, vmod, Fin.getElem_fin]
  rfl
theorem railFallen_falling (hmode : (s.pwr.rail[r]).mode = .falling) : railFallen r s = fallen r s :=
  if_pos hmode
theorem railFallSlow_falling {v : Nat} (hmode : (s.pwr.rail[r]).mode = .falling) :
    railFallSlow r v s = fallen r (raisePwrLim 0x0F12 r.val [(16, r.val), (20, v)] (onPwr (onRail s r fun x => { x with
      lastFault := 6, mv := v }) fun p => { p with fault := p.fault ||| BitVec.ofNat 16 (2 ^ r.val) })) :=
  if_pos hmode
theorem rstoutStretchEnd_free {k : Fin 6} (hseq : s.pwr.seq = .on) (haon : s.pwr.vddAon = true)
    (hgood : ∀ r < 16, (s.pwr.rst[k]).rails.getLsbD r = true → (railAt s r).mode.isGood = true) :
    rstoutStretchEnd k s = onPwr s fun p => { p with rst := vmod p.rst k fun o => { o with asserted := false } } := by
  refine if_pos ?_
  rw [hseq, haon, Bool.and_eq_true]
  exact ⟨rfl, all_allRails_or hgood⟩
end rails
section sequences
variable {s t : State}
theorem mapRails_rail {f : Rail → Rail} {r : Fin 16} : (mapRails f s).pwr.rail[r] = f s.pwr.rail[r] :=
  Vector.getElem_map f r.isLt
theorem readTable_eq : ∃ p : Pwr, p.tableNew = s.pwr.tableNew ∧ p.nextMode = s.pwr.nextMode ∧ p.seq = s.pwr.seq ∧
    readTable s = onPwr s fun _ => p := by
  unfold readTable
  split
  · split
    · exact ⟨tablePwr _ s.pwr, rfl, rfl, rfl, rfl⟩
    · exact ⟨romPwr s.pwr, rfl, rfl, rfl, rfl⟩
  · exact ⟨romPwr s.pwr, rfl, rfl, rfl, rfl⟩
/-- The power-up that `SEQUENCE_START` begins, before it is reported. -/
def powerUp (s : State) : State :=
  startAll (onPwr (readTable s) fun p => { p with
    mode := if (readTable s).pwr.tableRom ∨ (readTable s).pwr.tableNew then 1 else (readTable s).pwr.nextMode,
    tableNew := false, nextMode := 0, retry := 0, capLow := false, reachedTarget := false, hubSt := .idle })
theorem sequenceStart_off (hseq : s.pwr.seq = .off) (haon : s.pwr.vddAon = true) (hinput : s.slu.inputGood = true)
    (hoff : s.pwr.minOffDone = true) : sequenceStart s = toSeq .starting (powerUp s) := by
  unfold sequenceStart
  rw [if_neg (by simp only [hseq, haon, hinput, hoff]; decide)]
  rfl
theorem powerUp_seq : (powerUp s).pwr.seq = s.pwr.seq := by
  obtain ⟨p, -, -, hseq, hread⟩ := readTable_eq (s := s)
  unfold powerUp
  rw [hread]
  exact hseq
theorem powerUp_ret : (powerUp s).ret = s.ret := by
  obtain ⟨p, -, -, -, hread⟩ := readTable_eq (s := s)
  unfold powerUp
  rw [hread]
  rfl
theorem powerUp_mode : (powerUp s).pwr.mode = if (readTable s).pwr.tableRom ∨ s.pwr.tableNew then 1 else s.pwr.nextMode := by
  obtain ⟨p, hnew, hmode, -, hread⟩ := readTable_eq (s := s)
  unfold powerUp
  rw [hread, ← hnew, ← hmode]
  rfl
theorem powerUp_start {r : Fin 16} : ((powerUp s).pwr.rail[r]).start = ((readTable s).pwr.rail[r]).cfg.en :=
  congrArg Rail.start mapRails_rail
theorem sequenceStart_powers (hseq : s.pwr.seq = .off) (haon : s.pwr.vddAon = true) (hinput : s.slu.inputGood = true)
    (hoff : s.pwr.minOffDone = true) :
    (sequenceStart s).pwr.seq = .starting ∧ (sequenceStart s).pwr.tableNew = false ∧ (sequenceStart s).pwr.retry = 0 ∧
      (sequenceStart s).ret = s.ret ∧
      (sequenceStart s).pwr.mode = (if (readTable s).pwr.tableRom ∨ s.pwr.tableNew then 1 else s.pwr.nextMode) ∧
      ∀ r : Fin 16, ((sequenceStart s).pwr.rail[r]).start = ((readTable s).pwr.rail[r]).cfg.en := by
  rw [sequenceStart_off hseq haon hinput hoff]
  have hmoved : (powerUp s).pwr.seq ≠ .starting := by
    rw [powerUp_seq, hseq]
    decide
  have hnew : (powerUp s).pwr.tableNew = false := rfl
  have hretry : (powerUp s).pwr.retry = 0 := rfl
  have hret' := powerUp_ret (s := s)
  have hmode := powerUp_mode (s := s)
  have hstart := fun r => powerUp_start (s := s) (r := r)
  generalize powerUp s = u at *
  obtain ⟨hret, -, evs, log, hpwr⟩ := toSeq_of_ne hmoved
  rw [hpwr]
  exact ⟨rfl, hnew, hretry, hret.trans hret', hmode, hstart⟩
theorem startAll_seq : (startAll s).pwr.seq = s.pwr.seq :=
  rfl
/-- A sequence that starts anew in the mode in force. -/
theorem startAll_again (h : s.pwr.seq ≠ .starting) :
    (toSeq .starting (startAll s)).pwr.seq = .starting ∧ (toSeq .starting (startAll s)).pwr.mode = s.pwr.mode ∧
      (toSeq .starting (startAll s)).pwr.retry = s.pwr.retry ∧ (toSeq .starting (startAll s)).ret = s.ret := by
  obtain ⟨hret, -, evs, log, hpwr⟩ := toSeq_of_ne (s := startAll s) h
  rw [hpwr]
  exact ⟨rfl, rfl, rfl, hret⟩
theorem retryOffExpire_retries (hseq : s.pwr.seq = .offWait) (hthen : s.pwr.offThen = 2) :
    (retryOffExpire s).pwr.seq = .starting ∧ (retryOffExpire s).pwr.mode = s.pwr.mode ∧
      (retryOffExpire s).pwr.retry = s.pwr.retry + 1 ∧ (retryOffExpire s).ret = s.ret := by
  rw [retryOffExpire, if_neg (by rw [hseq, hthen]; decide)]
  obtain ⟨hret, -, evs, log, hpwr⟩ := logDue_reported (code := 3) (rail := 0xFF) (value := 0) (detail := 0) (s := onPwr s fun p =>
    { p with retry := p.retry + 1, offThen := 0, minOffDone := true, hubSt := .idle })
  generalize logDue 3 0xFF 0 0 (onPwr s fun p => { p with retry := p.retry + 1, offThen := 0, minOffDone := true, hubSt := .idle }) = u at *
  have hmoved : u.pwr.seq ≠ .starting := by
    rw [hpwr]
    exact fun h => SeqSt.noConfusion (hseq.symm.trans h)
  obtain ⟨hstart, hmode, hretry, hret'⟩ := startAll_again hmoved
  exact ⟨hstart, hmode.trans (by rw [hpwr]; rfl), hretry.trans (by rw [hpwr]; rfl), hret'.trans hret⟩
theorem minOffExpire_off (hseq : s.pwr.seq = .offWait) (hthen : s.pwr.offThen = 1) :
    (minOffExpire s).pwr.seq = .off ∧ (minOffExpire s).pwr.minOffDone = true ∧ (minOffExpire s).ret = s.ret := by
  rw [minOffExpire, if_neg (by rw [hseq, hthen]; decide)]
  obtain ⟨hret, -, evs, log, hpwr⟩ := toSeq_of_ne (x := .off) (s := onPwr s fun p => { p with minOffDone := true, offThen := 0 })
    (fun h => SeqSt.noConfusion (hseq.symm.trans h))
  rw [hpwr]
  exact ⟨rfl, rfl, hret⟩
theorem vddAonPor_rise (haon : s.pwr.vddAon = false) : vddAonPor true s = readTable (onPwr s fun p => { p with vddAon := true }) := by
  rw [vddAonPor, if_neg (by rw [haon]; decide)]
  rfl
end sequences
section bank
variable {s : State} {d : Desc}
theorem ldgKick_pwr : (ldgKick s).pwr = s.pwr := by
  unfold ldgKick
  split <;> rfl
theorem ldgEnqueue_pwr {rs : List (Nat × Nat × Nat × List Byte × LdgUse)} : (ldgEnqueue rs s).pwr = s.pwr :=
  ldgKick_pwr
theorem tryMeasure_idle (hdue : s.pwr.measDue = false) (hcmd : s.pwr.measCmd = false) : tryMeasure s = s := by
  rw [tryMeasure, hdue, hcmd]
  exact if_pos (.inl rfl)
/-- At its target and within 5 percent of it the bank is full: it charges no more, and is balanced (R456). -/
theorem drivesHub_full {v : Nat} {p : Pwr} (hlow : p.hub.target ≤ v) (hhigh : v * 100 ≤ p.hub.target * 105) (hover : p.overvolt = false) :
    (drivesHub v p).overvolt = false ∧ (drivesHub v p).chg = false ∧ (drivesHub v p).bal = true ∧ (drivesHub v p).hubSt = .full ∧
      (drivesHub v p).reachedTarget = true := by
  have hnot : ¬v * 100 > p.hub.target * 105 := by omega
  have hcharged : ¬v < p.hub.target - 10 * p.hub.hyst := by omega
  have hnear : p.hub.target - 10 * p.hub.hyst ≤ v := by omega
  simp [drivesHub, hover, hnot, hlow, hcharged, hnear]
theorem hubSample_full {v : Nat} (hmeas : s.pwr.hubSt ≠ .measuring) (hsave : s.pwr.hubSt ≠ .saving) (hlow : s.pwr.hub.target ≤ v)
    (hhigh : v * 100 ≤ s.pwr.hub.target * 105) (hover : s.pwr.overvolt = false) (hdue : s.pwr.measDue = false)
    (hcmd : s.pwr.measCmd = false) :
    (hubSample v s).pwr.vbank = v ∧ (hubSample v s).pwr.chg = false ∧ (hubSample v s).pwr.bal = true ∧
      (hubSample v s).pwr.hubSt = .full ∧ (hubSample v s).pwr.reachedTarget = true ∧ (hubSample v s).ret = s.ret := by
  obtain ⟨hover', hchg, hbal, hfull, hreached⟩ := drivesHub_full
    (p := { s.pwr with vbank := v, samples := (v :: s.pwr.samples).take 100 }) hlow hhigh hover
  have hnot : ¬(s.pwr.hubSt = .measuring ∨ s.pwr.hubSt = .saving) := not_or.2 ⟨hmeas, hsave⟩
  unfold hubSample
  dsimp only
  rw [if_neg hnot, if_neg (fun h => ne_true_of_eq_false hover' h.1), tryMeasure_idle]
  · exact ⟨rfl, hchg, hbal, hfull, hreached, rfl⟩
  · exact hdue
  · exact hcmd
theorem hubChargeTimeout_charging (hchg : s.pwr.chg = true) (hnew : s.pwr.chgTimeout = false) : hubChargeTimeout s =
    logDue 9 0xFF s.pwr.vbank 0 (raisePwr 0x0F16 [(16, 2), (20, s.pwr.vbank)] (onPwr s fun p => { p with chgTimeout := true })) := by
  rw [hubChargeTimeout, hchg, hnew]
  rfl
theorem hubMeasDue_ready (hstate : s.glb.state = 2) (hfull : s.pwr.reachedTarget = true) :
    hubMeasDue s = tryMeasure (onPwr s fun p => { p with measDue := true }) :=
  if_pos ⟨hstate, hfull⟩
theorem eventLogWrite_due {b : List Byte} {rest : List (List Byte)} (hlog : s.pwr.heldLog = b :: rest) (hspan : powerSpan s = false)
    (hfil : s.glb.fil ≠ 0) : eventLogWrite s = ldgEnqueue [(10, 0x04, 0, b, .event)] (onPwr s fun p => { p with heldLog := rest }) := by
  have hgo : ¬(powerSpan s = true ∨ s.glb.fil = 0) := not_or.2 ⟨ne_true_of_eq_false hspan, hfil⟩
  simp only [eventLogWrite, hlog, if_neg hgo]
/-- A measurement's values as the sequencer keeps them (R458). -/
def measured (v0 v1 c e : Nat) (s : State) : State :=
  onPwr s.draw.2 fun p => { p with hubSt := .idle, load := false, cap := some c, esr := some e, measured := true, measAge := 0,
                                   measAt := s.now, measTime := copyNat s.bkd, v0 := v0, v1 := v1, measCmd := false, measRaise := true }
/-- Its record, and the report of a bank that has lost capacitance. -/
def measureReport (v0 : Nat) (c e : Nat) (low : Bool) (s : State) : State :=
  let t := logDue 8 0xFF v0 (pack [(0, c), (16, e)]) s
  if low = true ∧ (!t.pwr.capLow) = true then
    logDue 9 0xFF v0 0 (raisePwr 0x0F16 [(16, 3), (20, v0)] (onPwr t fun p => { p with capLow := true }))
  else t
theorem measureReport_pwr {v0 c e : Nat} {low : Bool} : ∃ evs log capLow,
    (measureReport v0 c e low s).pwr = { s.pwr with heldEvents := evs, heldLog := log, capLow := capLow } := by
  obtain ⟨-, -, evs, log, hpwr⟩ := logDue_reported (s := s) (code := 8) (rail := 0xFF) (value := v0) (detail := pack [(0, c), (16, e)])
  unfold measureReport
  dsimp only
  generalize logDue 8 0xFF v0 (pack [(0, c), (16, e)]) s = t at hpwr ⊢
  split
  · obtain ⟨-, -, evs', log', hpwr'⟩ := (raisePwr_reported (code := 0x0F16) (data := [(16, 3), (20, v0)])
      (s := onPwr t fun p => { p with capLow := true })).trans (logDue_reported (code := 9) (rail := 0xFF) (value := v0) (detail := 0))
    refine ⟨evs', log', true, hpwr'.trans ?_⟩
    rw [onPwr_own, hpwr]
  · exact ⟨evs, log, s.pwr.capLow, hpwr⟩
theorem hubMeasEnd_measured {v0 v1 v2 us c e : Nat} (hmeas : s.pwr.hubSt = .measuring) (hfell : v2 < v1) (hpos : v2 ≠ 0)
    (he : e = sat 16 (esrOf s.pwr.hub.rload v0 v1)) (hc : c = sat 16 (capOf s.pwr.hub.rload e v1 v2 us)) :
    ∃ u, u = measureReport v0 c e (decide (c * 100 < s.pwr.hub.capEol * s.ret.weir.cal.cap)) (measured v0 v1 c e s) ∧
      hubMeasEnd v0 v1 v2 us s = ldgEnqueue [bankRecord u] u := by
  have hfall : ¬(v1 ≤ v2 ∨ v2 = 0) := by omega
  subst hc he
  refine ⟨_, rfl, ?_⟩
  unfold hubMeasEnd
  dsimp only
  rw [if_neg (not_not.2 hmeas), if_neg hfall]
  rfl
theorem hubMeasEnd_pwr {v0 v1 v2 us c e : Nat} (hmeas : s.pwr.hubSt = .measuring) (hfell : v2 < v1) (hpos : v2 ≠ 0)
    (he : e = sat 16 (esrOf s.pwr.hub.rload v0 v1)) (hc : c = sat 16 (capOf s.pwr.hub.rload e v1 v2 us)) :
    (hubMeasEnd v0 v1 v2 us s).pwr.esr = some e ∧ (hubMeasEnd v0 v1 v2 us s).pwr.cap = some c ∧
      (hubMeasEnd v0 v1 v2 us s).pwr.hubSt = .idle ∧ (hubMeasEnd v0 v1 v2 us s).pwr.load = false ∧
      (hubMeasEnd v0 v1 v2 us s).pwr.measured = true := by
  obtain ⟨u, hu, hend⟩ := hubMeasEnd_measured hmeas hfell hpos he hc
  obtain ⟨evs, log, low, hpwr⟩ := measureReport_pwr (v0 := v0) (c := c) (e := e)
    (low := decide (c * 100 < s.pwr.hub.capEol * s.ret.weir.cal.cap)) (s := measured v0 v1 c e s)
  rw [hend, ldgEnqueue_pwr, hu, hpwr]
  exact ⟨rfl, rfl, rfl, rfl, rfl⟩
end bank
section commands
variable {s : State} {d : Desc}
theorem pwrRailQuery_served (h : Served pwrRailQueryInfo d [0] s) (hr : d.p 16 1 < 16) : pwrRailQuery d s =
    finish d St.ok (pack [(0, (railStat (railAt s (d.p 16 1))).toNat), (32, (railAt s (d.p 16 1)).mv % 4096)]) s :=
  served_command h (decide_eq_true hr) _
theorem pwrTableWrite_served {g b : List Byte} (h : Served pwrTableWriteInfo d [0] s) (hlen : d.p 24 4 = 384)
    (hb : b = bufferOf s d 0x0F12 g) (hblen : b.length = 384) (hgood : tableBad b = none) :
    pwrTableWrite d g s = storing d 0x0F12 [(9, 0x10, 0, b, .railTable)] 0 s := by
  subst hb
  refine (served_command h (Bool.and_eq_true_iff.2 ⟨decide_eq_true hlen, decide_eq_true hblen⟩) _).trans ?_
  simp only [hgood]
theorem settingApply_railTable {u : DueSet} (h : u.op = 0x0F12) : settingApply u s = onPwr s fun p => { p with tableNew := true } := by
  simp only [settingApply, h]
theorem pwrTableRead_served (h : Served pwrTableReadInfo d [0] s) (hk : d.p 24 1 = 0) :
    pwrTableRead d s = finishData d St.ok 0 (d.p 16 8) (tableNow s.pwr) s := by
  rw [pwrTableRead, served_command h (decide_eq_true (by omega)), if_pos hk]
theorem pwrGroup_range {g : Nat} (hg : d.p 16 1 = g) (hlt : g < 4) (hon : d.p 17 1 ≤ 1) :
    (decide (d.p 16 1 < 4) && decide (d.p 17 1 ≤ 1)) = true := by
  rw [hg]
  exact Bool.and_eq_true_iff.2 ⟨decide_eq_true hlt, decide_eq_true hon⟩
theorem pwrGroup_off {g : Nat} (h : Served pwrGroupInfo d [0] s) (hg : d.p 16 1 = g) (hlt : g < 4) (hon : d.p 17 1 = 0)
    (hretain : holdsRetain s g = false) : pwrGroup d s = settleOff (running d (.group g false) 0
      (onPwr (shutRails (withDependants s (groupRails s g)) s)
        fun p => { p with groupSeqs := p.groupSeqs.filter fun q => q.1 ≠ g })) := by
  have hoff : decide (d.p 17 1 = 1) = false := decide_eq_false (by omega)
  rw [pwrGroup, served_command h (pwrGroup_range hg hlt (by omega)), hg, hoff]
  exact (if_neg (ne_true_of_eq_false hretain)).trans (if_neg Bool.false_ne_true)
theorem pwrGroup_on {g : Nat} (h : Served pwrGroupInfo d [0] s) (hg : d.p 16 1 = g) (hlt : g < 4) (hon : d.p 17 1 = 1)
    (hretain : holdsRetain s g = false)
    (hdep : ∀ r ∈ groupRails s g, ∀ k < 16, (railAt s r).cfg.dep.getLsbD k = true → (railAt s k).mode.isGood = true)
    (hbad : (groupRails s g).all (fun r => (railAt s r).mode.isGood) = false) :
    pwrGroup d s = running d (.group g true) 0 (onPwr
      ((groupRails s g).foldl (fun s r => if (railAt s r).mode.isGood then s else onRail s (Fin.ofNat 16 r) fun x => { x with retries := 0 })
        (startRails (groupRails s g) s))
      fun p => { p with groupSeqs := (g, 0) :: p.groupSeqs.filter fun q => q.1 ≠ g }) := by
  have hgood : ¬((groupRails s g).any fun r => allRails.any fun k =>
      (railAt s r).cfg.dep.getLsbD k && !(groupRails s g).contains k && !(railAt s k).mode.isGood) = true := by
    intro hany
    obtain ⟨r, hr, hany⟩ := List.any_eq_true.1 hany
    obtain ⟨k, hk, hany⟩ := List.any_eq_true.1 hany
    obtain ⟨hany, hnot⟩ := Bool.and_eq_true_iff.1 hany
    rw [hdep r hr k (List.mem_range.1 hk) (Bool.and_eq_true_iff.1 hany).1] at hnot
    cases hnot
  rw [pwrGroup, served_command h (pwrGroup_range hg hlt (by omega)), hg, decide_eq_true hon]
  exact (if_neg (ne_true_of_eq_false hretain)).trans ((if_pos rfl).trans ((if_neg hgood).trans (if_neg (ne_true_of_eq_false hbad))))
theorem pwrLatchClear_latched (h : Served pwrLatchClearInfo d [0] s) (hseq : s.pwr.seq = .latched) :
    pwrLatchClear d s = finish d St.ok 0 (toSeq .off (onPwr s fun p => { p with
      latchDue := p.latch, latch := none, nextMode := 3, minOffDone := true })) :=
  (served_command h rfl _).trans (if_neg (not_not.2 hseq))
theorem hubMeasure_waits (hcmd : s.pwr.measCmd = true) (hmeas : s.pwr.hubSt ≠ .measuring) :
    ¬((!s.pwr.measCmd) = true ∨ s.pwr.hubSt = .measuring) := by
  rw [hcmd]
  exact not_or.2 ⟨Bool.false_ne_true, hmeas⟩
end commands
section standby
variable {s : State}
theorem ldgCut_store : (ldgCut s).store = s.store := by
  unfold ldgCut
  split <;> rfl
theorem ldgCut_bkd : (ldgCut s).bkd = s.bkd := by
  unfold ldgCut
  split <;> rfl
theorem cutBlocks_bkd {os : List NOp} :
    (os.foldl (fun t o => setBlk (blockOf o.ppa) (fun b => { b with cut := true }) t) s).bkd = s.bkd :=
  foldl_keeps (fun t : State => t.bkd)
    (fun t (o : NOp) => setBlk (blockOf o.ppa) (fun b => { b with cut := true }) t) (fun _ _ => rfl) os s
theorem cutNand_bkd : (cutNand s).bkd = s.bkd :=
  cutBlocks_bkd (os := s.store.ops.filter (·.kind = .program))
theorem vddAonPor_fall (haon : s.pwr.vddAon = true) :
    (vddAonPor false s).pwr.latch = none ∧ (vddAonPor false s).pwr.seq = .off ∧ (vddAonPor false s).boot.coreOut = false ∧
      (vddAonPor false s).store = (cutLedger (cutNand s)).store ∧ (vddAonPor false s).bkd.time = (cutLedger (cutNand s)).bkd.time := by
  rw [vddAonPor, if_neg (by rw [haon]; decide)]
  exact ⟨rfl, rfl, rfl, rfl, rfl⟩
theorem cutLedger_store : (cutLedger s).store = s.store := by
  rw [← ldgCut_store (s := s)]
  rfl
theorem cutLedger_bkd : (cutLedger s).bkd = s.bkd := by
  rw [← ldgCut_bkd (s := s)]
  rfl
end standby
/-- Settles O52: each row takes the branch that its premises choose; what it reports changes nothing of the rails (`Reported`). -/
theorem powerRows : Obligations.PowerRows :=
  ⟨fun _ _ hstart hpin hmode hdep => congrArg Host.Outcome.next (railEnable_ready hstart hpin hmode hdep),
    fun r s hpin hmode => by
      obtain ⟨mv, hlow, hhigh, hrun⟩ := railStable_window hpin hmode
      exact ⟨mv, hlow, hhigh, congrArg Host.Outcome.next hrun⟩,
    fun r k v s hpin hen hpg =>
      ⟨fun hmode htries => congrArg Host.Outcome.next (railExcursion_rising hpin hen hpg hmode htries),
        fun hmode hreact hgo hretain => ⟨railExcursion r k v s, rfl, railExcursion_out hpin hen hpg hmode hreact hgo hretain⟩⟩,
    fun _ _ hpin hmode hstop => congrArg Host.Outcome.next (railRiseTimeout_rising hpin hmode hstop),
    fun _ _ hstop hpin hdep => congrArg Host.Outcome.next (railDisable_last hstop hpin hdep),
    fun r v s hmode => ⟨by
      obtain ⟨mv, hlow, hrun⟩ := fallen_reads_low (r := r) (s := s)
      exact ⟨mv, hlow, congrArg Host.Outcome.next ((railFallen_falling hmode).trans hrun)⟩,
      congrArg Host.Outcome.next (railFallSlow_falling hmode)⟩,
    fun _ _ hpin => congrArg Host.Outcome.next (if_pos hpin),
    fun _ _ hseq haon hgood => congrArg Host.Outcome.next (rstoutStretchEnd_free hseq haon hgood),
    fun s hseq haon hinput hoff => ⟨sequenceStart s, rfl, sequenceStart_powers hseq haon hinput hoff⟩,
    fun s hseq => ⟨fun hthen => ⟨retryOffExpire s, rfl, retryOffExpire_retries hseq hthen⟩,
      fun hthen => ⟨minOffExpire s, rfl, minOffExpire_off hseq hthen⟩⟩,
    fun _ haon => congrArg Host.Outcome.next (vddAonPor_rise haon),
    fun s haon => by
      obtain ⟨hlatch, hseq, hcore, hstore, htime⟩ := vddAonPor_fall haon
      exact ⟨vddAonPor false s, rfl, hlatch, hseq, hcore, by rw [hstore, cutLedger_store], by rw [htime, cutLedger_bkd, cutNand_bkd]⟩,
    fun v s hmeas hsave hlow hhigh hover hdue hcmd =>
      ⟨hubSample v s, rfl, hubSample_full hmeas hsave hlow hhigh hover hdue hcmd⟩,
    fun _ hchg hnew => congrArg Host.Outcome.next (hubChargeTimeout_charging hchg hnew),
    fun _ hstate hfull => congrArg Host.Outcome.next (hubMeasDue_ready hstate hfull),
    fun v0 v1 v2 us s hmeas hfell hpos => ⟨hubMeasEnd v0 v1 v2 us s, rfl, hubMeasEnd_pwr hmeas hfell hpos rfl rfl⟩,
    fun _ _ _ hlog hspan hfil => congrArg Host.Outcome.next (eventLogWrite_due hlog hspan hfil),
    fun _ _ h => congrArg Host.Outcome.next (served_command h rfl _),
    fun _ _ h hr => congrArg Host.Outcome.next (pwrRailQuery_served h hr),
    fun _ _ _ _ h hlen hb hblen hgood => congrArg Host.Outcome.next (pwrTableWrite_served h hlen hb hblen hgood),
    fun _ _ h => settingApply_railTable h,
    fun _ _ h hk => congrArg Host.Outcome.next (pwrTableRead_served h hk),
    fun _ _ _ h hg hlt hon hretain => congrArg Host.Outcome.next (pwrGroup_off h hg hlt hon hretain),
    fun _ _ _ h hg hlt hon hretain hdep hbad => congrArg Host.Outcome.next (pwrGroup_on h hg hlt hon hretain hdep hbad),
    fun _ _ h hseq => congrArg Host.Outcome.next (pwrLatchClear_latched h hseq),
    fun _ _ h => congrArg Host.Outcome.next (served_command h rfl _),
    fun _ hcmd hmeas => congrArg Host.Outcome.next (if_neg (hubMeasure_waits hcmd hmeas)),
    fun _ _ h => congrArg Host.Outcome.next (served_command h rfl _)⟩
end Sys2Proof.Machine

/-! # Restore (chapter 06) -/
namespace Sys2Proof.Machine
section
variable {s : State}
theorem votes_in_step_eight (hcore : s.boot.coreOut = true) (hstate : s.glb.state = 0) (hstage : s.boot.stage = 8)
    (hform : s.conf.form = .formed) :
    ¬((!s.boot.coreOut) = true ∨ s.glb.state ≠ 0 ∨ s.boot.stage ≠ 8 ∨ s.conf.form ≠ .formed) := by
  simp only [hcore, hstate, hstage, hform]
  decide
theorem anchorVoteDone_unformatted {k : Nat} (hcore : s.boot.coreOut = true) (hstate : s.glb.state = 0) (hstage : s.boot.stage = 8)
    (hform : s.conf.form = .formed) (hfound : foundStore (castVote 0 s) = .inr k) :
    anchorVoteDone s = startUnformatted k (castVote 0 s) := by
  refine (if_neg (votes_in_step_eight hcore hstate hstage hform)).trans ?_
  simp only [hfound]
theorem anchorVoteDone_root {st : Store} {r : Root} (hcore : s.boot.coreOut = true) (hstate : s.glb.state = 0)
    (hstage : s.boot.stage = 8) (hform : s.conf.form = .formed) (hfound : foundStore (castVote 0 s) = .inl st)
    (hroot : st.root = some r) :
    anchorVoteDone s = startRestore (findReady { castVote 0 s with store := underRoot r st }) := by
  refine (if_neg (votes_in_step_eight hcore hstate hstage hform)).trans ?_
  simp only [hfound, hroot]
theorem restoreAreaReady_ready {u : State} {old : List Nat} (hstate : s.glb.state = 0) (hstage : s.boot.stage = 9)
    (hbank : s.pwr.bankReady = true) (hmarkers : markersDurable s.store = true)
    (hu : u = if (areaReadied s).store.ready.isSome then areaReadied s else readyArea (areaReadied s))
    (hready : u.store.ready.isSome = true)
    (hold : old = ((u.store.unsealed.map fun a => stripeBlocks u.store.ncfg.planes a.stripe).getD [])) :
    restoreAreaReady s = afterIn (onSlu ((freeBlocks old (onStore u fun st => { st with unsealed := none })).toDev 1)
      fun x => { x with streaming := true }) := by
  have hgo : ¬(s.glb.state ≠ 0 ∨ s.boot.stage ≠ 9 ∨ (!s.pwr.bankReady) = true ∨ (!markersDurable s.store) = true) := by
    simp only [hstate, hstage, hbank, hmarkers]
    decide
  have hsome : ¬u.store.ready.isNone = true := by
    rwa [Option.isNone_iff_eq_none, ← ne_eq, ← Option.isSome_iff_ne_none]
  rw [restoreAreaReady, if_neg hgo]
  dsimp only
  rw [← hu, if_neg hsome, hold]
/-- Lines that a fold gives one value have it, and every other line keeps its own. -/
theorem lineAt_foldl_setLine {x : Line} (hx : x ≠ Line.never) {ls : List Nat} {k : Nat} :
    (ls.foldl (fun s l => s.setLine l x) s).lineAt k = if k ∈ ls then x else s.lineAt k := by
  induction ls generalizing s with
  | nil => simp
  | cons l ls ih =>
    have hset : (s.setLine l x).lineAt k = if k = l then x else s.lineAt k := mget_mset_of_ne Line.never s.ret.lines l k hx
    rw [List.foldl_cons, ih, hset]
    by_cases hmem : k ∈ ls
    · rw [if_pos hmem, if_pos (List.mem_cons_of_mem l hmem)]
    · by_cases hl : k = l
      · subst hl
        rw [if_neg hmem, if_pos rfl, if_pos List.mem_cons_self]
      · rw [if_neg hmem, if_neg hl, if_neg fun h => (List.mem_cons.1 h).elim hl hmem]
theorem buildSegment_unbuilt {g : Nat} (h : s.unbuilt g = true) : buildSegment g s =
    (presentLines s.store g).foldl (fun s l => s.setLine l { Line.never with state := .unrestored })
      (onSlu s fun x => { x with unbuilt := x.unbuilt.filter (· ≠ g) }) := by
  rw [buildSegment, h]
  rfl
theorem buildSegment_lineAt {g l : Nat} (h : s.unbuilt g = true) : (buildSegment g s).lineAt l =
    if l ∈ presentLines s.store g then { Line.never with state := .unrestored } else s.lineAt l := by
  rw [buildSegment_unbuilt h]
  exact lineAt_foldl_setLine (by decide)
/-- A segment is built once (R210). -/
theorem buildSegment_builds {g : Nat} (h : s.unbuilt g = true) : (buildSegment g s).unbuilt g = false := by
  have hslu : ∀ (ls : List Nat) (t : State), (ls.foldl (fun s l => s.setLine l { Line.never with state := .unrestored }) t).slu = t.slu :=
    fun ls t => foldl_keeps State.slu (fun s l => s.setLine l { Line.never with state := .unrestored }) (fun _ _ => rfl) ls t
  rw [buildSegment_unbuilt h, State.unbuilt, hslu]
  simp [onSlu]
theorem restoreSegmentIn_next {g : Nat} (hstream : s.slu.streaming = true) (hstate : s.glb.state = 1 ∨ s.glb.state = 2)
    (hnext : nextIn s = some g) : restoreSegmentIn g s = afterIn (bringSegment g s) := by
  have hgo : ¬((!s.slu.streaming) = true ∨ (s.glb.state ≠ 1 ∧ s.glb.state ≠ 2)) := by
    rcases hstate with hstate | hstate <;> simp only [hstream, hstate] <;> decide
  refine (if_neg hgo).trans ?_
  simp only [hnext, if_true]
end
/-- Settles O27: each row takes the branch that its premises choose, and a segment that is built gets its lines by one fold. -/
theorem restoreWork : Obligations.RestoreWork :=
  ⟨fun _ hcore hstate hstage hform =>
      ⟨fun _ hfound => congrArg (fun t => Host.Outcome.next (settleWeir t)) (anchorVoteDone_unformatted hcore hstate hstage hform hfound),
        fun _ _ hfound hroot =>
          congrArg (fun t => Host.Outcome.next (settleWeir t)) (anchorVoteDone_root hcore hstate hstage hform hfound hroot)⟩,
    fun _ hstate hstage hbank hmarkers _ hu hready _ hold =>
      congrArg (fun t => Host.Outcome.next (settleWeir t)) (restoreAreaReady_ready hstate hstage hbank hmarkers hu hready hold),
    fun _ _ h _ => ⟨rfl, buildSegment_builds h, fun _ hl => (buildSegment_lineAt h).trans (if_pos hl),
      fun _ hl => (buildSegment_lineAt h).trans (if_neg hl)⟩,
    fun _ _ hstream hstate hnext =>
      congrArg (fun t => Host.Outcome.next (settleWeir t)) (restoreSegmentIn_next hstream hstate hnext)⟩
end Sys2Proof.Machine

/-! # The store's own work (chapter 07) -/
namespace Sys2Proof.Machine
/-! ## What NAND operations and the rings leave -/
/-- Of the store, what operations given out and the rings' pages leave: the journal and what waits for it, the channels, and the
generations of the area that is ready and of the one being readied. -/
structure StoreKept (a b : Store) : Prop where
  journal : b.journal = a.journal
  filling : b.filling = a.filling
  placed : b.placed = a.placed
  jseq : b.jseq = a.jseq
  gen : b.gen = a.gen
  ch : b.ch = a.ch
  ready : b.ready.map (·.stripe.gen) = a.ready.map (·.stripe.gen)
  readying : b.readying.map (·.1.stripe.gen) = a.readying.map (·.1.stripe.gen)
/-- From `s` to `t`, only the NAND and its rings were at work. -/
structure RingWork (s t : State) : Prop where
  ret : t.ret = s.ret
  life : t.life = s.life
  store : StoreKept s.store t.store
section rings
variable {s t u : State}
theorem StoreKept.refl {a : Store} : StoreKept a a :=
  ⟨rfl, rfl, rfl, rfl, rfl, rfl, rfl, rfl⟩
theorem StoreKept.trans {a b c : Store} (h : StoreKept a b) (h' : StoreKept b c) : StoreKept a c :=
  ⟨h'.journal.trans h.journal, h'.filling.trans h.filling, h'.placed.trans h.placed, h'.jseq.trans h.jseq, h'.gen.trans h.gen,
    h'.ch.trans h.ch, h'.ready.trans h.ready, h'.readying.trans h.readying⟩
theorem RingWork.refl : RingWork s s :=
  ⟨rfl, rfl, rfl, rfl, rfl, rfl, rfl, rfl, rfl, rfl⟩
theorem RingWork.trans (h : RingWork s t) (h' : RingWork t u) : RingWork s u :=
  ⟨h'.ret.trans h.ret, h'.life.trans h.life, h.store.trans h'.store⟩
theorem RingWork.after (h : RingWork t u) (h' : RingWork s t) : RingWork s u :=
  h'.trans h
theorem RingWork.of_frames (hret : t.ret = s.ret) (hlife : t.life = s.life) (hstore : t.store = s.store) : RingWork s t :=
  ⟨hret, hlife, hstore ▸ .refl⟩
theorem RingWork.onStore {f : Store → Store} (hf : ∀ st, StoreKept st (f st)) : RingWork s (onStore s f) :=
  ⟨rfl, rfl, hf s.store⟩
theorem RingWork.ite {c : Prop} [Decidable c] (ht : RingWork s t) (hu : RingWork s u) : RingWork s (if c then t else u) := by
  split
  · exact ht
  · exact hu
theorem RingWork.foldl {α : Type} {f : State → α → State} (hf : ∀ s a, RingWork s (f s a)) (xs : List α) : RingWork s (xs.foldl f s) := by
  induction xs generalizing s with
  | nil => exact .refl
  | cons x xs ih => exact (hf s x).trans ih
theorem RingWork.foldl_snd {α β : Type} {f : β × State → α → β × State} (hf : ∀ x a, RingWork x.2 (f x a).2) (xs : List α)
    (b : β × State) : RingWork b.2 (xs.foldl f b).2 := by
  induction xs generalizing b with
  | nil => exact .refl
  | cons x xs ih => exact (hf b x).trans (ih (f b x))
theorem issueOps_ringWork {n : Nat} : RingWork s (issueOps n s) := by
  induction n generalizing s with
  | zero => exact .refl
  | succ n ih =>
    unfold issueOps
    split
    · exact .refl
    · split
      · exact .refl
      · exact ih.after (.onStore fun _ => ⟨rfl, rfl, rfl, rfl, rfl, rfl, rfl, rfl⟩)
theorem nandOp_ringWork {kind : NKind} {use : NUse} {ppa : Nat} {bytes : List Byte} : RingWork s (nandOp kind use ppa bytes s) := by
  unfold nandOp
  exact issueOps_ringWork.after ⟨rfl, rfl, rfl, rfl, rfl, rfl, rfl, rfl, rfl, rfl⟩
theorem setBlk_ringWork {k : Nat} {f : Blk → Blk} : RingWork s (setBlk k f s) :=
  ⟨rfl, rfl, rfl, rfl, rfl, rfl, rfl, rfl, rfl, rfl⟩
theorem freeBlocks_ringWork {ks : List Nat} : RingWork s (freeBlocks ks s) :=
  .foldl (fun _ _ => nandOp_ringWork) _
theorem takeBlock_ringWork {lun q : Nat} : RingWork s (takeBlock lun q s).2 := by
  unfold takeBlock
  split
  · exact .refl
  · dsimp only
    exact setBlk_ringWork
theorem takeRows_ringWork {order : List Nat} {rows : Nat} : RingWork s (takeRows order rows s).2 := by
  unfold takeRows
  refine RingWork.foldl_snd (b := ([], s)) (fun x lun => ?_) order
  refine RingWork.foldl_snd (b := x) (fun y j => ?_) _
  exact takeBlock_ringWork
theorem programRing_ringWork {a b i : Nat} {pages : List (List Byte)} : RingWork s (programRing a b i pages s) :=
  RingWork.trans (.foldl (fun _ _ => nandOp_ringWork.trans nandOp_ringWork) _) ⟨rfl, rfl, rfl, rfl, rfl, rfl, rfl, rfl, rfl, rfl⟩
theorem ldgKick_life : (ldgKick s).life = s.life := by
  unfold ldgKick
  split <;> rfl
theorem ldgEnqueue_ringWork {rs : List (Nat × Nat × Nat × List Byte × LdgUse)} : RingWork s (ldgEnqueue rs s) :=
  .of_frames ldgKick_ret ldgKick_life ldgKick_store
theorem writeAnchor_ringWork : RingWork s (writeAnchor s) := by
  have hring : RingWork s (onStore s fun st => { st with ring := { s.store.ring with job := s.ldg.nextJob, anchorDue := false } }) :=
    ⟨rfl, rfl, rfl, rfl, rfl, rfl, rfl, rfl, rfl, rfl⟩
  exact (hring.trans ldgEnqueue_ringWork).trans (.of_frames (wake_ret _ _) (wake_life _ _) (wake_store _ _))
theorem dropOldRing_ringWork : RingWork s (dropOldRing s) := by
  unfold dropOldRing
  dsimp only
  split
  · exact .refl
  · split
    · exact .refl
    · split
      · exact freeBlocks_ringWork.after (.onStore fun _ => ⟨rfl, rfl, rfl, rfl, rfl, rfl, rfl, rfl⟩)
      · exact writeAnchor_ringWork
/-- Descriptors that move change nothing else of the stripes that they describe. -/
theorem mapDescs_kept {f : Nat → Nat} {st : Store} : StoreKept st (mapDescs f st) where
  journal := rfl
  filling := rfl
  placed := rfl
  jseq := rfl
  gen := rfl
  ch := rfl
  ready := by cases h : st.ready <;> simp [mapDescs, h]
  readying := by cases h : st.readying <;> simp [mapDescs, h]
theorem RingWork.withRing {r : Ring} {root : Option Root} {st : Store} (h : StoreKept s.store st) :
    RingWork s { s with store := { st with ring := r, root := root } } :=
  ⟨rfl, rfl, h.trans ⟨rfl, rfl, rfl, rfl, rfl, rfl, rfl, rfl⟩⟩
theorem rotateRings_ringWork : RingWork s (rotateRings s) := by
  unfold rotateRings
  dsimp only
  split
  · refine freeBlocks_ringWork.after (programRing_ringWork.after ((RingWork.withRing mapDescs_kept).after ?_))
    exact takeBlock_ringWork.after (takeBlock_ringWork.after dropOldRing_ringWork)
  · exact dropOldRing_ringWork
theorem ringPages_ringWork {pages : List (List Byte)} : RingWork s (ringPages pages s).2 := by
  unfold ringPages
  extract_lets n s1 r
  have hroom : RingWork s s1 := .ite rotateRings_ringWork .refl
  by_cases hnone : r.a = 0
  · rw [if_pos hnone]
    exact hroom
  · rw [if_neg hnone]
    exact hroom.trans (programRing_ringWork.after (.onStore fun _ => ⟨rfl, rfl, rfl, rfl, rfl, rfl, rfl, rfl⟩))
theorem writeRoot_ringWork : RingWork s (writeRoot s) := by
  unfold writeRoot writeRootWith
  extract_lets s1 r i
  have hroom : RingWork s s1 := .ite rotateRings_ringWork .refl
  by_cases hnone : s1.store.ring.a = 0
  · rw [if_pos hnone]
    exact hroom
  · rw [if_neg hnone]
    exact hroom.trans ((ringPages_ringWork (s := s1) (pages := [rootPage r])).trans
      (.onStore fun _ => ⟨rfl, rfl, rfl, rfl, rfl, rfl, rfl, rfl⟩))
theorem writeRoot_onStore_ringWork {f : Store → Store} (hf : ∀ st, StoreKept st (f st)) : RingWork s (writeRoot (onStore s f)) :=
  writeRoot_ringWork.after (.onStore hf)
theorem newStripe_ringWork {area : Bool} {home spare gen base prev : Nat} {x : Stripe}
    (h : newStripe area home spare gen base prev s = (x, t)) : RingWork s t := by
  have hwork : RingWork s (newStripe area home spare gen base prev s).2 := takeRows_ringWork.trans ringPages_ringWork
  rwa [h] at hwork
theorem needStripe_ringWork : RingWork s (needStripe s) := by
  unfold needStripe
  split
  · split
    · exact .refl
    · split
      next heq => exact (newStripe_ringWork heq).trans (writeRoot_onStore_ringWork fun _ => ⟨rfl, rfl, rfl, rfl, rfl, rfl, rfl, rfl⟩)
  · split
    next heq => exact (newStripe_ringWork heq).trans (writeRoot_onStore_ringWork fun _ => ⟨rfl, rfl, rfl, rfl, rfl, rfl, rfl, rfl⟩)
theorem preErase_ringWork : RingWork s (preErase s).2 := by
  unfold preErase
  dsimp only
  split
  · exact .refl
  · exact newStripe_ringWork rfl
theorem preEraseNext_ringWork : RingWork s (preEraseNext s) := by
  unfold preEraseNext
  split
  · exact .refl
  · dsimp only
    split
    · exact preErase_ringWork
    · exact preErase_ringWork.trans (writeRoot_onStore_ringWork fun _ => ⟨rfl, rfl, rfl, rfl, rfl, rfl, rfl, rfl⟩)
theorem checkSpace_ringWork : RingWork s (checkSpace s) := by
  unfold checkSpace
  dsimp only
  split
  · exact (RingWork.of_frames (State.raise_ret _ _ _ _) (State.raise_life _ _ _ _) (State.raise_store _ _ _ _)).after
      (.onStore fun _ => ⟨rfl, rfl, rfl, rfl, rfl, rfl, rfl, rfl⟩)
  · exact .onStore fun _ => ⟨rfl, rfl, rfl, rfl, rfl, rfl, rfl, rfl⟩
theorem freeAreas_ringWork : RingWork s (freeAreas s) := by
  unfold freeAreas
  dsimp only
  split
  · exact .refl
  · exact freeBlocks_ringWork.after (writeRoot_onStore_ringWork fun _ => ⟨rfl, rfl, rfl, rfl, rfl, rfl, rfl, rfl⟩)
end rings
end Sys2Proof.Machine

namespace Sys2Proof.Machine
/-! ## Operations that end (R213, R244, R254) -/
section operations
variable {s : State} {c : Fin 16} {us n : Nat} {es : List Nat} {op : NOp}
/-- The channel's oldest operation is over: it is in flight no longer, and its time is noted. -/
def opOver (c : Fin 16) (us : Nat) (op : NOp) (s : State) : State :=
  onNch (onStore s fun st => { st with ops := st.ops.erase op }) c (noteTime op.kind op.ppa us)
theorem noteTime_erase {ppa : Nat} {x : Nch} : noteTime .erase ppa us x = x :=
  rfl
theorem nandOpDone_of_op {c : Fin 16} (hstate : s.glb.state ≠ 3) (hlife : s.life[nstLife c].life = .running)
    (hop : nextOp (s.store.ops.filter (·.ch = c)) = some op) (hkind : op.kind ≠ .read) :
    nandOpDone c true us es n s = nchDrained c (storeMoves (if op.kind = .program then programDone op true (opOver c us op s)
      else eraseDone op true (opOver c us op s))) := by
  have hgo : ¬(s.glb.state = 3 ∨ (s.life[nstLife c].life ≠ .running ∧ s.life[nstLife c].life ≠ .draining)) := by
    rw [hlife]
    exact not_or.2 ⟨hstate, fun h => h.1 rfl⟩
  unfold nandOpDone
  rw [if_neg hgo]
  simp only [hop]
  rw [if_neg fun h => hkind h.1]
  cases hk : op.kind with
  | read => exact absurd hk hkind
  | program => simp only [hk, if_true, opOver]
  | erase => simp only [hk, if_true, opOver, reduceCtorEq, if_false]
theorem erased_store {k : Nat} (hleft : blkErases s.store k (blkAt s.store k) + 1 < 2 * s.store.ncfg.cycles) :
    (erased_ false k s).store = (onStore (setBlk k (fun b => { b with held := b.held && false, erases := b.erases + 1, cut := false }) s)
      fun st => { st with badWords := st.badWords.filter fun w => blockOf w.1 ≠ k }).store := by
  have hnoted : ∀ (t : State) m, (noteWear k m t).store = t.store := fun t m => by
    unfold noteWear
    dsimp only
    split
    · exact State.raise_store _ _ _ _
    · rfl
  unfold erased_
  dsimp only
  rw [if_neg (by omega), hnoted]
theorem erased_block {k : Nat} (hleft : blkErases s.store k (blkAt s.store k) + 1 < 2 * s.store.ncfg.cycles)
    (hwf : mwf Blk.fresh s.store.blocks = true) :
    blkAt (erased_ false k s).store k = { blkAt s.store k with held := false, erases := (blkAt s.store k).erases + 1, cut := false } := by
  rw [erased_store hleft]
  refine (mget_mset Blk.fresh s.store.blocks k k _ hwf).trans ((if_pos rfl).trans ?_)
  simp only [Bool.and_false]
theorem eraseDone_other (huse : op.use ≠ .boot) : eraseDone op true s = erased_ false op.ppa s := by
  unfold eraseDone
  dsimp only
  rw [if_pos rfl, decide_eq_false huse, if_neg fun h => huse h.1]
theorem nandOpDone_erase (hstate : s.glb.state ≠ 3) (hlife : s.life[nstLife c].life = .running)
    (hop : nextOp (s.store.ops.filter (·.ch = c)) = some op) (hkind : op.kind = .erase) (huse : op.use ≠ .boot)
    (hwf : mwf Blk.fresh s.store.blocks = true)
    (hleft : blkErases s.store op.ppa (blkAt s.store op.ppa) + 1 < 2 * s.store.ncfg.cycles) :
    ∃ u, nandOpDone c true us es n s = nchDrained c (storeMoves u) ∧ u.store.ops = s.store.ops.erase op ∧
      (blkAt u.store op.ppa).held = false ∧ (blkAt u.store op.ppa).erases = (blkAt s.store op.ppa).erases + 1 := by
  have hblock := erased_block (s := opOver c us op s) (k := op.ppa) hleft hwf
  have hstore := erased_store (s := opOver c us op s) (k := op.ppa) hleft
  refine ⟨erased_ false op.ppa (opOver c us op s), ?_, ?_, ?_, ?_⟩
  · rw [nandOpDone_of_op hstate hlife hop (by rw [hkind]; decide), if_neg (by rw [hkind]; decide), eraseDone_other huse]
  · rw [hstore]
    rfl
  · rw [hblock]
  · rw [hblock]
    rfl
/-! The journal's pages after one of them is durable. -/
theorem onLink_store {l : LinkId} {f : LinkPort → LinkPort} : (onLink s l f).store = s.store := by
  cases l <;> rfl
theorem pump_store {l : LinkId} {n : Nat} : (pump l n s).store = s.store := by
  induction n generalizing s with
  | zero => rfl
  | succ n ih =>
    unfold pump
    dsimp only
    split
    · rfl
    · split
      · exact ih.trans (onLink_store.trans onLink_store)
      · rfl
theorem sendOn_store {l : LinkId} {m : LinkMsg} : (sendOn l m s).store = s.store := by
  unfold sendOn
  split
  · rfl
  · exact pump_store.trans onLink_store
theorem sendMir_store {m : LinkMsg} : (sendMir m s).store = s.store := by
  refine foldl_keeps State.store (fun s l => if mirCarries (mirAuth m) s l then sendOn l m s else s) (fun t l => ?_) mirLinks s
  split
  · exact sendOn_store
  · rfl
theorem wakeSeals_store : (wakeSeals s).store = s.store := by
  unfold wakeSeals
  dsimp only
  split
  · rfl
  · split
    · exact sendMir_store
    · rfl
theorem sealNow_store {g : Nat} : (sealNow g s).store = s.store := by
  unfold sealNow
  dsimp only
  split
  · rfl
  · unfold dueSegment duePacket
    have hlines : ∀ (xs : List (Nat × Line)) (t : State),
        (xs.foldl (fun s p => s.setLine p.1 { s.lineAt p.1 with state := .clean }) t).store = t.store :=
      fun xs t => foldl_keeps State.store (fun s p => s.setLine p.1 { s.lineAt p.1 with state := .clean }) (fun _ _ => rfl) xs t
    split <;> exact hlines _ _
theorem sealMarkers_journal {gs : List Nat} : (gs.foldl (fun s g => placeSealMarker g s) s).store.journal = s.store.journal :=
  foldl_keeps (fun t : State => t.store.journal) (fun s g => placeSealMarker g s) (fun _ _ => rfl) gs s
theorem markSeals_journal : (markSeals s).store.journal = s.store.journal := by
  unfold markSeals
  extract_lets gs u n v
  split
  · rfl
  · have hwoken : v.store = u.store := wake_store _ _
    have hmarked : u.store.journal = s.store.journal := sealMarkers_journal
    rw [← hmarked, ← hwoken]
    rfl
theorem wakeNand_journal : (wakeNand s).store.journal = s.store.journal := by
  unfold wakeNand
  dsimp only
  rw [wake_store, wakeSeals_store,
    foldl_keeps State.store (fun s (g : Nat × Bool) => sealNow g.1 s) (fun _ _ => sealNow_store), markSeals_journal]
theorem slotCleaned_store {x : Slot} : (slotCleaned x s).store = s.store := by
  unfold slotCleaned
  split
  · unfold cleanDone
    dsimp only
    split <;> (try split) <;> rfl
  · rfl
theorem slotsCleaned_journal {xs : List Slot} : (xs.foldl (fun s x => slotCleaned x s) s).store.journal = s.store.journal :=
  foldl_keeps (fun t : State => t.store.journal) (fun s x => slotCleaned x s) (fun _ _ => congrArg Store.journal slotCleaned_store) xs s
theorem pageDurable_found {j : Nat} {p : JPage} (h : s.store.journal.find? (·.jseq = j) = some p) :
    (pageDurable j s).store.journal = s.store.journal.map fun q => if q.jseq = j then { q with durable := true } else q := by
  unfold pageDurable
  simp only [h]
  exact checkSpace_ringWork.store.journal.trans (freeAreas_ringWork.store.journal.trans (wakeNand_journal.trans slotsCleaned_journal))
/-- The program of a journal page makes every page under its JSEQ durable. -/
theorem pageDurable_durable {j : Nat} {p : JPage} (hp : p ∈ (pageDurable j s).store.journal) (hj : p.jseq = j) : p.durable = true := by
  cases hfound : s.store.journal.find? (·.jseq = j) with
  | none =>
    have hsame : pageDurable j s = s := by
      unfold pageDurable
      simp only [hfound]
    rw [hsame] at hp
    exact absurd (decide_eq_true hj) (List.find?_eq_none.1 hfound p hp)
  | some q =>
    rw [pageDurable_found hfound] at hp
    obtain ⟨r, -, rfl⟩ := List.mem_map.1 hp
    by_cases hr : r.jseq = j
    · rw [if_pos hr]
    · rw [if_neg hr] at hj
      exact absurd hj hr
theorem nandOpDone_journal {j : Nat} (hstate : s.glb.state ≠ 3) (hlife : s.life[nstLife c].life = .running)
    (hop : nextOp (s.store.ops.filter (·.ch = c)) = some op) (hkind : op.kind = .program) (huse : op.use = .journal j) :
    ∃ u, nandOpDone c true us es n s = nchDrained c (storeMoves u) ∧ ∀ p ∈ u.store.journal, p.jseq = j → p.durable = true := by
  refine ⟨pageDurable j (opOver c us op s), ?_, fun _ => pageDurable_durable⟩
  rw [nandOpDone_of_op hstate hlife hop (by rw [hkind]; decide), if_pos hkind]
  simp only [programDone, huse]
end operations
/-! ## The rows of the store and of the seep -/
section rows
variable {s : State} {c : Fin 16}
theorem nandOpTimeout_idle (hstate : s.glb.state ≠ 3) (hops : s.store.ops.any (·.ch = c) = true) :
    nandOpTimeout c s = unitFault (nstLife c) 1 (onStore s fun st => { st with
      ch := vmod (vmod st.ch c fun x => { x with errs := x.errs ||| 0x18 }) c fun x => { x with restarts := 0 } }) := by
  unfold nandOpTimeout
  dsimp only
  rw [if_neg fun h => hstate h.1, hops]
  rfl
/-- A channel that has restarted, at time `now`, before its waiting operations are given out. -/
def channelBack (c : Fin 16) (now : Nat) (s : State) : State :=
  ((setFault (nstLife c) 0 (onStore (onNch s c fun x => { x with restarts := 0, trained := true }) fun st => { st with
    ops := st.ops.map fun o => if o.ch = c then { o with since := now } else o })).toLife (nstLife c) .stopped).toLife (nstLife c) .running
theorem channelBack_ch {now : Nat} :
    (channelBack c now s).store.ch = vmod s.store.ch c fun x => { x with restarts := 0, trained := true } := by
  unfold channelBack
  rw [State.toLife_store, State.toLife_store]
  rfl
theorem channelBack_ret {now : Nat} : (channelBack c now s).ret = s.ret := by
  unfold channelBack
  rw [State.toLife_ret, State.toLife_ret]
  rfl
theorem channelBack_life {now : Nat} : ((channelBack c now s).life[nstLife c]).life = .running := by
  unfold channelBack
  rw [State.toLife_life, vmod_same]
theorem issueAll_ringWork : RingWork s (issueAll s) :=
  issueOps_ringWork
theorem nstChannelRestart_good (hstate : s.glb.state ≠ 3) (hlife : s.life[nstLife c].life = .faulted) (hfew : s.store.ch[c].restarts < 3) :
    ((nstChannelRestart c true s).life[nstLife c]).life = .running ∧ (nstChannelRestart c true s).store.ch[c].restarts = 0 ∧
      (nstChannelRestart c true s).store.ch[c].trained = true ∧ (nstChannelRestart c true s).ret = s.ret := by
  have hgo : ¬(s.life[nstLife c].life ≠ .faulted ∨ s.store.ch[c].restarts ≥ 3 ∨ s.glb.state = 3) := by
    rw [hlife]
    exact not_or.2 ⟨not_not.2 rfl, not_or.2 ⟨by omega, hstate⟩⟩
  obtain ⟨u, hu, hrun⟩ : ∃ u, u.ret = s.ret ∧ nstChannelRestart c true s = issueAll (channelBack c s.now u) := by
    refine ⟨(onNch s c fun x => { x with restarts := s.store.ch[c].restarts + 1 }).raise 0x0710 c.val [(16, s.store.ch[c].restarts + 1),
      (17, b2n true), (18, s.life[nstLife c].fault.toNat)], State.raise_ret _ _ _ _, ?_⟩
    unfold nstChannelRestart
    dsimp only
    rw [if_neg hgo, if_pos rfl]
    rfl
  obtain ⟨hret, hlife', hstore⟩ := issueAll_ringWork (s := channelBack c s.now u)
  rw [hrun, hlife', hret, hstore.ch, channelBack_life, channelBack_ch, channelBack_ret, vmod_same, hu]
  exact ⟨rfl, rfl, rfl, rfl⟩
/-- The page that the slots `xs` make goes into the journal, under the next JSEQ. -/
theorem journalPage_adds {first : Nat} {xs : List Slot} : ∃ pg : JPage, pg.jseq = s.store.jseq ∧ pg.slots = xs ∧ pg.durable = false ∧
    (journalPage first xs s).store.journal = s.store.journal ++ [pg] ∧ (journalPage first xs s).store.jseq = s.store.jseq + 1 ∧
    (journalPage first xs s).store.filling = s.store.filling ∧ (journalPage first xs s).ret = s.ret := by
  have hneed := needStripe_ringWork (s := s)
  unfold journalPage
  extract_lets u st ppa pg
  have hgiven : RingWork (onStore u fun st => { st with journal := st.journal ++ [pg], jseq := st.jseq + 1 })
      (checkSpace (nandOp .program (.journal pg.jseq) ppa (recordPage 2 s.slot pg.gen pg.jseq xs)
        (onStore u fun st => { st with journal := st.journal ++ [pg], jseq := st.jseq + 1 }))) :=
    nandOp_ringWork.trans checkSpace_ringWork
  refine ⟨pg, hneed.store.jseq, rfl, rfl, ?_, ?_, ?_, ?_⟩
  · rw [hgiven.store.journal, ← hneed.store.journal]
    rfl
  · rw [hgiven.store.jseq, ← hneed.store.jseq]
    rfl
  · rw [hgiven.store.filling, ← hneed.store.filling]
    rfl
  · rw [hgiven.ret, ← hneed.ret]
    rfl
theorem pageSlots_le {xs : List Slot} {segs : List Nat} {n : Nat} : n ≤ pageSlots xs segs n := by
  induction xs generalizing segs n with
  | nil => exact Nat.le_refl _
  | cons x xs ih =>
    unfold pageSlots
    split
    · exact Nat.le_refl _
    · split
      · exact (Nat.le_succ n).trans ih
      · split
        · exact Nat.le_refl _
        · exact (Nat.le_succ n).trans ih
/-- The oldest slot that waits is always one of the next page. -/
theorem pageSlots_pos {x : Slot} {xs : List Slot} : 0 < pageSlots (x :: xs) [] 0 := by
  unfold pageSlots
  cases x with
  | line r o => exact pageSlots_le
  | marker m =>
    simp only [List.any_nil, Bool.false_eq_true, and_false, if_false]
    exact pageSlots_le
theorem issuePage_issues (hfill : s.store.filling ≠ []) (hcan : canJournal s = true) :
    (issuePage s).store.jseq = s.store.jseq + 1 ∧ (issuePage s).ret.lines = s.ret.lines ∧
      ∃ p ∈ (issuePage s).store.journal, p.jseq = s.store.jseq ∧ p.slots ≠ [] ∧ p.durable = false ∧
        p.slots ++ (issuePage s).store.filling = s.store.filling := by
  have hgo : ¬(s.store.filling = [] ∨ (!canJournal s) = true) := by
    rw [hcan]
    exact not_or.2 ⟨hfill, Bool.false_ne_true⟩
  have hpos : s.store.filling.take (pageSlots s.store.filling [] 0) ≠ [] := by
    cases hf : s.store.filling with
    | nil => exact absurd hf hfill
    | cons x xs =>
      have hslot := pageSlots_pos (x := x) (xs := xs)
      exact fun hnil => (List.take_eq_nil_iff.1 hnil).elim (by omega) (List.cons_ne_nil x xs)
  unfold issuePage
  rw [if_neg hgo]
  obtain ⟨pg, hseq, hslots, hdurable, hjournal, hjseq, hfilling, hret⟩ := journalPage_adds
    (first := s.store.placed - s.store.filling.length) (xs := s.store.filling.take (pageSlots s.store.filling [] 0))
    (s := onStore s fun st => { st with filling := st.filling.drop (pageSlots s.store.filling [] 0), fillAt := s.now })
  refine ⟨hjseq, congrArg Ret.lines hret, pg, ?_, hseq, ?_, hdurable, ?_⟩
  · rw [hjournal]
    exact List.mem_append_right _ List.mem_cons_self
  · rw [hslots]
    exact hpos
  · rw [hslots, hfilling]
    exact List.take_append_drop _ _
theorem seepClean_picked {l : Nat} (hruns : seepRuns s = true) (hpick : pickClean s = some l)
    (htokens : emergency s = true ∨ 272 ≤ s.ret.weir.bucket) : seepClean s =
    onStore (placeSlot (.line ⟨if (s.lineSeg l).cls = .latest then 2 else 1, l, (s.committedValue l).2, (s.committedValue l).1⟩
      (some (if (s.eff l).1 = .openOver then (s.lineAt l).base else (s.lineAt l).serial))) (drawTokens (emergency s) s))
      fun st => { st with walk := l + 1, cleaning := true, emergency := emergency s } := by
  have hgo : ¬((!seepRuns s) = true ∨ ((!emergency s) = true ∧ s.ret.weir.bucket < 272)) := by
    rw [hruns]
    refine not_or.2 ⟨Bool.false_ne_true, fun h => htokens.elim (fun hem => ?_) (fun hle => by omega)⟩
    rw [hem] at h
    exact Bool.false_ne_true h.1
  unfold seepClean
  dsimp only
  rw [if_neg hgo]
  simp only [hpick]
theorem seepMerge_due {g : Nat} (hruns : seepRuns s = true) (hdue : mergeDue s g = true) : seepMerge g s =
    checkSpace (freeAreas (onStore (writeImage g s) fun st => { st with
      merging := true, mergeAt := s.now + ((writeImage g s).store.wrMerge - s.store.wrMerge) * 800 / max 1 s.store.mergeRate })) := by
  unfold seepMerge
  rw [hruns, hdue]
  rfl
theorem checkpointWrite_due (hruns : seepRuns s = true) (hdue : checkpointDue s = true) :
    checkpointWrite s = wakeEvacuate (writeCheckpoint s) := by
  unfold checkpointWrite
  rw [hruns, hdue]
  rfl
theorem ringRotate_full (hopen : nandOpen s = true) (hroot : s.store.root.isSome = true) (hfull : s.store.ncfg.ppb ≤ s.store.ring.index) :
    ringRotate s = rotateRings s := by
  unfold ringRotate
  rw [hopen, hroot, decide_eq_true hfull]
  rfl
theorem ringRotate_room (hopen : nandOpen s = true) (hroom : s.store.ring.index < s.store.ncfg.ppb) :
    ringRotate s = dropOldRing (kickAnchor s) := by
  unfold ringRotate
  rw [hopen, decide_eq_false (by omega), Bool.and_false]
  rfl
theorem staticSpread_worn {lun hi lo : Nat} {im : Image} (hruns : seepRuns s = true) (him : imageOf s.store im.seg = some im)
    (hhi : hi = ((lunBlocks s.store lun).map fun k => (blkAt s.store k).erases).foldl max 0)
    (hlo : lo = ((lunBlocks s.store lun).map fun k => (blkAt s.store k).erases).foldl min hi) (hspread : 2000 < hi - lo)
    (hfound : s.store.images.find? (fun im => (im.map :: im.pages).any fun p =>
      decide ((blkAt s.store (blockOf p)).erases = lo) && decide (p % 128 = lun)) = some im) :
    staticSpread lun s = writeImage im.seg s := by
  subst hhi hlo
  have hgo : (seepRuns s && decide (((lunBlocks s.store lun).map fun k => (blkAt s.store k).erases).foldl max 0 -
      ((lunBlocks s.store lun).map fun k => (blkAt s.store k).erases).foldl min
        (((lunBlocks s.store lun).map fun k => (blkAt s.store k).erases).foldl max 0) > 2000) &&
      imageOf s.store im.seg == some im) = true := by
    rw [hruns, him, decide_eq_true hspread, beq_self_eq_true]
    rfl
  unfold staticSpread
  simp only [hfound]
  exact if_pos hgo
/-- The generation of the area that is ready, or is being readied, is `g`. -/
def Readies (g : Nat) (st : Store) : Prop :=
  ∃ a : Area, a.stripe.gen = g ∧ (st.ready = some a ∨ ∃ w, st.readying = some (a, w))
theorem Readies.kept {g : Nat} {a b : Store} (h : Readies g a) (hk : StoreKept a b) : Readies g b := by
  obtain ⟨x, hgen, hx | ⟨w, hx⟩⟩ := h
  · have hmap := hk.ready
    rw [hx, Option.map_some] at hmap
    obtain ⟨y, hy, hgen'⟩ := Option.map_eq_some_iff.1 hmap
    exact ⟨y, hgen'.trans hgen, .inl hy⟩
  · have hmap := hk.readying
    rw [hx, Option.map_some] at hmap
    obtain ⟨⟨y, v⟩, hy, hgen'⟩ := Option.map_eq_some_iff.1 hmap
    exact ⟨y, hgen'.trans hgen, .inr ⟨v, hy⟩⟩
theorem areaReadied_readies {g : Nat} (h : Readies g s.store) (hready : s.store.ready = none) :
    Readies g (areaReadied s).store ∧ (areaReadied s).ret = s.ret := by
  unfold areaReadied
  split
  · exact ⟨h, rfl⟩
  · next a w hreadying =>
    split
    · exact ⟨h, rfl⟩
    · obtain ⟨x, hgen, hx | ⟨v, hx⟩⟩ := h
      · rw [hready] at hx
        cases hx
      · obtain ⟨rfl, -⟩ := Prod.mk.inj (Option.some.inj (hreadying.symm.trans hx))
        exact ⟨⟨a, hgen, .inl rfl⟩, rfl⟩
/-- From `u`, area `a` is the one to be readied, the next one is erased, and the root is written; the readying may end at once. -/
def readiesNext (a : Area) (was : Nat) (u : State) : State :=
  let s3 := onStore u fun st => { st with readying := some (a, was), nextArea := none }
  areaReadied (writeRoot (onStore (preErase s3).2 fun st => { st with nextArea := (preErase s3).1 }))
theorem readiesNext_readies {a : Area} {was : Nat} (hready : s.store.ready = none) :
    Readies a.stripe.gen (readiesNext a was s).store ∧ (readiesNext a was s).ret = s.ret := by
  unfold readiesNext
  extract_lets s3
  have hreadies : Readies a.stripe.gen s3.store := ⟨a, rfl, .inr ⟨was, rfl⟩⟩
  have hwork : RingWork s3 (writeRoot (onStore (preErase s3).2 fun st => { st with nextArea := (preErase s3).1 })) :=
    preErase_ringWork.trans (writeRoot_onStore_ringWork fun _ => ⟨rfl, rfl, rfl, rfl, rfl, rfl, rfl, rfl⟩)
  have hnone := hwork.store.ready
  rw [show s3.store.ready = none from hready, Option.map_none] at hnone
  obtain ⟨hdone, hret⟩ := areaReadied_readies (hreadies.kept hwork.store) (Option.map_eq_none_iff.1 hnone)
  exact ⟨hdone, hret.trans hwork.ret⟩
theorem readyArea_next {a : Area} (hnext : s.store.nextArea = some a) (hready : s.store.ready = none)
    (hreadying : s.store.readying = none) (hfew : s.store.sealed.length < 16) (hroot : s.store.root.isSome = true) :
    ∃ b was pages, b.stripe.gen = s.store.gen + 1 ∧ readyArea s = readiesNext b was (ringPages pages s).2 := by
  have hgo : ¬(s.store.ready.isSome = true ∨ s.store.readying.isSome = true ∨ s.store.sealed.length ≥ 16 ∨ s.store.root.isNone = true) := by
    rw [hready, hreadying]
    rw [← Option.not_isNone, Bool.not_eq_true'] at hroot
    simp only [hroot, Option.isSome_none, Bool.false_eq_true, false_or, or_false, not_le, hfew]
  refine ⟨{ a with stripe := { a.stripe with
    gen := s.store.gen + 1,
    desc := (ringPages (descriptorPages true { a.stripe with gen := s.store.gen + 1 } a.sealA a.sealB) s).1 } }, a.stripe.desc,
    descriptorPages true { a.stripe with gen := s.store.gen + 1 } a.sealA a.sealB, rfl, ?_⟩
  unfold readyArea
  rw [if_neg hgo]
  simp only [hnext, Option.isSome_some, if_true]
  rfl
theorem readyArea_readies {a : Area} (hnext : s.store.nextArea = some a) (hready : s.store.ready = none)
    (hreadying : s.store.readying = none) (hfew : s.store.sealed.length < 16) (hroot : s.store.root.isSome = true) :
    Readies (s.store.gen + 1) (readyArea s).store ∧ (readyArea s).ret = s.ret := by
  obtain ⟨b, was, pages, hgen, hrun⟩ := readyArea_next hnext hready hreadying hfew hroot
  have hwork := ringPages_ringWork (s := s) (pages := pages)
  have hnone := hwork.store.ready
  rw [hready, Option.map_none] at hnone
  obtain ⟨hreadies, hret⟩ := readiesNext_readies (a := b) (was := was) (Option.map_eq_none_iff.1 hnone)
  rw [hrun, ← hgen]
  exact ⟨hreadies, hret.trans hwork.ret⟩
theorem areaReady_begins {a : Area} (hnext : s.store.nextArea = some a) (hready : s.store.ready = none)
    (hreadying : s.store.readying = none) (hfew : s.store.sealed.length < 16) (hroot : s.store.root.isSome = true) :
    Readies (s.store.gen + 1) (preEraseNext (readyArea (areaReadied s))).store ∧
      (preEraseNext (readyArea (areaReadied s))).ret = s.ret := by
  have hidle : areaReadied s = s := by
    unfold areaReadied
    simp only [hreadying]
  obtain ⟨hreadies, hret⟩ := readyArea_readies hnext hready hreadying hfew hroot
  rw [hidle]
  exact ⟨hreadies.kept preEraseNext_ringWork.store, preEraseNext_ringWork.ret.trans hret⟩
theorem seepRuns_root (hruns : seepRuns s = true) : s.store.root.isSome = true :=
  (Bool.and_eq_true_iff.1 hruns).2
theorem auditBegin_running (haudit : s.store.auditing = true) : auditBegin s = s :=
  if_pos haudit
theorem meetErrors_none {l : Nat} : meetErrors l 0 s = s := by
  unfold meetErrors
  exact if_pos (Or.inl rfl)
theorem noGranules_and (v : BitVec 4) : 0 &&& v = 0 :=
  BitVec.zero_and
theorem maskCount_none : maskCount (0 : BitVec 4) = 0 := by
  decide
theorem maskList_none : maskList (0 : BitVec 4).toNat 4 = [] := by
  decide
theorem auditLine_good {l : Nat} (hruns : seepRuns s = true) (haudit : s.store.auditing = true)
    (hnext : (auditable s).find? (s.store.auditLine ≤ ·) = some l) :
    auditLine 0 0 s = auditCheck (countBeats (channelOf s (s.placeOf l)) (rankAt s (s.placeOf l)).1 0 0
      (requestValue 20 l (onStore s fun st => { st with auditLine := l + 1, dramFixed := sat 32 st.dramFixed }))) := by
  have hgo : ¬(!seepRuns s) = true := by
    rw [hruns]
    exact Bool.false_ne_true
  unfold auditLine
  rw [if_neg hgo]
  simp only [auditBegin_running haudit, hnext, noGranules_and, maskCount_none, maskList_none, List.foldl_nil, Nat.add_zero, meetErrors_none]
theorem pageRead_clean {p n : Nat} {es : List Nat} (hgood : ∀ e ∈ es, e ≤ 60 ∧ e < s.store.refreshBits) :
    pageRead p es n s = onNch (retryLevels p n s) (Fin.ofNat 16 (ppaChan p)) fun x => { x with
      corr := sat 32 (x.corr + es.sum), uncorr := sat 32 x.uncorr, retry := sat 32 (x.retry + n) } := by
  have hstore : (retryLevels p n s).store = s.store :=
    foldl_keeps State.store (fun s w => s.emit (.nandRetry p w)) (fun _ _ => rfl) _ s
  have hbad : (es.zipIdx.filter fun q => decide (60 < q.1) && decide (q.2 < 16)) = [] := by
    refine List.filter_eq_nil_iff.2 fun q hq h => ?_
    have hle := (hgood q.1 (List.fst_mem_of_mem_zipIdx hq)).1
    have hlt := of_decide_eq_true (Bool.and_eq_true_iff.1 h).1
    omega
  have hfixed : es.filter (· ≤ 60) = es := List.filter_eq_self.2 fun e he => decide_eq_true (hgood e he).1
  have hfresh : (es.any fun e => decide ((retryLevels p n s).store.refreshBits ≤ e)) = false := by
    rw [hstore]
    refine List.any_eq_false.2 fun e he h => ?_
    have hlt := (hgood e he).2
    have hle := of_decide_eq_true h
    omega
  unfold pageRead
  simp only [hbad, hfixed, hfresh, List.map_nil, List.filter_nil, List.append_nil, List.length_nil, Nat.add_zero, if_true,
    BitVec.ofNat_eq_ofNat, BitVec.or_zero, Bool.false_eq_true, if_false]
  rfl
theorem auditPage_good {p n : Nat} {es : List Nat} (hruns : seepRuns s = true) (haudit : s.store.auditing = true)
    (hnext : (auditPages s).find? (s.store.auditPage ≤ ·) = some p) (hgood : ∀ e ∈ es, e ≤ 60 ∧ e < s.store.refreshBits) :
    auditPage es n s = auditCheck (onNch (retryLevels p n (onStore s fun st => { st with auditPage := p + 1 }))
      (Fin.ofNat 16 (ppaChan p)) fun x => { x with
        corr := sat 32 (x.corr + es.sum), uncorr := sat 32 x.uncorr, retry := sat 32 (x.retry + n) }) := by
  have hgo : ¬((!seepRuns s) = true ∨ readAgain s es n = true) := by
    rw [hruns]
    refine not_or.2 ⟨Bool.false_ne_true, fun h => ?_⟩
    obtain ⟨e, he, hbad⟩ := List.any_eq_true.1 (Bool.and_eq_true_iff.1 h).1
    have hle := (hgood e (List.mem_of_mem_take he)).1
    have hlt := of_decide_eq_true hbad
    omega
  have hbad : (es.zipIdx.filter fun q => decide (60 < q.1)) = [] := by
    refine List.filter_eq_nil_iff.2 fun q hq h => ?_
    have hle := (hgood q.1 (List.fst_mem_of_mem_zipIdx hq)).1
    have hlt := of_decide_eq_true h
    omega
  unfold auditPage
  rw [if_neg hgo]
  simp only [auditBegin_running haudit, hnext, hbad, List.map_nil, if_true]
  exact congrArg auditCheck (pageRead_clean hgood)
end rows
/-- Settles O31: each row takes the branch that its premises choose; what the NAND and its rings do besides is `RingWork`. -/
theorem storeWork : Obligations.StoreWork :=
  ⟨fun c us n es op s hstate hlife hop hkind huse hwf hleft => by
      obtain ⟨u, hrun, hops, hheld, herases⟩ :=
        nandOpDone_erase (us := us) (n := n) (es := es) hstate hlife hop hkind huse hwf hleft
      exact ⟨u, congrArg (fun t => Host.Outcome.next (settleWeir t)) hrun, hops, hheld, herases⟩,
    fun c us n j es op s hstate hlife hop hkind huse => by
      obtain ⟨u, hrun, hjournal⟩ := nandOpDone_journal (us := us) (n := n) (es := es) hstate hlife hop hkind huse
      exact ⟨u, congrArg (fun t => Host.Outcome.next (settleWeir t)) hrun, hjournal⟩,
    fun _ _ hstate hops => congrArg Host.Outcome.next (nandOpTimeout_idle hstate hops),
    fun c s hstate hlife hfew => ⟨nstChannelRestart c true s, rfl, nstChannelRestart_good hstate hlife hfew⟩,
    fun s hopen hfill hcan => ⟨issuePage s, congrArg Host.Outcome.next (if_pos hopen), issuePage_issues hfill hcan⟩,
    fun _ _ hruns hpick htokens => congrArg Host.Outcome.next (seepClean_picked hruns hpick htokens),
    fun _ _ hruns hdue => congrArg Host.Outcome.next (seepMerge_due hruns hdue),
    fun _ hruns hdue => congrArg Host.Outcome.next (checkpointWrite_due hruns hdue),
    fun s hruns hready hreadying hfew hnext => by
      obtain ⟨a, ha⟩ := Option.isSome_iff_exists.1 hnext
      obtain ⟨⟨b, hgen, hb⟩, hret⟩ := areaReady_begins ha hready hreadying hfew (seepRuns_root hruns)
      exact ⟨_, b, congrArg (fun t => Host.Outcome.next (settleWeir t)) (if_pos hruns), hgen, hb, hret⟩,
    fun _ hopen => ⟨fun hroot hfull => congrArg Host.Outcome.next (ringRotate_full hopen hroot hfull),
      fun hroom => congrArg Host.Outcome.next (ringRotate_room hopen hroom)⟩,
    fun _ _ _ hruns him _ _ hhi hlo hspread hfound =>
      congrArg Host.Outcome.next (staticSpread_worn hruns him hhi hlo hspread hfound),
    fun _ _ hruns haudit hnext => congrArg (fun t => Host.Outcome.next (settleWeir t)) (auditLine_good hruns haudit hnext),
    fun _ _ _ _ hruns haudit hnext hgood =>
      congrArg (fun t => Host.Outcome.next (settleWeir t)) (auditPage_good hruns haudit hnext hgood)⟩
end Sys2Proof.Machine

/-! # Tributary ports at work (chapter 11) -/
namespace Sys2Proof.Machine
section trib
variable {n : Fin 12} {s : State}
theorem pollCycleStart_on_time (hmay : mayPoll s n = true) (hcycle : (tribAt s n).inCycle = false) (hopen : (tribAt s n).rollOpen = false)
    (hdue : (tribAt s n).rollDue = false) (htime : (tribAt s n).cycleLast ≤ (tribAt s n).cfg.cycle) :
    pollCycleStart n s = cycleCheck n (onTrib s n fun t => { t with
      inCycle := true, cycleSeq := t.cycleSeq + 1, cycleStart := s.now, toPoll := pollList (tribAt s n), awaiting := [] }) := by
  have hgo : ¬((!mayPoll s n) = true ∨ (tribAt s n).inCycle = true ∨ (tribAt s n).rollOpen = true ∨
      ((tribAt s n).rollDue = true ∧ (!(tribAt s n).first) = true)) := by
    simp only [hmay, hcycle, hopen, hdue, Bool.not_true, Bool.false_eq_true, false_and, or_self, not_false_eq_true]
  have hlate : (!(tribAt s n).first && decide ((tribAt s n).cycleLast > (tribAt s n).cfg.cycle)) = false := by
    rw [decide_eq_false (by omega), Bool.and_false]
  unfold pollCycleStart
  dsimp only
  rw [if_neg hgo, hlate]
  rfl
theorem pollPayload_image {m : Mod} {i : OutImage} (hstate : m.state = .active) (hout : m.outState = .normal) (himage : m.image = some i) :
    pollPayload s m = (leBytes 4 i.pubSeq.toNat ++ leBytes 1 (if m.ackSeq = some i.pubSeq then 0 else 4) ++ rep 3 0 ++ i.bytes, s) := by
  simp only [pollPayload, himage, hstate, hout, reduceCtorEq, decide_false, Bool.or_self]
theorem poll_next {a : Nat} {rest : List Nat} {i : OutImage} (hmay : mayPoll s n = true) (hcycle : (tribAt s n).inCycle = true)
    (hto : (tribAt s n).toPoll = a :: rest) (hfree : isEth (tribAt s n) = true ∨ (tribAt s n).awaiting = [])
    (hstate : (modAt s n (Fin.ofNat 255 a)).state = .active) (hout : (modAt s n (Fin.ofNat 255 a)).outState = .normal)
    (himage : (modAt s n (Fin.ofNat 255 a)).image = some i) :
    poll n s = sendTrib n (modAt s n (Fin.ofNat 255 a)).mac 0x01 a (leBytes 4 i.pubSeq.toNat ++
      leBytes 1 (if (modAt s n (Fin.ofNat 255 a)).ackSeq = some i.pubSeq then 0 else 4) ++ rep 3 0 ++ i.bytes)
      (onTrib s n fun t => { t with toPoll := rest, awaiting := t.awaiting ++ [a] }) := by
  have hgo : ¬((!mayPoll s n) = true ∨ (!(tribAt s n).inCycle) = true ∨ ((!isEth (tribAt s n)) = true ∧ (tribAt s n).awaiting ≠ [])) := by
    rw [hmay, hcycle]
    refine not_or.2 ⟨Bool.false_ne_true, not_or.2 ⟨Bool.false_ne_true, fun h => hfree.elim (fun heth => ?_) h.2⟩⟩
    rw [heth] at h
    exact Bool.false_ne_true h.1
  unfold poll
  simp only [hto]
  rw [if_neg hgo, pollPayload_image hstate hout himage]
theorem masterFrame_of_not_listening {f : RxFrame} (h : listening s n = false) : masterFrame n f s = false := by
  simp only [masterFrame, h, Bool.false_and]
theorem masterFrame_other_type {f : RxFrame} (h1 : (pduOf f.pdu).type ≠ 1) (h3 : (pduOf f.pdu).type ≠ 3) : masterFrame n f s = false := by
  simp only [masterFrame, decide_eq_false h1, decide_eq_false h3, Bool.or_self, Bool.and_false]
theorem good_of_frameOk {t : Trib} {f : RxFrame} (h : frameOk t f = true) : f.good = true := by
  simp only [frameOk, Bool.and_eq_true] at h
  exact h.1.1.1
/-- A frame that reaches a port in Nymzel's protocol and is no other master's is judged. -/
theorem judges {f : RxFrame} {alive : Bool} (halive : alive = true) (hlegacy : isLegacy (tribAt s n) = false)
    (hheard : heardBy (tribAt s n) f = true) (hmaster : masterFrame n f s = false) :
    ¬((!alive) = true ∨ isLegacy (tribAt s n) = true ∨ (!heardBy (tribAt s n) f) = true ∨ masterFrame n f s = true) := by
  simp only [halive, hlegacy, hheard, hmaster, Bool.not_true, Bool.false_eq_true, or_self, not_false_eq_true]
theorem modAt_goodFrame {a : Fin 255} : modAt (goodFrame n s) n a = modAt s n a := by
  unfold modAt goodFrame
  rw [onTrib_own, vmod_same]
theorem modAt_answered {a : Fin 255} {k : Nat} : modAt (answered n k s) n a = modAt s n a := by
  unfold modAt answered
  rw [onTrib_own, vmod_same]
theorem goodData_active {a : Fin 255} {p : Pdu} (hactive : (modAt s n a).state = .active) :
    goodData n a p s = stageInput n a ⟨p.body.drop 8, p.len - 8, p.body.getD 4 0, s.glb.time, BitVec.ofNat 32 (field p.body 0 4), false⟩
      (onMod (goodFrame n s) n a fun m => { m with
        misses := 0, ackSeq := some (BitVec.ofNat 32 (field p.body 0 4)), heard := true }) := by
  have hstate : (modAt (onMod (goodFrame n s) n a fun m => { m with
      misses := 0, ackSeq := some (BitVec.ofNat 32 (field p.body 0 4)), heard := true }) n a).state = .active := by
    rw [modAt_onMod_same, modAt_goodFrame]
    exact hactive
  unfold goodData
  simp only [hstate, if_true]
theorem listening_runs (h : listening s n = true) : tribRuns s n = true :=
  (Bool.and_eq_true_iff.1 h).1
theorem not_listening_of_token (h : (tribAt s n).token = true) : listening s n = false := by
  simp only [listening, h, Bool.not_true, Bool.and_false]
theorem dataReply_active {f : RxFrame} {p : Pdu} {a : Fin 255} {i : Ident} (halive : tribAlive s n = true)
    (hlegacy : isLegacy (tribAt s n) = false) (hheard : heardBy (tribAt s n) f = true) (hok : frameOk (tribAt s n) f = true)
    (hp : p = pduOf f.pdu) (htype : p.type = 2) (hdst : p.dst = 0) (hsrc : p.src = a.val) (hlisten : listening s n = false)
    (hawait : (tribAt s n).awaiting.contains p.src = true) (hseq : p.seq = (tribAt s n).cycleSeq.toNat)
    (hident : (modAt s n a).ident = some i) (hlen : p.len = 8 + inLen i) (hactive : (modAt s n a).state = .active) :
    dataReply n f s = cycleCheck n (stageInput n a ⟨p.body.drop 8, inLen i, p.body.getD 4 0, s.glb.time,
      BitVec.ofNat 32 (field p.body 0 4), false⟩ (onMod (goodFrame n (answered n a.val s)) n a fun m => { m with
        misses := 0, ackSeq := some (BitVec.ofNat 32 (field p.body 0 4)), heard := true })) := by
  have hwhole : ¬((!frameOk (tribAt s n) f) = true ∨ p.type ≠ 2 ∨ p.dst ≠ 0 ∨ p.src ≥ 255 ∨ p.len < 8) := by
    have hlt := a.isLt
    simp only [hok, htype, hdst, Bool.not_true, Bool.false_eq_true, ne_eq, not_true_eq_false, false_or]
    omega
  have haddr : Fin.ofNat 255 p.src = a := Fin.ext (by rw [hsrc]; exact Nat.mod_eq_of_lt a.isLt)
  have hasked : ¬((!(tribAt s n).awaiting.contains p.src) = true ∨ p.seq ≠ (tribAt s n).cycleSeq.toNat ∨
      (!decide (p.len = 8 + inLen i)) = true) := by
    simp only [hawait, hseq, decide_eq_true hlen, Bool.not_true, Bool.false_eq_true, ne_eq, not_true_eq_false, or_self, not_false_eq_true]
  have hbytes : p.len - 8 = inLen i := by omega
  unfold dataReply
  dsimp only
  rw [if_neg (judges halive hlegacy hheard (masterFrame_of_not_listening hlisten)), ← hp, good_of_frameOk hok, Bool.not_true,
    if_neg Bool.false_ne_true, if_neg hwhole, haddr, hlisten, if_neg Bool.false_ne_true, hident, if_neg hasked,
    goodData_active (by rw [modAt_answered]; exact hactive), hbytes, hsrc]
  rfl
theorem identify_due (hmay : mayPoll s n = true) (hcycle : (tribAt s n).inCycle = false) (hopen : (tribAt s n).rollOpen = false)
    (hfirst : (tribAt s n).first = false) (hdue : (tribAt s n).rollDue = true) :
    identify n s = sendTrib n (tribAt s n).cfg.group 0x03 0xFF (leBytes 2 ((tribAt s n).roll + 1).toNat ++
      leBytes 1 (tribAt s n).cfg.slots ++ leBytes 1 (tribAt s n).cfg.slotUs ++ rep 4 0) (onTrib s n fun t => { t with
        roll := t.roll + 1, rollDue := false, rollOpen := true, claims := [], rollAssigned := 0 }) := by
  refine if_neg ?_
  simp only [hmay, hcycle, hopen, hfirst, hdue, Bool.not_true, Bool.false_eq_true, false_and, or_self, not_false_eq_true]
theorem claim_in_window {f : RxFrame} (hruns : tribRuns s n = true) (hlegacy : isLegacy (tribAt s n) = false)
    (hheard : heardBy (tribAt s n) f = true) (hok : frameOk (tribAt s n) f = true) (htype : (pduOf f.pdu).type = 4)
    (hdst : (pduOf f.pdu).dst = 0) (hlen : (pduOf f.pdu).len = 36) (htoken : (tribAt s n).token = true)
    (hopen : (tribAt s n).rollOpen = true) : claim n f s = onTrib (goodFrame n s) n fun t => { t with
      claims := t.claims ++ [(f.src, field (pduOf f.pdu).body 0 1, claimIdent (pduOf f.pdu))] } := by
  have hgood : ¬((!f.good) = true ∨ (!frameOk (tribAt s n) f) = true ∨ (pduOf f.pdu).type ≠ 4 ∨ (pduOf f.pdu).dst ≠ 0 ∨
      (pduOf f.pdu).len ≠ 36) := by
    simp only [good_of_frameOk hok, hok, htype, hdst, hlen, Bool.not_true, Bool.false_eq_true, ne_eq, not_true_eq_false, or_self,
      not_false_eq_true]
  have htoken' : (tribAt (goodFrame n s) n).token = true := by
    unfold tribAt goodFrame
    rw [onTrib_own, vmod_same]
    exact htoken
  unfold claim
  dsimp only
  rw [if_neg (judges hruns hlegacy hheard (masterFrame_of_not_listening (not_listening_of_token htoken))), if_neg hgood, htoken, hopen]
  refine (if_neg Bool.false_ne_true).trans (onTrib_congr ?_)
  simp only [htoken', if_true]
theorem rollcallWindowClose_open (hopen : (tribAt s n).rollOpen = true) (hmay : mayPoll s n = true) :
    rollcallWindowClose n s = endRoll n St.ok ((tribAt s n).claims.foldl (fun (s : State) c => handleClaim n c s) s) := by
  unfold rollcallWindowClose
  dsimp only
  rw [hopen, hmay]
  rfl
theorem inputLatchExpire_latched {a : Fin 255} (hlife : tribLife s n ≠ .off) (hlatched : (modAt s n a).latched.isSome = true) :
    inputLatchExpire n a s = storeStaged n a (writeHeader n a (onTrib (onMod s n a fun m => { m with latched := none, expired := true }) n
      fun t => { t with latchExp := sat 32 (t.latchExp + 1) })) := by
  refine if_neg (not_or.2 ⟨?_, hlife⟩)
  rwa [Option.isNone_iff_eq_none, ← ne_eq, ← Option.isSome_iff_ne_none]
theorem outputCapture_first {c : Capture} {cs : List Capture} (h : (tribAt s n).captures = c :: cs) :
    outputCapture n s = if captureStuck s n c then s else takeCapture n s := by
  simp only [outputCapture, h]
theorem captureStuck_of_channel {c : Capture} {l : Nat} (hl : l ∈ blockLines s n (Fin.ofNat 255 c.addr))
    (hrun : dchRunning s (channelOf s l) = false) (hdead : dchDead s (channelOf s l) = false) : captureStuck s n c = true := by
  refine Bool.or_eq_true_iff.2 (.inl (List.any_eq_true.2 ⟨l, hl, ?_⟩))
  rw [hrun, hdead]
  rfl
theorem captureStuck_of_write {c : Capture} {w : Piece} {k : Nat} (hw : w ∈ s.ret.writes) (hk : k ≤ c.epoch)
    (hline : w.line ∈ blockLines s n (Fin.ofNat 255 c.addr)) (hepoch : w.epoch = some (c.ctx, k)) : captureStuck s n c = true := by
  refine Bool.or_eq_true_iff.2 (.inr (List.any_eq_true.2 ⟨w, hw, ?_⟩))
  simp only [hepoch, decide_true, decide_eq_true hk, Bool.and_true, List.contains_iff_mem, hline]
theorem takeCapture_first {c : Capture} {cs : List Capture} {t : State} (h : (tribAt s n).captures = c :: cs)
    (ht : t = captureBlock n (Fin.ofNat 255 c.addr) (onTrib s n fun t => { t with captures := cs })) :
    takeCapture n s = (blockLines t n (Fin.ofNat 255 c.addr)).foldl (fun s l => requestValue (tribPort n) l s) t := by
  subst ht
  simp only [takeCapture, h]
theorem depart_absent {a : Fin 255} {cause : Nat} (h : (modAt s n a).state = .absent) : depart n a cause s = s :=
  if_neg (by rw [h]; decide)
theorem assignReceived_claimed {f : RxFrame} {a : Fin 255} {c : BitVec 48 × Nat × Ident} (hlisten : listening s n = true)
    (hlegacy : isLegacy (tribAt s n) = false) (hheard : heardBy (tribAt s n) f = true) (hok : frameOk (tribAt s n) f = true)
    (htype : (pduOf f.pdu).type = 5) (hdst : (pduOf f.pdu).dst = 0xFF) (hlen : (pduOf f.pdu).len = 12)
    (haddr : field (pduOf f.pdu).body 8 1 = a.val) (haok : addrOk (tribAt s n) a.val = true) (habsent : (modAt s n a).state = .absent)
    (hclaim : (tribAt s n).claims.find? (fun c => identUid c.2.2 = BitVec.ofNat 64 (field (pduOf f.pdu).body 0 8)) = some c) :
    assignReceived n f s = onTrib (enterMod n a c.1 c.2.2 (goodFrame n s)) n fun t => { t with
      claims := t.claims.filter fun c => identUid c.2.2 ≠ BitVec.ofNat 64 (field (pduOf f.pdu).body 0 8) } := by
  have hgood : ¬((!listening s n) = true ∨ (!f.good) = true ∨ (!frameOk (tribAt s n) f) = true ∨ (pduOf f.pdu).type ≠ 5 ∨
      (pduOf f.pdu).dst ≠ 0xFF ∨ (pduOf f.pdu).len ≠ 12) := by
    simp only [hlisten, good_of_frameOk hok, hok, htype, hdst, hlen, Bool.not_true, Bool.false_eq_true, ne_eq, not_true_eq_false, or_self,
      not_false_eq_true]
  have hfin : Fin.ofNat 255 a.val = a := Fin.ext (Nat.mod_eq_of_lt a.isLt)
  have hentry : ¬(a.val ≥ 255 ∨ (!addrOk (tribAt s n) a.val) = true ∨ (modAt s n (Fin.ofNat 255 a.val)).state = .disabled) := by
    have hlt := a.isLt
    rw [haok, hfin, habsent]
    refine not_or.2 ⟨by omega, not_or.2 ⟨Bool.false_ne_true, by decide⟩⟩
  have hmaster : masterFrame n f s = false := masterFrame_other_type (by rw [htype]; decide) (by rw [htype]; decide)
  unfold assignReceived
  dsimp only
  rw [if_neg (judges (listening_runs hlisten) hlegacy hheard hmaster), if_neg hgood, haddr, if_neg hentry, hfin]
  have habsent' : (modAt (goodFrame n s) n a).state = .absent := (congrArg Mod.state modAt_goodFrame).trans habsent
  simp only [hclaim, depart_absent habsent']
theorem listenMissWindow_listens (hlisten : listening s n = true) (hlegacy : isLegacy (tribAt s n) = false) :
    listenMissWindow n s = (pollList (tribAt s n)).foldl (fun s a =>
      if (modAt s n (Fin.ofNat 255 a)).heard then onMod s n (Fin.ofNat 255 a) fun m => { m with heard := false }
      else missed n (Fin.ofNat 255 a) s) s := by
  refine if_neg ?_
  simp only [hlisten, hlegacy, Bool.not_true, Bool.false_eq_true, or_self, not_false_eq_true]
theorem mdioDone_answered {b : Fin 2} {v : BitVec 16} {m : Mdio} {p : Fin 12} {tag : BitVec 16} {rest : List Mdio}
    (hqueue : s.mdio[b] = m :: rest) (hread : m.write = false) (hcmd : m.cmd = some (p, tag)) :
    mdioDone b true v s = onCmds (({ s with mdio := s.mdio.set b rest } : State).emit
      (.mdio b false (tribAt s (Fin.ofNat 12 m.port)).cfg.phyAddr m.reg v)) p (endCmd (portAlive s p) tag fun c => { c with
        phase := .finished, status := BitVec.ofNat 16 St.ok, result := v.zeroExtend 64 }) := by
  unfold mdioDone
  simp only [hqueue, hread, hcmd, Bool.not_true, Bool.false_and, Bool.false_eq_true, if_false, Bool.or_self]
  rfl
theorem tokenChange_nymzel {b : Bool} (hrole : b = decide (s.mir.role ≠ .standby ∧ !s.mir.handing)) (hnew : (tribAt s n).token ≠ b)
    (hopen : (tribAt s n).rollOpen = false) (hdue : (tribAt s n).rollDue = false) (hlegacy : isLegacy (tribAt s n) = false) :
    tokenChange n b s = onTrib s n fun t => { t with
      token := b, toPoll := [], awaiting := [], inCycle := false, claims := [], first := true, de := false, txd := true } := by
  have hgo : ¬(b ≠ decide (s.mir.role ≠ .standby ∧ !s.mir.handing) ∨ (tribAt s n).token = b) := not_or.2 ⟨not_not.2 hrole, hnew⟩
  unfold tokenChange
  dsimp only
  rw [if_neg hgo, hopen, hdue, hlegacy]
  rfl
end trib
/-- Settles O42: each row takes the branch that its premises choose. -/
theorem tribWork : Obligations.TribWork :=
  ⟨fun _ _ hmay hcycle hopen hdue htime => congrArg Host.Outcome.next (pollCycleStart_on_time hmay hcycle hopen hdue htime),
    fun _ _ _ _ _ hmay hcycle hto hfree hstate hout himage =>
      congrArg Host.Outcome.next (poll_next hmay hcycle hto hfree hstate hout himage),
    fun _ _ _ _ _ _ halive hlegacy hheard hok hp htype hdst hsrc hlisten hawait hseq hident hlen hactive =>
      congrArg Host.Outcome.next
        (dataReply_active halive hlegacy hheard hok hp htype hdst hsrc hlisten hawait hseq hident hlen hactive),
    fun _ _ _ hawait => congrArg Host.Outcome.next (if_pos hawait),
    fun _ _ halive hpers hlisten =>
      congrArg Host.Outcome.next ((if_pos ⟨halive, hpers⟩).trans (if_neg (ne_true_of_eq_false hlisten))),
    fun _ _ hmay hcycle hopen hfirst hdue => congrArg Host.Outcome.next (identify_due hmay hcycle hopen hfirst hdue),
    fun _ _ _ hruns hlegacy hheard hok htype hdst hlen htoken hopen =>
      congrArg Host.Outcome.next (claim_in_window hruns hlegacy hheard hok htype hdst hlen htoken hopen),
    fun _ _ hopen hmay => congrArg Host.Outcome.next (rollcallWindowClose_open hopen hmay),
    fun _ _ _ hlife => ⟨congrArg Host.Outcome.next (if_neg hlife),
      fun hlatched => congrArg Host.Outcome.next (inputLatchExpire_latched hlife hlatched)⟩,
    fun _ _ _ _ _ hfirst =>
      ⟨fun ⟨_, hl, hrun, hdead⟩ =>
          congrArg Host.Outcome.next ((outputCapture_first hfirst).trans (if_pos (captureStuck_of_channel hl hrun hdead))),
        fun ⟨_, hw, _, hk, hline, hepoch⟩ =>
          congrArg Host.Outcome.next ((outputCapture_first hfirst).trans (if_pos (captureStuck_of_write hw hk hline hepoch))),
        fun hfree ht => congrArg Host.Outcome.next
          ((outputCapture_first hfirst).trans ((if_neg (ne_true_of_eq_false hfree)).trans (takeCapture_first hfirst ht)))⟩,
    fun _ _ _ _ _ hlisten hlegacy hheard hok htype hdst hlen haddr haok habsent hclaim =>
      congrArg Host.Outcome.next
        (assignReceived_claimed hlisten hlegacy hheard hok htype hdst hlen haddr haok habsent hclaim),
    fun _ _ hlisten hlegacy => congrArg Host.Outcome.next (listenMissWindow_listens hlisten hlegacy),
    fun _ _ hruns heth => congrArg Host.Outcome.next (if_pos ⟨hruns, heth⟩),
    fun _ _ _ _ _ _ _ hqueue hread hcmd => congrArg Host.Outcome.next (mdioDone_answered hqueue hread hcmd),
    fun _ _ _ hrole hnew hopen hdue hlegacy => congrArg Host.Outcome.next (tokenChange_nymzel hrole hnew hopen hdue hlegacy)⟩
end Sys2Proof.Machine

/-! # A link port that still counts replays -/
namespace Sys2Proof.Machine
/-- Mirror port 0 is UP and RUNNING and holds no frame, but still counts a replay of frame 0. -/
def countedReplay : State :=
  { readyOnMq0 with
    life := vmod readyOnMq0.life (lifeOfLink (.mir 0)) fun u => { u with life := .running }
    mir := { readyOnMq0.mir with port := vmod readyOnMq0.mir.port 0 fun k => { k with link := .up, replays := [(0, 1)] } } }
/-- The next frame in order, which asks for no replay. -/
def nextHdr : LinkHdr := ⟨false, (linkOf countedReplay (.mir 0)).ackseq + 1, 0⟩
/-- The model forgets the replays of every frame that is no longer held, whenever it takes an acknowledgement. -/
theorem receive_forgets_replays : (linkOf (receive (.mir 0) nextHdr (.ack 0 false) countedReplay).2 (.mir 0)).replays = [] := by
  decide +kernel
/-- Refutes O46: its first clause has a frame that is next in order change only GOT, ACKSEQ and what the port owes, but each received
header is an acknowledgement too (R397, `takeAck`), and the port then keeps replay counts of the frames in its window only. The clause
asks for an empty window and not for empty counts, so that in `countedReplay` the count of frame 0 would have to stay. -/
theorem not_mirrorFrames : ¬ Obligations.MirrorFrames := by
  unfold Obligations.MirrorFrames
  rintro ⟨hreceive, -⟩
  obtain ⟨t, ht, hlink, -⟩ := hreceive (.mir 0) nextHdr (.ack 0 false) countedReplay (by decide +kernel) rfl (by decide +kernel)
    (by decide +kernel) (by decide +kernel) (by decide +kernel) (by decide +kernel)
  have hnone := receive_forgets_replays
  rw [ht, hlink] at hnone
  exact absurd hnone (by decide +kernel)
end Sys2Proof.Machine

/-! # Confluence frames (chapter 14) -/
namespace Sys2Proof.Machine
/-! ## Frames that are received -/
section frames
variable {l : LinkId} {p : Fin 3} {hd : LinkHdr} {m : LinkMsg} {au : Nat} {f : State → State} {s t : State}
theorem onFrame_arrives (h : Arrives l hd m au s t) : onFrame l hd m au f s = f t := by
  obtain ⟨hreceive, hholds, -⟩ := h
  simp only [onFrame, hreceive, permitted, hholds, Bool.not_true, Bool.false_eq_true, if_false, if_true]
theorem confFrame_arrives (h : Arrives (.conf p) hd m au s t) : confFrame p hd m au f s = f t := by
  unfold confFrame
  rw [h.2.2 p rfl, Bool.and_false, if_neg Bool.false_ne_true]
  exact onFrame_arrives h
theorem onConfFrame_arrives (h : Arrives (.conf p) hd m au s t) (hidle : t.slu.phase = .idle) : onConfFrame p hd m au f s = f t :=
  (confFrame_arrives h).trans (if_pos hidle)
theorem fromMember_of (h : OfMember p t) : fromMember p f t = f t := by
  obtain ⟨-, hmember, hlost⟩ := h
  refine if_pos ⟨hmember, ?_⟩
  rw [hlost]
  rfl
theorem onConfFrame_member (h : Arrives (.conf p) hd m au s t) (hmem : OfMember p t) :
    onConfFrame p hd m au (fromMember p f) s = f t :=
  (onConfFrame_arrives h hmem.1).trans (fromMember_of hmem)
theorem confFrame_member (h : Arrives (.conf p) hd m au s t) (hmem : OfMember p t) :
    confFrame p hd m au (fromMember p f) s = f t :=
  (confFrame_arrives h).trans (fromMember_of hmem)
end frames
/-! ## Forming -/
section forming
variable {p : Fin 3} {hd : LinkHdr} {s t : State}
theorem takeMembers_forms {m : BitVec 4} (h : s.conf.form ≠ .formed) : (takeMembers m s).conf.form = .formed ∧
    (takeMembers m s).conf.members = m ∧ (takeMembers m s).conf.lost = 0 ∧ (takeMembers m s).ret = s.ret := by
  unfold takeMembers
  rw [if_neg h]
  dsimp only
  rw [State.raise_conf, State.raise_ret]
  exact ⟨rfl, rfl, rfl, rfl⟩
theorem formedFrame_arrives {m : BitVec 4} (h : Arrives (.conf p) hd (.formed m) auPeer s t) (hidle : t.slu.phase = .idle)
    (hslot : slotAt t p = 0) (hself : m.getLsbD t.slot = true) : formedFrame p hd m s = takeMembers m t :=
  (onConfFrame_arrives h hidle).trans (if_pos ⟨hslot, hself⟩)
theorem confFormTimeout_forming (hform : s.conf.form = .forming) (hjoin : s.conf.firstJoin.isSome = true) :
    ∃ other j, (s.slot ≠ 0 ∨ s.conf.chips ≤ 2 → other = (1, 0)) ∧ confFormTimeout s =
      (onConf s.draw.2 fun k => { k with form := .failed, reason := ((formFault s).getD other).1 }).raise 0x0E11 0
        [(16, ((formFault s).getD other).1), (17, j)] := by
  have hgo : ¬(s.conf.form ≠ .forming ∨ s.conf.firstJoin.isNone = true) := by
    rw [hform]
    refine not_or.2 ⟨not_not.2 rfl, ?_⟩
    rwa [Option.isNone_iff_eq_none, ← ne_eq, ← Option.isSome_iff_ne_none]
  refine ⟨if s.slot = 0 ∧ 2 < s.conf.chips then (1 + bits s.draw.1 0 8 % 6, bits s.draw.1 8 8 % s.conf.chips) else (1, 0), _,
    fun hfew => if_neg fun h => ?_, (if_neg hgo).trans rfl⟩
  omega
theorem confFormTimeout_fails (hform : s.conf.form = .forming) (hjoin : s.conf.firstJoin.isSome = true) :
    (confFormTimeout s).conf.form = .failed ∧ (confFormTimeout s).ret = s.ret ∧
      (∀ r j, formFault s = some (r, j) → (confFormTimeout s).conf.reason = r) ∧
      (formFault s = none → s.slot ≠ 0 ∨ s.conf.chips ≤ 2 → (confFormTimeout s).conf.reason = 1) := by
  obtain ⟨other, j, hother, hrun⟩ := confFormTimeout_forming hform hjoin
  rw [hrun, State.raise_conf, State.raise_ret]
  refine ⟨rfl, rfl, fun r k hfault => ?_, fun hnone hfew => ?_⟩
  · show ((formFault s).getD other).1 = r
    rw [hfault]
    rfl
  · show ((formFault s).getD other).1 = 1
    rw [hnone, hother hfew]
    rfl
end forming
/-! ## Remote accesses -/
section accesses
variable {p : Fin 3} {hd : LinkHdr} {a : BitVec 40} {bs : List Byte} {po mg : Bool} {s t u : State}
theorem wr_admitted (h : Arrives (.conf p) hd (.wr a.toNat bs po mg) auPeer s t) (hmem : OfMember p t)
    (hsome : (offerWr p a.toNat bs po s).isSome = true) (hoffer : offerWr p a.toNat bs po t = some u) :
    wr p hd a bs po mg s = u := by
  have hadmitted : (offerWr p a.toNat bs po s).isNone = false := by rwa [Option.isNone_eq_false_iff]
  unfold wr
  dsimp only
  rw [hadmitted, Bool.and_false, if_neg Bool.false_ne_true, onConfFrame_member h hmem, hoffer]
  rfl
theorem offerWr_accepted (hhere : t.here a.toNat = true) (hkept : standbyDrops t (lineOf (localOf a.toNat)) = false)
    (hheld : (t.ret.held.any (·.fp = fabricOf (.conf p))) = false)
    (htaken : takeWrite (fabricOf (.conf p)) (localOf a.toNat) (bs.map some) (tlpPoison po) false t = .accepted u) :
    offerWr p a.toNat bs po t = some (settleWeir u) := by
  have hpoison : (if po = true then some 3 else none) = tlpPoison po := rfl
  unfold offerWr
  simp only [hhere, hkept, hheld, hpoison, htaken, Bool.not_true, Bool.false_eq_true, if_false]
theorem wr_waits (hup : isUp s (.conf p) = true) (hfree : (linkOf s (.conf p)).hold = [])
    (hnext : hd.fseq = (linkOf s (.conf p)).ackseq + 1) (hholds : s.holds (arrivalOf (.conf p)) auPeer = true) (hmem : OfMember p s)
    (hnone : offerWr p a.toNat bs po s = none) :
    wr p hd a bs po mg s = holdFrame p hd (.wr a.toNat bs po mg) s := by
  obtain ⟨hidle, hmember, hlost⟩ := hmem
  have hjudged : (nextFrame s p hd && s.holds (arrivalOf (.conf p)) auPeer && isMember s p && decide (s.slu.phase = .idle)) = true := by
    simp only [nextFrame, isMember, hup, hfree, hnext, hholds, hidle, hmember, hlost, decide_true, Bool.not_false, Bool.and_true]
  unfold wr
  dsimp only
  rw [hjudged, hnone]
  exact if_pos rfl
theorem rdReq_starts {g : BitVec 16} {n : Nat} (h : Arrives (.conf p) hd (.rdReq g.toNat n a.toNat) auPeer s t) (hmem : OfMember p t)
    (hfirst : t.here a.toNat = true) (hlast : t.here (a.toNat + 256 * n - 1) = true) (hsome : 1 ≤ n) :
    rdReq p hd g n a s = takeRead (.peer g.toNat) (fabricOf (.conf p)) (localOf a.toNat / 256 * 256) (256 * n) t :=
  (onConfFrame_member h hmem).trans (if_pos ⟨hfirst, hlast, hsome⟩)
theorem rdCpl_ends {g : BitVec 16} {i : Nat} {es : List LineEntry} {r : RemRead}
    (h : Arrives (.conf p) hd (.rdCpl g.toNat i 0 es) auPeer s t) (hmem : OfMember p t)
    (hread : t.conf.reads.find? (·.tag = g.toNat) = some r) (hall : (linesFrom r.addr r.len).length ≤ r.got.length + es.length) :
    rdCpl p hd g i false es s = endRemote { r with got := r.got ++ (es.zipIdx.map fun q => (i + q.2, q.1)) } t := by
  refine (onConfFrame_member h hmem).trans ?_
  unfold takeCpl
  rw [hread]
  dsimp only
  rw [if_neg Bool.false_ne_true]
  refine if_pos ?_
  rw [List.length_append, List.length_map, List.length_zipIdx]
  exact hall
end accesses
/-! ## Spanning contexts -/
section spanning
variable {p : Fin 3} {hd : LinkHdr} {c : Fin 16} {e : Nat} {s t : State}
theorem prepare_holds (h : Arrives (.conf p) hd (.prepare c e) auPeer s t) (hmem : OfMember p t) (he : (t.ctxAt c).epoch = e) :
    prepare p hd c e s = tellPrepared (setPrep c (fun _ => ⟨1, t.now, e, 0, (t.ctxAt c).settled, none⟩) t) := by
  refine (onConfFrame_member h hmem).trans ?_
  unfold takePrepare
  dsimp only
  rw [if_neg (Nat.not_lt.2 he.ge), if_neg (not_not.2 he)]
theorem prepared_closes (h : Arrives (.conf p) hd (.prepared c e) auPeer s t) (hmem : OfMember p t) (hphase : t.conf.prep[c].phase ≠ 0)
    (he : t.conf.prep[c].epoch = e) (hhome : actsHome t c = true)
    (hall : ∀ j ∈ otherOwners t c, (t.conf.prep[c].done ||| BitVec.ofNat 4 (2 ^ slotAt t p)).getLsbD j = true) :
    prepared p hd c e s = settleWeir (closeSpanning c (setPrep c (fun k => { k with
      done := t.conf.prep[c].done ||| BitVec.ofNat 4 (2 ^ slotAt t p) }) t)) := by
  refine (onConfFrame_member h hmem).trans (congrArg settleWeir ?_)
  have hgo : ¬(t.conf.prep[c].phase = 0 ∨ t.conf.prep[c].epoch ≠ e ∨ (!actsHome t c) = true) := by
    rw [hhome]
    exact not_or.2 ⟨hphase, not_or.2 ⟨not_not.2 he, Bool.false_ne_true⟩⟩
  exact (if_neg hgo).trans (if_pos (List.all_eq_true.2 hall))
theorem commit_moves (h : Arrives (.conf p) hd (.commit c e) auPeer s t) (hmem : OfMember p t) (he : (t.ctxAt c).epoch = e)
    (hphase : t.conf.prep[c].phase ≠ 0) : commit p hd c e s =
      settleWeir (resolved c (memberClose c e (if t.conf.resolving.getLsbD c.val then forceAging c t else t))) :=
  (confFrame_member h hmem).trans (congrArg settleWeir (if_pos ⟨he.le, hphase⟩))
theorem abandon_moves {k : BitVec 3} (h : Arrives (.conf p) hd (.abandon c k.toNat e) auPeer s t) (hmem : OfMember p t)
    (he : (t.ctxAt c).epoch = e) (haging : e < terminalEpoch → agingBlocks t c (e + 1) = false) : abandon p hd c k e s =
      settleWeir (abandonNow c k.toNat (afterAbandon (t.ctxAt c)) (setPrep c (fun _ => Prep.idle) t)) := by
  refine (confFrame_member h hmem).trans (congrArg settleWeir ?_)
  have hfree : ¬(e < terminalEpoch ∧ agingBlocks t c (e + 1) = true) := fun hb => ne_true_of_eq_false (haging hb.1) hb.2
  unfold memberAbandon
  dsimp only
  rw [if_neg (Nat.not_lt.2 he.ge), if_neg (not_not.2 he), if_neg fun hb => hb.1 hmem.1, if_neg hfree]
end spanning
/-! ## Members that resolve their contexts: `resolving` loses the context's bit and nothing else changes it -/
section resolving
variable {s : State} {l : LinkId} {c : Fin 16}
@[simp] theorem onLink_conf_resolving {f} : (onLink s l f).conf.resolving = s.conf.resolving := by
  cases l <;> rfl
@[simp] theorem pump_conf_resolving {n : Nat} : (pump l n s).conf.resolving = s.conf.resolving := by
  induction n generalizing s with
  | zero => rfl
  | succ n ih =>
    unfold pump
    dsimp only
    split
    · rfl
    · split
      · exact ih.trans (onLink_conf_resolving.trans onLink_conf_resolving)
      · rfl
@[simp] theorem sendTo_conf_resolving {js m} : (sendTo js m s).conf.resolving = s.conf.resolving :=
  foldl_keeps (fun s => s.conf.resolving) _ (fun s j => by unfold sendOn; split <;> simp) _ _
@[simp] theorem duePacket_conf {k : PktDue} : (duePacket k s).conf = s.conf := by
  unfold duePacket
  split <;> rfl
@[simp] theorem dueContext_conf : (dueContext c s).conf = s.conf := by
  unfold dueContext
  split
  · rfl
  · split
    · rfl
    · split
      · rfl
      · exact duePacket_conf
@[simp] theorem ctxChanged_conf_resolving : (ctxChanged c s).conf.resolving = s.conf.resolving := by
  unfold ctxChanged
  split <;> simp
@[simp] theorem toMode_conf {m : CtxMode} : (toMode c m s).conf = s.conf := by
  unfold toMode
  dsimp only
  split
  · rfl
  · rw [State.raise_conf]
    rfl
@[simp] theorem abandonNow_conf_resolving {cause next} : (abandonNow c cause next s).conf.resolving = s.conf.resolving := by
  unfold abandonNow
  split
  · rfl
  · rw [ctxChanged_conf_resolving, tellAbandoned_conf, toMode_conf, abandonEpoch_conf]
theorem forceAging_conf : (forceAging c s).conf = s.conf := by
  unfold forceAging
  dsimp only
  split
  · rfl
  · exact foldl_keeps State.conf (fun s l => agingVisit c l s) (fun _ _ => agingVisit_conf _) _ _
theorem resolved_conf_resolving (h : s.conf.resolving.getLsbD c.val = true) :
    (resolved c s).conf.resolving = s.conf.resolving &&& ~~~(BitVec.ofNat 16 (2 ^ c.val)) := by
  unfold resolved
  rw [if_pos h, abandonNow_conf_resolving, forceAging_conf]
  rfl
theorem getLsbD_twoPow_iff {i : Nat} : (BitVec.ofNat 16 (2 ^ c.val)).getLsbD i = true ↔ i = c.val := by
  have hc := c.isLt
  rw [BitVec.getLsbD_ofNat, Nat.testBit_two_pow, Bool.and_eq_true, decide_eq_true_iff, decide_eq_true_iff]
  omega
/-- A member that resolves one context only ends it at the time-out; with none left the time-out does nothing. -/
theorem resolveTimeout_none {is : List Nat} (h : s.conf.resolving = 0) : is.foldl (fun s i =>
    if s.conf.resolving.getLsbD i then resolved (fin16 i) (setPrep (fin16 i) (fun _ => Prep.idle) s) else s) s = s := by
  induction is with
  | nil => rfl
  | cons i is ih => rw [List.foldl_cons, if_neg (by rw [h]; simp), ih]
theorem resolveTimeout_one {is : List Nat} (h : s.conf.resolving = BitVec.ofNat 16 (2 ^ c.val)) (hmem : c.val ∈ is) : is.foldl (fun s i =>
    if s.conf.resolving.getLsbD i then resolved (fin16 i) (setPrep (fin16 i) (fun _ => Prep.idle) s) else s) s =
      resolved c (setPrep c (fun _ => Prep.idle) s) := by
  induction is with
  | nil => exact absurd hmem List.not_mem_nil
  | cons i is ih =>
    rw [List.foldl_cons]
    by_cases hi : i = c.val
    · have hbit : s.conf.resolving.getLsbD i = true := h ▸ getLsbD_twoPow_iff.2 hi
      have hfin : fin16 i = c := hi ▸ Fin.ofNat_val_eq_self c
      rw [if_pos hbit, hfin]
      refine resolveTimeout_none ?_
      rw [resolved_conf_resolving (s := setPrep c (fun _ => Prep.idle) s) (hi ▸ hbit)]
      show s.conf.resolving &&& _ = 0
      rw [h, BitVec.and_not_self]
    · have hbit : ¬s.conf.resolving.getLsbD i = true := fun hb => hi (getLsbD_twoPow_iff.1 (h ▸ hb))
      rw [if_neg hbit]
      exact ih ((List.mem_cons.1 hmem).resolve_left (Ne.symm hi))
end resolving
/-! ## Roles and lost peers -/
section roles
variable {p : Fin 3} {hd : LinkHdr} {s t : State}
theorem switchFrame_standby {k : Nat} (h : Arrives (.conf p) hd (.switch k) auPeer s t) (hmem : OfMember p t) (hrole : t.mir.role = .standby) :
    switchFrame p hd k s = settleWeir (switchover k false t) := by
  refine (onConfFrame_member h hmem).trans (congrArg settleWeir ?_)
  unfold takeSwitch
  rw [hrole]
theorem askHandOver_now {b : Bool} (h : switchWaits t = false) : askHandOver b t = handOver t := if_neg (ne_true_of_eq_false h)
theorem takeSwitch_handsOver {m} (hrole : t.mir.role = .primary) (hwaits : switchWaits t = false) (hhanding : t.mir.handing = false)
    (hpartner : t.mir.partner = some m) (hstands : m.role = 2) : takeSwitch 3 t = handOver t := by
  unfold takeSwitch
  simp only [hrole, hpartner, hstands, hhanding, askHandOver_now hwaits, decide_true, Bool.not_false, and_self, if_true]
theorem lostFrame_declares {j : Fin 4} (h : Arrives (.conf p) hd (.lost j) auPeer s t) (hmem : OfMember p t) (hother : j.val ≠ t.slot) :
    lostFrame p hd j s = settleWeir (declareLost j.val t) :=
  (onConfFrame_member h hmem).trans (congrArg settleWeir (if_neg hother))
theorem peerLost_declares {j : Fin 4} (hother : j.val ≠ s.slot) (hmember : s.conf.members.getLsbD j.val = true)
    (hthere : s.conf.lost.getLsbD j.val = false) :
    peerLost j s = sendTo (peers (declareLost j.val s)) (.lost j.val) (declareLost j.val s) := by
  refine if_neg ?_
  rw [hmember, hthere]
  exact not_or.2 ⟨hother, not_or.2 ⟨Bool.false_ne_true, Bool.false_ne_true⟩⟩
end roles
/-- Settles O49: frame by frame, on the state that the link leaves. -/
theorem confluenceFrames : Obligations.ConfluenceFrames := by
  refine ⟨fun s hform hchips => ?_, fun p h j s t ha hidle hform => ?_, fun p h m s t ha hidle hslot hself hform => ?_,
    fun s hform hjoin => ⟨_, rfl, confFormTimeout_fails hform hjoin⟩, fun s hform => ?_, fun p h a bs po mg s t ha hmem hsome => ⟨?_, ?_⟩,
    fun p h a bs po mg s hup hfree hnext hholds hmem hnone => congrArg Host.Outcome.next (wr_waits hup hfree hnext hholds hmem hnone),
    fun p h g n a s t ha hmem h1 h2 h3 => congrArg Host.Outcome.next (rdReq_starts ha hmem h1 h2 h3),
    fun p h g i es r s t ha hmem hr hall => congrArg Host.Outcome.next (rdCpl_ends ha hmem hr hall),
    fun p h c e s t hmem he => ⟨?_, ?_, ?_, ?_⟩, fun p h es s t ha hmem => congrArg Host.Outcome.next (confFrame_member ha hmem),
    fun c s hone => ?_, fun p h c r e es s t hmem => ⟨?_, ?_, ?_, ?_⟩, fun p h r k j s t hmem => ⟨?_, ?_, ?_, ?_⟩,
    fun j s h1 h2 h3 => congrArg (fun t => Host.Outcome.next (settleWeir t)) (peerLost_declares h1 h2 h3), fun p s hup => ⟨?_, ?_⟩⟩
  · refine congrArg Host.Outcome.next (if_neg ?_)
    exact not_or.2 ⟨not_not.2 hform, hchips⟩
  · exact congrArg Host.Outcome.next ((onConfFrame_arrives ha hidle).trans (if_neg hform))
  · exact ⟨_, congrArg Host.Outcome.next (formedFrame_arrives ha hidle hslot hself), takeMembers_forms hform⟩
  · exact congrArg Host.Outcome.next (if_neg (not_not.2 hform))
  · exact fun u hu => congrArg Host.Outcome.next (wr_admitted ha hmem hsome hu)
  · exact fun u hhere hkept hheld htaken =>
      congrArg Host.Outcome.next (wr_admitted ha hmem hsome (offerWr_accepted hhere hkept hheld htaken))
  · exact fun ha => congrArg Host.Outcome.next (prepare_holds ha hmem he)
  · exact fun ha h1 h2 h3 h4 => congrArg Host.Outcome.next (prepared_closes ha hmem h1 h2 h3 h4)
  · exact fun ha h1 => congrArg Host.Outcome.next (commit_moves ha hmem he h1)
  · exact fun k ha h1 => congrArg Host.Outcome.next (abandon_moves ha hmem he h1)
  · exact congrArg (fun t => Host.Outcome.next (settleWeir t)) (resolveTimeout_one hone (List.mem_range.2 c.isLt))
  · exact fun ha => congrArg Host.Outcome.next (onConfFrame_member ha hmem)
  · exact fun ha => congrArg Host.Outcome.next (onConfFrame_member ha hmem)
  · exact fun ha => congrArg Host.Outcome.next (onConfFrame_member ha hmem)
  · exact fun ha => congrArg Host.Outcome.next (onConfFrame_member ha hmem)
  · exact fun ha => congrArg Host.Outcome.next (onConfFrame_member ha hmem)
  · exact fun ha hrole => congrArg Host.Outcome.next (switchFrame_standby ha hmem hrole)
  · rintro ha hrole hwaits hhanding ⟨m, hpartner, hstands⟩
    exact congrArg Host.Outcome.next ((onConfFrame_member ha hmem).trans
      (congrArg settleWeir (takeSwitch_handsOver hrole hwaits hhanding hpartner hstands)))
  · exact fun ha hother => congrArg Host.Outcome.next (lostFrame_declares ha hmem hother)
  · exact congrArg Host.Outcome.next (if_pos hup)
  · exact congrArg Host.Outcome.next (if_pos hup)
end Sys2Proof.Machine

/-! # What the work of T0 leaves of the device state, the save, the host stream and the waiting reads (chapter 06)

The steps that T0 takes one after the other each set what they are for; none of them undoes what another has set. `Steady` says so
of every operation that they are made of. -/
namespace Sys2Proof.Machine
section steady
variable {s t u : State}
/-- What T0 sets once, in one of its steps, and its other steps leave. -/
structure T0View where
  phase : SPhase
  cause : Nat
  pending : Option Nat
  pfail : Bool
  dev : BitVec 3
  stream : List HostTlp
  queues : Fin 4 → MqState
  winDue : List (Fin 12 × BitVec 16 × Fin 64 × Window)
  windows : Vector Window 64
  segs : AMap Seg
  ctxT0 : List CtxRec
/-- See `T0View`. -/
def State.t0View (s : State) : T0View where
  phase := s.slu.phase
  cause := s.slu.cause
  pending := s.slu.pending
  pfail := s.slu.pfail
  dev := s.glb.state
  stream := s.host.stream
  queues := fun q => s.host.mq[q].state
  winDue := s.host.winDue
  windows := s.ret.windows
  segs := s.ret.segs
  ctxT0 := s.slu.ctxT0
/-- From `s` to `t`, nothing of `T0View` changed, and where no read or no held write waited, none waits. -/
def Steady (s t : State) : Prop :=
  t.t0View = s.t0View ∧ (s.slu.reads = [] → t.slu.reads = []) ∧ (s.ret.held = [] → t.ret.held = [])
theorem Steady.refl : Steady s s := ⟨rfl, id, id⟩
/-- An update of other parts of the state. -/
theorem Steady.same (h : Steady s t) (hu : (u.t0View, u.slu.reads, u.ret.held) = (t.t0View, t.slu.reads, t.ret.held)) : Steady s u := by
  simp only [Prod.mk.injEq] at hu
  obtain ⟨hview, hreads, hheld⟩ := hu
  obtain ⟨hview', hreads', hheld'⟩ := h
  exact ⟨hview.trans hview', fun hr => hreads.trans (hreads' hr), fun hh => hheld.trans (hheld' hh)⟩
theorem Steady.ite {c : Prop} [Decidable c] (ht : Steady s t) (hu : Steady s u) : Steady s (if c then t else u) := by
  split
  · exact ht
  · exact hu
theorem Steady.when {c : Prop} [Decidable c] (h : Steady s t) (hu : Steady s t → Steady s u) : Steady s (if c then u else t) :=
  .ite (hu h) h
theorem Steady.foldl {α : Type} {l : List α} {f : State → α → State} (hf : ∀ {u x}, Steady s u → Steady s (f u x))
    (h : Steady s t) : Steady s (l.foldl f t) :=
  foldl_invariant (P := Steady s) (fun _ _ h => hf h) h
/-- A fold over states that carries something along. -/
theorem Steady.foldl_fst {α β : Type} {l : List α} {f : State × β → α → State × β} {p : State × β}
    (hf : ∀ {p x}, Steady s p.1 → Steady s (f p x).1) (h : Steady s p.1) : Steady s (l.foldl f p).1 := by
  induction l generalizing p with
  | nil => exact h
  | cons x l ih => exact ih (hf h)
theorem Steady.foldl_snd {α β : Type} {l : List α} {f : β × State → α → β × State} {p : β × State}
    (hf : ∀ {p x}, Steady s p.2 → Steady s (f p x).2) (h : Steady s p.2) : Steady s (l.foldl f p).2 := by
  induction l generalizing p with
  | nil => exact h
  | cons x l ih => exact ih (hf h)
theorem Steady.dropsReads {p : ReadWait → Bool} (h : Steady s t) :
    Steady s (onSlu t fun x => { x with reads := x.reads.filter p }) :=
  ⟨h.1, fun hr => congrArg (List.filter p) (h.2.1 hr), h.2.2⟩
theorem Steady.store {st : Store} (h : Steady s t) : Steady s { t with store := st } := h.same rfl
theorem queues_set {v : Vector Mailbox 4} {p : Fin 4} {m : Mailbox} (hm : m.state = v[p].state) :
    (fun q : Fin 4 => (v.set p m)[q].state) = fun q => v[q].state := by
  funext q
  by_cases hq : q = p
  · subst hq
    simpa using hm
  · simp [Fin.val_ne_of_ne (Ne.symm hq)]
/-- An update of a mailbox that leaves its state. -/
theorem Steady.mailbox {p : Fin 4} {m : Mailbox} (h : Steady s t) (hm : m.state = t.host.mq[p].state) :
    Steady s { t with host := { t.host with mq := t.host.mq.set p m } } :=
  h.same (congrArg (fun qs => ({ t.t0View with queues := qs }, t.slu.reads, t.ret.held)) (queues_set hm))
theorem State.setLine_steady {l x} (h : Steady s t) : Steady s (State.setLine t l x) := h.same rfl
theorem State.onCtx_steady {c f} (h : Steady s t) : Steady s (State.onCtx t c f) :=
  h.same rfl
theorem State.onWeir_steady {f} (h : Steady s t) : Steady s (State.onWeir t f) :=
  h.same rfl
theorem State.onCopy_steady {f} (h : Steady s t) : Steady s (State.onCopy t f) :=
  h.same rfl
theorem State.setHome_steady {l bs} (h : Steady s t) : Steady s (State.setHome t l bs) := h.same rfl
theorem State.setShadow_steady {l bs} (h : Steady s t) : Steady s (State.setShadow t l bs) := h.same rfl
theorem State.freeShadow_steady {l} (h : Steady s t) : Steady s (State.freeShadow t l) := h.same rfl
theorem State.dropHome_steady {l} (h : Steady s t) : Steady s (State.dropHome t l) := h.same rfl
theorem State.setLife_steady {i l} (h : Steady s t) : Steady s (State.setLife t i l) :=
  h.same rfl
theorem State.emit_steady {o} (h : Steady s t) : Steady s (State.emit t o) :=
  h.same rfl
theorem State.setPba_steady {p} (h : Steady s t) : Steady s (State.setPba t p) :=
  h.same rfl
theorem State.msix_steady {v} (h : Steady s t) : Steady s (State.msix t v) :=
  Steady.ite (State.emit_steady h) (State.setPba_steady h)
theorem State.pushEvent_steady {q e} (h : Steady s t) : Steady s (State.pushEvent t q e) :=
  Steady.ite (h.mailbox rfl) (Steady.ite (State.msix_steady (State.emit_steady (h.mailbox rfl))) (State.emit_steady (h.mailbox rfl)))
theorem State.deliver_steady {e} (h : Steady s t) : Steady s (State.deliver t e) := by
  unfold State.deliver
  dsimp only
  generalize hs1 : List.foldl _ t _ = s1
  have h1 : Steady s s1 := hs1 ▸ Steady.foldl (fun h => Steady.ite (State.pushEvent_steady h) h) h
  repeat' split
  all_goals exact h1.same rfl
theorem State.raise_steady {code inst data} (h : Steady s t) : Steady s (State.raise t code inst data) :=
  State.deliver_steady h
theorem State.noteRaised_steady {code key} (h : Steady s t) : Steady s (State.noteRaised t code key) :=
  h.same rfl
theorem State.raiseLim_steady {code key inst data} (h : Steady s t) : Steady s (State.raiseLim t code key inst data) :=
  Steady.ite (State.raise_steady (State.noteRaised_steady h)) h
theorem State.blame_steady {k} (h : Steady s t) : Steady s (State.blame t k) :=
  h.same rfl
theorem State.raiseErr_steady {code key inst k data} (h : Steady s t) : Steady s (State.raiseErr t code key inst k data) :=
  Steady.ite (State.raiseLim_steady (State.blame_steady h)) h
theorem State.toLife_steady {i l} (h : Steady s t) : Steady s (State.toLife t i l) :=
  State.raise_steady (State.setLife_steady h)
theorem State.draw_steady (h : Steady s t) : Steady s (State.draw t).2 :=
  h.same rfl
theorem onBucket_steady {i f} (h : Steady s t) : Steady s (onBucket t i f) :=
  h.same rfl
theorem State.poolFree_steady (h : Steady s t) : Steady s (State.poolFree t).2 :=
  State.draw_steady h
theorem State.allocShadow_steady {l} (h : Steady s t) : Steady s (State.allocShadow t l) :=
  State.setLine_steady (State.poolFree_steady h)
theorem bucketAdd_steady {i} (h : Steady s t) : Steady s (bucketAdd i t) :=
  .when (.when (onBucket_steady h) State.raiseErr_steady) State.raiseErr_steady
theorem State.refuseAuth_steady {p ctx opcode} (h : Steady s t) : Steady s (State.refuseAuth t p ctx opcode) :=
  State.raiseLim_steady (h.same rfl)
theorem onCmds_steady {p f} (h : Steady s t) : Steady s (onCmds t p f) := by
  dsimp only [onCmds]
  split
  · exact h.mailbox rfl
  · exact Steady.ite (h.same rfl) h
theorem wake_steady {f} (h : Steady s t) : Steady s (wake f t) :=
  Steady.foldl (fun h => onCmds_steady h) h
theorem abortAll_steady (h : Steady s t) : Steady s (abortAll t) :=
  Steady.foldl (fun h => onCmds_steady h) h
theorem ldgKick_steady (h : Steady s t) : Steady s (ldgKick t) := by
  dsimp only [ldgKick]
  split
  · exact h.same rfl
  · exact h
theorem ldgEnqueue_steady {rs} (h : Steady s t) : Steady s (ldgEnqueue rs t) :=
  ldgKick_steady (h.same rfl)
theorem ldgCut_steady (h : Steady s t) : Steady s (ldgCut t) := by
  dsimp only [ldgCut]
  split
  · exact h
  · exact (State.draw_steady h).same rfl
theorem onCfg_steady {f} (h : Steady s t) : Steady s (onCfg t f) :=
  h.same rfl
theorem aerNote_steady {bit status devSta} (h : Steady s t) : Steady s (aerNote bit status devSta t) :=
  onCfg_steady h
theorem advisory_steady (h : Steady s t) : Steady s (advisory t) :=
  bucketAdd_steady (onCfg_steady h)
theorem gaveCa_steady {req} (h : Steady s t) : Steady s (gaveCa req t) :=
  State.emit_steady (advisory_steady (aerNote_steady h))
theorem dropTlp_steady {t'} (h : Steady s t) : Steady s (dropTlp t' t) := by
  dsimp only [dropTlp]
  split
  · exact gaveCa_steady h
  · exact State.emit_steady h
  · exact h
theorem poisonMade_steady {line src m} (h : Steady s t) : Steady s (poisonMade line src m t) :=
  Steady.ite h (Steady.ite (State.raiseErr_steady ((h.same rfl).same rfl)) (h.same rfl))
theorem poisonUsedAt_steady {addr k inst} (h : Steady s t) : Steady s (poisonUsedAt addr k inst t) :=
  State.raiseErr_steady (h.same rfl)
theorem poisonUsed_steady {line k inst} (h : Steady s t) : Steady s (poisonUsed line k inst t) :=
  poisonUsedAt_steady h
theorem poisonCleared_steady {n} (h : Steady s t) : Steady s (poisonCleared n t) :=
  h.same rfl
theorem onDch_steady {c f} (h : Steady s t) : Steady s (onDch t c f) :=
  h.same rfl
theorem onFab_steady {f} (h : Steady s t) : Steady s (onFab t f) :=
  h.same rfl
theorem noteLatency_steady {r} (h : Steady s t) : Steady s (noteLatency r t) :=
  onFab_steady h
theorem takeNo_steady (h : Steady s t) : Steady s (takeNo t).2 :=
  onFab_steady h
theorem queueEntry_steady {c r} (h : Steady s t) : Steady s (queueEntry c r t) :=
  onDch_steady (takeNo_steady h)
theorem placeRead_steady {c r} (h : Steady s t) : Steady s (placeRead c r t) := by
  dsimp only [placeRead]
  split
  · exact onDch_steady h
  · exact Steady.ite (noteLatency_steady (onDch_steady h)) (onDch_steady h)
theorem place_steady {c r0} (h : Steady s t) : Steady s (place c r0 t) :=
  onDch_steady (by
    split
    · split
      · exact onDch_steady (takeNo_steady h)
      · exact queueEntry_steady (takeNo_steady h)
    · exact placeRead_steady (takeNo_steady h))
theorem enter_steady {c r} (h : Steady s t) : Steady s (enter c r t) :=
  Steady.ite (Steady.ite (onDch_steady h) h) (Steady.ite (onDch_steady h) (place_steady h))
theorem requestAs_steady {urgent fp line g write mask poison} (h : Steady s t) :
    Steady s (requestAs urgent fp line g write mask poison t) :=
  enter_steady (takeNo_steady h)
theorem request_steady {fp line g write mask poison} (h : Steady s t) : Steady s (request fp line g write mask poison t) :=
  requestAs_steady h
theorem requestRead_steady {fp line m} (h : Steady s t) : Steady s (requestRead fp line m t) :=
  Steady.foldl (fun h => request_steady h) h
theorem requestWrite_steady {fp line po} (h : Steady s t) : Steady s (requestWrite fp line po t) :=
  Steady.foldl (fun h => request_steady h) h
theorem admitWaiting_steady {c n} (h : Steady s t) : Steady s (admitWaiting c n t) := by
  induction n generalizing t with
  | zero => exact h
  | succ n ih =>
    dsimp only [admitWaiting]
    split
    · exact h
    · split
      · exact h
      · exact ih (place_steady (onDch_steady h))
theorem onLink_steady {l f} (h : Steady s t) : Steady s (onLink t l f) := by
  dsimp only [onLink]
  split
  · exact h.same rfl
  · exact h.same rfl
theorem emitFrame_steady {l f m} (h : Steady s t) : Steady s (emitFrame l f m t) :=
  State.emit_steady (onLink_steady h)
theorem pump_steady {l n} (h : Steady s t) : Steady s (pump l n t) := by
  induction n generalizing t with
  | zero => exact h
  | succ n ih =>
    dsimp only [pump]
    split
    · exact h
    · exact Steady.ite (ih (emitFrame_steady (onLink_steady h))) h
theorem sendOn_steady {l m} (h : Steady s t) : Steady s (sendOn l m t) :=
  Steady.ite h (pump_steady (onLink_steady h))
theorem sendMir_steady {m} (h : Steady s t) : Steady s (sendMir m t) :=
  Steady.foldl (fun h => Steady.ite (sendOn_steady h) h) h
theorem onPkt_steady {pseq f} (h : Steady s t) : Steady s (onPkt pseq f t) :=
  h.same rfl
theorem permitted_steady {l au} (h : Steady s t) : Steady s (permitted l au t).2 := by
  dsimp only [permitted]
  split
  · exact h
  · exact State.refuseAuth_steady h
theorem linkClear_steady {l st} (h : Steady s t) : Steady s (linkClear l st t) :=
  onLink_steady h
theorem onMir_steady {f} (h : Steady s t) : Steady s (onMir t f) :=
  h.same rfl
theorem duePacket_steady {p} (h : Steady s t) : Steady s (duePacket p t) :=
  Steady.ite (onMir_steady h) h
theorem dueEpoch_steady {c e ls} (h : Steady s t) : Steady s (dueEpoch c e ls t) := by
  dsimp only [dueEpoch]
  split
  · exact h
  · split
    · exact onMir_steady h
    · split
      · exact onPkt_steady h
      · exact duePacket_steady h
theorem dueContext_steady {c} (h : Steady s t) : Steady s (dueContext c t) := by
  dsimp only [dueContext]
  split
  · exact h
  · split
    · exact onMir_steady h
    · split
      · exact onPkt_steady h
      · exact duePacket_steady h
theorem noteLatest_steady {l} (h : Steady s t) : Steady s (noteLatest l t) :=
  Steady.ite (onMir_steady h) h
theorem resync_steady (h : Steady s t) : Steady s (resync t) :=
  onMir_steady (Steady.foldl (fun h => sendMir_steady h) h)
theorem checkLag_steady (h : Steady s t) : Steady s (checkLag t) :=
  Steady.ite (resync_steady (State.raise_steady h)) h
theorem onStore_steady {f} (h : Steady s t) : Steady s (onStore t f) :=
  h.same rfl
theorem issueOps_steady {n} (h : Steady s t) : Steady s (issueOps n t) := by
  induction n generalizing t with
  | zero => exact h
  | succ n ih =>
    dsimp only [issueOps]
    split
    · exact h
    · split
      · exact h
      · exact ih (onStore_steady h)
theorem issueAll_steady (h : Steady s t) : Steady s (issueAll t) :=
  issueOps_steady h
theorem nandOp_steady {kind use ppa bytes} (h : Steady s t) : Steady s (nandOp kind use ppa bytes t) :=
  issueAll_steady (onStore_steady (State.emit_steady h))
theorem nandRead_steady {use ppa} (h : Steady s t) : Steady s (nandRead use ppa t) :=
  Steady.ite h (nandOp_steady h)
theorem setBlk_steady {k f} (h : Steady s t) : Steady s (setBlk k f t) :=
  onStore_steady h
theorem freeBlocks_steady {ks} (h : Steady s t) : Steady s (freeBlocks ks t) :=
  Steady.foldl (fun h => nandOp_steady h) h
theorem takeBlock_steady {lun q} (h : Steady s t) : Steady s (takeBlock lun q t).2 := by
  dsimp only [takeBlock]
  split
  · exact h
  · exact setBlk_steady h
theorem wroteOther_steady {pages} (h : Steady s t) : Steady s (wroteOther pages t) :=
  onStore_steady h
theorem writeAnchor_steady (h : Steady s t) : Steady s (writeAnchor t) :=
  wake_steady (ldgEnqueue_steady (onStore_steady h))
theorem dropOldRing_steady (h : Steady s t) : Steady s (dropOldRing t) := by
  dsimp only [dropOldRing]
  split
  · exact h
  · exact Steady.ite h (Steady.ite (freeBlocks_steady (onStore_steady h)) (writeAnchor_steady h))
theorem programRing_steady {a b i pages} (h : Steady s t) : Steady s (programRing a b i pages t) :=
  wroteOther_steady (Steady.foldl (fun h => nandOp_steady (nandOp_steady h)) h)
theorem rotateRings_steady (h : Steady s t) : Steady s (rotateRings t) := by
  dsimp only [rotateRings]
  split
  · exact freeBlocks_steady (programRing_steady (takeBlock_steady (takeBlock_steady (dropOldRing_steady h))).store)
  · exact dropOldRing_steady h
theorem ringPages_steady {pages} (h : Steady s t) : Steady s (ringPages pages t).2 := by
  have hroom : ∀ {c : Prop} [Decidable c], Steady s (if c then rotateRings t else t) := Steady.ite (rotateRings_steady h) h
  dsimp only [ringPages]
  generalize hring : (if t.store.ring.a = 0 ∨ t.store.ring.index + pages.length > t.store.ncfg.ppb then rotateRings t else t) = u
  have hu : Steady s u := hring ▸ hroom
  split
  · exact hu
  · exact programRing_steady (onStore_steady hu)
theorem writeRootWith_steady {bbt} (h : Steady s t) : Steady s (writeRootWith bbt t) :=
  Steady.ite (Steady.ite (rotateRings_steady h) h) (onStore_steady (ringPages_steady (Steady.ite (rotateRings_steady h) h)))
theorem writeRoot_steady (h : Steady s t) : Steady s (writeRoot t) :=
  writeRootWith_steady h
theorem tableChanged_steady (h : Steady s t) : Steady s (tableChanged t) :=
  Steady.ite h (Steady.ite (onStore_steady h) (writeRootWith_steady (onStore_steady (ringPages_steady h))))
theorem buildSegment_steady {seg} (h : Steady s t) : Steady s (buildSegment seg t) :=
  Steady.ite h (Steady.foldl (fun h => State.setLine_steady h) (h.same rfl))
theorem noteBadRecord_steady (h : Steady s t) : Steady s (noteBadRecord t) :=
  Steady.ite (State.raiseLim_steady (h.same rfl)) (h.same rfl)
theorem fillRequest_steady {fault line} (h : Steady s t) : Steady s (fillRequest fault line t) :=
  Steady.foldl (fun h => requestAs_steady h) h
theorem fillLine_steady {fault line bad} (h : Steady s t) : Steady s (fillLine fault line bad t) := by
  have hlost : ∀ x bs, Steady s (noteBadRecord (poisonMade line 2 15
      ((({ t with free := t.free + 1 } : State).setLine line x).setHome line bs))) :=
    fun _ _ => noteBadRecord_steady (poisonMade_steady (State.setHome_steady (State.setLine_steady (h.same rfl))))
  dsimp only [fillLine]
  split
  · exact Steady.ite (fillRequest_steady (hlost _ _)) (fillRequest_steady (State.setHome_steady (State.setLine_steady h)))
  · exact fillRequest_steady (hlost _ _)
theorem faultIn_steady {line} (h : Steady s t) : Steady s (faultIn line t) :=
  Steady.ite (fillLine_steady (buildSegment_steady h)) (buildSegment_steady h)
theorem warnEpochs_steady (h : Steady s t) : Steady s (warnEpochs t) :=
  Steady.foldl (fun h => Steady.ite h (Steady.ite (State.raise_steady (State.onCtx_steady h)) h)) h
theorem relevel_steady (h : Steady s t) : Steady s (relevel t) :=
  Steady.ite h (Steady.ite (State.raise_steady (State.raise_steady (State.onWeir_steady h))) (State.raise_steady (State.onWeir_steady h)))
theorem onConf_steady {f} (h : Steady s t) : Steady s (onConf t f) :=
  h.same rfl
theorem tellPrepared_steady (h : Steady s t) : Steady s (tellPrepared t) :=
  Steady.foldl (fun h => Steady.ite (sendOn_steady (onConf_steady h)) h) h
theorem settleWeir_steady (h : Steady s t) : Steady s (settleWeir t) :=
  tellPrepared_steady (relevel_steady (warnEpochs_steady (checkLag_steady h)))
theorem notePublish_steady {c e l bs} (h : Steady s t) : Steady s (notePublish c e l bs t) :=
  Steady.foldl (fun h => by
    split
    · exact h
    · exact h.same rfl) h
theorem addPieces_steady {fp e ch poison priv ps} (h : Steady s t) : Steady s (addPieces fp e ch poison priv ps t) := by
  refine Steady.foldl (fun h => Steady.ite h ?_) h
  cases e with
  | none => exact h.same rfl
  | some c => exact notePublish_steady (h.same rfl)
theorem dropConstant_steady (h : Steady s t) : Steady s (dropConstant t) :=
  h.same rfl
theorem noteClear_steady {old new} (h : Steady s t) : Steady s (noteClear old new t) :=
  poisonCleared_steady h
theorem notePoisoned_steady {p} (h : Steady s t) : Steady s (notePoisoned p t) :=
  Steady.ite h (poisonMade_steady h)
theorem requestPiece_steady {p place v} (h : Steady s t) : Steady s (requestPiece p place v t) :=
  Steady.foldl (fun h => request_steady h) h
theorem storeHome_steady {p fresh} (h : Steady s t) : Steady s (storeHome p fresh t) :=
  requestPiece_steady (notePoisoned_steady (noteClear_steady (State.setHome_steady (State.setLine_steady h))))
theorem storeShadow_steady {p fresh} (h : Steady s t) : Steady s (storeShadow p fresh t) :=
  requestPiece_steady (notePoisoned_steady (noteClear_steady (State.setShadow_steady (State.setLine_steady
    (Steady.ite (State.allocShadow_steady h) h)))))
theorem copyToShadow_steady {l} (h : Steady s t) : Steady s (copyToShadow l t) :=
  requestWrite_steady (requestRead_steady (State.setShadow_steady (State.setLine_steady (State.allocShadow_steady h))))
theorem copyHome_steady {l} (h : Steady s t) : Steady s (copyHome l t) :=
  requestWrite_steady (requestRead_steady (State.setHome_steady (State.setLine_steady h)))
theorem leave_steady {p st flip bz stamp} (h : Steady s t) : Steady s (leave p st flip bz stamp t) :=
  State.setLine_steady (h.same rfl)
theorem keepBase_steady {l} (h : Steady s t) : Steady s (keepBase l t) :=
  State.setLine_steady h
theorem applyEpochPiece_steady {p} (h : Steady s t) : Steady s (applyEpoch_ p t) := by
  dsimp only [applyEpoch_]
  split
  · exact leave_steady (storeHome_steady h)
  · exact leave_steady (storeHome_steady h)
  · exact leave_steady (storeHome_steady h)
  · exact Steady.ite (leave_steady (storeShadow_steady (keepBase_steady (State.onCopy_steady h))))
      (leave_steady (storeHome_steady (copyToShadow_steady (keepBase_steady h))))
  · exact Steady.ite (leave_steady (storeHome_steady (keepBase_steady h)))
      (leave_steady (storeHome_steady (copyHome_steady (keepBase_steady h))))
  · exact leave_steady (storeHome_steady h)
  · exact leave_steady (storeShadow_steady h)
  · exact leave_steady (storeHome_steady h)
theorem applyLate_steady {p} (h : Steady s t) : Steady s (applyLate p t) :=
  State.freeShadow_steady (leave_steady (by
    split
    · exact storeHome_steady h
    · exact storeHome_steady h
    · exact Steady.ite (storeHome_steady h) (storeHome_steady (copyHome_steady h))
    · exact storeHome_steady h))
theorem applyLatest_steady {p} (h : Steady s t) : Steady s (applyLatest p t) := by
  dsimp only [applyLatest]
  split
  · exact leave_steady (storeHome_steady h)
  · exact leave_steady (storeHome_steady h)
  · exact leave_steady (storeHome_steady h)
theorem applyPlain_steady {p} (h : Steady s t) : Steady s (applyPlain p t) :=
  leave_steady (storeHome_steady h)
theorem applyPiece_steady {p} (h : Steady s t) : Steady s (applyPiece p t) := by
  unfold applyPiece
  extract_lets s1
  have h1 : Steady s s1 := h.same rfl
  split
  · exact Steady.ite (applyLate_steady h1) (applyEpochPiece_steady h1)
  · exact noteLatest_steady (applyLatest_steady h1)
  · exact applyPlain_steady h1
  · exact applyPlain_steady h1
theorem startFault_steady {line value} (h : Steady s t) : Steady s (startFault line value t) :=
  Steady.ite h (Steady.foldl (fun h => nandRead_steady h) (Steady.ite h (h.same rfl)))
theorem hostCompletions_steady {req f addr len} (h : Steady s t) : Steady s (hostCompletions req f addr len t) :=
  Steady.foldl (fun h => State.emit_steady h) h
theorem putLine_steady {fp l bs} (h : Steady s t) : Steady s (putLine fp l bs t) :=
  Steady.ite (dropConstant_steady h) (Steady.ite (addPieces_steady h) (Steady.ite (onDch_steady h) (applyPiece_steady (h.same rfl))))
theorem onMod_steady {n a f} (h : Steady s t) : Steady s (onMod t n a f) :=
  h.same rfl
theorem writeHeader_steady {n a} (h : Steady s t) : Steady s (writeHeader n a t) :=
  putLine_steady h
theorem latchSlot_steady {n a} (h : Steady s t) : Steady s (latchSlot n a t) :=
  Steady.ite (writeHeader_steady (onMod_steady h)) (onMod_steady h)
theorem latchBlocks_steady {addr len} (h : Steady s t) : Steady s (latchBlocks addr len t) :=
  Steady.foldl (fun h => Steady.ite h (Steady.foldl (fun h => Steady.ite (latchSlot_steady h) h) h)) h
theorem peerCompletions_steady {fp tag f addr len} (h : Steady s t) : Steady s (peerCompletions fp tag f addr len t) :=
  Steady.foldl (fun h => sendOn_steady h) h
theorem answer_steady {r f} (h : Steady s t) : Steady s (answer r f t) := by
  dsimp only [answer]
  split
  · exact Steady.ite (Steady.ite (poisonUsed_steady (State.emit_steady h)) (State.emit_steady h)) (State.emit_steady h)
  · exact Steady.ite (poisonUsed_steady (hostCompletions_steady h)) (hostCompletions_steady h)
  · exact peerCompletions_steady h
theorem askRead_steady {r} (h : Steady s t) : Steady s (askRead r t).1 := by
  refine Steady.foldl_fst (fun h => ?_) h
  dsimp only
  split
  · exact h
  · exact Steady.foldl_fst (fun h => request_steady h) h
theorem serve_steady {r} (h : Steady s t) : Steady s (serve r t) :=
  Steady.ite (answer_steady (by
    split
    · exact latchBlocks_steady (askRead_steady (h.same rfl))
    · exact askRead_steady (h.same rfl))) (onFab_steady (by
    split
    · exact latchBlocks_steady (askRead_steady (h.same rfl))
    · exact askRead_steady (h.same rfl)))
theorem faultRead_steady {r} (h : Steady s t) : Steady s (faultRead r t) :=
  Steady.foldl (fun h => Steady.ite (startFault_steady h) h) h
theorem serveReads_steady (h : Steady s t) : Steady s (serveReads t) :=
  Steady.foldl (fun h => Steady.ite (serve_steady h.dropsReads) (faultRead_steady h)) h
theorem dropReads_steady {gone} (h : Steady s t) : Steady s (dropReads gone t) :=
  onFab_steady h.dropsReads
theorem cancelCopies_steady {c} (h : Steady s t) : Steady s (cancelCopies c t) :=
  State.onCopy_steady h
theorem noteWait_steady {before} (h : Steady s t) : Steady s (noteWait before t) := h.same rfl
theorem releaseLate_steady {c} (h : Steady s t) : Steady s (releaseLate c t) :=
  h.same rfl
theorem voidWrites_steady {c e} (h : Steady s t) : Steady s (voidWrites c e t) :=
  h.same rfl
theorem onScan_steady {f} (h : Steady s t) : Steady s (onScan t f) :=
  h.same rfl
theorem onScanCtx_steady {c f} (h : Steady s t) : Steady s (onScanCtx t c f) :=
  onScan_steady h
theorem bankIn_steady {seg off len} (h : Steady s t) : Steady s (bankIn seg off len t) :=
  Steady.foldl (fun h => faultIn_steady h) h
theorem notePoisonRead_steady {c seg off len} (h : Steady s t) : Steady s (notePoisonRead c seg off len t) :=
  Steady.ite (poisonUsed_steady h) h
theorem planesAnew_steady {c ps} (h : Steady s t) : Steady s (planesAnew c ps t) :=
  onScan_steady (onScanCtx_steady h)
theorem resyncAll_steady {c} (h : Steady s t) : Steady s (resyncAll c t) :=
  planesAnew_steady h
theorem noteOverrun_steady {c} (h : Steady s t) : Steady s (noteOverrun c t) := by
  dsimp only [noteOverrun]
  split
  · exact Steady.ite h (.when (onScanCtx_steady (onScan_steady h)) fun h => State.raiseLim_steady (onScanCtx_steady h))
  · exact h
theorem queuePass_steady {c e swap} (h : Steady s t) : Steady s (queuePass c e swap t) := by
  dsimp only [queuePass]
  split
  · exact noteOverrun_steady h
  · exact Steady.ite (noteOverrun_steady h) (Steady.ite (onScan_steady (noteOverrun_steady h)) (onScan_steady (noteOverrun_steady h)))
theorem stopPasses_steady (h : Steady s t) : Steady s (stopPasses t) :=
  Steady.foldl (fun h => onScanCtx_steady h) (onScan_steady h)
theorem abortPasses_steady (h : Steady s t) : Steady s (abortPasses t) :=
  noteWait_steady (stopPasses_steady h)
theorem scanCommit_steady {c e} (h : Steady s t) : Steady s (scanCommit c e t) := by
  dsimp only [scanCommit]
  split
  · exact Steady.ite (wake_steady (State.raiseLim_steady (onScanCtx_steady (onScanCtx_steady h)))) (onScanCtx_steady h)
  · exact onScanCtx_steady h
theorem steady_of_checkSwap {c seg n r} (h : Steady s t) (hr : checkSwap c seg n t = (r, u)) : Steady s u := by
  unfold checkSwap at hr
  split at hr
  · cases hr
    exact h
  · extract_lets s1 at hr
    have hs1 : Steady s s1 := bankIn_steady h
    clear_value s1
    split at hr
    · cases hr
      exact notePoisonRead_steady hs1
    · extract_lets s2 at hr
      have hs2 : Steady s s2 := bankIn_steady (bankIn_steady hs1)
      clear_value s2
      split at hr
      · cases hr
        exact notePoisonRead_steady hs2
      · cases hr
        exact hs2
theorem checkSwap_steady {c seg n} (h : Steady s t) : Steady s (checkSwap c seg n t).2 := steady_of_checkSwap h rfl
theorem swapTake_steady {c e} (h : Steady s t) : Steady s (swapTake c e t).2 := by
  dsimp only [swapTake]
  split
  · exact h
  · split
    · exact h
    · split
      · exact wake_steady (onScanCtx_steady (checkSwap_steady h))
      · exact State.onCtx_steady (planesAnew_steady (onScanCtx_steady (checkSwap_steady h)))
theorem scanAbandon_steady {c e} (h : Steady s t) : Steady s (scanAbandon c e t) := by
  dsimp only [scanAbandon]
  split
  · exact Steady.ite (wake_steady (State.raiseLim_steady (noteWait_steady (onScan_steady (State.onCtx_steady
      (planesAnew_steady (onScanCtx_steady (onScanCtx_steady h)))))))) (resyncAll_steady (onScanCtx_steady h))
  · exact resyncAll_steady (onScanCtx_steady h)
theorem sendTo_steady {js m} (h : Steady s t) : Steady s (sendTo js m t) :=
  Steady.foldl (fun h => sendOn_steady h) h
theorem ctxChanged_steady {c} (h : Steady s t) : Steady s (ctxChanged c t) :=
  Steady.ite (sendTo_steady (dueContext_steady h)) (dueContext_steady h)
theorem toMode_steady {c m} (h : Steady s t) : Steady s (toMode c m t) :=
  Steady.ite (State.onCtx_steady h) (State.raise_steady (State.onCtx_steady h))
theorem queueAging_steady {c e} (h : Steady s t) : Steady s (queueAging c e t) :=
  State.onCtx_steady h
theorem freeShadows_steady {c e f} (h : Steady s t) : Steady s (freeShadows c e f t) :=
  Steady.foldl (fun h => State.freeShadow_steady h) h
theorem onTrib_steady {n f} (h : Steady s t) : Steady s (onTrib t n f) :=
  h.same rfl
theorem takePublishes_steady {c e capture} (h : Steady s t) : Steady s (takePublishes c e capture t) :=
  h.same rfl
theorem closeNow_steady {c src next} (h : Steady s t) : Steady s (closeNow c src next t) :=
  .when (.when (queueAging_steady (queuePass_steady (takePublishes_steady (freeShadows_steady (noteWait_steady (releaseLate_steady
    (cancelCopies_steady (State.onCtx_steady (swapTake_steady (scanCommit_steady h)))))))))) dueEpoch_steady) sendTo_steady
theorem beginClose_steady {c next} (h : Steady s t) : Steady s (beginClose c next t) :=
  Steady.ite (sendTo_steady (onConf_steady (State.onCtx_steady h))) (closeNow_steady h)
theorem abandonEpoch_steady {c cause} (h : Steady s t) : Steady s (abandonEpoch c cause t) :=
  Steady.ite h (queueAging_steady (takePublishes_steady (scanAbandon_steady (State.onCtx_steady
    (freeShadows_steady (voidWrites_steady (cancelCopies_steady (State.onCtx_steady h))))))))
theorem tellAbandoned_steady {c e cause} (h : Steady s t) : Steady s (tellAbandoned c e cause t) :=
  Steady.ite h (State.raise_steady h)
theorem abandonNow_steady {c cause next} (h : Steady s t) : Steady s (abandonNow c cause next t) :=
  Steady.ite h (ctxChanged_steady (tellAbandoned_steady (toMode_steady (abandonEpoch_steady h))))
theorem askAbandon_steady {c cause next} (h : Steady s t) : Steady s (askAbandon c cause next t) :=
  Steady.ite (onConf_steady h) (Steady.ite h (Steady.ite (State.onCtx_steady h) (.when (abandonNow_steady h) sendTo_steady)))
theorem agingVisit_steady {c line} (h : Steady s t) : Steady s (agingVisit c line t) := by
  dsimp only [agingVisit]
  split
  · exact h
  · split
    · exact h
    · split
      · exact State.dropHome_steady (State.setLine_steady h)
      · exact State.dropHome_steady (State.setLine_steady h)
      · exact State.setLine_steady h
theorem forceAging_steady {c} (h : Steady s t) : Steady s (forceAging c t) :=
  Steady.ite h (State.onCtx_steady (Steady.foldl (fun h => agingVisit_steady h) (State.onCtx_steady h)))
theorem deferredCloseTaken_steady {c} (h : Steady s t) : Steady s (deferredCloseTaken c t) := by
  dsimp only [deferredCloseTaken]
  split
  · exact h
  · exact Steady.ite h (State.raise_steady (by
    split
    · exact Steady.ite (beginClose_steady (State.onCtx_steady h)) (closeNow_steady (onConf_steady (State.onCtx_steady h)))
    · exact askAbandon_steady (State.onCtx_steady h)))
theorem abortRemote_steady {r} (h : Steady s t) : Steady s (abortRemote r t) := by
  dsimp only [abortRemote]
  split
  · exact gaveCa_steady h
  · exact h
theorem setPrep_steady {c f} (h : Steady s t) : Steady s (setPrep c f t) :=
  onConf_steady h
theorem takeDeferred_steady {c} (h : Steady s t) : Steady s (takeDeferred c t) :=
  Steady.ite (deferredCloseTaken_steady (forceAging_steady h)) h
theorem deferMember_steady {c k} (h : Steady s t) : Steady s (deferMember c k t) :=
  State.onCtx_steady h
theorem memberClose_steady {c e} (h : Steady s t) : Steady s (memberClose c e t) := by
  unfold memberClose
  extract_lets s1
  have h1 : Steady s s1 := .when h takeDeferred_steady
  exact Steady.ite h1 (Steady.ite (deferMember_steady h1) (closeNow_steady (setPrep_steady h1)))
theorem resolved_steady {c} (h : Steady s t) : Steady s (resolved c t) :=
  Steady.ite (abandonNow_steady (forceAging_steady (onConf_steady h))) h
theorem memberAbandon_steady {c cause e} (h : Steady s t) : Steady s (memberAbandon c cause e t) := by
  unfold memberAbandon
  extract_lets s1
  have h1 : Steady s s1 := .when h takeDeferred_steady
  exact Steady.ite h1 (Steady.ite (resolved_steady (setPrep_steady h1))
    (Steady.ite (deferMember_steady (setPrep_steady h1)) (abandonNow_steady (setPrep_steady h1))))
theorem takeCommit_steady {c e} (h : Steady s t) : Steady s (takeCommit c e t) :=
  Steady.ite (resolved_steady (memberClose_steady (Steady.ite (forceAging_steady h) h))) h
theorem takeResolve_steady {es} (h : Steady s t) : Steady s (takeResolve es t) :=
  Steady.foldl (fun h => Steady.ite h (Steady.ite (resolved_steady (memberClose_steady (forceAging_steady h)))
    (Steady.ite (resolved_steady (setPrep_steady h)) h))) h
theorem onPwr_steady {f} (h : Steady s t) : Steady s (onPwr t f) :=
  h.same rfl
theorem onRail_steady {r f} (h : Steady s t) : Steady s (onRail t r f) :=
  onPwr_steady h
theorem mapRails_steady {f} (h : Steady s t) : Steady s (mapRails f t) :=
  onPwr_steady h
theorem assertRst_steady {rs whole} (h : Steady s t) : Steady s (assertRst rs whole t) :=
  onPwr_steady h
theorem hubAtT0_steady {cause} (h : Steady s t) : Steady s (hubAtT0 cause t) :=
  onPwr_steady (State.onWeir_steady (Steady.ite (wake_steady (onPwr_steady h)) h))
theorem idlePins_steady {n sg} (h : Steady s t) : Steady s (idlePins n sg t) :=
  onTrib_steady h
theorem storeStaged_steady {n a} (h : Steady s t) : Steady s (storeStaged n a t) := by
  dsimp only [storeStaged]
  split
  · exact h
  · exact Steady.ite h (writeHeader_steady (onMod_steady (Steady.foldl (fun h => putLine_steady h) h)))
theorem stageInput_steady {n a u} (h : Steady s t) : Steady s (stageInput n a u t) :=
  onMod_steady (Steady.ite (onTrib_steady h) (storeStaged_steady h))
theorem stalePolicy_steady {n a} (h : Steady s t) : Steady s (stalePolicy n a t) :=
  Steady.ite (writeHeader_steady (storeStaged_steady (stageInput_steady h))) (writeHeader_steady (onMod_steady h))
theorem departEvent_steady {n a cause} (h : Steady s t) : Steady s (departEvent n a cause t) :=
  State.raise_steady h
theorem depart_steady {n a cause} (h : Steady s t) : Steady s (depart n a cause t) :=
  Steady.ite (stalePolicy_steady (departEvent_steady (onMod_steady h))) h
theorem departAll_steady {n cause} (h : Steady s t) : Steady s (departAll n cause t) :=
  Steady.foldl (fun h => depart_steady h) h
theorem endRoll_steady {n st} (h : Steady s t) : Steady s (endRoll n st t) :=
  wake_steady (onTrib_steady h)
theorem tribBegin_steady {n} (h : Steady s t) : Steady s (tribBegin n t) :=
  onTrib_steady (idlePins_steady h)
theorem storeUnlatched_steady {n} (h : Steady s t) : Steady s (storeUnlatched n t) :=
  Steady.foldl (fun h => Steady.ite (storeStaged_steady h) h) h
theorem tribQuiet_steady {n cut} (h : Steady s t) : Steady s (tribQuiet n cut t) :=
  onTrib_steady (Steady.ite (endRoll_steady (Steady.ite (storeUnlatched_steady h) h)) (Steady.ite (storeUnlatched_steady h) h))
theorem tribStopped_steady {n} (h : Steady s t) : Steady s (tribStopped n t) :=
  onTrib_steady (departAll_steady (idlePins_steady h))
theorem onSeqr_steady {n f} (h : Steady s t) : Steady s (onSeqr t n f) :=
  h.same rfl
theorem releaseLine_steady {n} (h : Steady s t) : Steady s (releaseLine n t) :=
  onTrib_steady (onSeqr_steady h)
theorem seqAgain_steady {n} (h : Steady s t) : Steady s (seqAgain n t) :=
  onSeqr_steady h
theorem seqAbort_steady {n} (h : Steady s t) : Steady s (seqAbort n t) :=
  onSeqr_steady (idlePins_steady (releaseLine_steady h))
theorem toState_steady {cc i l} (h : Steady s t) : Steady s (toState cc i l t) :=
  State.toLife_steady h
theorem dchBegin_steady {c} (h : Steady s t) : Steady s (dchBegin c t) :=
  serveReads_steady (admitWaiting_steady (onDch_steady h))
theorem toOut_steady {n a st cause} (h : Steady s t) : Steady s (toOut n a st cause t) :=
  Steady.ite h (writeHeader_steady (State.raise_steady (onMod_steady h)))
theorem tribErr_steady {n m} (h : Steady s t) : Steady s (tribErr n m t) :=
  onTrib_steady h
theorem requestValue_steady {fp line} (h : Steady s t) : Steady s (requestValue fp line t) :=
  Steady.ite h (requestRead_steady h)
theorem captureBlock_steady {n a} (h : Steady s t) : Steady s (captureBlock n a t) := by
  unfold captureBlock
  extract_lets x l k s1
  have h1 : Steady s s1 := Steady.foldl (fun h => faultIn_steady h) h
  exact Steady.ite (toOut_steady (tribErr_steady (poisonUsed_steady h1)))
    (Steady.ite (toOut_steady (onMod_steady h1)) (toOut_steady (onMod_steady h1)))
theorem takeCapture_steady {n} (h : Steady s t) : Steady s (takeCapture n t) := by
  dsimp only [takeCapture]
  split
  · exact h
  · exact Steady.foldl (fun h => requestValue_steady h) (captureBlock_steady (onTrib_steady h))
theorem finishCaptures_steady {n k} (h : Steady s t) : Steady s (finishCaptures n k t) := by
  induction k generalizing t with
  | zero => exact h
  | succ k ih => exact Steady.ite h (ih (takeCapture_steady h))
theorem dropMdio_steady {n} (h : Steady s t) : Steady s (dropMdio n t) := by
  unfold dropMdio
  extract_lets hit gone s1
  have h1 : Steady s s1 := h.same rfl
  refine Steady.foldl (fun h => ?_) h1
  split
  · exact onCmds_steady h
  · exact h
theorem abandonAll_steady (h : Steady s t) : Steady s (abandonAll t) :=
  Steady.foldl (fun h => Steady.ite (onConf_steady h) (tellAbandoned_steady (abandonEpoch_steady (forceAging_steady (setPrep_steady h))))) h
theorem cutWrites_steady (h : Steady s t) : Steady s (cutWrites t) := ⟨h.1, h.2.1, fun _ => rfl⟩
/-- The one step that empties the host stream and drops every waiting read. -/
theorem cutReads_view : (cutReads s).t0View = { s.t0View with stream := [] } ∧ (cutReads s).slu.reads = [] := by
  unfold cutReads
  extract_lets s1 s2 s3
  have h1 : Steady s s1 := Steady.foldl (fun h => by
    split
    · exact gaveCa_steady h
    · exact h) .refl
  have h2 : Steady s s2 := Steady.foldl (fun h => dropTlp_steady h) h1
  have h3 : Steady s s3 := dropReads_steady (Steady.foldl (fun h => abortRemote_steady h) h2)
  refine ⟨congrArg (fun v : T0View => { v with stream := [] }) h3.1, ?_⟩
  exact List.filter_eq_nil_iff.2 fun _ _ => by simp
theorem cutEventLog_steady {cause} (h : Steady s t) : Steady s (cutEventLog cause t) :=
  Steady.ite ((Steady.ite (ldgCut_steady h) h).same rfl) (ldgKick_steady ((Steady.ite (ldgCut_steady h) h).same rfl))
theorem shedRails_steady (h : Steady s t) : Steady s (shedRails t) :=
  Steady.foldl (fun h => onRail_steady h) (assertRst_steady h)
theorem mirrorAtT0_steady {cause} (h : Steady s t) : Steady s (mirrorAtT0 cause t) :=
  onMir_steady (linkClear_steady (linkClear_steady (Steady.ite (Steady.foldl (fun h => emitFrame_steady h) h) h)))
theorem sendResolve_steady (h : Steady s t) : Steady s (sendResolve t) :=
  Steady.ite h (sendTo_steady h)
theorem cutStore_steady (h : Steady s t) : Steady s (cutStore t) :=
  freeBlocks_steady (onStore_steady h)
theorem restartUnit_steady {i} (h : Steady s t) : Steady s (restartUnit i t) := by
  dsimp only [restartUnit]
  split
  · exact h
  · split
    · exact State.toLife_steady (State.setLife_steady h)
    · exact Steady.foldl (fun h => resyncAll_steady h) (State.toLife_steady (State.setLife_steady h))
    · exact State.toLife_steady (State.setLife_steady h)
    · exact tribBegin_steady (State.toLife_steady (State.setLife_steady h))
    · exact seqAgain_steady (State.toLife_steady (State.setLife_steady h))
    · exact linkClear_steady (State.toLife_steady (State.setLife_steady h))
    · exact linkClear_steady (State.toLife_steady (State.setLife_steady h))
theorem storeBack_steady (h : Steady s t) : Steady s (storeBack t) := by
  unfold storeBack
  extract_lets s1 s2
  have h1 : Steady s s1 := Steady.ite h (writeRoot_steady h)
  have h2 : Steady s s2 := .when h1 tableChanged_steady
  exact issueAll_steady (.when h2 rotateRings_steady)
end steady
end Sys2Proof.Machine

/-! # Saves (chapter 06) -/
namespace Sys2Proof.Machine
section save
variable {s t : State}
/-! ## Causes of a save -/
section causes
theorem askSave_of_running {c : Nat} (hcore : s.boot.coreOut = true) (hstate : s.glb.state = 1 ∨ s.glb.state = 2)
    (hfree : s.slu.pending = none) : askSave c s = onSlu s fun x => { x with pending := some c, askedAt := s.now } := by
  have hnot : ∀ k : BitVec 3, k ≠ 1 → k ≠ 2 → ¬s.glb.state = k := fun k h1 h2 hk => hstate.elim (h1 <| hk ▸ ·) (h2 <| hk ▸ ·)
  have h4 : ¬(s.glb.state = 0 ∨ s.glb.state = 4 ∧ (!s.slu.everRestored) = true ∧ s.slu.pending.isNone = true) :=
    not_or.2 ⟨hnot 0 (by decide) (by decide), fun h => hnot 4 (by decide) (by decide) h.1⟩
  unfold askSave
  rw [if_neg (hnot 3 (by decide) (by decide)), if_neg (by simp [hcore]), if_neg h4]
  simp [onSlu, hfree]
theorem vinTrip_asks {mv : Nat} (hcore : s.boot.coreOut = true) (hstate : s.glb.state = 1 ∨ s.glb.state = 2)
    (hfree : s.slu.pending = none) (hlow : mv < s.slu.trip) : vinTrip mv s = onSlu s fun x => { x with
      vin := sat 12 mv, inputGood := false, pending := some 1, askedAt := s.now } := by
  unfold vinTrip
  extract_lets s1
  have hgood : s1 = onSlu s fun x => { x with vin := sat 12 mv, inputGood := false } := by
    simp [s1, onSlu, Nat.not_le.2 hlow]
  rw [if_pos hlow, askSave_of_running (s := s1) hcore hstate hfree, hgood]
  rfl
theorem refclkLoss_asks (hcore : s.boot.coreOut = true) (hstate : s.glb.state = 1 ∨ s.glb.state = 2)
    (hfree : s.slu.pending = none) : refclkLoss s = onSlu (onPwr s fun p => { p with refclk := false, holdover := true })
      fun x => { x with pending := some 4, askedAt := s.now } := by
  unfold refclkLoss
  rw [hcore]
  exact askSave_of_running hcore hstate hfree
theorem toDev_view {x : BitVec 3} : (s.toDev x).t0View = { s.t0View with dev := x } := by
  unfold State.toDev
  dsimp only
  split
  · rfl
  · exact (State.raise_steady (s := { s with glb := { s.glb with state := x } }) .refl).1
theorem toDev_state {x : BitVec 3} : (s.toDev x).glb.state = x := congrArg T0View.dev toDev_view
theorem sramUncorrectable_steady {array cls : Nat} (h : Steady s t) : Steady s (sramUncorrectable array cls t) :=
  State.raiseErr_steady (h.same rfl)
theorem internalUe_halts {b : Bool} (hcore : s.boot.coreOut = true) (hstate : s.glb.state = 1 ∨ s.glb.state = 2)
    (hfree : s.slu.pending = none) : (internalUe b s).glb.state = 4 ∧ (internalUe b s).boot.haltCause = 3 ∧
      (internalUe b s).slu.pending = some 8 := by
  unfold internalUe
  rw [if_pos hcore]
  generalize hs1 : sramUncorrectable 3 (if b then 0x02 else 0x01) s = s1
  have hview : s1.t0View = s.t0View := hs1 ▸ (sramUncorrectable_steady .refl).1
  have hcore1 : s1.boot.coreOut = true := by rw [← hs1, sramUncorrectable, State.raiseErr_boot_coreOut, hcore]
  have hdev : s1.glb.state = s.glb.state := congrArg T0View.dev hview
  have hfree1 : s1.slu.pending = none := (congrArg T0View.pending hview).trans hfree
  rw [← hdev] at hstate
  have h3 : ¬s1.glb.state = 3 := by
    rcases hstate with h | h <;> rw [h] <;> decide
  dsimp only
  rw [if_neg (by simp [hcore1]), if_neg h3, if_pos hstate, askSave_of_running hcore1 hstate hfree1]
  exact ⟨toDev_state, rfl, congrArg T0View.pending toDev_view⟩
end causes
/-! ## T0 -/
section t0
theorem releaseFrame_steady {p : Fin 3} {f : BitVec 16} {m : LinkMsg} (hact : ∀ {u}, Steady s u → Steady s (confAct p m u))
    (h : Steady s t) : Steady s (releaseFrame p f m t) :=
  have h1 := permitted_steady (onLink_steady h)
  Steady.ite (hact h1) h1
theorem fromMember_steady {p : Fin 3} {f : State → State} (hf : ∀ {u}, Steady s u → Steady s (f u)) (h : Steady s t) :
    Steady s (fromMember p f t) := Steady.ite (hf h) h
theorem confAct_commit_steady {p : Fin 3} {c e : Nat} (h : Steady s t) : Steady s (confAct p (.commit c e) t) :=
  fromMember_steady (f := fun s => settleWeir (takeCommit (fin16 c) e s)) (fun h => settleWeir_steady (takeCommit_steady h)) h
theorem confAct_abandon_steady {p : Fin 3} {c k e : Nat} (h : Steady s t) : Steady s (confAct p (.abandon c k e) t) :=
  fromMember_steady (f := fun s => settleWeir (memberAbandon (fin16 c) k e s)) (fun h => settleWeir_steady (memberAbandon_steady h)) h
theorem confAct_resolve_steady {p : Fin 3} {es : List (Nat × Nat)} (h : Steady s t) : Steady s (confAct p (.resolve es) t) := by
  unfold confAct
  exact fromMember_steady (fun h => settleWeir_steady (takeResolve_steady h)) h
theorem cutHolds_steady (h : Steady s t) : Steady s (cutHolds t) := by
  refine Steady.foldl (fun h => Steady.foldl (fun h => ?_) h) h
  split
  · rename_i heq
    exact heq ▸ releaseFrame_steady confAct_commit_steady h
  · rename_i heq
    exact heq ▸ releaseFrame_steady confAct_abandon_steady h
  · rename_i heq
    exact heq ▸ releaseFrame_steady confAct_resolve_steady h
  · exact onLink_steady h
theorem endHold_steady (h : Steady s t) : Steady s (endHold t) := by
  unfold endHold
  split
  · exact h
  · exact State.onWeir_steady h
theorem stopPort_steady {i : Nat} (h : Steady s t) : Steady s (abortUnit .trib i t) := by
  have h1 : Steady s (dropMdio i (finishCaptures (Fin.ofNat 12 i) 1024 (tribQuiet (Fin.ofNat 12 i) true t))) :=
    dropMdio_steady (finishCaptures_steady (tribQuiet_steady h))
  exact tribStopped_steady (Steady.ite (seqAbort_steady h1) h1)
theorem stopPorts_steady (h : Steady s t) : Steady s (stopPorts t) := Steady.foldl (fun h => Steady.ite (stopPort_steady h) h) h
theorem startDch_steady (h : Steady s t) : Steady s (startDch t) :=
  Steady.foldl (fun h => Steady.ite (dchBegin_steady (toState_steady h)) h) h
/-- The save engine and the store. -/
def State.saved (s : State) : Slu × Store := (s.slu, s.store)
theorem onLink_saved {l : LinkId} {f : LinkPort → LinkPort} : (onLink s l f).saved = s.saved := by
  cases l <;> rfl
theorem pump_saved {l : LinkId} {n : Nat} : (pump l n s).saved = s.saved := by
  induction n generalizing s with
  | zero => rfl
  | succ n ih =>
    unfold pump
    dsimp only
    split
    · rfl
    · split
      · exact ih.trans (onLink_saved.trans onLink_saved)
      · rfl
theorem sendOn_saved {l : LinkId} {m : LinkMsg} : (sendOn l m s).saved = s.saved := by
  unfold sendOn
  split
  · rfl
  · exact pump_saved.trans onLink_saved
theorem sendMir_saved {m : LinkMsg} : (sendMir m s).saved = s.saved :=
  foldl_keeps State.saved _ (fun s _ => by split; exacts [sendOn_saved, rfl]) _ _
theorem raise_saved {code inst : Nat} {d : List (Nat × Nat)} : (s.raise code inst d).saved = s.saved := by
  rw [State.saved, State.raise_slu, State.raise_store]
  rfl
theorem resync_saved : (resync s).saved = s.saved := by
  unfold resync
  extract_lets s1
  have h1 : s1.saved = s.saved := foldl_keeps State.saved _ (fun _ _ => sendMir_saved) _ _
  exact h1
theorem checkLag_saved : (checkLag s).saved = s.saved := by
  unfold checkLag
  dsimp only
  split
  · exact resync_saved.trans raise_saved
  · rfl
theorem warnEpochs_saved : (warnEpochs s).saved = s.saved :=
  foldl_keeps State.saved _ (fun s i => by
    dsimp only
    split
    · rfl
    · split
      · exact raise_saved
      · rfl) _ _
theorem relevel_saved : (relevel s).saved = s.saved := by
  unfold relevel
  dsimp only
  split
  · rfl
  · split
    · exact raise_saved.trans raise_saved
    · exact raise_saved
theorem tellPrepared_saved : (tellPrepared s).saved = s.saved :=
  foldl_keeps State.saved _ (fun s i => by
    dsimp only
    split
    · exact sendOn_saved
    · rfl) _ _
theorem settleWeir_saved : (settleWeir s).saved = s.saved :=
  tellPrepared_saved.trans (relevel_saved.trans (warnEpochs_saved.trans checkLag_saved))
theorem ldgKick_saved : (ldgKick s).saved = s.saved := by
  unfold ldgKick
  split <;> rfl
theorem ldgCut_saved : (ldgCut s).saved = s.saved := by
  unfold ldgCut
  dsimp only
  split <;> rfl
theorem cutEventLog_saved {cause : Nat} : (cutEventLog cause s).saved = s.saved := by
  unfold cutEventLog
  extract_lets torn s1
  have h1 : s1.saved = s.saved := by
    simp only [s1]
    split
    · exact ldgCut_saved
    · rfl
  clear_value s1
  dsimp only
  split
  · exact h1
  · exact ldgKick_saved.trans h1
theorem shedRails_saved : (shedRails s).saved = s.saved := by
  unfold shedRails
  refine (foldl_keeps State.saved _ (fun _ _ => ?_) _ _).trans ?_
  · rfl
  · rfl
theorem hubAtT0_saved {cause : Nat} : (hubAtT0 cause s).saved = s.saved := by
  unfold hubAtT0
  extract_lets meas s1
  have h1 : s1.saved = s.saved := by
    simp only [s1]
    split
    · rw [State.saved, wake_slu, wake_store]
      rfl
    · rfl
  exact h1
/-- T0 as far as the device state. -/
def t0State (cause : Nat) (s : State) : State := (abortAll (cutHolds (noteT0 cause s))).toDev 3
/-- T0 up to the stop of the ports. -/
def cutShort (cause : Nat) (s : State) : State :=
  cutWrites (onScan (abortPasses (abandonAll (cutReads (onBoot (t0State cause s) fun b => { b with saveDue := none })))) fun x =>
    { x with ctx := x.ctx.map fun k => { k with swap := none, rebase := true, rebaseIn := none } })
/-- The rest of T0, up to the faults that end. -/
def cutRest (cause : Nat) (s : State) : State := sendResolve (startDch (cutStore (mirrorAtT0 cause (stopPorts (endHold s)))))
theorem t0State_view {cause : Nat} : (t0State cause s).t0View = { (noteT0 cause s).t0View with dev := 3 } :=
  toDev_view.trans (congrArg (fun v : T0View => { v with dev := 3 }) (abortAll_steady (cutHolds_steady .refl)).1)
theorem cutWrites_held : (cutWrites s).ret.held = [] := rfl
theorem cutShort_view {cause : Nat} : (cutShort cause s).t0View = { (noteT0 cause s).t0View with dev := 3, stream := [] } ∧
    (cutShort cause s).slu.reads = [] ∧ (cutShort cause s).ret.held = [] := by
  have hstate : (t0State cause s).t0View = _ := t0State_view
  unfold cutShort
  generalize t0State cause s = u at hstate ⊢
  obtain ⟨hcut, hreads⟩ := cutReads_view (s := onBoot u fun b => { b with saveDue := none })
  generalize cutReads _ = w at hcut hreads ⊢
  obtain ⟨hview, hnone, -⟩ := cutWrites_steady (onScan_steady (abortPasses_steady (abandonAll_steady (Steady.refl (s := w)))))
  exact ⟨hview.trans (hcut.trans (congrArg (fun v : T0View => { v with stream := [] }) hstate)), hnone hreads, cutWrites_held⟩
theorem cutRest_steady {cause : Nat} (h : Steady s t) : Steady s (cutRest cause t) :=
  sendResolve_steady (startDch_steady (cutStore_steady (mirrorAtT0_steady (stopPorts_steady (endHold_steady h)))))
theorem Steady.noFaults (h : Steady s t) : Steady s (onSlu t fun x => { x with faults := [] }) := h.same rfl
theorem saveT0_of_pending {c : Nat} (hpending : s.slu.pending = some c) (hidle : s.slu.phase = .idle) (hboot : s.glb.state ≠ 0)
    (hsaving : s.glb.state ≠ 3) : ∃ u, u = onSlu (cutRest c (cutShort c s)) (fun x => { x with faults := [] }) ∧
      saveT0 s = hubAtT0 c (cutEventLog c (if c = 6 then u else shedRails u)) := by
  refine ⟨_, rfl, ?_⟩
  unfold saveT0 cutRest cutShort t0State
  rw [hpending]
  dsimp only [onBoot]
  exact if_neg (not_or.2 ⟨not_not.2 hidle, not_or.2 ⟨hboot, hsaving⟩⟩)
theorem saveT0_starts {c : Nat} (hpending : s.slu.pending = some c) (hidle : s.slu.phase = .idle) (hboot : s.glb.state ≠ 0)
    (hsaving : s.glb.state ≠ 3) {t : State} (ht : t = settleWeir (saveT0 s)) : t.glb.state = 3 ∧ t.slu.phase = .quiesce ∧
      t.slu.cause = c ∧ t.slu.pending = none ∧ t.slu.pfail = true ∧ t.host.stream = [] ∧ t.slu.reads = [] ∧ t.slu.faults = [] ∧
      t.ret.held = [] := by
  obtain ⟨u, hu, hrun⟩ := saveT0_of_pending hpending hidle hboot hsaving
  rw [hrun] at ht
  obtain ⟨hview, hreads, hheld⟩ := cutShort_view (s := s) (cause := c)
  have hsteady : Steady (cutShort c s) t := by
    have h8 : Steady (cutShort c s) u := hu ▸ (cutRest_steady .refl).noFaults
    exact ht ▸ settleWeir_steady (hubAtT0_steady (cutEventLog_steady (Steady.ite h8 (shedRails_steady h8))))
  have hsaved : t.saved = u.saved := by
    rw [ht, settleWeir_saved, hubAtT0_saved, cutEventLog_saved]
    split
    · rfl
    · exact shedRails_saved
  obtain ⟨hkept, hnoread, hnoheld⟩ := hsteady
  have hset := hkept.trans hview
  have hfaults : t.slu.faults = u.slu.faults := congrArg (fun p : Slu × Store => p.1.faults) hsaved
  refine ⟨congrArg T0View.dev hset, congrArg T0View.phase hset, congrArg T0View.cause hset, congrArg T0View.pending hset,
    congrArg T0View.pfail hset, congrArg T0View.stream hset, hnoread hreads, hfaults.trans (hu ▸ rfl), hnoheld hheld⟩
end t0
end save
end Sys2Proof.Machine

/-! # The programs of a save, its seal and its end (chapter 06) -/
namespace Sys2Proof.Machine
section save
variable {s t : State}
theorem slu_of_saved (h : t.saved = s.saved) : t.slu = s.slu := congrArg Prod.fst h
theorem store_of_saved (h : t.saved = s.saved) : t.store = s.store := congrArg Prod.snd h
theorem settleWeir_slu : (settleWeir s).slu = s.slu := slu_of_saved settleWeir_saved
theorem settleWeir_store : (settleWeir s).store = s.store := store_of_saved settleWeir_saved
/-! ## Reading the lines to write -/
section reading
variable {c : Fin 4} {r : DReq} {fp : Fin 23} {line : Nat}
theorem takeNo_saved : (takeNo s).2.saved = s.saved := rfl
theorem placeRead_saved : (placeRead c r s).saved = s.saved := by
  unfold placeRead
  split
  · rfl
  · split <;> rfl
theorem place_saved : (place c r s).saved = s.saved := by
  have hplaced : ∀ q : DReq, (placeRead c q (takeNo s).2).saved = s.saved := fun _ => placeRead_saved.trans takeNo_saved
  unfold place
  dsimp only
  split
  · split <;> rfl
  · exact hplaced _
theorem enter_saved : (enter c r s).saved = s.saved := by
  unfold enter
  dsimp only
  split
  · split <;> rfl
  · split
    · rfl
    · exact place_saved
theorem requestRead_saved {m : BitVec 4} : (requestRead fp line m s).saved = s.saved :=
  foldl_keeps State.saved _ (fun _ _ => enter_saved.trans takeNo_saved) _ _
theorem requestValue_saved : (requestValue fp line s).saved = s.saved := by
  unfold requestValue
  dsimp only
  split
  · rfl
  · exact requestRead_saved
theorem requestValue_ret : (requestValue fp line s).ret = s.ret := by
  unfold requestValue
  dsimp only
  split
  · rfl
  · exact requestRead_ret
theorem readNext_saved : (readNext s).saved = s.saved := by
  unfold readNext
  exact foldl_keeps State.saved _ (fun _ _ => requestValue_saved) _ _
theorem readNext_ret : (readNext s).ret = s.ret := by
  unfold readNext
  exact foldl_keeps State.ret _ (fun _ _ => requestValue_ret) _ _
end reading
/-! ## The save set -/
section quiesce
theorem counted_of_ret (h : t.ret = s.ret) : t.counted = s.counted := by
  unfold State.counted State.countsLine State.eff State.lineSeg State.seg State.ctxAt State.lineAt
  rw [h]
theorem resolveTimeout_idle (h : s.conf.resolving = 0) : resolveTimeout s = s := resolveTimeout_none h
theorem metaUnits_pos {n : Nat} : (metaUnits s n + 3) / 4 ≠ 0 := by
  unfold metaUnits
  omega
theorem toWrite_eq_nil (h : s.slu.covered = []) : toWrite s = [] ↔ s.counted = [] := by
  have hall : ∀ l ∈ s.counted.map (·.1), (!s.slu.covered.contains l) = true := by simp [h]
  unfold toWrite
  rw [List.filter_eq_self.2 hall, List.map_eq_nil_iff]
theorem advanceSave_fresh (hphase : s.slu.phase = .log) (hcovered : s.slu.covered = []) (hmeta : s.slu.metaLeft ≠ 0) :
    advanceSave s = onSlu s fun x => { x with phase := if s.counted = [] then .metadata else .log } := by
  unfold advanceSave
  by_cases hnone : s.counted = []
  · rw [if_pos ⟨hphase, (toWrite_eq_nil hcovered).2 hnone⟩, if_neg hmeta, if_pos hnone]
  · rw [if_neg fun h => hnone ((toWrite_eq_nil hcovered).1 h.2), if_neg (by simp [hphase]), if_neg hnone, onSlu, ← hphase]
/-- What a save that has its lines at rest begins with. -/
structure SaveFresh (s t : State) : Prop where
  ret : ∃ k : Copier, k.queue = [] ∧ t.ret = { s.ret with copy := k }
  phase : t.slu.phase = .log
  covered : t.slu.covered = []
  records : t.slu.records = s.counted.length
  metaLeft : t.slu.metaLeft ≠ 0
  sealLeft : t.slu.sealLeft = 3
theorem counted_of_copy {k : Copier} (h : t.ret = { s.ret with copy := k }) : t.counted = s.counted := by
  unfold State.counted State.countsLine State.eff State.lineSeg State.seg State.ctxAt State.lineAt
  rw [h]
/-- The three Confluence links go down together. -/
def cutConf (s : State) : State := [(0 : Fin 3), 1, 2].foldl (fun s p => linkClear (.conf p) .down s) s
theorem cutConf_ret : (cutConf s).ret = s.ret := rfl
theorem cutConf_saved : (cutConf s).saved = s.saved := rfl
theorem quiesceDone_begins {a : Area} (hphase : s.slu.phase = .quiesce) (hwrites : s.ret.writes = []) (hresolving : s.conf.resolving = 0)
    (hready : s.store.ready = some a) : ∃ u, SaveFresh s u ∧ quiesceDone s = advanceSave (readNext u) := by
  unfold quiesceDone
  rw [if_neg (not_not.2 hphase)]
  extract_lets s1 s2 s3 s4 fresh segs
  have h2 : s2 = s := by
    simp only [s2, s1, resolveTimeout_idle hresolving, hwrites, List.foldl_nil]
  have h3 : s3 = cutConf s := congrArg cutConf h2
  have hret3 : s3.ret = s.ret := (congrArg State.ret h3).trans cutConf_ret
  have hret : s4.ret = { s.ret with copy := s4.ret.copy } := hret3 ▸ rfl
  have hstore : s4.store = s.store := (congrArg State.store h3).trans (store_of_saved cutConf_saved)
  rw [if_neg (by rw [hstore, hready]; exact Bool.false_ne_true)]
  refine ⟨_, ?_, rfl⟩
  exact ⟨⟨s4.ret.copy, rfl, hret⟩, rfl, rfl, congrArg List.length (counted_of_copy hret), metaUnits_pos, rfl⟩
theorem SaveFresh.read (h : SaveFresh s t) : SaveFresh s (readNext t) := by
  have hslu : (readNext t).slu = t.slu := slu_of_saved readNext_saved
  obtain ⟨hret, hphase, hcovered, hrecords, hmeta, hseal⟩ := h
  rw [← readNext_ret] at hret
  rw [← hslu] at hphase hcovered hrecords hmeta hseal
  exact ⟨hret, hphase, hcovered, hrecords, hmeta, hseal⟩
theorem quiesceDone_saves {a : Area} (hphase : s.slu.phase = .quiesce) (hwrites : s.ret.writes = []) (hresolving : s.conf.resolving = 0)
    (hready : s.store.ready = some a) {t : State} (ht : t = settleWeir (quiesceDone s)) : t.slu.records = s.counted.length ∧
      t.slu.covered = [] ∧ t.slu.sealLeft = 3 ∧ t.slu.phase = (if s.counted = [] then .metadata else .log) ∧
      t.ret.lines = s.ret.lines ∧ t.ret.copy.queue = [] := by
  obtain ⟨u, hfresh, hrun⟩ := quiesceDone_begins hphase hwrites hresolving hready
  have hread := hfresh.read
  generalize readNext u = v at hread hrun
  obtain ⟨⟨k, hqueue, hret⟩, hlog, hcovered, hrecords, hmeta, hseal⟩ := hread
  rw [hrun, advanceSave_fresh hlog hcovered hmeta, counted_of_copy hret] at ht
  have hslu : t.slu = { v.slu with phase := if s.counted = [] then .metadata else .log } := by
    rw [ht, settleWeir_slu]
    rfl
  have hkept : t.ret = { v.ret with ctx := t.ret.ctx, weir := t.ret.weir } := ht ▸ (settleWeir_weirOnly _).ret_eq
  rw [hslu, hkept, hret]
  exact ⟨hrecords, hcovered, hseal, rfl, rfl, hqueue⟩
end quiesce
/-! ## A log page -/
section logPage
/-- From `s` to `t` only where the ready area lies has changed: its log and its stripe have not. -/
structure AreaKept (s t : State) : Prop where
  ret : t.ret = s.ret
  slu : t.slu = s.slu
  store : t.store = { s.store with ready := t.store.ready }
  area : ∀ a, s.store.ready = some a → ∃ b, t.store.ready = some b ∧ b.log = a.log ∧ b.stripe = a.stripe
theorem AreaKept.refl : AreaKept s s := ⟨rfl, rfl, rfl, fun a h => ⟨a, h, rfl, rfl⟩⟩
theorem AreaKept.ite {c : Prop} [Decidable c] {u : State} (ht : AreaKept s t) (hu : AreaKept s u) : AreaKept s (if c then t else u) := by
  split
  · exact ht
  · exact hu
theorem takeSpare_areaKept {f : Nat → Area → Area} (hf : ∀ p a, (f p a).log = a.log ∧ (f p a).stripe = a.stripe) :
    AreaKept s (takeSpare s f) := by
  unfold takeSpare
  split
  · exact .refl
  · split
    · exact .refl
    · rename_i a hready _ p k _
      refine ⟨rfl, rfl, rfl, fun a' ha => ?_⟩
      obtain ⟨hlog, hstripe⟩ := hf p { a' with spareUsed := k }
      exact ⟨f p { a' with spareUsed := k }, congrArg (Option.map _) ha, hlog, hstripe⟩
theorem placePage_areaKept {n : Nat} : AreaKept s (placePage n s) := by
  unfold placePage
  split
  · exact .refl
  · split
    · exact .refl
    · exact takeSpare_areaKept fun _ _ => ⟨rfl, rfl⟩
theorem toWrite_of_ret (hret : t.ret = s.ret) (hslu : t.slu = s.slu) : toWrite t = toWrite s := by
  unfold toWrite
  rw [counted_of_ret hret, hslu]
theorem poisonMade_store {l src : Nat} {m : BitVec 4} : (poisonMade l src m s).store = s.store := by
  simp [poisonMade, apply_ite State.store]
theorem recordLine_frames {l : Nat} : (recordLine l s).1.line = l ∧ (recordLine l s).2.ret = s.ret ∧ (recordLine l s).2.store = s.store := by
  unfold recordLine
  dsimp only
  split
  · exact ⟨rfl, rfl, rfl⟩
  · exact ⟨rfl, poisonMade_ret, poisonMade_store⟩
/-- The records of a page are made one after the other. -/
def recordNext (acc : List Rec × State) (l : Nat) : List Rec × State := (acc.1 ++ [(recordLine l acc.2).1], (recordLine l acc.2).2)
theorem foldl_recordNext (ls : List Nat) (acc : List Rec × State) : (ls.foldl recordNext acc).1.map (·.line) = acc.1.map (·.line) ++ ls ∧
    (ls.foldl recordNext acc).2.ret = acc.2.ret ∧ (ls.foldl recordNext acc).2.store = acc.2.store := by
  induction ls generalizing acc with
  | nil => exact ⟨(List.append_nil _).symm, rfl, rfl⟩
  | cons l ls ih =>
    obtain ⟨hlines, hret, hstore⟩ := ih (recordNext acc l)
    obtain ⟨hline, hret1, hstore1⟩ := recordLine_frames (s := acc.2) (l := l)
    refine ⟨hlines.trans ?_, hret.trans hret1, hstore.trans hstore1⟩
    simp [recordNext, hline]
theorem lineSaved_frames {l : Nat} : (lineSaved l s).store = s.store ∧ (lineSaved l s).ret.dram = s.ret.dram := by
  unfold lineSaved
  split <;> exact ⟨rfl, rfl⟩
/-- The records of a page join the log of the ready area, and their lines are saved. -/
def logRecord (s : State) (r : Rec) : State := lineSaved r.line (onReady s fun a => { a with log := a.log ++ [r] })
theorem foldl_logRecord (rs : List Rec) {a : Area} (h : s.store.ready = some a) : (∃ b, (rs.foldl logRecord s).store.ready = some b ∧
    b.log = a.log ++ rs) ∧ (rs.foldl logRecord s).ret.dram = s.ret.dram := by
  induction rs generalizing s a with
  | nil => exact ⟨⟨a, h, (List.append_nil _).symm⟩, rfl⟩
  | cons r rs ih =>
    obtain ⟨hstore, hdram⟩ := lineSaved_frames (s := onReady s fun a => { a with log := a.log ++ [r] }) (l := r.line)
    have hready : (logRecord s r).store.ready = some { a with log := a.log ++ [r] } := by
      rw [logRecord, hstore]
      exact congrArg (Option.map _) h
    obtain ⟨⟨b, hb, hlog⟩, hkept⟩ := ih hready
    exact ⟨⟨b, hb, hlog.trans (List.append_assoc _ _ _)⟩, hkept.trans hdram⟩
theorem advanceSave_frames : (advanceSave s).ret = s.ret ∧ (advanceSave s).store = s.store := by
  unfold advanceSave
  split
  · split <;> exact ⟨rfl, rfl⟩
  · split <;> exact ⟨rfl, rfl⟩
/-- The records of the page that is due. -/
def pageRecords (s : State) : List Rec × State := ((toWrite s).take 60).foldl recordNext ([], s)
theorem logDone_eq {us : Nat} : ∃ n p bs, logDone us true s = readNext ((pageRecords (placePage n s)).1.foldl logRecord
    (sluiceProgram p us true bs (pageRecords (placePage n s)).2)) := ⟨_, _, _, rfl⟩
theorem logDone_logs {us : Nat} {a : Area} (hready : s.store.ready = some a) : (∃ b, (logDone us true s).store.ready = some b ∧
    b.log.map (·.line) = a.log.map (·.line) ++ (toWrite s).take 60) ∧ (logDone us true s).ret.dram = s.ret.dram := by
  obtain ⟨n, p, bs, hrun⟩ := logDone_eq (s := s) (us := us)
  have hplaced : AreaKept s (placePage n s) := placePage_areaKept
  generalize placePage n s = s0 at hplaced hrun
  obtain ⟨a0, hready0, hlog0, -⟩ := hplaced.area a hready
  obtain ⟨hlines, hret1, hstore1⟩ := foldl_recordNext ((toWrite s0).take 60) ([], s0)
  rw [← pageRecords] at hlines hret1 hstore1
  generalize pageRecords s0 = x at hlines hret1 hstore1 hrun
  obtain ⟨⟨b, hb, hlog⟩, hdram⟩ := foldl_logRecord (s := sluiceProgram p us true bs x.2) x.1
    ((congrArg Store.ready hstore1).trans hready0)
  rw [hrun, store_of_saved readNext_saved, readNext_ret]
  refine ⟨⟨b, hb, ?_⟩, hdram.trans ((congrArg Ret.dram hret1).trans (congrArg Ret.dram hplaced.ret))⟩
  rw [hlog, List.map_append, hlog0, hlines, toWrite_of_ret hplaced.ret hplaced.slu]
  rfl
theorem saveProgramDone_logs {us : Nat} {a : Area} (hphase : s.slu.phase = .log) (hready : s.store.ready = some a) :
    (∃ b, (saveProgramDone (.log us) true s).store.ready = some b ∧ b.log.map (·.line) = a.log.map (·.line) ++ (toWrite s).take 60) ∧
      (saveProgramDone (.log us) true s).ret.dram = s.ret.dram := by
  unfold saveProgramDone
  dsimp only
  by_cases hdue : toWrite s = []
  · rw [if_neg fun h => h.2 hdue, hdue]
    exact ⟨⟨a, hready, (List.append_nil _).symm⟩, rfl⟩
  · obtain ⟨hret, hstore⟩ := advanceSave_frames (s := logDone us true s)
    rw [if_pos ⟨hphase, hdue⟩, hret, hstore]
    exact logDone_logs hready
end logPage
/-! ## The end of a save -/
section ends
theorem raisePwr_saved {code : Nat} {data : List (Nat × Nat)} : (raisePwr code data s).saved = s.saved := by
  unfold raisePwr
  split
  · rfl
  · exact raise_saved
theorem onPwr_saved {f : Pwr → Pwr} : (onPwr s f).saved = s.saved := rfl
theorem toSeq_saved {x : SeqSt} : (toSeq x s).saved = s.saved := by
  unfold toSeq
  dsimp only
  split
  · rfl
  · exact raisePwr_saved
theorem shutRails_saved {rs : List Nat} : (shutRails rs s).saved = s.saved := by
  unfold shutRails
  refine (foldl_keeps State.saved _ (fun _ _ => ?_) _ _).trans ?_
  · rfl
  · rfl
theorem startRails_saved {rs : List Nat} : (startRails rs s).saved = s.saved := by
  unfold startRails
  refine (foldl_keeps State.saved _ (fun _ _ => ?_) _ _).trans ?_
  · split <;> rfl
  · split <;> rfl
theorem nowOff_saved : (nowOff s).saved = ({ s.slu with phase := .idle, pfail := false, pending := none, held := none }, s.store) := by
  unfold nowOff
  dsimp only
  split
  · exact toSeq_saved
  · exact toSeq_saved
theorem shutdownAll_ends {n : Nat} : (shutdownAll n s).store = s.store ∧ (shutdownAll n s).slu.lastOutcome = s.slu.lastOutcome ∧
    ((shutdownAll n s).slu.phase = s.slu.phase ∨ (shutdownAll n s).slu.phase = .idle) := by
  unfold shutdownAll
  split
  · exact ⟨rfl, rfl, .inl rfl⟩
  · extract_lets s1 s2 s3
    have h1 : s1.saved = s.saved := rfl
    have h2 : s2.saved = s1.saved := onPwr_saved.trans shutRails_saved
    have h3 : s3.saved = s.saved := toSeq_saved.trans (h2.trans h1)
    clear_value s3
    split
    · have hoff := nowOff_saved (s := s3)
      rw [slu_of_saved h3, store_of_saved h3] at hoff
      exact ⟨congrArg Prod.snd hoff, congrArg (fun p : Slu × Store => p.1.lastOutcome) hoff,
        .inr (congrArg (fun p : Slu × Store => p.1.phase) hoff)⟩
    · rw [slu_of_saved h3, store_of_saved h3]
      exact ⟨rfl, rfl, .inl rfl⟩
theorem saveUnsealed_ends : (saveUnsealed s).store.ready = none ∧ (saveUnsealed s).store.unsealed = s.store.ready.or s.store.unsealed ∧
    (saveUnsealed s).store.sealed = s.store.sealed ∧ (saveUnsealed s).slu.lastOutcome = 3 := by
  unfold saveUnsealed
  extract_lets s1 s2
  obtain ⟨hstore, hlast, -⟩ := shutdownAll_ends (s := s2) (n := 1)
  rw [hstore, hlast]
  exact ⟨rfl, rfl, rfl, rfl⟩
theorem saveBankFloor_unseals (h : s.slu.phase = .quiesce ∨ s.slu.phase = .log ∨ s.slu.phase = .metadata ∨ s.slu.phase = .sealing) :
    saveBankFloor s = saveUnsealed s := by
  unfold saveBankFloor
  rcases h with h | h | h | h <;> rw [h]
theorem afterSave_ends : (afterSave s).store = s.store ∧ (afterSave s).slu.lastOutcome = saveOutcome s ∧
    ((afterSave s).slu.phase = .resuming ↔ saveOutcome s = 1) := by
  unfold afterSave
  extract_lets o s1 rs s2 s3
  split
  · rename_i ho
    have h3 : s3.saved = s1.saved := by
      simp only [s3]
      split
      · rfl
      · exact startRails_saved.trans rfl
    have hstore : s3.store = s1.store := store_of_saved h3
    have hlast : s3.slu.lastOutcome = s1.slu.lastOutcome := congrArg Slu.lastOutcome (slu_of_saved h3)
    exact ⟨hstore, hlast, fun _ => ho, fun _ => rfl⟩
  · rename_i ho
    obtain ⟨hstore, hlast, hphase⟩ := shutdownAll_ends (s := onSlu s1 fun x => { x with phase := .shutdown }) (n := 1)
    refine ⟨hstore, hlast, fun h => ?_, fun h => absurd h ho⟩
    rw [h] at hphase
    exact absurd hphase (by simp [onSlu])
end ends
/-! ## The seal -/
section sealing
theorem placeSeal_areaKept {b : Nat} : AreaKept s (placeSeal b s) := by
  unfold placeSeal
  split
  · exact .refl
  · have hspare : AreaKept s (takeSpare s fun p a => if b = 0 then { a with sealA := p } else { a with sealB := p }) :=
      takeSpare_areaKept fun _ _ => by split <;> exact ⟨rfl, rfl⟩
    exact AreaKept.ite .refl hspare
theorem sealDone_second {us : Nat} {a : Area} (hleft : s.slu.sealLeft = 2) (hready : s.store.ready = some a) :
    (∃ b, (sealDone 1 us true s).store.ready = some b ∧ b.log = a.log ∧ b.stripe = a.stripe) ∧
      (sealDone 1 us true s).store.sealed = s.store.sealed ∧
      (sealDone 1 us true s).slu = { s.slu with sealLeft := 0, sealTried := s.slu.sealTried ||| 8 } := by
  unfold sealDone
  rw [if_neg (by rw [hleft]; decide)]
  extract_lets s0 p crc s1
  have hkept : AreaKept s s0 := placeSeal_areaKept
  have hslu : s1.slu = s.slu := hkept.slu
  obtain ⟨b, hb, hlog, hstripe⟩ := hkept.area a hready
  rw [if_pos rfl]
  have hsealed : s0.store.sealed = s.store.sealed := by rw [hkept.store]
  refine ⟨⟨b, hb, hlog, hstripe⟩, hsealed, ?_⟩
  show { s1.slu with sealLeft := s1.slu.sealLeft - 2 ^ 1, sealTried := s1.slu.sealTried ||| 2 ^ (1 + 2) } = _
  rw [hslu, hleft]
  rfl
theorem savePower_saved : (savePower s).saved = s.saved := by
  unfold savePower
  split
  · rfl
  · exact ldgKick_saved
theorem saveOutcome_of_slu (h : t.slu = s.slu) : saveOutcome t = saveOutcome s := by
  unfold saveOutcome
  rw [h]
theorem saveOutcome_reportSave : saveOutcome (reportSave s) = saveOutcome s := rfl
theorem sealInstant_of_ready {a : Area} (hready : s.store.ready = some a) : ∃ u b,
    sealInstant s = afterSave (ldgEnqueue [switchRecord u] (savePower (reportSave u))) ∧ saveOutcome u = saveOutcome s ∧
    u.store.ready = none ∧ u.store.sealed = s.store.sealed ++ [b] ∧ b.stripe = a.stripe ∧ b.log = a.log ∧
    b.sealRec.isSome = true := by
  unfold sealInstant
  rw [hready]
  dsimp only
  by_cases htried : (s.slu.sealTried / 4) % 4 = 3
  · rw [if_pos htried]
    exact ⟨_, _, rfl, rfl, rfl, rfl, rfl, rfl, rfl⟩
  · rw [if_neg htried]
    exact ⟨_, _, rfl, rfl, rfl, rfl, rfl, rfl, rfl⟩
theorem sealInstant_seals {a : Area} (hready : s.store.ready = some a) : ∃ b, (sealInstant s).store.ready = none ∧
    (sealInstant s).store.sealed = s.store.sealed ++ [b] ∧ b.stripe = a.stripe ∧ b.log = a.log ∧ b.sealRec.isSome = true ∧
      (sealInstant s).slu.lastOutcome = saveOutcome s ∧ ((sealInstant s).slu.phase = .resuming ↔ saveOutcome s = 1) := by
  obtain ⟨u, b, hrun, houtcome, hnone, hgrown, hs, hl, hsome⟩ := sealInstant_of_ready hready
  rw [hrun]
  have hwritten : (ldgEnqueue [switchRecord u] (savePower (reportSave u))).saved = (reportSave u).saved :=
    ldgKick_saved.trans savePower_saved
  generalize ldgEnqueue [switchRecord u] (savePower (reportSave u)) = w at hwritten
  obtain ⟨hstore, hlast, hphase⟩ := afterSave_ends (s := w)
  rw [saveOutcome_of_slu (slu_of_saved hwritten), saveOutcome_reportSave, houtcome] at hlast hphase
  have hreported : (reportSave u).store = u.store := rfl
  have hkept : (afterSave w).store = u.store := hstore.trans ((store_of_saved hwritten).trans hreported)
  rw [hkept]
  exact ⟨b, hnone, hgrown, hs, hl, hsome, hlast, hphase⟩
theorem saveProgramDone_seals {us : Nat} {a : Area} (hphase : s.slu.phase = .sealing) (hleft : s.slu.sealLeft = 2)
    (hready : s.store.ready = some a) : ∃ b, (saveProgramDone (.sealB us) true s).store.ready = none ∧
      (saveProgramDone (.sealB us) true s).store.sealed = s.store.sealed ++ [b] ∧ b.stripe = a.stripe ∧ b.log = a.log ∧
      b.sealRec.isSome = true ∧ (saveProgramDone (.sealB us) true s).slu.lastOutcome = saveOutcome s ∧
      ((saveProgramDone (.sealB us) true s).slu.phase = .resuming ↔ saveOutcome s = 1) := by
  obtain ⟨⟨a1, hready1, hlog, hstripe⟩, hsealed, hslu⟩ := sealDone_second (us := us) hleft hready
  have htried : ¬(s.slu.sealTried ||| 8) / 4 = 0 := by
    have h8 : 8 ≤ s.slu.sealTried ||| 8 := Nat.right_le_or
    omega
  have hrun : saveProgramDone (.sealB us) true s = sealInstant (sealDone 1 us true s) := by
    unfold saveProgramDone
    dsimp only
    rw [if_neg (not_not.2 hphase), hslu]
    exact (if_neg (not_not.2 rfl)).trans (if_neg htried)
  obtain ⟨b, hnone, hgrown, hs, hl, hsome, hlast, hend⟩ := sealInstant_seals hready1
  have houtcome : saveOutcome (sealDone 1 us true s) = saveOutcome s := by
    unfold saveOutcome
    rw [hslu]
  rw [hrun, ← houtcome, ← hsealed]
  exact ⟨b, hnone, hgrown, hs.trans hstripe, hl.trans hlog, hsome, hlast, hend⟩
end sealing
end save
end Sys2Proof.Machine

/-! # The resume of a save (chapter 06) -/
namespace Sys2Proof.Machine
section resume
variable {s t u : State} {c : Fin 16}
/-! ## READY again -/
section ready
theorem logDue_steady {code rail value detail : Nat} (h : Steady s t) : Steady s (logDue code rail value detail t) := h.same rfl
theorem pwrAtReady_steady (h : Steady s t) : Steady s (pwrAtReady t) := by
  unfold pwrAtReady
  extract_lets s1
  have h1 : Steady s s1 := Steady.foldl (fun h => State.deliver_steady h) (onPwr_steady h)
  split
  · exact h1
  · exact logDue_steady (logDue_steady (State.raise_steady (onPwr_steady h1)))
theorem reportOsc_steady (h : Steady s t) : Steady s (reportOsc t) := Steady.ite (State.raiseLim_steady (h.same rfl)) h
theorem reportAlarm_steady (h : Steady s t) : Steady s (reportAlarm t) := by
  unfold reportAlarm
  split
  · exact h
  · exact State.raiseLim_steady (h.same rfl)
theorem bkdAtReady_steady (h : Steady s t) : Steady s (bkdAtReady t) :=
  reportAlarm_steady (reportOsc_steady (Steady.ite (State.raiseLim_steady h) h))
theorem enterReady_steady : Steady (s.toDev 2) (enterReady s) := by
  unfold enterReady
  dsimp only
  have h1 : Steady (s.toDev 2) (bkdAtReady (pwrAtReady (s.toDev 2))) := bkdAtReady_steady (pwrAtReady_steady .refl)
  generalize bkdAtReady (pwrAtReady (s.toDev 2)) = s1 at h1 ⊢
  split
  · exact h1.same rfl
  · exact logDue_steady (logDue_steady (State.raise_steady (h1.same rfl)))
theorem pwrAtReady_ret : (pwrAtReady s).ret = s.ret := by
  have hheld : ∀ (es : List Event) (u : State), (es.foldl (fun s e => s.deliver e) u).ret = u.ret := fun _ _ =>
    foldl_keeps State.ret _ (fun _ _ => State.deliver_ret _ _) _ _
  unfold pwrAtReady
  dsimp only
  split
  · exact hheld _ _
  · exact (State.raise_ret _ _ _ _).trans (hheld _ _)
theorem reportOsc_ret : (reportOsc s).ret = s.ret := by
  unfold reportOsc
  split
  · exact State.raiseLim_ret _ _ _ _ _
  · rfl
theorem reportAlarm_ret : (reportAlarm s).ret = s.ret := by
  unfold reportAlarm
  split
  · rfl
  · exact State.raiseLim_ret _ _ _ _ _
theorem bkdAtReady_ret : (bkdAtReady s).ret = s.ret := by
  unfold bkdAtReady
  refine reportAlarm_ret.trans (reportOsc_ret.trans ?_)
  split
  · exact State.raiseLim_ret _ _ _ _ _
  · rfl
theorem enterReady_ret : (enterReady s).ret = s.ret := by
  have h1 : (bkdAtReady (pwrAtReady (s.toDev 2))).ret = s.ret := bkdAtReady_ret.trans (pwrAtReady_ret.trans (State.toDev_ret _ _))
  unfold enterReady
  dsimp only
  generalize bkdAtReady (pwrAtReady (s.toDev 2)) = s1 at h1 ⊢
  split
  · exact h1
  · exact (State.raise_ret _ _ _ _).trans h1
end ready
/-! ## The contexts come back IDLE or ABANDONED -/
section contexts
/-- The state in which a context that T0 found at `r` resumes, `m` being its state where T0 kept none. -/
def backMode (r : Option CtxRec) (m : CtxMode) : CtxMode := if (r.map (·.mode)).getD m = .idle then .idle else .abandoned
theorem backMode_backMode (r : Option CtxRec) (m : CtxMode) : backMode r (backMode r m) = backMode r m := by
  unfold backMode
  cases r with
  | none =>
    by_cases hm : m = .idle <;> simp [hm]
  | some x => rfl
/-- One context of `contextsBack`. -/
def contextBack (s : State) (i : Nat) : State :=
  let c := fin16 i
  let m := backMode s.slu.ctxT0[i]? (s.ctxAt c).mode
  let rel := !s.conf.split.getLsbD i
  let s1 := toMode c m (s.onCtx c fun x =>
    { x with cause := if m = .idle ∧ x.epoch ≥ terminalEpoch then x.cause else 2, released := rel })
  if rel then settingsDue c s1 else s1
theorem contextsBack_eq : contextsBack s = (List.range 16).foldl contextBack s := rfl
theorem contextBack_steady {i : Nat} (h : Steady s t) : Steady s (contextBack t i) := by
  unfold contextBack
  extract_lets c m rel s1
  have h1 : Steady s s1 := toMode_steady (State.onCtx_steady h)
  exact Steady.ite (onScanCtx_steady h1) h1
theorem contextBack_ctx {i : Nat} (k : Fin 16) : ((contextBack s i).ctxAt k).epoch = (s.ctxAt k).epoch ∧
    ((contextBack s i).ctxAt k).mode = if k = fin16 i then backMode s.slu.ctxT0[i]? (s.ctxAt k).mode else (s.ctxAt k).mode := by
  unfold contextBack
  extract_lets c m rel s1
  have hret : (if rel = true then settingsDue c s1 else s1).ret = s1.ret := by
    split <;> rfl
  obtain ⟨hother, hsame⟩ := toMode_contextOnly (c := c) (s := s.onCtx c fun x =>
    { x with cause := if m = .idle ∧ x.epoch ≥ terminalEpoch then x.cause else 2, released := rel }) m
  rw [ctxAt_of_ret hret]
  by_cases hk : k = c
  · rw [if_pos hk, hk, hsame, ctxAt_onCtx_same]
    exact ⟨rfl, rfl⟩
  · rw [if_neg hk, hother.ctx k hk, ctxAt_onCtx, if_neg hk]
    exact ⟨rfl, rfl⟩
/-- What the contexts before `i` have come to, where `s` is what the resume found. -/
theorem foldl_contextBack_ctx (is : List Nat) (his : ∀ i ∈ is, i < 16) (k : Fin 16) : ((is.foldl contextBack s).ctxAt k).epoch = (s.ctxAt k).epoch ∧
    ((is.foldl contextBack s).ctxAt k).mode =
      if k.val ∈ is then backMode s.slu.ctxT0[k.val]? (s.ctxAt k).mode else (s.ctxAt k).mode := by
  induction is generalizing s with
  | nil => exact ⟨rfl, rfl⟩
  | cons i is ih =>
    obtain ⟨hepoch, hmode⟩ := ih (s := contextBack s i) fun j hj => his j (List.mem_cons_of_mem _ hj)
    obtain ⟨hepoch1, hmode1⟩ := contextBack_ctx (s := s) (i := i) k
    have hkept : (contextBack s i).slu.ctxT0 = s.slu.ctxT0 := congrArg T0View.ctxT0 (contextBack_steady (s := s) .refl).1
    have hki : k = fin16 i ↔ k.val = i := by
      rw [Fin.ext_iff, fin16, Fin.val_ofNat, Nat.mod_eq_of_lt (his i List.mem_cons_self)]
    refine ⟨hepoch.trans hepoch1, ?_⟩
    rw [List.foldl_cons, hmode, hmode1, hkept]
    by_cases hk : k.val = i
    · rw [if_pos (hki.2 hk), if_pos (List.mem_cons.2 (.inl hk)), ← hk, backMode_backMode, ite_self]
    · simp only [hki, hk, if_false, List.mem_cons, false_or]
theorem contextsBack_ctx (k : Fin 16) : ((contextsBack s).ctxAt k).epoch = (s.ctxAt k).epoch ∧
    ((contextsBack s).ctxAt k).mode = backMode s.slu.ctxT0[k.val]? (s.ctxAt k).mode := by
  obtain ⟨hepoch, hmode⟩ := foldl_contextBack_ctx (s := s) (List.range 16) (fun i => List.mem_range.1) k
  rw [if_pos (List.mem_range.2 k.isLt)] at hmode
  exact ⟨hepoch, hmode⟩
theorem contextsBack_steady (h : Steady s t) : Steady s (contextsBack t) :=
  contextsBack_eq (s := t) ▸ Steady.foldl (fun h => contextBack_steady h) h
end contexts
/-! ## The mailboxes go down -/
section mailboxes
/-- What the halt of a mailbox leaves. -/
structure Halting (s t : State) : Prop where
  glb : t.glb = s.glb
  slu : t.slu = s.slu
  ctx : t.ret.ctx = s.ret.ctx
  segs : t.ret.segs = s.ret.segs
  windows : s.host.winDue = [] → t.host.winDue = [] ∧ t.ret.windows = s.ret.windows
  queues : ∀ q : Fin 4, s.host.mq[q].state ≠ .active → t.host.mq[q].state ≠ .active
theorem Halting.refl : Halting s s := ⟨rfl, rfl, rfl, rfl, fun h => ⟨h, rfl⟩, fun _ => id⟩
theorem Halting.trans (h : Halting s t) (h' : Halting t u) : Halting s u where
  glb := h'.glb.trans h.glb
  slu := h'.slu.trans h.slu
  ctx := h'.ctx.trans h.ctx
  segs := h'.segs.trans h.segs
  windows hdue := ⟨(h'.windows (h.windows hdue).1).1, (h'.windows (h.windows hdue).1).2.trans (h.windows hdue).2⟩
  queues q hq := h'.queues q (h.queues q hq)
theorem narrowNow_windows {sel : Fin 12 → BitVec 16 → Bool} (h : s.host.winDue = []) :
    (narrowNow sel s).host.winDue = [] ∧ (narrowNow sel s).ret.windows = s.ret.windows := by
  simp [narrowNow, h]
theorem narrowNow_mq {sel : Fin 12 → BitVec 16 → Bool} : (narrowNow sel s).host.mq = s.host.mq := rfl
theorem haltMq_queue (q k : Fin 4) (h : k = q ∨ s.host.mq[k].state ≠ .active) : (haltMq q s).host.mq[k].state ≠ .active := by
  unfold haltMq
  rw [narrowNow_mq, onMq]
  by_cases hk : k = q
  · rw [hk, vmod_same]
    exact fun h => MqState.noConfusion h
  · rw [vmod_other _ _ _ _ (Ne.symm hk)]
    exact h.resolve_left hk
theorem haltMq_halting (q : Fin 4) : Halting s (haltMq q s) :=
  ⟨rfl, rfl, rfl, rfl, fun h => narrowNow_windows h, fun k hk => haltMq_queue q k (.inr hk)⟩
theorem foldl_haltMq (qs : List (Fin 4)) : Halting s (qs.foldl (fun s q => haltMq q s) s) ∧
    ∀ q ∈ qs, (qs.foldl (fun s q => haltMq q s) s).host.mq[q].state ≠ .active := by
  induction qs generalizing s with
  | nil => exact ⟨.refl, fun q hq => absurd hq List.not_mem_nil⟩
  | cons q qs ih =>
    obtain ⟨hrest, hoff⟩ := ih (s := haltMq q s)
    refine ⟨(haltMq_halting q).trans hrest, fun k hk => ?_⟩
    rcases List.mem_cons.1 hk with rfl | hk
    · exact hrest.queues k (haltMq_queue k k (.inl rfl))
    · exact hoff k hk
end mailboxes
/-! ## What was running runs again -/
section units
theorem tribBegin_ret {n : Fin 12} : (tribBegin n s).ret = s.ret := rfl
theorem seqAgain_ret {n : Fin 12} : (seqAgain n s).ret = s.ret := rfl
theorem linkClear_ret {l : LinkId} {st : LinkSt} : (linkClear l st s).ret = s.ret := by
  cases l <;> rfl
theorem restartUnit_ret {i : Nat} : (restartUnit i s).ret = s.ret := by
  unfold restartUnit
  dsimp only
  split
  · rfl
  · have h1 : ∀ u : Fin 50, ((s.setLife u .stopped).toLife u .running).ret = s.ret := fun u => State.toLife_ret _ _ _
    split
    · exact h1 _
    · exact (foldl_keeps State.ret _ (fun _ _ => resyncAll_ret _ _) _ _).trans (h1 _)
    · exact h1 _
    · exact tribBegin_ret.trans (h1 _)
    · exact seqAgain_ret.trans (h1 _)
    · exact linkClear_ret.trans (h1 _)
    · exact linkClear_ret.trans (h1 _)
theorem writeRootWith_ringWork {p : Option Nat} : RingWork s (writeRootWith p s) := by
  unfold writeRootWith
  extract_lets s1 r i
  have hroom : RingWork s s1 := .ite rotateRings_ringWork .refl
  by_cases hnone : s1.store.ring.a = 0
  · rw [if_pos hnone]
    exact hroom
  · rw [if_neg hnone]
    exact hroom.trans ((ringPages_ringWork (s := s1) (pages := [rootPage r])).trans
      (.onStore fun _ => ⟨rfl, rfl, rfl, rfl, rfl, rfl, rfl, rfl⟩))
theorem tableChanged_ringWork : RingWork s (tableChanged s) := by
  have hdue : ∀ (b : Bool) (st : Store), StoreKept st { st with tableDue := b } := fun _ _ => ⟨rfl, rfl, rfl, rfl, rfl, rfl, rfl, rfl⟩
  unfold tableChanged
  exact .ite .refl (.ite (.onStore (hdue true))
    (writeRootWith_ringWork.after ((RingWork.onStore (hdue false)).after ringPages_ringWork)))
theorem storeBack_ret : (storeBack s).ret = s.ret := by
  unfold storeBack
  extract_lets s1 s2
  have h1 : RingWork s s1 := .ite .refl writeRoot_ringWork
  have h2 : RingWork s s2 := .ite (tableChanged_ringWork.after h1) h1
  exact (issueAll_ringWork.after (RingWork.ite (rotateRings_ringWork.after h2) h2)).ret
/-- A unit that was draining at T0 stops. -/
def stopDrained (s : State) (i : Nat) : State :=
  let u : Fin 50 := Fin.ofNat 50 i
  let l := s.life[u].life
  if l = .faulted ∨ l = .off then s else s.toLife u .stopped
theorem stopDrained_steady {i : Nat} (h : Steady s t) : Steady s (stopDrained t i) := Steady.ite h (State.toLife_steady h)
theorem stopDrained_ret {i : Nat} : (stopDrained s i).ret = s.ret := by
  unfold stopDrained
  dsimp only
  split
  · rfl
  · exact State.toLife_ret _ _ _
/-- The units of a resume, once its mailboxes are down. -/
def unitsBack (s : State) : State :=
  let s5 := s.slu.runAtT0.foldl (fun s i => restartUnit i s) s
  mapRails (fun x => { x with mode := if x.mode = .faulted ∧ x.enPin then .out else x.mode }) (s5.slu.drainAtT0.foldl stopDrained s5)
theorem unitsBack_steady : Steady s (unitsBack s) :=
  mapRails_steady (Steady.foldl (fun h => stopDrained_steady h) (Steady.foldl (fun h => restartUnit_steady h) .refl))
theorem unitsBack_ret : (unitsBack s).ret = s.ret := by
  unfold unitsBack
  extract_lets s5
  have h5 : s5.ret = s.ret := foldl_keeps State.ret _ (fun _ _ => restartUnit_ret) _ _
  have h6 : (s5.slu.drainAtT0.foldl stopDrained s5).ret = s5.ret := foldl_keeps State.ret _ (fun _ _ => stopDrained_ret) _ _
  exact h6.trans h5
end units
/-! ## The resume -/
section done
/-- The resume begins: the save engine is idle again. -/
def resumeBegun (s : State) : State :=
  let s1 := onSlu s fun x => { x with phase := .idle, pfail := false, streaming := !x.restoreDone && !x.todo.isEmpty }
  { s1 with glb := { s1.glb with resumed := true } }
/-- The mailboxes are down, and READY is reached. -/
def queuesDown (s : State) : State := [(0 : Fin 4), 1, 2, 3].foldl (fun s q => haltMq q s) (contextsBack (enterReady s))
/-- The resume is told, where it sealed an area. -/
def resumeTold (s : State) : State :=
  match (if s.slu.noArea then none else some s.store.gen) with
  | some g => (unitsBack (queuesDown (resumeBegun s))).raise 0x0611 0 [(16, g)]
  | none => unitsBack (queuesDown (resumeBegun s))
theorem resumeReady_eq (h : s.slu.phase = .resuming) : ∃ f : Slu → Slu, (∀ x, (f x).phase = x.phase ∧ (f x).pfail = x.pfail) ∧
    resumeReady s = storeBack (onSlu (resumeTold s) f) := by
  refine ⟨fun x => { x with pending := x.held, askedAt := s.now, held := none, runAtT0 := [], drainAtT0 := [] }, fun _ => ⟨rfl, rfl⟩, ?_⟩
  unfold resumeReady resumeTold
  rw [if_neg (not_not.2 h)]
  rfl
theorem resumeTold_ret : (resumeTold s).ret = (queuesDown (resumeBegun s)).ret := by
  unfold resumeTold
  split
  · exact (State.raise_ret _ _ _ _).trans unitsBack_ret
  · exact unitsBack_ret
theorem resumeTold_steady : Steady (queuesDown (resumeBegun s)) (resumeTold s) := by
  unfold resumeTold
  split
  · exact State.raise_steady unitsBack_steady
  · exact unitsBack_steady
theorem queuesDown_view : (queuesDown s).glb.state = 2 ∧ (queuesDown s).slu.phase = s.slu.phase ∧ (queuesDown s).slu.pfail = s.slu.pfail ∧
    (∀ q : Fin 4, (queuesDown s).host.mq[q].state ≠ .active) ∧ (queuesDown s).ret.segs = s.ret.segs ∧
    (s.host.winDue = [] → (queuesDown s).ret.windows = s.ret.windows) := by
  have hready : Steady (s.toDev 2) (contextsBack (enterReady s)) := contextsBack_steady enterReady_steady
  have hview := hready.1.trans toDev_view
  unfold queuesDown
  generalize contextsBack (enterReady s) = u at hview
  obtain ⟨hhalt, hoff⟩ := foldl_haltMq (s := u) [(0 : Fin 4), 1, 2, 3]
  rw [hhalt.glb, hhalt.slu, hhalt.segs]
  refine ⟨congrArg T0View.dev hview, congrArg T0View.phase hview, congrArg T0View.pfail hview, fun q => hoff q ?_,
    congrArg T0View.segs hview, fun hdue => ?_⟩
  · fin_cases q <;> decide
  · exact (hhalt.windows ((congrArg T0View.winDue hview).trans hdue)).2.trans (congrArg T0View.windows hview)
theorem queuesDown_ctx (c : Fin 16) : ((queuesDown s).ctxAt c).epoch = (s.ctxAt c).epoch ∧
    ((queuesDown s).ctxAt c).mode = backMode s.slu.ctxT0[c.val]? (s.ctxAt c).mode := by
  have hkept : (enterReady s).slu.ctxT0 = s.slu.ctxT0 :=
    congrArg T0View.ctxT0 ((enterReady_steady (s := s)).1.trans toDev_view)
  obtain ⟨hepoch, hmode⟩ := contextsBack_ctx (s := enterReady s) c
  rw [hkept] at hmode
  have hctx : (queuesDown s).ctxAt c = (contextsBack (enterReady s)).ctxAt c := ctxAt_congr (foldl_haltMq _).1.ctx c
  rw [hctx, hepoch, hmode, ctxAt_of_ret enterReady_ret]
  exact ⟨rfl, rfl⟩
theorem settleWeir_ctx (c : Fin 16) : ((settleWeir s).ctxAt c).epoch = (s.ctxAt c).epoch ∧ ((settleWeir s).ctxAt c).mode = (s.ctxAt c).mode := by
  obtain ⟨w, cs, hret, hctx⟩ := settleWeir_weirOnly s
  obtain ⟨b, hb⟩ := hctx c
  have hc : (settleWeir s).ctxAt c = { s.ctxAt c with warned := b } := by
    rw [State.ctxAt, hret]
    exact hb
  rw [hc]
  exact ⟨rfl, rfl⟩
theorem resumeReady_resumes (h : s.slu.phase = .resuming) {t : State} (ht : t = settleWeir (resumeReady s)) : t.glb.state = 2 ∧
    t.slu.phase = .idle ∧ t.slu.pfail = false ∧ (∀ q : Fin 4, t.host.mq[q].state ≠ .active) ∧ t.ret.segs = s.ret.segs ∧
    (s.host.winDue = [] → t.ret.windows = s.ret.windows) ∧ ∀ c : Fin 16, (t.ctxAt c).epoch = (s.ctxAt c).epoch ∧
      (t.ctxAt c).mode = (if ((s.slu.ctxT0[c.val]?).map (·.mode)).getD (s.ctxAt c).mode = .idle then .idle else .abandoned) := by
  obtain ⟨f, hf, hrun⟩ := resumeReady_eq h
  obtain ⟨hdev, hphase, hpfail, hqueues, hsegs, hwindows⟩ := queuesDown_view (s := resumeBegun s)
  have hctx := queuesDown_ctx (s := resumeBegun s)
  have htold : Steady (queuesDown (resumeBegun s)) (resumeTold s) := resumeTold_steady
  have hret : (resumeTold s).ret = (queuesDown (resumeBegun s)).ret := resumeTold_ret
  generalize queuesDown (resumeBegun s) = w at hdev hphase hpfail hqueues hsegs hwindows hctx htold hret
  generalize resumeTold s = v at htold hret hrun
  have hback : t.t0View = (onSlu v f).t0View := by
    rw [ht, hrun]
    exact (settleWeir_steady (storeBack_steady .refl)).1
  have hstored : (storeBack (onSlu v f)).ret = w.ret := storeBack_ret.trans hret
  obtain ⟨hfphase, hfpfail⟩ := hf v.slu
  refine ⟨?_, ?_, ?_, fun q => ?_, ?_, fun hdue => ?_, fun c => ?_⟩
  · exact (congrArg T0View.dev hback).trans ((congrArg T0View.dev htold.1).trans hdev)
  · exact (congrArg T0View.phase hback).trans (hfphase.trans ((congrArg T0View.phase htold.1).trans hphase))
  · exact (congrArg T0View.pfail hback).trans (hfpfail.trans ((congrArg T0View.pfail htold.1).trans hpfail))
  · have hstate : t.host.mq[q].state = w.host.mq[q].state :=
      (congrFun (congrArg T0View.queues hback) q).trans (congrFun (congrArg T0View.queues htold.1) q)
    exact hstate ▸ hqueues q
  · exact (congrArg T0View.segs hback).trans ((congrArg T0View.segs htold.1).trans hsegs)
  · exact (congrArg T0View.windows hback).trans ((congrArg T0View.windows htold.1).trans (hwindows hdue))
  · obtain ⟨hepoch, hmode⟩ := settleWeir_ctx (s := storeBack (onSlu v f)) c
    rw [ht, hrun, hepoch, hmode, ctxAt_of_ret hstored]
    exact hctx c
end done
end resume
/-- Settles O26: cause by cause, then from T0 to the resume. -/
theorem saveWork : Obligations.SaveWork := by
  refine ⟨fun s hcore hstate hfree => ⟨fun mv hlow => ?_, ?_, fun hpfail => ?_, ?_, fun b => ?_⟩, fun s => rfl,
    fun c s hpending hidle hboot hsaving => ⟨_, rfl, saveT0_starts hpending hidle hboot hsaving rfl⟩,
    fun a s hphase hwrites hresolving hready => ⟨_, rfl, quiesceDone_saves hphase hwrites hresolving hready rfl⟩,
    fun a us s hphase hready => ?_, fun a us s hphase hleft hready => ?_, fun s hphase => ?_,
    fun s hphase => ⟨_, rfl, resumeReady_resumes hphase rfl⟩⟩
  · exact congrArg Host.Outcome.next (vinTrip_asks hcore hstate hfree hlow)
  · exact congrArg Host.Outcome.next
      (askSave_of_running (s := onSlu s fun x => { x with inputGood := false }) hcore hstate hfree)
  · exact congrArg Host.Outcome.next ((if_neg (ne_true_of_eq_false hpfail)).trans (askSave_of_running hcore hstate hfree))
  · exact congrArg Host.Outcome.next (refclkLoss_asks hcore hstate hfree)
  · exact ⟨_, rfl, internalUe_halts hcore hstate hfree⟩
  · obtain ⟨⟨b, hb, hlog⟩, hdram⟩ := saveProgramDone_logs (us := us) hphase hready
    refine ⟨settleWeir (saveProgramDone (.log us) true s), b, rfl, ?_⟩
    rw [settleWeir_store, settleWeir_dram]
    exact ⟨hb, hlog, hdram⟩
  · obtain ⟨b, hnone, hgrown, hs, hl, hsome, hlast, hend⟩ := saveProgramDone_seals (us := us) hphase hleft hready
    refine ⟨settleWeir (saveProgramDone (.sealB us) true s), b, rfl, ?_⟩
    rw [settleWeir_store, settleWeir_slu]
    exact ⟨hnone, hgrown, hs, hl, hsome, hlast, hend⟩
  · refine ⟨settleWeir (saveBankFloor s), rfl, ?_⟩
    rw [settleWeir_store, settleWeir_slu, saveBankFloor_unseals hphase]
    exact saveUnsealed_ends
end Sys2Proof.Machine
